-- ==== Sys2Proof/Word.lean ====
section
/-! DEFINITION. The word types of the device and nothing else: 32-bit registers (R193), 64-bit fields,
bytes, and the 128-byte line that every cache and buffer of the part moves (R247, R251). -/

namespace Sys2Proof

/-- A 32-bit register or register field. -/
abbrev Word := BitVec 32

/-- A 64-bit register, descriptor field or counter. -/
abbrev DWord := BitVec 64

/-- One byte of memory. -/
abbrev Byte := BitVec 8

/-- The 128 bytes of a line; byte k is bits [8k+7 : 8k] (R11). -/
abbrev Line := BitVec 1024

/-- One bit per byte of a line. -/
abbrev LineMask := BitVec 128

/-- One bit per lane of a thread group (R156). -/
abbrev Lanes := BitVec 32

end Sys2Proof
end

