-- ==== Sys2Proof/Config.lean ====
section
/-! DEFINITION. What a part fixes at manufacture (R3, Table 0.1) and the free values: the constants without a
body that stand for every value the spec leaves open. -/

namespace Sys2Proof

/-- The four variants of Table 0.1. -/
inductive Variant
  | gbl8 | gbl4 | gbl2 | gbl4l
  deriving DecidableEq, Repr

namespace Config

/-- CAP_ID.VARIANT (Table 0.2). -/
def variantCode : Variant → Nat
  | .gbl8 => 0 | .gbl4 => 1 | .gbl2 => 2 | .gbl4l => 3

/-- Compute dies (Table 0.1). -/
def dies : Variant → Nat
  | .gbl8 => 8 | .gbl4 => 4 | .gbl2 => 2 | .gbl4l => 4

/-- Regions, four per die (R20). -/
def regions (v : Variant) : Nat := 4 * dies v

/-- Clusters, six per region (R20). -/
def clusters (v : Variant) : Nat := 24 * dies v

/-- Cores, 48 per region (R20). -/
def cores (v : Variant) : Nat := 192 * dies v

/-- HBM4 stacks, two per die (Table 0.1). -/
def hbmStacks (v : Variant) : Nat := 2 * dies v

/-- Memory controllers, eight per die (R278). -/
def controllers (v : Variant) : Nat := 8 * dies v

/-- Spatial partitions and half-region granules (Table 0.1, R17). -/
def partitions (v : Variant) : Nat := 8 * dies v

/-- Bytes of stacked memory, 64 GiB a stack (Table 0.1). -/
def memoryBytes (v : Variant) : Nat := hbmStacks v * 2 ^ 36

/-- Whether the five optional units are fused in (Table 0.1): they are absent on the GBL-4L only. -/
def optionalUnits : Variant → Bool
  | .gbl4l => false
  | _ => true

/-- Whether global link port `p` is bonded (R28): five a die, and on the GBL-4L local ports 0 and 1 only. -/
def portBonded (v : Variant) (p : Nat) : Bool :=
  decide (p < 5 * dies v) && (optionalUnits v || decide (p % 5 < 2))

/-- The two ports of the twin port (Table 1.4). -/
def twinPorts (v : Variant) : List Nat := [4, 5 * dies v - 1]

/-- The last die (R37). -/
def lastDie (v : Variant) : Nat := dies v - 1

/-- Stepping A1 and the capability revision (R4). -/
def stepping : Nat := 0x11
/-- CAP_ID.ARCH (R4). -/
def archRev : Nat := 1

/-! ### Free values

Each constant below has no body: nothing can be proved of what it answers. A statement about a state that
holds one therefore holds for every value. -/

/-- DESIGN CHOICE (log entry 11). What register or shared-local-memory word `key` holds when a block starts on a
core that was not cleared: "either zero or values left by earlier blocks of the same tenant" (R161). -/
opaque startWord : (tenant birth key : Nat) → Word

/-- DESIGN CHOICE (log entry 12). A shift of a 32-bit value by 32 or more: the spec gives SHL and SHR no result. -/
opaque wideShift : (value amount : Word) → Word

/-- DESIGN CHOICE (log entry 13). A floating value outside the range of a wide integer target, or a NaN: IEEE
754 (R99) names no result. Arguments: the target's code and the source bits. -/
opaque cvtInvalid : (target : Nat) → DWord → DWord

/-- DESIGN CHOICE (log entry 2). The `n`-th value of a run that the spec leaves open and that depends on nothing
named. -/
opaque fresh : Nat → DWord

/-- DESIGN CHOICE (log entry 154). The 16 bytes that follow the header of an ATOMIC, as a number: R324 names an operation, an
order and up to two 8-byte operands, which 16 bytes do not hold, and gives no layout. -/
opaque atomBody : (op order b c : Nat) → BitVec 128

/-- DESIGN CHOICE (log entry 154). How a flit's body spells a credit return (R323). -/
opaque creditWire : (key units : Nat) → BitVec 16

/-- DESIGN CHOICE (log entry 150). The data symbols of a marker codeword by its count and their place (R318). -/
opaque markerSym : (count k : Nat) → Nat

/-- DESIGN CHOICE (log entry 33). How the host completes a read made in one step: 1 an error (R532), 2 poisoned, any
other number the data. -/
opaque hostAnswer : (addr ctr : Nat) → Nat

/-- DESIGN CHOICE (log entry 37). Whether a copy that stops has still copied line `i`: "The lines already written stay
written, and which lines they are is unspecified" (R336). -/
opaque copiedLine : (ctr i : Nat) → Bool

/-- DESIGN CHOICE (log entry 14). Byte `i` of the contents of SPDM messages, digests, signatures and certificates,
whose formats the spec takes from outside (R444): arguments name what is asked, the state that measurements 3 to 5 cover, and
the state's count. -/
opaque spdmByte : (what : Nat) → (measured : List Nat) → (ctr i : Nat) → Byte

/-- DESIGN CHOICE (log entry 14). Length of those contents. -/
opaque spdmLen : (what : Nat) → (measured : List Nat) → (ctr : Nat) → Nat

/-- DESIGN CHOICE (log entry 14). The security version that a firmware image states (R445): the spec gives the image no
format. -/
opaque firmwareSvn : List Byte → Nat

/-- DESIGN CHOICE (log entry 14). Whether a signature over a firmware image or a native image holds, as the
part's keys decide (R445). -/
opaque signatureOk : List Byte → Bool

/-- DESIGN CHOICE (log entry 40). The verifier's finding on a native image with its line map and resource record (R208),
whose encodings the spec does not give: 1 to 7 is the first item of R208 that fails, item 4 apart, any other number an
acceptance. -/
opaque imageVerdict : (image map res : List Byte) → Nat

/-- DESIGN CHOICE (log entry 40). The native offset that a load names which fails by an item of R208 (R209). -/
opaque imageFault : (image map res : List Byte) → (item : Nat) → Nat

/-- DESIGN CHOICE (log entry 40). Kernels of an accepted image. -/
opaque imageKernels : (image map res : List Byte) → Nat

/-- LIMIT of the current limiter in amperes (Table 16.2). The carrier measures the current: a LIMITER_TRIP is its finding that the
current has exceeded LIMIT for 2 µs, a LIMITER_RELEASE that it has stayed below 0.9 × LIMIT for 200 µs (R454). -/
def limitAmps : Variant → Nat
  | .gbl8 => 81
  | .gbl4 => 43
  | .gbl2 => 23
  | .gbl4l => 41

/-- DESIGN CHOICE (log entry 40). Fields of a kernel of an accepted image: 0 registers per thread, 1 shared local memory in
KiB, 2 largest block, 3 entry offset, 4 the optional units that it needs, numbered as the bits of CAP_UNITS (R206), 5 the
block's threads where they are constant in the code object, else 0 (R160), 6 and 7 the native offset at which the code of the
kernel's variant 66 and of its variant 67 ends (R206). -/
opaque kernelField : (image map res : List Byte) → (kernel field : Nat) → Nat

/-- DESIGN CHOICE (log entry 40). The line map of a kernel's variant 66, Lysril offset and native offset, its reconvergence
points (first components), its register map, %v number and native register (R217), and the line map of its variant 67
(R206), by `which` 0 to 3. Native offsets count in the image's code object, which holds both variants. -/
opaque kernelList : (image map res : List Byte) → (kernel which : Nat) → List (Nat × Nat)

/-- DESIGN CHOICE (log entry 41). Where a core's save area starts within its region's firmware set (R392): the spec names
the set and the size. -/
opaque saveAreaOffset : (core : Nat) → Nat

/-- DESIGN CHOICE (log entry 45). Spare macros of the unit at a place (Table 17.3, kind 3): the spec gives no count. -/
opaque spareMacros : (place : Nat) → Nat

/-- DESIGN CHOICE (log entry 22). Whether MIN and MAX of ATOM compare as signed: the spec names no signedness. -/
opaque atomicSigned : Bool

/-- DESIGN CHOICE (log entry 24). Whether a scan takes in the lane's own value. -/
opaque scanInclusive : Bool

/-- DESIGN CHOICE (log entry 24). The FP32 sum of more than two lanes, whose order the spec does not state. -/
opaque gredSum : List Word → Word

/-- DESIGN CHOICE (log entry 24). What SHFL gives for a lane number above 31. -/
opaque shflBeyond : (index value : Word) → Word

end Config

end Sys2Proof
end

