-- ==== Sys2Proof/Syntax.lean ====
section
/-! DEFINITION. The commands of the block: one constructor of `Instr` per row of the opcode table. The table
gives no operands; an operand here is what the step carries from outside and the state does not hold (DESIGN
CHOICE, log entry 10). -/

namespace Sys2Proof

/-! ### Operands of Lysril instructions (spec chapter 07) -/

/-- An operand by its kind (R191): a thread register, a uniform register, a predicate, a tile handle, an immediate
held in an extension word, or none. A 64-bit register operand names the even register of a pair. -/
inductive Opd
  | v (n : Nat)
  | u (n : Nat)
  | p (n : Nat)
  | t (n : Nat)
  | imm (x : DWord)
  | none
  deriving DecidableEq, Repr

/-- Which group issues, its guard (R190, R192) and the instruction's count of extension words. -/
structure Iss where
  /-- core index (R34) -/
  core : Nat
  /-- residency slot of the group on the core (R163) -/
  slot : Nat
  /-- GE: the instruction is guarded -/
  guarded : Bool
  /-- GN: the guard is negated -/
  negated : Bool
  /-- GP: the guard predicate -/
  guard : Nat
  /-- NX: extension words -/
  nx : Nat
  deriving DecidableEq, Repr

/-- Types of the vector lanes' 32-bit operations. -/
inductive LaneTy
  | s32 | u32 | f32
  deriving DecidableEq, Repr

/-- Rounding named by a lane instruction (R89). -/
inductive LaneRnd
  | rne | rz | ru | rd | sr
  deriving DecidableEq, Repr

/-- Comparisons of SETP. -/
inductive Cmp
  | eq | ne | lt | le | gt | ge
  deriving DecidableEq, Repr

/-- Types that CVT converts between (R99, R166, R97's plain FP8). -/
inductive CvtTy
  | f32 | f64 | bf16 | f16 | e4m3 | e5m2 | s32 | u32 | s64 | u64 | int8 | int4
  deriving DecidableEq, Repr

/-- Operations of the FP64 pipe: "the same operations with .F64" (Table 7.5). -/
inductive F64Op
  | add | sub | mul | fma | min | max | setp (c : Cmp) | mov | sel
  deriving DecidableEq, Repr

/-- The special values of Table 7.4. -/
inductive Special
  | lane | group | block | nblocks | targs | vrefRd (n : Nat) | vrefWr (n : Nat) | core
  deriving DecidableEq, Repr

/-- Source of MOV. -/
inductive MovSrc
  | opd (o : Opd)
  | special (s : Special)
  deriving DecidableEq, Repr

/-- Cache hints (R199). -/
inductive Hint
  | plain | stream | keep | dal
  deriving DecidableEq, Repr

/-- Scopes (R199, Table 8.2). -/
inductive Scope
  | group | block | device | system
  deriving DecidableEq, Repr

/-- Order of an atomic (R199). -/
inductive MemOrder
  | none | acq | rel
  deriving DecidableEq, Repr

/-- Atomic operations (R199). -/
inductive AtomOp
  | add | min | max | and | or | xor | cas | exch | fadd
  deriving DecidableEq, Repr

/-- Word 1 of a memory instruction (R199): size log2 0 to 4, space, hint, scope, order, operation. -/
structure MemQ where
  size : Nat
  slm : Bool
  hint : Hint
  scope : Scope
  order : MemOrder
  op : AtomOp
  deriving DecidableEq, Repr

/-- Saturation mode field (Table 7.6): default, .SAT, .NOSAT. -/
inductive SatMode
  | default | sat | nosat
  deriving DecidableEq, Repr

/-- A number given as an immediate or read from a uniform register at issue. -/
inductive ImmU
  | imm (x : Nat)
  | u (n : Nat)
  deriving DecidableEq, Repr

/-- MMA's qualifier word (Table 7.6), handles and extension words (Table 7.7). -/
structure MmaOp where
  dt : Nat
  st : Nat
  tu : Nat
  ct : Option Nat
  sFmt : Nat
  tFmt : Nat
  oFmt : Nat
  sAttr : Nat
  tAttr : Nat
  transposed : Bool
  sr : Bool
  sat : SatMode
  part : Bool
  esc : Bool
  outl : Bool
  outlStream : Bool
  amax : Bool
  epi : Bool
  epiJob : Nat
  epiZ : Bool
  epiFr : Bool
  /-- SHAPE [25:0]: N, D, K -/
  shape : ImmU
  /-- VORG; with a register, KORG is in the next one -/
  vorg : ImmU
  korg : Nat
  beta : ImmU
  k0 : Nat
  featOrg : Nat
  rowOrg : Nat
  deriving DecidableEq, Repr

/-- Word 1 of CVT.BLK (R204). -/
structure CvtBlk where
  fmt : Nat
  attr : Nat
  /-- source type: 0 F32, 1 BF16, 2 F16 -/
  src : Nat
  sr : Bool
  sat : SatMode
  q : Bool
  ds : Bool
  /-- %v source register -/
  v : Nat
  /-- uniform pair with the destination descriptor's address -/
  du : Nat
  blk : ImmU
  deriving DecidableEq, Repr

/-- Host-memory bytes that the host wrote before this command: (address, byte). R239 orders them before it. -/
abbrev Posted := List (Nat × BitVec 8)

/-- A Springbok link message (Tables 11.5 and 11.6). -/
structure LinkMsg where
  type : Nat
  hop : Nat := 0
  vc : Nat := 0
  src : Nat := 0
  dst : Nat := 0
  poison : Bool := false
  err : Nat := 0
  tag : Nat := 0
  size : Nat := 0
  tenant : Nat := 0
  line : Nat := 0
  offset : Nat := 0
  mask : LineMask := 0
  data : Line := 0
  op : AtomOp := .add
  order : MemOrder := .none
  b : DWord := 0
  c : DWord := 0
  body : List Byte := []
  deriving DecidableEq, Repr

/-- What a run read finds on its pins (R290, R297, R298): for each of its four sectors, the symbols, 0 to 71, that differ from
what is stored. -/
structure EccIn where
  errs : List (List Nat) := []
  deriving DecidableEq, Repr

/-- What the hardware finds during initialisation (Table 16.4), which the state does not hold. -/
structure BootIn where
  /-- self-test failures (R481), of kinds 2 and 3, and pins that fail in training, of kind 6: kind, place, detail -/
  selfTest : List (Nat × Nat × Nat) := []
  /-- die-to-die links whose spare lanes cannot cover their failed lanes (R315) -/
  d2dFailed : List Nat := []
  /-- redundant lanes that the initialisation of a die-to-die link takes: link, lanes (R312, R315) -/
  d2dRepaired : List (Nat × Nat) := []
  /-- post-package repairs that succeeded (R306): positions in the lasting-fault list -/
  repaired : List Nat := []
  /-- lanes that training repaired with a spare: controller, pseudo-channel, pin -/
  laneSpared : List (Nat × Nat × Nat) := []
  /-- stacks whose identification data do not match Table 10.1, read at a cold reset (R302) -/
  stackBad : List Nat := []
  /-- both flash copies of these list entries are bad (R486) -/
  flashBad : List Nat := []
  /-- WFLUSH_OFF is high when PGOOD rises (R556) -/
  wflush : Bool := true
  /-- the pending image reached the end of device initialisation (R445) -/
  bootOk : Bool := true
  deriving DecidableEq, Repr

/-- Where an error arises (Table 17.1). -/
inductive ErrSite
  /-- a word of a group: core, slot, 0 register 1 uniform 2 predicate 3 handle, key -/
  | word (core slot file key : Nat)
  /-- a word of a block's shared local memory: core, block, word -/
  | slm (core block word : Nat)
  /-- an L1 line: core, key -/
  | l1 (core key : Nat)
  /-- a write-buffer entry: core, number -/
  | wb (core entry : Nat)
  /-- a line of an instruction store or translated-code cache: core, line -/
  | istore (core image variant line : Nat)
  /-- a turn slot: cluster, slot -/
  | turn (cluster slot : Nat)
  /-- an epilogue job: cluster, context -/
  | epi (cluster ctx : Nat)
  /-- a slice line: region, key -/
  | slice (region key : Nat)
  /-- a line of a stash entry: region, entry, line -/
  | stash (region entry line : Nat)
  /-- tags of a slice -/
  | sliceTag (region : Nat)
  /-- a side-buffer entry: region, line address -/
  | side (region pa : Nat)
  /-- a node in the bench, a range-maintenance engine or a copy engine -/
  | engine (node : Nat)
  /-- a die's parking unit, or a saved context of a core -/
  | parking (die : Nat)
  | saveArea (core : Nat)
  /-- the front end, graph scheduler, flags, verifier, referee or mirror store -/
  | front
  /-- the management controller's memory -/
  | mgmt
  /-- fabric data on its way to a line, and fabric control -/
  | fabricData (pa : Nat)
  | fabricCtl
  /-- a sector of memory: controller, sector number, and the symbols that differ from what is stored (R297) -/
  | memory (ctl sector : Nat) (syms : List Nat)
  /-- a Springbok lane, a die-to-die link -/
  | lane (port lane : Nat)
  | d2d (link : Nat)
  /-- an array row: core, row -/
  | array (core row : Nat)
  /-- a memory pin: controller, pseudo-channel, pin -/
  | pin (ctl pc pin : Nat)
  deriving DecidableEq, Repr

/-- What the partner of a twin port reports of itself in EXCHANGE when it is in twin mode (R487): its CAP_ID, and how many virtual
functions it has enabled. -/
structure TwinInfo where
  capId : Nat
  vfs : Nat
  deriving DecidableEq, Repr

/-- A resource of Table 17.3: kind, place, detail. -/
structure Resource where
  kind : Nat
  place : Nat
  detail : Nat
  deriving DecidableEq, Repr

/-- A block of the power and clock rules (R451, R456): its kind (0 core, 1 cluster, 2 slice with its region fabric, 3 die
fabric, 4 memory controller, 5 aggregator) and number. -/
structure PowerBlock where
  kind : Nat
  ix : Nat
  deriving DecidableEq, Repr

/-- The commands: one constructor per row of the opcode table, in the table's order. -/
inductive Instr
  /-- ADD. Vector integer or FP32 add of each active lane, correctly rounded for floating types. -/
  | add (i : Iss) (ty : LaneTy) (r : LaneRnd) (d a b : Opd)
  /-- SUB. Vector integer or FP32 subtract of each active lane. -/
  | sub (i : Iss) (ty : LaneTy) (r : LaneRnd) (d a b : Opd)
  /-- MUL. Vector integer or FP32 multiply of each active lane. -/
  | mul (i : Iss) (ty : LaneTy) (r : LaneRnd) (d a b : Opd)
  /-- FMA. Vector FP32 fused multiply-add, rounded once in the named mode. -/
  | fma (i : Iss) (r : LaneRnd) (d a b c : Opd)
  /-- MAD_S32. Vector 32-bit integer multiply-add, occupying its pipe for two cycles. -/
  | madS32 (i : Iss) (d a b c : Opd)
  /-- MIN. Vector minimum, returning the number when one operand is NaN. -/
  | min (i : Iss) (ty : LaneTy) (d a b : Opd)
  /-- MAX. Vector maximum, returning the number when one operand is NaN. -/
  | max (i : Iss) (ty : LaneTy) (d a b : Opd)
  /-- SETP. Vector compare that writes a predicate per lane. -/
  | setp (i : Iss) (ty : LaneTy) (cmp : Cmp) (d a b : Opd)
  /-- AND. Vector bitwise AND. -/
  | and (i : Iss) (d a b : Opd)
  /-- OR. Vector bitwise OR. -/
  | or (i : Iss) (d a b : Opd)
  /-- XOR. Vector bitwise XOR. -/
  | xor (i : Iss) (d a b : Opd)
  /-- SHL. Vector shift left. -/
  | shl (i : Iss) (d a b : Opd)
  /-- SHR. Vector shift right. -/
  | shr (i : Iss) (ty : LaneTy) (d a b : Opd)
  /-- CVT. Scalar conversion between FP32, FP64, BF16, FP16, FP8 and integer types. -/
  | cvt (i : Iss) (dty sty : CvtTy) (r : LaneRnd) (sat : SatMode) (d a : Opd)
  /-- MOV. Register move, including reads of the special values of a kernel. -/
  | mov (i : Iss) (d : Opd) (src : MovSrc)
  /-- SEL. Vector select by predicate. -/
  | sel (i : Iss) (d a b p : Opd)
  /-- F64_OP. An FP64 vector operation on the FP64 pipe, or handling as an absent unit when FP64 lanes are absent. -/
  | f64Op (i : Iss) (op : F64Op) (r : LaneRnd) (d a b c : Opd)
  /-- EXP_F32. Correctly rounded e to the x in FP32. -/
  | expF32 (i : Iss) (d a : Opd)
  /-- EXP2_F32. Correctly rounded 2 to the x in FP32. -/
  | exp2F32 (i : Iss) (d a : Opd)
  /-- LOG2_F32. Correctly rounded log2 in FP32. -/
  | log2F32 (i : Iss) (d a : Opd)
  /-- RCP_F32. Correctly rounded reciprocal in FP32. -/
  | rcpF32 (i : Iss) (d a : Opd)
  /-- RSQ_F32. Correctly rounded reciprocal square root in FP32. -/
  | rsqF32 (i : Iss) (d a : Opd)
  /-- SQRT_F32. Correctly rounded square root in FP32. -/
  | sqrtF32 (i : Iss) (d a : Opd)
  /-- CVT_BLK. Converts one block from lane sources into a block format, writing elements, scale and optional quality entry. -/
  | cvtBlk (i : Iss) (w : CvtBlk)
  /-- PREPASS_COMPLETE. The aggregator finishes reading the extent, writes SCALE, sets STATE READY and releases waiting conversions, products and commits. -/
  | prepassComplete (region tenant record : Nat)
  /-- LD. Load issue: write-buffer forwarding, L1 lookup, prefetch training and a request to the home, remote package or host on a miss. -/
  | ld (i : Iss) (q : MemQ) (d a : Opd)
  /-- LOAD_RETURN. Load data return to the core, filling the L1 and raising MEM_POISON or a remote fault when marked. -/
  | loadReturn (core id : Nat)
  /-- ST. Store issue into the write buffer, merging with an entry of the same line. -/
  | st (i : Iss) (q : MemQ) (a b : Opd)
  /-- ATOM. Atomic issue, with optional release or acquire ordering, invalidating the core's own L1 copy. -/
  | atom (i : Iss) (q : MemQ) (d a b c : Opd)
  /-- ATOMIC_PERFORM. An atomic is performed at its home slice, remote home or host, in lane and location-code order. -/
  | atomicPerform (core id : Nat)
  /-- WRITE_BUFFER_DRAIN. A write-buffer entry drains to its line's home and updates the L1 copy. -/
  | writeBufferDrain (core entry : Nat)
  /-- FENCE_LD. Load fence of the named scope; at device or system scope it invalidates the L1. -/
  | fenceLd (i : Iss) (scope : Scope)
  /-- FENCE_ST. Store fence of the named scope, waiting for earlier write-buffer entries and remote or host acknowledgements. -/
  | fenceSt (i : Iss) (scope : Scope)
  /-- FENCE_FULL. Full fence combining the work of FENCE.LD and FENCE.ST. -/
  | fenceFull (i : Iss) (scope : Scope)
  /-- FENCE_RELEASE. The entries a waiting fence covers have been performed, and the issuing path resumes. -/
  | fenceRelease (core id : Nat)
  /-- GRED_ADD. Group add reduction or scan over present lanes. -/
  | gredAdd (i : Iss) (ty : LaneTy) (scan part : Bool) (d a : Opd)
  /-- GRED_OR. Group OR reduction or scan. -/
  | gredOr (i : Iss) (scan part : Bool) (d a : Opd)
  /-- GRED_XOR. Group XOR reduction or scan. -/
  | gredXor (i : Iss) (scan part : Bool) (d a : Opd)
  /-- GRED_AND. Group AND reduction or scan, absent lanes contributing all ones. -/
  | gredAnd (i : Iss) (scan part : Bool) (d a : Opd)
  /-- GRED_MIN. Group minimum reduction or scan. -/
  | gredMin (i : Iss) (ty : LaneTy) (scan part : Bool) (d a : Opd)
  /-- GRED_MAX. Group maximum reduction or scan. -/
  | gredMax (i : Iss) (ty : LaneTy) (scan part : Bool) (d a : Opd)
  /-- SHFL. Group shuffle, absent lanes supplying zero. -/
  | shfl (i : Iss) (part : Bool) (d a b : Opd)
  /-- TILE_DESC. Copies a 128-byte operand descriptor into a tile handle, a write of the handle. -/
  | tileDesc (i : Iss) (t u : Nat)
  /-- TILE_BASE. Replaces a handle's BASE field, a write of the handle. -/
  | tileBase (i : Iss) (t u : Nat)
  /-- TILE_LD. Collective tile load through an operand descriptor. -/
  | tileLd (i : Iss) (part : Bool) (v n u : Nat) (row col : ImmU)
  /-- TILE_ST. Collective tile store through an operand descriptor. -/
  | tileSt (i : Iss) (part : Bool) (v n u : Nat) (row col : ImmU)
  /-- MMA. Matrix instruction issue: shape and axis checks, stationary reload with swap mark, streaming into the array. -/
  | mma (i : Iss) (op : MmaOp)
  /-- TURN_UNIT_READY. A transposing-buffer turn unit finishes its fill and re-block, and its groups become available to the feeders. -/
  | turnUnitReady (cluster slot : Nat)
  /-- ESCALATION_EVAL. After the stream, the full operand counts are tested against the policy and the original drains stop when triggered. -/
  | escalationEval (core id : Nat)
  /-- MMA_DRAIN_WRITE. The last drain write of the kept execution changes the destination atomically or delivers to an epilogue job. -/
  | mmaDrainWrite (core id : Nat)
  /-- ARRAY_PARITY_REEXEC. An array parity error stops the execution and runs the instruction once again from its operands. -/
  | arrayParityReexec (core id row : Nat)
  /-- AMAX_CONTRIBUTION. The aggregator raises a scaling record's PENDING and merges CLIP_LOG by an atomic update at the record's home. -/
  | amaxContribution (region index : Nat)
  /-- AMAX_COMMIT. Commits a scaling record's pending amax into its history and recomputes SCALE. -/
  | amaxCommit (i : Iss) (u : Nat)
  /-- STASH_OPEN. Opens a stash entry within the reservation, or produces a REFUSED entry. -/
  | stashOpen (i : Iss) (stat : Bool) (p : Nat) (tag lines : ImmU)
  /-- STASH_ST. Writes lane data into an OPEN stash entry. -/
  | stashSt (i : Iss) (size : Nat) (tag : ImmU) (off v : Opd)
  /-- STASH_SEAL. Seals an OPEN stash entry. -/
  | stashSeal (i : Iss) (tag : ImmU)
  /-- STASH_LD. Reads a SEALED stash entry or reports it not present. -/
  | stashLd (i : Iss) (size p v : Nat) (tag : ImmU) (off : Opd)
  /-- STASH_FREE. Frees a stash entry. -/
  | stashFree (i : Iss) (tag : ImmU)
  /-- EPI_OPEN. Opens or declines an epilogue job and resolves its sources. -/
  | epiOpen (i : Iss) (job p u : Nat)
  /-- EPI_JOB_COMPLETE. The sweeps end; dx, partials and RESULT are written and referenced stash entries are released. -/
  | epiJobComplete (cluster ctx : Nat)
  /-- EPI_WAIT. Waits for the job's RESULT and then acts as a device-scope FENCE.LD. -/
  | epiWait (i : Iss) (job : Nat)
  /-- BENCH_XLAT. Translates a batch slot and token index into an address in the pool. -/
  | benchXlat (i : Iss) (p : Nat) (d slot token : Opd)
  /-- TRACE_MARK. Emits a MARK trace record with a register value and identifier. -/
  | traceMark (i : Iss) (id : ImmU) (a : Opd)
  /-- BRA. Branch, splitting the path when lanes disagree. -/
  | bra (i : Iss) (p : Option (Bool × Nat)) (target : Nat)
  /-- CALL. Call. -/
  | call (i : Iss) (target : Nat)
  /-- RET. Return. -/
  | ret (i : Iss)
  /-- EXIT. Lanes leave their path for good; the last exit ends the block. -/
  | exit (i : Iss)
  /-- LOOP. Opens a hardware loop with a count sampled at entry. -/
  | loop (i : Iss) (count : Opd) (endOff : Nat)
  /-- ENDLOOP. Branches back for lanes with repeats left. -/
  | endloop (i : Iss)
  /-- LOOP_BREAK. Leaves the innermost open loop. -/
  | loopBreak (i : Iss)
  /-- YIELD. Rotates the group's current path at once. -/
  | yield (i : Iss)
  /-- GROUP_ROTATE. The current path's 64th backward branch rotates the group to the next eligible path. -/
  | groupRotate (core slot : Nat)
  /-- BAR_SYNC. Arrives at a barrier and waits for the generation to complete. -/
  | barSync (i : Iss) (id : ImmU) (count : Option Opd)
  /-- BAR_POST. Arrives at a barrier without waiting and records the generation number. -/
  | barPost (i : Iss) (id : ImmU) (d : Opd) (count : Option Opd)
  /-- BAR_WAIT. Waits while the barrier's generation number equals the recorded value. -/
  | barWait (i : Iss) (id : ImmU) (a : Opd)
  /-- BRK. Native breakpoint: the group stops, the hit is recorded and the whistle is raised. -/
  | brk (core slot npc : Nat)
  /-- SEQUENCER_LINE_BROADCAST. The cluster sequencer sends one native line on the broadcast bus to every subscribing instruction store. -/
  | sequencerLineBroadcast (cluster : Nat)
  /-- DB_RING. Ring doorbell write: sets pending and posts a wake-up to a sleeping fetcher. -/
  | dbRing (fn : Nat) (posted : Posted)
  /-- DB_COMPL. Completion doorbell write, which makes a LOGGING queue read its consumer count again. -/
  | dbCompl (fn : Nat) (posted : Posted)
  /-- FETCHER_PASS. The fetcher reads TAIL, accepts ring entries, writes HEAD and sleeps or runs another pass. -/
  | fetcherPass (fn : Nat)
  /-- RING_ENTRY_ACCEPT. A ring entry is consumed, passed to its queue or skipped, waiting at the head when limits are full. -/
  | ringEntryAccept (fn : Nat)
  /-- SLOT_ASSIGN. A waiting queue is given a hardware slot by class and age. -/
  | slotAssign (queue : Nat)
  /-- JOB_START. The next job of a queue starts once the previous job record is written or logged. -/
  | jobStart (queue : Nat)
  /-- GRAPH_PARSE. The slot reads and checks the graph header and parses nodes into resident nodes as they become free. -/
  | graphParse (queue : Nat)
  /-- JOB_PLACE. The first waiting non-RT job of a partition is placed on its cores. -/
  | jobPlace (part : Nat)
  /-- TENANT_SWITCH_SCRUB. In strict isolation mode the slices scrub the partition's ways before the first dispatch for a new tenant. -/
  | tenantSwitchScrub (part tenant : Nat)
  /-- RT_JOB_PLACE. An RT job takes reserve cores and pre-empts ordinary cores as needed. -/
  | rtJobPlace (part : Nat)
  /-- CORE_SAVE_TURN. A region starts its next turn of up to 16 core context saves. -/
  | coreSaveTurn (region : Nat)
  /-- CORE_SAVE_COMPLETE. A core's context is stored in its save area and the core is handed to the RT job. -/
  | coreSaveComplete (core : Nat)
  /-- PARKED_RESPONSE. The parking unit receives a response for a parked remote tag and records it in the save area. -/
  | parkedResponse (die tag err : Nat) (poison : Bool) (data : Line)
  /-- CORE_RESTORE. A saved context is restored to its core after the RT job ends. -/
  | coreRestore (core : Nat)
  /-- NODE_DISPATCH. A node whose predecessors, wait and holds allow it is dispatched. -/
  | nodeDispatch (node : Nat)
  /-- BLOCK_PLACE. A block of a dispatched KERNEL node is placed on a core of its job and starts. -/
  | blockPlace (node core : Nat)
  /-- NODE_COMPLETE. A node completes: record, flag set, successor release and shot-clock restart, or failure of its job. -/
  | nodeComplete (node : Nat)
  /-- CONSUMER_COUNT_POLL. Every 100 µs a LOGGING queue after a full ring reads its consumer count again. -/
  | consumerCountPoll (queue : Nat) (posted : Posted)
  /-- LOG_DRAIN. Logged records are written to the completion ring in order until the log empties or stops. -/
  | logDrain (queue : Nat)
  /-- SHOT_CLOCK_EXPIRE. A queue's progress timeout expires, stopping its job with status TIMEOUT. -/
  | shotClockExpire (queue : Nat)
  /-- CORE_RESET_DRAIN_END. After at most 10 µs the remaining write-buffer entries are discarded and the core is cleared. -/
  | coreResetDrainEnd (core : Nat)
  /-- REFEREE_TEST. At each 100-tick value, or when the commit node becomes dispatchable, the referee tests an RT job for lateness. -/
  | refereeTest (queue : Nat)
  /-- SUBSTITUTE_START. Once the stopped nodes complete, the substitute graph is parsed and dispatched. -/
  | substituteStart (queue : Nat)
  /-- DEADLINE_PASS. The timebase passes an RT job's deadline before its record, raising DEADLINE_MISSED. -/
  | deadlinePass (queue : Nat)
  /-- RANGE_OP_START. A die's range-maintenance engine starts the next queued range operation. -/
  | rangeOpStart (die : Nat)
  /-- RANGE_OP_COMPLETE. Every line command and write-back of a range operation is done and the RANGE node completes. -/
  | rangeOpComplete (die : Nat)
  /-- COPY_START. A die's copy engine starts the next queued bulk copy. -/
  | copyStart (die : Nat)
  /-- COPY_COMPLETE. A copy ends with all writes performed or stops on a fault, completing the COPY node. -/
  | copyComplete (die : Nat)
  /-- BENCH_STEP_APPLY. The bench checks and applies one step of a pool: leaves, growth with eviction, joins, and writes the result area. -/
  | benchStepApply (part : Nat)
  /-- SLICE_FILL. A line arrives from memory or the side buffer and is inserted in the slice, choosing and writing back a victim. -/
  | sliceFill (pa : Nat)
  /-- PREFETCH_FILL. A prefetch read returns into the slice's side buffer. -/
  | prefetchFill (pa : Nat)
  /-- SIDE_ENTRY_EXPIRE. A side-buffer entry unused for 65,536 fabric cycles is freed. -/
  | sideEntryExpire (region pa : Nat)
  /-- EVICTION_OFFER. The home slice accepts or declines an L1 victim offered through the offer queue. -/
  | evictionOffer (core : Nat)
  /-- RESIDENCY_TICK. Every 16,384 timebase cycles each L1 line's residency count advances. -/
  | residencyTick
  /-- MC_RUN_READ. A controller performs a run read, decoding and correcting or poisoning each sector. -/
  | mcRunRead (ctl id : Nat) (ecc : EccIn)
  /-- MC_RUN_WRITE. A controller performs a batch of write runs, with read-modify-write for partial sectors. -/
  | mcRunWrite (ctl : Nat) (count : Nat) (eccs : List EccIn)
  /-- DRAM_REFRESH. Per-bank refresh due on a pseudo-channel, taking precedence over requests. -/
  | dramRefresh (ctl pc : Nat)
  /-- REGULATOR_REFILL. Every 62.5 ns each regulator's credit is refilled by RATE runs up to BURST. -/
  | regulatorRefill
  /-- MEMORY_WINDOW_BOUNDARY. A 125 ns window of the time-partitioned form begins for its holder. -/
  | memoryWindowBoundary
  /-- PATROL_READ. The patrol scrubber reads a sector when the controller is otherwise idle. -/
  | patrolRead (ctl : Nat) (ecc : EccIn)
  /-- MC_RETENTION_ENTER. A controller idle for 100 µs puts its channels into self-refresh. -/
  | mcRetentionEnter (ctl : Nat)
  /-- CORRECTED_ERROR. A corrected error is counted and charged to its resource's leaky bucket. -/
  | correctedError (site : ErrSite) (res : Option Resource)
  /-- BUCKET_LEAK. At each leak interval a resource's bucket level falls by one. -/
  | bucketLeak (res : Resource)
  /-- UNCORRECTED_ERROR. An uncorrectable error poisons data or faults the consuming work. -/
  | uncorrectedError (site : ErrSite) (res : Option Resource)
  /-- FATAL_ERROR. A fatal error puts the package into FAILED within 10 µs. -/
  | fatalError (res : Option Resource)
  /-- D2D_FLIT_RECEIVE. A die-to-die fabric flit arrives, is checked and delivered or replayed. -/
  | d2dFlitReceive (link seq ack : Nat) (body : List Byte) (crc : Nat)
  /-- D2D_RETRAIN_FAIL. A die-to-die link's retrain fails; three failures within 1 ms are fatal. -/
  | d2dRetrainFail (link : Nat)
  /-- PORT_DETECT_DONE. Four or more lanes detect the receiver and the port moves to TRAIN. -/
  | portDetectDone (port : Nat) (lanes : List Nat)
  /-- PORT_DETECT_TIMEOUT. After 10 ms with fewer than four lanes, the port returns to DOWN. -/
  | portDetectTimeout (port : Nat)
  /-- PORT_TRAIN_DONE. Lane equalisation ends and the port moves to ALIGN. -/
  | portTrainDone (port : Nat) (failed : List Nat)
  /-- PORT_ALIGN_DONE. Lanes are mapped, FEC locked and deskewed, or the port goes DOWN. -/
  | portAlignDone (port : Nat)
  /-- PORT_EXCHANGE_DONE. Identifier and twin-role exchange completes and the port goes UP, or DOWN on a conflict. -/
  | portExchangeDone (port peer peerPort : Nat) (peerTwin : Option TwinInfo) (credit : Nat)
  /-- PORT_RETRAIN_ENTER. A flit replayed 8 times without acknowledgement puts the port into RETRAIN. -/
  | portRetrainEnter (port : Nat)
  /-- PORT_RETRAIN_TIMEOUT. A retrain attempt fails to reach UP in 500 µs; after three the port is DEAD. -/
  | portRetrainTimeout (port : Nat)
  /-- FLIT_RECEIVE. A Springbok flit arrives, is FEC-decoded and CRC-checked, and is delivered in order or triggers a replay request. -/
  | flitReceive (port seq ack kind : Nat) (rest : List Byte) (fec : List (List Nat)) (msgs : List LinkMsg) (credits : List (Nat × Nat))
  /-- REPLAY_REQUEST_RECEIVE. A replay request makes the transmitter resend every unacknowledged flit from the named SEQ. -/
  | replayRequestReceive (port seq : Nat)
  /-- REMOTE_REQUEST_RECEIVE. A remote request arrives at a package and is forwarded, rejected or performed after the export check. -/
  | remoteRequestReceive (port : Nat)
  /-- REMOTE_RESPONSE_RECEIVE. A remote response arrives and completes, faults or is forwarded toward its source. -/
  | remoteResponseReceive (port die : Nat)
  /-- REMOTE_TIMEOUT. A remote request without response within the remote timeout fails with REMOTE_TIMEOUT. -/
  | remoteTimeout (die tag : Nat)
  /-- ROUTE_TABLE_APPLY. A new route table takes effect once no traffic waits on a removed port. -/
  | routeTableApply
  /-- MIRROR_RECORD_RECEIVE. The partner holds a mirror record in sequence order and acknowledges it. -/
  | mirrorRecordReceive (port : Nat)
  /-- MIRROR_ACK. A mirror acknowledgement releases the held-back effect of its record. -/
  | mirrorAck (port : Nat)
  /-- MIRROR_ACK_TIMEOUT. A record unacknowledged for 1 ms makes the twin pair DEGRADED. -/
  | mirrorAckTimeout
  /-- TWIN_SYNCED. The secondary has acknowledged the snapshot and following records; both modules enter SYNCED. -/
  | twinSynced
  /-- TWIN_ATTACH_TIMEOUT. An attach not complete within 10 s leaves both modules OFF. -/
  | twinAttachTimeout
  /-- TWIN_FAILED_RECEIVE. A SYNCED secondary receives the primary's FAILED message. -/
  | twinFailedReceive (port : Nat)
  /-- MB_SUBMIT. MB_CTRL.SUBMIT submits the request buffer and sets REQ_PENDING. -/
  | mbSubmit (fn : Nat) (msg : List Byte) (posted : Posted)
  /-- MB_RESP_ACK. MB_CTRL.RESP_ACK clears RESP_VALID. -/
  | mbRespAck (fn : Nat)
  /-- MB_RESYNC. MB_CTRL.RESYNC clears REQ_PENDING and RESP_VALID without consuming the request. -/
  | mbResync (fn : Nat)
  /-- MGMT_FAILOVER. A missed 10 ms heartbeat makes the standby controller take over every mailbox. -/
  | mgmtFailover
  /-- QUERY_CAPS. Returns a section of capability figures. -/
  | queryCaps
  /-- SYNC. Returns the mailbox's sequence state in an unnumbered reply. -/
  | sync
  /-- REPLAY_GET. Returns a logged reply. -/
  | replayGet
  /-- FW_STATUS. Returns firmware bank and security-version status. -/
  | fwStatus
  /-- RING_CONFIG. Configures the function's host ring and sets HEAD to the current TAIL. -/
  | ringConfig
  /-- QUEUE_CREATE. Creates a logical queue with its class, completion ring and timeouts. -/
  | queueCreate
  /-- QUEUE_CONFIG. Changes a logical queue's attributes. -/
  | queueConfig
  /-- QUEUE_DESTROY. Removes an IDLE or HALTED queue. -/
  | queueDestroy
  /-- QUEUE_RESUME. Resumes a HALTED queue, to ACTIVE or LOGGING. -/
  | queueResume
  /-- REMAP_DONE. Starts the overflow-log drain of queues waiting after a write fault. -/
  | remapDone
  /-- FLAG_WRITE. Stores or adds to a tenant flag as one set. -/
  | flagWrite
  /-- FLAG_READ. Returns a tenant flag's value. -/
  | flagRead
  /-- CODE_LOAD. Verifies a native image and copies it into a code region, returning an image handle. -/
  | codeLoad
  /-- CODE_UNLOAD. Requests unloading of an image. -/
  | codeUnload
  /-- CODE_UNLOAD_EFFECT. When no resident block runs the image, its lines are invalidated in every translated-code cache. -/
  | codeUnloadEffect (image : Nat)
  /-- SET_PRECISION_POLICY. Sets one of the tenant's eight precision policies. -/
  | setPrecisionPolicy
  /-- VTENSOR_REGISTER. Registers a versioned tensor with committed version 0. -/
  | vtensorRegister
  /-- VTENSOR_UNREGISTER. Unregisters a versioned tensor and releases its captures. -/
  | vtensorUnregister
  /-- BENCH_POOL_CREATE. Creates a page pool for the partition and reserves its table area. -/
  | benchPoolCreate
  /-- BENCH_POOL_DESTROY. Removes the pool. -/
  | benchPoolDestroy
  /-- BENCH_SEQ_QUERY. Returns the state and page table of one sequence. -/
  | benchSeqQuery
  /-- MAP_DEVICE. Maps pages to newly allocated, zeroed device granules. -/
  | mapDevice
  /-- MAP_HOST. Maps pages to a host range. -/
  | mapHost
  /-- MAP_REMOTE. Maps pages to a physical range of another package. -/
  | mapRemote
  /-- MEM_UNMAP. Clears mappings, invalidates translations, L1s and slice lines, and frees granules. -/
  | memUnmap
  /-- MAP_QUERY. Returns the page entry of one address. -/
  | mapQuery
  /-- PARTITION_CREATE. Creates a partition, powering its granules and forming dedicated sets when asked. -/
  | partitionCreate
  /-- PARTITION_DESTROY. Removes an unbound partition, releasing ways and sets and powering its blocks off. -/
  | partitionDestroy
  /-- TENANT_BIND. Binds a tenant to a partition and creates its address space. -/
  | tenantBind
  /-- TENANT_UNBIND. Unbinds an idle tenant and destroys its address space. -/
  | tenantUnbind
  /-- QOS_SET. Changes selected quotas, shares and regulators of a partition or tenant. -/
  | qosSet
  /-- RT_RESERVE_SET. Sets the reserve cores per region and the RT slot reserve. -/
  | rtReserveSet
  /-- FLAG_GRANT. Grants or revokes a group of 64 flags for a tenant. -/
  | flagGrant
  /-- MEM_SCRUB_CONFIG. Sets the patrol interval. -/
  | memScrubConfig
  /-- SET_STASH_RESERVE. Sets a partition's stash reservation per region. -/
  | setStashReserve
  /-- ISOLATION_SET. Switches strict isolation mode while no partition exists. -/
  | isolationSet
  /-- LINK_CONFIG. Sets the package identifier and the ports to bring up. -/
  | linkConfig
  /-- LINK_RETRAIN. Starts detection or retraining of one Springbok port. -/
  | linkRetrain
  /-- LINK_ROUTE_SET. Writes route-table entries. -/
  | linkRouteSet
  /-- LINK_EXPORT_SET. Writes one export-table entry. -/
  | linkExportSet
  /-- LINK_TIMEOUT_SET. Sets the remote timeout. -/
  | linkTimeoutSet
  /-- TWIN_ATTACH. Brings the twin ports up in twin mode and starts the snapshot. -/
  | twinAttach
  /-- TWIN_DETACH. Leaves twin mode and returns the twin ports to ordinary ports. -/
  | twinDetach
  /-- TWIN_TAKEOVER. Commands the secondary to take over, subject to the FORCE rules. -/
  | twinTakeover
  /-- FAULT_LIST_READ. Returns entries of the lasting-fault list. -/
  | faultListRead
  /-- FAULT_LIST_EDIT. Adds or removes an entry of the lasting-fault list. -/
  | faultListEdit
  /-- KEY_CHANGE. Changes or erases a key slot's key and permission mask. -/
  | keyChange
  /-- FW_UPDATE. Verifies a firmware image and writes it to the inactive bank as pending. -/
  | fwUpdate
  /-- DEBUG_UNLOCK. Sets the debug level and scope. -/
  | debugUnlock
  /-- DEBUG_LOCK. Returns the debug level to 0, releasing halts and disarming breaks. -/
  | debugLock
  /-- WHISTLE. Mailbox source of the whistle, replying once every block has frozen. -/
  | whistle
  /-- GET_VERSION. SPDM request for supported versions. -/
  | getVersion
  /-- GET_CAPABILITIES. SPDM request for capabilities. -/
  | getCapabilities
  /-- NEGOTIATE_ALGORITHMS. SPDM algorithm negotiation. -/
  | negotiateAlgorithms
  /-- GET_DIGESTS. SPDM request for certificate digests. -/
  | getDigests
  /-- GET_CERTIFICATE. SPDM request for the slot 0 certificate chain. -/
  | getCertificate
  /-- CHALLENGE. SPDM challenge signed with the device identity key. -/
  | challenge
  /-- GET_MEASUREMENTS. SPDM request for signed measurements. -/
  | getMeasurements
  /-- FE_PASID_WRITE. Write to FE_PASID, ignored while a queue has the PASID attribute. -/
  | fePasidWrite (fn value : Nat)
  /-- EVENT_RING_ENABLE. Setting MB_EVR_CTL.EN resets PROD and CONS and enables the event ring. -/
  | eventRingEnable (fn value : Nat)
  /-- EVENT_RING_CONS_WRITE. Write to MB_EVR_CONS re-arms the event vector and signals when entries remain. -/
  | eventRingConsWrite (fn value : Nat)
  /-- MSIX_UNMASK. Unmasking a vector with its pending bit set sends one message. -/
  | msixUnmask (fn vec : Nat)
  /-- COUNTER_SNAP. CTL.SNAP captures every counter of a block. -/
  | counterSnap (fn block : Nat)
  /-- COUNTER_CLEAR. CTL.CLEAR zeroes every counter and the overflow bits of a block. -/
  | counterClear (fn block : Nat)
  /-- COUNTER_OVERFLOW. A counter wraps, setting OVF and optionally raising the whistle or the interrupt. -/
  | counterOverflow (block n : Nat)
  /-- WHISTLE_PIN_EDGE. A filtered falling edge on WHISTLE_N is a whistle source. -/
  | whistlePinEdge
  /-- WHISTLE_DRIVE_END. The device stops driving WHISTLE_N after 1 µs. -/
  | whistleDriveEnd
  /-- WHISTLE_RELEASE. DBG_WHISTLE_CMD.RELEASE ends the freeze and any halt. -/
  | whistleRelease (fn : Nat)
  /-- BREAK_ARM. Writing EN 1 to a break unit arms it and zeroes its count. -/
  | breakArm (fn unit value : Nat)
  /-- ACCESS_PORT_GO. DBG_ACC_CTL.GO performs one 8-byte debug access to the selected target. -/
  | accessPortGo (fn value : Nat)
  /-- TRACE_DROP_EMIT. A source whose FIFO has room again emits a DROP record ahead of others. -/
  | traceDropEmit (source : Nat)
  /-- REGISTER_WRITE. Write to a register without a row of its own, acting as its access code states. -/
  | registerWrite (fn addr size value : Nat)
  /-- CONFIG_REQUEST. A PCIe configuration request, completed with Request Retry Status until initialisation ends. -/
  | configRequest (fn reg : Nat) (write : Option Nat)
  /-- VF_DISABLE. Clearing VF Enable performs a function-level reset of every enabled virtual function. -/
  | vfDisable
  /-- D3HOT_ENTER. The physical function enters D3hot, disabling memory decode only. -/
  | d3hotEnter
  /-- ATS_TRANSLATION_COMPLETE. A Translation Completion returns and the waiting host access is sent or faults. -/
  | atsTranslationComplete (fn : Nat) (pasid : Option Nat) (page host : Nat) (r w : Bool)
  /-- ATS_INVALIDATE_REQUEST. An Invalidate Request removes translations and is answered after dependent accesses are sent. -/
  | atsInvalidateRequest (fn : Nat) (pasid : Option Nat) (page pages : Nat)
  /-- PRG_RESPONSE. A Page Request Group Response retries the translation or makes the fault final. -/
  | prgResponse (fn : Nat) (pasid : Option Nat) (page code : Nat)
  /-- HOST_READ_COMPLETE. A host read or atomic completion returns, possibly as an error or poisoned. -/
  | hostReadComplete (die tag : Nat) (ok poison : Bool)
  /-- HOST_COMPLETION_TIMEOUT. A host read without completion for 50 ms is treated as a final translation fault. -/
  | hostCompletionTimeout (die tag : Nat)
  /-- FUNCTION_LEVEL_RESET. FLR stops the function's jobs, destroys its queues, images, tensors and pool. -/
  | functionLevelReset (fn : Nat)
  /-- POWER_GOOD. PGOOD rises and cold initialisation begins. -/
  | powerGood (boot : BootIn)
  /-- INPUT_UNDERVOLTAGE. The input below 42 V for 10 µs, or above 58 V, removes package power as a cold reset. -/
  | inputUndervoltage
  /-- REFCLK_LOSS. REFCLK stopping for 1 µs loses PLL lock, a cold reset. -/
  | refclkLoss
  /-- MRST_N_ASSERT. MRST_N low for 1 µs or longer is a warm reset cause. -/
  | mrstNAssert
  /-- PERST_ASSERT. Assertion of PERST0_N after initialisation is a warm reset cause. -/
  | perstAssert
  /-- PCIE_HOT_RESET. Hot reset or link disable of the primary interface is a warm reset cause. -/
  | pcieHotReset
  /-- WARM_FLUSH_TIMEOUT. Dirty lines still present 2 ms into the flush are discarded. -/
  | warmFlushTimeout (left : List (Nat × Nat))
  /-- WARM_RESET_RELEASE. The warm cause deasserts and steps 2 to 9 of initialisation run with memory kept. -/
  | warmResetRelease (boot : BootIn)
  /-- THERMAL_STEP_COARSER. A block's sensor at 105 °C moves its divider one rung coarser. -/
  | thermalStepCoarser (b : PowerBlock) (temp : Nat)
  /-- THERMAL_STEP_FINER. After 1 ms below 95 °C a block moves one rung finer. -/
  | thermalStepFiner (b : PowerBlock) (temp : Nat)
  /-- THERMAL_TRIP. A sensor at 120 °C makes the carrier remove package power. -/
  | thermalTrip
  /-- THERMAL_TRIP_RECOVER. After 10 s and an inlet below 45 °C the carrier releases THERMTRIP_N and powers up. -/
  | thermalTripRecover
  /-- LIMITER_TRIP. Input current above LIMIT for 2 µs drops every die one rung. -/
  | limiterTrip
  /-- LIMITER_RELEASE. After the hold and 200 µs below 0.9 LIMIT the drop is released. -/
  | limiterRelease
  /-- LEAK_DETECT. The moisture sensor asserts LEAK_N. -/
  | leakDetect
  /-- BLOCK_CLOCK_GATE. A block idle for 64 cycles gates its clock after completing its work. -/
  | blockClockGate (b : PowerBlock)
  /-- BLOCK_RETENTION_ENTER. A block idle for its retention time latches its state into retention. -/
  | blockRetentionEnter (b : PowerBlock)
  /-- BLOCK_WAKE. A request wakes a gated or retained block after its wake time. -/
  | blockWake (b : PowerBlock)
  /-- D2D_RETRAIN_DONE. A die-to-die link that retrained under UCIe after exhausting its replays comes back into service, and the messages waiting on it resume. -/
  | d2dRetrainDone (link : Nat)
  /-- TRACE_PORT_UP_CHANGE. The trace receiver gains or loses alignment of the trace lanes, setting or clearing DBG_TRACE_STATUS.PORT_UP. -/
  | tracePortUpChange (up : Bool)
  /-- MCTP_MESSAGE_RECEIVE. A Cyrno or SPDM message arrives whole over the board path as an MCTP message and waits to be consumed. -/
  | mctpMessageReceive (type : Nat) (msg : List Byte)
  /-- I3C_ENTDAA. The I3C controller assigns the module's dynamic address by ENTDAA. -/
  | i3cEntdaa (addr : Nat)
  /-- PERST_RELEASE. PERST0_N goes high before the end of device initialisation, letting the primary link begin to train. -/
  | perstRelease
  /-- STACK_TEMPERATURE_READOUT. A stack's temperature readout crosses 85 °C, doubling or restoring its refresh rate. -/
  | stackTemperatureReadout (stack temp : Nat)
  /-- TWIN_DETACH_NOTICE. A module receives over the twin ports its peer's notice that the pair is detaching, and leaves twin mode. -/
  | twinDetachNotice (port : Nat)
  deriving DecidableEq, Repr

end Sys2Proof
end

