-- ==== Sys2Proof/WellFormed.lean ====
section
/-! DEFINITION. Which commands are well formed: operands within the numbers and widths that the spec gives their
fields. A command that is not well formed names something the part does not have. -/

namespace Sys2Proof

/-- Operand bytes (R191, Table 7.3): %v 0 to 254, %u 0 to 63, %p and %t 0 to 7. -/
def Opd.wf : Opd → Bool
  | .v n => decide (n < 255)
  | .u n => decide (n < 64)
  | .p n => decide (n < 8)
  | .t n => decide (n < 8)
  | .imm _ => true
  | .none => true

/-- A destination of a lane instruction is a register or predicate. -/
def Opd.isDest : Opd → Bool
  | .v n => decide (n < 255)
  | .u n => decide (n < 64)
  | .p n => decide (n < 8)
  | _ => false

/-- A thread register. -/
def Opd.isV : Opd → Bool
  | .v n => decide (n < 255)
  | _ => false

/-- A predicate. -/
def Opd.isPred : Opd → Bool
  | .p n => decide (n < 8)
  | _ => false

/-- A 64-bit register operand names an even register (R191) whose pair exists. -/
def Opd.evenPair : Opd → Bool
  | .v n => decide (n % 2 = 0) && decide (n + 1 < 255)
  | .u n => decide (n % 2 = 0)
  | _ => true

/-- Core, residency slot (Table 6.1), guard predicate and extension words (Table 7.2). -/
def Iss.wf (i : Iss) : Bool :=
  decide (i.core < 1536) && decide (i.slot < 48) && decide (i.guard < 8) && decide (i.nx < 16)

/-- Word 1 of a memory instruction (R199): sizes 0 to 4, and no hint on shared local memory. -/
def MemQ.wf (q : MemQ) : Bool := decide (q.size ≤ 4) && (!q.slm || q.hint == .plain)

/-- A number read from a uniform register names one of %u0 to %u63. -/
def ImmU.wf : ImmU → Bool
  | .imm _ => true
  | .u n => decide (n < 64)

/-- Bytes per lane of a stash access (Table 7.9). -/
def stashSize (n : Nat) : Bool := n == 4 || n == 8 || n == 16

/-- A source of MOV. -/
def MovSrc.wf : MovSrc → Bool
  | .opd o => o.wf
  | .special (.vrefRd n) => decide (n < 4)
  | .special (.vrefWr n) => decide (n < 4)
  | .special _ => true

/-- The third operand of SEL.F64 is a predicate. -/
def F64Op.thirdIsPred : F64Op → Bool
  | .sel => true
  | _ => false

/-- Conversion types of 64 bits. -/
def cvtIsWide : CvtTy → Bool
  | .f64 => true
  | .s64 => true
  | .u64 => true
  | _ => false

/-- Extension words of MMA (Table 7.7): SHAPE and ORIGIN, and BETA, K0 and PANEL where C, .OUTL and .EPI are given. -/
def MmaOp.words (m : MmaOp) : Nat := 2 + m.ct.isSome.toNat + m.outl.toNat + m.epi.toNat

/-- .ESC is accepted only on the 4-bit, 8-bit and 2-bit classes, and with no plain INT8 or INT4 operand (R104). -/
def MmaOp.escOk (m : MmaOp) : Bool :=
  let plain (fmt attr : Nat) : Bool := (fmt == 0xA || fmt == 0xB) && attr == 0
  !m.esc || (decide (2 < m.sFmt) && decide (2 < m.tFmt) && !plain m.sFmt m.sAttr && !plain m.tFmt m.tAttr)

/-- A format code with an attribute that R73 allows it; 0xF is no code (R100). -/
def fmtCode (fmt attr : Nat) : Bool := decide (fmt < 15) && (attr == 0 || (attr == 1 && (fmt == 5 || fmt == 0xA)))

/-- The multiplicands' formats: named by codes, neither FP32, both floating or both integer (R45, R100). FP64 is left to the part
that runs the instruction. -/
def MmaOp.fmtsOk (m : MmaOp) : Bool :=
  fmtCode m.sFmt m.sAttr && fmtCode m.tFmt m.tAttr && m.sFmt != 0 && m.tFmt != 0 &&
  (m.sFmt == 14 || m.tFmt == 14 || (decide (m.sFmt ≤ 9) == decide (m.tFmt ≤ 9)))

/-- A constant shape keeps the limits of N, D and K (R46). -/
def shapeOk : ImmU → Bool
  | .imm x => decide (1 ≤ x / 2 ^ 20) && decide (x / 2 ^ 20 ≤ 32) && decide (x / 2 ^ 13 % 128 ≤ 64) && decide (x % 2 ^ 13 ≤ 4096)
  | .u _ => true

/-- The handles, formats and origins of MMA (Tables 7.6 and 7.7). -/
def MmaOp.wf (m : MmaOp) : Bool :=
  decide (m.dt < 8) && decide (m.st < 8) && decide (m.tu < 64) && decide (m.tu % 2 = 0) && m.ct.all (fun c => decide (c < 8)) &&
  m.fmtsOk && shapeOk m.shape && decide (m.oFmt < 5) &&
  decide (m.epiJob < 2) && m.shape.wf && m.vorg.wf && m.beta.wf && decide (m.korg % 32 = 0) && decide (m.k0 < 2 ^ 16) &&
  decide (m.featOrg < 2 ^ 16) && decide (m.rowOrg < 32) && m.escOk

/-- Whether a target takes .NOSAT (Table 3.7): the block formats, INT8 and INT4 do not. -/
def CvtTy.takesSat : CvtTy → SatMode → Bool
  | .int8, .nosat => false
  | .int4, .nosat => false
  | _, _ => true

/-- Word 1 of CVT.BLK (R204); .NOSAT only for the plain FP8 targets (Table 3.7). -/
def CvtBlk.wf (w : CvtBlk) : Bool :=
  fmtCode w.fmt w.attr &&
  (w.sat != .nosat || w.fmt == 3 || w.fmt == 4) && decide (w.src < 3) && decide (w.v < 255) && decide (w.du % 2 = 0) &&
  decide (w.du < 64) && w.blk.wf

/-- A link message's tag and identifiers (Table 11.5). -/
def LinkMsg.wf (m : LinkMsg) : Bool :=
  decide (m.tag < 4096) && decide (m.src < 256) && decide (m.dst < 256) && decide (m.err < 16) && decide (m.size ≤ 128)

/-- What a run read finds: symbols of four sectors (R290, R297). -/
def EccIn.wf (e : EccIn) : Bool := decide (e.errs.length ≤ 4) && e.errs.all (fun w => w.all (fun k => decide (k < 72)))

/-- Places of errors. -/
def ErrSite.wf : ErrSite → Bool
  | .word core slot file _ => decide (core < 1536) && decide (slot < 48) && decide (file < 4)
  | .slm core block _ => decide (core < 1536) && decide (block < 16)
  | .l1 core _ => decide (core < 1536)
  | .wb core _ => decide (core < 1536)
  | .istore core _ _ _ => decide (core < 1536)
  | .turn cluster slot => decide (cluster < 192) && decide (slot < 16)
  | .epi cluster _ => decide (cluster < 192)
  | .slice region _ => decide (region < 32)
  | .stash region _ _ => decide (region < 32)
  | .sliceTag region => decide (region < 32)
  | .side region _ => decide (region < 32)
  | .parking die => decide (die < 8)
  | .saveArea core => decide (core < 1536)
  | .memory ctl _ syms => decide (ctl < 64) && syms.all (fun k => decide (k < 72))
  | .lane port ln => decide (port < 40) && decide (ln < 9)
  | .d2d link => decide (link < 16)
  | .array core row => decide (core < 1536) && decide (row < 33 + 2 ^ 16)
  | .pin ctl pc n => decide (ctl < 64) && decide (pc < 16) && decide (n < 36)
  | .engine _ => true
  | .front => true
  | .mgmt => true
  | .fabricData _ => true
  | .fabricCtl => true

/-- A resource's kind is one of Table 17.3's. -/
def Resource.wf (r : Resource) : Bool := decide (r.kind < 16)

/-- A block of the power rules: its kind and a number within the largest variant. -/
def PowerBlock.wf (b : PowerBlock) : Bool :=
  match b.kind with
  | 0 => decide (b.ix < 1536)
  | 1 => decide (b.ix < 192)
  | 2 => decide (b.ix < 32)
  | 3 => decide (b.ix < 8)
  | 4 => decide (b.ix < 64)
  | 5 => decide (b.ix < 32)
  | _ => false

/-- What initialisation finds names links, controllers and stacks of the part. -/
def BootIn.wf (b : BootIn) : Bool :=
  b.d2dFailed.all (fun l => decide (l < 16)) && b.laneSpared.all (fun l => decide (l.1 < 64) && decide (l.2.1 < 16)) &&
  b.stackBad.all (fun x => decide (x < 16)) && b.d2dRepaired.all (fun l => decide (l.1 < 16) && decide (l.2 < 16))

/-- A CAP_ID of 32 bits and a count of at most 1,023 virtual functions. -/
def twinWf : Option TwinInfo → Bool
  | some x => decide (x.capId < 2 ^ 32) && decide (x.vfs < 1024)
  | none => true

/-- Well-formed commands. -/
def Instr.wf : Instr → Bool
  | .add i _ r d a b => i.wf && r != .sr && d.isDest && a.wf && b.wf
  | .sub i _ r d a b => i.wf && r != .sr && d.isDest && a.wf && b.wf
  | .mul i _ r d a b => i.wf && r != .sr && d.isDest && a.wf && b.wf
  | .fma i r d a b c => i.wf && r != .sr && d.isDest && a.wf && b.wf && c.wf
  | .madS32 i d a b c => i.wf && d.isDest && a.wf && b.wf && c.wf
  | .min i _ d a b => i.wf && d.isDest && a.wf && b.wf
  | .max i _ d a b => i.wf && d.isDest && a.wf && b.wf
  | .setp i _ _ d a b => i.wf && d.isDest && a.wf && b.wf
  | .and i d a b => i.wf && d.isDest && a.wf && b.wf
  | .or i d a b => i.wf && d.isDest && a.wf && b.wf
  | .xor i d a b => i.wf && d.isDest && a.wf && b.wf
  | .shl i d a b => i.wf && d.isDest && a.wf && b.wf
  | .shr i _ d a b => i.wf && d.isDest && a.wf && b.wf
  | .cvt i dty sty _ sat d a => i.wf && dty.takesSat sat && d.isDest && (!cvtIsWide dty || d.evenPair) && a.wf && (!cvtIsWide sty || a.evenPair)
  | .mov i d src => i.wf && d.isDest && src.wf
  | .sel i d a b p => i.wf && d.isDest && a.wf && b.wf && p.isPred
  | .f64Op i op r d a b c => i.wf && r != .sr && d.isDest && d.evenPair && a.wf && a.evenPair && b.wf && b.evenPair && c.wf && (op.thirdIsPred || c.evenPair)
  | .expF32 i d a => i.wf && d.isDest && a.wf
  | .exp2F32 i d a => i.wf && d.isDest && a.wf
  | .log2F32 i d a => i.wf && d.isDest && a.wf
  | .rcpF32 i d a => i.wf && d.isDest && a.wf
  | .rsqF32 i d a => i.wf && d.isDest && a.wf
  | .sqrtF32 i d a => i.wf && d.isDest && a.wf
  | .cvtBlk i w => i.wf && w.wf
  | .prepassComplete region tenant _ => decide (region < 32) && decide (tenant < 1024)
  | .ld i q d a => i.wf && q.wf && d.isV && a.wf && (q.slm || a.evenPair)
  | .loadReturn core _ => decide (core < 1536)
  | .st i q a b => i.wf && q.wf && a.wf && (q.slm || a.evenPair) && b.wf
  | .atom i q d a b c => i.wf && q.wf && (d.isV || d == .none) && a.wf && (q.slm || a.evenPair) && b.wf && c.wf
  | .atomicPerform core _ => decide (core < 1536)
  | .writeBufferDrain core _ => decide (core < 1536)
  | .fenceLd i _ => i.wf
  | .fenceSt i _ => i.wf
  | .fenceFull i _ => i.wf
  | .fenceRelease core _ => decide (core < 1536)
  | .gredAdd i _ _ _ d a => i.wf && d.isDest && a.wf
  | .gredOr i _ _ d a => i.wf && d.isDest && a.wf
  | .gredXor i _ _ d a => i.wf && d.isDest && a.wf
  | .gredAnd i _ _ d a => i.wf && d.isDest && a.wf
  | .gredMin i _ _ _ d a => i.wf && d.isDest && a.wf
  | .gredMax i _ _ _ d a => i.wf && d.isDest && a.wf
  | .shfl i _ d a b => i.wf && d.isDest && a.wf && b.wf
  | .tileDesc i t u => i.wf && decide (t < 8) && decide (u < 64) && decide (u % 2 = 0)
  | .tileBase i t u => i.wf && decide (t < 8) && decide (u < 64) && decide (u % 2 = 0)
  | .tileLd i _ v n u row col => i.wf && decide (v < 255) && decide (0 < n) && decide (v + n ≤ 255) && decide (u < 64) && decide (u % 2 = 0) && row.wf && col.wf
  | .tileSt i _ v n u row col => i.wf && decide (v < 255) && decide (0 < n) && decide (v + n ≤ 255) && decide (u < 64) && decide (u % 2 = 0) && row.wf && col.wf
  | .mma i op => i.wf && op.wf && decide (i.nx = op.words)
  | .turnUnitReady cluster slot => decide (cluster < 192) && decide (slot < 16)
  | .escalationEval core _ => decide (core < 1536)
  | .mmaDrainWrite core _ => decide (core < 1536)
  | .arrayParityReexec core _ row => decide (core < 1536) && decide (row < 33)
  | .amaxContribution region _ => decide (region < 32)
  | .amaxCommit i u => i.wf && decide (u < 64) && decide (u % 2 = 0)
  | .stashOpen i _ p tag lines => i.wf && decide (p < 8) && tag.wf && lines.wf
  | .stashSt i size tag off v => i.wf && stashSize size && tag.wf && off.wf && v.wf
  | .stashSeal i tag => i.wf && tag.wf
  | .stashLd i size p v tag off => i.wf && stashSize size && decide (p < 8) && decide (v < 255) && tag.wf && off.wf
  | .stashFree i tag => i.wf && tag.wf
  | .epiOpen i job p u => i.wf && decide (job < 2) && decide (p < 8) && decide (u < 64) && decide (u % 2 = 0)
  | .epiJobComplete cluster ctx => decide (cluster < 192) && decide (ctx < 192)
  | .epiWait i job => i.wf && decide (job < 2)
  | .benchXlat i p d slot token => i.wf && decide (p < 8) && d.isV && d.evenPair && slot.isV && token.isV
  | .traceMark i id a => i.wf && id.wf && a.wf
  | .bra i p _ => i.wf && p.all (fun x => decide (x.2 < 8))
  | .call i _ => i.wf
  | .ret i => i.wf
  | .exit i => i.wf
  | .loop i count _ => i.wf && count.wf
  | .endloop i => i.wf
  | .loopBreak i => i.wf
  | .yield i => i.wf
  | .groupRotate core slot => decide (core < 1536) && decide (slot < 48)
  | .barSync i id count => i.wf && id.wf && count.all Opd.wf
  | .barPost i id d count => i.wf && id.wf && d.isDest && count.all Opd.wf
  | .barWait i id a => i.wf && id.wf && a.wf
  | .brk core slot _ => decide (core < 1536) && decide (slot < 48)
  | .sequencerLineBroadcast cluster => decide (cluster < 192)
  | .dbRing fn posted => decide (fn < 1026) && posted.all (fun x => decide (x.1 < 2 ^ 64))
  | .dbCompl fn posted => decide (fn < 1026) && posted.all (fun x => decide (x.1 < 2 ^ 64))
  | .fetcherPass fn => decide (fn < 1026)
  | .ringEntryAccept fn => decide (fn < 1026)
  | .slotAssign queue => decide (queue < 4096)
  | .jobStart queue => decide (queue < 4096)
  | .graphParse queue => decide (queue < 4096)
  | .jobPlace part => decide (part < 64)
  | .tenantSwitchScrub part tenant => decide (part < 64) && decide (tenant < 1024)
  | .rtJobPlace part => decide (part < 64)
  | .coreSaveTurn region => decide (region < 32)
  | .coreSaveComplete core => decide (core < 1536)
  | .parkedResponse die tag err _ _ => decide (die < 8) && decide (tag < 4096) && decide (err < 16)
  | .coreRestore core => decide (core < 1536)
  | .nodeDispatch _ => true
  | .blockPlace _ core => decide (core < 1536)
  | .nodeComplete _ => true
  | .consumerCountPoll queue posted => decide (queue < 4096) && posted.all (fun x => decide (x.1 < 2 ^ 64))
  | .logDrain queue => decide (queue < 4096)
  | .shotClockExpire queue => decide (queue < 4096)
  | .coreResetDrainEnd core => decide (core < 1536)
  | .refereeTest queue => decide (queue < 4096)
  | .substituteStart queue => decide (queue < 4096)
  | .deadlinePass queue => decide (queue < 4096)
  | .rangeOpStart die => decide (die < 8)
  | .rangeOpComplete die => decide (die < 8)
  | .copyStart die => decide (die < 8)
  | .copyComplete die => decide (die < 8)
  | .benchStepApply part => decide (part < 64)
  | .sliceFill pa => decide (pa < 2 ^ 48)
  | .prefetchFill pa => decide (pa < 2 ^ 48)
  | .sideEntryExpire region pa => decide (region < 32) && decide (pa < 2 ^ 48)
  | .evictionOffer core => decide (core < 1536)
  | .residencyTick => true
  | .mcRunRead ctl _ ecc => decide (ctl < 64) && ecc.wf
  | .mcRunWrite ctl _ eccs => decide (ctl < 64) && eccs.all EccIn.wf
  | .dramRefresh ctl pc => decide (ctl < 64) && decide (pc < 16)
  | .regulatorRefill => true
  | .memoryWindowBoundary => true
  | .patrolRead ctl ecc => decide (ctl < 64) && ecc.wf
  | .mcRetentionEnter ctl => decide (ctl < 64)
  | .correctedError site res => site.wf && res.all Resource.wf
  | .bucketLeak res => res.wf
  | .uncorrectedError site res => site.wf && res.all Resource.wf
  | .fatalError res => res.all Resource.wf
  | .d2dFlitReceive link seq ack body crc => decide (link < 16) && decide (seq < 1024) && decide (ack < 64) && (body.length == 250) && decide (crc < 2 ^ 32)
  | .d2dRetrainFail link => decide (link < 16)
  | .portDetectDone port _ => decide (port < 40)
  | .portDetectTimeout port => decide (port < 40)
  | .portTrainDone port _ => decide (port < 40)
  | .portAlignDone port => decide (port < 40)
  | .portExchangeDone port peer peerPort twin _ => decide (port < 40) && decide (peer < 256) && decide (peerPort < 40) && twinWf twin
  | .portRetrainEnter port => decide (port < 40)
  | .portRetrainTimeout port => decide (port < 40)
  | .flitReceive port seq ack kind rest fec msgs _ => fec.all (fun w => w.all (fun k => decide (k < 544))) && decide (port < 40) && decide (seq < 4096) && decide (ack < 4096) && decide (kind < 4) && (rest.length == 252) && msgs.all LinkMsg.wf
  | .replayRequestReceive port seq => decide (port < 40) && decide (seq < 4096)
  | .remoteRequestReceive port => decide (port < 40)
  | .remoteResponseReceive port die => decide (port < 40) && decide (die < 8)
  | .remoteTimeout die tag => decide (die < 8) && decide (tag < 4096)
  | .routeTableApply => true
  | .mirrorRecordReceive port => decide (port < 40)
  | .mirrorAck port => decide (port < 40)
  | .mirrorAckTimeout => true
  | .twinSynced => true
  | .twinAttachTimeout => true
  | .twinFailedReceive port => decide (port < 40)
  | .mbSubmit fn _ posted => decide (fn < 1026) && posted.all (fun x => decide (x.1 < 2 ^ 64))
  | .mbRespAck fn => decide (fn < 1026)
  | .mbResync fn => decide (fn < 1026)
  | .mgmtFailover => true
  | .queryCaps => true
  | .sync => true
  | .replayGet => true
  | .fwStatus => true
  | .ringConfig => true
  | .queueCreate => true
  | .queueConfig => true
  | .queueDestroy => true
  | .queueResume => true
  | .remapDone => true
  | .flagWrite => true
  | .flagRead => true
  | .codeLoad => true
  | .codeUnload => true
  | .codeUnloadEffect _ => true
  | .setPrecisionPolicy => true
  | .vtensorRegister => true
  | .vtensorUnregister => true
  | .benchPoolCreate => true
  | .benchPoolDestroy => true
  | .benchSeqQuery => true
  | .mapDevice => true
  | .mapHost => true
  | .mapRemote => true
  | .memUnmap => true
  | .mapQuery => true
  | .partitionCreate => true
  | .partitionDestroy => true
  | .tenantBind => true
  | .tenantUnbind => true
  | .qosSet => true
  | .rtReserveSet => true
  | .flagGrant => true
  | .memScrubConfig => true
  | .setStashReserve => true
  | .isolationSet => true
  | .linkConfig => true
  | .linkRetrain => true
  | .linkRouteSet => true
  | .linkExportSet => true
  | .linkTimeoutSet => true
  | .twinAttach => true
  | .twinDetach => true
  | .twinTakeover => true
  | .faultListRead => true
  | .faultListEdit => true
  | .keyChange => true
  | .fwUpdate => true
  | .debugUnlock => true
  | .debugLock => true
  | .whistle => true
  | .getVersion => true
  | .getCapabilities => true
  | .negotiateAlgorithms => true
  | .getDigests => true
  | .getCertificate => true
  | .challenge => true
  | .getMeasurements => true
  | .fePasidWrite fn value => decide (fn < 1026) && decide (value < 2 ^ 64)
  | .eventRingEnable fn value => decide (fn < 1026) && decide (value < 2 ^ 64)
  | .eventRingConsWrite fn value => decide (fn < 1026) && decide (value < 2 ^ 64)
  | .msixUnmask fn vec => decide (fn < 1026) && decide (vec < 2048)
  | .counterSnap fn _ => decide (fn < 1026)
  | .counterClear fn _ => decide (fn < 1026)
  | .counterOverflow _ _ => true
  | .whistlePinEdge => true
  | .whistleDriveEnd => true
  | .whistleRelease fn => decide (fn < 1026)
  | .breakArm fn unit value => decide (fn < 1026) && decide (unit < 4) && decide (value < 2 ^ 64)
  | .accessPortGo fn value => decide (fn < 1026) && decide (value < 2 ^ 64)
  | .traceDropEmit source => decide (source < 65536)
  | .registerWrite fn addr size value => decide (fn < 1026) && decide (addr < 2 ^ 22) && (size == 4 || size == 8) && decide (value < 2 ^ 64)
  | .configRequest fn reg _ => decide (fn < 1026) && decide (reg < 11)
  | .vfDisable => true
  | .d3hotEnter => true
  | .atsTranslationComplete fn pasid page host _ _ => decide (fn < 1026) && pasid.all (fun x => decide (x < 2 ^ 20)) && decide (page < 2 ^ 52) && decide (host < 2 ^ 52)
  | .atsInvalidateRequest fn pasid page _ => decide (fn < 1026) && pasid.all (fun x => decide (x < 2 ^ 20)) && decide (page < 2 ^ 52)
  | .prgResponse fn pasid page code => decide (fn < 1026) && pasid.all (fun x => decide (x < 2 ^ 20)) && decide (page < 2 ^ 52) && decide (code < 16)
  | .hostReadComplete die tag _ _ => decide (die < 8) && decide (tag < 4096)
  | .hostCompletionTimeout die tag => decide (die < 8) && decide (tag < 4096)
  | .functionLevelReset fn => decide (fn < 1026)
  | .powerGood boot => boot.wf
  | .inputUndervoltage => true
  | .refclkLoss => true
  | .mrstNAssert => true
  | .perstAssert => true
  | .pcieHotReset => true
  | .warmFlushTimeout _ => true
  | .warmResetRelease boot => boot.wf
  | .thermalStepCoarser b _ => b.wf
  | .thermalStepFiner b _ => b.wf
  | .thermalTrip => true
  | .thermalTripRecover => true
  | .limiterTrip => true
  | .limiterRelease => true
  | .leakDetect => true
  | .blockClockGate b => b.wf
  | .blockRetentionEnter b => b.wf
  | .blockWake b => b.wf
  | .d2dRetrainDone link => decide (link < 16)
  | .tracePortUpChange _ => true
  | .mctpMessageReceive type _ => decide (type < 128)
  | .i3cEntdaa addr => decide (addr < 128)
  | .perstRelease => true
  | .stackTemperatureReadout stack _ => decide (stack < 16)
  | .twinDetachNotice port => decide (port < 40)

end Sys2Proof
end

