-- ==== Sys2Proof/Decode.lean ====
section
/-! DEFINITION. The words of Lysril instructions that the spec lays out bit by bit (R190 to R201, R204): word 0, the
opcode groups, the qualifier words of memory instructions, of CVT.BLK and of MMA, and MMA's extension words. No row of the
opcode table gives bits of its own; the words below are the spec's. -/

namespace Sys2Proof

/-- `n` bits of a word from bit `lo`. -/
def wordField (w lo n : Nat) : Nat := w / 2 ^ lo % 2 ^ n

/-- One bit of a word. -/
def wordBit (w i : Nat) : Bool := w.testBit i

/-- The groups of Table 7.5. -/
inductive OpGroup
  | vector | fp64 | special | blockConversion | memory | groupData | tiles | matrix | backward | control | serving | trace
  deriving DecidableEq, Repr

/-- The group of an opcode (R198); none: reserved. -/
def opGroup (op : Nat) : Option OpGroup :=
  if op ≤ 0x0FF then some .vector
  else if op ≤ 0x13F then some .fp64
  else if op ≤ 0x17F then some .special
  else if op ≤ 0x18F then some .blockConversion
  else if 0x200 ≤ op ∧ op ≤ 0x27F then some .memory
  else if 0x300 ≤ op ∧ op ≤ 0x33F then some .groupData
  else if 0x340 ≤ op ∧ op ≤ 0x35F then some .tiles
  else if op = 0x400 then some .matrix
  else if 0x480 ≤ op ∧ op ≤ 0x49F then some .backward
  else if 0x500 ≤ op ∧ op ≤ 0x53F then some .control
  else if op = 0x600 then some .serving
  else if op = 0x610 then some .trace
  else none

/-- The operation word (Table 7.2): each operand is its kind and its byte. -/
structure Word0 where
  op : Nat
  group : OpGroup
  nx : Nat
  guarded : Bool
  negated : Bool
  guard : Nat
  d : Nat × Nat
  a : Nat × Nat
  b : Nat × Nat
  c : Nat × Nat
  deriving DecidableEq, Repr

/-- Word 0 (R190); refused with a reserved bit set or an opcode that Table 7.5 does not assign. -/
def decodeWord0 (w : Nat) : Option Word0 :=
  match opGroup (wordField w 52 12) with
  | none => none
  | some g =>
    if wordField w 40 3 ≠ 0 then none
    else some
      { op := wordField w 52 12, group := g, nx := wordField w 48 4, guarded := wordBit w 47, negated := wordBit w 46
        guard := wordField w 43 3
        d := (wordField w 38 2, wordField w 24 8), a := (wordField w 36 2, wordField w 16 8)
        b := (wordField w 34 2, wordField w 8 8), c := (wordField w 32 2, wordField w 0 8) }

/-- An operand by its kind (R191): `cls` is the class of the opcode's signature in that position, `fixed` the number of the
opcode's fixed extension words, `ext` all of them. -/
def decodeOpd (cls : Nat → Opd) (fixed : Nat) (ext : List Nat) (o : Nat × Nat) : Option Opd :=
  match o.1 with
  | 0 => if o.2 = 255 then some .none else some (.v o.2)
  | 1 => if o.2 < 64 then some (.u o.2) else none
  | 2 => if o.2 < 8 then some (cls o.2) else none
  | _ => (ext[fixed + o.2]?).map (fun x => .imm (BitVec.ofNat 64 x))

/-- A saturation mode field (Table 7.6). -/
def decodeSat : Nat → Option SatMode
  | 0 => some .default
  | 1 => some .sat
  | 2 => some .nosat
  | _ => none

/-- Word 1 of a memory instruction (R199). -/
def decodeMemQ (w : Nat) : Option MemQ :=
  let hint : Hint := match wordField w 56 2 with | 0 => .plain | 1 => .stream | 2 => .keep | _ => .dal
  let scope : Scope := match wordField w 54 2 with | 0 => .group | 1 => .block | 2 => .device | _ => .system
  let order : Option MemOrder := match wordField w 52 2 with | 0 => some .none | 1 => some .acq | 2 => some .rel | _ => none
  let ops : List AtomOp := [.add, .min, .max, .and, .or, .xor, .cas, .exch, .fadd]
  match order, ops[wordField w 48 4]? with
  | some order, some op =>
    let q : MemQ := { size := wordField w 60 4, slm := wordField w 58 2 == 1, hint := hint, scope := scope, order := order, op := op }
    if wordField w 0 48 = 0 ∧ wordField w 58 2 < 2 ∧ q.wf = true then some q else none
  | _, _ => none

/-- Word 1 of CVT.BLK (R204), with the operands of word 0: the descriptor's pair, the source and the block index. -/
def decodeCvtBlk (w du v : Nat) (blk : ImmU) : Option CvtBlk :=
  match decodeSat (wordField w 54 2) with
  | none => none
  | some sat =>
    let q : CvtBlk :=
      { fmt := wordField w 60 4, attr := wordField w 59 1, src := wordField w 57 2, sr := wordBit w 56, sat := sat
        q := wordBit w 53, ds := wordBit w 52, v := v, du := du, blk := blk }
    if wordField w 0 52 = 0 ∧ q.wf = true then some q else none

/-- A number of an extension word: its low bits, or the uniform register that holds it, whose number stands at `lo`. -/
def extNumber (w lo n : Nat) : ImmU := if wordBit w 63 then .u (wordField w lo 6) else .imm (wordField w 0 n)

/-- MMA (R200, R201): handles and pair from word 0, Table 7.6's qualifier word, and Table 7.7's extension words, each present
exactly when its condition holds. -/
def decodeMma (w : Word0) (q : Nat) (ext : List Nat) : Option MmaOp :=
  let cEn := wordBit q 40
  let ct := if cEn then (if w.c.1 = 2 then some (some w.c.2) else none) else (if w.c = (0, 255) then some none else none)
  let outl := wordBit q 43
  let epi := wordBit q 41
  let k0At := 2 + cEn.toNat
  let panelAt := k0At + outl.toNat
  let shape := ext.getD 0 0
  let origin := ext.getD 1 0
  let beta := if cEn then ext.getD 2 0 else 0
  let k0 := if outl then ext.getD k0At 0 else 0
  let panel := if epi then ext.getD panelAt 0 else 0
  match ct, decodeSat (wordField q 46 2) with
  | some ct, some sat =>
    let op : MmaOp :=
      { dt := w.d.2, st := w.a.2, tu := w.b.2, ct := ct, sFmt := wordField q 60 4, tFmt := wordField q 56 4
        oFmt := wordField q 52 4, sAttr := wordField q 51 1, tAttr := wordField q 50 1, transposed := wordBit q 49
        sr := wordBit q 48, sat := sat, part := wordBit q 45, esc := wordBit q 44, outl := outl, outlStream := wordBit q 39
        amax := wordBit q 42, epi := epi, epiJob := wordField q 38 1, epiZ := wordBit q 37, epiFr := wordBit q 36
        shape := extNumber shape 32 26
        vorg := if wordBit origin 63 then .u (wordField origin 48 6) else .imm (wordField origin 0 32)
        korg := if wordBit origin 63 then 0 else wordField origin 32 16
        beta := extNumber beta 32 32, k0 := k0, featOrg := wordField panel 32 17, rowOrg := wordField panel 0 5 }
    if w.d.1 = 2 ∧ w.a.1 = 2 ∧ w.b.1 = 1 ∧ wordField q 0 36 = 0 ∧ ext.length = w.nx ∧ w.nx = op.words ∧
        wordField shape 26 6 = 0 ∧ wordField shape 38 25 = 0 ∧ (wordBit shape 63 = true → wordField shape 0 26 = 0) ∧
        wordField origin 54 9 = 0 ∧ wordField beta 38 25 = 0 ∧ k0 < 2 ^ 16 ∧
        wordField panel 5 27 = 0 ∧ wordField panel 49 15 = 0 ∧ op.wf = true then some op else none
  | _, _ => none

/-- The instruction that words spell, as a group on a core's residency slot issues it, where the spec gives its opcode
exactly: MMA, BENCH.XLAT and TRACE.MARK (Table 7.5). The spec gives which operand stands in which byte for MMA alone; the
others take D, A, B and C in the order in which their mnemonics name their operands, and TRACE.MARK, which writes none, has
no D (DEDUCED, log entry 145). -/
def decodeLysril (core slot : Nat) : List Nat → Option Instr
  | w0 :: q :: ext =>
    match decodeWord0 w0 with
    | none => none
    | some w =>
      let i : Iss := { core := core, slot := slot, guarded := w.guarded, negated := w.negated, guard := w.guard, nx := w.nx }
      let opd := decodeOpd .p 0 ext
      let ins : Option Instr :=
        if w.op = 0x400 then (decodeMma w q ext).map (.mma i)
        else if q ≠ 0 then none
        else if w.op = 0x600 then
          match opd w.d, opd w.a, opd w.b, opd w.c with
          | some (.p p), some d, some s, some t => some (.benchXlat i p d s t)
          | _, _, _, _ => none
        else if w.op = 0x610 then
          match opd w.d, opd w.a, opd w.b, opd w.c with
          | some .none, some a, some (.imm x), some .none => some (.traceMark i (.imm x.toNat) a)
          | some .none, some a, some (.u n), some .none => some (.traceMark i (.u n) a)
          | _, _, _, _ => none
        else none
      ins.bind (fun x => if ext.length = w.nx ∧ x.wf = true then some x else none)
  | _ => none

/-- The 64-bit words of a number, the first word lowest. -/
def wordsOf (n w : Nat) : List Nat := (List.range n).map (fun k => w / 2 ^ (64 * k) % 2 ^ 64)

/-- The command that a word spells: the Lysril instruction of these words, issued by residency slot 0 of core 0 (DESIGN
CHOICE, log entry 145). The table gives bits to no row, so no row is asked about. -/
def decodeTableWord (nbits w : Nat) : Option Instr := decodeLysril 0 0 (wordsOf (nbits / 64) w)

end Sys2Proof
end

