-- ==== Sys2Proof/Machine/Base.lean ====
section
/-! DEFINITION. Shared helpers: sorted association lists with a default, bit fields, little-endian bytes (R11),
lines and their bytes. -/

namespace Sys2Proof.Machine

/-! ### Association lists in rising key order -/

/-- A table from numbers to `α`, keys rising; an unlisted key has no entry. -/
abbrev AL (α : Type) := List (Nat × α)

/-- The entry of key `k`, if one is listed. -/
def alFind {α : Type} : AL α → Nat → Option α
  | [], _ => none
  | (k', v) :: r, k => if k = k' then some v else alFind r k

/-- The entry of key `k`, or `d` when none is listed. -/
def alGet {α : Type} (d : α) (m : AL α) (k : Nat) : α := (alFind m k).getD d

/-- Set the entry of key `k`, keeping the keys rising. -/
def alPut {α : Type} : AL α → Nat → α → AL α
  | [], k, v => [(k, v)]
  | (k', v') :: r, k, v =>
    if k < k' then (k, v) :: (k', v') :: r
    else if k = k' then (k, v) :: r
    else (k', v') :: alPut r k v

/-- Remove the entry of key `k`. -/
def alDel {α : Type} : AL α → Nat → AL α
  | [], _ => []
  | (k', v') :: r, k => if k = k' then r else (k', v') :: alDel r k

/-- Change the entry of key `k`, starting from `d` when none is listed. -/
def alMod {α : Type} (d : α) (m : AL α) (k : Nat) (f : α → α) : AL α := alPut m k (f (alGet d m k))

/-- Apply `f` to every listed entry. -/
def alMap {α : Type} (m : AL α) (f : Nat → α → α) : AL α := m.map (fun e => (e.1, f e.1 e.2))

/-- The listed entries that satisfy `p`. -/
def alFilter {α : Type} (m : AL α) (p : Nat → α → Bool) : AL α := m.filter (fun e => p e.1 e.2)

/-- The least number not among the keys, starting from `k`. -/
def alFresh {α : Type} (m : AL α) : Nat :=
  m.foldl (fun n e => max n (e.1 + 1)) 0

/-! ### Bit fields and bytes -/

/-- Bits [hi : lo] of `x`. -/
def bits (x hi lo : Nat) : Nat := (x >>> lo) % 2 ^ (hi + 1 - lo)

/-- Bit `i` of `x`. -/
def bit (x i : Nat) : Bool := x.testBit i

/-- 1 for true. -/
def b2n (b : Bool) : Nat := if b then 1 else 0

/-- `x` with bit `i` set. -/
def setBitN (x i : Nat) : Nat := x ||| (1 <<< i)

/-- Little-endian number of a list of bytes (R11). -/
def leNat : List Byte → Nat
  | [] => 0
  | b :: r => b.toNat + 256 * leNat r

/-- The `n` little-endian bytes of `x` (R11). -/
def leBytes : (n x : Nat) → List Byte
  | 0, _ => []
  | n + 1, x => BitVec.ofNat 8 x :: leBytes n (x / 256)

/-- `n` bytes of a list from `off`, zeros beyond its end. -/
def sliceBytes (bs : List Byte) (off n : Nat) : List Byte :=
  let s := (bs.drop off).take n
  s ++ List.replicate (n - s.length) 0

/-- The little-endian field of `n` bytes at `off`. -/
def fieldAt (bs : List Byte) (off n : Nat) : Nat := leNat ((bs.drop off).take n)

/-- Numbers 0 to n − 1 where the bits of `m` are set. -/
def setBits (n m : Nat) : List Nat := (List.range n).filter (fun i => m.testBit i)

/-- Number of set bits among the first `n`. -/
def popCount (n m : Nat) : Nat := (setBits n m).length

/-- Ceiling division. -/
def ceilDiv (a b : Nat) : Nat := (a + b - 1) / b

/-! ### Lines -/

/-- Byte `k` of a line. -/
def lineByte (l : Line) (k : Nat) : Byte := BitVec.ofNat 8 (l.toNat >>> (8 * k))

/-- The line whose byte k is `f k`. -/
def lineOf (f : Nat → Byte) : Line :=
  BitVec.ofNat 1024 (leNat ((List.range 128).map f))

/-- The bytes of `new` where the mask is set, and of `old` elsewhere. -/
def lineMerge (old new : Line) (mask : LineMask) : Line :=
  lineOf (fun k => if mask.getLsbD k then lineByte new k else lineByte old k)

/-- A line with the bytes `bs` from byte `off`, zeros elsewhere. -/
def linePlace (off : Nat) (bs : List Byte) : Line := BitVec.ofNat 1024 (leNat bs <<< (8 * off))

/-- The mask of `n` bytes from byte `off`. -/
def maskOf (off n : Nat) : LineMask := BitVec.ofNat 128 ((2 ^ n - 1) <<< off)

/-- Bytes `off` to `off + n − 1` of a line. -/
def lineSlice (l : Line) (off n : Nat) : List Byte := leBytes n (l.toNat >>> (8 * off))

/-- Every byte of the line is in the mask. -/
def maskFull (m : LineMask) : Bool := m = BitVec.allOnes 128

/-- The 64-byte sectors of a line touched by a mask (R297): bit 0 the lower, bit 1 the upper. -/
def maskSectors (m : LineMask) : BitVec 2 :=
  BitVec.ofNat 2 (b2n (m.toNat % 2 ^ 64 != 0) + 2 * b2n (m.toNat / 2 ^ 64 != 0))

/-- The sectors of a line that a mask covers whole (R300). -/
def maskWholeSectors (m : LineMask) : BitVec 2 :=
  BitVec.ofNat 2 (b2n (m.toNat % 2 ^ 64 == 2 ^ 64 - 1) + 2 * b2n (m.toNat / 2 ^ 64 == 2 ^ 64 - 1))

/-! ### Memory as cells -/

/-- Byte at an address in a canonical list of cells; an unlisted address reads as 0 (R307). -/
def cellGet : List (Nat × BitVec 8) → Nat → Byte
  | [], _ => 0
  | (a', b) :: r, a => if a = a' then b else if a < a' then 0 else cellGet r a

/-- Write one byte, keeping the addresses rising and listing no zero byte. -/
def cellPut : List (Nat × BitVec 8) → Nat → Byte → List (Nat × BitVec 8)
  | [], a, b => if b = 0 then [] else [(a, b)]
  | (a', b') :: r, a, b =>
    if a < a' then (if b = 0 then (a', b') :: r else (a, b) :: (a', b') :: r)
    else if a = a' then (if b = 0 then r else (a, b) :: r)
    else (a', b') :: cellPut r a b

/-- Write consecutive bytes from `a`. -/
def cellPuts (m : List (Nat × BitVec 8)) (a : Nat) : List Byte → List (Nat × BitVec 8)
  | [] => m
  | b :: bs => cellPuts (cellPut m a b) (a + 1) bs

/-- Read `n` consecutive bytes from `a`. -/
def cellGets (m : List (Nat × BitVec 8)) (a n : Nat) : List Byte :=
  (List.range n).map (fun i => cellGet m (a + i))

/-- Zero `n` bytes from `a`: the cells in the range are unlisted. -/
def cellZero (m : List (Nat × BitVec 8)) (a n : Nat) : List (Nat × BitVec 8) :=
  m.filter (fun c => decide (c.1 < a) || decide (a + n ≤ c.1))

/-- The canonical form of a memory: addresses strictly rising, no listed zero. -/
def cellsWf : List (Nat × BitVec 8) → Bool
  | [] => true
  | [(_, b)] => b ≠ 0
  | (a, b) :: (a', b') :: r => b ≠ 0 && decide (a < a') && cellsWf ((a', b') :: r)

/-- A BENCH_STEP body that breaks Table 14.2. -/
def benchBodyBad (b : List Byte) : Bool :=
  (fieldAt b 56 8 % 64 != 0) || (fieldAt b 64 8 % 4096 != 0) || decide (1 < fieldAt b 72 1) || (b.drop 73).any (· != 0)

end Sys2Proof.Machine
end

