-- ==== Sys2Proof/Machine/Numeric.lean ====
section
/-! DEFINITION. Numeric formats and rounding (spec chapter 03): decoding and encoding of every element and scale
format, round28, the rounding modes with the stochastic generator, IEEE special values, and the correctly
rounded special functions of R165. Values are exact rationals. -/

namespace Sys2Proof.Machine

/-! ### Exact values -/

/-- A decoded value: NaN, an infinity, or a sign and a magnitude (so that −0 is a value, R85). -/
inductive XVal
  | nan
  | inf (neg : Bool)
  | fin (neg : Bool) (mag : Rat)
  deriving DecidableEq, Repr

/-- The value of an exact rational; zero is +0. -/
def xOf (q : Rat) : XVal := .fin (decide (q < 0)) (if q < 0 then -q else q)

/-- The rational of a finite value, 0 otherwise. -/
def xRat : XVal → Rat
  | .fin n m => if n then -m else m
  | _ => 0

/-- +0. -/
def xZero : XVal := .fin false 0
/-- −0, the empty sum of R83. -/
def xNegZero : XVal := .fin true 0
/-- 1. -/
def xOne : XVal := .fin false 1

/-- A finite value. -/
def xIsFin : XVal → Bool
  | .fin _ _ => true
  | _ => false

/-- A zero of either sign. -/
def xIsZero : XVal → Bool
  | .fin _ m => m == 0
  | _ => false

/-- The magnitude of a finite value, 0 otherwise. -/
def xMag : XVal → Rat
  | .fin _ m => m
  | _ => 0

/-- The sign bit; NaN has sign 0 (R74). -/
def xNegative : XVal → Bool
  | .nan => false
  | .inf n => n
  | .fin n _ => n

/-- Negation. -/
def xNeg : XVal → XVal
  | .nan => .nan
  | .inf n => .inf (!n)
  | .fin n m => .fin (!n) m

/-- Exact product (R85): NaN operands and 0 × ∞ give NaN; the sign is the exclusive-or. -/
def xMul : XVal → XVal → XVal
  | .nan, _ => .nan
  | _, .nan => .nan
  | .inf a, .inf b => .inf (a != b)
  | .inf a, .fin b m => if m = 0 then .nan else .inf (a != b)
  | .fin a m, .inf b => if m = 0 then .nan else .inf (a != b)
  | .fin a m, .fin b k => .fin (a != b) (m * k)

/-- Exact sum (R85): opposite infinities give NaN; a zero sum is −0 only when both addends are −0. -/
def xAdd : XVal → XVal → XVal
  | .nan, _ => .nan
  | _, .nan => .nan
  | .inf a, .inf b => if a = b then .inf a else .nan
  | .inf a, .fin _ _ => .inf a
  | .fin _ _, .inf b => .inf b
  | .fin a m, .fin b k =>
    let q := xRat (.fin a m) + xRat (.fin b k)
    if q = 0 then .fin (a && b && m == 0 && k == 0) 0 else xOf q

/-- Exact quotient: 0/0 and ∞/∞ are NaN, a finite value over 0 is an infinity. -/
def xDiv : XVal → XVal → XVal
  | .nan, _ => .nan
  | _, .nan => .nan
  | .inf _, .inf _ => .nan
  | .inf a, .fin b _ => .inf (a != b)
  | .fin a _, .inf b => .fin (a != b) 0
  | .fin a m, .fin b k => if k = 0 then (if m = 0 then .nan else .inf (a != b)) else .fin (a != b) (m / k)

/-- The exact sum of a list, from the empty sum −0 (R83). -/
def xSum (l : List XVal) : XVal := l.foldl xAdd xNegZero

/-- `a < b` for values that are numbers; −0 equals +0. -/
def xLt : XVal → XVal → Bool
  | .nan, _ => false
  | _, .nan => false
  | .inf a, .inf b => a && !b
  | .inf a, .fin _ _ => a
  | .fin _ _, .inf b => !b
  | x, y => decide (xRat x < xRat y)

/-- Equal as numbers. -/
def xEq : XVal → XVal → Bool
  | .nan, _ => false
  | _, .nan => false
  | .inf a, .inf b => a == b
  | .fin a m, .fin b k => decide (xRat (.fin a m) = xRat (.fin b k))
  | _, _ => false

/-! ### Powers of two and binary exponents -/

/-- 2^e for an integer e. -/
def pow2 (e : Int) : Rat := if 0 ≤ e then ((2 ^ e.toNat : Nat) : Rat) else 1 / ((2 ^ (-e).toNat : Nat) : Rat)

/-- ⌊log₂ q⌋ for q > 0. -/
def floorLog2 (q : Rat) : Int :=
  let e : Int := (Nat.log2 q.num.natAbs : Int) - (Nat.log2 q.den : Int)
  if pow2 e ≤ q then e else e - 1

/-- ⌊q⌋ of a rational that is not negative. -/
def floorNat (q : Rat) : Nat := q.num.natAbs / q.den

/-! ### Rounding -/

/-- The rounding modes of R89; stochastic rounding carries the element's 16-bit random value (R91). -/
inductive Rnd
  | rne | sr (r : Nat) | rz | ru | rd
  deriving DecidableEq, Repr

/-- Whether the magnitude k + f, 0 ≤ f < 1, in units of the last place, rounds up to k + 1 (R90, R91). -/
def roundUp (mode : Rnd) (neg : Bool) (k : Nat) (f : Rat) : Bool :=
  match mode with
  | .rne => decide (1 / 2 < f) || (f == 1 / 2 && k % 2 == 1)
  | .sr r => decide (r < floorNat (f * 65536))
  | .rz => false
  | .ru => f != 0 && !neg
  | .rd => f != 0 && neg

/-- Round a magnitude to a multiple of the unit u; the answer is the count of units. -/
def roundUnits (mode : Rnd) (neg : Bool) (m u : Rat) : Nat :=
  let k := floorNat (m / u)
  if roundUp mode neg k (m / u - k) then k + 1 else k

/-- Round a value to `p` significant bits with no exponent limit, to nearest, ties to even. -/
def roundSig (p : Nat) : XVal → XVal
  | .fin n m =>
    if m = 0 then .fin n 0
    else
      let u := pow2 (floorLog2 m - (p : Int) + 1)
      .fin n (roundUnits .rne n m u * u)
  | x => x

/-- The internal rounding of R83: a 28-bit significand. -/
def round28 : XVal → XVal := roundSig 28

/-! ### Floating formats -/

/-- How a format uses its top exponent (Table 3.1). -/
inductive TopExp
  /-- all-ones exponents are infinities and NaN -/
  | special
  /-- finite except S.1111.111, which is NaN (E4M3) -/
  | nanOnly
  /-- every encoding is finite -/
  | finite
  deriving DecidableEq, Repr

/-- The fields of a floating format (Table 3.1). -/
structure FloatFmt where
  e : Nat
  m : Nat
  bias : Nat
  top : TopExp
  deriving DecidableEq, Repr

def fmtFP64 : FloatFmt := ⟨11, 52, 1023, .special⟩
def fmtFP32 : FloatFmt := ⟨8, 23, 127, .special⟩
def fmtBF16 : FloatFmt := ⟨8, 7, 127, .special⟩
def fmtFP16 : FloatFmt := ⟨5, 10, 15, .special⟩
def fmtE4M3 : FloatFmt := ⟨4, 3, 7, .nanOnly⟩
def fmtE5M2 : FloatFmt := ⟨5, 2, 15, .special⟩
def fmtE3M2 : FloatFmt := ⟨3, 2, 3, .finite⟩
def fmtE2M3 : FloatFmt := ⟨2, 3, 1, .finite⟩
def fmtE2M1 : FloatFmt := ⟨2, 1, 1, .finite⟩

/-- Width of an element in bits. -/
def FloatFmt.width (f : FloatFmt) : Nat := 1 + f.e + f.m

/-- The largest finite value (Table 3.1). -/
def FloatFmt.maxFinite (f : FloatFmt) : Rat :=
  match f.top with
  | .special => pow2 ((2 ^ f.e - 2 : Nat) - (f.bias : Int)) * (2 - 1 / ((2 ^ f.m : Nat) : Rat))
  | .nanOnly => pow2 ((2 ^ f.e - 1 : Nat) - (f.bias : Int)) * (2 - 2 / ((2 ^ f.m : Nat) : Rat))
  | .finite => pow2 ((2 ^ f.e - 1 : Nat) - (f.bias : Int)) * (2 - 1 / ((2 ^ f.m : Nat) : Rat))

/-- Decode an element (R72, R74). -/
def FloatFmt.decode (f : FloatFmt) (x : Nat) : XVal :=
  let s := bit x (f.e + f.m)
  let ex := bits x (f.e + f.m - 1) f.m
  let ma := x % 2 ^ f.m
  let topE := 2 ^ f.e - 1
  if ex = topE && f.top = .special then (if ma = 0 then .inf s else .nan)
  else if ex = topE && f.top = .nanOnly && ma = 2 ^ f.m - 1 then .nan
  else if ex = 0 then .fin s (pow2 (1 - (f.bias : Int)) * ma / (2 ^ f.m : Nat))
  else .fin s (pow2 ((ex : Int) - f.bias) * (1 + (ma : Rat) / (2 ^ f.m : Nat)))

/-- The canonical NaN (R74). -/
def FloatFmt.canonNan (f : FloatFmt) : Nat :=
  match f.top with
  | .special => (2 ^ f.e - 1) * 2 ^ f.m + 2 ^ (f.m - 1)
  | .nanOnly => 2 ^ (f.e + f.m) - 1
  | .finite => 0

/-- Encode a finite magnitude given as a count of units at its exponent: subnormals have E = 0. -/
def FloatFmt.pack (f : FloatFmt) (neg : Bool) (body : Nat) : Nat := b2n neg * 2 ^ (f.e + f.m) + body

/-- The encoding of the largest finite magnitude. -/
def FloatFmt.maxBody (f : FloatFmt) : Nat :=
  match f.top with
  | .special => (2 ^ f.e - 1) * 2 ^ f.m - 1
  | .nanOnly => 2 ^ (f.e + f.m) - 2
  | .finite => 2 ^ (f.e + f.m) - 1

/-- Encoding without the sign, before the overflow test, of a magnitude rounded in `mode`; the second part is the
rounded magnitude. -/
def FloatFmt.roundBody (f : FloatFmt) (mode : Rnd) (neg : Bool) (m : Rat) : Nat × Rat :=
  if m = 0 then (0, 0)
  else
    let emin : Int := 1 - (f.bias : Int)
    let ex := max (floorLog2 m) emin
    let u := pow2 (ex - (f.m : Int))
    let k := roundUnits mode neg m u
    let body := if k < 2 ^ f.m then k else (ex + f.bias).toNat * 2 ^ f.m + (k - 2 ^ f.m)
    (body, k * u)

/-- What a conversion of one element writes and how the precision monitor counts it (R93). -/
structure Conv where
  bits : Nat
  clipped : Bool
  flushed : Bool
  deriving DecidableEq, Repr

/-- Convert to a floating format: rounding (R89 to R91), Table 3.7 for what is out of range, and the
counts of R93. In the directed modes overflow follows IEEE 754 (R99). -/
def FloatFmt.convert (f : FloatFmt) (mode : Rnd) (sat : Bool) (x : XVal) : Conv :=
  match x with
  | .nan => ⟨f.canonNan, false, false⟩
  | .inf n =>
    if sat || f.top = .finite then ⟨f.pack n f.maxBody, true, false⟩
    else if f.top = .nanOnly then ⟨f.canonNan, true, false⟩
    else ⟨f.pack n ((2 ^ f.e - 1) * 2 ^ f.m), false, false⟩
  | .fin n m =>
    let (body, q) := f.roundBody mode n m
    let beyond := decide (f.maxFinite < q)
    let clip := decide (f.maxFinite < m) || beyond
    if beyond then
      if sat || f.top = .finite || mode = .rz || (mode = .ru && n) || (mode = .rd && !n) then
        ⟨f.pack n f.maxBody, clip, false⟩
      else if f.top = .nanOnly then ⟨f.canonNan, clip, false⟩
      else ⟨f.pack n ((2 ^ f.e - 1) * 2 ^ f.m), clip, false⟩
    else ⟨f.pack n body, clip, m != 0 && body == 0⟩

/-- Round to FP32 to nearest even, overflow to an infinity: round_fp32_rne of R83 and rnd32 of R148. -/
def roundFp32 (x : XVal) : XVal := fmtFP32.decode (fmtFP32.convert .rne false x).bits

/-- FP32 bits of a value under a rounding mode. -/
def toFp32 (mode : Rnd) (x : XVal) : Word := BitVec.ofNat 32 (fmtFP32.convert mode false x).bits

/-- Decode a register's FP32. -/
def ofFp32 (w : Word) : XVal := fmtFP32.decode w.toNat

/-! ### Integer formats -/

/-- Two's complement value of the low `w` bits. -/
def sInt (w x : Nat) : Int := let y := x % 2 ^ w; if y < 2 ^ (w - 1) then y else (y : Int) - (2 ^ w : Nat)

/-- The low `w` bits of an integer. -/
def uOfInt (w : Nat) (i : Int) : Nat := (i % ((2 ^ w : Nat) : Int)).toNat

/-- Round a value to an integer in `mode`, saturate to lo..hi: INT8, INT4, INT2, ternary (R90 to R93). NaN writes
0; an infinity saturates. -/
def convertInt (w : Nat) (lo hi : Int) (nanClips : Bool) (mode : Rnd) (x : XVal) : Conv :=
  match x with
  | .nan => ⟨0, nanClips, false⟩
  | .inf n => ⟨uOfInt w (if n then lo else hi), true, false⟩
  | .fin n m =>
    let k := roundUnits mode n m 1
    let v : Int := if n then -(k : Int) else k
    let q : Rat := xRat (.fin n m)
    let c := if v < lo then lo else if hi < v then hi else v
    ⟨uOfInt w c, decide (v < lo) || decide (hi < v) || decide (q < lo) || decide ((hi : Rat) < q),
      m != 0 && c == 0⟩

/-! ### Element and scale formats by code -/

/-- Class of a matrix multiplicand's format (Table 2.1): its packing, or 0 when it is no multiplicand. -/
def packing (code : Nat) : Nat :=
  if code = 1 || code = 2 then 2
  else if code = 3 || code = 4 || code = 5 || code = 6 || code = 7 || code = 0xA then 4
  else if code = 8 || code = 9 || code = 0xB then 8
  else if code = 0xC || code = 0xD then 16 else 0

/-- Element width in bits of a format code (Tables 3.1, 3.3). -/
def elemBits (code : Nat) : Nat :=
  match code with
  | 0x0 => 32 | 0x1 => 16 | 0x2 => 16 | 0x3 => 8 | 0x4 => 8 | 0x5 => 8 | 0x6 => 6 | 0x7 => 6
  | 0x8 => 4 | 0x9 => 4 | 0xA => 8 | 0xB => 4 | 0xC => 2 | 0xD => 2 | 0xE => 64 | _ => 0

/-- Whether code and attribute are a format at all (R73, R100). -/
def fmtValid (code attr : Nat) : Bool :=
  decide (code < 15) && (attr == 0 || code == 5 || code == 0xA)

/-- Block size of a block format, 0 for a plain one (Table 3.5). -/
def blockSize (code attr : Nat) : Nat :=
  if code = 5 || code = 6 || code = 7 || code = 8 || code = 9 || (code = 0xA && attr = 1) then 32
  else if code = 0xC || code = 0xD then 16 else 0

/-- Whether the block scale is E8M0 (an MX format); otherwise E5M3. -/
def isMx (code attr : Nat) : Bool :=
  code == 5 || code == 6 || code == 7 || code == 8 || (code == 0xA && attr == 1)

/-- Bytes of a scale entry (Table 3.6). -/
def scaleBytes (code attr : Nat) : Nat := if blockSize code attr = 0 then 0 else if code = 9 then 2 else 1

/-- The element's floating format, if it has one. -/
def floatOf (code attr : Nat) : Option FloatFmt :=
  match code with
  | 0x0 => some fmtFP32 | 0x1 => some fmtBF16 | 0x2 => some fmtFP16 | 0x3 => some fmtE4M3
  | 0x4 => some fmtE5M2 | 0x5 => some (if attr = 1 then fmtE5M2 else fmtE4M3)
  | 0x6 => some fmtE3M2 | 0x7 => some fmtE2M3 | 0x8 => some fmtE2M1 | 0x9 => some fmtE2M1
  | 0xE => some fmtFP64 | _ => none

/-- Decode an element without its scales (R72, R76, Tables 3.1 to 3.3). -/
def decodeElem (code attr x : Nat) : XVal :=
  match floatOf code attr with
  | some f => f.decode x
  | none =>
    match code with
    | 0xA => if attr = 1 then xOf ((sInt 8 x : Rat) / 64) else xOf (sInt 8 x : Rat)
    | 0xB => xOf (sInt 4 x : Rat)
    | 0xC => xOf (sInt 2 x : Rat)
    | 0xD => if x % 4 = 2 then xZero else xOf (sInt 2 x : Rat)
    | _ => .nan

/-- Decode an E8M0 scale (Table 3.4). -/
def decodeE8M0 (x : Nat) : XVal := if x % 256 = 255 then .nan else .fin false (pow2 ((x % 256 : Nat) - (127 : Int)))

/-- Decode an E5M3 scale (Table 3.4, R72 with no sign). -/
def decodeE5M3 (x : Nat) : XVal :=
  let y := x % 256
  let ex := y / 8
  let ma := y % 8
  if y = 255 then .nan
  else if ex = 0 then .fin false ((ma : Rat) / 8 * pow2 (-14))
  else .fin false ((1 + (ma : Rat) / 8) * pow2 ((ex : Int) - 15))

/-- Decode a block scale. -/
def decodeScale (code attr x : Nat) : XVal :=
  if blockSize code attr = 0 then xOne
  else if isMx code attr then decodeE8M0 x else decodeE5M3 x

/-- An element with its block scale and micro-shift, without the tensor scale (R77, R79, R80): a zero E5M3 scale
gives +0, a NaN scale gives NaN, whatever the element's bits. -/
def decodeScaled (code attr scale shift x : Nat) : XVal :=
  if blockSize code attr = 0 then decodeElem code attr x
  else
    match decodeScale code attr scale with
    | .nan => .nan
    | s => if xIsZero s then xZero
           else xMul (xMul s (.fin false (pow2 (-(shift : Int))))) (decodeElem code attr x)

/-! ### Choosing block scales -/

/-- The smallest E5M3 encoding whose value is at least `b`; 0xFE (114,688) when none is (R96, R97). -/
def smallestE5M3 (b : Rat) : Nat :=
  (((List.range 255).find? (fun c => decide (b ≤ xMag (decodeE5M3 c))))).getD 0xFE

/-- emax of an MX element format (R95). -/
def mxEmax (code attr : Nat) : Int :=
  match code with
  | 5 => if attr = 1 then 15 else 8
  | 6 => 4 | 7 => 2 | 8 => 2 | _ => 0

/-- Convert an element to a block format's element, saturating (Table 3.7). -/
def convertElem (code attr : Nat) (mode : Rnd) (x : XVal) : Conv :=
  match floatOf code attr with
  | some f => f.convert mode true x
  | none =>
    match code with
    | 0xA =>
      if attr = 1 then
        match x with
        | .fin n m => convertInt 8 (-128) 127 false mode (.fin n (m * 64))
        | y => convertInt 8 (-128) 127 false mode y
      else convertInt 8 (-128) 127 true mode x
    | 0xB => convertInt 4 (-8) 7 true mode x
    | 0xC => convertInt 2 (-2) 1 false mode x
    | 0xD => convertInt 2 (-1) 1 false mode x
    | _ => ⟨0, false, false⟩

/-- The largest finite magnitude of a list of values, 0 when none is finite. -/
def amaxOf (l : List XVal) : Rat := l.foldl (fun a x => if xIsFin x && decide (a < xMag x) then xMag x else a) 0

/-- A converted block: scale entry, element codes, clipped and flushed counts (R93, R101). -/
structure CvtBlock where
  scale : Nat
  elems : List Nat
  clipped : Nat
  flushed : Nat
  /-- positions of the clipped elements -/
  clips : List Nat
  deriving DecidableEq, Repr

/-- The block written when a NaN is among the values (R93): scale 0xFF, elements 0, no counts. -/
def nanBlock (n : Nat) : CvtBlock := ⟨0xFF, List.replicate n 0, 0, 0, []⟩

/-- Gather the converted elements of a block. -/
def blockOf (scale : Nat) (l : List Conv) : CvtBlock :=
  ⟨scale, l.map (·.bits), (l.filter (·.clipped)).length, (l.filter (·.flushed)).length,
    ((List.zipIdx l).filter (fun e => e.1.clipped)).map (·.2)⟩

/-- Is any value NaN. -/
def anyNan (l : List XVal) : Bool := l.any (· == .nan)

/-- One block of an MX conversion (R95). `mode k` is the rounding of element k. -/
def convertMx (code attr : Nat) (mode : Nat → Rnd) (xs : List XVal) : CvtBlock :=
  if anyNan xs then nanBlock xs.length
  else
    let a := amaxOf xs
    let e : Int := if a = 0 then -127 else min 127 (max (-127) (floorLog2 a - mxEmax code attr))
    let conv := (List.zipIdx xs).map (fun (x, k) =>
      let y := match x with | .fin n m => XVal.fin n (m / pow2 e) | z => z
      convertElem code attr (mode k) y)
    blockOf (e + 127).toNat conv

/-- The micro-shift of a sub-block whose largest finite magnitude is `a`, under scale `s` (R96). -/
def microShift (s a : Rat) : Nat :=
  if a ≤ 6 * s * pow2 (-3) then 3 else if a ≤ 6 * s * pow2 (-2) then 2 else if a ≤ 6 * s * pow2 (-1) then 1 else 0

/-- One SV4 block with tensor scale t, finite and not zero (R96). The scale entry holds the micro-shifts in
[15:8] (Table 3.6). A block without a finite magnitude above zero is all zeros with scale 0x00, as the rule's steps say,
also where it holds an infinity, for which Table 3.7 gives the largest element (DEDUCED, log entry 144). -/
def convertSv4 (t : XVal) (mode : Nat → Rnd) (xs : List XVal) : CvtBlock :=
  let ys := xs.map (fun x => xDiv x t)
  if anyNan ys then nanBlock xs.length
  else
    let a := amaxOf ys
    let sc := if a = 0 then 0 else smallestE5M3 (a / 6)
    let s := xMag (decodeE5M3 sc)
    let shift (j : Nat) : Nat := if a = 0 then 0 else microShift s (amaxOf ((ys.drop (8 * j)).take 8))
    let shifts := shift 0 + 4 * shift 1 + 16 * shift 2 + 64 * shift 3
    let conv := (List.zipIdx ys).map (fun (y, k) =>
      let z := match y with
                 | .fin n m => XVal.fin n (m / (s * pow2 (-(shift (k / 8) : Int))))
                 | w => w
      if a = 0 then { fmtE2M1.convert .rne true (.fin (xNegative y) 0) with clipped := !xIsFin y }
      else fmtE2M1.convert (mode k) true z)
    blockOf (shifts * 256 + sc) conv

/-- One INT2 or ternary block (R97). -/
def convertInt2 (code : Nat) (mode : Nat → Rnd) (xs : List XVal) : CvtBlock :=
  if anyNan xs then nanBlock xs.length
  else
    let pos := amaxOf (xs.filter (fun x => !xNegative x))
    let neg := amaxOf (xs.filter xNegative)
    let bound := if code = 0xC then max pos (neg / 2) else max pos neg
    let sc := if bound = 0 then 0 else smallestE5M3 bound
    let s := xMag (decodeE5M3 sc)
    let conv := (List.zipIdx xs).map (fun (x, k) =>
      let y := match x with
        | .fin n m => if s = 0 then XVal.fin n 0 else XVal.fin n (m / s)
        | z => z
      convertElem code 0 (mode k) y)
    blockOf sc conv

/-- One block of any block format (R95 to R97); `t` is read for SV4 only. -/
def convertBlock (code attr : Nat) (t : XVal) (mode : Nat → Rnd) (xs : List XVal) : CvtBlock :=
  if code = 9 then convertSv4 t mode xs
  else if code = 0xC || code = 0xD then convertInt2 code mode xs
  else convertMx code attr mode xs

/-- Conversion of one value to a plain narrow format with tensor scale t: the exact quotient, rounded once (R97). -/
def convertPlain (code : Nat) (mode : Rnd) (sat : Bool) (t x : XVal) : Conv :=
  let y := xDiv x t
  match code with
  | 3 => fmtE4M3.convert mode sat y
  | 4 => fmtE5M2.convert mode sat y
  | _ => convertElem code 0 mode y

/-! ### The stochastic-rounding generator -/

/-- The 64-bit word of R94. -/
def srWord (seed ctr : DWord) : DWord :=
  let x0 := seed ^^^ (ctr * 0x9E3779B97F4A7C15#64)
  let x1 := (x0 ^^^ (x0 >>> 30)) * 0xBF58476D1CE4E5B9#64
  let x2 := (x1 ^^^ (x1 >>> 27)) * 0x94D049BB133111EB#64
  x2 ^^^ (x2 >>> 31)

/-- The counter of R94 for quad `q`. -/
def srCtr (block group ordinal q : Nat) : DWord :=
  BitVec.ofNat 64 ((block % 2 ^ 20) <<< 44 ||| (group % 32) <<< 39 ||| (ordinal % 2 ^ 24) <<< 15 ||| (q % 2 ^ 15))

/-- The 16-bit value of element `e` (R94). -/
def srRandom (seed : DWord) (block group ordinal e : Nat) : Nat :=
  bits (srWord seed (srCtr block group ordinal (e / 4))).toNat (16 * (e % 4) + 15) (16 * (e % 4))

/-! ### Special functions (R165), correctly rounded

An enclosure [lo, hi] of the exact value is narrowed until both ends round to one FP32 value. -/

/-- Scale to a fixed-point integer with `p` fraction bits, rounding down. -/
def fixDown (p : Nat) (q : Rat) : Int := Rat.floor (q * (2 ^ p : Nat))

/-- Integer square root by Newton steps from above. -/
def sqrtIter (n : Nat) : Nat → Nat → Nat
  | 0, g => g
  | k + 1, g => let g' := (g + n / (max g 1)) / 2; if g' < g then sqrtIter n k g' else g

/-- ⌊√n⌋. -/
def natSqrt (n : Nat) : Nat := if n = 0 then 0 else sqrtIter n 600 (2 ^ (Nat.log2 n / 2 + 1))

/-- Terms of Σ xᵏ/k! in fixed point with `p` bits, 0 ≤ x < 1 scaled. -/
def expTerms (p : Nat) (x : Nat) : Nat → Nat → Nat → Nat → Nat
  | 0, _, _, acc => acc
  | k + 1, i, term, acc =>
    let t := term * x / 2 ^ p / i
    expTerms p x k (i + 1) t (acc + t)

/-- ln 2 with `p` bits, from below: Σ 1/(k 2ᵏ). -/
def ln2Fix (p : Nat) : Nat :=
  (List.range (p + 8)).foldl (fun a k => a + 2 ^ p / ((k + 1) * 2 ^ (k + 1))) 0

/-- Working precision of the enclosures. -/
def specialBits : Nat := 320

/-- An enclosure of 2^f, 0 ≤ f < 1 rational: e^(f ln 2) in fixed point with `specialBits` bits. -/
def exp2Frac (f : Rat) : Rat × Rat :=
  let p := specialBits
  let x := floorNat (f * ln2Fix p)
  let s := expTerms p x 90 1 (2 ^ p) (2 ^ p)
  (((s - 1024 : Nat) : Rat) / (2 ^ p : Nat), ((s + 4096 : Nat) : Rat) / (2 ^ p : Nat))

/-- Round an enclosure of an irrational magnitude: the value both ends round to. -/
def roundEncl (neg : Bool) (lo hi : Rat) : XVal :=
  let a := roundFp32 (.fin neg lo)
  let b := roundFp32 (.fin neg hi)
  if a = b then a else roundFp32 (.fin neg ((lo + hi) / 2))

/-- 2^q for a rational q that is no more than 2^10 in magnitude. -/
def exp2Rat (q : Rat) : XVal :=
  let n := Rat.floor q
  let f := q - n
  if f = 0 then roundFp32 (.fin false (pow2 n))
  else let (lo, hi) := exp2Frac f; roundEncl false (lo * pow2 n) (hi * pow2 n)

/-- EXP2.F32 (R165). -/
def exp2Fp32 : XVal → XVal
  | .nan => .nan
  | .inf n => if n then xZero else .inf false
  | .fin n m =>
    if 1024 < m then (if n then xZero else .inf false)
    else exp2Rat (xRat (.fin n m))

/-- EXP.F32 (R165): eˣ = 2^(x / ln 2), the quotient enclosed. -/
def expFp32 : XVal → XVal
  | .nan => .nan
  | .inf n => if n then xZero else .inf false
  | .fin n m =>
    if m = 0 then xOne
    else if 512 < m then (if n then xZero else .inf false)
    else
      let p := specialBits
      let l := ln2Fix p
      let q0 := xRat (.fin n m) * (2 ^ p : Nat) / ((l + 2 * p + 16 : Nat) : Rat)
      let q1 := xRat (.fin n m) * (2 ^ p : Nat) / ((l : Nat) : Rat)
      let lo := min q0 q1
      let hi := max q0 q1
      let n0 := Rat.floor lo
      let e0 := exp2Frac (lo - n0)
      let n1 := Rat.floor hi
      let e1 := exp2Frac (hi - n1)
      roundEncl false (e0.1 * pow2 n0) (e1.2 * pow2 n1)

/-- Bits of log₂ of a mantissa in [1, 2), by repeated squaring in fixed point with `p` bits. -/
def log2Bits (p : Nat) : Nat → Nat → Nat → Nat
  | 0, _, acc => acc
  | k + 1, y, acc =>
    let z := y * y / 2 ^ p
    if 2 ^ (p + 1) ≤ z then log2Bits p k (z / 2) (2 * acc + 1) else log2Bits p k z (2 * acc)

/-- LOG2.F32 (R165): log₂ of a negative number is NaN, of a zero −∞. -/
def log2Fp32 : XVal → XVal
  | .nan => .nan
  | .inf n => if n then .nan else .inf false
  | .fin n m =>
    if m = 0 then .inf true
    else if n then .nan
    else
      let e := floorLog2 m
      let f := m / pow2 e
      if f = 1 then xOf e
      else
        let acc := log2Bits specialBits 200 (floorNat (f * (2 ^ specialBits : Nat))) 0
        let lo : Rat := e + ((acc : Nat) : Rat) / (2 ^ 200 : Nat)
        let hi : Rat := e + ((acc + 1 : Nat) : Rat) / (2 ^ 200 : Nat)
        let a := roundFp32 (xOf lo)
        let b := roundFp32 (xOf hi)
        if a = b then a else roundFp32 (xOf ((lo + hi) / 2))

/-- RCP.F32 (R165): 1/±0 is ±∞. -/
def rcpFp32 (x : XVal) : XVal := roundFp32 (xDiv xOne x)

/-- An enclosure of √q. -/
def sqrtEncl (q : Rat) : Rat × Rat :=
  let e := floorLog2 q
  let h := 160 - e / 2
  let s := natSqrt (floorNat (q * pow2 (2 * h)))
  ((s : Rat) / pow2 h, ((s + 1 : Nat) : Rat) / pow2 h)

/-- Whether the enclosure's lower end is the exact root. -/
def sqrtExact (q : Rat) : Bool := let r := (sqrtEncl q).1; r * r == q

/-- SQRT.F32 (R165): √−0 is −0, of other negative numbers NaN. -/
def sqrtFp32 : XVal → XVal
  | .nan => .nan
  | .inf n => if n then .nan else .inf false
  | .fin n m =>
    if m = 0 then .fin n 0
    else if n then .nan
    else if sqrtExact m then roundFp32 (.fin false (sqrtEncl m).1)
    else roundEncl false (sqrtEncl m).1 (sqrtEncl m).2

/-- RSQ.F32 (R165) and rsq of R148: 1/√x, ±0 giving ±∞. -/
def rsqFp32 : XVal → XVal
  | .nan => .nan
  | .inf n => if n then .nan else xZero
  | .fin n m =>
    if m = 0 then .inf n
    else if n then .nan
    else if sqrtExact m then roundFp32 (.fin false (1 / (sqrtEncl m).1))
    else roundEncl false (1 / (sqrtEncl m).2) (1 / (sqrtEncl m).1)

end Sys2Proof.Machine
end

