-- ==== Sys2Proof/Machine/Flags.lean ====
section
/-! DEFINITION. The computations behind predicates and lane results: comparisons of SETP, minimum and maximum with
IEEE 754's treatment of NaN and zeros (R99), 32-bit integer and FP32 arithmetic. The lanes keep no exception flags
(R99), so the predicates are the only flags. -/

namespace Sys2Proof.Machine

/-- Rounding mode of a lane instruction; stochastic rounding carries its random value. -/
def laneRnd (r : Nat) : LaneRnd → Rnd
  | .rne => .rne
  | .rz => .rz
  | .ru => .ru
  | .rd => .rd
  | .sr => .sr r

/-- Rounding mode of an arithmetic instruction (R89): .SR belongs to conversions, and WellFormed refuses it here. -/
def arithRnd : LaneRnd → Rnd
  | .rz => .rz
  | .ru => .ru
  | .rd => .rd
  | _ => .rne

/-- Order of two decoded values under a comparison; unordered operands make only `ne` true. -/
def cmpVal (c : Cmp) (a b : XVal) : Bool :=
  match c with
  | .eq => xEq a b
  | .ne => !xEq a b
  | .lt => xLt a b
  | .le => xLt a b || xEq a b
  | .gt => xLt b a
  | .ge => xLt b a || xEq a b

/-- Comparison of integers. -/
def cmpInt (c : Cmp) (a b : Int) : Bool :=
  match c with
  | .eq => a == b
  | .ne => a != b
  | .lt => decide (a < b)
  | .le => decide (a ≤ b)
  | .gt => decide (b < a)
  | .ge => decide (b ≤ a)

/-- The integer of a 32-bit lane value under its type. -/
def laneInt (ty : LaneTy) (x : Word) : Int :=
  match ty with
  | .s32 => x.toInt
  | _ => x.toNat

/-- SETP's comparison (R99). -/
def cmpLane (ty : LaneTy) (c : Cmp) (a b : Word) : Bool :=
  match ty with
  | .f32 => cmpVal c (ofFp32 a) (ofFp32 b)
  | t => cmpInt c (laneInt t a) (laneInt t b)

/-- minimumNumber and maximumNumber of IEEE 754-2019: a NaN operand gives the other, −0 is below +0, two NaNs give the
canonical NaN (R74, R99). -/
def pickVal (f : FloatFmt) (big : Bool) (a b : Nat) : Nat :=
  match f.decode a, f.decode b with
  | .nan, .nan => f.canonNan
  | .nan, _ => b
  | _, .nan => a
  | x, y =>
    if xLt x y then (if big then b else a)
    else if xLt y x then (if big then a else b)
    else if xNegative x = big then b else a

/-- MIN and MAX of a lane. -/
def pickLane (ty : LaneTy) (big : Bool) (a b : Word) : Word :=
  match ty with
  | .f32 => BitVec.ofNat 32 (pickVal fmtFP32 big a.toNat b.toNat)
  | t => if (laneInt t a < laneInt t b) = !big then a else b

/-- FP32 addition, correctly rounded; an exact zero sum of unlike signs is −0 only when rounding down (IEEE 754). -/
def addVal (f : FloatFmt) (r : Rnd) (a b : XVal) : Nat :=
  match xAdd a b with
  | .fin n m => if m = 0 && r = .rd && xNegative a != xNegative b then f.pack true 0 else (f.convert r false (.fin n m)).bits
  | v => (f.convert r false v).bits

/-- Fused multiply-add, rounded once. -/
def fmaVal (f : FloatFmt) (r : Rnd) (a b c : XVal) : Nat := addVal f r (xMul a b) c

/-- ADD of a lane: wrapping integers or FP32. -/
def addLane (ty : LaneTy) (r : LaneRnd) (a b : Word) : Word :=
  match ty with
  | .f32 => BitVec.ofNat 32 (addVal fmtFP32 (arithRnd r) (ofFp32 a) (ofFp32 b))
  | _ => a + b

/-- SUB of a lane. -/
def subLane (ty : LaneTy) (r : LaneRnd) (a b : Word) : Word :=
  match ty with
  | .f32 => BitVec.ofNat 32 (addVal fmtFP32 (arithRnd r) (ofFp32 a) (xNeg (ofFp32 b)))
  | _ => a - b

/-- MUL of a lane: the low 32 bits, or FP32. -/
def mulLane (ty : LaneTy) (r : LaneRnd) (a b : Word) : Word :=
  match ty with
  | .f32 => toFp32 (arithRnd r) (xMul (ofFp32 a) (ofFp32 b))
  | _ => a * b

/-- FMA of a lane. -/
def fmaLane (r : LaneRnd) (a b c : Word) : Word :=
  BitVec.ofNat 32 (fmaVal fmtFP32 (arithRnd r) (ofFp32 a) (ofFp32 b) (ofFp32 c))

/-- SHL of a lane; a shift by 32 or more is a free value (log entry 12). -/
def shlLane (a b : Word) : Word := if 32 ≤ b.toNat then Config.wideShift a b else a <<< b.toNat

/-- SHR of a lane: arithmetic for s32, logical otherwise; a shift by 32 or more is a free value. -/
def shrLane (ty : LaneTy) (a b : Word) : Word :=
  if 32 ≤ b.toNat then Config.wideShift a b
  else match ty with
    | .s32 => a.sshiftRight b.toNat
    | _ => a >>> b.toNat

/-! ### CVT (R99, R97's direct FP8 conversion) -/

/-- Floating format of a conversion type. -/
def cvtFloat : CvtTy → Option FloatFmt
  | .f32 => some fmtFP32
  | .f64 => some fmtFP64
  | .bf16 => some fmtBF16
  | .f16 => some fmtFP16
  | .e4m3 => some fmtE4M3
  | .e5m2 => some fmtE5M2
  | _ => none

/-- Width and signedness of an integer conversion type. -/
def cvtInt : CvtTy → Nat × Bool
  | .s32 => (32, true)
  | .u32 => (32, false)
  | .s64 => (64, true)
  | .u64 => (64, false)
  | .int8 => (8, true)
  | _ => (4, true)

/-- A conversion type of 64 bits occupies a register pair (R191). -/
def cvtWide : CvtTy → Bool
  | .f64 => true
  | .s64 => true
  | .u64 => true
  | _ => false

/-- Number of a conversion type, for the free value of an invalid conversion. -/
def cvtCode : CvtTy → Nat
  | .f32 => 0 | .f64 => 1 | .bf16 => 2 | .f16 => 3 | .e4m3 => 4 | .e5m2 => 5
  | .s32 => 6 | .u32 => 7 | .s64 => 8 | .u64 => 9 | .int8 => 10 | .int4 => 11

/-- Decode the source of a conversion; narrow sources are in the low bits. -/
def cvtSource (ty : CvtTy) (x : DWord) : XVal :=
  match cvtFloat ty with
  | some f => f.decode (x.toNat % 2 ^ f.width)
  | none =>
    let (w, sg) := cvtInt ty
    if sg then xOf (sInt w x.toNat : Rat) else xOf ((x.toNat % 2 ^ w : Nat) : Rat)

/-- Table 3.7's default saturation of a floating target (R92). -/
def satOf (ty : CvtTy) : SatMode → Bool
  | .sat => true
  | .nosat => false
  | .default => ty == .e4m3 || ty == .e5m2

/-- CVT of one value: floating targets by Table 3.7, INT8 and INT4 saturating, wider integers exact when in range and
otherwise a free value (log entry 13). -/
def cvtLane (dty sty : CvtTy) (r : Rnd) (sat : SatMode) (x : DWord) : DWord :=
  let v := cvtSource sty x
  match cvtFloat dty with
  | some f => BitVec.ofNat 64 (f.convert r (satOf dty sat) v).bits
  | none =>
    match dty with
    | .int8 => BitVec.ofNat 64 (convertInt 8 (-128) 127 true r v).bits
    | .int4 => BitVec.ofNat 64 (convertInt 4 (-8) 7 true r v).bits
    | t =>
      let (w, sg) := cvtInt t
      let lo : Int := if sg then -((2 ^ (w - 1) : Nat) : Int) else 0
      let hi : Int := if sg then ((2 ^ (w - 1) - 1 : Nat) : Int) else ((2 ^ w - 1 : Nat) : Int)
      match v with
      | .fin n m =>
        let k := roundUnits r n m 1
        let y : Int := if n then -(k : Int) else k
        if lo ≤ y ∧ y ≤ hi then BitVec.ofNat 64 (uOfInt w y) else Config.cvtInvalid (cvtCode t) x
      | _ => Config.cvtInvalid (cvtCode t) x

end Sys2Proof.Machine
end

