-- ==== Sys2Proof/Machine/TypesCore.lean ====
section
/-! DEFINITION. State of cores, clusters and regions (spec chapters 02 to 09): groups and paths, write buffers, L1,
the matrix array, turn slots, epilogue jobs, the stash, slices and side buffers, scaling records in use. -/

namespace Sys2Proof.Machine

/-! ### Faults named in completion records -/

/-- The faults of Table 12.10. -/
inductive DevFault
  | none | arrayShape | arrayAxis | operandAlign | formatReserved | escSource | scaleRecord | epiDescriptor
  | epiRange | descInvalid | handleInvalid | stashRange | memAccess | divergentCollective | barrierCount
  | slmAlign | slmRange | loopDepth | memPoison | remoteAccess | remoteTimeout | remoteUnreachable
  | remoteWriteRejected | epilogueIncomplete | versionNotCaptured | blockUnplaceable | imageInvalid
  | descriptorInvalid | flagNotGranted | nodeInvalid | graphHeader | graphAddr
  deriving DecidableEq, Repr

/-! ### What a block knows of its task -/

/-- What a core holds of the task whose block it runs (R195, R121, R94, R502). -/
structure TaskCtx where
  tenant : Nat := 0
  part : Nat := 0
  job : Nat := 0
  node : Nat := 0
  image : Nat := 0
  kernel : Nat := 0
  variant : Nat := 66
  nblocks : Nat := 0
  targs : Nat := 0
  vrd : List Nat := []
  vwr : List Nat := []
  seed : DWord := 0
  /-- the precision policy captured at dispatch (R121) -/
  policy : Nat := 0
  /-- the task's tag (R238, R502) -/
  tag : Nat := 0
  /-- shared local memory per block, KiB (R158) -/
  slmKib : Nat := 0
  /-- registers per thread r (R157) -/
  nregs : Nat := 1
  /-- reconvergence points of the kernel, Lysril offsets (R168) -/
  recon : List Nat := []
  /-- line map of the variant that runs: Lysril offset to native offset (R206, R216) -/
  lines : List (Nat × Nat) := []
  /-- native offset at which that variant's code ends -/
  nend : Nat := 0
  /-- register map: %v number and native register (R217) -/
  vmap : List (Nat × Nat) := []
  deriving DecidableEq, Repr

/-- One barrier of a block (R176): the open generation's number, its count (0 when it waits for every thread),
whether an arrival has fixed the count, and the arrivals. -/
structure Bar where
  gen : BitVec 16 := 0
  opened : Bool := false
  count : Nat := 0
  arrived : Nat := 0
  /-- the threads that have arrived: 32 times the group's number in the block, plus the lane -/
  who : List Nat := []
  deriving DecidableEq, Repr

/-- A block resident on a core (R156 to R161). -/
structure Block where
  task : TaskCtx := {}
  index : Nat := 0
  threads : Nat := 1
  bars : List Bar := [{}, {}, {}, {}]
  /-- shared local memory written so far, byte address to byte; the rest is as at the block's start (R161) -/
  slm : AL Byte := []
  slmPoison : List Nat := []
  /-- birth number of unspecified contents; `none` when the core was cleared first (R161) -/
  birth : Option Nat := none
  deriving DecidableEq, Repr

/-- What a path waits on besides barriers: it stays eligible but its next instruction is not ready. -/
inductive Stall
  | go
  /-- a fence or ordered atomic: number of the entry in `Core.fences` -/
  | fence (id : Nat)
  /-- EPI.WAIT of a job of the core (R145) -/
  | epi (job : Nat)
  /-- an atomic with .ACQ (R230): number of the entry in `Core.atoms` -/
  | atom (id : Nat)
  deriving DecidableEq, Repr

/-- A path of a group (R167): its lanes, program counter (a Lysril offset), hold at a reconvergence point,
barrier wait (barrier, generation) and stall. -/
structure Path where
  lanes : Lanes
  pc : Nat
  held : Bool := false
  bar : Option (Nat × BitVec 16) := none
  stall : Stall := .go
  /-- the fence that stands before its next instruction has ended (`FenceWait.redo`) -/
  released : Bool := false
  deriving DecidableEq, Repr

/-- An open hardware loop of a thread (R184): the body's first offset, the repeats left, and where it ends. -/
structure LoopEnt where
  start : Nat
  left : Nat
  exit : Nat
  deriving DecidableEq, Repr

/-- Why a group has stopped issuing. -/
inductive GroupStop
  | running
  /-- a precise fault (R187, R218) -/
  | fault (f : DevFault) (pc : Nat) (lanes : Lanes)
  /-- BRK reached; the native program counter (R215) -/
  | brk (npc : Nat)
  deriving DecidableEq, Repr

/-- A tile handle (R194): its 128 bytes and the number of its last write. -/
structure Handle where
  bytes : List Byte
  version : Nat
  deriving DecidableEq, Repr

/-- A thread group in a residency slot (R156, R167 to R171, R188, R193). -/
structure Group where
  block : Nat := 0
  index : Nat := 0
  launch : Lanes := 0
  paths : List Path := []
  /-- lanes of the path made current by a rotation; none: the eligible path with the lowest pc is current -/
  rotated : Option Lanes := none
  /-- backward branches since the path set changed or the group rotated (R169) -/
  branches : Nat := 0
  /-- %v n of lane l under key 32 n + l -/
  regs : AL Word := []
  uregs : AL Word := []
  /-- %p n of lane l under key 32 n + l -/
  preds : AL Bool := []
  handles : AL Handle := []
  /-- return addresses of CALL, per thread, innermost first -/
  calls : AL (List Nat) := []
  /-- loop stack per thread, innermost first, at most four entries (R185) -/
  loops : AL (List LoopEnt) := []
  /-- .SR instructions since the block started (R94, R188) -/
  srCount : Nat := 0
  birth : Option Nat := none
  stop : GroupStop := .running
  regPoison : List Nat := []
  uregPoison : List Nat := []
  predPoison : List Nat := []
  handlePoison : List Nat := []
  deriving DecidableEq, Repr

/-! ### Accesses in flight -/

/-- Where a page entry takes an access (R285, R286). -/
inductive Target
  | loc (pa : Nat)
  | remote (package pa : Nat)
  | host (addr : Nat)
  deriving DecidableEq, Repr

/-- A store that entered a write-buffer entry while its group had an access outstanding: the group's slot, the store's
number and its bytes. A fault of that access takes it out again (R300, R332, Table 16.7). -/
structure LateStore where
  slot : Nat
  seq : Nat
  mask : LineMask
  data : Line
  deriving DecidableEq, Repr

/-- An entry of the write buffer (R219): one line of one target, the bytes written, poisoned bytes. -/
structure WbEntry where
  id : Nat
  /-- line address in its space, a multiple of 128 -/
  target : Target
  tenant : Nat
  part : Nat
  mask : LineMask
  data : Line
  /-- what the entry held before its late stores, and those stores in order; `mask` and `data` are with them -/
  mask0 : LineMask := 0
  data0 : Line := 0
  late : List LateStore := []
  poison : Bool := false
  /-- sent to a remote home and awaiting acknowledgement (R228) -/
  sent : Bool := false
  /-- groups that stored into the entry, with the number of their latest store (R332) -/
  writers : List (Nat × Nat) := []
  /-- resident nodes whose stores the entry holds (R237, R332) -/
  nodes : List Nat := []
  /-- the first host store after a system-scope fence or release: Relaxed Ordering clear (R240) -/
  ordered : Bool := false
  hint : Hint := .plain
  /-- outcome of a rejected or timed-out write of a saved context, raised when the context resumes (R393) -/
  failed : Option DevFault := none
  deriving DecidableEq, Repr

/-- One lane's part of an outstanding load: bytes `off` to `off + n − 1` of its value, which stand from byte `pos` of
the line on. -/
structure LoadLane where
  lane : Nat
  off : Nat
  n : Nat
  pos : Nat
  deriving DecidableEq, Repr

/-- An outstanding load of one line (R220): who waits, for what, and the data once it has left its home. -/
structure Load where
  id : Nat
  slot : Nat
  pc : Nat
  /-- destination %v -/
  dst : Nat
  size : Nat
  hint : Hint
  target : Target
  tenant : Nat
  part : Nat
  lanes : List LoadLane
  /-- bytes forwarded from the write buffer at issue (R220), and whether one of them is poisoned -/
  fwdMask : LineMask := 0
  fwd : Line := 0
  fwdPoison : Bool := false
  /-- data served, with set stamp and poisoned sectors -/
  got : Option (Line × BitVec 24 × BitVec 2) := none
  /-- the access ended in a fault -/
  failed : Option DevFault := none
  /-- waits for a page request or translation (R530, R531) -/
  waitXlat : Bool := false
  /-- the read of its controller that it waits for (R293) -/
  read : Option Nat := none
  /-- its value was, or may have been, taken before an invalidation of the L1 or a later store of the core to the line: it
  does not fill the L1 (R227, R229) -/
  nofill : Bool := false
  deriving DecidableEq, Repr

/-- One lane of an outstanding atomic; `pos` is the byte in the line. -/
structure AtomLane where
  lane : Nat
  pos : Nat
  b : DWord
  c : DWord
  deriving DecidableEq, Repr

/-- An outstanding atomic on one line (R223). -/
structure Atomic where
  id : Nat
  slot : Nat
  pc : Nat
  dst : Option Nat
  size : Nat
  op : AtomOp
  order : MemOrder
  scope : Scope
  hint : Hint := .plain
  target : Target
  tenant : Nat
  part : Nat
  lanes : List AtomLane
  /-- the lanes of the path that issued it, and the number of its instruction's first entry -/
  path : Lanes := 0
  first : Nat := 0
  /-- fence that must be released first, for .REL (R230) -/
  after : Option Nat := none
  sent : Bool := false
  /-- a fault recorded while the context was saved, raised once it resumes (R393) -/
  failed : Option DevFault := none
  deriving DecidableEq, Repr

/-- The three fences. -/
inductive FenceKind
  | ld | st | full
  deriving DecidableEq, Repr

/-- A fence that waits (R228 to R232): the write-buffer entries, loads, atomics and matrix instructions it covers, by number. -/
structure FenceWait where
  id : Nat
  slot : Nat
  lanes : Lanes
  kind : FenceKind
  scope : Scope
  covers : List Nat
  loads : List Nat
  atoms : List Nat
  mmas : List Nat := []
  /-- the path waits before its instruction, which it issues once released: the fence of a .REL atomic of shared local
  memory and of AMAX.COMMIT (R230, Table 8.5) -/
  redo : Bool := false
  /-- zero-length host read (R228): 0 not needed, 1 to be issued, 2 issued, 3 complete -/
  hostRead : Nat := 0
  deriving DecidableEq, Repr

/-- An L1 line (R247, R249). -/
structure L1Line where
  target : Target
  data : Line
  age : Nat
  stream : Bool
  stamp : BitVec 24
  residency : Nat := 0
  poison : BitVec 2 := 0
  part : Nat := 0
  tenant : Nat := 0
  deriving DecidableEq, Repr

/-- Stride detector states (Table 9.4). -/
inductive DetState
  | free | seen | train (c : Nat) | active
  deriving DecidableEq, Repr

/-- A stride detector (R261 to R263): its stream (group, identifier), last line, stride, depth and the furthest line
already requested. -/
structure Detector where
  st : DetState := .free
  slot : Nat := 0
  stream : Nat := 0
  last : Int := 0
  stride : Int := 0
  run : Nat := 0
  depth : Nat := 4
  upto : Int := 0
  used : Nat := 0
  deriving DecidableEq, Repr

/-- An L1 victim on offer to its home (R266). -/
structure Offer where
  target : Target
  data : Line
  stamp : BitVec 24
  stream : Bool
  part : Nat
  tenant : Nat
  poison : BitVec 2
  deriving DecidableEq, Repr

/-! ### The matrix array -/

/-- Element codes and scales of a matrix operand: `elems` by vector (or stationary column) then reduction index,
`scales` by vector then block, and the sums of its quality entries. -/
structure Operand where
  fmt : Nat
  attr : Nat
  elems : List (List Nat)
  scales : List (List Nat)
  qClip : Nat := 0
  qFlush : Nat := 0
  qElems : Nat := 0
  deriving DecidableEq, Repr

/-- A stationary tile in the array (R48, R61): identity of the handle it was loaded from, the elements of all its 32 columns
by column and stored row, the 2-bit indices of 2:4 sparsity, and its quality entries. In an instruction, `op` holds the counts
of the entries that the instruction consumes (R102). -/
structure Tile where
  slot : Nat
  handle : Nat
  version : Nat
  rows : Nat
  cols : Nat
  op : Operand
  /-- kept-element indices by column and stored row; empty when dense -/
  index : List (List Nat)
  /-- its quality entries by column, or by stored row of a row-major tile -/
  quals : List (List Nat) := []
  qCol : Bool := false
  deriving DecidableEq, Repr

/-- A turn unit that an instruction still needs (R126): reduction origin and vector origin. -/
structure TurnNeed where
  k : Nat
  v : Nat
  deriving DecidableEq, Repr

/-- How far a matrix instruction has come. -/
inductive MmaPhase
  /-- original execution in the array, evaluation still to come (.ESC, R106) -/
  | stream
  /-- the kept execution is running and may write -/
  | drain
  deriving DecidableEq, Repr

/-- A matrix instruction in the array. `op` is the instruction; operands are captured at issue (R194), turned units
as they become ready. -/
structure MmaRun where
  id : Nat
  slot : Nat
  pc : Nat
  lanes : Lanes
  op : MmaOp
  task : TaskCtx
  blockIx : Nat
  groupIx : Nat
  ordinal : Nat
  depth : Nat
  width : Nat
  len : Nat
  vorg : Nat
  korg : Nat
  beta : Word
  tile : Tile
  strm : Operand
  c : List (List Nat)
  ta : Word
  tb : Word
  dst : List Byte
  stDesc : List Byte
  tDesc : List Byte
  outl : List Nat
  /-- ranges that the destination will change, in shared local memory or in the tenant's space -/
  outs : List (Nat × Nat) := []
  outSlm : Bool := false
  /-- C is the result of the instruction before it, still in the drain (R53) -/
  chained : Bool := false
  phase : MmaPhase
  /-- 0 not escalated, 1 escalated, 2 observed (Table 4.1); trigger point and comparisons for SV_LAST_ESC -/
  escState : Nat := 0
  escWhen : Nat := 0
  trigClip : Bool := false
  trigFlush : Bool := false
  /-- operand counts on which the trigger was evaluated -/
  opClip : Nat := 0
  opFlush : Nat := 0
  eOp : Nat := 0
  need : List TurnNeed := []
  /-- ranges that it may still read after its issue, in shared local memory or in the tenant's space: a turned stream and the
  escalation sources -/
  later : List (Bool × Nat × Nat) := []
  /-- outlier source elements by listed index then other index, decoded -/
  outlSrc : List (List Nat) := []
  outlFmt : Nat := 0
  /-- elements of a turned escalation source by vector, as its units become ready (R132) -/
  escSrc : Option (List (List Nat)) := none
  reexec : Bool := false
  /-- rows of the destination that have entered the write buffer -/
  rowsDone : Nat := 0
  /-- a second parity error was found in the re-execution (Table 17.1) -/
  parity2 : Bool := false
  deriving DecidableEq, Repr

/-- State of the context save of a core (R390 to R394). -/
inductive CoreHold
  /-- not concerned -/
  | free
  /-- chosen for an RT job and waiting for a turn (R391) -/
  | chosen (rt : Nat)
  /-- in a save turn -/
  | saving (rt : Nat)
  /-- saved and running for the RT job; the owner's context is in its save area -/
  | lent (rt : Nat)
  deriving DecidableEq, Repr

/-- Power state of a block of the part (R456). -/
inductive BlockPower
  | active | gated | retention | off
  deriving DecidableEq, Repr

/-- Execution state of a core: everything a reset of the core clears. -/
structure Exec where
  split : Nat := 0
  lastTenant : Option Nat := none
  lastTask : Option Nat := none
  blocks : AL Block := []
  groups : AL Group := []
  wb : List WbEntry := []
  l1 : AL L1Line := []
  dets : List Detector := []
  offers : List Offer := []
  loads : List Load := []
  atoms : List Atomic := []
  fences : List FenceWait := []
  /-- the tile of the array's active registers, and the one loaded into the shadow registers behind it (R48) -/
  active : Option Tile := none
  shadow : Option Tile := none
  mmas : List MmaRun := []
  /-- instruction store: (image, variant, line), most recently used first (R212 to R214) -/
  istore : List (Nat × Nat × Nat) := []
  /-- registrations with the sequencer: (image, kernel, variant) (R212) -/
  subs : List (Nat × Nat × Nat) := []
  /-- contents of the instruction store's lines: image, line, 64 bytes -/
  code : List (Nat × Nat × List Byte) := []
  /-- system-scope fence or release not yet followed by a host store (R240) -/
  hostOrdered : Bool := false
  /-- a host store has been sent since the last zero-length read (R228) -/
  hostOut : Bool := false
  /-- event number of the last fence of block scope or wider (R130) -/
  fenceAt : Nat := 0
  /-- multiply-accumulates not yet counted in whole units of 1,024 (Table 18.3) -/
  macs : Nat := 0
  deriving DecidableEq, Repr

/-- A core (R22, R34, R63 to R65, R387, R390, R463, R508). -/
structure Core where
  present : Bool := false
  spareRow : Option Nat := none
  exec : Exec := {}
  /-- the job that owns the core (R387), none when free -/
  owner : Option Nat := none
  hold : CoreHold := .free
  /-- a core reset drains its write buffer (R463) -/
  draining : Bool := false
  /-- the stopped node whose AUX1 takes the stores that the reset discards -/
  resetNode : Option Nat := none
  /-- when the drain of a core reset began (R463) -/
  resetAt : Nat := 0
  fenced : Bool := false
  /-- halted by the whistle (R508) -/
  halted : Bool := false
  power : BlockPower := .off
  /-- when the core is awake again after retention (R457) -/
  wakeAt : Nat := 0
  deriving DecidableEq, Repr

/-! ### Clusters -/

/-- Key of a turn unit (R130). Beyond the rule's list it holds the depth that the unit delivers before its zeros, the tenant,
the core and block of a source in shared local memory, and whether it is an escalation source: units that differ there hold
different elements, or another tenant's (DESIGN CHOICE, log entry 144). -/
structure TurnKey where
  src : Nat
  stride : Nat
  k : Nat
  v : Nat
  fmt : Nat
  attr : Nat
  reblock : Bool
  t : Word
  depth : Nat
  tenant : Nat
  /-- core and block whose shared local memory holds the source, if it is there -/
  slm : Option (Nat × Nat) := none
  /-- an escalation source, read in EXACT mode (R132) -/
  source : Bool := false
  deriving DecidableEq, Repr

/-- A turn slot (R126 to R130): its unit, the descriptor, task, core, group and block that the fill reads for, the
delivered elements by vector with the re-blocker's counts, whether the groups are available, and the consumers (core,
instruction). -/
structure TurnSlot where
  key : TurnKey
  desc : List Byte
  task : TaskCtx
  core : Nat
  slot : Nat
  block : Nat
  data : Operand
  /-- clipped and flushed counts of each delivered vector's new blocks -/
  quals : List (Nat × Nat) := []
  /-- quality entries of the source's own array, by stored row (R128) -/
  srcQuals : List (List Nat) := []
  ready : Bool := false
  begun : Nat
  consumers : List (Nat × Nat)
  deriving DecidableEq, Repr

/-- Epilogue modes (Table 5.7). -/
inductive EpiMode
  | ln | rms | smax
  deriving DecidableEq, Repr

/-- An open epilogue job (R141 to R147). -/
structure EpiJob where
  core : Nat
  job : Nat
  task : TaskCtx
  mode : EpiMode
  outFmt : Nat
  xFmt : Nat
  gFmt : Nat
  partials : Bool
  zDrain : Bool
  rows : Nat
  width : Nat
  eps : Word
  desc : Nat
  xAddr : Nat
  xStride : Nat
  /-- stash entries resolved at open (R142) -/
  xEntry : Option Nat
  statEntry : Option Nat
  statsAddr : Nat
  gammaAddr : Nat
  dxAddr : Nat
  dxStride : Nat
  partAddr : Nat
  stageInStash : Bool
  stageLines : Nat
  stageAddr : Nat
  /-- number of the job: the birth of what its stage holds before it is written, and of its remote writes -/
  eid : Nat := 0
  /-- staged dy and z as FP32 bits under key row × 65536 + feature -/
  dy : AL Nat := []
  z : AL Nat := []
  /-- deliveries counted towards each row's total (R143, R145) -/
  dyCount : AL Nat := []
  zCount : AL Nat := []
  /-- the job has closed and its sweeps may run (R145) -/
  closed : Bool := false
  /-- what is done once it has closed: nothing (0), the stage written out (1), the sweeps run (2), RESULT written (3) -/
  phase : Nat := 0
  /-- writes of this phase still to be made, each within one page -/
  out : List (Nat × List Byte) := []
  /-- an access of the job has failed -/
  bad : Bool := false
  /-- saved with the context of its core (R147, R392) -/
  saved : Bool := false
  deriving DecidableEq, Repr

/-- A cluster: the translated-code cache lines (image, variant, line), the request queue of its sequencer
(R213), the turn slots and the engine's job contexts. -/
structure Cluster where
  power : BlockPower := .off
  codeLines : List (Nat × Nat × Nat) := []
  /-- contents of the translated-code cache's lines: image, line, 64 bytes -/
  code : List (Nat × Nat × List Byte) := []
  requests : List (Nat × Nat × Nat) := []
  turns : AL TurnSlot := []
  epi : AL EpiJob := []
  /-- when its units are awake again after retention (R457) -/
  wakeAt : Nat := 0
  deriving DecidableEq, Repr

/-! ### Regions -/

/-- States of a stash entry (Table 5.5); ABSENT is the lack of an entry. -/
inductive StashState
  | opened | sealed | refused
  deriving DecidableEq, Repr

/-- A stash entry (R136): `replaced` when a new entry took its tag while an engine job still references it (R137). -/
structure StashEntry where
  part : Nat
  tenant : Nat
  tag : Nat
  stat : Bool
  lines : Nat
  st : StashState
  /-- bytes written: offset to byte -/
  data : AL Byte := []
  /-- poisoned sectors: offset ÷ 64 (Table 17.1) -/
  poison : List Nat := []
  refs : Nat := 0
  replaced : Bool := false
  deriving DecidableEq, Repr

/-- A line of a slice (R253); the key of the entry is set × 16 + way. -/
structure SliceLine where
  tag : Nat
  data : Line
  age : Nat
  dirty : Bool
  keep : Bool
  part : Nat
  poison : BitVec 2
  /-- physical address of the line -/
  pa : Nat
  deriving DecidableEq, Repr

/-- A side-buffer entry (R264): the line, whose allotment it uses, when it came. -/
structure SideEntry where
  pa : Nat
  data : Line
  poison : BitVec 2
  part : Nat
  tenant : Nat
  /-- WAYS-mode partition whose allotment holds it, or none for the shared ways' -/
  allot : Option Nat
  since : Nat
  deriving DecidableEq, Repr

/-- A contribution on its way to a scaling record (R116): the record, the largest magnitude (FP32 bits, none when only
clips are merged), the innermost indices that clipped, and the task it belongs to. -/
structure AmaxUpd where
  tenant : Nat
  part : Nat
  node : Nat
  record : Nat
  value : Option Word
  clips : List Nat
  deriving DecidableEq, Repr

/-- A running pre-pass of a scaling record (R120), with the group that started it. -/
structure PrePass where
  tenant : Nat
  part : Nat
  record : Nat
  core : Nat
  slot : Nat
  /-- the task that started it, which does not complete before it (R237) -/
  node : Nat := 0
  /-- the scale from the extent and the record as they stood when the pre-pass started, and the fault of reading them -/
  scale : Word := 0
  bad : Option DevFault := none
  deriving DecidableEq, Repr

/-- A region: its slice, side buffer, stash, and the pre-passes its aggregator runs (R120). -/
structure Region where
  lines : AL SliceLine := []
  stamps : AL (BitVec 24) := []
  side : List SideEntry := []
  stash : AL StashEntry := []
  /-- running pre-passes -/
  prepass : List PrePass := []
  amax : List AmaxUpd := []
  /-- saves running in the region's current turn (R391) -/
  turn : Nat := 0
  power : BlockPower := .active
  /-- time of the last access to the slice, and when it is awake again (R456, R457) -/
  used : Nat := 0
  wakeAt : Nat := 0
  deriving DecidableEq, Repr

end Sys2Proof.Machine
end

