-- ==== Sys2Proof/Machine/TypesMem.lean ====
section
/-! DEFINITION. State of stacked memory and address spaces (spec chapter 10): interleave sets, page tables,
granules, controllers with their regulators and queues. -/

namespace Sys2Proof.Machine

/-- OWNER of an interleave set (Table 10.2); a firmware set names its region, a kept set the identifier and granules of its
partition (R467). -/
inductive SetOwner
  | part (p : Nat) | shared | firmware (region : Nat) | kept (p : Nat) (granules : List Nat)
  deriving DecidableEq, Repr

/-- An interleave set (Table 10.2). -/
structure ISet where
  base : Nat
  size : Nat
  member : List Nat
  mbase : List Nat
  owner : SetOwner
  deriving DecidableEq, Repr

/-- KIND of a page entry (Table 10.15). -/
inductive PageKind
  | local | remote | host
  deriving DecidableEq, Repr

/-- A valid page entry (Table 10.15); an entry that is not valid is absent from the table. -/
structure PageEnt where
  kind : PageKind
  r : Bool
  w : Bool
  a : Bool
  pending : Bool := false
  package : Nat := 0
  frame : Nat
  deriving DecidableEq, Repr

/-- What holds a granule of device memory (R211, R285, R287, R412). -/
inductive GranUse
  | page (tenant : Nat)
  | code (tenant image : Nat)
  deriving DecidableEq, Repr

/-- Retirement of a granule (R305): retired, or pending while it holds an allocation, and the controller whose row fault
caused it. -/
structure GranFault where
  pending : Bool
  ctl : Nat
  deriving DecidableEq, Repr

/-- A regulator (R295, R402): its credits in runs, for ordinary and for RT requests. -/
structure Regulator where
  credit : Int := 0
  rtCredit : Int := 0
  deriving DecidableEq, Repr

/-- Why a line was asked for. -/
inductive ReadKind
  /-- a demand of a core, to be inserted or bypassed with this hint -/
  | demand (hint : Hint)
  /-- a prefetch for the slice's side buffer (R264) -/
  | prefetch
  deriving DecidableEq, Repr

/-- A read of a line at a controller (R290 to R293); `done` once its run has been read. -/
structure MemRead where
  id : Nat
  pa : Nat
  part : Nat
  tenant : Nat
  rt : Bool
  kind : ReadKind
  /-- when it arrived -/
  since : Nat := 0
  done : Bool := false
  /-- the line as its run was read (R293) -/
  data : Line := 0
  poison : BitVec 2 := 0
  /-- a later write to the line has arrived: what the run reads is for the loads that joined before it (R293) -/
  stale : Bool := false
  deriving DecidableEq, Repr

/-- A queued write to a line (R292, R293). -/
structure MemWrite where
  pa : Nat
  mask : LineMask
  data : Line
  poison : BitVec 2
  part : Nat
  /-- caused by an RT job (R402) -/
  rt : Bool := false
  /-- a corrected sector that the controller writes back itself (R299) -/
  own : Bool := false
  /-- reads numbered below this arrived before the write (R293) -/
  after : Nat := 0
  deriving DecidableEq, Repr

/-- State of a controller (Table 10.13). -/
inductive CtlState
  | active | retention | training
  deriving DecidableEq, Repr

/-- A memory controller (R278 to R308). -/
structure Ctl where
  present : Bool := false
  st : CtlState := .active
  regs : AL Regulator := []
  reads : List MemRead := []
  writes : List MemWrite := []
  /-- passes of requests to an open row over older ones, by pseudo-channel (R294) -/
  passes : AL Nat := []
  /-- open row of each bank, key pseudo-channel × 64 + bank (R294) -/
  rows : AL Nat := []
  /-- erased lanes by pseudo-channel: pins 0 to 35 (R298, R303) -/
  erased : AL (List Nat) := []
  /-- redundant lanes in use (Table 10.13) -/
  spares : Nat := 0
  /-- time of the last request (R308) -/
  lastUse : Nat := 0
  /-- window of the time-partitioned form, and the runs begun in it by pseudo-channel (R407) -/
  window : Nat := 0
  windowRuns : AL Nat := []
  /-- position of the patrol scrubber, a sector number (R301) -/
  patrol : Nat := 0
  deriving DecidableEq, Repr

/-- Stacked memory and address spaces. -/
structure MemSys where
  /-- device memory, canonical: unlisted bytes read 0 (R307) -/
  mem : List (Nat × BitVec 8) := []
  /-- poisoned sectors, physical address ÷ 64 (R300) -/
  poisoned : List Nat := []
  sets : List ISet := []
  ctls : AL Ctl := []
  /-- page entries, key tenant × 2^32 + page number (R285) -/
  pages : AL PageEnt := []
  /-- nodes of the page tables: key tenant × 2^24 + level × 2^20 + number, with their addresses (R285) -/
  nodes : AL Nat := []
  /-- allocated granules, physical address ÷ 65,536 (R287) -/
  grans : AL GranUse := []
  /-- retired and pending granules (R305) -/
  retired : AL GranFault := []
  /-- stacks: above 85 °C, and not used (R277, R302) -/
  hot : List Nat := []
  stackOff : List Nat := []
  nextRead : Nat := 0
  /-- refills of the regulators and windows so far, of 600 and 1,200 root-clock cycles (R448) -/
  refills : Nat := 0
  windows : Nat := 0
  deriving DecidableEq, Repr

end Sys2Proof.Machine
end

