-- ==== Sys2Proof/Machine/TypesHost.lean ====
section
/-! DEFINITION. State of the host interface (spec chapter 19) and of the per-function register groups: events,
interrupts, event rings, counters, PCIe bits, translations, and the record of what the part sends out. -/

namespace Sys2Proof.Machine

/-- An MSI-X vector (R535). -/
structure Vec where
  addr : DWord := 0
  data : Word := 0
  masked : Bool := true
  pend : Bool := false
  deriving DecidableEq, Repr

/-- State of a function's host ring (R341 to R348). -/
structure Ring where
  configured : Bool := false
  base : Nat := 0
  sizeLog2 : Nat := 0
  ctrl : Nat := 0
  head : Nat := 0
  awake : Bool := false
  pend : Bool := false
  overrun : Bool := false
  /-- TAIL read by the running pass; `none` between passes (R345) -/
  tail : Option Nat := none
  /-- a wake-up has been posted to the sleeping fetcher (R345) -/
  woken : Bool := false
  /-- earliest doorbell since the previous read of TAIL, and that of the running pass (R396) -/
  dbTime : Option Nat := none
  passDb : Option Nat := none
  /-- a write of HEAD that waits for a translation; the pass ended in a fault and its last write of HEAD is due; the fetcher is
  past `awake := 0` and its one extra read of TAIL is due (R345, R579) -/
  headDue : Bool := false
  faultDue : Bool := false
  tailDue : Bool := false
  /-- the entry at HEAD, read and waiting for room -/
  entry : Option (List (BitVec 8)) := none
  deriving DecidableEq, Repr

/-- The fetcher sleeps, with nothing of a pass left to do. -/
def Ring.asleep (r : Ring) : Ring :=
  { r with awake := false, tail := none, woken := false, headDue := false, faultDue := false, tailDue := false, entry := none }

/-- A function's event ring (R537 to R542). -/
structure EvRing where
  base : Nat := 0
  en : Bool := false
  armed : Bool := false
  sizeLog2 : Nat := 0
  prod : Nat := 0
  cons : Nat := 0
  drop : Nat := 0
  /-- the next entry written carries OVF (R539) -/
  owed : Bool := false
  deriving DecidableEq, Repr

/-- PCIe configuration bits of a function that the model reads (R522 to R535). -/
structure PcieFn where
  msixEn : Bool := false
  ats : Bool := false
  pri : Bool := false
  priStopped : Bool := false
  priAlloc : Nat := 0
  pasidEn : Bool := false
  d3hot : Bool := false
  deriving DecidableEq, Repr

/-- Reset value of a precision policy (Table 4.4). -/
def policyReset : Nat := 2 ^ 53 + 2 ^ 52 + 2 ^ 51 + 1311 * 2 ^ 36 + 1311 * 2 ^ 12 + 16

/-- A function's register groups. Event registers, enables and LAST registers are keyed by the GROUP codes of
Table 19.5; counters by their BAR0 offsets. -/
structure Fn where
  /-- SV_POLICY0 to SV_POLICY7 of the function's tenant, bound or not (R121, R124) -/
  policies : List Nat := List.replicate 8 policyReset
  ev : AL Nat := []
  en : AL Nat := []
  last : AL Nat := []
  cnt : AL Nat := []
  pasid : Nat := 0
  ring : Ring := {}
  evr : EvRing := {}
  vecs : AL Vec := []
  /-- event-ring entries that wait for a translation of the ring's page: group, bit, detail, time (R530) -/
  evWait : List (Nat × Nat × Nat × Nat) := []
  pcie : PcieFn := {}
  deriving DecidableEq, Repr

/-- An entry of the address translation cache (R530, R531), key function × 2^72 + pasid+1 × 2^52 + page. -/
structure AtcEnt where
  host : Nat
  r : Bool
  w : Bool
  /-- a final translation fault (R531) -/
  final : Bool := false
  deriving DecidableEq, Repr

/-- A Translation Request or Page Request that is outstanding (R530, R531). -/
structure XlatReq where
  fn : Nat
  pasid : Option Nat
  page : Nat
  write : Bool
  /-- a Page Request has been sent; a second fault after its success is final -/
  prg : Bool := false
  retried : Bool := false
  /-- its work was reset; the response is discarded (R533) -/
  dead : Bool := false
  deriving DecidableEq, Repr

/-- A message or posted write that leaves the part: the model's own record of what the outside can see. -/
inductive Out
  /-- an MSI-X message of a function's vector -/
  | msix (fn vec : Nat) (addr : DWord) (data : Word)
  /-- a posted write to host memory; `ro` is the Relaxed Ordering attribute (R240) -/
  | hostWrite (addr : Nat) (bytes : List Byte) (ro : Bool)
  /-- a Springbok flit on a port: its 256 bytes (Table 11.3), and the messages and credit returns that its body spells -/
  | flit (port : Nat) (bytes : List (BitVec 8)) (msgs : List LinkMsg) (credits : List (Nat × Nat))
  /-- a codeword on a port: what each logical lane carries, in PAM4 symbols (R318) -/
  | lanes (port : Nat) (sends : List (List Nat))
  /-- a message on a die-to-die link -/
  | d2d (link kind : Nat) (words : List Nat)
  /-- PCIe: completion of a configuration request, ATS, PRI and error messages -/
  | pcie (kind fn arg : Nat)
  /-- an MCTP message on the board path -/
  | mctp (bytes : List Byte)
  /-- a record on the trace port -/
  | trace (words : List Nat)
  /-- the level driven on a pin of J9 (R552) -/
  | pin (name : Nat) (high : Bool)
  deriving DecidableEq, Repr

/-- Whether an output is a flit of a port. -/
def Out.isFlit : Out → Bool
  | .flit _ _ _ _ => true
  | _ => false

/-- The outside world as the part sees it, and what it has sent. -/
structure HostWorld where
  /-- host memory, canonical (DESIGN CHOICE, log entry 9) -/
  mem : List (Nat × BitVec 8) := []
  atc : AL AtcEnt := []
  xreqs : List XlatReq := []
  out : List Out := []
  /-- VF Enable, NumVFs, AtomicOp Requester Enable, AER Uncorrectable Internal Error and its severity -/
  vfEnable : Bool := false
  numVfs : Nat := 0
  atomicEn : Bool := false
  aerUie : Bool := false
  aerFatal : Bool := false
  deriving DecidableEq, Repr

end Sys2Proof.Machine
end

