-- ==== Sys2Proof/Machine/TypesLinks.lean ====
section
/-! DEFINITION. State of the Springbok ports, the die-to-die links, the route and export tables and the transaction
tags (spec chapter 11). -/

namespace Sys2Proof.Machine

/-- States of a Springbok port (Table 11.7). -/
inductive PortState
  | down | detect | train | align | exchange | up | retrain | dead
  deriving DecidableEq, Repr

/-- A numbered flit in a retry buffer (R321), with the times it has been replayed (R322). -/
structure Flit where
  seq : Nat
  kind : Nat
  msgs : List LinkMsg
  credits : List (Nat × Nat) := []
  replays : Nat := 0
  deriving DecidableEq, Repr

/-- A Springbok port (R316 to R327, Table 11.16). -/
structure Port where
  st : PortState := .down
  width : Nat := 0
  spareUsed : Bool := false
  /-- physical lanes marked failed in training or by the lasting-fault list (R317) -/
  failedLanes : List Nat := []
  peer : Nat := 0
  peerPort : Nat := 0
  /-- what the partner reported of itself in twin mode (R487) -/
  partner : Option TwinInfo := none
  /-- a lane's measured error ratio exceeds the limit of Table 11.2, and the symbols corrected by physical lane since the last
  marker codeword -/
  margin : Bool := false
  laneErrs : AL Nat := []
  retrains : Nat := 0
  /-- attempts of the current RETRAIN (R325), and when it or DETECT began -/
  attempts : Nat := 0
  since : Nat := 0
  /-- the part of the bring-up that RETRAIN repeats now: TRAIN, ALIGN or EXCHANGE -/
  sub : PortState := .train
  twin : Bool := false
  /-- SEQ of the next numbered flit, the retry buffer, the SEQ expected, a replay request outstanding -/
  txSeq : Nat := 0
  retry : List Flit := []
  rxSeq : Nat := 0
  rxAsked : Bool := false
  /-- the stream of codewords since the last alignment (R318): flits taken from it, codewords of the wire decoded, and whether
  the last data codeword could not be corrected -/
  rxFlits : Nat := 0
  rxWire : Nat := 0
  rxBad : Bool := false
  /-- SEQ of the last data flit sent, which flits of KIND 1 and 2 carry (Table 11.3) -/
  txData : Nat := 4095
  /-- a replay request received and not yet answered: the first flit to be replayed -/
  asked : Option Nat := none
  /-- the stream of codewords sent: bits not yet in a codeword, as a number and their count, and data codewords sent -/
  txAcc : Nat := 0
  txHeld : Nat := 0
  txWords : Nat := 0
  /-- parts of a mirror record that several MIRROR messages carry (Table 11.6) -/
  parts : List Byte := []
  /-- messages waiting to be sent, and delivered messages waiting to be handled -/
  wait : List LinkMsg := []
  inbox : List LinkMsg := []
  /-- credits, in 16-byte units, by virtual channel × 3 + buffer set (R323) -/
  credit : AL Nat := []
  /-- credits of messages that have left the inbox, to be returned in the next numbered flit (R323) -/
  owed : AL Nat := []
  deriving DecidableEq, Repr

/-- A die-to-die link (R312 to R315, R482, Table 11.17): lower die and port, higher die. -/
structure D2dLink where
  lo : Nat
  portLo : Nat
  hi : Nat
  inUse : Bool := true
  up : Bool := true
  repaired : Nat := 0
  replayed : Nat := 0
  txSeq : Nat := 0
  rxSeq : Nat := 0
  rxAsked : Bool := false
  /-- fabric flits from the one expected on that were discarded, with their replays -/
  retry : List (Nat × List Byte × Nat) := []
  /-- bodies delivered in order, and flits of 256 bytes that wait while the link retrains -/
  inbox : List (List Byte) := []
  wait : List (List Byte) := []
  /-- times of failed retrains (R482) -/
  fails : List Nat := []
  deriving DecidableEq, Repr

/-- An entry of the export table (R331); no source package or tenant stands for any. -/
structure Export where
  src : Option Nat
  tenant : Option Nat
  base : Nat
  len : Nat
  rd : Bool
  wr : Bool
  atomic : Bool
  deriving DecidableEq, Repr

/-- What holds a transaction tag. -/
inductive TxnKind
  /-- a load, an atomic or a write-buffer entry of a core, by number -/
  | load | atom | store
  /-- the zero-length host read of a fence (R228) -/
  | fence
  /-- a write of an engine, an aggregator or the front end, by the number of its work -/
  | engine
  /-- a line's read for an access that an agent makes in one step -/
  | read
  deriving DecidableEq, Repr

/-- An outstanding remote transaction or host read (R334, R533). -/
structure Txn where
  die : Nat
  tag : Nat
  core : Nat
  kind : TxnKind
  id : Nat
  tenant : Nat
  node : Nat
  target : Target
  since : Nat
  /-- parked with the saved context of its core (R393) -/
  parked : Bool := false
  /-- its work was reset: the parking unit discards the response (R463) -/
  dead : Bool := false
  deriving DecidableEq, Repr

/-- The response to a line's read for an access made in one step, kept for that access. -/
structure FetchedLine where
  tenant : Nat
  package : Nat
  line : Nat
  data : Line
  fail : Option DevFault := none
  deriving DecidableEq, Repr

/-- Links and routing. -/
structure Links where
  ports : AL Port := []
  d2d : AL D2dLink := []
  /-- path fixed at boot for an ordered pair of dies, key source × 8 + destination: the port that each hop takes (R36) -/
  diePaths : AL (List Nat) := []
  /-- port mask by destination package (R328), and a written table not yet in effect -/
  routes : AL Nat := []
  newRoutes : Option (AL Nat) := none
  exports : AL Export := []
  timeoutMs : Nat := 10
  txns : List Txn := []
  fetched : List FetchedLine := []
  /-- identifier named by LINK_CONFIG and not yet applied (R326) -/
  newId : Option Nat := none
  deriving DecidableEq, Repr

end Sys2Proof.Machine
end

