-- ==== Sys2Proof/Machine/TypesFront.lean ====
section
/-! DEFINITION. State of the front end, the graph scheduler, partitions, tenants, images, versioned tensors, the
engines' queues and the bench (spec chapters 05, 07, 09, 11 to 14). -/

namespace Sys2Proof.Machine

/-- Status codes (Table 12.9). -/
inductive Status
  | ok | timeout | fault | substituted | joinDeferred | evicted | unitAbsent | completionLostRisk
  deriving DecidableEq, Repr

/-- Queue classes (R349). -/
inductive QClass
  | rt | hi | normal | bulk
  deriving DecidableEq, Repr

/-- Queue states (Table 12.3). -/
inductive QState
  | idle | waitSlot | active | logging | halted
  deriving DecidableEq, Repr

/-- What a queue that logs or is halted waits for (R373 to R375, R378): nothing, so that its log drains; REMAP_DONE; its
consumer count; QUEUE_RESUME. -/
inductive QReason
  | none | writeFault | ringFull | error
  deriving DecidableEq, Repr

/-- An accepted GRAPH entry (Table 12.1) with its time of acceptance and package-wide order. -/
structure RingEntry where
  graphLen : Nat
  graphAddr : Nat
  jobTag : Nat
  irq : Bool
  time : Nat
  order : Nat
  /-- earliest doorbell of its pass, for R396 -/
  db : Nat
  /-- taken over from a twin's primary: its job runs with the referee off (R493) -/
  resumed : Bool := false
  /-- found late before its job started, and the referee turned off for it because it has no substitute (R398, R400) -/
  late : Bool := false
  noRef : Bool := false
  deriving DecidableEq, Repr

/-- A logical queue (R349 to R351, R368 to R378). -/
structure Queue where
  fn : Nat
  cls : QClass
  haltOnError : Bool
  pasid : Bool
  shotUs : Nat
  ringBase : Nat
  ringLog2 : Nat
  vector : Nat
  rtCores : Nat
  consAddr : Nat
  tailUs : Nat
  st : QState := .idle
  reason : QReason := .none
  /-- why a queue that an error has halted was logging before (R374, R378) -/
  logReason : QReason := .none
  entries : List RingEntry := []
  prod : Nat := 0
  cons : Nat := 0
  log : List (List Byte) := []
  lost : Nat := 0
  slot : Option Nat := none
  job : Option Nat := none
  /-- shot clock: elapsed before the current run, and the run's start when it runs (R376) -/
  shotAcc : Nat := 0
  shotFrom : Option Nat := none
  shotExpired : Bool := false
  /-- period of the shot clock since its last restart, in microseconds (R376) -/
  shotT : Nat := 0
  /-- when the consumer count was last read (R368) -/
  polled : Nat := 0
  tails : List Nat := []
  /-- when the queue entered WAIT_SLOT -/
  since : Nat := 0
  /-- its slot's prefetch buffer: the order of an accepted entry, and the first 16 KiB of that entry's graph buffer (R352) -/
  prefetch : Option (Nat × List Byte) := none
  deriving DecidableEq, Repr

/-- What a failed node or job record names (Table 12.8). -/
structure FailInfo where
  status : Status := .ok
  fault : DevFault := .none
  loc : Nat := 0
  pc : Nat := 0
  lanes : Nat := 0
  node : Nat := 0xFFFFFFFF
  deriving DecidableEq, Repr

/-- How far a job has come. -/
inductive JobPhase
  /-- started, its header not yet read (R352, R357) -/
  | started
  /-- header read; parsing, waiting for placement -/
  | parsing
  /-- placed on cores (R387, R390) -/
  | placed
  /-- ended; its job record is still to be written -/
  | ended
  deriving DecidableEq, Repr

/-- A job (R352 to R367, R387 to R401). -/
structure Job where
  queue : Nat
  fn : Nat
  tenant : Nat
  part : Nat
  entry : RingEntry
  phase : JobPhase := .started
  nodes : Nat := 0
  edgeOff : Nat := 0
  edgeCount : Nat := 0
  budgetUs : Nat := 0
  substAddr : Nat := 0
  substLen : Nat := 0
  commit : Nat := 0
  /-- graph now parsed: the original's or the substitute's address and length -/
  graphAddr : Nat := 0
  graphLen : Nat := 0
  /-- what the prefetch buffer held of that graph when the job started (R352) -/
  pre : List Byte := []
  /-- the first 16 KiB of the substitute's graph buffer, read at placement (R400) -/
  substPre : List Byte := []
  nextNode : Nat := 0
  /-- nodes completed of the graph now running, and those completed with OK (R358) -/
  doneNodes : List Nat := []
  okNodes : List Nat := []
  cores : List Nat := []
  fail : Option FailInfo := none
  expired : Bool := false
  lostRisk : Bool := false
  /-- referee: off, late and waiting for placement, switched, stopping the original (R398 to R400) -/
  refOff : Bool := false
  lateEarly : Bool := false
  subst : Bool := false
  substStop : Bool := false
  substOk : Bool := false
  missed : Bool := false
  commitTime : Option Nat := none
  commitDone : Bool := false
  /-- the commit node has become dispatchable and the referee's test of that moment is due (R398) -/
  commitDue : Bool := false
  dispatched : Nat := 0
  escSum : Nat := 0
  obsSum : Nat := 0
  preempted : Nat := 0
  latency : Option Nat := none
  flagW : Option Nat := none
  flagS : Option Nat := none
  /-- RT: reserve cores were enough (R390) -/
  fits : Bool := true
  lost : Nat := 0
  deriving DecidableEq, Repr

/-- Resolution of a versioned-tensor reference at dispatch (R152). -/
structure VrefHold where
  tensor : Nat
  mode : Nat
  key : Nat
  /-- capture held, by number -/
  cap : Option Nat := none
  rd : Nat := 0
  wr : Nat := 0
  deriving DecidableEq, Repr

/-- How far a node has come. -/
inductive NodePhase
  | parsed
  /-- ready but for its flag (R361) -/
  | waiting
  /-- its wait has been met -/
  | ready
  | running
  /-- its work has ended, the completion steps of R365 remain -/
  | finished
  deriving DecidableEq, Repr

/-- A resident node (R354 to R366). -/
structure Node where
  job : Nat
  queue : Nat
  tenant : Nat
  part : Nat
  idx : Nat
  subst : Bool
  /-- its 128 descriptor bytes -/
  desc : List Byte
  preds : List Nat
  phase : NodePhase := .parsed
  shared : Bool := false
  /-- order in which it became dispatchable (R389) -/
  since : Nat := 0
  nextBlock : Nat := 0
  liveBlocks : Nat := 0
  doneBlocks : Nat := 0
  holds : List VrefHold := []
  policy : Nat := 0
  esc : Nat := 0
  observed : Nat := 0
  aux0 : Nat := 0
  aux1 : Nat := 0
  /-- status to complete with, once known -/
  fail : Option FailInfo := none
  /-- stopped by the shot clock or the referee: no further work of it is done (R377, R399) -/
  stopping : Bool := false
  /-- twin: its NODE_DONE record is acknowledged (R337) -/
  mirrored : Bool := false
  /-- a step that the bench has taken up, from its dispatch on (R413) -/
  inBench : Bool := false
  /-- the break units have seen its dispatch decision (R511) -/
  seen : Bool := false
  deriving DecidableEq, Repr

/-- A partition (Table 13.1). -/
structure Partition where
  granules : List Nat
  dedicated : Bool
  ways : Bool
  mask : BitVec 16
  keep : Nat
  stashMib : Nat
  rate : Nat
  burst : Nat
  rtRate : Nat
  rtBurst : Nat
  /-- tenant whose work was last dispatched here, for the scrub of R273 -/
  served : Option Nat := none
  deriving DecidableEq, Repr

/-- A bound tenant (R384). -/
structure Tenant where
  part : Nat
  coresMax : Nat
  memQuota : Nat
  /-- OVER_QUOTA has been raised and not yet fallen back (Table 13.5) -/
  overQuota : Bool := false
  deriving DecidableEq, Repr

/-- A kernel of an image: register count, shared local memory, largest block, entry offset, reconvergence points
(R157, R168, R189, R206). -/
structure Kernel where
  nregs : Nat
  slmKib : Nat
  maxThreads : Nat
  entry : Nat
  recon : List Nat
  /-- line map of variant 66: Lysril offset to native offset (R216) -/
  lines : List (Nat × Nat)
  /-- line map of variant 67 (R206) -/
  altLines : List (Nat × Nat) := []
  /-- native offsets at which the code of variants 66 and 67 ends -/
  nend : Nat := 0
  altEnd : Nat := 0
  /-- optional units that the kernel needs, as the bits of CAP_UNITS (R206) -/
  units : Nat := 0
  /-- register map: %v number and native register (R217) -/
  vmap : List (Nat × Nat) := []
  /-- threads of its blocks where the code object holds that constant, else 0 (R160) -/
  constThreads : Nat := 0
  deriving DecidableEq, Repr

/-- A loaded image (R206 to R211). -/
structure Image where
  tenant : Nat
  kernels : List Kernel
  bytes : Nat
  region : List Nat
  unloading : Bool := false
  /-- mailbox request that waits for the unload's effect (R210) -/
  waiter : Option Nat := none
  deriving DecidableEq, Repr

/-- A versioned tensor (R151). -/
structure VTensor where
  tenant : Nat
  slotBytes : Nat
  bases : List Nat
  c : Nat := 0
  updating : Bool := false
  deriving DecidableEq, Repr

/-- A capture (R152, R153); `key` is none for a READ. -/
structure Capture where
  tensor : Nat
  key : Option Nat
  version : Nat
  count : Nat
  deriving DecidableEq, Repr

/-- An operation in a die's range-maintenance engine (R269 to R271). -/
structure RangeOp where
  node : Nat
  tenant : Nat
  part : Nat
  base : Nat
  len : Nat
  op : Nat
  started : Bool := false
  stopped : Bool := false
  deriving DecidableEq, Repr

/-- A copy in a die's copy engine (R335, R336). -/
structure CopyOp where
  node : Nat
  tenant : Nat
  part : Nat
  src : Nat
  dst : Nat
  len : Nat
  hint : Nat := 0
  started : Bool := false
  stopped : Bool := false
  /-- first line in the order in which the engine takes them (free), and lines taken so far -/
  first : Nat := 0
  done : Nat := 0
  /-- a line's write was rejected or timed out, and how many were -/
  failed : Option DevFault := none
  lost : Nat := 0
  /-- the copy has stopped; it ends once its writes in flight have been answered -/
  ended : Bool := false
  deriving DecidableEq, Repr

/-- A sequence of a bench pool (R411 to R420). -/
structure BenchSeq where
  len : Nat
  prio : Nat
  stamp : Nat
  slot : Nat
  pages : List Nat
  deriving DecidableEq, Repr

/-- A page pool of the bench (R411 to R413). -/
structure Pool where
  owner : Nat
  base : Nat
  pages : Nat
  tpp : Nat
  maxSeq : Nat
  maxPages : Nat
  /-- bytes of one page -/
  pageBytes : Nat
  /-- address of the table area that firmware reserves (R412) -/
  area : Nat := 0
  seqs : AL BenchSeq := []
  joins : Nat := 0
  steps : Nat := 0
  /-- nodes whose steps wait, in order (R416, R421) -/
  waiting : List Nat := []
  deriving DecidableEq, Repr

/-- An expiry kept for the wait-cycle test (R379). -/
structure Expiry where
  queue : Nat
  w : Nat
  s : Nat
  deriving DecidableEq, Repr

/-- The front end and graph scheduler. -/
structure Front where
  queues : AL Queue := []
  jobs : AL Job := []
  nodes : AL Node := []
  flags : AL Nat := []
  /-- flag group to tenant (R360) -/
  grants : AL Nat := []
  expiries : List Expiry := []
  nextJob : Nat := 0
  nextNode : Nat := 0
  nextOrder : Nat := 0
  deriving DecidableEq, Repr

/-- Scheduling state that mailbox messages set. -/
structure Sched where
  parts : AL Partition := []
  tenants : AL Tenant := []
  /-- reserve cores per region, RT slot reserve (R385) -/
  n : Nat := 3
  r : Nat := 4
  strict : Bool := false
  deriving DecidableEq, Repr

/-- A die: its engines, whose parked tags stand among the transactions. -/
structure Die where
  ranges : List RangeOp := []
  copies : List CopyOp := []
  deriving DecidableEq, Repr

end Sys2Proof.Machine
end

