-- ==== Sys2Proof/Machine/TypesMgmt.lean ====
section
/-! DEFINITION. State of the mailboxes and the management controller, of twin operation, power and clocks, reliability
and debug (spec chapters 15 to 18 and 20). -/

namespace Sys2Proof.Machine

/-! ### Mailboxes (R429 to R441) -/

/-- A mailbox (R431 to R436). -/
structure Mbox where
  /-- bytes written to the request buffer; the rest reads 0 -/
  req : List Byte := []
  resp : List Byte := []
  reqPending : Bool := false
  respValid : Bool := false
  /-- the reply waits for the twin to acknowledge its records (R337) -/
  respHeld : Bool := false
  exec : Bool := false
  l : Nat := 0
  d : Nat := 0
  hostAcked : Nat := 0
  /-- copy of the last consumed request (R430) -/
  copy : List Byte := []
  /-- replay log, oldest first: 92-byte entries, at most 256 (R436) -/
  log : List (List Byte) := []
  deriving DecidableEq, Repr

/-- A key slot (R440). -/
structure KeySlot where
  key : Option (List Byte) := none
  mask : Nat := 0
  counter : Nat := 0
  locked : Bool := false
  /-- times of authentication failures within the last 60 s -/
  fails : List Nat := []
  deriving DecidableEq, Repr

/-- An entry of the lasting-fault list (Table 17.5) without its CHECK. -/
structure FaultEnt where
  kind : Nat
  flags : Nat
  place : Nat
  detail : Nat
  boot : Nat
  deriving DecidableEq, Repr

/-- A firmware bank's image (R445): its security version, and the failed boots while it is pending. -/
structure FwBank where
  svn : Nat := 0
  image : List Byte := []
  deriving DecidableEq, Repr

/-- The management controller, its flash and the board path (R429 to R445, R483, R556). -/
structure Mgmt where
  mboxes : AL Mbox := []
  /-- mailbox served last (R429) -/
  lastServed : Nat := 1025
  standby : Bool := false
  /-- mailbox whose TWIN_ATTACH is being carried out -/
  busy : Option Nat := none
  /-- mailbox whose consumed request waits for a host translation before it can be carried out (R429) -/
  retry : Option Nat := none
  keys : AL KeySlot := []
  banks : List FwBank := [{}, {}]
  activeBank : Nat := 0
  pendingBank : Option Nat := none
  failedBoots : Nat := 0
  minSvn : Nat := 0
  faults : List FaultEnt := []
  bootNo : Nat := 0
  /-- patrol interval, hours (R301) -/
  scrubHours : Nat := 24
  /-- MCTP messages that wait: type and bytes (R431) -/
  mctp : List (Nat × List Byte) := []
  i3cAddr : Option Nat := none
  /-- mirrored messages applied since reset, with their mailboxes: the configuration that a twin's snapshot holds (R489) -/
  applied : List (Nat × List Byte) := []
  deriving DecidableEq, Repr

/-! ### Twin operation (R337, R487 to R495) -/

/-- Twin states (Table 17.6). -/
inductive TwinState
  | off | attaching | synced | degraded | takenOver
  deriving DecidableEq, Repr

/-- Mirror records (Table 11.10). -/
inductive Mirror
  /-- function, queue, new ring position, order of acceptance, the 32-byte entry -/
  | ringEntry (fn queue pos order : Nat) (e : List Byte)
  /-- queue, order of the job's entry, node index, status, resident node, producer count before, whether a record is written,
  and the versioned-tensor references that were in use -/
  | nodeDone (queue order idx status node prod : Nat) (rec : Bool) (refs : List Nat)
  | flagSet (flag value : Nat)
  /-- mailbox, L, D -/
  | mbSeq (fn l d : Nat)
  /-- an applied message: mailbox, its bytes -/
  | config (fn : Nat) (msg : List Byte)
  deriving DecidableEq, Repr

/-- A record in flight or held (R337). -/
structure MirrorRec where
  seq : Nat
  time : Nat
  r : Mirror
  /-- the twin port on which a primary sent it last -/
  port : Nat := 0
  deriving DecidableEq, Repr

/-- Twin state of the module. -/
structure Twin where
  st : TwinState := .off
  role : Nat := 0
  peer : Nat := 0
  nextSeq : Nat := 0
  /-- sent and not acknowledged -/
  sent : List MirrorRec := []
  /-- mirror store of a secondary: records held, and the next sequence number to apply -/
  store : List MirrorRec := []
  applySeq : Nat := 0
  /-- the secondary was SYNCED when its second twin port became DEAD (R492) -/
  deadSynced : Bool := false
  since : Nat := 0
  /-- the snapshot's last record, once it has been sent or received (R489) -/
  snapEnd : Option Nat := none
  deriving DecidableEq, Repr

/-! ### Power, clocks and resets (R447 to R472, R551 to R564) -/

/-- Where the module stands between power and READY. -/
inductive BootPhase
  /-- no package power -/
  | off
  /-- in reset by a warm cause; the flush may still run -/
  | warm
  | running
  deriving DecidableEq, Repr

/-- Power and clock state. -/
structure Pm where
  phase : BootPhase := .off
  ready : Bool := false
  pgood : Bool := false
  wflush : Bool := true
  cause : Nat := 0
  warm : Bool := false
  flushed : Bool := false
  lost : Nat := 0
  /-- the flush of a warm reset runs since this time -/
  flushFrom : Option Nat := none
  flushIncomplete : Bool := false
  /-- levels of MRST_N and PERST0_N -/
  mrstLow : Bool := false
  perstLow : Bool := true
  hotReset : Bool := false
  thermTrip : Bool := false
  leak : Bool := false
  /-- rungs below nominal chosen by temperature, key kind × 65536 + number; last readings -/
  rungs : AL Nat := []
  temps : AL Nat := []
  /-- since when the block's sensor has read below 95 °C -/
  cool : AL Nat := []
  /-- last tick at which a block held work, by kind × 65,536 + number (R456) -/
  busy : AL Nat := []
  drop : Bool := false
  dropUntil : Nat := 0
  /-- power states of slices, die fabrics, controllers and aggregators, same keys -/
  blocks : AL BlockPower := []
  deriving DecidableEq, Repr

/-! ### Reliability (R476 to R486) -/

/-- Reliability state. -/
structure Ras where
  failed : Bool := false
  fatalRes : Option Resource := none
  /-- leaky buckets (R480) -/
  buckets : List (Resource × Nat) := []
  /-- last leak applied to a bucket, in multiples of its interval -/
  leaks : List (Resource × Nat) := []
  fenced : Nat := 0
  initEnd : Nat := 0
  deriving DecidableEq, Repr

/-! ### Debug (R498 to R521) -/

/-- A counter block (Table 18.2). -/
structure CtrBlock where
  snapTrace : Bool := false
  ovf : Nat := 0
  frozen : Bool := false
  snapCause : Nat := 0
  freezeStamp : Nat := 0
  resumeStamp : Nat := 0
  snapTag : Nat := 0
  snapStamp : Nat := 0
  evsel : AL Nat := []
  count : AL Nat := []
  snap : AL Nat := []
  aux0 : Nat := 0
  aux1 : Nat := 0
  /-- counters that have wrapped and whose overflow is still to be handled -/
  wrapped : List Nat := []
  /-- attributed task (R502), and that at the freeze -/
  tag : Option Nat := none
  tagFrozen : Option Nat := none
  deriving DecidableEq, Repr

/-- A break unit (Table 18.22, R511). -/
structure BreakUnit where
  en : Bool := false
  mode : Nat := 0
  fired : Bool := false
  queue : Nat := 0
  val : Nat := 0
  mask : Nat := 0
  count : Nat := 0
  /-- function that armed it -/
  fn : Nat := 0
  deriving DecidableEq, Repr

/-- A trace source (R518): its FIFO, records dropped since the last DROP and the stamp of the first. -/
structure TraceSrc where
  fifo : List (List Nat) := []
  dropped : Nat := 0
  firstStamp : Nat := 0
  deriving DecidableEq, Repr

/-- The debug facilities. -/
structure Dbg where
  level : Nat := 0
  /-- scope tenant; none with level above 0 is all tenants -/
  scope : Option Nat := none
  blocks : AL CtrBlock := []
  action : Bool := false
  drive : Bool := false
  pinEn : Bool := true
  ovfEn : Bool := true
  irqEn : Bool := false
  raised : Bool := false
  first : Nat := 0
  sources : Nat := 0
  stamp : Nat := 0
  /-- the device drives WHISTLE_N -/
  driving : Bool := false
  /-- freeze and resume stamps and reach of the last whistle, for blocks that hold nothing else -/
  freezeAt : Nat := 0
  resumeAt : Nat := 0
  brkHit : Nat := 0
  brkLys : Nat := 0
  /-- BRKs held until the release: core, slot, native pc -/
  brkHeld : List (Nat × Nat × Nat) := []
  breakHit : Nat := 0
  breaks : AL BreakUnit := []
  /-- node held by a break under HALT -/
  heldNode : Option Nat := none
  traceCtl : Nat := 0x40000000
  portUp : Bool := false
  traceSent : Nat := 0
  traceDrop : Nat := 0
  sources0 : AL TraceSrc := []
  portFifo : List (List Nat) := []
  /-- access port, by function: CTL without GO, ADDR, DATA, IMAGE -/
  accCtl : AL Nat := []
  accAddr : AL Nat := []
  accData : AL Nat := []
  accImage : AL Nat := []
  deriving DecidableEq, Repr

end Sys2Proof.Machine
end

