-- ==== Sys2Proof/Machine/State.lean ====
section
/-! DEFINITION. The state of the block: everything the spec gives the machine, as plain data, and its reset. -/

namespace Sys2Proof.Machine

/-- The state. -/
structure State where
  /-- commands waiting, first in first out (the model's own queue) -/
  pending : List Instr := []
  /-- free values used so far (log entry 2) -/
  freeCtr : Nat := 0
  /-- order of events inside the model: numbers loads, fences, fills and entries as they come -/
  seqNo : Nat := 0
  variant : Variant := .gbl8
  /-- CAP_UNITS in force (R5, R6) -/
  units : Nat := 0
  /-- PM_TIME: ticks of the 100 MHz timebase (R449) -/
  time : Nat := 0
  cores : AL Core := []
  clusters : AL Cluster := []
  regions : AL Region := []
  dies : AL Die := []
  mem : MemSys := {}
  fns : AL Fn := []
  host : HostWorld := {}
  fe : Front := {}
  sched : Sched := {}
  /-- LNK_SELF: the package identifier in force, none while ID_VALID reads 0 (R326) -/
  selfId : Option Nat := none
  links : Links := {}
  mgmt : Mgmt := {}
  twin : Twin := {}
  pm : Pm := {}
  ras : Ras := {}
  dbg : Dbg := {}
  images : AL Image := []
  nextImage : Nat := 1
  vtensors : AL VTensor := []
  captures : AL Capture := []
  nextCapture : Nat := 0
  pools : AL Pool := []
  /-- counters frozen by the whistle: not at all, every block (`some none`), or one tenant's (R506) -/
  frozen : Option (Option Nat) := none
  /-- saved contexts, by core (R392) -/
  saved : AL Exec := []
  deriving DecidableEq, Repr

/-- Why a step stops. -/
inductive Fault
  /-- raised by a host access to a BAR before device initialisation ends (R525): "The host must not access any BAR
  before the function's configuration requests complete normally", and the spec gives such an access no outcome.
  Safe: the run stops where the hardware may do anything. -/
  | barBeforeReady
  deriving DecidableEq, Repr

/-- Why a command has no meaning. -/
inductive Refusal
  /-- an arm whose command is not modelled, by its mnemonic. Safe: nothing runs. -/
  | notModelled (mnemonic : String)
  deriving DecidableEq, Repr

/-- The machine right after reset. -/
def State.reset : State := {}

end Sys2Proof.Machine
end

