-- ==== Sys2Proof/Machine/Events.lean ====
section
/-! DEFINITION. Functions of the host interface that every family uses (spec chapter 19): messages, host accesses
with their translation, interrupt vectors, the event ring, event bits and counters. -/

namespace Sys2Proof.Machine

/-- The register groups of a function. -/
def fnOf (s : State) (f : Nat) : Fn := alGet {} s.fns f

/-- Replace a function's register groups. -/
def setFn (s : State) (f : Nat) (x : Fn) : State := { s with fns := alPut s.fns f x }

/-- Change a function's register groups. -/
def modFn (s : State) (f : Nat) (g : Fn → Fn) : State := setFn s f (g (fnOf s f))

/-- Record something that leaves the part. -/
def emit (s : State) (o : Out) : State := { s with host.out := s.host.out ++ [o] }

/-- Take the next fresh free value (log entry 2). -/
def takeFree (s : State) : DWord × State := (Config.fresh s.freeCtr, { s with freeCtr := s.freeCtr + 1 })

/-- Take the next number of the model's own event order. -/
def takeSeq (s : State) : Nat × State := (s.seqNo, { s with seqNo := s.seqNo + 1 })

/-- The physical function, the service function and the board path. -/
def pf : Nat := 0
def serviceFn : Nat := 1024
def boardFn : Nat := 1025

/-! ### Host accesses (R529 to R532) -/

/-- Outcome of translating a host address. -/
inductive XRes
  | ok (a : Nat)
  /-- a final translation fault -/
  | fault
  /-- a Translation Request or Page Request is outstanding -/
  | wait
  deriving DecidableEq, Repr

/-- Key of a page in the address translation cache. -/
def atcKey (fn : Nat) (pasid : Option Nat) (addr : Nat) : Nat :=
  fn * 2 ^ 80 + (match pasid with | none => 0 | some p => p + 1) * 2 ^ 56 + addr / 4096

/-- An outstanding request for this page. -/
def xlatPending (s : State) (fn : Nat) (pasid : Option Nat) (addr : Nat) : Bool :=
  s.host.xreqs.any (fun q => q.fn == fn && q.pasid == pasid && q.page == addr / 4096 && !q.dead)

/-- Translate a host address for an access of function `fn` (R530, R531). With ATS Enable clear it is sent as it
stands; a miss sends a Translation Request; a fault sends a Page Request while PRI allows it. -/
def hostXlat (s : State) (fn : Nat) (pasid : Option Nat) (addr : Nat) (write : Bool) : XRes × State :=
  let p := (fnOf s fn).pcie
  if !p.ats then (.ok addr, s)
  else
    match alFind s.host.atc (atcKey fn pasid addr) with
    | some e =>
      if e.final then (.fault, { s with host.atc := alDel s.host.atc (atcKey fn pasid addr) })
      else if (write && e.w) || (!write && e.r) then (.ok (e.host * 4096 + addr % 4096), s)
      else if !p.pri || p.priStopped then (.fault, s)
      else if xlatPending s fn pasid addr then (.wait, s)
      else if p.priAlloc ≤ (s.host.xreqs.filter (fun q => q.fn == fn && q.prg)).length then (.wait, s)
      else
        (.wait, emit { s with host.xreqs := s.host.xreqs ++
          [{ fn := fn, pasid := pasid, page := addr / 4096, write := write, prg := true }] }
          (.pcie 2 fn (addr / 4096)))
    | none =>
      if xlatPending s fn pasid addr then (.wait, s)
      else (.wait, emit { s with host.xreqs := s.host.xreqs ++
          [{ fn := fn, pasid := pasid, page := addr / 4096, write := write }] } (.pcie 1 fn (addr / 4096)))

/-- Write host memory as a posted write; `ro` is Relaxed Ordering (R240). -/
def hostWrite (s : State) (addr : Nat) (bytes : List Byte) (ro : Bool) : State :=
  emit { s with host.mem := cellPuts s.host.mem addr bytes } (.hostWrite addr bytes ro)

/-- Bytes that the host wrote before this command (R239). -/
def postHost (s : State) (p : Posted) : State :=
  { s with host.mem := p.foldl (fun m c => cellPut m c.1 c.2) s.host.mem }

/-- Whether a function of the primary interface, or the service function, responds (R38, R522, R524). -/
def fnLive (s : State) (f : Nat) : Bool :=
  f == pf || f == serviceFn || (s.host.vfEnable && decide (0 < f) && decide (f ≤ s.host.numVfs))

/-- A command ends in state `t`: a command acts on everything but the queue of waiting commands, and what the part is
does not change (R3), so both stay as they were in `s`. -/
def completes (s t : State) : Host.Outcome State Fault Refusal :=
  .next { t with pending := s.pending, variant := s.variant }

/-- A host access to a BAR of a function: `barBeforeReady` before device initialisation ends (R525); no effect on a
function that is not enabled or whose memory decode D3hot has disabled (R524). -/
def hostAccess (s : State) (f : Nat) (k : State) : Host.Outcome State Fault Refusal :=
  if !s.pm.ready then .fault .barBeforeReady
  else if fnLive s f && !(fnOf s f).pcie.d3hot then completes s k
  else completes s s

/-! ### Interrupt vectors (R535) -/

/-- MSI-X vectors of a function (R535, Table 19.11). -/
def vectorsOf (f : Nat) : Nat := if f = pf then 2048 else if f = serviceFn then 2 else 64

/-- Signal a vector: a message, or the pending bit while it is masked. -/
def signalVec (s : State) (f v : Nat) : State :=
  let fn := fnOf s f
  let e := alGet {} fn.vecs v
  if e.masked || !fn.pcie.msixEn then setFn s f { fn with vecs := alPut fn.vecs v { e with pend := true } }
  else emit s (.msix f v e.addr e.data)

/-! ### The event ring (R537 to R540) -/

/-- Size of a function's event ring. -/
def evSize (e : EvRing) : Nat := 2 ^ e.sizeLog2

/-- The 32 bytes of an entry (Table 19.4). -/
def evEntry (e : EvRing) (grp bitN detail time : Nat) : List Byte :=
  leBytes 1 grp ++ leBytes 1 bitN ++ leBytes 1 (b2n e.owed) ++ leBytes 5 0 ++ leBytes 8 time ++ leBytes 8 detail ++
  leBytes 6 0 ++ leBytes 2 (e.prod % 2 ^ 15 + 2 ^ 15 * (e.prod / evSize e % 2))

/-- An occurrence that finds no room or whose write faults (R539). -/
def evDrop (s : State) (f : Nat) : State :=
  modFn s f (fun x => { x with evr.drop := (x.evr.drop + 1) % 2 ^ 64, evr.owed := true })

/-- Signal the event vector once if it is armed, and disarm it (R540). -/
def evSignal (s : State) (f : Nat) : State :=
  let x := fnOf s f
  if x.evr.armed then signalVec (setFn s f { x with evr.armed := false }) f 1 else s

/-- Write one event-ring entry, or drop it, or let it wait for a translation; then R540. -/
def evWrite (s : State) (f grp bitN detail time : Nat) : State :=
  let x := fnOf s f
  let e := x.evr
  if evSize e ≤ (e.prod + 2 ^ 32 - e.cons) % 2 ^ 32 then evDrop s f
  else
    match hostXlat s f none (e.base + 32 * (e.prod % evSize e)) true with
    | (.fault, s) => evDrop s f
    | (.wait, s) => modFn s f (fun x => { x with evWait := x.evWait ++ [(grp, bitN, detail, time)] })
    | (.ok a, s) =>
      let b := evEntry e grp bitN detail time
      let s := hostWrite s a (b.take 24) false
      let s := hostWrite s (a + 24) (b.drop 24) false
      let s := modFn s f (fun x => { x with evr.prod := (x.evr.prod + 1) % 2 ^ 32, evr.owed := false })
      if grp = 6 then s else evSignal s f

/-- An event occurrence of function `f` (R538): the entry while the ring is enabled, and the vector. -/
def occur (s : State) (f grp bitN detail : Nat) : State :=
  let x := fnOf s f
  let s := if x.evr.en then
      (if x.evWait.isEmpty then evWrite s f grp bitN detail s.time
       else modFn s f (fun x => { x with evWait := x.evWait ++ [(grp, bitN, detail, s.time)] }))
    else if grp = 6 then s else signalVec s f 1
  if grp = 6 then signalVec s f 0 else s

/-- Event register groups (Table 19.5). -/
def gFE : Nat := 1
def gQOS : Nat := 2
def gMEM : Nat := 3
def gSV : Nat := 4
def gLNK : Nat := 5
def gMB : Nat := 6
def gPM : Nat := 7
def gRAS : Nat := 8

/-- The LAST register of a group; MEM_LAST_ERR.PIN resets to 0xFF (Table 10.12). -/
def lastOf (x : Fn) (grp : Nat) : Nat := alGet (if grp = gMEM then 0xFF0000 else 0) x.last grp

/-- Hardware sets bit `bitN` of an event register of function `f`, writing the group's LAST register when one is
given (R538, R15). -/
def raiseEv (s : State) (f grp bitN : Nat) (last : Option Nat) : State :=
  let x := fnOf s f
  let old := alGet 0 x.ev grp
  let x := match last with
    | some v => { x with last := alPut x.last grp v }
    | none => x
  let s := setFn s f { x with ev := alPut x.ev grp (setBitN old bitN) }
  if !bit old bitN && bit (alGet 0 x.en grp) bitN then
    occur s f grp bitN (if grp = gMB || grp = gPM then 0 else lastOf x grp)
  else s

/-- As `raiseEv`, with an occurrence at every raise while the enable bit is set (REPORT_EACH, Table 4.4). -/
def raiseEach (s : State) (f grp bitN : Nat) (each : Bool) (last : Option Nat) : State :=
  let again := each && bit (alGet 0 (fnOf s f).ev grp) bitN && bit (alGet 0 (fnOf s f).en grp) bitN
  let s := raiseEv s f grp bitN last
  if again then occur s f grp bitN (lastOf (fnOf s f) grp) else s

/-! ### Counters -/

/-- Whether the whistle holds a tenant's counters (R506). -/
def ctrFrozen (s : State) (tenant : Nat) : Bool :=
  match s.frozen with
  | none => false
  | some none => true
  | some (some t) => t == tenant

/-- Advance a counter of the function of `tenant` (R523), unless the whistle has frozen it. -/
def bump (s : State) (tenant off n : Nat) : State :=
  if ctrFrozen s tenant || n = 0 then s
  else modFn s tenant (fun x => { x with cnt := alPut x.cnt off ((alGet 0 x.cnt off + n) % 2 ^ 64) })

/-- Advance a MEM_ counter of a tenant's function and of the physical function, which sees every access (R311). -/
def memBump (s : State) (tenant off n : Nat) : State :=
  let s := bump s tenant off n
  if tenant = pf then s else bump s pf off n

/-- Raise a bit of MEM_EVENT in a tenant's function and in the physical function. -/
def memRaise (s : State) (tenant bitN : Nat) (last : Option Nat) : State :=
  let s := raiseEv s tenant gMEM bitN last
  if tenant = pf then s else raiseEv s pf gMEM bitN last

/-- Poisoned data were consumed (R300): MEM_CNT_POISON and POISON_CONSUMED. -/
def poisonConsumed (s : State) (tenant : Nat) : State := memRaise (memBump s tenant 0x50228 1) tenant 2 none

/-- Read a counter. -/
def counterOf (s : State) (tenant off : Nat) : Nat := alGet 0 (fnOf s tenant).cnt off

end Sys2Proof.Machine
end

