-- ==== Sys2Proof/Machine/ReedSolomon.lean ====
section
/-! DEFINITION. The two Reed-Solomon codes: RS(72,64) of a memory sector with its symbols on the pins (R297, R300) and
RS(544,514) of a Springbok codeword with its symbols on the lanes (R318). A field element is the number whose bits are its
coefficients; a polynomial is the list of its coefficients, the highest power first. -/

namespace Sys2Proof.Machine

/-- Product of two elements of GF(2^m), modulo the field polynomial. -/
def gfMul (m poly : Nat) : (steps a b : Nat) → Nat
  | 0, _, _ => 0
  | k + 1, a, b =>
    let twice := if 2 ^ m ≤ 2 * a then (2 * a) ^^^ poly else 2 * a
    (if b % 2 = 1 then a else 0) ^^^ gfMul m poly k twice (b / 2)

/-- α^i, with α the element 2, a root of the field polynomial. -/
def gfPow (m poly : Nat) : Nat → Nat
  | 0 => 1
  | i + 1 => gfMul m poly m (gfPow m poly i) 2

/-- p(x) times (x - e). -/
def polyTimesRoot (m poly e : Nat) (p : List Nat) : List Nat :=
  (p ++ [0]).zipWith (· ^^^ ·) (0 :: p.map (fun c => gfMul m poly m c e))

/-- The product of (x - α^i) for i below n: the generator polynomial, its leading 1 first. -/
def rsGenerator (m poly : Nat) : Nat → List Nat
  | 0 => [1]
  | n + 1 => polyTimesRoot m poly (gfPow m poly n) (rsGenerator m poly n)

/-- The remainder of (r(x) + data(x) x^k) by the generator, one data symbol after the other, the highest first; `g` is the
generator without its leading 1. -/
def rsRemainder (m poly : Nat) (g : List Nat) : (r data : List Nat) → List Nat
  | r, [] => r
  | r, d :: ds =>
    let f := d ^^^ r.headD 0
    rsRemainder m poly g ((r.tail ++ [0]).zipWith (· ^^^ ·) (g.map (fun c => gfMul m poly m f c))) ds

/-- Check symbols of a systematic code with n check symbols, the highest power first; data the highest power first. -/
def rsCheck (m poly n : Nat) (data : List Nat) : List Nat :=
  rsRemainder m poly ((rsGenerator m poly n).tail) (List.replicate n 0) data

/-! ### RS(72,64) of a sector (R297) -/

/-- x^8 + x^4 + x^3 + x^2 + 1. -/
def sectorPoly : Nat := 0x11D

/-- Symbols 0 to 71 of the codeword of 64 data bytes: symbol s is the coefficient of x^s (log entry 149). -/
def sectorWord (data : List Nat) : List Nat := (rsCheck 8 sectorPoly 8 data.reverse).reverse ++ data

/-- The symbols stored for a sector: a poisoned one has every check symbol of its data inverted (R300). -/
def storedWord (data : List Nat) (poisoned : Bool) : List Nat :=
  let w := sectorWord data
  if poisoned then (w.take 8).map (· ^^^ 0xFF) ++ w.drop 8 else w

/-- The controller recognises the pattern of a poisoned sector. -/
def isPoisonWord (w : List Nat) : Bool := w == storedWord (w.drop 8) true

/-- Pin of a symbol: 0 to 31 for data, 32 to 35 for check pins (Table 10.5). -/
def symPin (k : Nat) : Nat := if k < 8 then 32 + k / 2 else (k - 8) / 2

/-- Half-burst of a symbol: 0 for beats 0 to 7, 1 for beats 8 to 15 (Table 10.5). -/
def symHalf (k : Nat) : Nat := k % 2

/-- The symbol that a pin carries in a half-burst. -/
def pinSym (pin half : Nat) : Nat := if pin < 32 then 8 + 2 * pin + half else 2 * (pin - 32) + half

/-- What a pin carries at a beat, 0 to 15, of a stored word: bit j of a symbol is the value at beat j of its half-burst. -/
def pinBeat (w : List Nat) (pin beat : Nat) : Bool := (w.getD (pinSym pin (beat / 8)) 0).testBit (beat % 8)

/-- What decoding of a sector gives (Table 10.6). -/
inductive EccOutcome
  | clean | corrected | uncorrectable
  /-- more symbols than the code covers: miscorrected, undetected or detected -/
  | uncovered
  deriving DecidableEq, Repr

/-- Outcome of decoding by Table 10.6, from the erased lanes of the pseudo-channel and the symbols that differ. -/
def eccOutcome (erased syms : List Nat) : EccOutcome :=
  let n := (syms.dedup.filter (fun k => !erased.contains (symPin k))).length
  if 3 ≤ erased.length then .uncorrectable
  else if n = 0 then .clean
  else if n ≤ (if erased.length = 2 then 0 else 2) then .corrected
  else if n ≤ (if erased.isEmpty then 6 else 4) then .uncorrectable
  else .uncovered

/-! ### RS(544,514) of a codeword (R318) -/

/-- x^10 + x^3 + 1, the field polynomial of IEEE 802.3 Clause 91 (PRESUMED, log entry 150). -/
def linkPoly : Nat := 0x409

/-- Data and check symbols of a codeword. -/
def cwData : Nat := 514
def cwCheck : Nat := 30

/-- Symbols 0 to 543 of the codeword of 514 data symbols, in the order in which they are sent: the data, then the check
symbols, the highest power first (PRESUMED, log entry 150). -/
def codeword (data : List Nat) : List Nat := data ++ rsCheck 10 linkPoly cwCheck data

/-- Symbols that the code corrects in a codeword. -/
def cwCorrects : Nat := 15

/-- Logical lane of symbol k at a width of w lanes. -/
def symLane (w k : Nat) : Nat := k % w

/-- The five PAM4 symbols of a symbol, the most significant bits first. -/
def pam4Of (v : Nat) : List Nat := (List.range 5).map (fun i => v / 4 ^ (4 - i) % 4)

/-- Unit intervals that a codeword takes on each lane: 340 at width 8. -/
def cwIntervals (w : Nat) : Nat := 5 * (544 / w)

/-- The PAM4 symbols that a logical lane carries for a codeword. -/
def laneSends (w : Nat) (cw : List Nat) (lane : Nat) : List Nat :=
  ((cw.zipIdx.filter (fun e => symLane w e.2 == lane)).map (fun e => pam4Of e.1)).flatten

/-- Bits of the continuous stream of flits that codeword n of the data codewords carries: 5,140 bits from bit 5,140 n on, with
no regard to flit boundaries. -/
def cwBits : Nat := 10 * cwData

/-- The data codewords that carry the bits of flit k of the stream, of `len` bits each: first and last. -/
def flitWords (len k : Nat) : Nat × Nat := (k * len / cwBits, ((k + 1) * len - 1) / cwBits)

/-- Codewords on the wire: after every 1,023 data codewords one marker codeword. Whether codeword n of the wire is one. -/
def isMarker (n : Nat) : Bool := n % 1024 == 1023

/-- Place on the wire of data codeword n. -/
def wireOf (n : Nat) : Nat := n / 1023 * 1024 + n % 1023

/-- Data symbols of a marker codeword (R318): the codeword count and the lanes' identities in a fixed pattern, for which the
spec gives no layout (`free`, log entry 150). -/
def markerWord (free : Nat → Nat → Nat) (count : Nat) : List Nat :=
  codeword ((List.range cwData).map (fun k => free count k % 1024))

end Sys2Proof.Machine
end

