-- ==== Sys2Proof/Machine/Wire.lean ====
section
/-! DEFINITION. What flits and link messages are as bytes (R313, R320, R324): the CRC-32, the fabric flit of a die-to-die port,
the Springbok flit, the header of a link message. -/

namespace Sys2Proof.Machine

/-! ### CRC-32 (R313, R320) -/

/-- One bit of the division by 0x04C1_1DB7, the register reflected (log entry 154). -/
def crcBit (c : Nat) : Nat := if c % 2 = 1 then (c / 2) ^^^ 0xEDB88320 else c / 2

/-- One byte, its least significant bit first. -/
def crcByte (c : Nat) (b : Byte) : Nat :=
  crcBit (crcBit (crcBit (crcBit (crcBit (crcBit (crcBit (crcBit (c ^^^ b.toNat))))))))

/-- CRC-32 of IEEE 802.3. -/
def crc32 (bs : List Byte) : Nat := bs.foldl crcByte 0xFFFFFFFF ^^^ 0xFFFFFFFF

/-- Bytes followed by their CRC. -/
def withCrc (bs : List Byte) : List Byte := bs ++ leBytes 4 (crc32 bs)

/-- A flit of 256 bytes whose CRC holds: bytes 252 to 255 are the CRC-32 of bytes 0 to 251. -/
def crcHolds (flit : List Byte) : Bool := flit.length == 256 && fieldAt flit 252 4 == crc32 (flit.take 252)

/-! ### Fabric flits (R313) -/

/-- A fabric flit: a 10-bit sequence number, a 6-bit acknowledgement offset, 250 bytes of messages, the CRC. -/
def fabricFlit (seq ack : Nat) (body : List Byte) : List Byte := withCrc (leBytes 2 (seq % 1024 + ack % 64 * 2 ^ 10) ++ body)

/-- A fabric flit as it arrives, with the CRC that it carries. -/
def rxFabric (seq ack : Nat) (body : List Byte) (crc : Nat) : List Byte :=
  leBytes 2 (seq % 1024 + ack % 64 * 2 ^ 10) ++ body ++ leBytes 4 crc

/-! ### Springbok flits (R320) -/

/-- Bytes 0 to 3 of a flit (Table 11.3). -/
def flitHead (seq ack kind : Nat) : Nat := seq % 4096 + ack % 4096 * 2 ^ 12 + kind % 4 * 2 ^ 24

/-- A Springbok flit with a body of 248 bytes. -/
def linkFlit (head : Nat) (body : List Byte) : List Byte := withCrc (leBytes 4 head ++ body)

/-- A Springbok flit as it arrives: its head, then the 248 bytes of its body and the CRC that it carries. -/
def rxFlit (seq ack kind : Nat) (rest : List Byte) : List Byte := leBytes 4 (flitHead seq ack kind) ++ rest

/-! ### Link messages (R324) -/

/-- The 16-byte header of a link message (Table 11.5). -/
def msgHeader (m : LinkMsg) : List Byte :=
  leBytes 1 (m.type % 16 + m.hop % 4 * 2 ^ 4 + m.vc % 4 * 2 ^ 6) ++ leBytes 1 m.src ++ leBytes 1 m.dst ++
  leBytes 1 (b2n m.poison + m.err % 8 * 2) ++ leBytes 2 (m.tag % 4096 + m.size % 16 * 2 ^ 12) ++ leBytes 2 (m.tenant % 1024) ++
  leBytes 8 (m.line % 2 ^ 40 + m.offset % 128 * 2 ^ 40)

/-- Numbers by which `Config.atomBody` names an atomic's operation and order. -/
def atomOpCode : AtomOp → Nat
  | .add => 0 | .min => 1 | .max => 2 | .and => 3 | .or => 4 | .xor => 5 | .cas => 6 | .exch => 7 | .fadd => 8
def orderCode : MemOrder → Nat
  | .none => 0 | .acq => 1 | .rel => 2

/-- The SIZE of a write (Table 11.5): the encoding of R199 for the bytes written, at most 16 (DESIGN CHOICE, log entry 154: a
line write may name more). -/
def writeSize (n : Nat) : Nat := if 16 ≤ n then 4 else if 8 ≤ n then 3 else if 4 ≤ n then 2 else if 2 ≤ n then 1 else 0

/-- What follows the header (Table 11.6): for a WRITE its byte mask, reserved to 32, then the line. -/
def msgRest (m : LinkMsg) : List Byte :=
  match m.type with
  | 0x2 => leBytes 16 m.mask.toNat ++ leBytes 128 m.data.toNat
  | 0x3 => leBytes 16 (Config.atomBody (atomOpCode m.op) (orderCode m.order) m.b.toNat m.c.toNat).toNat
  | 0x8 => leBytes 128 m.data.toNat
  | 0xA => leBytes 16 m.data.toNat
  | 0xC | 0xD => m.body
  | _ => []

/-- A link message as bytes. -/
def msgWire (m : LinkMsg) : List Byte := msgHeader m ++ msgRest m

/-- The body of a flit: messages back to back, credit returns, zeros to 248 bytes (R323). -/
def flitBody (msgs : List LinkMsg) (credits : List (Nat × Nat)) : List Byte :=
  let b := msgs.flatMap msgWire ++ credits.flatMap (fun c => leBytes 2 (Config.creditWire c.1 c.2).toNat)
  (b ++ List.replicate (248 - b.length) 0).take 248

/-- The bytes of a flit that is sent: its head, its body, its CRC. -/
def flitBytes (seq ack kind : Nat) (msgs : List LinkMsg) (credits : List (Nat × Nat)) : List Byte :=
  linkFlit (flitHead seq ack kind) (flitBody msgs credits)

end Sys2Proof.Machine
end

