-- ==== Sys2Proof/Machine/LinkOps.lean ====
section
/-! DEFINITION. Named operations of the links (R316 to R334), of counter blocks (R498 to R501) and of trace sources
(R516 to R518) that every family uses. -/

namespace Sys2Proof.Machine

/-! ### Counter blocks -/

/-- Key of a counter block: kind 0 core, 1 region, 2 memory controller, 3 link port (Table 18.1). -/
def blkKey (kind ix : Nat) : Nat := kind * 65536 + ix

/-- A counter block after reset: link-port counters count their fixed events (R501). -/
def ctrReset (k : Nat) : CtrBlock :=
  if k / 65536 = 3 then { evsel := (List.range 8).map (fun n => (n, 2 ^ 31 + n + 1)) } else {}

/-- Whether the whistle that is raised reaches a tenant's or the package's own blocks (R510). -/
def reaches (r : Option (Option Nat)) (tenant : Option Nat) : Bool :=
  match r with
  | none => false
  | some none => true
  | some (some t) => match tenant with | none => true | some u => t == u

/-- The tenants of a core's partition (R34). -/
def coreTenants (s : State) (c : Nat) : List Nat :=
  let g := 2 * (c / 48) + (if c % 48 / 8 < 3 then 0 else 1)
  (s.sched.tenants.filter (fun t => match alFind s.sched.parts t.2.part with
    | some p => p.granules.contains g
    | none => false)).map (·.1)

/-- Whether the whistle now raised reaches a counter block: in strict isolation mode the core blocks of the scope tenant
and the blocks that only the physical function reads (R510). -/
def blockReached (s : State) (k : Nat) : Bool :=
  match s.frozen with
  | none => false
  | some none => true
  | some (some t) => k / 65536 != 0 || (coreTenants s (k % 65536)).contains t

/-- A counter block that holds nothing but its reset values and the last whistle's stamps. -/
def ctrBase (s : State) (k : Nat) : CtrBlock :=
  let b := ctrReset k
  if blockReached s k then { b with frozen := true, freezeStamp := s.dbg.freezeAt, resumeStamp := s.dbg.resumeAt }
  else { b with freezeStamp := if s.frozen.isSome then 0 else s.dbg.freezeAt, resumeStamp := s.dbg.resumeAt }

/-- A counter block. -/
def ctrOf (s : State) (k : Nat) : CtrBlock := (alFind s.dbg.blocks k).getD (ctrBase s k)

/-- Change a counter block. -/
def modCtr (s : State) (k : Nat) (g : CtrBlock → CtrBlock) : State :=
  { s with dbg.blocks := alPut s.dbg.blocks k (g (ctrOf s k)) }

/-- Whether counter `n` of a block counts an event caused by a partition (R500). -/
def ctrSelects (b : CtrBlock) (code n : Nat) (part : Option Nat) : Bool :=
  let e := alGet 0 b.evsel n
  bit e 31 && (e % 256 == code) && (!bit e 27 || (part == some (bits e 26 21)))

/-- Count `n` occurrences of an event (R500); a frozen link port counts its flits in AUX0 and AUX1 (R507). -/
def ctrAddBlock (b : CtrBlock) (isPort : Bool) (code n : Nat) (part : Option Nat) : CtrBlock :=
  if b.frozen then
    if isPort && code == 1 then { b with aux0 := (b.aux0 + n) % 2 ^ 64 }
    else if isPort && code == 2 then { b with aux1 := (b.aux1 + n) % 2 ^ 64 }
    else b
  else
    (List.range 16).foldl (fun b i =>
      if ctrSelects b code i part then
        let v := alGet 0 b.count i + n
        if v < 2 ^ 64 then { b with count := alPut b.count i v }
        else { b with count := alPut b.count i (v % 2 ^ 64), wrapped := b.wrapped ++ [i] }
      else b) b

/-- Count an event in a block; a block that was never written counts nothing, link ports apart. -/
def ctrAdd (s : State) (k code n : Nat) (part : Option Nat) : State :=
  if n = 0 || (k / 65536 != 3 && (alFind s.dbg.blocks k).isNone) then s
  else modCtr s k (fun b => ctrAddBlock b (k / 65536 == 3) code n part)

/-! ### Trace -/

/-- The stamp of now (R499). -/
def stampNow (s : State) : Nat := 96 * s.time

/-- Whether a tenant is within the debug scope (R513). -/
def inScope (s : State) (tenant : Nat) : Bool :=
  decide (0 < s.dbg.level) && (match s.dbg.scope with | none => true | some t => t == tenant)

/-- The source 0xFFFF is the front end, 0xFFFE the trace port (Table 18.11). -/
def frontSrc : Nat := 0xFFFF

/-- Whether a record type is emitted now (R516): trace is on, the type enabled, and the whistle has not stopped it. -/
def traceOn (s : State) (type : Nat) : Bool :=
  bit s.dbg.traceCtl 31 && bit s.dbg.traceCtl (19 + type) && bit s.units 4 && !(s.dbg.raised && bit s.dbg.traceCtl 30)

/-- Once its FIFO has room, a source emits its DROP record ahead of any other (R518). -/
def traceDropRec (s : State) (src : Nat) : State :=
  let q := alGet {} s.dbg.sources0 src
  if !traceOn s 10 || q.dropped = 0 || 64 ≤ q.fifo.length then s
  else
    let r := [10, 0, src, 0x3FF, stampNow s, q.dropped, q.firstStamp]
    { s with dbg.sources0 := alPut s.dbg.sources0 src { fifo := q.fifo ++ [r] } }

/-- Emit a trace record (R516, R518): type, flags, source, tenant, P0, P1; dropped and counted when the FIFO is full. -/
def traceEmit (s : State) (type flags src : Nat) (tenant : Option Nat) (p0 p1 : Nat) : State :=
  let on := traceOn s type
  let s := if on then traceDropRec s src else s
  let q := alGet {} s.dbg.sources0 src
  let ok := match tenant with | none => true | some t => inScope s t
  if !on || !ok then s
  else
    let r := [type, flags, src, tenant.getD 0x3FF, stampNow s, p0, p1]
    if q.fifo.length < 64 then
      { s with dbg.sources0 := alPut s.dbg.sources0 src { q with fifo := q.fifo ++ [r] } }
    else
      let q := { q with dropped := q.dropped + 1, firstStamp := if q.dropped = 0 then stampNow s else q.firstStamp }
      { s with dbg.sources0 := alPut s.dbg.sources0 src q, dbg.traceDrop := s.dbg.traceDrop + 1 }

/-! ### Ports -/

/-- A port. -/
def portOf (s : State) (p : Nat) : Port := alGet {} s.links.ports p
/-- Change a port. -/
def modPort (s : State) (p : Nat) (g : Port → Port) : State :=
  { s with links.ports := alPut s.links.ports p (g (portOf s p)) }

/-- Bytes of a link message (Table 11.6). -/
def msgBytes (m : LinkMsg) : Nat :=
  match m.type with
  | 0x2 => 160
  | 0x3 => 32
  | 0x8 => 144
  | 0xA => 32
  | 0xC => 16 + m.body.length
  | 0xD => 16 + m.body.length
  | _ => 16

/-- Key of a message's credits: virtual channel × 3 + buffer set (R323). -/
def creditKey (m : LinkMsg) : Nat := m.vc * 3 + m.hop

/-- Credit a message needs, in 16-byte units. -/
def creditNeed (m : LinkMsg) : Nat := ceilDiv (msgBytes m) 16

/-- The first waiting message that may be sent: its channel has credit and no earlier message of the same channel and
buffer set waits before it (R323). -/
def sendable (credit : AL Nat) : List LinkMsg → List Nat → Option LinkMsg
  | [], _ => none
  | m :: r, blocked =>
    if blocked.contains (creditKey m) then sendable credit r blocked
    else if creditNeed m ≤ alGet 0 credit (creditKey m) then some m
    else sendable credit r (creditKey m :: blocked)

/-- ACK of a port: the SEQ of the last flit received in order (Table 11.3). Control flits count, since R321 keeps them until
they are acknowledged (DEDUCED, log entry 154). -/
def ackNow (x : Port) : Nat := (x.rxSeq + 4095) % 4096

/-- A codeword leaves on the lanes of a port (R318). -/
def sendWord (s : State) (p : Nat) (cw : List Nat) : State :=
  let w := (portOf s p).width
  emit s (.lanes p ((List.range w).map (laneSends w cw)))

/-- The bytes of a flit join the continuous stream, the least significant bit of the first byte first (log entry 150). Each 514
symbols leave as a data codeword, and after every 1,023 of these a marker codeword (R318). -/
def sendBits (s : State) (p : Nat) (bs : List Byte) : State :=
  let x := portOf s p
  let acc := x.txAcc + leNat bs * 2 ^ x.txHeld
  let held := x.txHeld + 8 * bs.length
  if held < cwBits then modPort s p (fun x => { x with txAcc := acc, txHeld := held })
  else
    let s := modPort s p (fun x => { x with txAcc := acc / 2 ^ cwBits, txHeld := held - cwBits, txWords := x.txWords + 1 })
    let s := sendWord s p (codeword ((List.range cwData).map (fun k => acc / 2 ^ (10 * k) % 1024)))
    if (x.txWords + 1) % 1023 = 0 then sendWord s p (markerWord Config.markerSym ((x.txWords + 1) / 1023)) else s

/-- A flit leaves on a port, its bytes in the stream of codewords. -/
def putFlit (s : State) (p seq ack kind : Nat) (msgs : List LinkMsg) (credits : List (Nat × Nat)) : State :=
  let b := flitBytes seq ack kind msgs credits
  emit (sendBits s p b) (.flit p b msgs credits)

/-- Send a numbered flit: it waits in the retry buffer until it is acknowledged (R321). Credit returns travel with it where its
body has room. -/
def sendFlit (s : State) (p kind : Nat) (msgs : List LinkMsg) : State :=
  let x := portOf s p
  let room := decide ((msgs.map msgBytes).sum + 2 * x.owed.length ≤ 248)
  let f : Flit := { seq := x.txSeq, kind := kind, msgs := msgs, credits := if room then x.owed else [] }
  let s := modPort s p (fun x => { x with
    txSeq := (x.txSeq + 1) % 4096, txData := if kind = 0 then x.txSeq else x.txData, retry := x.retry ++ [f],
    owed := if room then [] else x.owed })
  ctrAdd (putFlit s p f.seq (ackNow x) kind msgs f.credits) (blkKey 3 p) 1 1 none

/-- An idle flit: the port has nothing else to send, and it carries the current ACK (R321). -/
def sendIdle (s : State) (p : Nat) : State :=
  let x := portOf s p
  ctrAdd (putFlit s p x.txData (ackNow x) 1 [] []) (blkKey 3 p) 3 1 none

/-- A message has left a port's inbox: its credits are returned (R323), in a control flit where the port may send one now,
else with the next numbered flit. -/
def returnCredit (s : State) (p : Nat) (m : LinkMsg) : State :=
  let s := modPort s p (fun x => { x with owed := alMod 0 x.owed (creditKey m) (· + creditNeed m) })
  if (portOf s p).st = .up && decide ((portOf s p).retry.length < 512) && (portOf s p).asked.isNone then sendFlit s p 3 [] else s

/-- Send waiting messages while the port is UP, fewer than 512 flits are unacknowledged and credit lasts (R321, R323);
each message fills a flit of its own. -/
def pump : (fuel : Nat) → State → (p : Nat) → State
  | 0, s, _ => s
  | fuel + 1, s, p =>
    let x := portOf s p
    if x.st != .up || decide (512 ≤ x.retry.length) || x.asked.isSome then s
    else
      match sendable x.credit x.wait [] with
      | none => s
      | some m =>
        let s := modPort s p (fun x => { x with
          wait := x.wait.erase m, credit := alPut x.credit (creditKey m) (alGet 0 x.credit (creditKey m) - creditNeed m) })
        pump fuel (sendFlit s p 0 [m]) p

/-- Give a message to a port. -/
def sendOn (s : State) (p : Nat) (m : LinkMsg) : State :=
  let s := modPort s p (fun x => { x with wait := x.wait ++ [m] })
  pump (portOf s p).wait.length s p

/-- Ports of a mask that ordinary traffic may take, ascending (R328): while twin mode is on, its ports carry only twin traffic
(R39). -/
def maskPorts (s : State) (m : Nat) : List Nat := (setBits 40 m).filter (fun p => !(portOf s p).twin)

/-- The port for a destination and line (R328); none when the entry is empty. -/
def routePort (s : State) (dst line : Nat) : Option Nat :=
  let ps := maskPorts s (alGet 0 s.links.routes dst)
  if ps.isEmpty then none else ps[line % ps.length]?

/-- Whether a package can be reached. -/
def reachable (s : State) (pkg : Nat) : Bool := !(maskPorts s (alGet 0 s.links.routes pkg)).isEmpty

/-- Route and send a message of this package's own. -/
def sendMsg (s : State) (m : LinkMsg) : State :=
  match routePort s m.dst m.line with
  | some p => sendOn s p m
  | none => s

/-! ### Transaction tags (R334, R533) -/

/-- The least number from `n` on that is not used. -/
def leastFree (used : List Nat) : (fuel n : Nat) → Option Nat
  | 0, _ => none
  | fuel + 1, n => if used.contains n then leastFree used fuel (n + 1) else some n

/-- Tags of a die that are in use. -/
def tagsUsed (s : State) (die : Nat) : List Nat := (s.links.txns.filter (fun t => t.die == die)).map (·.tag)

/-- Whether a die has `n` free tags. -/
def tagsFree (s : State) (die n : Nat) : Bool := n = 0 || decide ((tagsUsed s die).length + n ≤ 4096)

/-- Open a transaction with a free tag of the die (R334). -/
def openTxn (s : State) (core : Nat) (kind : TxnKind) (id tenant node : Nat) (t : Target) : Nat × State :=
  let die := core / 192
  let tag := (leastFree (tagsUsed s die) 4096 0).getD 0
  (tag, { s with links.txns := s.links.txns ++
    [{ die := die, tag := tag, core := core, kind := kind, id := id, tenant := tenant, node := node, target := t,
       since := s.time }] })

/-- No node: the work of a transaction that belongs to none. -/
def noNode : Nat := 2 ^ 32

/-- Who makes a write: the die whose tag it takes, the node it is made for, and the number of its work. -/
structure Issuer where
  die : Nat := 0
  node : Nat := noNode
  id : Nat := 0
  /-- the whole write was found possible before its first byte (`agentReady`) -/
  sure : Bool := false

/-- Open a transaction for an engine's write. -/
def openEngine (s : State) (e : Issuer) (tenant : Nat) (t : Target) : Nat × State :=
  let tag := (leastFree (tagsUsed s e.die) 4096 0).getD 0
  (tag, { s with links.txns := s.links.txns ++
    [{ die := e.die, tag := tag, core := 2048 + e.die, kind := .engine, id := e.id, tenant := tenant, node := e.node,
       target := t, since := s.time }] })

/-- Outstanding writes of an engine's work. -/
def engineOut (s : State) (kind : TxnKind) (id : Nat) : Nat :=
  (s.links.txns.filter (fun t => t.kind == kind && t.id == id && !t.dead)).length

/-- The responses to writes of nodes that are gone are discarded. -/
def deadEngine (s : State) (gone : Nat → Bool) : State :=
  { s with links.txns := s.links.txns.map (fun t => if t.kind == .engine && gone t.node then { t with dead := true } else t) }

/-- A transaction by die and tag. -/
def txnOf (s : State) (die tag : Nat) : Option Txn := s.links.txns.find? (fun t => t.die == die && t.tag == tag)

/-- Close a transaction. -/
def closeTxn (s : State) (die tag : Nat) : State :=
  { s with links.txns := s.links.txns.filter (fun t => !(t.die == die && t.tag == tag)) }

/-- Value of LNK_LAST_ERR (Table 11.15). -/
def lnkErrVal (pkg kind line : Nat) : Nat := pkg * 2 ^ 56 + kind * 2 ^ 52 + line % 2 ^ 40

/-- Record a remote fault, rejection or timeout (R332, Tables 11.14 and 11.15); `bitN` 0 REMOTE_FAULT, 1
REMOTE_WRITE_REJECTED. -/
def lnkErr (s : State) (tenant bitN pkg kind line : Nat) : State :=
  raiseEv s tenant gLNK bitN (some (lnkErrVal pkg kind line))

/-- Offsets of the LNK_ counters (Table 11.18). -/
def lnkRd : Nat := 0x70300
def lnkWr : Nat := 0x70308
def lnkAtom : Nat := 0x70310
def lnkCopy : Nat := 0x70318
def lnkReject : Nat := 0x70320
def lnkTimeout : Nat := 0x70328

/-- The header of a request of this package (Table 11.5). -/
def reqMsg (s : State) (type pkg pa tenant tag : Nat) : LinkMsg :=
  { type := type, src := s.selfId.getD 0, dst := pkg, tag := tag, tenant := tenant, line := pa / 128,
    offset := pa % 128 }

/-- Send a line write to another package. -/
def sendWrite (s : State) (pkg pa tenant tag : Nat) (mask : LineMask) (data : Line) (poison : Bool) : State :=
  let n := ((List.range 128).filter (fun i => mask.getLsbD i)).length
  bump (sendMsg s { reqMsg s 0x2 pkg pa tenant tag with size := writeSize n, mask := mask, data := data, poison := poison }) tenant lnkWr 1

/-- Send a line write of an engine to another package, with a tag of its die (R334). -/
def engineWrite (s : State) (e : Issuer) (pkg pa tenant : Nat) (mask : LineMask) (data : Line) : State :=
  let (tag, s) := openEngine s e tenant (.remote pkg pa)
  sendWrite s pkg pa tenant tag mask data false

/-- Tenants whose events the physical function also sees stand under function 0 alone: an event of the physical and the
service function is raised in both (Tables 16.12 and 17.9). -/
def raisePfSf (s : State) (grp bitN : Nat) (last : Option Nat) : State :=
  raiseEv (raiseEv s pf grp bitN last) serviceFn grp bitN last

/-- Functions of the primary interface that are present: the physical function and the enabled virtual functions. -/
def liveFns (s : State) : List Nat := pf :: (if s.host.vfEnable then (List.range s.host.numVfs).map (· + 1) else [])

/-- Raise an event in every function. -/
def raiseAll (s : State) (grp bitN : Nat) (last : Option Nat) : State :=
  (liveFns s ++ [serviceFn]).foldl (fun s f => raiseEv s f grp bitN last) s

end Sys2Proof.Machine
end

