-- ==== Sys2Proof/Machine/Access.lean ====
section
/-! DEFINITION. Where things are (spec chapters 01, 09 and 10): accessors of State's parts, identifiers of place, the address
interleave, the tenants' page tables, eligible ways, and the raw lines, regulators and rows of the controllers. -/

namespace Sys2Proof.Machine

/-- CAP_ID (R4). -/
def capId (v : Variant) : Nat := Config.variantCode v * 2 ^ 16 + Config.stepping * 2 ^ 8 + Config.archRev

/-! ### Accessors -/

/-- A core (R34). -/
def coreOf (s : State) (c : Nat) : Core := alGet {} s.cores c
/-- Replace a core. -/
def setCore (s : State) (c : Nat) (x : Core) : State := { s with cores := alPut s.cores c x }
/-- Change a core. -/
def modCore (s : State) (c : Nat) (g : Core → Core) : State := setCore s c (g (coreOf s c))
/-- The execution state of a core. -/
def execOf (s : State) (c : Nat) : Exec := (coreOf s c).exec
/-- Change the execution state of a core. -/
def modExec (s : State) (c : Nat) (g : Exec → Exec) : State :=
  modCore s c (fun x => { x with exec := g x.exec })
/-- A region, numbered die × 4 + region. -/
def regionOf (s : State) (r : Nat) : Region := alGet {} s.regions r
/-- Change a region. -/
def modRegion (s : State) (r : Nat) (g : Region → Region) : State :=
  { s with regions := alMod {} s.regions r g }
/-- A cluster, numbered die × 24 + region × 6 + cluster. -/
def clusterOf (s : State) (k : Nat) : Cluster := alGet {} s.clusters k
/-- Change a cluster. -/
def modCluster (s : State) (k : Nat) (g : Cluster → Cluster) : State :=
  { s with clusters := alMod {} s.clusters k g }
/-- A die. -/
def dieOf (s : State) (d : Nat) : Die := alGet {} s.dies d
/-- Change a die. -/
def modDie (s : State) (d : Nat) (g : Die → Die) : State := { s with dies := alMod {} s.dies d g }
/-- A controller. -/
def ctlOf (s : State) (h : Nat) : Ctl := alGet {} s.mem.ctls h
/-- Change a controller. -/
def modCtl (s : State) (h : Nat) (g : Ctl → Ctl) : State := { s with mem.ctls := alMod {} s.mem.ctls h g }

/-! ### Identifiers of place (R33, R34) -/

/-- Die of a core index. -/
def coreDie (c : Nat) : Nat := c / 192
/-- Region (die × 4 + region) of a core index. -/
def coreRegion (c : Nat) : Nat := c / 48
/-- Cluster (die × 24 + …) of a core index. -/
def coreCluster (c : Nat) : Nat := c / 8
/-- Granule index of a core (R34). -/
def coreGranule (c : Nat) : Nat := 2 * (c / 48) + (if c % 48 / 8 < 3 then 0 else 1)
/-- Location code of a core (R33, Table 1.2). -/
def locOf (c : Nat) : Nat := c / 192 * 256 + c % 192 / 48 * 64 + c % 48 / 8 * 8 + c % 8
/-- A location code within the variant (R33, Table 1.2). -/
def locValid (s : State) (p : Nat) : Bool :=
  let core := p % 8
  let cluster := p / 8 % 8
  let region := p / 64 % 4
  decide (p < 65536) && p / 2048 % 8 = 0 && decide (p / 256 % 8 < Config.dies s.variant) &&
  (match p / 16384 with
   | 0 => decide (cluster < 6)
   | 1 => decide (cluster < 6) && decide (core < 3)
   | 2 => cluster = 0 && core = 0
   | _ => region = 0 && cluster = 0 && core = 0)

/-- Location code of a region's units. -/
def locRegion (r : Nat) : Nat := 2 * 2 ^ 14 + r / 4 * 256 + r % 4 * 64

/-! ### Address interleave (R279 to R281) and homes (R251) -/

/-- The interleave set that holds a physical address. -/
def setOf (s : State) (pa : Nat) : Option ISet :=
  s.mem.sets.find? (fun x => decide (x.base ≤ pa) && decide (pa < x.base + x.size))

/-- Exclusive-or of successive b-bit fields of r. -/
def xorFold (b : Nat) : Nat → Nat → Nat → Nat
  | 0, _, k => k
  | fuel + 1, t, k => if t = 0 then k else xorFold b fuel (t / 2 ^ b) (k ^^^ (t % 2 ^ b))

/-- Controller and channel line number of an address in a set (R281). -/
def decodeIn (x : ISet) (pa : Nat) : Nat × Nat :=
  let o := pa - x.base
  let r := o / 256
  let b := Nat.log2 x.member.length
  let k := if b = 0 then 0 else xorFold b 64 r 0
  (x.member.getD k 0, x.mbase.getD k 0 + 2 * (r / 2 ^ b) + o / 128 % 2)

/-- The place of a line in a controller's stack (R281). -/
structure Place where
  pc : Nat
  bank : Nat
  row : Nat
  col : Nat
  deriving DecidableEq, Repr

/-- Place of channel line m (R281). -/
def placeOf (m : Nat) : Place :=
  let q := m / 2
  let row := q / 4096
  { pc := q % 16, col := q / 16 % 4, row := row, bank := (q / 64 % 64) ^^^ (row % 64) }

/-- Controller and channel line of a physical address (R280, R281). -/
def homeOf (s : State) (pa : Nat) : Option (Nat × Nat) := (setOf s pa).map (fun x => decodeIn x pa)

/-- Home slice, set and tag of channel line m of controller h (R251). -/
def sliceOf (h m : Nat) : Nat × Nat × Nat :=
  let l := 2 * m + h % 2
  (h / 8 * 4 + h % 8 / 2, l % 24576, l / 24576)

/-- Home slice, set and tag of a physical address. -/
def homeSlice (s : State) (pa : Nat) : Option (Nat × Nat × Nat) := (homeOf s pa).map (fun x => sliceOf x.1 x.2)

/-! ### Address spaces (R284 to R286) -/

/-- The three rights of a page entry. -/
inductive Right
  | r | w | a
  deriving DecidableEq, Repr

/-- Key of a tenant's page. -/
def pageKey (tenant va : Nat) : Nat := tenant * 2 ^ 32 + va / 65536

/-- The valid page entry of a tenant's address (R284). -/
def pageOf (s : State) (tenant va : Nat) : Option PageEnt :=
  if 2 ^ 48 ≤ va then none else alFind s.mem.pages (pageKey tenant va)

/-- Whether an entry grants a right (R286). -/
def PageEnt.grants (e : PageEnt) : Right → Bool
  | .r => e.r
  | .w => e.w
  | .a => e.a

/-- Whether a physical address lies in a code region (R211). -/
def inCode (s : State) (pa : Nat) : Bool :=
  match alFind s.mem.grans (pa / 65536) with
  | some (.code _ _) => true
  | _ => false

/-- Whether a REMOTE entry's package is this one (R286): the identifier in force, if any, is `self`. -/
def packageIsSelf (self : Option Nat) (package : Nat) : Bool := self == some package

/-- Whether a REMOTE entry that names this package reaches an address (R211, R282, R286, R467; log entry 151): memory of a set
that tenants use, in a dedicated set only that partition's tenants, and no code region. -/
def ownReach (s : State) (tenant a : Nat) : Bool :=
  !inCode s a &&
  (match setOf s a with
   | some x => (match x.owner with
     | .shared => true
     | .part p => ((alFind s.sched.tenants tenant).map (·.part)) == some p
     | _ => false)
   | none => false)

/-- Where a tenant's access goes (R286): none is MEM_ACCESS. `self` is the package identifier in force. -/
def translateWith (s : State) (self : Option Nat) (tenant va : Nat) (need : Right) : Option Target :=
  match pageOf s tenant va with
  | none => none
  | some e =>
    if !e.grants need then none
    else
      let a := e.frame * 65536 + va % 65536
      match e.kind with
      | .local => if (setOf s a).isSome && !inCode s a then some (.loc a) else none
      | .remote =>
        if packageIsSelf self e.package then (if ownReach s tenant a then some (.loc a) else none)
        else some (.remote e.package a)
      | .host => some (.host a)

/-- Where a tenant's access goes, with the identifier in force (LNK_SELF, R286, R326). -/
def translate (s : State) (tenant va : Nat) (need : Right) : Option Target :=
  translateWith s s.selfId tenant va need

/-- The line of a target. -/
def Target.line : Target → Target
  | .loc a => .loc (a / 128 * 128)
  | .remote p a => .remote p (a / 128 * 128)
  | .host a => .host (a / 128 * 128)

/-- The address of a target in its space. -/
def Target.addr : Target → Nat
  | .loc a => a
  | .remote _ a => a
  | .host a => a

/-- Whether a target is another package's memory. -/
def Target.isRemote : Target → Bool
  | .remote _ _ => true
  | _ => false

/-- Whether a target is local device memory. -/
def Target.isLoc : Target → Bool
  | .loc _ => true
  | _ => false

/-- The PASID that a tenant's host accesses carry (R529): `none` is a final translation fault. -/
def tenantPasid (s : State) (tenant : Nat) : Option (Option Nat) :=
  let f := fnOf s tenant
  if bit f.pasid 31 then (if f.pcie.pasidEn then some (some (f.pasid % 2 ^ 20)) else none) else some none

/-! ### Partitions at a slice (R257, R258, R403) -/

/-- Whether a partition's memory has homes in region `r` (R403): its own dies when it is dedicated, otherwise the
members of the SHARED sets. -/
def partHomes (s : State) (p : Partition) (r : Nat) : Bool :=
  if p.dedicated then p.granules.any (fun g => g / 8 == r / 4)
  else s.mem.sets.any (fun x => x.owner == .shared && x.member.any (fun h => h / 8 * 4 + h % 8 / 2 == r))

/-- Ways that WAYS-mode partitions hold in a slice. -/
def heldWays (s : State) (r : Nat) : BitVec 16 :=
  s.sched.parts.foldl (fun m e => if e.2.ways && partHomes s e.2 r then m ||| e.2.mask else m) 0

/-- Eligible ways of a partition at a slice (R257), before stash lines. -/
def waysOf (s : State) (r part : Nat) : BitVec 16 :=
  match alFind s.sched.parts part with
  | some p => if p.ways then p.mask else ~~~ (heldWays s r)
  | none => ~~~ (heldWays s r)

/-- Way numbers of a mask, lowest first. -/
def wayList (m : BitVec 16) : List Nat := (List.range 16).filter (fun i => m.getLsbD i)

/-- Stash lines in use by a partition in a region. -/
def stashUse (x : Region) (part : Nat) : Nat :=
  x.stash.foldl (fun n e => if e.2.part = part && e.2.st != .refused then n + e.2.lines else n) 0

/-- Lines of a partition's epilogue stages held in the stash of a region (R142). -/
def stageUse (s : State) (r part : Nat) : Nat :=
  (List.range 6).foldl (fun n k =>
    (clusterOf s (6 * r + k)).epi.foldl
      (fun n e => if e.2.task.part = part && e.2.stageInStash then n + e.2.stageLines else n) n) 0

/-- Stash lines of a partition in one set (R134): they are placed round-robin over the sets. -/
def stashInSet (s : State) (r part set : Nat) : Nat :=
  ceilDiv (stashUse (regionOf s r) part + stageUse s r part - set) 24576

/-- Ways of a set that hold stash lines (R134, R135): each partition's stand in the highest-numbered of its own ways that
those of partitions of lower identifier leave (DESIGN CHOICE, log entry 16). -/
def stashWays (s : State) (r set : Nat) : List Nat :=
  s.sched.parts.foldl (fun taken e =>
    let own := (wayList (waysOf s r e.1)).filter (fun w => !taken.contains w)
    taken ++ own.drop (own.length - stashInSet s r e.1 set)) []

/-- Eligible ways of a partition in one set (R257): no way that holds a stash line of any partition, which is never a
victim (R135). -/
def eligible (s : State) (r part set : Nat) : List Nat :=
  (wayList (waysOf s r part)).filter (fun w => !(stashWays s r set).contains w)

/-- The keep quota of a partition (R258). -/
def keepQuota (s : State) (part : Nat) : Nat := ((alFind s.sched.parts part).map (·.keep)).getD 0

/-! ### Controllers: raw lines, queued writes (R292, R293, R300) -/

/-- Poisoned sectors of the line at `pa` in memory. -/
def memPoison (ms : MemSys) (pa : Nat) : BitVec 2 :=
  BitVec.ofNat 2 (b2n (ms.poisoned.contains (pa / 64)) + 2 * b2n (ms.poisoned.contains (pa / 64 + 1)))

/-- Apply a write to a line and its poison: a write that covers a whole sector clears its poison, unless it carries
poison itself (R300). -/
def applyWrite (l : Line) (p : BitVec 2) (w : MemWrite) : Line × BitVec 2 :=
  (lineMerge l w.data w.mask, (p &&& ~~~ (maskWholeSectors w.mask)) ||| (w.poison &&& maskSectors w.mask))

/-- The contents of memory at a line, queued writes included (R293). -/
def memLine (s : State) (pa : Nat) : Line × BitVec 2 :=
  let base := (lineOf (fun k => cellGet s.mem.mem (pa + k)), memPoison s.mem pa)
  match homeOf s pa with
  | none => base
  | some (h, _) => ((ctlOf s h).writes.filter (fun w => w.pa == pa)).foldl (fun x w => applyWrite x.1 x.2 w) base

/-- Run of a line within its controller (R290), as (controller, run). -/
def runOf (s : State) (pa : Nat) : Option (Nat × Nat) := (homeOf s pa).map (fun x => (x.1, x.2 / 2))

/-- Place of a line in its stack (R281). -/
def linePlaceOf (s : State) (pa : Nat) : Place :=
  match homeOf s pa with
  | some (_, m) => placeOf m
  | none => { pc := 0, bank := 0, row := 0, col := 0 }

/-! ### Regulators and windows (R295, R402, R407) -/

/-- Whether a job is an RT job, so that its memory requests draw on RT credit (R402). -/
def nodeIsRt (s : State) (node : Nat) : Bool :=
  match alFind s.fe.nodes node with
  | some n => (match alFind s.fe.queues n.queue with | some q => q.cls == .rt | none => false)
  | none => false

/-- Whether the blocks of a core are an RT job's: a core runs blocks of one job. -/
def coreIsRt (s : State) (core : Nat) : Bool := (execOf s core).blocks.any (fun b => nodeIsRt s b.2.task.node)

/-- A partition that is not dedicated: its traffic is regulated at the controllers of SHARED sets. -/
def sharedPart (s : State) (part : Nat) : Bool :=
  match alFind s.sched.parts part with
  | some p => !p.dedicated
  | none => false

/-- Whether a controller is a member of a SHARED set. -/
def sharedCtl (s : State) (h : Nat) : Bool := s.mem.sets.any (fun x => x.owner == .shared && x.member.contains h)

/-- Holder of a window of the time-partitioned form (R407): RATE windows each, in the order of identifiers, window 15 apart. -/
def windowHolder (s : State) (w : Nat) : Option Nat :=
  let go := (s.sched.parts.filter (fun e => !e.2.dedicated)).foldl (fun (a : Nat × Option Nat) e =>
    (a.1 + e.2.rate, if a.2.isNone && decide (a.1 ≤ w) && decide (w < a.1 + e.2.rate) then some e.1 else a.2)) (0, none)
  if w = 15 then none else go.2

/-- Credit of a partition's regulator at a controller. -/
def creditOf (c : Ctl) (part : Nat) (rt : Bool) : Int :=
  let g := alGet {} c.regs part
  if rt then g.rtCredit else g.credit

/-- Whether `n` runs of a partition may begin on a pseudo-channel now (R295, R402, R407): above 0 of credit, or as many as the
window has room for. -/
def runAllowed (s : State) (h pc part : Nat) (rt : Bool) (n : Nat := 1) : Bool :=
  if !sharedPart s part then true
  else if s.sched.strict then
    windowHolder s (ctlOf s h).window == some part && decide (alGet 0 (ctlOf s h).windowRuns pc + n ≤ 12)
  else decide (0 < creditOf (ctlOf s h) part rt)

/-- Charge `n` runs to a partition (R295). -/
def chargeRuns (s : State) (h pc part n : Nat) (rt : Bool) : State :=
  if !sharedPart s part then s
  else if s.sched.strict then modCtl s h (fun c => { c with windowRuns := alPut c.windowRuns pc (alGet 0 c.windowRuns pc + n) })
  else modCtl s h (fun c =>
    let g : Regulator := alGet {} c.regs part
    let g := if rt then { g with rtCredit := g.rtCredit - n } else { g with credit := g.credit - n }
    { c with regs := alPut c.regs part g })

/-! ### Rows (R294) -/

/-- Key of a bank's open row. -/
def bankKey (p : Place) : Nat := p.pc * 64 + p.bank

/-- Whether a place's row is open. -/
def rowOpen (c : Ctl) (p : Place) : Bool := alFind c.rows (bankKey p) == some p.row

/-- Open a row, counting its activation. -/
def openRow (s : State) (h : Nat) (p : Place) (part : Nat) : State :=
  if rowOpen (ctlOf s h) p then s
  else ctrAdd (modCtl s h (fun c => { c with rows := alPut c.rows (bankKey p) p.row })) (blkKey 2 h) 0x05 1 (some part)

/-- Reads of a controller that are still to be performed. -/
def readsLeft (c : Ctl) : List MemRead := c.reads.filter (fun m => !m.done)

/-- Whether a controller serves requests. -/
def ctlServes (c : Ctl) : Bool := c.present && c.st == .active

/-- What queued writes make of a line for a read: those that arrived before it (R293). -/
def memLineFor (s : State) (pa id : Nat) : Line × BitVec 2 :=
  let base := (lineOf (fun k => cellGet s.mem.mem (pa + k)), memPoison s.mem pa)
  match homeOf s pa with
  | none => base
  | some (h, _) => ((ctlOf s h).writes.filter (fun w => w.pa == pa && decide (w.after ≤ id))).foldl
      (fun x w => applyWrite x.1 x.2 w) base

/-- A request reaches a controller: it wakes one in retention (R308). -/
def wakeCtl (c : Ctl) (t : Nat) : Ctl := { c with lastUse := t, st := if c.st = .retention then .active else c.st }

/-- A write to a line has been performed at its home: what its controller's reads of the line find is for the loads that joined
them before (R293). -/
def staleReads (s : State) (pa : Nat) : State :=
  match homeOf s pa with
  | none => s
  | some (h, _) => modCtl s h (fun c => { c with reads := c.reads.map (fun m => if m.pa = pa then { m with stale := true } else m) })

/-- Queue a write at the line's controller, behind the reads of the line that are there (R293). -/
def ctlWrite (s : State) (w : MemWrite) : State :=
  match homeOf s w.pa with
  | none => s
  | some (h, _) => modCtl s h (fun c => { wakeCtl c s.time with
      writes := c.writes ++ [{ w with after := s.mem.nextRead }]
      reads := c.reads.map (fun m => if m.pa = w.pa then { m with stale := true } else m) })

/-- Store a line into the memory cells and its poison marks. -/
def storeLine (ms : MemSys) (pa : Nat) (l : Line) (p : BitVec 2) : MemSys :=
  { ms with
    mem := cellPuts ms.mem pa (lineSlice l 0 128)
    poisoned := (ms.poisoned.filter (fun x => x != pa / 64 && x != pa / 64 + 1)) ++
      (if p.getLsbD 0 then [pa / 64] else []) ++ (if p.getLsbD 1 then [pa / 64 + 1] else []) }

/-- Perform every queued write of one line now. -/
def flushWrites (s : State) (pa : Nat) : State :=
  match homeOf s pa with
  | none => s
  | some (h, _) =>
    let (l, p) := memLine s pa
    let s := modCtl s h (fun c => { c with writes := c.writes.filter (fun w => w.pa != pa) })
    { s with mem := storeLine s.mem pa l p }
/-- The tenant that a granule is allocated to. -/
def granOwner : GranUse → Nat
  | .page t => t
  | .code t _ => t

/-- Tenant that a physical address is allocated to; the physical function for memory of none (R311). -/
def tenantOf (s : State) (pa : Nat) : Nat :=
  match alFind s.mem.grans (pa / 65536) with
  | some u => granOwner u
  | none => pf

end Sys2Proof.Machine
end

