-- ==== Sys2Proof/Machine/ErrorOps.lean ====
section
/-! DEFINITION. Named operations of reliability (spec chapter 17, R303 to R305): classes of error, leaky buckets, lasting
faults with their online actions, retirement of granules. -/

namespace Sys2Proof.Machine

/-! ### The lasting-fault list (R483 to R486) -/

/-- PM_RAS_LAST (Table 17.10): class 0 corrected, 1 uncorrected, 2 fatal. -/
def rasLast (res : Option Resource) (cls : Nat) : Nat :=
  match res with
  | some r => r.kind % 256 * 2 ^ 56 + cls * 2 ^ 54 + r.place % 2 ^ 16 * 2 ^ 32 + r.detail % 2 ^ 32
  | none => cls * 2 ^ 54

/-- Entries that the list holds at most (R483). -/
def listMax : Nat := 131072

/-- Whether a resource has an entry (R481). -/
def hasEntry (s : State) (r : Resource) : Bool :=
  s.mgmt.faults.any (fun e => e.kind == r.kind && e.place == r.place && e.detail == r.detail)

/-- Record an entry of the device's own; a full list raises FAULT_LIST_FULL (R486). -/
def recordFault (s : State) (r : Resource) (uc : Bool) : State :=
  if listMax ≤ s.mgmt.faults.length then raisePfSf s gRAS 5 none
  else
    let e : FaultEnt := { kind := r.kind, flags := 2 * b2n uc, place := r.place, detail := r.detail, boot := s.mgmt.bootNo }
    { s with mgmt.faults := s.mgmt.faults ++ [e] }

/-! ### Online actions (Table 17.3) -/

/-- The core of a location code (R33). -/
def coreOfLoc (p : Nat) : Nat := p / 256 % 64 * 192 + p / 64 % 4 * 48 + p / 8 % 8 * 8 + p % 8

/-- Fence a core (R482): it keeps what it runs and counts as absent for later placements. -/
def fenceCore (s : State) (c : Nat) : State :=
  let x := coreOf s c
  if !x.present || x.fenced then s
  else
    let s := setCore s c { x with fenced := true }
    let s := raisePfSf { s with ras.fenced := s.ras.fenced + 1 } gRAS 3 none
    ((coreTenants s c).filter (fun t => t != pf)).foldl (fun s t => raiseEv s t gRAS 3 none) s

/-- Physical address of channel line m of controller h in a set that holds it: the inverse of R281. -/
def encodeIn (x : ISet) (h m : Nat) : Option Nat :=
  let n := x.member.length
  (List.range n).findSome? (fun k =>
    let m0 := x.mbase.getD k 0
    if x.member.getD k 0 = h && decide (m0 ≤ m) && decide (m < m0 + x.size / (max 1 n) / 128) then
      let hi := (m - m0) / 2
      let b := Nat.log2 n
      let low := if b = 0 then 0 else k ^^^ xorFold b 64 hi 0
      some (x.base + 256 * (hi * 2 ^ b + low) + 128 * (m % 2))
    else none)

/-- Physical address of channel line m of controller h. -/
def lineAddr (s : State) (h m : Nat) : Option Nat := s.mem.sets.findSome? (fun x => encodeIn x h m)

/-- The four runs of a DRAM row (R281, R305). -/
def rowRuns (pc bank row : Nat) : List Nat :=
  (List.range 4).map (fun col => row * 4096 + (bank ^^^ (row % 64)) * 64 + col * 16 + pc)

/-- Granules that hold a run of a row. -/
def rowGranules (s : State) (h pc bank row : Nat) : List Nat :=
  ((rowRuns pc bank row).filterMap (fun q => (lineAddr s h (2 * q)).map (· / 65536))).dedup

/-- Remember a retired granule and put it on the list (R305). -/
def retireNow (s : State) (g ctl : Nat) : State :=
  let s := { s with mem.retired := alPut s.mem.retired g { pending := false, ctl := ctl } }
  let r : Resource := { kind := 5, place := ctl, detail := g }
  raiseEv (if hasEntry s r then s else recordFault s r false) pf gMEM 4 none

/-- Mark the page entries of a pending granule (Table 10.15). -/
def markPending (s : State) (g : Nat) : State :=
  { s with mem.pages := alMap s.mem.pages (fun _ e => if e.kind = .local && e.frame = g then { e with pending := true } else e) }

/-- Retire a granule at once, or mark it pending while it is allocated (R305). -/
def retireGranule (s : State) (g ctl : Nat) : State :=
  if (alFind s.mem.retired g).isSome then s
  else
    match alFind s.mem.grans g with
    | none => retireNow s g ctl
    | some u =>
      let s := { s with mem.retired := alPut s.mem.retired g { pending := true, ctl := ctl } }
      let s := raiseEv (markPending s g) pf gMEM 3 none
      if granOwner u = pf then s else raiseEv s (granOwner u) gMEM 3 none

/-- An allocated granule is freed: a pending one is retired (R289, R305). -/
def freeGranule (s : State) (g : Nat) : State :=
  let s := { s with mem.grans := alDel s.mem.grans g }
  match alFind s.mem.retired g with
  | some x => if x.pending then retireNow s g x.ctl else s
  | none => s

/-- Granules that a controller has retired or holds pending. -/
def retiredOf (s : State) (h : Nat) : Nat := (s.mem.retired.filter (fun e => e.2.ctl == h)).length

/-- Retire the granules of some rows of a controller, unless they pass its limit of 1,023 (R305). -/
def retireAll (s : State) (h : Nat) (gs : List Nat) : State :=
  let new := gs.filter (fun g => (alFind s.mem.retired g).isNone)
  if 1023 < retiredOf s h + new.length then raiseEv s pf gMEM 6 none
  else new.foldl (fun s g => retireGranule s g h) s

/-- Erased lanes of a pseudo-channel (R303). -/
def erasedOf (c : Ctl) (pc : Nat) : List Nat := alGet [] c.erased pc

/-- A pin becomes an erased lane at once (R303). -/
def eraseLane (s : State) (h pc pin : Nat) : State :=
  if (erasedOf (ctlOf s h) pc).contains pin then s
  else
    let s := modCtl s h (fun c => { c with erased := alPut c.erased pc (erasedOf c pc ++ [pin]) })
    raiseEv s pf gMEM 5 none

/-- The online action of Table 17.3. -/
def onlineAction (s : State) (r : Resource) : State :=
  if r.kind = 2 then fenceCore s (coreOfLoc r.place)
  else if r.kind = 3 then
    if r.place / 2 ^ 14 = 0 then fenceCore s (coreOfLoc r.place)
    else if r.place / 2 ^ 14 = 1 then
      (List.range 8).foldl (fun s i => fenceCore s (coreOfLoc (r.place % 2 ^ 14 / 8 * 8) + i)) s
    else s
  else if r.kind = 4 then
    retireAll s r.place (rowGranules s r.place (r.detail % 16) (r.detail / 16 % 64) (r.detail / 2 ^ 10 % 2 ^ 14))
  else if r.kind = 6 then eraseLane s r.place (r.detail % 16) (r.detail / 16 % 64)
  else s

/-- A resource becomes a lasting fault (R481); one that has an entry already is not recorded again, but a pin that fails again
is erased again (R303). -/
def lastingFault (s : State) (r : Resource) (uc : Bool) : State :=
  if hasEntry s r then (if r.kind = 6 then onlineAction s r else s)
  else
    let s := recordFault s r uc
    let s := bump (bump s pf 0x90130 1) serviceFn 0x90130 1
    onlineAction (raisePfSf s gRAS 2 none) r

/-! ### Leaky buckets (R480) -/

/-- Defaults of N and W in seconds (Table 17.3). -/
def bucketDefault (kind : Nat) : Option (Nat × Nat) :=
  match kind with
  | 2 => some (4, 86400)
  | 3 => some (16, 86400)
  | 4 => some (8, 86400)
  | 6 => some (256, 1)
  | 8 => some (1024, 1)
  | 9 => some (134217728, 1)
  | _ => none

/-- N and W of a kind: a THRESHOLD entry overrides the default (Table 17.3). -/
def bucketLimit (s : State) (kind : Nat) : Option (Nat × Nat) :=
  match (s.mgmt.faults.filter (fun e => e.kind == 15 && e.place == kind)).getLast? with
  | some e => some (e.detail, e.boot)
  | none => bucketDefault kind

/-- A number kept for a resource, 0 when none is. -/
def resGet (l : List (Resource × Nat)) (r : Resource) : Nat := ((l.find? (fun e => e.1 == r)).map (·.2)).getD 0

/-- Keep a number for a resource. -/
def resPut (l : List (Resource × Nat)) (r : Resource) (n : Nat) : List (Resource × Nat) :=
  l.filter (fun e => e.1 != r) ++ (if n = 0 then [] else [(r, n)])

/-- Leaks of a resource due before now, and with `incl` those due now (R480): multiples of W / N after the end of device
initialisation. -/
def leaksDue (s : State) (n w : Nat) (incl : Bool) : Nat :=
  let x := (s.time - s.ras.initEnd) * n
  (if incl then x else x - 1) / (100000000 * max 1 w)

/-- Apply the leaks of a bucket that are due. -/
def applyLeaks (s : State) (r : Resource) (incl : Bool) : State :=
  match bucketLimit s r.kind with
  | none => s
  | some (n, w) =>
    let due := leaksDue s n w incl
    let seen := resGet s.ras.leaks r
    if due ≤ seen then s
    else { s with ras.buckets := resPut s.ras.buckets r (resGet s.ras.buckets r - (due - seen))
                  ras.leaks := resPut s.ras.leaks r due }

/-- Charge a bucket `k` times (R480): when λ reaches N the resource becomes a lasting fault and λ returns to 0. -/
def chargeBucket (s : State) (r : Resource) (k : Nat) : State :=
  let s := applyLeaks s r false
  match bucketLimit s r.kind with
  | none => s
  | some (n, _) =>
    let v := resGet s.ras.buckets r + k
    if max 1 n ≤ v then lastingFault { s with ras.buckets := resPut s.ras.buckets r 0 } r false
    else { s with ras.buckets := resPut s.ras.buckets r v }

/-! ### Classes of error (R476, R477, Table 17.2) -/

/-- A corrected error: its event, record and counter, and `k` charges of its resource. -/
def correctedErr (s : State) (res : Option Resource) (k : Nat) : State :=
  let s := bump (bump s pf 0x90120 1) serviceFn 0x90120 1
  let s := raisePfSf s gRAS 0 (some (rasLast res 0))
  match res with
  | some r => chargeBucket s r k
  | none => s

/-- An uncorrected error: its event, record and counter, in the functions of the tenants that it affects too; the resource
becomes a lasting fault (R481). -/
def uncorrectedErr (s : State) (res : Option Resource) (tenants : List Nat) : State :=
  let fs := [pf, serviceFn] ++ (tenants.filter (fun t => t != pf)).dedup
  let s := fs.foldl (fun s f => raiseEv (bump s f 0x90128 1) f gRAS 1 (some (rasLast res 1))) s
  match res with
  | some r => lastingFault s r true
  | none => s

end Sys2Proof.Machine
end

