-- ==== Sys2Proof/Machine/MemOps.lean ====
section
/-! DEFINITION. Named operations of the memory controllers (R278, R290 to R304, R402, R407): regulators and windows, open
rows, the outcome of a sector's decoding. -/

namespace Sys2Proof.Machine

/-! ### Decoding (R298 to R300, R303, R304) -/

/-- MEM_LAST_ERR (Table 10.12). -/
def memLastErr (h : Nat) (p : Place) (sector kind symbols pin scrub : Nat) : Nat :=
  h % 64 * 2 ^ 58 + p.pc % 16 * 2 ^ 54 + p.bank % 64 * 2 ^ 48 + p.row % 2 ^ 14 * 2 ^ 34 + p.col % 4 * 2 ^ 32 + sector % 4 * 2 ^ 30 +
  kind % 4 * 2 ^ 28 + symbols % 16 * 2 ^ 24 + pin % 256 * 2 ^ 16 + scrub % 2 * 2 ^ 15

/-- The resource of a row (Table 17.3). -/
def rowRes (h : Nat) (p : Place) : Resource := { kind := 4, place := h, detail := p.pc + p.bank * 2 ^ 4 + p.row * 2 ^ 10 }

/-- The resource of a pin. -/
def pinRes (h pc pin : Nat) : Resource := { kind := 6, place := h, detail := pc + pin * 2 ^ 4 }

/-- A poisoned read overwrites MEM_LAST_ERR. -/
def memLast (s : State) (tenant v : Nat) : State :=
  let s := modFn s pf (fun x => { x with last := alPut x.last gMEM v })
  if tenant = pf then s else modFn s tenant (fun x => { x with last := alPut x.last gMEM v })

/-- The 64 bytes of a sector as memory holds them. -/
def sectorBytes (s : State) (sec : Nat) : List Nat := (List.range 64).map (fun k => (cellGet s.mem.mem (sec * 64 + k)).toNat)

/-- The symbols that a controller's stack holds for a sector (R297, R300). -/
def sectorStored (s : State) (sec : Nat) : List Nat := storedWord (sectorBytes s sec) (s.mem.poisoned.contains sec)

/-- Bytes of a line that are sector `k` of it. -/
def sectorMask (k : Nat) : LineMask := maskOf (64 * k) 64

/-- A corrected sector is written back corrected, unless a write to it has arrived since (R299): the write waits with the
others, is of no partition, and does not change what any read returns. -/
def correctBack (s : State) (pa k : Nat) : State :=
  match homeOf s pa with
  | none => s
  | some (h, _) =>
    if (ctlOf s h).writes.any (fun w => w.pa == pa && w.mask &&& sectorMask k != 0) then s
    else modCtl s h (fun c => { c with writes := c.writes ++
      [{ pa := pa, mask := sectorMask k, data := lineOf (fun i => cellGet s.mem.mem (pa + i)), poison := 0, part := 64, own := true,
         after := s.mem.nextRead }] })

/-- What a sector holds is free: its word had more symbols in error than the code covers (Table 10.6). -/
def freeSector (s : State) (sec : Nat) : State :=
  let bs := (List.range 8).flatMap (fun i => leBytes 8 (Config.fresh (s.freeCtr + i)).toNat)
  { s with freeCtr := s.freeCtr + 8, mem.mem := cellPuts s.mem.mem (sec * 64) bs }

/-- A sector is found corrected: its event, its count, and the charges of its row and of the pins of its corrected symbols
(R299, R303, R304). -/
def sectorCorrected (s : State) (h : Nat) (p : Place) (t sec : Nat) (er syms : List Nat) (scrub : Bool) : State :=
  let v := memLastErr h p sec (if er.isEmpty then 0 else 3) syms.length (symPin (syms.foldl max 0)) (b2n scrub)
  let s := memRaise (memBump s t 0x50218 1) t 0 (some v)
  let s := correctedErr (ctrAdd s (blkKey 2 h) 0x0A 1 none) (some (rowRes h p)) 1
  syms.foldl (fun s k => chargeBucket s (pinRes h p.pc (symPin k)) 1) s

/-- A sector is found uncorrectable and is poisoned (R300, R304). -/
def sectorPoisoned (s : State) (h : Nat) (p : Place) (t sec at64 : Nat) (scrub : Bool) : State :=
  let s := { s with mem.poisoned := s.mem.poisoned ++ [at64] }
  let s := memRaise (memBump s t 0x50220 1) t 1 (some (memLastErr h p sec 1 15 0xFF (b2n scrub)))
  uncorrectedErr s (some (rowRes h p)) [t]

/-- Sector `k`, 0 or 1, of the line at `pa` is read, and its symbols `syms` differ from what is stored (R298 to R304): found
poisoned, clean, corrected, or uncorrectable; beyond what the code covers, which of these, and the data, are free. -/
def eccSector (s : State) (pa k : Nat) (syms : List Nat) (scrub : Bool) : State :=
  match homeOf s pa with
  | none => s
  | some (h, m) =>
    let p := placeOf m
    let t := tenantOf s pa
    let er := erasedOf (ctlOf s h) p.pc
    let sec := 2 * (m % 2) + k
    let at64 := pa / 64 + k
    if s.mem.poisoned.contains at64 then memLast s t (memLastErr h p sec 2 15 0xFF (b2n scrub))
    else
      match eccOutcome er syms with
      | .clean => s
      | .corrected =>
        correctBack (sectorCorrected s h p t sec er (syms.dedup.filter (fun k => !er.contains (symPin k))) scrub) pa k
      | .uncorrectable => sectorPoisoned s h p t sec at64 scrub
      | .uncovered =>
        let (f, s) := takeFree s
        if f.getLsbD 0 then sectorPoisoned s h p t sec at64 scrub
        else
          let s := freeSector s at64
          if f.getLsbD 1 then correctBack (sectorCorrected s h p t sec er [f.toNat / 4 % 72] scrub) pa k else s

/-- The four sectors of the run at `pa`, a multiple of 256, are read (R290). -/
def eccRun (s : State) (pa : Nat) (e : EccIn) (scrub : Bool) : State :=
  (List.range 4).foldl (fun s i => eccSector s (pa + 128 * (i / 2)) (i % 2) (e.errs.getD i []) scrub) s

/-- Address of the run that holds a line. -/
def runBase (pa : Nat) : Nat := pa / 256 * 256

end Sys2Proof.Machine
end

