-- ==== Sys2Proof/Machine/Ops.lean ====
section
/-! DEFINITION. Named operations over memory and caches (spec chapters 08 to 10): home slices, the L1, the write buffer, and
reads and writes made through them. -/

namespace Sys2Proof.Machine

/-! ### Slices (R253 to R259) -/

/-- Offsets of the CC_ counters (Table 15 of chapter 09). -/
def ccLookup : Nat := 0x40100
def ccHit : Nat := 0x40108
def ccSideHit : Nat := 0x40110
def ccBypass : Nat := 0x40118
def ccPrefIssued : Nat := 0x40120
def ccPrefUnused : Nat := 0x40128
def ccOfferAcc : Nat := 0x40130
def ccOfferDec : Nat := 0x40138
def ccDalDrop : Nat := 0x40140
def ccKeepLost : Nat := 0x40148
def ccWriteback : Nat := 0x40150
def ccMaintLines : Nat := 0x40158

/-- The valid line of a set with this tag, whatever its way (R257). -/
def findWay (x : Region) (set tag : Nat) : Option (Nat × SliceLine) :=
  (List.range 16).findSome? (fun w =>
    match alFind x.lines (set * 16 + w) with
    | some l => if l.tag = tag then some (w, l) else none
    | none => none)

/-- The stamp of a set (R253). -/
def stampOf (x : Region) (set : Nat) : BitVec 24 := alGet 0 x.stamps set

/-- Advance the stamp of a set (R253). -/
def bumpStamp (x : Region) (set : Nat) : Region := { x with stamps := alPut x.stamps set (stampOf x set + 1) }

/-- Replace the line of a way. -/
def setWay (x : Region) (set w : Nat) (l : SliceLine) : Region := { x with lines := alPut x.lines (set * 16 + w) l }

/-- Invalidate the line of a way: the keep bit goes with it and the stamp advances (R253, R271). -/
def dropWay (x : Region) (set w : Nat) : Region := bumpStamp { x with lines := alDel x.lines (set * 16 + w) } set

/-- Event code of a region's counter block for a CC_ counter (Table 18.4). -/
def regionCode (off : Nat) : Nat :=
  if off = ccLookup then 0x02 else if off = ccHit then 0x03 else if off = ccWriteback then 0x05
  else if off = ccSideHit then 0x06 else if off = ccPrefUnused then 0x07 else if off = ccOfferAcc then 0x08
  else if off = ccOfferDec then 0x09 else if off = ccBypass then 0x0A else if off = ccMaintLines then 0x0E else 0

/-- Advance a CC_ counter of a tenant and the region block's event (R276, R500). -/
def ccBump (s : State) (r part tenant off n : Nat) : State :=
  let c := regionCode off
  let s := modRegion s r (fun x => { x with used := s.time })
  bump (if c = 0 then s else ctrAdd s (blkKey 1 r) c n (some part)) tenant off n

/-- Free side-buffer entries unused (R264, R265). -/
def freeSides (s : State) (r : Nat) (p : SideEntry → Bool) : State :=
  modRegion (((regionOf s r).side.filter p).foldl (fun s e => ccBump s r e.part e.tenant ccPrefUnused 1) s) r
    (fun x => { x with side := x.side.filter (fun e => !p e) })

/-- Region of a physical address's home, 0 when it has none. -/
def homeRegion (s : State) (pa : Nat) : Nat := ((homeSlice s pa).map (·.1)).getD 0

/-- Write a dirty line back to its controller (R254). -/
def writeBack (s : State) (tenant : Nat) (l : SliceLine) : State :=
  if l.dirty then
    ccBump (ctlWrite s { pa := l.pa, mask := BitVec.allOnes 128, data := l.data, poison := l.poison, part := l.part })
      (homeRegion s l.pa) l.part tenant ccWriteback 1
  else s

/-- Keep lines of a partition in a set. -/
def keepCount (x : Region) (set part : Nat) : Nat :=
  ((List.range 16).filter (fun w =>
    match alFind x.lines (set * 16 + w) with
    | some l => l.keep && l.part == part
    | none => false)).length

/-- Remove exemption from the partition's surplus keep lines of a set, highest ways first (R260); the count lost. -/
def trimKeepWays (quota part set : Nat) : List Nat → Region → Nat → Region × Nat
  | [], x, n => (x, n)
  | w :: r, x, n =>
    if keepCount x set part ≤ quota then (x, n)
    else
      match alFind x.lines (set * 16 + w) with
      | some l => if l.keep && l.part == part then trimKeepWays quota part set r (setWay x set w { l with keep := false }) (n + 1)
                  else trimKeepWays quota part set r x n
      | none => trimKeepWays quota part set r x n

/-- Age of a way; an invalid way is at age 3 (R254). -/
def ageOf (x : Region) (set w : Nat) : Nat := ((alFind x.lines (set * 16 + w)).map (·.age)).getD 3

/-- Whether a way holds a keep line. -/
def isKeep (x : Region) (set w : Nat) : Bool := ((alFind x.lines (set * 16 + w)).map (·.keep)).getD false

/-- The victim of a fill and the slice after any ageing sweep (R254); none is a bypass (R259). -/
def victim (x : Region) (set : Nat) (ws : List Nat) : Option Nat × Region :=
  let cand := ws.filter (fun w => !isKeep x set w)
  match cand.find? (fun w => ageOf x set w == 3) with
  | some w => (some w, x)
  | none =>
    let top := cand.foldl (fun a w => max a (ageOf x set w)) 0
    let x := cand.foldl (fun x w =>
      match alFind x.lines (set * 16 + w) with
      | some l => setWay x set w { l with age := min 3 (l.age + (3 - top)) }
      | none => x) x
    (cand.find? (fun w => ageOf x set w == 3), x)

/-- Age of a hit (Table 9.1). -/
def hitAge : Hint → Nat
  | .stream => 3
  | _ => 0

/-- Age of a fill (Table 9.1). -/
def fillAge : Hint → Nat
  | .stream => 3
  | .keep => 0
  | _ => 1

/-- Touch a present line with a hint other than .DAL (Table 9.1). -/
def touchLine (s : State) (r set w : Nat) (l : SliceLine) (h : Hint) : State :=
  let x := regionOf s r
  let l' := if l.keep then { l with age := 0 }
    else if h = .keep then { l with age := 0, keep := decide (keepCount x set l.part < keepQuota s l.part) }
    else { l with age := hitAge h }
  modRegion s r (fun x => setWay x set w l')

/-- Insert a line, choosing and writing back a victim (R254, R258 to R260). False: a bypass. -/
def insertLine (s : State) (r set tag pa part tenant : Nat) (h : Hint) (age : Nat) (dirty : Bool) (data : Line)
    (poison : BitVec 2) : Bool × State :=
  let (x, lost) := trimKeepWays (keepQuota s part) part set [15, 14, 13, 12, 11, 10, 9, 8, 7, 6, 5, 4, 3, 2, 1, 0]
    (regionOf s r) 0
  let s := ccBump (modRegion s r (fun _ => x)) r part tenant ccKeepLost lost
  let cand := (eligible s r part set).filter (fun w => !isKeep x set w)
  let s := if !cand.isEmpty && cand.all (fun w => ageOf x set w != 3) then ctrAdd s (blkKey 1 r) 0x0B 1 (some part) else s
  match victim x set (eligible s r part set) with
  | (none, x) => (false, ccBump (modRegion s r (fun _ => x)) r part tenant ccBypass 1)
  | (some w, x) =>
    let s := match alFind x.lines (set * 16 + w) with
      | some v => writeBack s tenant v
      | none => s
    let keep := h == .keep && decide (keepCount x set part < keepQuota s part)
    let s := ctrAdd s (blkKey 1 r) 0x04 1 (some part)
    (true, modRegion s r (fun _ => setWay x set w
      { tag := tag, data := data, age := age, dirty := dirty, keep := keep, part := part, poison := poison, pa := pa }))

/-- The side-buffer entry of a line. -/
def sideOf (x : Region) (pa : Nat) : Option SideEntry := x.side.find? (fun e => e.pa == pa)

/-- Remove the side-buffer entry of a line. -/
def dropSide (x : Region) (pa : Nat) : Region := { x with side := x.side.filter (fun e => e.pa != pa) }

/-- The data and poisoned sectors that the home of a line holds, without an access (R222). -/
def homePeek (s : State) (pa : Nat) : Line × BitVec 2 :=
  match homeSlice s pa with
  | none => (0, 0)
  | some (r, set, tag) =>
    match findWay (regionOf s r) set tag with
    | some (_, l) => (l.data, l.poison)
    | none => match sideOf (regionOf s r) pa with
      | some e => (e.data, e.poison)
      | none => memLine s pa

/-- A run that a controller reads for an access performed in one step (R290, R295, R402): it is charged and counted, and decoded
as a run without errors of its own: on a pseudo-channel with three or more erased lanes every sector of it is poisoned
(R298, R300; log entry 70). -/
def directRun (s : State) (pa part tenant : Nat) (rt : Bool := false) : State :=
  match homeOf s pa with
  | none => s
  | some (h, m) =>
    let p := placeOf m
    let s := modCtl s h (fun c => wakeCtl c s.time)
    let s := eccRun (chargeRuns (openRow s h p part) h p.pc part 1 rt) (runBase pa) {} false
    ctrAdd (memBump s tenant 0x50200 1) (blkKey 2 h) 0x02 1 (some part)

/-- A slice is awake: it is not in retention, and its wake time has passed (R457). -/
def sliceAwake (s : State) (r : Nat) : Bool := (regionOf s r).power != .retention && decide ((regionOf s r).wakeAt ≤ s.time)

/-- The home slice of a line is awake. -/
def homeAwake (s : State) (pa : Nat) : Bool := match homeSlice s pa with | some (r, _, _) => sliceAwake s r | none => true

/-- Whether an access performed in one step may be performed at the line's home now: the line is there, or its controller
has no read of the line in flight (R265) and the next run on the line's pseudo-channel can be this one (R294, R295); a line
that the slice could not keep does not wait for credit (log entry 70). -/
def homeReady (s : State) (pa part : Nat) (rt : Bool := false) : Bool :=
  match homeSlice s pa, homeOf s pa with
  | some (r, set, tag), some (h, m) =>
    let x := regionOf s r
    let pc := (placeOf m).pc
    sliceAwake s r && ((findWay x set tag).isSome || (sideOf x pa).isSome ||
      (!(ctlOf s h).reads.any (fun q => q.pa == pa) &&
        ((eligible s r part set).all (isKeep x set) ||
          (runAllowed s h pc part rt &&
            !((readsLeft (ctlOf s h)).any (fun q => (linePlaceOf s q.pa).pc == pc && (q.rt || !rt) && runAllowed s h pc q.part q.rt))))))
  | _, _ => true

/-- A missed read has its line: a fill of Table 9.2, or none for .DAL. -/
def homeFill (s : State) (r set tag pa part tenant : Nat) (h : Hint) (d : Line) (p : BitVec 2) :
    Line × BitVec 24 × BitVec 2 × State :=
  let s := if h = .dal then s else (insertLine s r set tag pa part tenant h (fillAge h) false d p).2
  (d, stampOf (regionOf s r) set, p, s)

/-- A read of a line performed at its home in one step (R255, R265): data, stamp, poisoned sectors. A miss takes the
line from the side buffer or memory and fills, unless the hint is .DAL. -/
def homeRead (s : State) (pa part tenant : Nat) (h : Hint) (rt : Bool := false) : Line × BitVec 24 × BitVec 2 × State :=
  match homeSlice s pa with
  | none => (0, 0, 0, s)
  | some (r, set, tag) =>
    let s := ccBump s r part tenant ccLookup 1
    match findWay (regionOf s r) set tag with
    | some (w, l) =>
      let s := ccBump s r part tenant ccHit 1
      let st := stampOf (regionOf s r) set
      if h = .dal then
        let s := if l.dirty then ccBump s r part tenant ccDalDrop 1 else s
        (l.data, st, l.poison, modRegion s r (fun x => dropWay x set w))
      else (l.data, st, l.poison, touchLine s r set w l h)
    | none =>
      let (d, p, s) := match sideOf (regionOf s r) pa with
        | some e => (e.data, e.poison, ccBump (modRegion s r (fun x => dropSide x pa)) r part tenant ccSideHit 1)
        | none => let s := directRun s pa part tenant rt; ((memLine s pa).1, (memLine s pa).2, s)
      homeFill s r set tag pa part tenant h d p

/-- A write performed at its home (R252, R255, R259): merge into the line, or allocate it, merging with the rest from
the side buffer or memory; a bypassed write goes through to memory. The stamp advances, and reads of the line that are in
flight are overtaken (`staleReads`). -/
def homeWrite (s : State) (pa part tenant : Nat) (h : Hint) (mask : LineMask) (data : Line) (poison : BitVec 2)
    (rt : Bool := false) : State :=
  match homeSlice s pa with
  | none => s
  | some (r, set, tag) =>
    let h := if h = .dal then .plain else h
    let w : MemWrite := { pa := pa, mask := mask, data := data, poison := poison, part := part, rt := rt }
    let s := staleReads (ccBump s r part tenant ccLookup 1) pa
    match findWay (regionOf s r) set tag with
    | some (k, l) =>
      let s := ccBump s r part tenant ccHit 1
      let (d, p) := applyWrite l.data l.poison w
      let s := touchLine s r set k { l with data := d, poison := p, dirty := true } h
      modRegion s r (fun x => bumpStamp x set)
    | none =>
      let (d0, p0, s) := match sideOf (regionOf s r) pa with
        | some e => (e.data, e.poison, ccBump (modRegion s r (fun x => dropSide x pa)) r part tenant ccSideHit 1)
        | none => if maskFull mask then (0, 0, s) else
            let s := directRun s pa part tenant rt
            ((memLine s pa).1, (memLine s pa).2, s)
      let (d, p) := applyWrite d0 p0 w
      let (ok, s) := insertLine s r set tag pa part tenant h (fillAge h) true d p
      let s := if ok then s else ctlWrite s w
      modRegion s r (fun x => bumpStamp x set)

/-! ### Bytes of device memory as its homes see them: what engines, the front end and firmware read and write -/

/-- Split `n` bytes from `a` at line boundaries: (line, offset, count). -/
def chunks : (fuel a n : Nat) → List (Nat × Nat × Nat)
  | 0, _, _ => []
  | fuel + 1, a, n =>
    if n = 0 then []
    else
      let off := a % 128
      let k := min n (128 - off)
      (a / 128 * 128, off, k) :: chunks fuel (a + k) (n - k)

/-- The chunks of an access. -/
def chunksOf (a n : Nat) : List (Nat × Nat × Nat) := chunks (n / 128 + 2) a n

/-- Read lines at their homes one after the other, as far as the homes can serve them now; `none` when one cannot, with the lines
so far filled. Bytes, and whether a sector touched is poisoned. -/
def readLines (part tenant : Nat) (h : Hint) (rt : Bool) :
    List (Nat × Nat × Nat) → State → List Byte → Bool → Option (List Byte × Bool) × State
  | [], s, acc, bad => (some (acc, bad), s)
  | (pa, off, n) :: r, s, acc, bad =>
    if !homeReady s pa part rt then (none, s)
    else
      let (l, _, p, s) := homeRead s pa part tenant h rt
      readLines part tenant h rt r s (acc ++ lineSlice l off n) (bad || (p &&& maskSectors (maskOf off n)) != 0)

/-- Whether the homes of a write of bytes can perform it now: a line that it covers in part must be readable there. -/
def writeMay (s : State) (pa n part : Nat) (rt : Bool := false) : Bool :=
  (chunksOf pa n).all (fun c => (c.2.2 == 128 && homeAwake s c.1) || homeReady s c.1 part rt)

/-- Read bytes of device memory at their homes; poisoned sectors touched are reported. -/
def devRead (s : State) (pa n part tenant : Nat) (h : Hint) : List Byte × Bool × State :=
  (chunksOf pa n).foldl (fun (acc : List Byte × Bool × State) c =>
    let (l, _, p, s) := homeRead acc.2.2 c.1 part tenant h
    (acc.1 ++ lineSlice l c.2.1 c.2.2, acc.2.1 || (p &&& maskSectors (maskOf c.2.1 c.2.2)) != 0, s)) ([], false, s)

/-- Write bytes of device memory at their homes. -/
def devWrite (s : State) (pa part tenant : Nat) (bs : List Byte) (rt : Bool := false) : State :=
  ((chunksOf pa bs.length).foldl (fun (acc : List Byte × State) c =>
    (acc.1.drop c.2.2,
     homeWrite acc.2 c.1 part tenant .plain (maskOf c.2.1 c.2.2) (linePlace c.2.1 (acc.1.take c.2.2)) 0 rt)) (bs, s)).2

/-- Outcome of an access of an agent that reads or writes in one step. -/
inductive Acc (α : Type)
  | ok (x : α)
  | fault (f : DevFault)
  /-- waits for the host's translation -/
  | wait
  deriving Repr

/-- Bytes of host memory read in one step: the host may complete the read with an error or poisoned (R532; log entry
33). -/
def hostBytes (s : State) (ha n : Nat) : Acc (List Byte) × State :=
  let s' := { s with freeCtr := s.freeCtr + 1 }
  match Config.hostAnswer ha s.freeCtr with
  | 1 => (.fault .memAccess, s')
  | 2 => (.fault .memPoison, s')
  | _ => (.ok (cellGets s.host.mem ha n), s')

/-- The response that is kept for a line of another package. -/
def fetchedOf (s : State) (tenant pk line : Nat) : Option FetchedLine :=
  s.links.fetched.find? (fun f => f.tenant == tenant && f.package == pk && f.line == line)

/-- Ask another package for a line, unless its response is kept or outstanding already, or no tag is free (R334). -/
def fetchLine (s : State) (die tenant pk line : Nat) : State :=
  if (fetchedOf s tenant pk line).isSome || !tagsFree s die 1 ||
      s.links.txns.any (fun t => t.kind == .read && t.tenant == tenant && t.target == .remote pk (128 * line) && !t.dead) then s
  else
    let tag := (leastFree (tagsUsed s die) 4096 0).getD 0
    let s := { s with links.txns := s.links.txns ++
      [{ die := die, tag := tag, core := 2048 + die, kind := .read, id := line, tenant := tenant, node := noNode,
         target := .remote pk (128 * line), since := s.time }] }
    bump (sendMsg s (reqMsg s 0x1 pk (128 * line) tenant tag)) tenant lnkRd 1

/-- Bytes of another package's memory for an access that an agent makes in one step (R330 to R334): the access waits until a
READ of each of its lines has been answered, and takes the responses. -/
def remoteBytes (s : State) (die tenant pk a n : Nat) : Acc (List Byte) × State :=
  let ls := chunksOf a n
  if !reachable s pk then (.fault .remoteUnreachable, lnkErr s tenant 0 pk 7 (a / 128))
  else if ls.any (fun c => (fetchedOf s tenant pk (c.1 / 128)).isNone) then
    (.wait, ls.foldl (fun s c => fetchLine s die tenant pk (c.1 / 128)) s)
  else
    let got := ls.filterMap (fun c => (fetchedOf s tenant pk (c.1 / 128)).map (fun f => (f, c)))
    let s := { s with links.fetched := s.links.fetched.filter (fun f =>
      !(f.tenant == tenant && f.package == pk && ls.any (fun c => c.1 / 128 == f.line))) }
    match got.findSome? (fun e => e.1.fail) with
    | some g => (.fault g, s)
    | none => (.ok (got.flatMap (fun e => lineSlice e.1.data e.2.2.1 e.2.2.2)), s)

/-- A tenant's read by an agent other than a core's load pipe, page by page (R286, R300): device memory at its homes,
host memory through translation, another package's memory as free values. -/
def agentReadPages : (fuel : Nat) → State → (tenant part va n : Nat) → Hint → Bool → (die : Nat) → List Byte → Acc (List Byte) × State
  | 0, s, _, _, _, _, _, _, _, acc => (.ok acc, s)
  | fuel + 1, s, tenant, part, va, n, h, rt, die, acc =>
    if n = 0 then (.ok acc, s)
    else
      let k := min n (65536 - va % 65536)
      match translate s tenant va .r with
      | none => (.fault .memAccess, s)
      | some (.loc pa) =>
        match readLines part tenant h rt (chunksOf pa k) s [] false with
        | (none, s) => (.wait, s)
        | (some (_, true), s) => (.fault .memPoison, s)
        | (some (b, false), s) => agentReadPages fuel s tenant part (va + k) (n - k) h rt die (acc ++ b)
      | some (.host a) =>
        match tenantPasid s tenant with
        | none => (.fault .memAccess, s)
        | some pz =>
          match hostXlat s tenant pz a false with
          | (.fault, s) => (.fault .memAccess, s)
          | (.wait, s) => (.wait, s)
          | (.ok ha, s) =>
            match hostBytes s ha k with
            | (.ok b, s) => agentReadPages fuel s tenant part (va + k) (n - k) h rt die (acc ++ b)
            | (.fault f, s) => (.fault f, s)
            | (.wait, s) => (.wait, s)
      | some (.remote pk a) =>
        match remoteBytes s die tenant pk a k with
        | (.ok b, s) => agentReadPages fuel s tenant part (va + k) (n - k) h rt die (acc ++ b)
        | (.fault f, s) => (.fault f, s)
        | (.wait, s) => (.wait, s)

/-- A tenant's read of `n` bytes (see `agentReadPages`). -/
def agentRead (s : State) (tenant part va n : Nat) (h : Hint) (rt : Bool := false) (die : Nat := 0) : Acc (List Byte) × State :=
  agentReadPages (n / 65536 + 2) s tenant part va n h rt die []

/-- A tenant's write by an agent other than a core's write buffer, page by page; a remote write is sent and leaves. -/
def agentWritePages : (fuel : Nat) → State → (tenant part va : Nat) → List Byte → Issuer → Acc Unit × State
  | 0, s, _, _, _, _, _ => (.ok (), s)
  | fuel + 1, s, tenant, part, va, bs, e =>
    if bs.isEmpty then (.ok (), s)
    else
      let k := min bs.length (65536 - va % 65536)
      match translate s tenant va .w with
      | none => (.fault .memAccess, s)
      | some (.loc pa) =>
        if !e.sure && !writeMay s pa k part (nodeIsRt s e.node) then (.wait, s)
        else agentWritePages fuel (devWrite s pa part tenant (bs.take k) (nodeIsRt s e.node)) tenant part (va + k) (bs.drop k) e
      | some (.host a) =>
        match tenantPasid s tenant with
        | none => (.fault .memAccess, s)
        | some pz =>
          match hostXlat s tenant pz a true with
          | (.fault, s) => (.fault .memAccess, s)
          | (.wait, s) => (.wait, s)
          | (.ok ha, s) => agentWritePages fuel (hostWrite s ha (bs.take k) true) tenant part (va + k) (bs.drop k) e
      | some (.remote pk a) =>
        if !reachable s pk then (.fault .remoteUnreachable, lnkErr s tenant 0 pk 7 (a / 128))
        else if !tagsFree s e.die (chunksOf a k).length then (.wait, s)
        else
          let s := ((chunksOf a k).foldl (fun (x : List Byte × State) c =>
            (x.1.drop c.2.2, engineWrite x.2 e pk c.1 tenant (maskOf c.2.1 c.2.2) (linePlace c.2.1 (x.1.take c.2.2))))
            (bs.take k, s)).2
          agentWritePages fuel s tenant part (va + k) (bs.drop k) e

/-- A tenant's write of bytes (see `agentWritePages`). -/
def agentWrite (s : State) (tenant part va : Nat) (bs : List Byte) (e : Issuer := {}) : Acc Unit × State :=
  agentWritePages (bs.length / 65536 + 2) s tenant part va bs e

/-- Whether a tenant's write of `n` bytes can be made now from its first byte to its last: its pages grant W, their homes can serve
it, the host's translations are held, and the die has a tag for each line of another package besides `need`. -/
def agentReady : (fuel : Nat) → State → (tenant part va n : Nat) → Issuer → (need : Nat) → Acc Unit × State
  | 0, s, _, _, _, _, _, _ => (.ok (), s)
  | fuel + 1, s, tenant, part, va, n, e, need =>
    if n = 0 then (.ok (), s)
    else
      let k := min n (65536 - va % 65536)
      match translate s tenant va .w with
      | none => (.fault .memAccess, s)
      | some (.loc pa) =>
        if !writeMay s pa k part (nodeIsRt s e.node) then (.wait, s)
        else agentReady fuel s tenant part (va + k) (n - k) e need
      | some (.host a) =>
        match tenantPasid s tenant with
        | none => (.fault .memAccess, s)
        | some pz =>
          match hostXlat s tenant pz a true with
          | (.fault, s) => (.fault .memAccess, s)
          | (.wait, s) => (.wait, s)
          | (.ok _, s) => agentReady fuel s tenant part (va + k) (n - k) e need
      | some (.remote pk a) =>
        let m := need + (chunksOf a k).length
        if !reachable s pk then (.fault .remoteUnreachable, lnkErr s tenant 0 pk 7 (a / 128))
        else if !tagsFree s e.die m then (.wait, s)
        else agentReady fuel s tenant part (va + k) (n - k) e m

/-- Whether every page of a range has the right (R286). -/
def rangeOk (s : State) (tenant va n : Nat) (need : Right) : Bool :=
  decide (0 < n) && (List.range (n / 65536 + 2)).all (fun i =>
    let a := if i = 0 then va else va / 65536 * 65536 + i * 65536
    decide (va + n ≤ a) || (translate s tenant a need).isSome)

/-! ### The L1 (R247 to R250) -/

/-- Banks of the L1 at split S. -/
def l1Banks (x : Exec) : Nat := 12 - x.split

/-- First key of the set of a line: (bank × 32 + set) × 8. -/
def l1Base (x : Exec) (t : Target) : Nat :=
  let n := t.addr / 128
  (n % l1Banks x * 32 + n / l1Banks x % 32) * 8

/-- The L1 copy of a line. -/
def l1Find (x : Exec) (t : Target) : Option (Nat × L1Line) :=
  (List.range 8).findSome? (fun w =>
    match alFind x.l1 (l1Base x t + w) with
    | some l => if l.target = t then some (l1Base x t + w, l) else none
    | none => none)

/-- Age of an L1 way. -/
def l1Age (x : Exec) (k : Nat) : Nat := ((alFind x.l1 k).map (·.age)).getD 3

/-- The victim way of a fill and the L1 after ageing (R249, R254). -/
def l1Victim (x : Exec) (b : Nat) : Nat × Exec :=
  let ks := (List.range 8).map (b + ·)
  match ks.find? (fun k => l1Age x k == 3) with
  | some k => (k, x)
  | none =>
    let top := ks.foldl (fun a k => max a (l1Age x k)) 0
    let x := ks.foldl (fun x k =>
      match alFind x.l1 k with
      | some l => { x with l1 := alPut x.l1 k { l with age := min 3 (l.age + (3 - top)) } }
      | none => x) x
    ((ks.find? (fun k => l1Age x k == 3)).getD b, x)

/-- Fill a line into the L1, offering the victim to its home (R248, R249, R266). -/
def l1Fill (s : State) (c part tenant : Nat) (t : Target) (h : Hint) (d : Line) (st : BitVec 24) (p : BitVec 2) : State :=
  if h = .dal then s
  else
    let x := execOf s c
    match l1Find x t with
    | some (k, l) => modExec s c (fun x => { x with l1 := alPut x.l1 k { l with data := d, stamp := st, poison := p } })
    | none =>
      let (k, x) := l1Victim x (l1Base x t)
      let line : L1Line := { target := t, data := d, age := fillAge h, stream := h == .stream, stamp := st,
                             poison := p, part := part, tenant := tenant }
      let old := alFind x.l1 k
      let x := { x with l1 := alPut x.l1 k line }
      match old with
      | none => modExec s c (fun _ => x)
      | some v =>
        if !v.target.isLoc || v.residency = 3 then modExec s c (fun _ => x)
        else if x.offers.length < 4 then
          modExec s c (fun _ => { x with offers := x.offers ++
            [{ target := v.target, data := v.data, stamp := v.stamp, stream := v.stream, part := v.part,
               tenant := v.tenant, poison := v.poison }] })
        else ccBump (modExec s c (fun _ => x)) (homeRegion s v.target.addr) v.part v.tenant ccOfferDec 1

/-- A load's value may have been taken already: at a home slice, or in another package or the host. -/
def Load.taken (l : Load) : Bool := l.got.isSome || !l.target.isLoc

/-- An L1 without lines: a load whose value is already taken does not fill it later (R229, R250). -/
def Exec.noL1 (x : Exec) : Exec :=
  { x with l1 := [], loads := x.loads.map (fun l => if l.taken then { l with nofill := true } else l) }

/-- Invalidate the whole L1 of a core, without offers (R250). -/
def l1Clear (s : State) (c : Nat) : State := modExec s c Exec.noL1

/-- Invalidate one line of a core's L1; a load of it that is outstanding does not fill it later (R223, R248). -/
def l1Drop (s : State) (c : Nat) (t : Target) : State :=
  modExec s c (fun x => { x with
    l1 := x.l1.filter (fun e => e.2.target != t)
    loads := x.loads.map (fun l => if l.target = t then { l with nofill := true } else l) })

/-! ### The write buffer (R219 to R221) -/

/-- Bytes that the write buffer holds for a line, newest entry last (R220). -/
def wbForward (x : Exec) (t : Target) (mask : LineMask) (d : Line) : LineMask × Line × Bool :=
  (x.wb.filter (fun e => e.target == t)).foldl (fun (a : LineMask × Line × Bool) e =>
    (a.1 ||| (e.mask &&& mask), lineMerge a.2.1 e.data e.mask, a.2.2 || (e.poison && e.mask &&& mask != 0)))
    (0, d, false)

/-- Entries of the write buffer that take its room: one that is sent has drained and waits for its acknowledgement under
its transaction's tag (R219, R334; log entry 143). -/
def wbUsed (x : Exec) : Nat := (x.wb.filter (fun e => !e.sent)).length

/-- Whether a waiting fence covers an entry (R232). -/
def covered (x : Exec) (id : Nat) : Bool := x.fences.any (fun f => f.covers.contains id)

/-- The entry that a store to this line merges into (R219): the line's newest, unless it is sent or a waiting fence covers
it, since a store that enters while the fence waits is none of the fence's (R232; log entry 143). -/
def wbMerge (x : Exec) (t : Target) : Option Nat :=
  match (x.wb.filter (fun e => e.target == t)).getLast? with
  | some e => if e.sent || covered x e.id then none else some e.id
  | none => none

/-- Whether a store to this line finds room: an entry to merge into, or fewer than 32 entries (R219). -/
def wbRoom (x : Exec) (t : Target) : Bool := (wbMerge x t).isSome || decide (wbUsed x < 32)

/-- Whether a group has an access outstanding, older than its store of this number, that can still end in a fault (R49,
R300, R332). -/
def mayFault (x : Exec) (slot seq : Nat) : Bool :=
  x.loads.any (fun l => l.slot == slot && decide (l.id < seq)) || x.atoms.any (fun a => a.slot == slot && decide (a.id < seq)) ||
  x.mmas.any (fun m => m.slot == slot && decide (m.id < seq) && (m.phase == .stream || !m.need.isEmpty))

/-- One more store in an entry: behind a late store, or of a group that `mayFault`, it is late itself. -/
def WbEntry.merge (e : WbEntry) (late : Bool) (slot id : Nat) (mask : LineMask) (d : Line) : WbEntry :=
  let e := { e with mask := e.mask ||| mask, data := lineMerge e.data d mask }
  if late || !e.late.isEmpty then { e with late := e.late ++ [{ slot := slot, seq := id, mask := mask, data := d }] }
  else { e with mask0 := e.mask, data0 := e.data }

/-- The stores of a group numbered above `seq` leave an entry: none when nothing else is in it. -/
def WbEntry.without (e : WbEntry) (slot seq : Nat) : Option WbEntry :=
  if e.late.any (fun l => l.slot == slot && decide (seq < l.seq)) then
    let late := e.late.filter (fun l => !(l.slot == slot && decide (seq < l.seq)))
    let m := late.foldl (fun m l => m ||| l.mask) e.mask0
    if m = 0 then none
    else some { e with late := late, mask := m, data := late.foldl (fun d l => lineMerge d l.data l.mask) e.data0,
                       writers := e.writers.filter (fun w => w.1 != slot || late.any (fun l => l.slot == slot) ||
                         decide (w.2 ≤ seq)) }
  else some e

/-- Enter bytes of one line into the write buffer (R219, see `wbMerge`); the entry keeps which groups stored into it and when
(R332): `place` is the store's place in its group's order where that is not the moment of its entry (a last drain write), and
a store fence that waits for that instruction then covers the entry (R229, R235). The first host store after a store fence of system scope is ordered (R240). -/
def wbStore (s : State) (c slot part tenant : Nat) (t : Target) (h : Hint) (mask : LineMask) (d : Line)
    (place : Option Nat := none) : State :=
  let (id, s) := takeSeq s
  let seq := place.getD id
  let x := execOf s c
  let node := match alFind x.groups slot with
    | some g => (match alFind x.blocks g.block with | some b => [b.task.node] | none => [])
    | none => []
  let isHost := match t with | .host _ => true | _ => false
  let late := mayFault x slot seq
  let waits (k : Nat) : List FenceWait := x.fences.map (fun f =>
    if f.mmas.contains seq && f.kind != .ld && (f.scope == .system || (f.scope == .device && !t.isRemote)) then
      { f with covers := k :: f.covers, hostRead := if f.scope == .system && isHost && f.hostRead = 0 then 1 else f.hostRead }
    else f)
  match wbMerge x t with
  | some k =>
    modExec s c (fun x => { x with
      fences := waits k
      wb := x.wb.map (fun e =>
        if e.id = k then
          { e.merge late slot seq mask d with
              writers := (slot, e.writers.foldl (fun n w => if w.1 = slot then max n w.2 else n) seq) :: e.writers.filter (fun w => w.1 != slot)
              nodes := (node ++ e.nodes).dedup
              ordered := e.ordered || (x.hostOrdered && isHost) }
        else e)
      hostOrdered := x.hostOrdered && !isHost })
  | none =>
    modExec s c (fun x =>
      let e : WbEntry := { id := id, target := t, tenant := tenant, part := part, mask := 0, data := 0, hint := h,
                           ordered := x.hostOrdered && isHost, writers := [(slot, seq)], nodes := node }
      { x with wb := x.wb ++ [e.merge late slot seq mask d], fences := waits id, hostOrdered := x.hostOrdered && !isHost })

/-! ### Reads and writes of the issuing path made in one step (Table 8.5) -/

/-- Read one line as a load of the issuing path: write buffer, then L1, then home (R220, R248). It waits while the core has
an atomic outstanding on the line (R223) and while its home cannot serve it (`homeReady`). -/
def pathLine (s : State) (c part tenant : Nat) (t : Target) (h : Hint) : Acc (Line × BitVec 2) × State :=
  let x := execOf s c
  let rt := coreIsRt s c
  if x.atoms.any (fun a => a.target.line == t) then (.wait, s)
  else
  match l1Find x t with
  | some (k, l) =>
    let s := modExec s c (fun x => { x with l1 := alPut x.l1 k { l with age := hitAge h } })
    let (_, d, wp) := wbForward x t (BitVec.allOnes 128) l.data
    (.ok (d, if wp then 3 else l.poison), s)
  | none =>
    match t with
    | .loc pa =>
      if !homeReady s pa part rt then (.wait, s)
      else
      let (d, st, p, s) := homeRead s pa part tenant h rt
      let s := l1Fill s c part tenant t h d st p
      let (_, d, wp) := wbForward x t (BitVec.allOnes 128) d
      (.ok (d, if wp then 3 else p), s)
    | .host a =>
      match tenantPasid s tenant with
      | none => (.fault .memAccess, s)
      | some pz =>
        match hostXlat s tenant pz a false with
        | (.fault, s) => (.fault .memAccess, s)
        | (.wait, s) => (.wait, s)
        | (.ok ha, s) =>
          match hostBytes s ha 128 with
          | (.ok b, s) =>
            let d := linePlace 0 b
            let s := l1Fill s c part tenant t h d 0 0
            let (_, d, wp) := wbForward x t (BitVec.allOnes 128) d
            (.ok (d, if wp then 3 else 0), s)
          | (.fault f, s) => (.fault f, s)
          | (.wait, s) => (.wait, s)
    | .remote pk a =>
      match remoteBytes s (c / 192) tenant pk a 128 with
      | (.ok b, s) =>
        let d := linePlace 0 b
        let s := l1Fill s c part tenant t h d 0 0
        let (_, d, wp) := wbForward x t (BitVec.allOnes 128) d
        (.ok (d, if wp then 3 else 0), s)
      | (.fault f, s) => (.fault f, s)
      | (.wait, s) => (.wait, s)

/-- Read bytes at a device virtual address as loads of the issuing path. -/
def pathReadChunks (c part tenant : Nat) (h : Hint) :
    List (Nat × Nat × Nat) → State → List Byte → Acc (List Byte) × State
  | [], s, acc => (.ok acc, s)
  | (va, off, n) :: r, s, acc =>
    match translate s tenant va .r with
    | none => (.fault .memAccess, s)
    | some t =>
      match pathLine s c part tenant t.line h with
      | (.ok (d, p), s) =>
        if p &&& maskSectors (maskOf off n) != 0 then (.fault .memPoison, s)
        else pathReadChunks c part tenant h r s (acc ++ lineSlice d off n)
      | (.fault f, s) => (.fault f, s)
      | (.wait, s) => (.wait, s)

/-- Read `n` bytes as loads of the issuing path (Table 8.5). -/
def pathRead (s : State) (c part tenant va n : Nat) : Acc (List Byte) × State :=
  pathReadChunks c part tenant .plain (chunksOf va n) s []

/-- Store bytes as stores of the issuing path: they enter the write buffer (R219). The pages must grant W. -/
def pathWrite (s : State) (c slot part tenant va : Nat) (bs : List Byte) : State :=
  ((chunksOf va bs.length).foldl (fun (acc : List Byte × State) k =>
    (acc.1.drop k.2.2,
     match translate acc.2 tenant k.1 .w with
     | some t => wbStore acc.2 c slot part tenant t.line .plain (maskOf k.2.1 k.2.2) (linePlace k.2.1 (acc.1.take k.2.2))
     | none => acc.2)) (bs, s)).2

end Sys2Proof.Machine
end

