-- ==== Sys2Proof/Machine/Operands.lean ====
section
/-! DEFINITION. Groups, paths and operands (spec chapters 06 and 07): which path issues, whether it is ready, its
lanes under the guard, reading and writing every operand kind, moving the path on, and raising a core's faults. -/

namespace Sys2Proof.Machine

/-! ### Nodes and jobs as cores see them -/

/-- Change a resident node. -/
def modNode (s : State) (n : Nat) (g : Node → Node) : State :=
  match alFind s.fe.nodes n with
  | some x => { s with fe.nodes := alPut s.fe.nodes n (g x) }
  | none => s

/-- Record the first failure of a node (R187, R366). -/
def failNode (s : State) (n : Nat) (f : FailInfo) : State :=
  modNode s n (fun x => match x.fail with
    | none => { x with fail := some { f with node := x.idx } }
    | some _ => x)

/-! ### Path sets (R167, R168) -/

/-- Paths ordered by program counter, equal states merged (R167). -/
def mergePath (p : Path) : List Path → List Path
  | [] => [p]
  | q :: r =>
    if q.pc == p.pc && q.bar == p.bar && q.stall == p.stall && q.released == p.released then { q with lanes := q.lanes ||| p.lanes } :: r
    else if p.pc < q.pc then p :: q :: r
    else q :: mergePath p r

/-- Merge a list of paths, dropping empty ones. -/
def mergePaths (ps : List Path) : List Path :=
  ps.foldl (fun acc p => if p.lanes = 0 then acc else mergePath { p with held := false } acc) []

/-- A path at a reconvergence point is held while another path that is not waiting at a barrier has a lower program
counter (R168). -/
def holdPaths (recon : List Nat) (ps : List Path) : List Path :=
  ps.map (fun p =>
    let lower := ps.any (fun q => q.bar.isNone && decide (q.pc < p.pc))
    { p with held := p.bar.isNone && recon.contains p.pc && lower })

/-- What makes two path sets the same (R167): lanes, holds and barrier waits. -/
def pathShape (ps : List Path) : List (Nat × Bool × Bool) :=
  ps.map (fun p => (p.lanes.toNat, p.held, p.bar.isSome))

/-- Whether two lists of paths are the same path set (R167). -/
def samePaths (ps qs : List Path) : Bool :=
  (pathShape qs).all (fun x => (pathShape ps).contains x) && decide (qs.length = ps.length)

/-- Give a group its paths; a change of the path set restarts the count of backward branches (R169). How long the choice of
a rotation lasts the spec does not say: it lasts until the path set changes or the group rotates again (DESIGN CHOICE, log
entry 144). -/
def setPaths (recon : List Nat) (g : Group) (ps : List Path) : Group :=
  let qs := holdPaths recon (mergePaths ps)
  if samePaths g.paths qs then { g with paths := qs } else { g with paths := qs, branches := 0, rotated := none }

/-- A path is eligible unless it waits at a barrier or is held (R167), or waits for a fence or a job, which stops no other
path of its group (R229). -/
def Path.eligible (p : Path) : Bool := p.bar.isNone && !p.held && p.stall == .go

/-- The current path (R168, R169): the one a rotation chose, otherwise the eligible path with the lowest program
counter; the list is in rising order of program counters. -/
def currentPath (g : Group) : Option Path :=
  match g.rotated with
  | some m =>
    match g.paths.find? (fun p => p.eligible && p.lanes == m) with
    | some p => some p
    | none => g.paths.find? Path.eligible
  | none => g.paths.find? Path.eligible

/-- Rotate a group (R169): the eligible path with the next higher program counter, or the lowest. -/
def rotateGroup (g : Group) : Group :=
  match currentPath g with
  | none => g
  | some p =>
    let es := g.paths.filter Path.eligible
    match es.find? (fun q => decide (p.pc < q.pc)) with
    | some q => { g with rotated := some q.lanes, branches := 0 }
    | none =>
      match es.head? with
      | some q => { g with rotated := some q.lanes, branches := 0 }
      | none => { g with branches := 0 }

/-! ### Room for blocks (R157, R160) -/

/-- Groups of a block of so many threads. -/
def groupsOf (threads : Nat) : Nat := ceilDiv threads 32

/-- Registers allocated per thread, A of R157. -/
def allocRegs (r : Nat) : Nat := 8 * ceilDiv r 8

/-- A block's registers exceed a core's register file (R160). -/
def regsExceed (threads r : Nat) : Bool := decide (262144 < groupsOf threads * allocRegs r * 128)

/-! ### Issue -/

/-- Everything an issuing instruction sees: the core, the group and its block, the current path, and the lanes that
take part under the guard (R192). -/
structure Ctx where
  core : Nat
  slot : Nat
  x : Exec
  g : Group
  b : Block
  p : Path
  act : List Nat
  next : Nat

/-- Lanes of a mask, lowest first. -/
def laneList (m : Lanes) : List Nat := (List.range 32).filter (fun i => m.getLsbD i)

/-- The mask of a list of lanes. -/
def laneMask (l : List Nat) : Lanes := l.foldl (fun m i => m ||| BitVec.ofNat 32 (1 <<< i)) 0

/-- Value of a predicate of a lane. -/
def predOf (g : Group) (n lane : Nat) : Bool :=
  alGet (match g.birth with | none => false | some b => (Config.startWord 0 b (2 ^ 20 + 32 * n + lane)).getLsbD 0)
    g.preds (32 * n + lane)

/-- Lanes of the path whose guard holds (R192). -/
def guardLanes (i : Iss) (g : Group) (p : Path) : List Nat :=
  (laneList p.lanes).filter (fun l => !i.guarded || (predOf g i.guard l != i.negated))

/-- Whether a core may issue: present, holding its own job's context, not draining, not halted, active (R391, R463,
R508, R456). -/
def coreRuns (x : Core) : Bool :=
  x.present && !x.draining && !x.halted && x.power == .active &&
    (match x.hold with | .saving _ => false | _ => true)

/-- The issue of an instruction by a group, if the group can issue (R163): it runs, no group of its block has met
BRK or a fault, its current path does not stall, and no rotation is due (R169). -/
def issue (s : State) (i : Iss) : Option Ctx :=
  let c := coreOf s i.core
  match alFind c.exec.groups i.slot with
  | none => none
  | some g =>
    match alFind c.exec.blocks g.block with
    | none => none
    | some b =>
      match currentPath g with
      | none => none
      | some p =>
        if coreRuns c && g.stop == .running && p.stall == .go && decide (g.branches < 64) then
          some { core := i.core, slot := i.slot, x := c.exec, g := g, b := b, p := p,
                 act := guardLanes i g p, next := p.pc + 16 + 8 * i.nx }
        else none

/-- Registers named by operands: %v numbers (a 64-bit operand names two). -/
def vRegs (wide : Bool) : Opd → List Nat
  | .v n => if wide then [n, n + 1] else [n]
  | _ => []

/-- %v registers of a group that outstanding loads and atomics will write (R164, R393). -/
def busyRegs (x : Exec) (slot : Nat) : List Nat :=
  (x.loads.filter (fun l => l.slot == slot)).flatMap (fun l => (List.range (max 1 (l.size / 4))).map (l.dst + ·)) ++
  (x.atoms.filter (fun a => a.slot == slot)).flatMap (fun a =>
    match a.dst with | some d => (List.range (max 1 (a.size / 4))).map (d + ·) | none => [])

/-- A range overlaps another. -/
def overlaps (r q : Nat × Nat) : Bool := decide (r.1 < q.1 + q.2) && decide (q.1 < r.1 + r.2)

/-- An access of a group to these ranges must wait for a matrix instruction of the core whose destination it meets, in the
shared local memory of the group's own block or in memory (R53, R108, R203). -/
def mmaClash (x : Exec) (slot : Nat) (slm : Bool) (rs : List (Nat × Nat)) : Bool :=
  let blk (k : Nat) : Option Nat := (alFind x.groups k).map (·.block)
  x.mmas.any (fun m => m.outSlm == slm && (!slm || blk m.slot == blk slot) && m.outs.any (fun o => rs.any (overlaps o)))

/-- Some matrix instruction of the core may still read one of these ranges after its issue (a turned stream, an escalation
source): what the path would write there, or do there as an atomic, waits until it has (R223, R227, R235). -/
def readAhead (x : Exec) (slot : Nat) (slm : Bool) (rs : List (Nat × Nat)) : Bool :=
  let blk (k : Nat) : Option Nat := (alFind x.groups k).map (·.block)
  x.mmas.any (fun m => (m.phase == .stream || !m.need.isEmpty) && m.later.any (fun r =>
    r.1 == slm && (!slm || blk m.slot == blk slot) && rs.any (overlaps r.2)))

/-- The operands of an instruction are ready: none waits for a load or atomic (R164). -/
def opsReady (c : Ctx) (regs : List Nat) : Bool := regs.all (fun r => !(busyRegs c.x c.slot).contains r)

/-! ### Reading operands -/

/-- Unspecified contents at a block's start (R161). -/
def startVal (tenant : Nat) (birth : Option Nat) (key : Nat) : Word :=
  match birth with
  | none => 0
  | some b => Config.startWord tenant b key

/-- %v n of a lane. -/
def vReg (c : Ctx) (n lane : Nat) : Word :=
  alGet (startVal c.b.task.tenant c.g.birth (32 * n + lane)) c.g.regs (32 * n + lane)

/-- %u n. -/
def uReg (c : Ctx) (n : Nat) : Word :=
  alGet (startVal c.b.task.tenant c.g.birth (2 ^ 16 + n)) c.g.uregs n

/-- A 64-bit uniform pair (R191). -/
def uReg64 (c : Ctx) (n : Nat) : Nat := (uReg c n).toNat + 2 ^ 32 * (uReg c (n + 1)).toNat

/-- A number that is an immediate or a uniform register. -/
def immU (c : Ctx) : ImmU → Nat
  | .imm x => x
  | .u n => (uReg c n).toNat

/-- A 32-bit operand in a lane. -/
def opdLane (c : Ctx) (o : Opd) (lane : Nat) : Word :=
  match o with
  | .v n => vReg c n lane
  | .u n => uReg c n
  | .p n => if predOf c.g n lane then 1 else 0
  | .imm x => x.setWidth 32
  | _ => 0

/-- A 64-bit operand in a lane: a pair, low half first (R191). -/
def opdLane64 (c : Ctx) (o : Opd) (lane : Nat) : DWord :=
  match o with
  | .v n => (vReg c (n + 1) lane ++ vReg c n lane)
  | .u n => (uReg c (n + 1) ++ uReg c n)
  | .p n => if predOf c.g n lane then 1 else 0
  | .imm x => x
  | _ => 0

/-- Whether reading an operand in these lanes meets a poisoned word (R474). -/
def opdPoison (c : Ctx) (wide : Bool) (o : Opd) : Bool :=
  match o with
  | .v n => c.act.any (fun l => c.g.regPoison.contains (32 * n + l) || (wide && c.g.regPoison.contains (32 * (n + 1) + l)))
  | .u n => c.g.uregPoison.contains n || (wide && c.g.uregPoison.contains (n + 1))
  | .p n => c.act.any (fun l => c.g.predPoison.contains (32 * n + l))
  | .t n => c.g.handlePoison.contains n
  | _ => false

/-- Whether any of the operands read is poisoned, the guard among them (R474). -/
def anyPoison (c : Ctx) (i : Iss) (narrow wide : List Opd) : Bool :=
  (i.guarded && (laneList c.p.lanes).any (fun l => c.g.predPoison.contains (32 * i.guard + l))) ||
  narrow.any (opdPoison c false) || wide.any (opdPoison c true)

/-! ### Writing operands -/

/-- Put a group back. -/
def putGroup (s : State) (c : Ctx) (g : Group) : State :=
  modExec s c.core (fun x => { x with groups := alPut x.groups c.slot g })

/-- Write %v n of lanes; whole words written lose their poison (R474). -/
def setV (g : Group) (n : Nat) (vals : List (Nat × Word)) : Group :=
  { g with
    regs := vals.foldl (fun m e => alPut m (32 * n + e.1) e.2) g.regs
    regPoison := g.regPoison.filter (fun k => !(vals.any (fun e => 32 * n + e.1 == k))) }

/-- Write %p n of lanes. -/
def setP (g : Group) (n : Nat) (vals : List (Nat × Bool)) : Group :=
  { g with
    preds := vals.foldl (fun m e => alPut m (32 * n + e.1) e.2) g.preds
    predPoison := g.predPoison.filter (fun k => !(vals.any (fun e => 32 * n + e.1 == k))) }

/-- Write %u n. -/
def setU (g : Group) (n : Nat) (v : Word) : Group :=
  { g with uregs := alPut g.uregs n v, uregPoison := g.uregPoison.filter (fun k => k != n) }

/-- One value for a uniform destination: the lanes' common value; a free value where they differ, since the spec
states none (log entry 17). -/
def uniformVal (free : DWord) (vals : List (Nat × Word)) : Option Word :=
  match vals with
  | [] => none
  | (_, v) :: r => if r.all (fun e => e.2 == v) then some v else some (free.setWidth 32)

/-- Write 32-bit lane values to a destination. -/
def writeD (s : State) (g : Group) (d : Opd) (vals : List (Nat × Word)) : Group :=
  match d with
  | .v n => setV g n vals
  | .p n => setP g n (vals.map (fun e => (e.1, e.2.getLsbD 0)))
  | .u n => match uniformVal (Config.fresh s.freeCtr) vals with | some v => setU g n v | none => g
  | _ => g

/-- Write 64-bit lane values to a destination pair. -/
def writeD64 (s : State) (g : Group) (d : Opd) (vals : List (Nat × DWord)) : Group :=
  let lo := vals.map (fun (e : Nat × DWord) => (e.1, BitVec.setWidth 32 e.2))
  let hi := vals.map (fun (e : Nat × DWord) => (e.1, BitVec.extractLsb' 32 32 e.2))
  match d with
  | .v n => setV (setV g n lo) (n + 1) hi
  | .u n =>
    match uniformVal (Config.fresh s.freeCtr) lo, uniformVal (Config.fresh (s.freeCtr + 1)) hi with
    | some a, some b => setU (setU g n a) (n + 1) b
    | _, _ => g
  | .p n => setP g n (vals.map (fun e => (e.1, e.2.getLsbD 0)))
  | _ => g

/-- Count the free values a write to a uniform destination may have used. -/
def usedFree (s : State) (d : Opd) : State :=
  match d with
  | .u _ => { s with freeCtr := s.freeCtr + 2 }
  | _ => s

/-! ### Moving on -/

/-- The current path's program counter becomes `pc`; the path set is formed again. -/
def movePath (c : Ctx) (g : Group) (pc : Nat) : Group :=
  setPaths c.b.task.recon g
    (g.paths.map (fun q => if q.lanes = c.p.lanes then { q with pc := pc, released := false } else q))

/-- The current path stalls after moving on. -/
def movePathStall (c : Ctx) (g : Group) (pc : Nat) (st : Stall) : Group :=
  setPaths c.b.task.recon g
    (g.paths.map (fun q => if q.lanes = c.p.lanes then { q with pc := pc, stall := st, released := false } else q))

/-- The fence before the current path's instruction has ended: the instruction may issue. -/
def releasePath (c : Ctx) (g : Group) : Group :=
  setPaths c.b.task.recon g (g.paths.map (fun q => if q.lanes = c.p.lanes then { q with released := true } else q))

/-- An instruction without other effects: the path moves past it. -/
def advance (s : State) (c : Ctx) (g : Group) : State := putGroup s c (movePath c g c.next)

/-! ### Ends of blocks and faults -/

/-- The slot number of matrix instructions whose group has left its slot. -/
def noSlot : Nat := 65536

/-- Remove a block and its groups from a core (its instructions in the array run to their last writes), deregister the kernel when it was the last block of it (R212), and
count the block as done in its node. -/
def endBlock (s : State) (core blk : Nat) : State :=
  match alFind (execOf s core).blocks blk with
  | none => s
  | some b =>
    let s := modExec s core (fun x =>
      let slots := (x.groups.filter (fun e => e.2.block == blk)).map (·.1)
      let blocks := alDel x.blocks blk
      let keep := blocks.any (fun e => e.2.task.image == b.task.image && e.2.task.kernel == b.task.kernel)
      { x with
        blocks := blocks
        groups := alFilter x.groups (fun _ g => g.block != blk)
        loads := x.loads.filter (fun l => !slots.contains l.slot)
        fences := x.fences.filter (fun f => !slots.contains f.slot)
        atoms := (x.atoms.filter (fun a => !(slots.contains a.slot && a.after.isSome))).map
          (fun a => if slots.contains a.slot then { a with slot := noSlot, dst := none } else a)
        mmas := x.mmas.map (fun m => if slots.contains m.slot then { m with slot := noSlot } else m)
        subs := if keep then x.subs
                else x.subs.filter (fun t => !(t.1 == b.task.image && t.2.1 == b.task.kernel)) })
    modNode s b.task.node (fun n => { n with liveBlocks := n.liveBlocks - 1, doneBlocks := n.doneBlocks + 1 })

/-- Fault codes of completion records (Table 12.10). -/
def faultCode : DevFault → Nat
  | .none => 0
  | .arrayShape => 0x0101
  | .arrayAxis => 0x0102
  | .operandAlign => 0x0103
  | .formatReserved => 0x0104
  | .escSource => 0x0105
  | .scaleRecord => 0x0106
  | .epiDescriptor => 0x0107
  | .epiRange => 0x0108
  | .descInvalid => 0x0109
  | .handleInvalid => 0x010A
  | .stashRange => 0x010B
  | .memAccess => 0x010C
  | .divergentCollective => 0x010D
  | .barrierCount => 0x010E
  | .slmAlign => 0x010F
  | .slmRange => 0x0110
  | .loopDepth => 0x0111
  | .memPoison => 0x0112
  | .remoteAccess => 0x0201
  | .remoteTimeout => 0x0202
  | .remoteUnreachable => 0x0203
  | .remoteWriteRejected => 0x0204
  | .epilogueIncomplete => 0x0301
  | .versionNotCaptured => 0x0302
  | .blockUnplaceable => 0x0303
  | .imageInvalid => 0x0304
  | .descriptorInvalid => 0x0305
  | .flagNotGranted => 0x0306
  | .nodeInvalid => 0x0307
  | .graphHeader => 0x0401
  | .graphAddr => 0x0402

/-- A precise fault of the core (R187, R218): the block ends, no further block of the task is dispatched, and the node
will complete with status FAULT naming the fault, the place, the Lysril offset and the lanes. -/
def raiseFaultAt (s : State) (core slot pc : Nat) (lanes : Lanes) (f : DevFault) : State :=
  match alFind (execOf s core).groups slot with
  | none => s
  | some g =>
    match alFind (execOf s core).blocks g.block with
    | none => s
    | some b =>
      let s := if f = .memPoison then poisonConsumed s b.task.tenant else s
      let s := if f = .scaleRecord then raiseEv s b.task.tenant gSV 4 none else s
      let s := traceEmit s 8 0 (locOf core) (some b.task.tenant) b.task.tag (faultCode f + 2 ^ 16 * pc)
      endBlock (failNode s b.task.node
        { status := .fault, fault := f, loc := locOf core, pc := pc, lanes := lanes.toNat }) core g.block

/-- A fault of the issuing instruction. -/
def raiseFault (s : State) (c : Ctx) (f : DevFault) : State :=
  raiseFaultAt s c.core c.slot c.p.pc c.p.lanes f

/-- Physical address of a native byte of an image. -/
def codePa (i : Image) (off : Nat) : Option Nat :=
  if i.bytes ≤ off then none else (i.region[off / 65536]?).map (fun g => g * 65536 + off % 65536)

/-- Native instructions of a Lysril instruction of a task: from its entry of the line map, which rises in both offsets, to the
next entry, or to the end of the variant's code (R216). -/
def nativeSpan (t : TaskCtx) (pc : Nat) : List Nat :=
  match t.lines.find? (fun e => e.1 == pc) with
  | none => []
  | some e =>
    let stop := ((t.lines.filter (fun f => decide (e.2 < f.2))).map (·.2)).foldl min (max t.nend (e.2 + 1))
    (List.range (ceilDiv (stop - e.2) 16)).map (fun k => e.2 + 16 * k)

/-- The lines that hold the native instructions of the path's next instruction, as instruction stores name them. -/
def nativeLines (c : Ctx) : List (Nat × Nat × Nat) :=
  (((nativeSpan c.b.task c.p.pc).map (· / 64)).dedup).map (fun k => (c.b.task.image, c.b.task.variant, k))

/-- The 64 bytes that a store or cache of native code holds of a line. Both variants of a kernel lie in the image's code at
offsets of their own (R206), so a line of the image belongs to one variant. -/
def codeOf (code : List (Nat × Nat × List Byte)) (image line : Nat) : List Byte :=
  ((code.find? (fun e => e.1 == image && e.2.1 == line)).map (·.2.2)).getD []

/-- Replace what is held of a line. -/
def putCode (code : List (Nat × Nat × List Byte)) (image line : Nat) (b : List Byte) : List (Nat × Nat × List Byte) :=
  (image, line, b) :: code.filter (fun e => !(e.1 == image && e.2.1 == line))

/-- An instruction store holds BRK at a native offset: sixteen bytes of 0xFF (R215). -/
def isBrk (x : Exec) (image npc : Nat) : Bool :=
  ((codeOf x.code image (npc / 64)).drop (npc % 64)).take 16 == List.replicate 16 0xFF

/-- The instruction store holds BRK at a native instruction of the path's next instruction (R215). -/
def brkAhead (c : Ctx) : Bool :=
  (nativeSpan c.b.task c.p.pc).any (isBrk c.x c.b.task.image)

/-- A core that misses in its instruction store requests the line from its sequencer, once (R213). -/
def requestLine (s : State) (core : Nat) (l : Nat × Nat × Nat) : State :=
  modCluster s (coreCluster core) (fun k => if k.requests.contains l then k else { k with requests := k.requests ++ [l] })

/-- A line becomes the most recently used of an instruction store of 512 lines (R214). -/
def storeTouch (l : Nat × Nat × Nat) (st : List (Nat × Nat × Nat)) : List (Nat × Nat × Nat) :=
  (l :: st.filter (fun x => x != l)).take 512

/-- An instruction's lines become the most recently used. -/
def touchLines (s : State) (core : Nat) (ls : List (Nat × Nat × Nat)) : State :=
  if ls.isEmpty then s else modExec s core (fun x => { x with istore := ls.foldl (fun st l => storeTouch l st) x.istore })

/-- Run an issuing instruction: nothing happens when the group cannot issue or an operand register is not ready; a
miss in the instruction store requests the line; a poisoned operand is MEM_POISON (R474). `dst` are the %v registers
it writes. -/
def issueWith (s : State) (i : Iss) (dst : List Nat) (narrow wide : List Opd) (k : State → Ctx → State) : State :=
  match issue s i with
  | none => s
  | some c =>
    if !opsReady c (dst ++ narrow.flatMap (vRegs false) ++ wide.flatMap (vRegs true)) then s
    else
      let go (s : State) : State :=
        if anyPoison c i narrow wide then raiseFault s c .memPoison
        else k (ctrAdd s (blkKey 0 i.core) 0x03 1 none) c
      match (nativeLines c).find? (fun l => !c.x.istore.contains l) with
      | some l => requestLine (ctrAdd s (blkKey 0 i.core) 0x10 1 none) i.core l
      | none => if brkAhead c then s else go (touchLines s i.core (nativeLines c))

/-- Whether an instruction names FP64 on a part without the lanes (R166). -/
def f64Absent (s : State) : Bool := !s.units.testBit 2

/-- An FP64 instruction on a part without FP64 lanes is handled as an absent unit (R7, R18, R166): its task completes
with status UNIT_ABSENT. -/
def absentUnit (s : State) (i : Iss) : State :=
  match issue s i with
  | none => s
  | some c =>
    endBlock (failNode s c.b.task.node
      { status := .unitAbsent, loc := locOf c.core, pc := c.p.pc, lanes := c.p.lanes.toNat }) c.core c.g.block

/-- Absent lanes of a collective (R173, R174): the fault unless every lane of the launch mask takes part or .PARTIAL
is given. -/
def collective (s : State) (c : Ctx) (part : Bool) (k : State) : State :=
  if part || laneMask c.act == c.g.launch then k else raiseFault s c .divergentCollective

end Sys2Proof.Machine
end

