-- ==== Sys2Proof/Machine/LoadStore.lean ====
section
/-! DEFINITION. Loads, stores, atomics and fences (spec chapters 08 and 09, R180 to R183, R199): issue at a core, the
write buffer, outstanding accesses, and their end at home slices, other packages and the host. -/

namespace Sys2Proof.Machine

/-! ### Operands of memory instructions -/

/-- Bytes of an access (R199). -/
def accBytes (q : MemQ) : Nat := 2 ^ q.size

/-- The 32-bit operands that hold `n` bytes starting at register operand `o`. -/
def spanOpds (o : Opd) (n : Nat) : List Opd :=
  match o with
  | .v r => (List.range (max 1 (n / 4))).map (fun k => .v (r + k))
  | .u r => (List.range (max 1 (n / 4))).map (fun k => .u (r + k))
  | x => [x]

/-- The `n` bytes of a source operand in a lane (R191, R11). -/
def opdBytes (c : Ctx) (o : Opd) (n lane : Nat) : List Byte :=
  match o with
  | .imm x => leBytes n x.toNat
  | _ => ((spanOpds o n).flatMap (fun r => leBytes 4 (opdLane c r lane).toNat)).take n

/-- A device virtual address, or a byte offset in shared local memory, in a lane. -/
def addrOf (c : Ctx) (q : MemQ) (a : Opd) (lane : Nat) : Nat :=
  if q.slm then (opdLane c a lane).toNat else (opdLane64 c a lane).toNat

/-- Address operands by width: a pair for device memory, a word for shared local memory. -/
def addrNarrow (q : MemQ) (a : Opd) : List Opd := if q.slm then [a] else []
/-- See `addrNarrow`. -/
def addrWide (q : MemQ) (a : Opd) : List Opd := if q.slm then [] else [a]

/-- Write bytes `off` to `off + bs.length − 1` of a loaded value of `size` bytes into the registers from %v d of a lane.
Bits above a value narrower than a register are free: the spec states no extension (log entry 21). -/
def writeLoaded (free : DWord) (g : Group) (d lane size off : Nat) (bs : List Byte) : Group :=
  let words := max 1 (size / 4)
  (List.range words).foldl (fun g w =>
    let key := 32 * (d + w) + lane
    let old := leBytes 4 ((alGet 0 g.regs key).toNat)
    let fr := leBytes 4 free.toNat
    let new := (List.range 4).map (fun k =>
      let j := 4 * w + k
      if decide (off ≤ j) && decide (j < off + bs.length) then bs.getD (j - off) 0
      else if size ≤ j then fr.getD k 0
      else old.getD k 0)
    setV g (d + w) [(lane, BitVec.ofNat 32 (leNat new))]) g

/-! ### Shared local memory (R161, R180 to R183) -/

/-- A byte of a block's shared local memory. -/
def slmByte (b : Block) (a : Nat) : Byte :=
  alGet (match b.birth with
    | none => 0
    | some n => BitVec.ofNat 8 ((Config.startWord b.task.tenant n (2 ^ 24 + a / 4)).toNat >>> (8 * (a % 4)))) b.slm a

/-- Bytes of shared local memory. -/
def slmRead (b : Block) (a n : Nat) : List Byte := (List.range n).map (fun k => slmByte b (a + k))

/-- Writes of one instruction to shared local memory, in order; a poisoned 64-bit word that they cover whole loses its poison
(Table 17.1, R474). -/
def slmStore (b : Block) (ws : List (Nat × List Byte)) : Block :=
  let covered (k : Nat) : Bool := ws.any (fun w => decide (w.1 ≤ k) && decide (k < w.1 + w.2.length))
  { b with
    slm := ws.foldl (fun m w => (List.range w.2.length).foldl (fun m k => alPut m (w.1 + k) (w.2.getD k 0)) m) b.slm
    slmPoison := b.slmPoison.filter (fun w => !(List.range 8).all (fun k => covered (8 * w + k))) }

/-- Write bytes of shared local memory. -/
def slmWrite (b : Block) (a : Nat) (bs : List Byte) : Block := slmStore b [(a, bs)]

/-- Whether a read touches a poisoned 64-bit word. -/
def slmBad (b : Block) (a n : Nat) : Bool := b.slmPoison.any (fun w => decide (a < 8 * w + 8) && decide (8 * w < a + n))

/-- The fault of a shared-local-memory access, if any: alignment before range (Table 7.11). -/
def slmFault (c : Ctx) (q : MemQ) (a : Opd) : Option DevFault :=
  let n := accBytes q
  if c.act.any (fun l => addrOf c q a l % n != 0) then some .slmAlign
  else if c.act.any (fun l => decide (c.b.task.slmKib * 1024 < addrOf c q a l + n)) then some .slmRange
  else none

/-- Passes of the accesses of some lanes to these words (R181): the most distinct words that one bank is asked for. -/
def bankPasses (ws : List Nat) : Nat :=
  ((List.range 32).map (fun b => ((ws.filter (fun w => w % 32 == b)).dedup).length)).foldl max 0

/-- Passes of an access of `n` bytes by lanes (lane, address): 8 bytes go by halves and 16 bytes by quarters (R181, R182). -/
def slmPasses (n : Nat) (as : List (Nat × Nat)) : Nat :=
  let parts := if n ≤ 4 then 1 else n / 4
  let words (a : Nat) : List Nat := (List.range (max 1 (n / 4))).map (a / 4 + ·)
  (List.range parts).foldl (fun k i =>
    k + bankPasses ((as.filter (fun e => e.1 / (32 / parts) == i)).flatMap (fun e => words e.2))) 0

/-- Lanes that name a word already named by a lower lane: CAS and EXCH take one pass more for each (R183). -/
def slmRepeats (as : List (Nat × Nat)) : Nat := as.length - ((as.map (·.2 / 4)).dedup).length

/-- Count the extra passes of an access to shared local memory (R181, Table 18.3). -/
def slmCount (s : State) (c : Ctx) (passes : Nat) : State :=
  ctrAdd s (blkKey 0 c.core) 0x0C (passes - 1) (some c.b.task.part)

/-- Put a block back. -/
def putBlock (s : State) (c : Ctx) (b : Block) : State :=
  modExec s c.core (fun x => { x with blocks := alPut x.blocks c.g.block b })

/-! ### Device, remote and host accesses: translation at issue -/

/-- One piece of a lane's access: lane, first byte of the value, count, target. -/
structure Piece where
  lane : Nat
  off : Nat
  n : Nat
  t : Target
  deriving DecidableEq, Repr

/-- The pieces of a lane's access: it splits at line boundaries (R226). -/
def lanePieces (s : State) (tenant : Nat) (need : Right) (lane va n : Nat) : List (Option Piece) :=
  ((chunksOf va n).foldl (fun (acc : Nat × List (Option Piece)) k =>
    (acc.1 + k.2.2, acc.2 ++ [(translate s tenant (k.1 + k.2.1) need).map
      (fun t => { lane := lane, off := acc.1, n := k.2.2, t := t })])) (0, [])).2

/-- The pieces of every lane, or the fault that stops the instruction at issue (R286, R330). -/
def allPieces (s : State) (tenant : Nat) (need : Right) (as : List (Nat × Nat)) (n : Nat) :
    Except DevFault (List Piece) :=
  let ps := as.flatMap (fun e => lanePieces s tenant need e.1 e.2 n)
  if ps.any (·.isNone) then .error .memAccess
  else
    let qs := ps.filterMap id
    if qs.any (fun p => match p.t with | .host _ => (tenantPasid s tenant).isNone | _ => false) then .error .memAccess
    else if qs.any (fun p => match p.t with | .remote k _ => !reachable s k | _ => false) then .error .remoteUnreachable
    else .ok qs

/-- The lines of a list of pieces, first use first. -/
def pieceLines (ps : List Piece) : List Target :=
  ps.foldl (fun acc p => if acc.contains p.t.line then acc else acc ++ [p.t.line]) []

/-- Report a remote access that had no route at issue. -/
def noteFault (s : State) (tenant : Nat) (ps : List (Option Target)) (f : DevFault) : State :=
  if f = .remoteUnreachable then
    match ps.findSome? (fun t => match t with
      | some (.remote k a) => if reachable s k then none else some (k, a)
      | _ => none) with
    | some (k, a) => lnkErr s tenant 0 k 7 (a / 128)
    | none => s
  else s

/-! ### Stride detectors and prefetch (R261 to R264) -/

/-- One access of a detector (Table 9.4). -/
def detStep (d : Detector) (a : Int) : Detector :=
  let b := d.last
  if a = b && d.st != .free then d
  else
    let dist := a - b
    let inRange := decide (1 ≤ dist.natAbs) && decide (dist.natAbs ≤ 64)
    let restart : Detector := { d with last := a, stride := dist, run := 0, depth := 4, upto := a,
                                       st := if inRange then .train 0 else .seen }
    match d.st with
    | .free => { d with last := a, st := .seen }
    | .seen => restart
    | .train c =>
      if dist = d.stride then
        if 2 ≤ c + 1 then { d with last := a, run := d.run + 1, st := .active, upto := a }
        else { d with last := a, run := d.run + 1, st := .train (c + 1) }
      else restart
    | .active =>
      if dist = d.stride then
        let run := d.run + 1
        { d with last := a, run := run, depth := if 16 ≤ run then 8 else d.depth }
      else restart

/-- Lines that an ACTIVE detector still has to request: beyond both the last access and what was requested, up to the
depth, in the page of the access (R263). -/
def detWants (d : Detector) : List Int :=
  if d.st != .active then []
  else
    (List.range d.depth).filterMap (fun k =>
      let l := d.last + (k + 1) * d.stride
      let beyond := if 0 < d.stride then decide (d.upto < l) else decide (l < d.upto)
      if beyond && decide (0 ≤ l) && decide (l / 512 = d.last / 512) then some l else none)

/-- The read of a line that a controller has in flight and that no later write to the line has overtaken (R264, R265,
R293). -/
def liveRead (s : State) (h pa : Nat) : Option Nat :=
  ((ctlOf s h).reads.find? (fun m => m.pa == pa && !m.stale)).map (·.id)

/-- A prefetch request at the line's home (R264): dropped when the line is in the slice or side buffer, or on its way. -/
def prefetchLine (s : State) (part tenant va : Nat) : State :=
  match translate s tenant va .r with
  | some (.loc pa) =>
    match homeSlice s pa, homeOf s pa with
    | some (r, set, tag), some (h, _) =>
      let x := regionOf s r
      if (findWay x set tag).isSome || (sideOf x pa).isSome || (liveRead s h pa).isSome then s
      else
        let id := s.mem.nextRead
        let s := { s with mem.nextRead := id + 1 }
        let s := modCtl s h (fun m => { wakeCtl m s.time with reads := m.reads ++
          [{ id := id, pa := pa, part := part, tenant := tenant, rt := false, kind := .prefetch, since := s.time }] })
        ccBump s r part tenant ccPrefIssued 1
    | _, _ => s
  | _ => s

/-- A core's 16 detectors see the lines of a load (R261): the stream's detector, a free one, or the least recently
used. -/
def detectorLoad (s : State) (core slot stream part tenant : Nat) (line : Nat) : State :=
  let x := execOf s core
  let (n, s) := takeSeq s
  let fresh : Detector := { slot := slot, stream := stream }
  let dets := x.dets
  let dets := if dets.any (fun d => d.slot == slot && d.stream == stream) then dets
    else if dets.length < 16 then dets ++ [fresh]
    else
      let oldest := dets.foldl (fun m d => min m d.used) n
      (dets.filter (fun d => d.used != oldest)) ++ [fresh]
  match dets.find? (fun d => d.slot == slot && d.stream == stream) with
  | none => s
  | some d =>
    let d := { detStep d line with used := n }
    let wants := detWants d
    let d := match wants.getLast? with | some l => { d with upto := l } | none => d
    let dets := dets.map (fun e => if e.slot == slot && e.stream == stream then d else e)
    let s := modExec s core (fun x => { x with dets := dets })
    wants.foldl (fun s l => prefetchLine s part tenant (l.toNat * 128)) s

/-! ### Loads -/

/-- Ask the line's controller for it, unless it is in the slice or side buffer or on its way (R265). -/
def demandLine (s : State) (pa part tenant : Nat) (rt : Bool) (h : Hint) : State :=
  match homeSlice s pa, homeOf s pa with
  | some (r, set, tag), some (k, _) =>
    let x := regionOf s r
    if (findWay x set tag).isSome || (sideOf x pa).isSome || (liveRead s k pa).isSome then s
    else
      let id := s.mem.nextRead
      modCtl { s with mem.nextRead := id + 1 } k (fun m => { wakeCtl m s.time with reads := m.reads ++
        [{ id := id, pa := pa, part := part, tenant := tenant, rt := rt, kind := .demand h, since := s.time }] })
  | _, _ => s

/-- A load waits for the read of its line that is in flight. -/
def joinRead (s : State) (core id pa : Nat) : State :=
  let k := ((homeOf s pa).bind (fun h => liveRead s h.1 pa))
  modExec s core (fun x => { x with loads := x.loads.map (fun m => if m.id = id then { m with read := k } else m) })

/-- The read that a load waits for is still at its controller. -/
def readWaits (s : State) (l : Load) : Bool :=
  match l.target, l.read with
  | .loc pa, some id => ((homeOf s pa).map (fun h => (ctlOf s h.1).reads.any (fun m => m.id == id))).getD false
  | _, _ => false

/-- Send a load to its home, its package or the host. -/
def sendLoad (s : State) (core : Nat) (node : Nat) (l : Load) : State :=
  match l.target with
  | .loc pa => joinRead (demandLine s pa l.part l.tenant (nodeIsRt s node) l.hint) core l.id pa
  | .remote pk a =>
    let (tag, s) := openTxn s core .load l.id l.tenant node l.target
    bump (sendMsg s (reqMsg s 0x1 pk a l.tenant tag)) l.tenant lnkRd 1
  | .host a =>
    match tenantPasid s l.tenant with
    | none => modExec s core (fun x => { x with loads := x.loads.map (fun m =>
        if m.id = l.id then { m with failed := some .memAccess, waitXlat := false } else m) })
    | some pz =>
      match hostXlat s l.tenant pz a false with
      | (.ok ha, s) =>
        let (_, s) := openTxn s core .load l.id l.tenant node (.host ha)
        modExec s core (fun x => { x with loads := x.loads.map (fun m =>
          if m.id = l.id then { m with waitXlat := false } else m) })
      | (.wait, s) => modExec s core (fun x => { x with loads := x.loads.map (fun m =>
          if m.id = l.id then { m with waitXlat := true } else m) })
      | (.fault, s) => modExec s core (fun x => { x with loads := x.loads.map (fun m =>
          if m.id = l.id then { m with failed := some .memAccess, waitXlat := false } else m) })

/-- Bytes of a line that a lane's piece names, write-buffer bytes first (R220). -/
def pieceBytes (d fwd : Line) (fm : LineMask) (pos n : Nat) : List Byte := lineSlice (lineMerge d fwd fm) pos n

/-- One line of a load at issue: an L1 hit gives its value at once, anything else becomes an outstanding load. A .DAL
load invalidates the core's own copy and goes to the home (Table 9.2). -/
def loadLine (s : State) (c : Ctx) (q : MemQ) (dst : Nat) (t : Target) (ps : List Piece) : State :=
  let x := execOf s c.core
  let mine := ps.filter (fun p => p.t.line == t)
  let mask := mine.foldl (fun (m : LineMask) p => m ||| maskOf (p.t.addr % 128) p.n) 0
  let (fm, fd, fp) := wbForward x t mask 0
  let s := ctrAdd s (blkKey 0 c.core) 0x0A 1 none
  let s := if q.hint = .dal then l1Drop s c.core t else s
  let x := execOf s c.core
  match (if q.hint = .dal || x.loads.any (fun l => l.target == t) then none else l1Find x t) with
  | some (k, l) =>
    let (fr, s) := if q.size < 2 then takeFree s else (0, s)
    modExec s c.core (fun x =>
      let g := mine.foldl (fun g p =>
        writeLoaded fr g dst p.lane (accBytes q) p.off (pieceBytes l.data fd fm (p.t.addr % 128) p.n))
        (alGet c.g x.groups c.slot)
      { x with groups := alPut x.groups c.slot g, l1 := alPut x.l1 k { l with age := hitAge q.hint } })
  | none =>
    let s := ctrAdd s (blkKey 0 c.core) 0x0B 1 none
    let (id, s) := takeSeq s
    let l : Load := { id := id, slot := c.slot, pc := c.p.pc, dst := dst, size := accBytes q, hint := q.hint, target := t,
                      tenant := c.b.task.tenant, part := c.b.task.part, fwdMask := fm, fwd := fd, fwdPoison := fp,
                      lanes := mine.map (fun p => { lane := p.lane, off := p.off, n := p.n, pos := p.t.addr % 128 }) }
    let s := modExec s c.core (fun x => { x with loads := x.loads ++ [l] })
    sendLoad s c.core c.b.task.node l

/-- Whether an L1 hit of the load, or a byte forwarded to it, is poisoned. -/
def loadBad (c : Ctx) (q : MemQ) (ps : List Piece) : Bool :=
  ps.any (fun p =>
    let m := maskOf (p.t.addr % 128) p.n
    let (fm, _, fp) := wbForward c.x p.t.line m 0
    fp || (q.hint != .dal && fm != m &&
      (match l1Find c.x p.t.line with | some (_, l) => l.poison &&& maskSectors m != 0 | none => false)))

/-- A load waits while the core has an atomic outstanding on one of its lines (R223). -/
def atomBusy (x : Exec) (ps : List Piece) : Bool :=
  ps.any (fun p => x.atoms.any (fun a => a.target.line == p.t.line))

/-- LD (R180, R199, R220, R226, R248, R261): shared local memory at once; otherwise every line is looked up, and what
misses is requested from the home, the remote package or the host. -/
def execLd (i : Iss) (q : MemQ) (d a : Opd) (s : State) : Host.Outcome State Fault Refusal :=
  completes s (issueWith s i ((spanOpds d (accBytes q)).flatMap (vRegs false)) (addrNarrow q a) (addrWide q a) (fun s c =>
    let dst := match d with | .v n => n | _ => 0
    if mmaClash c.x c.slot q.slm (c.act.map (fun l => (addrOf c q a l, accBytes q))) then s
    else if q.slm then
      match slmFault c q a with
      | some f => raiseFault s c f
      | none =>
        if c.act.any (fun l => slmBad c.b (addrOf c q a l) (accBytes q)) then raiseFault s c .memPoison
        else
          let s := slmCount s c (slmPasses (accBytes q) (c.act.map (fun l => (l, addrOf c q a l))))
          let (fr, s) := if q.size < 2 then takeFree s else (0, s)
          advance s c (c.act.foldl (fun g l =>
            writeLoaded fr g dst l (accBytes q) 0 (slmRead c.b (addrOf c q a l) (accBytes q))) c.g)
    else
      let as := c.act.map (fun l => (l, addrOf c q a l))
      match allPieces s c.b.task.tenant .r as (accBytes q) with
      | .error f => raiseFault (noteFault s c.b.task.tenant
          (as.map (fun e => translate s c.b.task.tenant e.2 .r)) f) c f
      | .ok ps =>
        if atomBusy c.x ps || !tagsFree s (coreDie c.core) ((pieceLines ps).filter (fun t => !t.isLoc)).length then s
        else if loadBad c q ps then raiseFault s c .memPoison
        else
          let train (s : State) : State :=
            if q.hint = .dal then s
            else as.foldl (fun s e =>
              match translate s c.b.task.tenant e.2 .r with
              | some (.loc _) =>
                detectorLoad s c.core c.slot (c.p.pc / 16 % 16) c.b.task.part c.b.task.tenant (e.2 / 128)
              | _ => s) s
          let s := train (advance s c c.g)
          (pieceLines ps).foldl (fun s t => loadLine s c q dst t ps) s))

/-- A fault that an access in flight meets after its issue: the younger stores of its group leave the write buffer, from
which none of them has drained (`heldBack`), its younger atomics, of which none has been performed (`atomHeld`), are not
performed, and its younger matrix instructions leave the array (R49, R245, R300, R332, Table 16.7). -/
def lateFault (s : State) (core id slot pc : Nat) (lanes : Lanes) (f : DevFault) : State :=
  raiseFaultAt (modExec s core (fun x => { x with
      wb := x.wb.filterMap (fun e => e.without slot id)
      atoms := x.atoms.filter (fun a => !(a.slot == slot && decide (id < a.id)))
      mmas := x.mmas.filter (fun m => !(m.slot == slot && decide (id < m.id))) })) core slot pc lanes f

/-- Deliver an outstanding load's data to the group's registers and the L1 (R248, R249): a value that was taken before a
later one, or before an invalidation, does not fill it (R227, R229). -/
def deliverLoad (s : State) (core : Nat) (l : Load) (d : Line) (st : BitVec 24) (p : BitVec 2) : State :=
  let mask := l.lanes.foldl (fun (m : LineMask) e => m ||| maskOf e.pos e.n) 0
  let s := modExec s core (fun x => { x with loads := x.loads.filter (fun m => m.id != l.id) })
  if l.fwdPoison || (p &&& maskSectors (mask &&& ~~~ l.fwdMask)) != 0 then
    lateFault s core l.id l.slot l.pc (laneMask (l.lanes.map (·.lane))) .memPoison
  else
    let s := if l.nofill || (l.got.isSome && (l1Find (execOf s core) l.target).isSome) then s
             else l1Fill s core l.part l.tenant l.target l.hint d st p
    let (fr, s) := if l.size < 4 then takeFree s else (0, s)
    modExec s core (fun x =>
      match alFind x.groups l.slot with
      | none => x
      | some g =>
        let g := l.lanes.foldl (fun g e => writeLoaded fr g l.dst e.lane l.size e.off (pieceBytes d l.fwd l.fwdMask e.pos e.n)) g
        { x with groups := alPut x.groups l.slot g })

/-- LOAD_RETURN (R222, R227, R300, R332): the value is taken at the home slice, or has come from another package, the
host or a bypass; a fault met on the way is raised at the load. Loads of one core and line return in order. -/
def execLoadReturn (core id : Nat) (s : State) : Host.Outcome State Fault Refusal :=
  completes s (
    let x := execOf s core
    match x.loads.find? (fun l => l.id == id) with
    | none => s
    | some l =>
      if x.loads.any (fun m => m.target == l.target && decide (m.id < l.id)) then s
      else
        match l.failed with
        | some f =>
          let s := modExec s core (fun x => { x with loads := x.loads.filter (fun m => m.id != l.id) })
          lateFault s core l.id l.slot l.pc (laneMask (l.lanes.map (·.lane))) f
        | none =>
          match l.got with
          | some (d, st, p) => deliverLoad s core l d st p
          | none =>
            match l.target with
            | .loc pa =>
              match homeSlice s pa with
              | none => s
              | some (r, set, tag) =>
                if !sliceAwake s r then s
                else if (findWay (regionOf s r) set tag).isSome then
                  let (d, st, p, s) := homeRead s pa l.part l.tenant l.hint
                  deliverLoad s core l d st p
                else
                  if (sideOf (regionOf s r) pa).isSome || readWaits s l then s
                  else joinRead (demandLine s pa l.part l.tenant (coreIsRt s core) l.hint) core l.id pa
            | _ => s)

/-! ### Stores -/

/-- Runs of consecutive bytes of a mask, from byte `k` on: (offset, count). -/
def maskRuns (m : LineMask) : (fuel k : Nat) → Option (Nat × Nat) → List (Nat × Nat)
  | 0, _, cur => match cur with | some r => [r] | none => []
  | fuel + 1, k, cur =>
    if m.getLsbD k then maskRuns m fuel (k + 1) (match cur with | some (o, n) => some (o, n + 1) | none => some (k, 1))
    else (match cur with | some r => [r] | none => []) ++ maskRuns m fuel (k + 1) none

/-- A write-buffer entry leaves the core (R219, R221, R228, R240): it is performed at its home slice, sent to another
package, or sent to the host, and updates the L1 copy. -/
def drainEntry (s : State) (core : Nat) (e : WbEntry) : State :=
  let upd (s : State) : State := modExec s core (fun x =>
    let x := { x with loads := x.loads.map (fun l => if l.taken && l.target == e.target then { l with nofill := true } else l) }
    match l1Find x e.target with
    | some (k, l) => { x with l1 := alPut x.l1 k { l with data := lineMerge l.data e.data e.mask } }
    | none => x)
  let gone (s : State) : State := modExec s core (fun x => { x with wb := x.wb.filter (fun w => w.id != e.id) })
  match e.target with
  | .loc pa =>
    let rt := nodeIsRt s (e.nodes.headD noNode)
    if !homeAwake s pa || (!maskFull e.mask && !homeReady s pa e.part rt) then s
    else gone (upd (homeWrite s pa e.part e.tenant e.hint e.mask e.data (if e.poison then maskSectors e.mask else 0) rt))
  | .remote pk a =>
    if !tagsFree s (coreDie core) 1 || !reachable s pk then s
    else
      let (tag, s) := openTxn s core .store e.id e.tenant (e.nodes.headD noNode) e.target
      let s := sendWrite (upd s) pk a e.tenant tag e.mask e.data e.poison
      modExec s core (fun x => { x with wb := x.wb.map (fun w => if w.id = e.id then { w with sent := true } else w) })
  | .host a =>
    match tenantPasid s e.tenant with
    | none => gone s
    | some pz =>
      match hostXlat s e.tenant pz a true with
      | (.wait, s) => s
      | (.fault, s) =>
        -- a final translation fault of a core access is MEM_ACCESS (R531)
        gone (e.nodes.foldl (fun s n => failNode s n { status := .fault, fault := .memAccess, loc := locOf core }) s)
      | (.ok ha, s) =>
        let s := (maskRuns e.mask 128 0 none).foldl (fun s r =>
          hostWrite s (ha + r.1) (lineSlice e.data r.1 r.2) (!e.ordered)) (gone (upd s))
        modExec s core (fun x => { x with hostOut := true })

/-- Stores of a group that are younger than a load, an atomic or a matrix instruction of the group are not performed
outside the core while it is outstanding and can still end in a fault (R49, R300, R332; log entry 143). -/
def heldBack (x : Exec) (e : WbEntry) : Bool := e.writers.any (fun w => mayFault x w.1 w.2)

/-- An entry may drain: it is not sent or held back, and no older entry of its line is there (R219). -/
def mayDrain (x : Exec) (e : WbEntry) : Bool :=
  !e.sent && !heldBack x e && !x.wb.any (fun w => w.target == e.target && decide (w.id < e.id))

/-- Drain entries of a full write buffer until a store finds room. -/
def makeRoom : (fuel : Nat) → State → (core : Nat) → State
  | 0, s, _ => s
  | fuel + 1, s, core =>
    let x := execOf s core
    if wbUsed x < 32 then s
    else
      match x.wb.find? (fun e => mayDrain x e && decide (wbUsed (execOf (drainEntry s core e) core) < wbUsed x)) with
      | some e => makeRoom fuel (drainEntry s core e) core
      | none => s

/-- One store that enters the write buffer. -/
structure WbIn where
  slot : Nat
  part : Nat
  tenant : Nat
  target : Target
  hint : Hint := .plain
  mask : LineMask
  data : Line
  /-- see `wbStore` -/
  place : Option Nat := none
  deriving DecidableEq, Repr

/-- The stores of one instruction enter the write buffer in order, entries draining where it is full (R219); none where
some entry that must drain first cannot. -/
def enterStores (core : Nat) : List WbIn → State → Option State
  | [], s => some s
  | w :: r, s =>
    let s := if wbRoom (execOf s core) w.target then s else makeRoom 2 s core
    if wbRoom (execOf s core) w.target then
      enterStores core r (wbStore s core w.slot w.part w.tenant w.target w.hint w.mask w.data w.place)
    else none

/-- The stores of some bytes at a device virtual address, line by line; none where a page does not grant W. -/
def bytesIn (s : State) (slot part tenant va : Nat) (bs : List Byte) : List WbIn :=
  ((chunksOf va bs.length).foldl (fun (acc : List Byte × List WbIn) k =>
    (acc.1.drop k.2.2,
     match translate s tenant k.1 .w with
     | some t => acc.2 ++ [{ slot := slot, part := part, tenant := tenant, target := t.line, mask := maskOf k.2.1 k.2.2,
                             data := linePlace k.2.1 (acc.1.take k.2.2) }]
     | none => acc.2)) (bs, [])).2

/-- A store waits while the core has an atomic outstanding on one of its lines: the two are performed in program order
(R227; log entry 143). -/
def storeBusy (x : Exec) (ts : List Target) : Bool := ts.any (fun t => x.atoms.any (fun a => a.target.line == t))

/-- ST (R180, R199, R219): shared local memory in ascending lane order; otherwise the bytes enter the write buffer, and
the store waits while it has no room. -/
def execSt (i : Iss) (q : MemQ) (a b : Opd) (s : State) : Host.Outcome State Fault Refusal :=
  completes s (issueWith s i [] (addrNarrow q a ++ spanOpds b (accBytes q)) (addrWide q a) (fun s c =>
    if mmaClash c.x c.slot q.slm (c.act.map (fun l => (addrOf c q a l, accBytes q))) ||
        readAhead c.x c.slot q.slm (c.act.map (fun l => (addrOf c q a l, accBytes q))) then s
    else if q.slm then
      match slmFault c q a with
      | some f => raiseFault s c f
      | none =>
        let s := slmCount s c (slmPasses (accBytes q) (c.act.map (fun l => (l, addrOf c q a l))))
        let blk := slmStore c.b (c.act.map (fun l => (addrOf c q a l, opdBytes c b (accBytes q) l)))
        advance (putBlock s c blk) c c.g
    else
      let as := c.act.map (fun l => (l, addrOf c q a l))
      match allPieces s c.b.task.tenant .w as (accBytes q) with
      | .error f => raiseFault (noteFault s c.b.task.tenant
          (as.map (fun e => translate s c.b.task.tenant e.2 .w)) f) c f
      | .ok ps =>
        if storeBusy c.x (pieceLines ps) then s
        else
          (enterStores c.core (ps.map (fun p =>
            let bs := ((opdBytes c b (accBytes q) p.lane).drop p.off).take p.n
            { slot := c.slot, part := c.b.task.part, tenant := c.b.task.tenant, target := p.t.line, hint := q.hint,
              mask := maskOf (p.t.addr % 128) p.n, data := linePlace (p.t.addr % 128) bs })) (advance s c c.g)).getD s))

/-- WRITE_BUFFER_DRAIN (R219, R221, R222): entries of one line drain in the order of their creation. -/
def execWriteBufferDrain (core entry : Nat) (s : State) : Host.Outcome State Fault Refusal :=
  completes s (
    let x := execOf s core
    match x.wb.find? (fun e => e.id == entry) with
    | none => s
    | some e =>
      if mayDrain x e then drainEntry s core e else s)

/-! ### Fences (R228 to R232) -/

/-- Whether a scope is device or system. -/
def wideScope : Scope → Bool
  | .device => true
  | .system => true
  | _ => false

/-- What a fence of some lanes of a group covers when it issues (R228, R229, R232, R242): loads and atomics of the lanes that are
outstanding, the remote ones at system scope only; the matrix instructions of the lanes in the array, of which a load fence
orders the reads and the others the destination write too (Table 8.5); for a store fence of device scope the write-buffer
entries but those with a remote home, of system scope every entry; and whether it needs a zero-length read of the host. -/
def fenceOf (x : Exec) (slot id : Nat) (kind : FenceKind) (sc : Scope) (lanes : Lanes) : FenceWait :=
  let mine (t : Target) : Bool := sc == .system || !t.isRemote
  let mineL := (x.loads.filter (fun l => l.slot == slot && mine l.target && l.lanes.any (fun e => lanes.getLsbD e.lane))).map (·.id)
  let mineA := (x.atoms.filter (fun a => a.slot == slot && mine a.target && a.lanes.any (fun e => lanes.getLsbD e.lane))).map (·.id)
  let mineM := (x.mmas.filter (fun m => m.slot == slot && (m.lanes &&& lanes) != 0)).map (·.id)
  let covers := if kind = .ld then [] else
    match sc with
    | .device => (x.wb.filter (fun e => !e.target.isRemote)).map (·.id)
    | .system => x.wb.map (·.id)
    | _ => []
  let host := kind != .ld && sc == .system &&
    (x.hostOut || x.fences.any (fun f => f.hostRead == 2) ||
      x.wb.any (fun e => match e.target with | .host _ => true | _ => false))
  { id := id, slot := slot, lanes := lanes, kind := kind, scope := sc, covers := covers, loads := mineL,
    atoms := mineA, mmas := mineM, hostRead := if host then 1 else 0 }

/-- What a fence of the issuing group covers (see `fenceOf`). -/
def fenceFor (c : Ctx) (id : Nat) (kind : FenceKind) (sc : Scope) (lanes : Lanes) : FenceWait :=
  fenceOf c.x c.slot id kind sc lanes

/-- A matrix instruction in the array has still to read its operands: it waits for turned units or for its evaluation. -/
def MmaRun.reads (m : MmaRun) : Bool := m.phase == .stream || !m.need.isEmpty

/-- Everything a fence covers has ended; of a matrix instruction a load fence awaits the reads alone. -/
def fenceDone (x : Exec) (f : FenceWait) : Bool :=
  f.covers.all (fun id => x.wb.all (fun e => e.id != id)) &&
  f.loads.all (fun id => x.loads.all (fun l => l.id != id)) &&
  f.atoms.all (fun id => x.atoms.all (fun a => a.id != id)) &&
  f.mmas.all (fun id => x.mmas.all (fun m => m.id != id || (f.kind == .ld && !m.reads)))

/-- What a fence does when its wait ends: FENCE.LD and FENCE.FULL of device or system scope invalidate the L1 (R228,
R250); after a store fence of system scope the next host store is ordered (R240). -/
def fenceEnd (s : State) (core : Nat) (kind : FenceKind) (sc : Scope) : State :=
  let s := if kind != .st && wideScope sc then l1Clear s core else s
  if kind != .ld && sc == .system then modExec s core (fun x => { x with hostOrdered := true }) else s

/-- A fence of block scope or wider is remembered for the transposing buffer (R130). -/
def markFence (s : State) (c : Ctx) (sc : Scope) : State :=
  if sc = .group then s else modExec s c.core (fun x => { x with fenceAt := s.seqNo })

/-- A fence of the issuing path would cover nothing outstanding. -/
def fenceFree (c : Ctx) (kind : FenceKind) (sc : Scope) : Bool :=
  let f := fenceFor c 0 kind sc c.p.lanes
  fenceDone c.x f && f.hostRead == 0

/-- A fence of the issuing path that goes on at `pc`: it ends at once when it covers nothing outstanding, and otherwise the
path waits there (R229). With `redo` the path then issues its instruction, which the fence stands before. A fence of block
scope or wider is remembered for the transposing buffer (R130). -/
def fencePath (s : State) (c : Ctx) (g : Group) (pc : Nat) (kind : FenceKind) (sc : Scope) (redo : Bool) : State :=
  let (id, s) := takeSeq s
  let s := if sc = .group then s else modExec s c.core (fun x => { x with fenceAt := id })
  let f := { fenceFor { c with x := execOf s c.core } id kind sc c.p.lanes with redo := redo }
  if fenceDone c.x f && f.hostRead = 0 then
    fenceEnd (putGroup s c (if redo then releasePath c g else movePath c g pc)) c.core kind sc
  else
    let s := putGroup s c (movePathStall c g pc (.fence id))
    modExec s c.core (fun x => { x with fences := x.fences ++ [f] })

/-- Issue a fence: it ends at once when it covers nothing outstanding, and otherwise its path waits (R229). -/
def fenceIssue (s : State) (i : Iss) (kind : FenceKind) (sc : Scope) : State :=
  issueWith s i [] [] [] (fun s c =>
    if c.act.isEmpty then advance s c c.g
    else fencePath s c c.g c.next kind sc false)

/-- FENCE.LD (R228, R234). -/
def execFenceLd (i : Iss) (scope : Scope) (s : State) : Host.Outcome State Fault Refusal :=
  completes s (fenceIssue s i .ld scope)

/-- FENCE.ST (R228, R231). -/
def execFenceSt (i : Iss) (scope : Scope) (s : State) : Host.Outcome State Fault Refusal :=
  completes s (fenceIssue s i .st scope)

/-- FENCE.FULL (R228). -/
def execFenceFull (i : Iss) (scope : Scope) (s : State) : Host.Outcome State Fault Refusal :=
  completes s (fenceIssue s i .full scope)

/-- A path that waits on a stall resumes; `redo` lets it issue the instruction that its fence stood before. -/
def wakePaths (s : State) (core slot : Nat) (st : Stall) (redo : Bool := false) : State :=
  modExec s core (fun x =>
    match alFind x.groups slot with
    | none => x
    | some g =>
      let recon := ((alFind x.blocks g.block).map (·.task.recon)).getD []
      let g := setPaths recon g (g.paths.map (fun p => if p.stall = st then { p with stall := .go, released := redo } else p))
      { x with groups := alPut x.groups slot g })

/-- A waiting fence completes: its path resumes, and a .REL atomic that waited for it may be performed. -/
def fenceOver (s : State) (core : Nat) (f : FenceWait) : State :=
  let s := modExec s core (fun x => { x with
    fences := x.fences.filter (fun g => g.id != f.id)
    atoms := x.atoms.map (fun a => if a.after = some f.id then { a with after := none } else a) })
  wakePaths (fenceEnd s core f.kind f.scope) core f.slot (.fence f.id) f.redo

/-- FENCE_RELEASE (R228 to R232): when all it covers has ended, a system-scope store fence with host stores first issues
its zero-length read; then it completes. -/
def execFenceRelease (core id : Nat) (s : State) : Host.Outcome State Fault Refusal :=
  completes s (
    let x := execOf s core
    match x.fences.find? (fun f => f.id == id) with
    | none => s
    | some f =>
      if !fenceDone x f then s
      else if f.hostRead = 1 then
        if !tagsFree s (coreDie core) 1 then s
        else
          let task := ((alFind x.groups f.slot).bind (fun g => alFind x.blocks g.block)).map (·.task)
          let (_, s) := openTxn s core .fence f.id ((task.map (·.tenant)).getD 0) ((task.map (·.node)).getD noNode) (.host 0)
          modExec s core (fun x => { x with fences := x.fences.map (fun g => if g.id = id then { g with hostRead := 2 } else g), hostOut := false })
      else if f.hostRead = 2 then s
      else fenceOver s core f)

/-! ### Atomics (R172, R223, R224, R230, R241, R243) -/

/-- Result of an atomic operation on a value of `n` bytes: the new value, and whether it is written. MIN and MAX compare
as the free constant `Config.atomicSigned` says: the spec names no signedness (log entry 22). -/
def atomNew (op : AtomOp) (n : Nat) (old b c : Nat) : Nat × Bool :=
  let m := 2 ^ (8 * n)
  let key (x : Nat) : Int := if Config.atomicSigned && decide (m / 2 ≤ x) then (x : Int) - m else x
  match op with
  | .add => ((old + b) % m, true)
  | .min => (if key b < key old then b % m else old, true)
  | .max => (if key old < key b then b % m else old, true)
  | .and => (old &&& (b % m), true)
  | .or => (old ||| (b % m), true)
  | .xor => (old ^^^ (b % m), true)
  | .cas => if old = b % m then (c % m, true) else (old, false)
  | .exch => (b % m, true)
  | .fadd => ((addLane .f32 .rne (BitVec.ofNat 32 old) (BitVec.ofNat 32 b)).toNat, true)

/-- Whether the host can perform the operation (R241, R534). -/
def hostAtomOk (s : State) (q : MemQ) : Bool :=
  s.host.atomicEn && (q.op == .add || q.op == .exch || q.op == .cas) && (q.size == 2 || q.size == 3)

/-- Write the old values an atomic returns. -/
def atomReturn (s : State) (core slot : Nat) (dst : Option Nat) (size : Nat) (vals : List (Nat × Nat)) : State :=
  match dst with
  | none => s
  | some d =>
    let (fr, s) := if size < 4 then takeFree s else (0, s)
    modExec s core (fun x =>
      match alFind x.groups slot with
      | none => x
      | some g =>
        { x with groups := alPut x.groups slot
                  (vals.foldl (fun g e => writeLoaded fr g d e.1 size 0 (leBytes size e.2)) g) })

/-- An atomic leaves its core. -/
def atomGone (s : State) (core : Nat) (a : Atomic) : State :=
  modExec s core (fun x => { x with atoms := x.atoms.filter (fun b => b.id != a.id) })

/-- An atomic has been performed: .ACQ acts as FENCE.LD of its scope for the lanes of its path once the instruction's last entry
has been (R230). -/
def atomDone (s : State) (core : Nat) (a : Atomic) : State :=
  let s := atomGone s core a
  if a.order != .acq || (execOf s core).atoms.any (fun b => b.slot == a.slot && b.pc == a.pc && b.order == .acq) then s
  else
    let (id, s) := takeSeq s
    let s := if a.scope = .group then s else modExec s core (fun x => { x with fenceAt := id })
    let f := fenceOf (execOf s core) a.slot id .ld a.scope a.path
    if fenceDone (execOf s core) f then wakePaths (fenceEnd s core .ld a.scope) core a.slot (.atom a.pc)
    else
      modExec s core (fun x => { x with
        fences := x.fences ++ [f]
        groups := alMap x.groups (fun k g =>
          if k = a.slot then { g with paths := g.paths.map (fun p =>
            if p.stall = .atom a.pc then { p with stall := .fence id } else p) } else g) })

/-- The write buffer holds a store to this line that has not left it: an atomic on the line, which came after it, waits
(R227; log entry 143). -/
def storeAhead (x : Exec) (t : Target) : Bool := x.wb.any (fun e => e.target == t && !e.sent)

/-- An atomic is not performed yet: an older access of its group can still end in a fault (R49, R245), or an older load of the
core or an older atomic of its group is outstanding on its line (R223, R227). -/
def atomHeld (x : Exec) (a : Atomic) : Bool :=
  mayFault x a.slot a.first || x.loads.any (fun l => l.target == a.target && decide (l.id < a.id)) ||
  x.atoms.any (fun b => b.slot == a.slot && b.target == a.target && decide (b.id < a.id))

/-- Send an atomic to another package, behind the core's own earlier stores to the line and whatever holds it (`atomHeld`), with
a free tag of its die (R334). -/
def sendAtom (s : State) (core node : Nat) (a : Atomic) : State :=
  match a.target, a.lanes with
  | .remote pk pa, e :: _ =>
    if storeAhead (execOf s core) a.target || atomHeld (execOf s core) a || !tagsFree s (coreDie core) 1 then s
    else
    let (tag, s) := openTxn s core .atom a.id a.tenant node a.target
    let m := { reqMsg s 0x3 pk (pa + e.pos) a.tenant tag with
                 size := Nat.log2 a.size, op := a.op, order := a.order, b := e.b, c := e.c }
    let s := bump (sendMsg s m) a.tenant lnkAtom 1
    modExec s core (fun x => { x with atoms := x.atoms.map (fun b => if b.id = a.id then { b with sent := true } else b) })
  | _, _ => s

/-- The atomics of an issue: one entry per local line, and one per lane for another package or the host. -/
def atomEntries (c : Ctx) (q : MemQ) (d b e : Opd) (after : Option Nat) (ps : List Piece) (id : Nat) : List Atomic :=
  let lane (p : Piece) : AtomLane :=
    { lane := p.lane, pos := p.t.addr % 128, b := opdLane64 c b p.lane, c := opdLane64 c e p.lane }
  let base (t : Target) (k : Nat) (ls : List AtomLane) : Atomic :=
    { id := id + k, slot := c.slot, pc := c.p.pc, dst := match d with | .v n => some n | _ => none, size := accBytes q,
      op := q.op, order := q.order, scope := q.scope, hint := q.hint, target := t, tenant := c.b.task.tenant, part := c.b.task.part,
      lanes := ls, path := c.p.lanes, first := id, after := after }
  let locs := (pieceLines ps).filter Target.isLoc
  let here := (locs.zipIdx).map (fun (t, k) => base t k ((ps.filter (fun p => p.t.line == t)).map lane))
  let far := ((ps.filter (fun p => !p.t.isLoc)).zipIdx).map (fun (p, k) => base p.t.line (locs.length + k) [lane p])
  here ++ far

/-- ATOM (R199, R223, R226, R230, R241): shared local memory at once in ascending lane order; otherwise the core's own L1
copies are invalidated and the operations wait to be performed at their homes. .REL waits for a FENCE.ST of its scope
first. -/
def execAtom (i : Iss) (q : MemQ) (d a b e : Opd) (s : State) : Host.Outcome State Fault Refusal :=
  completes s (issueWith s i ((spanOpds d (accBytes q)).flatMap (vRegs false))
      (addrNarrow q a ++ spanOpds b (min 8 (accBytes q)) ++ spanOpds e (min 8 (accBytes q))) (addrWide q a) (fun s c =>
    let n := accBytes q
    let lo (o : Opd) (l : Nat) : Nat := (opdLane64 c o l).toNat % 2 ^ (8 * n)
    if mmaClash c.x c.slot q.slm (c.act.map (fun l => (addrOf c q a l, n))) ||
        readAhead c.x c.slot q.slm (c.act.map (fun l => (addrOf c q a l, n))) then s
    else if q.slm then
      match slmFault c q a with
      | some f => raiseFault s c f
      | none =>
        if c.act.any (fun l => slmBad c.b (addrOf c q a l) n) then raiseFault s c .memPoison
        else if q.order = .rel && !c.p.released && !fenceFree c .st q.scope then fencePath s c c.g c.p.pc .st q.scope true
        else
          let s := if q.order = .rel && !c.p.released then fenceEnd (markFence s c q.scope) c.core .st q.scope else s
          let at_ := c.act.map (fun l => (l, addrOf c q a l))
          let s := slmCount s c (slmPasses n at_ + if q.op = .cas ∨ q.op = .exch then slmRepeats at_ else 0)
          let (blk, vals) := c.act.foldl (fun (acc : Block × List (Nat × Nat)) l =>
            let old := leNat (slmRead acc.1 (addrOf c q a l) n)
            let (v, w) := atomNew q.op n old (lo b l) (lo e l)
            (if w then slmWrite acc.1 (addrOf c q a l) (leBytes n v) else acc.1, acc.2 ++ [(l, old)])) (c.b, [])
          let s := putBlock (if q.order = .acq then fencePath s c c.g c.next .ld q.scope false else advance s c c.g) c blk
          atomReturn s c.core c.slot (match d with | .v k => some k | _ => none) n vals
    else
      let as := c.act.map (fun l => (l, addrOf c q a l))
      if as.any (fun x => x.2 % n != 0) then raiseFault s c .memAccess
      else
        match allPieces s c.b.task.tenant .a as n with
        | .error f => raiseFault (noteFault s c.b.task.tenant
            (as.map (fun x => translate s c.b.task.tenant x.2 .a)) f) c f
        | .ok ps =>
          if ps.any (fun p => match p.t with | .host _ => !hostAtomOk s q | _ => false) then raiseFault s c .memAccess
          else if !tagsFree s (coreDie c.core) (ps.filter (fun p => !p.t.isLoc)).length then s
          else if ps.isEmpty then advance s c c.g
          else
            let (fid, s) := takeSeq s
            let f := fenceFor c fid .st q.scope c.p.lanes
            let wait := q.order = .rel && !(fenceDone c.x f && f.hostRead = 0)
            let es := atomEntries c q d b e (if wait then some fid else none) ps s.seqNo
            let s := { s with seqNo := s.seqNo + es.length }
            let stall : Stall := if wait then .fence fid else if q.order = .acq then .atom c.p.pc else .go
            let s := putGroup s c (movePathStall c c.g c.next stall)
            let s := if q.order = .rel then markFence s c q.scope else s
            let s := if q.order = .rel && !wait then fenceEnd s c.core .st q.scope else s
            let s := (pieceLines ps).foldl (fun s t => l1Drop s c.core t) (modExec s c.core (fun x => { x with
              atoms := x.atoms ++ es
              fences := if wait then x.fences ++ [f] else x.fences }))
            if wait then s else es.foldl (fun s a => sendAtom s c.core c.b.task.node a) s))

/-- ATOMIC_PERFORM (R172, R222 to R224, R243): the lanes in ascending order at the home slice; an atomic for another
package is sent; one for the host is performed there and its completion awaited. One whose comparison fails in every lane
writes nothing and is performed as a read: the line does not become dirty and the stamp does not advance (DESIGN CHOICE, log
entry 144: the spec does not say). -/
def execAtomicPerform (core id : Nat) (s : State) : Host.Outcome State Fault Refusal :=
  completes s (
    let x := execOf s core
    match x.atoms.find? (fun a => a.id == id) with
    | none => s
    | some a =>
      if a.failed.isSome then
        lateFault (atomGone s core a) core a.id a.slot a.pc
          (laneMask (a.lanes.map (·.lane))) (a.failed.getD .remoteAccess)
      else if a.after.isSome || a.sent || atomHeld x a then s
      else
        let node := (((alFind x.groups a.slot).bind (fun g => alFind x.blocks g.block)).map (·.task.node)).getD 0
        match a.target with
        | .loc pa =>
          if storeAhead x a.target || !homeReady s pa a.part (nodeIsRt s node) then s
          else
            let (d0, p0) := homePeek s pa
            let mask := a.lanes.foldl (fun (m : LineMask) e => m ||| maskOf e.pos a.size) 0
            if p0 &&& maskSectors mask != 0 then
              lateFault (atomGone s core a) core
                a.id a.slot a.pc (laneMask (a.lanes.map (·.lane))) .memPoison
            else
              let (d, wm, vals) := a.lanes.foldl (fun (acc : Line × LineMask × List (Nat × Nat)) e =>
                let old := leNat (lineSlice acc.1 e.pos a.size)
                let m := 2 ^ (8 * a.size)
                let (v, w) := atomNew a.op a.size old (e.b.toNat % m) (e.c.toNat % m)
                if w then (lineMerge acc.1 (linePlace e.pos (leBytes a.size v)) (maskOf e.pos a.size),
                           acc.2.1 ||| maskOf e.pos a.size, acc.2.2 ++ [(e.lane, old)])
                else (acc.1, acc.2.1, acc.2.2 ++ [(e.lane, old)])) (d0, 0, [])
              let s := if wm = 0 then (homeRead s pa a.part a.tenant (if a.hint = .dal then .plain else a.hint) (nodeIsRt s node)).2.2.2
                       else homeWrite s pa a.part a.tenant a.hint wm d 0 (nodeIsRt s node)
              atomDone (atomReturn s core a.slot a.dst a.size vals) core a
        | .remote _ _ => sendAtom s core node a
        | .host ha0 =>
          if storeAhead x a.target then s
          else
          match tenantPasid s a.tenant with
          | none => lateFault (atomGone s core a) core a.id a.slot a.pc (laneMask (a.lanes.map (·.lane))) .memAccess
          | some pz =>
            match hostXlat s a.tenant pz ha0 true with
            | (.wait, s) => s
            | (.fault, s) => lateFault (atomGone s core a) core a.id a.slot a.pc (laneMask (a.lanes.map (·.lane))) .memAccess
            | (.ok ha, s) =>
              let (_, s) := openTxn s core .atom a.id a.tenant node (.host ha)
              modExec s core (fun x => { x with atoms := x.atoms.map (fun b => if b.id = a.id then { b with sent := true } else b) }))

end Sys2Proof.Machine
end

