-- ==== Sys2Proof/Machine/Descriptor.lean ====
section
/-! DEFINITION. Operand descriptors (R194 to R197, Table 7.5a), packed elements (Table 3.6), and reads and writes of
the issuing path through a descriptor. -/

namespace Sys2Proof.Machine

/-- An operand descriptor (Table 7.5a). -/
structure Desc where
  base : Nat
  scaleAddr : Nat
  qualAddr : Nat
  srcAddr : Nat
  record : Nat
  metaAddr : Nat
  stride : Nat
  scaleStride : Nat
  srcStride : Nat
  tscale : Word
  fmt : Nat
  attr : Nat
  turned : Bool
  colMajor : Bool
  sparse : Bool
  tFromRecord : Bool
  slm : Bool
  vref : Nat
  srcFmt : Nat
  deriving DecidableEq, Repr

/-- The fields of a descriptor's bytes. -/
def descOf (b : List Byte) : Desc :=
  let mode := fieldAt b 65 1
  { base := fieldAt b 0 8, scaleAddr := fieldAt b 8 8, qualAddr := fieldAt b 16 8, srcAddr := fieldAt b 24 8,
    record := fieldAt b 32 8, metaAddr := fieldAt b 40 8, stride := fieldAt b 48 4, scaleStride := fieldAt b 52 4,
    srcStride := fieldAt b 56 4, tscale := BitVec.ofNat 32 (fieldAt b 60 4), fmt := fieldAt b 64 1 % 16,
    attr := fieldAt b 64 1 / 16 % 2, turned := bit mode 0, colMajor := bit mode 1, sparse := bit mode 2,
    tFromRecord := bit mode 3, slm := bit mode 4, vref := fieldAt b 66 1, srcFmt := fieldAt b 67 1 }

/-- A scale array in the descriptor of an operand whose format has no blocks (Table 7.5a): the operand's format is the matrix
instruction's, or the descriptor's own where FMT is read (R197). -/
def scaleStray (fmt attr : Nat) (d : Desc) : Bool := blockSize fmt attr == 0 && (d.scaleAddr != 0 || d.scaleStride != 0)

/-- A field outside its stated values or an address that breaks its alignment (R196). A SRC_FMT other than 0x0 to 0x2, 0xF among
them, is such a field and raises DESC_INVALID, not FORMAT_RESERVED, and so does EPI_DESCRIPTOR for the formats of Table 5.7
(DESIGN CHOICE, log entry 144: R18 and R100 point to the one, R196 and R141 to the other). -/
def descBad (b : List Byte) : Bool :=
  let d := descOf b
  (fieldAt b 64 1 / 32 != 0) || (fieldAt b 65 1 / 32 != 0) || (d.vref / 16 != 0) || decide (2 < d.srcFmt) ||
  ((b.drop 68).any (· != 0)) || (d.stride % (if d.turned then 128 else 16) != 0) || (d.metaAddr % 128 != 0)

/-- OPERAND_ALIGN of an operand in a format (R82, R101, R131). -/
def badAlign (fmt attr : Nat) (d : Desc) (turned : Bool) : Bool :=
  (blockSize fmt attr != 0 && (d.base % 128 != 0 || d.scaleAddr % 16 != 0)) || (d.qualAddr % 16 != 0) ||
  (turned && (d.base % 128 != 0 || d.stride % 128 != 0))

/-- The fault of a descriptor as an instruction reads it, in the order of Table 7.11: alignment, format, record, other fields
(R196, R100, R115). The format is tested where the instruction reads FMT (R197); a handle's blocks are tested under the format
of the matrix instruction that names it. -/
def descFault (readsFmt : Bool) (b : List Byte) : Option DevFault :=
  let d := descOf b
  if badAlign (if readsFmt then d.fmt else 0) (if readsFmt then d.attr else 0) d d.turned then some .operandAlign
  else if readsFmt && !fmtValid d.fmt d.attr then some .formatReserved
  else if d.record % 128 != 0 then some .scaleRecord
  else if descBad b || (readsFmt && scaleStray d.fmt d.attr d) then some .descInvalid
  else none

/-- The resolved base that VREF adds (R195, R196): read or write base of a reference. -/
def vrefBase (t : TaskCtx) (v : Nat) : Nat :=
  if !bit v 2 then 0 else if bit v 3 then t.vwr.getD (v % 4) 0 else t.vrd.getD (v % 4) 0

/-- A descriptor with its versioned-tensor base added; fields that hold 0 stay 0 (R196). -/
def resolveDesc (t : TaskCtx) (d : Desc) : Desc :=
  let v := vrefBase t d.vref
  let add (x : Nat) : Nat := if x = 0 then 0 else x + v
  { d with base := if bit d.vref 2 then add d.base else d.base, scaleAddr := add d.scaleAddr,
           qualAddr := add d.qualAddr, srcAddr := add d.srcAddr }

/-- Bytes between the quality entries of consecutive stored rows: two for each scale entry of a stored row, and for a
format without blocks two for each 32 elements of it (R197, R101). -/
def qualStride (d : Desc) (fmt attr : Nat) : Nat :=
  if blockSize fmt attr = 0 then 2 * ceilDiv (d.stride * 8 / max 1 (elemBits fmt)) 32
  else 2 * (d.scaleStride / scaleBytes fmt attr)

/-- Element `k` of packed elements (Table 3.6). -/
def elemAt (w : Nat) (bs : List Byte) (k : Nat) : Nat := bits (leNat (sliceBytes bs (k * w / 8) 5)) (k * w % 8 + w - 1) (k * w % 8)

/-- Pack elements of `w` bits (Table 3.6). -/
def packElems (w : Nat) (es : List Nat) : List Byte :=
  leBytes (ceilDiv (es.length * w) 8) ((es.zipIdx).foldl (fun a (e, k) => a + (e % 2 ^ w) * 2 ^ (k * w)) 0)

/-! ### Reads and writes of the path through a descriptor -/

/-- Read bytes for the path: shared local memory of the block, or its tenant's memory as loads (R235). -/
def opRead (s : State) (c : Ctx) (slm : Bool) (a n : Nat) : Acc (List Byte) × State :=
  if n = 0 then (.ok [], s)
  else if slm then
    if c.b.task.slmKib * 1024 < a + n then (.fault .slmRange, s)
    else if slmBad c.b a n then (.fault .memPoison, s)
    else (.ok (slmRead c.b a n), s)
  else pathRead s c.core c.b.task.part c.b.task.tenant a n

/-- Read a list of (address, count) ranges in order. -/
def opReads (c : Ctx) (slm : Bool) : List (Nat × Nat) → State → Acc (List (List Byte)) × State
  | [], s => (.ok [], s)
  | (a, n) :: r, s =>
    match opRead s c slm a n with
    | (.ok b, s) =>
      match opReads c slm r s with
      | (.ok bs, s) => (.ok (b :: bs), s)
      | (.fault f, s) => (.fault f, s)
      | (.wait, s) => (.wait, s)
    | (.fault f, s) => (.fault f, s)
    | (.wait, s) => (.wait, s)

/-- Whether the path may write a range: shared local memory within the block, or pages that grant W. -/
def opCanWrite (s : State) (c : Ctx) (slm : Bool) (a n : Nat) : Option DevFault :=
  if n = 0 then none
  else if slm then (if c.b.task.slmKib * 1024 < a + n then some .slmRange else none)
  else if rangeOk s c.b.task.tenant a n .w then none else some .memAccess

/-- Write bytes of a block's shared local memory. -/
def slmPut (s : State) (core blockIx a : Nat) (bs : List Byte) : State :=
  modExec s core (fun x =>
    match alFind x.blocks blockIx with
    | none => x
    | some b => { x with blocks := alPut x.blocks blockIx (slmWrite b a bs) })

/-- The stores of the issuing path made by one instruction (R235): (in shared local memory, address, bytes). The stores to
memory enter the write buffer together; none when they cannot yet. -/
def pathStores (s : State) (c : Ctx) (ws : List (Bool × Nat × List Byte)) : Option State :=
  let ins := ws.flatMap (fun w => if w.1 then [] else bytesIn s c.slot c.b.task.part c.b.task.tenant w.2.1 w.2.2)
  if storeBusy (execOf s c.core) (ins.map (·.target)) then none
  else (enterStores c.core ins s).map (fun s =>
    ws.foldl (fun s w => if w.1 then slmPut s c.core c.g.block w.2.1 w.2.2 else s) s)

/-- Accesses to shared local memory by elements of `w` bits that break the alignment of their size (R180). -/
def slmOdd (slm : Bool) (w : Nat) (as : List Nat) : Bool := slm && as.any (fun a => a % max 1 (w / 8) != 0)

/-- Read an operand or epilogue descriptor as a load of the issuing path (R196), behind the matrix instructions of the core that
will write it (R108). -/
def descRead (s : State) (c : Ctx) (a : Nat) : Acc (List Byte) × State :=
  if mmaClash c.x c.slot false [(a, 128)] then (.wait, s)
  else pathRead s c.core c.b.task.part c.b.task.tenant a 128

/-- The descriptor at a uniform pair's address: its bytes, or the fault (R196; see `descFault`). -/
def readDesc (s : State) (c : Ctx) (u : Nat) (readsFmt : Bool := false) : Acc (List Byte) × State :=
  let a := uReg64 c u
  if a % 128 != 0 then (.fault .descInvalid, s)
  else
    match descRead s c a with
    | (.ok b, s) => match descFault readsFmt b with
      | some f => (.fault f, s)
      | none => (.ok b, s)
    | r => r

/-- Operand reads wait for the group's outstanding loads and its earlier matrix instructions, whose results they may
read (R203, R227). -/
def memReady (c : Ctx) : Bool := c.x.loads.all (fun l => l.slot != c.slot) && c.x.mmas.all (fun m => m.slot != c.slot)

/-! ### Tile instructions -/

/-- Write a handle (R194): its contents and a new write number; poison ends (R474). -/
def setHandle (g : Group) (t : Nat) (b : List Byte) (v : Nat) : Group :=
  { g with handles := alPut g.handles t { bytes := b, version := v }
           handlePoison := g.handlePoison.filter (fun k => k != t) }

/-- TILE.DESC (R194): copies a descriptor into a handle. -/
def execTileDesc (i : Iss) (t u : Nat) (s : State) : Host.Outcome State Fault Refusal :=
  completes s (issueWith s i [] [.u u, .u (u + 1)] [] (fun s c =>
    if !memReady c then s
    else if c.act.isEmpty then advance s c c.g
    else
      match readDesc s c u with
      | (.wait, s) => s
      | (.fault f, s) => raiseFault s c f
      | (.ok b, s) =>
        let (v, s) := takeSeq s
        advance s c (setHandle c.g t b v)))

/-- TILE.BASE (R194): replaces a handle's BASE. -/
def execTileBase (i : Iss) (t u : Nat) (s : State) : Host.Outcome State Fault Refusal :=
  completes s (issueWith s i [] [.u u, .u (u + 1), .t t] [] (fun s c =>
    if c.act.isEmpty then advance s c c.g
    else
      match alFind c.g.handles t with
      | none => raiseFault s c .handleInvalid
      | some h =>
        let (v, s) := takeSeq s
        advance s c (setHandle c.g t (leBytes 8 (uReg64 c u) ++ h.bytes.drop 8) v)))

/-- Byte range and bit offset of `n` elements of a row (R197). -/
def rowRange (d : Desc) (row col n : Nat) : Nat × Nat × Nat :=
  let w := elemBits d.fmt
  let a := d.base + row * d.stride + col * w / 8
  (a, ceilDiv (col * w % 8 + n * w) 8, col * w % 8)

/-- Elements of a row of a tile: consecutive in the row, or down a column when COLMAJOR (R197). -/
def tileRanges (d : Desc) (row col n : Nat) : List (Nat × Nat × Nat) :=
  if d.colMajor then (List.range n).map (fun k => rowRange d (col + k) row 1) else [rowRange d row col n]

/-- Read the elements of one lane of a tile. -/
def tileRowRead (s : State) (c : Ctx) (d : Desc) (row col n : Nat) : Acc (List Nat) × State :=
  let rs := tileRanges d row col n
  match opReads c d.slm (rs.map (fun r => (r.1, r.2.1))) s with
  | (.ok bs, s) =>
    let w := elemBits d.fmt
    (.ok ((rs.zip bs).flatMap (fun (r, b) =>
      (List.range (if d.colMajor then 1 else n)).map (fun k => bits (leNat b) (r.2.2 + k * w + w - 1) (r.2.2 + k * w)))), s)
  | (.fault f, s) => (.fault f, s)
  | (.wait, s) => (.wait, s)

/-- Read the rows of several lanes. -/
def tileRowsRead (c : Ctx) (d : Desc) (row col n : Nat) : List Nat → State → Acc (List (Nat × List Nat)) × State
  | [], s => (.ok [], s)
  | l :: r, s =>
    match tileRowRead s c d (row + l) col n with
    | (.ok es, s) =>
      match tileRowsRead c d row col n r s with
      | (.ok x, s) => (.ok ((l, es) :: x), s)
      | (.fault f, s) => (.fault f, s)
      | (.wait, s) => (.wait, s)
    | (.fault f, s) => (.fault f, s)
    | (.wait, s) => (.wait, s)

/-- Passes of a tile access to shared local memory beyond the first of each element: the lanes' k-th elements are one access
(R181, R182; DESIGN CHOICE, log entry 144: the rule is stated for an access, which a tile instruction makes for every element). -/
def tileExtra (d : Desc) (row col n : Nat) (lanes : List Nat) : Nat :=
  let w := elemBits d.fmt
  let at_ (l k : Nat) : Nat := if d.colMajor then d.base + (col + k) * d.stride + (row + l) * w / 8
                               else d.base + (row + l) * d.stride + (col + k) * w / 8
  (List.range n).foldl (fun a k => a + (slmPasses (max 1 (w / 8)) (lanes.map (fun l => (l, at_ l k))) - 1)) 0

/-- Count them (Table 18.3). -/
def tileCount (s : State) (c : Ctx) (d : Desc) (row col n : Nat) : State :=
  if d.slm then slmCount s c (tileExtra d row col n c.act + 1) else s

/-- TILE.LD (R173, R174, R196, R197): lane l of the path reads `n` consecutive elements of tile row `row` + l from
column `col` on into %v from `v` (log entry 23). Of the faults of Table 7.11's last row, SLM_ALIGN is reported before SLM_RANGE
and both before DIVERGENT_COLLECTIVE (DESIGN CHOICE, log entry 144: the table gives no order within a row). -/
def execTileLd (i : Iss) (part : Bool) (v n u : Nat) (row col : ImmU) (s : State) : Host.Outcome State Fault Refusal :=
  completes s (issueWith s i ((List.range n).map (v + ·)) [.u u, .u (u + 1)] [] (fun s c =>
      if !memReady c then s
      else
        match readDesc s c u true with
        | (.wait, s) => s
        | (.fault f, s) => raiseFault s c f
        | (.ok b, s) =>
          let d := resolveDesc c.b.task (descOf b)
          if d.fmt == 14 && f64Absent s then absentUnit s i
          else if slmOdd d.slm (elemBits d.fmt) (c.act.flatMap (fun l =>
              (tileRanges d (immU c row + l) (immU c col) n).map (·.1))) then raiseFault s c .slmAlign
          else if mmaClash c.x c.slot d.slm (c.act.flatMap (fun l =>
              (tileRanges d (immU c row + l) (immU c col) n).map (fun r => (r.1, r.2.1)))) then s
          else
            match tileRowsRead c d (immU c row) (immU c col) n c.act s with
            | (.wait, s) => s
            | (.fault f, s) => raiseFault s c f
            | (.ok rows, s) =>
              let g := (List.range n).foldl (fun g k =>
                setV g (v + k) (rows.map (fun e => (e.1, BitVec.ofNat 32 (e.2.getD k 0))))) c.g
              collective s c part (advance (tileCount s c d (immU c row) (immU c col) n) c g)))

/-- Store `n` elements over a byte range, keeping the bits around them. -/
def tileRowBytes (w off n : Nat) (old : List Byte) (es : List Nat) : List Byte :=
  let x := leNat old
  let m := 2 ^ (n * w) - 1
  let v := (es.zipIdx).foldl (fun a (e, k) => a + (e % 2 ^ w) * 2 ^ (k * w)) 0
  leBytes old.length ((x - (x &&& (m <<< off))) + (v <<< off))

/-- TILE.ST (R173, R174, R235): lane l of the path stores `n` consecutive elements of tile row `row` + l (log entry
23), with the order of faults of TILE.LD. -/
def execTileSt (i : Iss) (part : Bool) (v n u : Nat) (row col : ImmU) (s : State) : Host.Outcome State Fault Refusal :=
  completes s (issueWith s i [] ([.u u, .u (u + 1)] ++ (List.range n).map (fun k => .v (v + k))) [] (fun s c =>
      if !memReady c then s
      else
        match readDesc s c u true with
        | (.wait, s) => s
        | (.fault f, s) => raiseFault s c f
        | (.ok b, s) =>
          let d := resolveDesc c.b.task (descOf b)
          let w := elemBits d.fmt
          let rs := c.act.flatMap (fun l => (tileRanges d (immU c row + l) (immU c col) n).zipIdx.map (fun r => (l, r.2, r.1)))
          if d.fmt == 14 && f64Absent s then absentUnit s i
          else if slmOdd d.slm w (rs.map (fun r => r.2.2.1)) then raiseFault s c .slmAlign
          else if mmaClash c.x c.slot d.slm (rs.map (fun r => (r.2.2.1, r.2.2.2.1))) then s
          else
            match rs.findSome? (fun r => opCanWrite s c d.slm r.2.2.1 r.2.2.2.1) with
            | some f => raiseFault s c f
            | none =>
              let partial_ := rs.any (fun r => w < 8 && (r.2.2.2.2 != 0 || (if d.colMajor then 1 else n) * w % 8 != 0))
              match (if partial_ then opReads c d.slm (rs.map (fun r => (r.2.2.1, r.2.2.2.1))) s
                     else (.ok (rs.map (fun r => List.replicate r.2.2.2.1 0)), s)) with
              | (.wait, s) => s
              | (.fault f, s) => raiseFault s c f
              | (.ok olds, s) =>
                collective s c part (
                  (pathStores (advance (tileCount s c d (immU c row) (immU c col) n) c c.g) c ((rs.zip olds).map (fun (r, old) =>
                    let es := if d.colMajor then [(vReg c (v + r.2.1) r.1).toNat]
                              else (List.range n).map (fun k => (vReg c (v + k) r.1).toNat)
                    (d.slm, r.2.2.1, tileRowBytes w r.2.2.2.2 es.length old es)))).getD s)))

end Sys2Proof.Machine
end

