-- ==== Sys2Proof/Machine/Convert.lean ====
section
/-! DEFINITION. Block conversion and scaling records (R101, R112, R115 to R120, R204): CVT.BLK, the pre-pass, the
monitor's contributions and AMAX.COMMIT. -/

namespace Sys2Proof.Machine

/-! ### Scaling records (Table 4.3) -/

/-- SRC_BASE, SRC_LINES and SRC_FMT. -/
def recSrc (b : List Byte) : Nat × Nat × Nat := (fieldAt b 0 8, fieldAt b 8 4, fieldAt b 12 1)
/-- TARGET. -/
def recTarget (b : List Byte) : Nat := fieldAt b 13 1
/-- HIST_LEN. -/
def recHistLen (b : List Byte) : Nat := fieldAt b 14 1 % 32
/-- STATE: 0 EMPTY, 1 PREPASS, 2 READY. -/
def recState (b : List Byte) : Nat := fieldAt b 16 1
/-- HIST_N. -/
def recHistN (b : List Byte) : Nat := fieldAt b 17 1
/-- HIST_IDX. -/
def recHistIdx (b : List Byte) : Nat := fieldAt b 18 1
/-- SCALE. -/
def recScale (b : List Byte) : Word := BitVec.ofNat 32 (fieldAt b 20 4)
/-- PENDING. -/
def recPending (b : List Byte) : Word := BitVec.ofNat 32 (fieldAt b 24 4)
/-- Sixteen-bit indices of a list of eight, unused entries dropped. -/
def recIndices (b : List Byte) (off : Nat) : List Nat :=
  ((List.range 8).map (fun k => fieldAt b (off + 2 * k) 2)).filter (· != 0xFFFF)
/-- OUTL, the outlier list. -/
def recOutl (b : List Byte) : List Nat := recIndices b 32
/-- An entry of HIST. -/
def recHist (b : List Byte) (k : Nat) : Word := BitVec.ofNat 32 (fieldAt b (64 + 4 * k) 4)

/-- Replace bytes of a record. -/
def recPut (b : List Byte) (off : Nat) (v : List Byte) : List Byte := b.take off ++ v ++ b.drop (off + v.length)

/-- A field outside the ranges of Table 4.3 (R115). HIST_IDX at or above HIST_LEN, which the table gives no range, is outside,
since it names no entry of the history, and an OUTL that is not ascending is not (DESIGN CHOICE, log entry 144). -/
def recBad (b : List Byte) : Bool :=
  let h := fieldAt b 14 1
  (fieldAt b 0 8 % 128 != 0) || (fieldAt b 8 4 == 0) || decide (2 < fieldAt b 12 1) || decide (5 < recTarget b) ||
  decide (h % 32 < 1) || decide (16 < h % 32) || (h / 32 % 4 != 0) || (fieldAt b 15 1 / 8 % 16 != 0) ||
  decide (2 < recState b) || decide (recHistLen b < recHistN b) || decide (recHistLen b ≤ recHistIdx b) ||
  (fieldAt b 19 1 != 0)

/-- Read a record as a device-scope atomic at its home (Table 8.5): a local line at its slice, another target as the
tenant's agent. -/
def recRead (s : State) (tenant part va : Nat) (need : Right) (rt : Bool := false) : Acc (List Byte) × State :=
  match translate s tenant va need with
  | none => (.fault .memAccess, s)
  | some (.loc pa) =>
    match readLines part tenant .plain rt (chunksOf pa 128) s [] false with
    | (none, s) => (.wait, s)
    | (some (_, true), s) => (.fault .memPoison, s)
    | (some (b, false), s) => (.ok b, s)
  | some _ => agentRead s tenant part va 128 .plain rt

/-- Write bytes of a record at its home. -/
def recWrite (s : State) (tenant part va off : Nat) (v : List Byte) (e : Issuer := {}) : Acc Unit × State :=
  match translate s tenant va .a with
  | none => (.fault .memAccess, s)
  | some (.loc pa) =>
    let rt := nodeIsRt s e.node
    if !writeMay s (pa + off) v.length part rt then (.wait, s) else (.ok (), devWrite s (pa + off) part tenant v rt)
  | some _ => agentWrite s tenant part (va + off) v e

/-- Read a record that an instruction names at issue: misaligned or invalid is SCALE_RECORD (R115). -/
def recAtIssue (s : State) (tenant part va : Nat) : Acc (List Byte) × State :=
  if va = 0 || va % 128 != 0 then (.fault .scaleRecord, s)
  else
    match recRead s tenant part va .r with
    | (.ok b, s) => if recBad b then (.fault .scaleRecord, s) else (.ok b, s)
    | r => r

/-- Q of a TARGET (Table 4.3). -/
def targetQ (t : Nat) : Rat := if t = 0 then 6 else if t = 1 then 127 else if t = 2 then 7 else if t = 3 then 448 else 57344

/-- The smallest power of two that is at least q, by its exponent. -/
def ceilLog2 (q : Rat) : Int := let e := floorLog2 q; if pow2 e = q then e else e + 1

/-- scale_from of R118 with the amax A. -/
def scaleFrom (b : List Byte) (a : Rat) : Word :=
  if a = 0 || recTarget b = 5 then toFp32 .rne xOne
  else
    let e := ceilLog2 (a * pow2 (fieldAt b 15 1 % 8 : Nat) / targetQ (recTarget b))
    toFp32 .rne (.fin false (pow2 (min 127 (max (-126) e))))

/-- The amax that R118 takes from the history. The filled entries are 0 to HIST_N − 1, where the commits of R117 put them, also
in a record whose HIST_IDX software has set to another value (DESIGN CHOICE, log entry 144). -/
def histAmax (b : List Byte) : Rat :=
  if bit (fieldAt b 14 1) 7 then xMag (ofFp32 (recHist b ((recHistIdx b + recHistLen b - 1) % recHistLen b)))
  else amaxOf ((List.range (recHistN b)).map (fun k => ofFp32 (recHist b k)))

/-- PENDING holds a contribution: it compares as at least 0 (R117). -/
def pendingHeld (p : Word) : Bool :=
  match ofFp32 p with
  | .nan => false
  | .inf neg => !neg
  | .fin neg m => !neg || decide (m = 0)

/-- AMAX.COMMIT on a record that is not in pre-pass (R117). -/
def commitRecord (b : List Byte) : List Byte :=
  let p := recPending b
  let b := if !pendingHeld p then b
    else
      let b := recPut b (64 + 4 * recHistIdx b) (leBytes 4 p.toNat)
      recPut b 17 [BitVec.ofNat 8 (min (recHistN b + 1) (recHistLen b)),
        BitVec.ofNat 8 ((recHistIdx b + 1) % recHistLen b)]
  let b := recPut b 24 (leBytes 4 0xBF800000 ++ leBytes 4 (fieldAt b 28 4 + 1))
  let b := if recHistN b = 0 then b
    else recPut (recPut b 20 (leBytes 4 (scaleFrom b (histAmax b)).toNat)) 16 [2]
  let b := if bit (fieldAt b 15 1) 7 then recPut b 32 (sliceBytes b 48 16) else b
  recPut b 48 (List.replicate 16 0xFF)

/-- Insert an index into the clip lane log: the eight smallest distinct ones, ascending (Table 4.3). -/
def clipInsert (l : List Nat) (k : Nat) : List Nat :=
  if l.contains k then l else ((l.filter (· < k)) ++ [k] ++ l.filter (k < ·)).take 8

/-- The monitor's update of a record (R116). -/
def contribute (b : List Byte) (value : Option Word) (clips : List Nat) : List Byte :=
  let b := match value with
    | some v => if xLt (ofFp32 (recPending b)) (ofFp32 v) then recPut b 24 (leBytes 4 v.toNat) else b
    | none => b
  let l := (clips.filter (· < 65535)).foldl clipInsert (recIndices b 48)
  recPut b 48 ((l ++ List.replicate (8 - l.length) 0xFFFF).flatMap (leBytes 2))

/-- Queue a contribution at the region's aggregator; as an atomic it invalidates its core's own copy of the record (R235, R248). -/
def pushAmax (s : State) (core : Nat) (u : AmaxUpd) : State :=
  let s := match translate s u.tenant u.record .a with | some t => l1Drop s core t.line | none => s
  modRegion s (coreRegion core) (fun x => { x with amax := x.amax ++ [u] })

/-- AMAX_CONTRIBUTION (R116): one atomic read-modify-write at the record's home; an inaccessible record fails the
task. -/
def execAmaxContribution (region index : Nat) (s : State) : Host.Outcome State Fault Refusal :=
  completes s (
    match (regionOf s region).amax[index]? with
    | none => s
    | some u =>
      let gone (s : State) : State := modRegion s region (fun x => { x with amax := x.amax.eraseIdx index })
      match recRead s u.tenant u.part u.record .a (nodeIsRt s u.node) with
      | (.wait, s) => s
      | (.fault f, s) => gone (failNode s u.node { status := .fault, fault := f })
      | (.ok b, s) =>
        match recWrite s u.tenant u.part u.record 0 (contribute b u.value u.clips) { die := region / 4, node := u.node } with
        | (.ok _, s) => gone s
        | (.fault f, s) => gone (failNode s u.node { status := .fault, fault := f })
        | (.wait, s) => s)

/-- AMAX.COMMIT (R117, R235): ordered after the group's earlier accesses as by FENCE.ST of device scope; it waits while
STATE reads PREPASS. As an atomic it invalidates its core's own copy of the record (R248). -/
def execAmaxCommit (i : Iss) (u : Nat) (s : State) : Host.Outcome State Fault Refusal :=
  completes s (issueWith s i [] [.u u, .u (u + 1)] [] (fun s c =>
    if c.act.isEmpty then advance s c c.g
    else if !memReady c then s
    else if !c.p.released && !fenceFree c .st .device then fencePath s c c.g c.p.pc .st .device true
    else
      let s := if c.p.released then s else markFence s c .device
      let t := c.b.task
      let va := uReg64 c u
      if va % 128 != 0 then raiseFault s c .scaleRecord
      else
        match recRead s t.tenant t.part va .a (nodeIsRt s t.node) with
        | (.wait, s) => s
        | (.fault f, s) => raiseFault s c f
        | (.ok b, s) =>
          if recBad b then raiseFault s c .scaleRecord
          else if recState b = 1 then s
          else
            match recWrite s t.tenant t.part va 0 (commitRecord b) { die := coreDie c.core, node := t.node } with
            | (.ok _, s) =>
              let s := match translate s t.tenant va .a with | some a => l1Drop s c.core a.line | none => s
              advance (bump s t.tenant 0x60150 1) c c.g
            | (.fault f, s) => raiseFault s c f
            | (.wait, s) => s))

/-- Largest finite magnitude of an extent of source elements (R120). -/
def extentAmax (fmt : Nat) (bs : List Byte) : Rat :=
  let w := elemBits fmt / 8
  amaxOf ((List.range (bs.length / w)).map (fun k => decodeElem fmt 0 (fieldAt bs (k * w) w)))

/-- The pre-pass of a record, as it starts (R120): it reads the whole extent, as .STREAM (R255), and takes the scale from its
largest finite magnitude; it waits for the host's translation. -/
def startPrePass (s : State) (c : Ctx) (record : Nat) (r : List Byte) : Option PrePass × State :=
  let t := c.b.task
  let p : PrePass := { tenant := t.tenant, part := t.part, record := record, core := c.core, slot := c.slot, node := t.node }
  let (base, lines, fmt) := recSrc r
  match agentRead s t.tenant t.part base (lines * 128) .stream (nodeIsRt s t.node) (c.core / 192) with
  | (.wait, s) => (none, s)
  | (.fault f, s) => (some { p with bad := some f }, s)
  | (.ok bs, s) => (some { p with scale := scaleFrom r (extentAmax fmt bs) }, s)

/-- PREPASS_COMPLETE (R120): SCALE from the extent's largest finite magnitude, STATE 2, the event. A fault of the read is
the fault of the group that started the pre-pass, and STATE goes back to 0. -/
def execPrepassComplete (region tenant record : Nat) (s : State) : Host.Outcome State Fault Refusal :=
  completes s (
    match (regionOf s region).prepass.find? (fun p => p.tenant == tenant && p.record == record) with
    | none => s
    | some p =>
      let gone (s : State) : State := modRegion s region (fun x => { x with prepass := x.prepass.erase p })
      let by_ : Issuer := { die := region / 4, node := p.node }
      let abort (s : State) (f : DevFault) : State :=
        match recWrite s tenant p.part record 16 [0] by_ with
        | (.wait, s) => s
        | (_, s) =>
          let s := gone s
          let pc := ((alFind (execOf s p.core).groups p.slot).bind currentPath)
          raiseFaultAt s p.core p.slot ((pc.map (·.pc)).getD 0) ((pc.map (·.lanes)).getD 0) f
      match p.bad with
      | some f => abort s f
      | none =>
        match recRead s tenant p.part record .r (nodeIsRt s p.node) with
        | (.wait, s) => s
        | (.fault f, s) => abort s f
        | (.ok b, s) =>
          match recWrite s tenant p.part record 16 ([2] ++ sliceBytes b 17 3 ++ leBytes 4 p.scale.toNat) by_ with
          | (.wait, s) => s
          | (.fault f, s) => abort s f
          | (.ok _, s) => raiseEv (bump (gone s) tenant 0x60148 1) tenant gSV 3 none)

/-! ### CVT.BLK (R204) -/

/-- Source bits of a lane, +0 for a lane that does not take part. -/
def cvtBits (c : Ctx) (w : CvtBlk) (l : Nat) : Nat :=
  if c.act.contains l then (vReg c w.v l).toNat % 2 ^ elemBits (w.src) else 0

/-- The t that a target needs: SV4 and the plain formats (R96, R97). -/
def needsT (fmt attr : Nat) : Bool := fmt == 9 || blockSize fmt attr == 0

/-- The innermost index of a block's first element: stored rows hold STRIDE bytes; STRIDE 0 is one row (log entry 26). -/
def blkPlace (d : Desc) (fmt bs blk : Nat) : Nat × Nat :=
  let per := d.stride * 8 / elemBits fmt / bs
  if per = 0 then (0, blk) else (blk / per, blk % per)

/-- One block to be written: its elements' bytes, scale entry and quality entry, with their addresses. -/
structure BlkOut where
  elems : Nat × List Byte
  scale : Nat × List Byte
  qual : Nat × List Byte
  clips : List Nat
  deriving DecidableEq, Repr

/-- Convert one block of `n` lanes; a listed outlier becomes a zero that has the source's sign once it is divided by t
(R112) from lane `l0`, at block index `blk`. -/
def cvtOne (c : Ctx) (w : CvtBlk) (d : Desc) (t : Word) (outl : List Nat) (blk l0 n : Nat) : BlkOut :=
  let (row, col) := blkPlace d w.fmt n blk
  let inner (k : Nat) : Nat := col * n + k
  let src := w.src
  let val (k : Nat) : XVal :=
    let x := cvtBits c w (l0 + k)
    if outl.contains (inner k) then .fin (bit x (elemBits src - 1) != (needsT w.fmt w.attr && xNegative (ofFp32 t))) 0
    else decodeElem src 0 x
  let xs := (List.range n).map val
  let mode (k : Nat) : Rnd :=
    if w.sr then .sr (srRandom c.b.task.seed c.b.index c.g.index c.g.srCount (l0 + k)) else .rne
  let r : CvtBlock :=
    if blockSize w.fmt w.attr = 0 then
      blockOf 0 ((xs.zipIdx).map (fun (x, k) => convertPlain w.fmt (mode k) (w.sat != .nosat) (ofFp32 t) x))
    else convertBlock w.fmt w.attr (ofFp32 t) mode xs
  let eb := elemBits w.fmt
  let sb := scaleBytes w.fmt w.attr
  { elems := (d.base + row * d.stride + col * n * eb / 8, packElems eb r.elems)
    scale := (d.scaleAddr + row * d.scaleStride + col * sb, leBytes sb r.scale)
    qual := (d.qualAddr + row * qualStride d w.fmt w.attr + 2 * col, leBytes 2 (r.flushed * 256 + r.clipped))
    clips := r.clips.map inner }

/-- The blocks of one CVT.BLK: two 16-element blocks for INT2 and ternary. -/
def cvtBlocks (c : Ctx) (w : CvtBlk) (d : Desc) (t : Word) (outl : List Nat) (blk : Nat) : List BlkOut :=
  if blockSize w.fmt w.attr = 16 then
    [cvtOne c w d t outl blk 0 16, cvtOne c w d t outl (blk + 1) 16 16]
  else [cvtOne c w d t outl blk 0 32]

/-- The stores of a block: elements, then scale and quality entries where there are any. -/
def blkStores (w : CvtBlk) (d : Desc) (o : BlkOut) : List (Bool × Nat × List Byte) :=
  [(d.slm, o.elems.1, o.elems.2)] ++
  (if blockSize w.fmt w.attr = 0 then [] else [(false, o.scale.1, o.scale.2)]) ++
  (if w.q then [(false, o.qual.1, o.qual.2)] else [])

/-- Largest finite source magnitude that takes part in the record's amax (R112, R116). A conversion without such an element
contributes nothing, rather than 0 (DESIGN CHOICE, log entry 144: the rule gives no value). -/
def cvtAmax (c : Ctx) (w : CvtBlk) (d : Desc) (outl : List Nat) (blk : Nat) : Option Word :=
  let n := if blockSize w.fmt w.attr = 16 then 16 else 32
  let vals := (List.range 32).filterMap (fun l =>
    let (_, col) := blkPlace d w.fmt n (blk + l / n)
    if outl.contains (col * n + l % n) then none
    else
      let x := decodeElem w.src 0 (cvtBits c w l)
      if xIsFin x then some x else none)
  if vals.isEmpty then none else some (toFp32 .rne (.fin false (amaxOf vals)))

/-- The end of a CVT.BLK whose t and outlier list are known. -/
def cvtFinish (s : State) (c : Ctx) (w : CvtBlk) (d : Desc) (t : Word) (outl : List Nat) (blk : Nat) : State :=
  let tx := ofFp32 t
  if needsT w.fmt w.attr && (xIsZero tx || !xIsFin tx) then raiseFault s c .descInvalid
  else
    let outs := cvtBlocks c w d t outl blk
    let stores := outs.flatMap (blkStores w d)
    let bad (slm : Bool) : Option DevFault :=
      (stores.filter (fun e => e.1 == slm)).findSome? (fun e => opCanWrite s c e.1 e.2.1 e.2.2.length)
    match (bad false).orElse (fun _ =>
        if slmOdd d.slm (elemBits w.fmt) (outs.map (·.elems.1)) then some .slmAlign else bad true) with
    | some f => raiseFault s c f
    | none =>
      match pathStores (advance s c { c.g with srCount := c.g.srCount + b2n w.sr }) c stores with
      | none => s
      | some s =>
        if w.ds then
          pushAmax s c.core { tenant := c.b.task.tenant, part := c.b.task.part, node := c.b.task.node, record := d.record,
                              value := cvtAmax c w d outl blk, clips := outs.flatMap (·.clips) }
        else s

/-- CVT.BLK (R204): with .DS the scale and the outlier list come from the record, and a first use starts its pre-pass
(R119, R120); without it t is TSCALE. A target FP32, BF16, FP16 or FP64, for which the spec gives no conversion, raises
FORMAT_RESERVED, and a CVT.BLK .SR whose guard holds in no lane does not count among the group's .SR instructions, as R94 does
not say (DESIGN CHOICES, log entry 144). -/
def execCvtBlk (i : Iss) (w : CvtBlk) (s : State) : Host.Outcome State Fault Refusal :=
  completes s (issueWith s i [] ([.u w.du, .u (w.du + 1), .v w.v] ++ (match w.blk with | .u n => [.u n] | _ => [])) [] (fun s c =>
    let t := c.b.task
    let a := uReg64 c w.du
    if c.act.isEmpty then advance s c c.g
    else if !memReady c then s
    else if a % 128 != 0 then raiseFault s c .descInvalid
    else
      match descRead s c a with
      | (.wait, s) => s
      | (.fault f, s) => raiseFault s c f
      | (.ok b, s) =>
        let d := resolveDesc t (descOf b)
        let blocks := blockSize w.fmt w.attr != 0
        let align := badAlign w.fmt w.attr d d.turned
        let inv := descBad b || d.fmt != w.fmt || d.attr != w.attr || (w.q && d.qualAddr == 0) || (blocks && d.scaleAddr == 0) ||
          scaleStray w.fmt w.attr d
        if align then raiseFault s c .operandAlign
        else if (w.fmt == 14 || d.fmt == 14) && f64Absent s then absentUnit s i
        else if !fmtValid w.fmt w.attr || !fmtValid d.fmt d.attr || w.fmt ≤ 2 || w.fmt = 14 then raiseFault s c .formatReserved
        else if w.ds then
          match recAtIssue s t.tenant t.part d.record with
          | (.wait, s) => s
          | (.fault f, s) => raiseFault s c (if inv && f != .scaleRecord then .descInvalid else f)
          | (.ok r, s) =>
            if inv then raiseFault s c .descInvalid
            else if recState r = 1 then s
            else if recState r = 0 then
              match startPrePass s c d.record r with
              | (none, s) => s
              | (some p, s) =>
                match recWrite s t.tenant t.part d.record 16 [1] { die := coreDie c.core, node := t.node } with
                | (.wait, s) => s
                | (.fault f, s) => raiseFault s c f
                | (.ok _, s) => modRegion s (coreRegion c.core) (fun x => { x with prepass := x.prepass ++ [p] })
            else cvtFinish s c w d (recScale r) (recOutl r) (immU c w.blk)
        else if d.record % 128 != 0 then raiseFault s c .scaleRecord
        else if inv then raiseFault s c .descInvalid
        else cvtFinish s c w d d.tscale [] (immU c w.blk)))

end Sys2Proof.Machine
end

