-- ==== Sys2Proof/Machine/MatrixOps.lean ====
section
/-! DEFINITION. The arithmetic of the matrix array (R45, R50, R61, R69, R83 to R88, R113): decoded operands, partial-sum
lanes, the drain, and the reading of operands and sources (R197). -/

namespace Sys2Proof.Machine

/-! ### The arithmetic of one output element -/

/-- Block index of a logical reduction index. -/
def blkOf (o : Operand) (k : Nat) : Nat := if blockSize o.fmt o.attr = 0 then 0 else k / blockSize o.fmt o.attr

/-- Scale entry of a block. -/
def scaleCode (o : Operand) (outer b : Nat) : Nat := (o.scales.getD outer []).getD b 0

/-- SV4 micro-shift of a logical reduction index (R80). -/
def shiftOf (o : Operand) (outer k : Nat) : Nat :=
  if o.fmt = 9 then bits (scaleCode o outer (k / 32)) (8 + 2 * (k % 32 / 8) + 1) (8 + 2 * (k % 32 / 8)) else 0

/-- An element as the cell multiplies it: with its micro-shift, and with its block scale when `full` (R50). A NaN scale
makes it NaN and a zero scale +0 (R77). -/
def cellVal (o : Operand) (full : Bool) (outer stored k : Nat) : XVal :=
  let e := decodeElem o.fmt o.attr ((o.elems.getD outer []).getD stored 0)
  if blockSize o.fmt o.attr = 0 then e
  else
    match decodeScale o.fmt o.attr (scaleCode o outer (blkOf o k) % 256) with
    | .nan => .nan
    | s =>
      if xIsZero s then xZero
      else
        let m := xMul (.fin false (pow2 (-(shiftOf o outer k : Int)))) e
        if full then xMul s m else m

/-- The block scale applied at the drain; NaN and zero scales are already in the elements. -/
def drainScale (o : Operand) (outer b : Nat) : XVal :=
  if blockSize o.fmt o.attr = 0 then xOne
  else
    match decodeScale o.fmt o.attr (scaleCode o outer b % 256) with
    | .nan => xOne
    | s => if xIsZero s then xOne else s

/-- Logical row of a stored row of a column (R61). -/
def logicalRow (t : Tile) (j p : Nat) : Nat :=
  if t.index.isEmpty then p else 4 * (p / 2) + (t.index.getD j []).getD p 0

/-- Products of an output element by physical row or column: (place, product). -/
def products (transposed : Bool) (d n : Nat) (t : Tile) (strm : Operand) (v o : Nat) : List (Nat × XVal) :=
  if transposed then
    (List.range n).map (fun j => (j, xMul (cellVal strm false v j j) (cellVal t.op true j o o)))
  else
    (List.range (if t.index.isEmpty then d else 2 * ceilDiv d 4)).filterMap (fun p =>
      let k := logicalRow t o p
      if k < d then some (p, xMul (cellVal strm false v k k) (cellVal t.op false o p k)) else none)

/-- acc of R83 over the groups of eight places from `lo` to `hi`; none when no place takes part. -/
def accRange (ps : List (Nat × XVal)) (lo hi : Nat) : Option XVal :=
  (List.range ((hi - lo) / 8)).foldl (fun acc q =>
    let g := (ps.filter (fun p => decide (lo + 8 * q ≤ p.1) && decide (p.1 < lo + 8 * q + 8))).map (·.2)
    if g.isEmpty then acc
    else some (round28 (xAdd (acc.getD xNegZero) (round28 (xSum g))))) none

/-- Partial-sum lanes of a column (R84). A dense stationary tile beside a streaming operand in 32-element blocks is one
lane per block of the sparse depth (log entry 27). -/
def laneCount (transposed sparse : Bool) (t strm : Operand) : Nat :=
  let b16 := blockSize t.fmt t.attr = 16 || blockSize strm.fmt strm.attr = 16
  let b32 := blockSize t.fmt t.attr = 32 || blockSize strm.fmt strm.attr = 32
  if transposed then 1
  else if sparse then (if b16 then 4 else if b32 then 2 else 1)
  else if b16 then 2 else 1

/-- x1 of R83 and R84. -/
def drainX1 (transposed : Bool) (d n : Nat) (t : Tile) (strm : Operand) (v o : Nat) : XVal :=
  let ps := products transposed d n t strm v o
  let sparse := !t.index.isEmpty
  let l := laneCount transposed sparse t.op strm
  let span := (if sparse then 64 else 32) / l
  let part (k : Nat) : Option XVal :=
    (accRange ps (32 / l * k) (32 / l * (k + 1))).map (fun acc =>
      let first := span * k
      let sa := drainScale strm v (blkOf strm first)
      let sb := if transposed then xOne else drainScale t.op o (blkOf t.op first)
      round28 (xMul acc (xMul sa sb)))
  ((List.range l).foldl (fun (x : Option XVal) k =>
    match x, part k with
    | none, y => y
    | some a, none => some a
    | some a, some b => some (round28 (xAdd a b))) none).getD xNegZero

/-- Value of the stationary element at a logical row, 0 when it is not kept, with all its scales. -/
def stationaryAt (t : Tile) (tb : XVal) (i j : Nat) : XVal :=
  if t.index.isEmpty then xMul tb (cellVal t.op true j i i)
  else xSum (((List.range 32).filter (fun p => logicalRow t j p == i && decide (p / 2 = i / 4))).map
    (fun p => xMul tb (cellVal t.op true j p i)))

/-- o of R113: the exact sum over the listed lanes of source element times the other operand's element. -/
def outlierSum (m : MmaRun) (v o : Nat) : XVal :=
  xSum ((m.outl.zipIdx).map (fun (i, k) =>
    let src (x : Nat) : XVal := decodeElem m.outlFmt 0 ((m.outlSrc.getD k []).getD x 0)
    if m.op.outlStream then xMul (src v) (stationaryAt m.tile (ofFp32 m.tb) i o)
    else xMul (src o) (xMul (ofFp32 m.ta) (cellVal m.strm true v i i))))

/-- x2 of R83, with R113's line for .OUTL; D = 0 gives zero (R67). -/
def drainX2 (m : MmaRun) (v o : Nat) : XVal :=
  if m.depth = 0 then xZero
  else
    let x := xMul (drainX1 m.op.transposed m.depth m.width m.tile m.strm v o) (xMul (ofFp32 m.ta) (ofFp32 m.tb))
    if m.op.outl then roundFp32 (xAdd (round28 x) (round28 (outlierSum m v o))) else roundFp32 x

/-- The value before the last rounding: β·c is left out without C or with β = 0 (R83); with D = 0 it stands alone (R67). -/
def preRound (m : MmaRun) (v o : Nat) : XVal :=
  let x2 := drainX2 m v o
  let b := ofFp32 m.beta
  if m.op.ct.isNone || xIsZero b then x2
  else
    let bc := xMul b (decodeElem m.op.oFmt 0 ((m.c.getD v []).getD o 0))
    if m.depth = 0 then bc else xAdd x2 bc

/-- Convert to an output format (Table 3.7). -/
def roundOut (fmt : Nat) (mode : Rnd) (sat : SatMode) (x : XVal) : Conv :=
  let big := match sat with | .sat => true | .nosat => false | .default => fmt == 3 || fmt == 4
  match floatOf fmt 0 with
  | some f => f.convert mode big x
  | none => ⟨0, false, false⟩

/-- Second dimension of the output: N in normal read, D in transposed read. -/
def outWidth (m : MmaRun) : Nat := if m.op.transposed then m.depth else m.width

/-- Whether vector v is written: its lane takes part (R69). -/
def rowLive (lanes : Lanes) (v : Nat) : Bool := lanes.getLsbD (v % 32)

/-- The vectors that are written. -/
def liveRows (m : MmaRun) : List Nat := (List.range m.len).filter (rowLive m.lanes)

/-- One output row: the values before the last rounding and the rounded elements; an .EPI tile is rounded to FP32 (R143), with
the instruction's .SR but always the default saturation (DESIGN CHOICE, log entry 144: R143 does not say whether .SAT and .NOSAT
reach that rounding). -/
def outRow (m : MmaRun) (v : Nat) : List (XVal × Conv) :=
  (List.range (outWidth m)).map (fun o =>
    let x := preRound m v o
    let mode := if m.op.sr then Rnd.sr (srRandom m.task.seed m.blockIx m.groupIx m.ordinal (v * outWidth m + o)) else .rne
    (x, if m.op.epi then roundOut 0 mode .default x else roundOut m.op.oFmt mode m.op.sat x))

/-! ### Reading operands (R197) -/

/-- Continue after a read. -/
def accBind {α β : Type} (r : Acc α × State) (k : α → State → Acc β × State) : Acc β × State :=
  match r with
  | (.ok a, s) => k a s
  | (.fault f, s) => (.fault f, s)
  | (.wait, s) => (.wait, s)

/-- Elements of `n` packed values of `w` bits. -/
def unpackElems (w n : Nat) (bs : List Byte) : List Nat :=
  let x := leNat bs
  (List.range n).map (fun k => bits x (k * w + w - 1) (k * w))

/-- Exchange rows and columns of a table with `n` columns. -/
def flipTable (n : Nat) (t : List (List Nat)) : List (List Nat) := (List.range n).map (fun j => t.map (fun r => r.getD j 0))

/-- Sums of quality entries: clipped, flushed, entries (R101). -/
def sumQual (es : List Nat) : Nat × Nat × Nat :=
  (es.foldl (fun a e => a + e % 256) 0, es.foldl (fun a e => a + e / 256) 0, es.length)

/-- Entries of a quality array are for one block, or 32 elements. -/
def qualBlock (fmt attr : Nat) : Nat := if blockSize fmt attr = 0 then 32 else blockSize fmt attr

/-- Ranges of quality entries: `n` of each outer index from entry `first`. -/
def qualRanges (d : Desc) (fmt attr : Nat) (outers : List Nat) (first n : Nat) : List (Nat × Nat) :=
  if d.qualAddr = 0 then [] else outers.map (fun x => (d.qualAddr + x * qualStride d fmt attr + 2 * first, 2 * n))

/-- Ranges of scale entries: `n` of each outer index from block `first`. -/
def scaleRanges (d : Desc) (fmt attr : Nat) (outers : List Nat) (first n : Nat) : List (Nat × Nat) :=
  let sb := scaleBytes fmt attr
  if blockSize fmt attr = 0 then [] else outers.map (fun x => (d.scaleAddr + x * d.scaleStride + first * sb, n * sb))

/-- Read quality entries: `n` of each outer index from entry `first`; none without a quality array. -/
def readQual (c : Ctx) (d : Desc) (fmt attr : Nat) (outers : List Nat) (first n : Nat) (s : State) :
    Acc (List (List Nat)) × State :=
  if d.qualAddr = 0 then (.ok [], s)
  else
    accBind (opReads c false (qualRanges d fmt attr outers first n) s)
      (fun bs s => (.ok (bs.map (fun b => (List.range n).map (fun i => fieldAt b (2 * i) 2))), s))

/-- An operand with the counts of its quality entries (R102). -/
def Operand.withQual (o : Operand) (es : List Nat) : Operand :=
  let (cl, fl, k) := sumQual es
  { o with qClip := cl, qFlush := fl, qElems := k * qualBlock o.fmt o.attr }

/-- Read scale entries: `n` of each outer index from block `first`. -/
def readScales (c : Ctx) (d : Desc) (fmt attr : Nat) (outers : List Nat) (first n : Nat) (s : State) :
    Acc (List (List Nat)) × State :=
  let sb := scaleBytes fmt attr
  if blockSize fmt attr = 0 then (.ok (outers.map (fun _ => [])), s)
  else
    accBind (opReads c false (scaleRanges d fmt attr outers first n) s)
      (fun bs s => (.ok (bs.map (fun b => (List.range n).map (fun i => fieldAt b (i * sb) sb))), s))

/-- The 2-bit indices of 2:4 metadata: those of column j from bit 64 j on, stored row p at bit 2 p (log entry 28). -/
def metaIndex (bs : List Byte) (cols rows : Nat) : List (List Nat) :=
  (List.range cols).map (fun j => (List.range rows).map (fun p => bits (fieldAt bs (8 * j) 8) (2 * p + 1) (2 * p)))

/-- Stored rows of a tile. -/
def storedRows (sparse : Bool) (d : Nat) : Nat := if sparse then 2 * ceilDiv d 4 else d

/-- Byte ranges of the stationary elements. -/
def tileElemRanges (d : Desc) (w rows n : Nat) : List (Nat × Nat) :=
  if d.colMajor then (List.range n).map (fun j => (d.base + j * d.stride, ceilDiv (rows * w) 8))
  else (List.range rows).map (fun i => (d.base + i * d.stride, ceilDiv (n * w) 8))

/-- Bytes as a read would find them now, without its effects; none where it faults or waits. -/
def peekBytes (s : State) (c : Ctx) (slm : Bool) (a n : Nat) : Option (List Byte) :=
  match opRead s c slm a n with
  | (.ok b, _) => some b
  | _ => none

/-- A table of 32 outer indices: what was read, beyond it what a read would find, and free values where there is nothing to
read (log entry 29). -/
def wholeTable (s : State) (c : Ctx) (slm : Bool) (w cols : Nat) (read : List (List Nat)) (full : List (Nat × Nat)) :
    List (List Nat) :=
  (full.zipIdx).map (fun (r, k) =>
    let got := read.getD k []
    let rest := (peekBytes s c slm r.1 r.2).map (unpackElems w cols)
    got ++ (List.range (cols - got.length)).map (fun i =>
      match rest with
      | some es => es.getD (got.length + i) 0
      | none => (Config.fresh (s.freeCtr + cols * k + got.length + i)).toNat % 2 ^ w))

/-- Load a stationary tile (R48, R61, R197): the loader writes every cell, so the tile serves each shape until its handle is
written again. The instruction's own D × N elements are its reads, with their faults; the other cells, which no result of this
instruction meets, hold what lies there (`wholeTable`). -/
def loadTile (c : Ctx) (d : Desc) (fmt attr depth n handle version : Nat) (s : State) : Acc Tile × State :=
  let w := elemBits fmt
  let rows := storedRows d.sparse depth
  let deep := if d.sparse then 64 else 32
  let bz := max 1 (blockSize fmt attr)
  let sb := scaleBytes fmt attr
  let qn := if d.colMajor then ceilDiv deep (qualBlock fmt attr) else 1
  accBind (opReads c d.slm (tileElemRanges d w rows n) s) (fun bs s =>
    let read := bs.map (unpackElems w (if d.colMajor then rows else n))
    accBind (readScales c d fmt attr (List.range n) 0 (ceilDiv depth bz) s) (fun scales s =>
      let (outers, q) := if d.colMajor then (List.range n, ceilDiv depth (qualBlock fmt attr))
                         else (List.range rows, ceilDiv n 32)
      accBind (readQual c d fmt attr outers 0 q s) (fun qs s =>
        accBind (if d.sparse then opRead s c false d.metaAddr 256 else (.ok [], s)) (fun mb s =>
          let es := wholeTable s c d.slm w 32 read (tileElemRanges d w 32 32)
          let sc := if blockSize fmt attr = 0 then scales
            else wholeTable { s with freeCtr := s.freeCtr + 1024 } c false (8 * sb) (deep / bz) scales
              ((List.range 32).map (fun x => (d.scaleAddr + x * d.scaleStride, deep / bz * sb)))
          let ql := if d.qualAddr = 0 then []
            else wholeTable { s with freeCtr := s.freeCtr + 4096 } c false 16 qn qs
              ((List.range 32).map (fun x => (d.qualAddr + x * qualStride d fmt attr, 2 * qn)))
          (.ok { slot := c.slot, handle := handle, version := version, rows := depth, cols := n,
                 op := { fmt := fmt, attr := attr, elems := if d.colMajor then es else flipTable 32 es, scales := sc },
                 index := if d.sparse then metaIndex mb 32 32 else [], quals := ql, qCol := d.colMajor },
           { s with freeCtr := s.freeCtr + 8192 })))))

/-- A loaded tile as an instruction uses it: the counts of the entries that its D × N elements have (R102). Under a format
other than the one it was loaded in, every element and scale is free (log entry 29). -/
def useTile (t : Tile) (fmt attr d n : Nat) (s : State) : Tile × State :=
  let qs := if t.qCol then (t.quals.take n).flatMap (fun l => l.take (ceilDiv d (qualBlock t.op.fmt t.op.attr)))
            else (t.quals.take (storedRows (!t.index.isEmpty) d)).flatMap (fun l => l.take (ceilDiv n 32))
  if t.op.fmt = fmt && t.op.attr = attr then ({ t with op := t.op.withQual qs }, s)
  else
    let free (k m : Nat) : List (List Nat) := (List.range 32).map (fun j => (List.range 64).map (fun i =>
      (Config.fresh (s.freeCtr + k + 64 * j + i)).toNat % 2 ^ m))
    ({ t with op := ({ fmt := fmt, attr := attr, elems := free 0 (elemBits fmt), scales := free 2048 (8 * scaleBytes fmt attr) }
        : Operand).withQual qs }, { s with freeCtr := s.freeCtr + 4096 })

/-- Read a direct stream (R197); absent vectors are zeros and are not fetched (R69). -/
def loadStream (c : Ctx) (d : Desc) (fmt attr red k vorg korg : Nat) (lanes : Lanes) (s : State) : Acc Operand × State :=
  let w := elemBits fmt
  let vs := (List.range k).filter (rowLive lanes)
  let spread (xs : List (List Nat)) : List (List Nat) :=
    (List.range k).map (fun v => (((vs.zip xs).find? (fun e => e.1 == v)).map (·.2)).getD [])
  accBind (opReads c d.slm (vs.map (fun v => (d.base + (vorg + v) * d.stride + korg * w / 8, ceilDiv (red * w) 8))) s)
    (fun bs s =>
      let bsz := max 1 (blockSize fmt attr)
      accBind (readScales c d fmt attr (vs.map (vorg + ·)) (korg / bsz) (ceilDiv red bsz) s) (fun scales s =>
        let o : Operand := { fmt := fmt, attr := attr, elems := spread (bs.map (unpackElems w red)), scales := spread scales }
        accBind (readQual c d fmt attr (vs.map (vorg + ·)) (korg / qualBlock fmt attr) (ceilDiv red (qualBlock fmt attr)) s)
          (fun qs s => (.ok (o.withQual qs.flatten), s))))

/-- Read the rows of C. -/
def loadC (c : Ctx) (d : Desc) (fmt w k : Nat) (lanes : Lanes) (s : State) : Acc (List (List Nat)) × State :=
  let eb := elemBits fmt
  let vs := (List.range k).filter (rowLive lanes)
  accBind (opReads c d.slm (vs.map (fun v => (d.base + v * d.stride, ceilDiv (w * eb) 8))) s) (fun bs s =>
    (.ok ((List.range k).map (fun v => (((vs.zip bs).find? (fun e => e.1 == v)).map (fun e => unpackElems eb w e.2)).getD [])), s))

/-! ### Sources (R104, R107, R113, R132) -/

/-- Ranges of the stationary source: by column, or by logical row of a row-major one. -/
def statSrcRanges (d : Desc) (depth n : Nat) : List (Nat × Nat) :=
  let w := elemBits d.srcFmt
  if d.colMajor then (List.range n).map (fun j => (d.srcAddr + j * d.srcStride, depth * w / 8))
  else (List.range depth).map (fun i => (d.srcAddr + i * d.srcStride, n * w / 8))

/-- Ranges of the streaming source: by vector, or by reduction index of a turned one (R132). -/
def streamSrcRanges (d : Desc) (red k vorg korg : Nat) (lanes : Lanes) : List (Nat × Nat) :=
  let w := elemBits d.srcFmt
  if d.turned then (List.range red).map (fun i => (d.srcAddr + (korg + i) * d.srcStride + vorg * w / 8, k * w / 8))
  else ((List.range k).filter (rowLive lanes)).map (fun v => (d.srcAddr + (vorg + v) * d.srcStride + korg * w / 8, red * w / 8))

/-- Read the stationary source: by column, logical row. -/
def srcStationary (c : Ctx) (d : Desc) (depth n : Nat) (s : State) : Acc (List (List Nat)) × State :=
  let w := elemBits d.srcFmt
  accBind (opReads c false (statSrcRanges d depth n) s) (fun bs s =>
    (.ok (if d.colMajor then bs.map (unpackElems w depth) else flipTable n (bs.map (unpackElems w n))), s))

/-- Read the streaming source: by vector, reduction index. A turned source has the turned operand's stored form (R132); the
escalation reads it through the transposing buffer instead. -/
def srcStream (c : Ctx) (d : Desc) (red k vorg korg : Nat) (lanes : Lanes) (s : State) : Acc (List (List Nat)) × State :=
  let w := elemBits d.srcFmt
  let vs := (List.range k).filter (rowLive lanes)
  accBind (opReads c false (streamSrcRanges d red k vorg korg lanes) s) (fun bs s =>
    (.ok (if d.turned then flipTable k (bs.map (unpackElems w k))
      else (List.range k).map (fun v => (((vs.zip bs).find? (fun e => e.1 == v)).map (fun e => unpackElems w red e.2)).getD [])), s))

/-- Step-up target of a class (Table 4.2): code and attribute. -/
def stepTarget (p srcFmt : Nat) : Nat × Nat :=
  if p = 8 then (5, 0) else if p = 16 then (8, 0) else if srcFmt = 2 then (2, 0) else (1, 0)

/-- Whether an operand of an .ESC instruction is narrower than its target (R104). -/
def narrower (p fmt srcFmt : Nat) : Bool := decide (elemBits fmt < elemBits (stepTarget p srcFmt).1)

/-- Convert one vector of source values to the target (R107): element codes and scales; positions not in `keep`, which the
tile's metadata does not keep or which are outlier lanes (R114), are zeros and out of the blocks. -/
def stepVector (fmt attr : Nat) (keep : Nat → Bool) (xs : List XVal) : List Nat × List Nat :=
  let ys := (xs.zipIdx).map (fun (x, k) => if keep k then x else xZero)
  if blockSize fmt attr = 0 then (ys.map (fun x => (roundOut fmt .rne .default x).bits), [])
  else
    let blocks := (List.range (ceilDiv ys.length 32)).map (fun b => convertMx fmt attr (fun _ => .rne) ((ys.drop (32 * b)).take 32))
    (blocks.flatMap (·.elems), blocks.map (·.scale))

/-- The stationary tile stepped up; `outl` are its outlier lanes. -/
def stepTile (t : Tile) (tgt : Nat × Nat) (srcFmt : Nat) (outl : List Nat) (src : List (List Nat)) : Tile :=
  let cols := (src.zipIdx).map (fun (col, j) =>
    let keep (k : Nat) : Bool := !outl.contains k && (t.index.isEmpty || (List.range (t.index.getD j []).length).any (fun p => logicalRow t j p == k))
    let (es, sc) := stepVector tgt.1 tgt.2 keep (col.map (decodeElem srcFmt 0))
    (if t.index.isEmpty then es else (List.range (t.index.getD j []).length).map (fun p => es.getD (logicalRow t j p) 0), sc))
  { t with op := { t.op with fmt := tgt.1, attr := tgt.2, elems := cols.map (·.1), scales := cols.map (·.2) } }

/-- The stream stepped up; `outl` are its outlier lanes. -/
def stepStream (tgt : Nat × Nat) (srcFmt : Nat) (outl : List Nat) (src : List (List Nat)) : Operand :=
  let vs := src.map (fun v => stepVector tgt.1 tgt.2 (fun k => !outl.contains k) (v.map (decodeElem srcFmt 0)))
  { fmt := tgt.1, attr := tgt.2, elems := vs.map (·.1), scales := vs.map (·.2) }

end Sys2Proof.Machine
end

