-- ==== Sys2Proof/Machine/Vector.lean ====
section
/-! DEFINITION. Vector, special-function and scalar-conversion instructions (R163 to R166, R99): each acts in the
lanes of the current path under the guard. -/

namespace Sys2Proof.Machine

/-- A 32-bit lane operation of up to three sources. -/
def lane3 (s : State) (i : Iss) (d a b c : Opd) (f : Word → Word → Word → Word) : State :=
  issueWith s i (vRegs false d) [a, b, c] [] (fun s k =>
    advance (usedFree s d) k (writeD s k.g d (k.act.map (fun l => (l, f (opdLane k a l) (opdLane k b l) (opdLane k c l))))))

/-- A lane operation of two sources. -/
def lane2 (s : State) (i : Iss) (d a b : Opd) (f : Word → Word → Word) : State :=
  lane3 s i d a b .none (fun x y _ => f x y)

/-- A lane operation of one source. -/
def lane1 (s : State) (i : Iss) (d a : Opd) (f : Word → Word) : State :=
  lane3 s i d a .none .none (fun x _ _ => f x)

/-- A 64-bit lane operation of up to three sources. -/
def lane64 (s : State) (i : Iss) (d a b c : Opd) (f : DWord → DWord → DWord → DWord) : State :=
  issueWith s i (vRegs true d) [] [a, b, c] (fun s k =>
    advance (usedFree s d) k
      (writeD64 s k.g d (k.act.map (fun l => (l, f (opdLane64 k a l) (opdLane64 k b l) (opdLane64 k c l))))))

/-- ADD (R99, R163). -/
def execAdd (i : Iss) (ty : LaneTy) (r : LaneRnd) (d a b : Opd) (s : State) : Host.Outcome State Fault Refusal :=
  completes s (lane2 s i d a b (addLane ty r))

/-- SUB (R99). -/
def execSub (i : Iss) (ty : LaneTy) (r : LaneRnd) (d a b : Opd) (s : State) : Host.Outcome State Fault Refusal :=
  completes s (lane2 s i d a b (subLane ty r))

/-- MUL (R99, R163). -/
def execMul (i : Iss) (ty : LaneTy) (r : LaneRnd) (d a b : Opd) (s : State) : Host.Outcome State Fault Refusal :=
  completes s (lane2 s i d a b (mulLane ty r))

/-- FMA (R99): one rounding. -/
def execFma (i : Iss) (r : LaneRnd) (d a b c : Opd) (s : State) : Host.Outcome State Fault Refusal :=
  completes s (lane3 s i d a b c (fmaLane r))

/-- MAD.S32: the low 32 bits of a × b + c. -/
def execMadS32 (i : Iss) (d a b c : Opd) (s : State) : Host.Outcome State Fault Refusal :=
  completes s (lane3 s i d a b c (fun x y z => x * y + z))

/-- MIN (R99). -/
def execMin (i : Iss) (ty : LaneTy) (d a b : Opd) (s : State) : Host.Outcome State Fault Refusal :=
  completes s (lane2 s i d a b (pickLane ty false))

/-- MAX (R99). -/
def execMax (i : Iss) (ty : LaneTy) (d a b : Opd) (s : State) : Host.Outcome State Fault Refusal :=
  completes s (lane2 s i d a b (pickLane ty true))

/-- SETP: a predicate per lane. -/
def execSetp (i : Iss) (ty : LaneTy) (cmp : Cmp) (d a b : Opd) (s : State) : Host.Outcome State Fault Refusal :=
  completes s (lane2 s i d a b (fun x y => if cmpLane ty cmp x y then 1 else 0))

/-- AND. -/
def execAnd (i : Iss) (d a b : Opd) (s : State) : Host.Outcome State Fault Refusal :=
  completes s (lane2 s i d a b (fun x y => x &&& y))

/-- OR. -/
def execOr (i : Iss) (d a b : Opd) (s : State) : Host.Outcome State Fault Refusal :=
  completes s (lane2 s i d a b (fun x y => x ||| y))

/-- XOR. -/
def execXor (i : Iss) (d a b : Opd) (s : State) : Host.Outcome State Fault Refusal :=
  completes s (lane2 s i d a b (fun x y => x ^^^ y))

/-- SHL. -/
def execShl (i : Iss) (d a b : Opd) (s : State) : Host.Outcome State Fault Refusal :=
  completes s (lane2 s i d a b shlLane)

/-- SHR. -/
def execShr (i : Iss) (ty : LaneTy) (d a b : Opd) (s : State) : Host.Outcome State Fault Refusal :=
  completes s (lane2 s i d a b (shrLane ty))

/-- The 16-bit random value of a stochastic CVT: R94 assigns element positions to matrix and CVT.BLK results only, so
it is a free value here (log entry 18). -/
def cvtRandom (s : State) (l : Nat) : Nat := (Config.fresh (s.freeCtr + 2 + l)).toNat % 65536

/-- CVT (R99): a 64-bit source or destination is a register pair; a stochastic conversion counts as one .SR
instruction of the group (R94). R89 offers .RZ, .RU and .RD for FP32 and FP64 results; what they do with another target the
spec does not say, and the model rounds in that direction (DESIGN CHOICE, log entry 144). -/
def execCvt (i : Iss) (dty sty : CvtTy) (r : LaneRnd) (sat : SatMode) (d a : Opd) (s : State) :
    Host.Outcome State Fault Refusal :=
  completes s (
    if (dty == .f64 || sty == .f64) && f64Absent s then absentUnit s i
    else
      let sw := cvtWide sty
      issueWith s i (vRegs (cvtWide dty) d) (if sw then [] else [a]) (if sw then [a] else []) (fun s k =>
        let src (l : Nat) : DWord := if sw then opdLane64 k a l else (opdLane k a l).setWidth 64
        let val (l : Nat) : DWord := cvtLane dty sty (laneRnd (cvtRandom s l) r) sat (src l)
        let g := if cvtWide dty then writeD64 s k.g d (k.act.map (fun l => (l, val l)))
                 else writeD s k.g d (k.act.map (fun l => (l, (val l).setWidth 32)))
        let g := if r == .sr then { g with srCount := g.srCount + 1 } else g
        advance (if r == .sr then { s with freeCtr := s.freeCtr + 34 } else usedFree s d) k g))

/-- A special value of Table 7.4, as 64 bits (R195). -/
def specialVal (k : Ctx) (l : Nat) : Special → Nat
  | .lane => l
  | .group => k.g.index
  | .block => k.b.index
  | .nblocks => k.b.task.nblocks
  | .targs => k.b.task.targs
  | .vrefRd n => k.b.task.vrd.getD n 0
  | .vrefWr n => k.b.task.vwr.getD n 0
  | .core => locOf k.core

/-- Whether a special value is 64 bits wide. -/
def specialWide : Special → Bool
  | .targs => true
  | .vrefRd _ => true
  | .vrefWr _ => true
  | _ => false

/-- MOV: a register move, or a read of a special value (R195). -/
def execMov (i : Iss) (d : Opd) (src : MovSrc) (s : State) : Host.Outcome State Fault Refusal :=
  completes s (
    match src with
    | .opd a => lane1 s i d a (fun x => x)
    | .special z =>
      issueWith s i (vRegs (specialWide z) d) [] [] (fun s k =>
        let v (l : Nat) : DWord := BitVec.ofNat 64 (specialVal k l z)
        advance (usedFree s d) k
          (if specialWide z then writeD64 s k.g d (k.act.map (fun l => (l, v l)))
           else writeD s k.g d (k.act.map (fun l => (l, (v l).setWidth 32))))))

/-- SEL: a where the predicate is true, b elsewhere. -/
def execSel (i : Iss) (d a b p : Opd) (s : State) : Host.Outcome State Fault Refusal :=
  completes s (lane3 s i d a b p (fun x y q => if q.getLsbD 0 then x else y))

/-- A 64-bit floating operation of a lane. -/
def f64Lane (op : F64Op) (r : LaneRnd) (a b c : DWord) : DWord :=
  let m := arithRnd r
  let x := fmtFP64.decode a.toNat
  let y := fmtFP64.decode b.toNat
  let z := fmtFP64.decode c.toNat
  match op with
  | .add => BitVec.ofNat 64 (addVal fmtFP64 m x y)
  | .sub => BitVec.ofNat 64 (addVal fmtFP64 m x (xNeg y))
  | .mul => BitVec.ofNat 64 (fmtFP64.convert m false (xMul x y)).bits
  | .fma => BitVec.ofNat 64 (fmaVal fmtFP64 m x y z)
  | .min => BitVec.ofNat 64 (pickVal fmtFP64 false a.toNat b.toNat)
  | .max => BitVec.ofNat 64 (pickVal fmtFP64 true a.toNat b.toNat)
  | .setp k => if cmpVal k x y then 1 else 0
  | .mov => a
  | .sel => if c.getLsbD 0 then a else b

/-- An FP64 instruction (R166): its lanes, or the handling of an absent unit. -/
def execF64Op (i : Iss) (op : F64Op) (r : LaneRnd) (d a b c : Opd) (s : State) : Host.Outcome State Fault Refusal :=
  completes s (if f64Absent s then absentUnit s i else lane64 s i d a b c (f64Lane op r))

/-- A special function of one FP32 lane, rounded to nearest even (R165). -/
def specialLane (f : XVal → XVal) (x : Word) : Word := toFp32 .rne (f (ofFp32 x))

/-- EXP.F32 (R165). -/
def execExpF32 (i : Iss) (d a : Opd) (s : State) : Host.Outcome State Fault Refusal :=
  completes s (lane1 s i d a (specialLane expFp32))

/-- EXP2.F32 (R165). -/
def execExp2F32 (i : Iss) (d a : Opd) (s : State) : Host.Outcome State Fault Refusal :=
  completes s (lane1 s i d a (specialLane exp2Fp32))

/-- LOG2.F32 (R165). -/
def execLog2F32 (i : Iss) (d a : Opd) (s : State) : Host.Outcome State Fault Refusal :=
  completes s (lane1 s i d a (specialLane log2Fp32))

/-- RCP.F32 (R165). -/
def execRcpF32 (i : Iss) (d a : Opd) (s : State) : Host.Outcome State Fault Refusal :=
  completes s (lane1 s i d a (specialLane rcpFp32))

/-- RSQ.F32 (R165). -/
def execRsqF32 (i : Iss) (d a : Opd) (s : State) : Host.Outcome State Fault Refusal :=
  completes s (lane1 s i d a (specialLane rsqFp32))

/-- SQRT.F32 (R165). -/
def execSqrtF32 (i : Iss) (d a : Opd) (s : State) : Host.Outcome State Fault Refusal :=
  completes s (lane1 s i d a (specialLane sqrtFp32))

end Sys2Proof.Machine
end

