-- ==== Sys2Proof/Machine/Matrix.lean ====
section
/-! DEFINITION. Matrix instructions (spec chapters 02 and 04, R126 to R131, R143 to R145): issue, turn units, the evaluation
after the stream, and the last drain write with its tile report. -/

namespace Sys2Proof.Machine

/-- Change a matrix instruction in the array of a core. -/
def modMma (s : State) (core id : Nat) (f : MmaRun → MmaRun) : State :=
  modExec s core (fun x => { x with mmas := x.mmas.map (fun m => if m.id = id then f m else m) })

/-- The turn slots of a cluster that a core's instruction consumes no longer. -/
def leaveTurns (s : State) (core id : Nat) : State :=
  modCluster s (coreCluster core) (fun k =>
    let turns := (alMap k.turns (fun _ t => { t with consumers := t.consumers.filter (fun e => e != (core, id)) })).filter
      (fun e => !e.2.consumers.isEmpty)
    { k with turns := turns })

/-- Take an instruction out of the array. -/
def removeMma (s : State) (core id : Nat) : State :=
  leaveTurns (modExec s core (fun x => { x with mmas := x.mmas.filter (fun m => m.id != id) })) core id

/-- Whether an instruction in the array is a younger one of the same group. -/
def youngerThan (m q : MmaRun) : Bool :=
  q.task.node == m.task.node && q.blockIx == m.blockIx && q.groupIx == m.groupIx && decide (m.id < q.id)

/-- A fault of an instruction in the array (R49): nothing is written, and the younger matrix instructions of its group are
squashed, as are its younger stores (`lateFault`); it is raised at the instruction, or at its task when its group has gone. -/
def mmaFault (s : State) (core : Nat) (m : MmaRun) (f : DevFault) : State :=
  let s := ((execOf s core).mmas.filter (youngerThan m)).foldl (fun s q => removeMma s core q.id) (removeMma s core m.id)
  if (alFind (execOf s core).groups m.slot).isSome then lateFault s core m.id m.slot m.pc m.lanes f
  else failNode (if f = .memPoison then poisonConsumed s m.task.tenant else s) m.task.node
    { status := .fault, fault := f, loc := locOf core, pc := m.pc, lanes := m.lanes.toNat }

/-! ### Precision policy (R105, R121, Table 4.4) -/

/-- OBSERVE and REPORT_EACH. -/
def polObserve (p : Nat) : Bool := bit p 55
/-- See `polObserve`. -/
def polEach (p : Nat) : Bool := bit p 54
/-- Whether a class may escalate, by packing. -/
def polEnables (p packing : Nat) : Bool := if packing = 8 then bit p 51 else if packing = 4 then bit p 52 else bit p 53
/-- A comparison of R105. -/
def passes (count thr total : Nat) : Bool := decide (thr * total < count * 65536)

/-- Packing of an instruction: that of its wider operand's class (R45). -/
def mmaPacking (op : MmaOp) : Nat := min (packing op.sFmt) (packing op.tFmt)

/-- Clip and flush comparisons of operand counts. -/
def opTriggers (pol clip flush e : Nat) : Bool × Bool := (passes clip (bits pol 11 0) e, passes flush (bits pol 23 12) e)

/-! ### Turned streams (R125 to R131) -/

/-- Vectors of a unit in units of 32: the packing of the class; an FP32 escalation source has 32 elements in a 128-byte row
(R126, R132; DEDUCED, log entry 144). -/
def turnPack (fmt : Nat) : Nat := max 1 (packing fmt)

/-- The turn units of a stream: vectors in units of 32 × p, reduction indices in units of 32 (R126). -/
def turnNeeds (red k vorg korg p : Nat) : List TurnNeed :=
  let u := 32 * p
  let v0 := vorg / u
  let v1 := (vorg + k - 1) / u
  (List.range (v1 + 1 - v0)).flatMap (fun a => (List.range (ceilDiv red 32)).map (fun b =>
    { k := korg + 32 * b, v := (v0 + a) * u }))

/-- Reduction depth of an instruction. -/
def redOf (m : MmaRun) : Nat := if m.op.transposed then m.width else m.depth

/-- Key of a unit (R130): of the operand, or of the escalation source that a stepped-up execution reads in EXACT mode
(R132). Beside the parts the rule lists it holds the depth that the unit is filled to, the tenant and, for local memory, the
core and block, so that units that would hold other data are not shared (DESIGN CHOICE, log entry 144). -/
def turnKey (m : MmaRun) (core : Nat) (n : TurnNeed) : TurnKey :=
  let d := descOf m.stDesc
  let src := m.escSrc.isSome
  { src := if src then d.srcAddr else d.base, stride := if src then d.srcStride else d.stride, k := n.k, v := n.v,
    fmt := if src then d.srcFmt else m.op.tFmt, attr := if src then 0 else m.op.tAttr,
    reblock := !src && blockSize m.op.tFmt m.op.tAttr != 0, t := if !src && m.op.tFmt = 9 then m.ta else 0,
    depth := min 32 (m.korg + redOf m - n.k), tenant := m.task.tenant,
    slm := if d.slm && !src then some (core, (m.blockIx)) else none, source := src }

/-- The vectors of a unit that an instruction takes: those below K whose lane takes part. -/
def unitVectors (m : MmaRun) (v nv : Nat) : List Nat :=
  (List.range m.len).filter (fun x => decide (v ≤ m.vorg + x) && decide (m.vorg + x < v + nv) && rowLive m.lanes x)

/-- Quality entries of a stored row of a unit, `q` vectors each, that the instruction's vectors meet. -/
def unitEntries (m : MmaRun) (v nv q : Nat) : List Nat :=
  (List.range (nv / q)).filter (fun e => decide (v + q * e < m.vorg + m.len) && decide (m.vorg < v + q * e + q))

/-- Elements that a unit adds to E_OP, each once (R128): those of the re-blocker's new blocks, and in EXACT mode those of the
source's own entries. -/
def unitElems (m : MmaRun) (n : TurnNeed) : Nat :=
  let nv := 32 * turnPack m.op.tFmt
  if blockSize m.op.tFmt m.op.tAttr != 0 then 32 * (unitVectors m n.v nv).length
  else if (descOf m.stDesc).qualAddr = 0 then 0
  else min 32 (m.korg + redOf m - n.k) * 32 * (unitEntries m n.v nv 32).length

/-- The full E_OP of an instruction at its issue (R106). -/
def fullElems (m : MmaRun) : Nat :=
  m.tile.op.qElems + m.strm.qElems + (m.need.map (unitElems m)).foldl (· + ·) 0

/-- Put a unit's groups into a consumer's stream (R128, R130): only its own vectors, and their quality counts; or into the
escalation source of its stepped-up execution (R132). -/
def takeUnit (t : TurnSlot) (m : MmaRun) : MmaRun :=
  let red := redOf m
  let r0 := t.key.k - m.korg
  let bs := blockSize m.op.tFmt m.op.tAttr
  let nv := t.data.elems.length
  let put (old new : List Nat) (at_ n : Nat) : List Nat :=
    (List.range n).map (fun i => if decide (at_ ≤ i) && decide (i < at_ + new.length) then new.getD (i - at_) 0 else old.getD i 0)
  let mine := unitVectors m t.key.v nv
  let place (v : Nat) : Nat := m.vorg + v - t.key.v
  let fill (old new : List (List Nat)) (at_ n : Nat) : List (List Nat) := (List.range m.len).map (fun v =>
    if mine.contains v then put (old.getD v []) (new.getD (place v) []) at_ n else old.getD v [])
  let need := m.need.filter (fun n => !(n.k == t.key.k && n.v == t.key.v))
  match m.escSrc with
  | some src => { m with escSrc := some (fill src t.data.elems r0 red), need := need }
  | none =>
    let qs := mine.map (fun v => t.quals.getD (place v) (0, 0))
    let (cl, fl, _) := sumQual ((unitEntries m t.key.v nv (qualBlock m.op.tFmt m.op.tAttr)).flatMap (fun e =>
      t.srcQuals.map (fun r => r.getD e 0)))
    { m with
      strm := { m.strm with
        elems := fill m.strm.elems t.data.elems r0 red
        scales := if bs = 0 then m.strm.scales else fill m.strm.scales t.data.scales (r0 / max 1 bs) (ceilDiv red (max 1 bs))
        qClip := m.strm.qClip + cl + qs.foldl (fun a q => a + q.1) 0
        qFlush := m.strm.qFlush + fl + qs.foldl (fun a q => a + q.2) 0
        qElems := m.strm.qElems + unitElems m { k := t.key.k, v := t.key.v } }
      need := need }

/-- A consumer leaves a slot whose groups it has taken; the last one frees it (R130). -/
def afterTake (s : State) (cl slot core id : Nat) : State :=
  modCluster s cl (fun k => match alFind k.turns slot with
    | none => k
    | some t =>
      let t := { t with consumers := t.consumers.filter (fun e => e != (core, id)) }
      { k with turns := if t.consumers.isEmpty then alDel k.turns slot else alPut k.turns slot t })

/-- Request the units an instruction still needs (R126, R130): join another core's slot with the same key unless a fence of
this core came after its fill began, or take a free slot of its own two. -/
def requestUnit (s : State) (core : Nat) (m : MmaRun) (n : TurnNeed) : State :=
  let cl := coreCluster core
  let key := turnKey m core n
  let turns := (clusterOf s cl).turns
  let own : List Nat := [2 * (core % 8), 2 * (core % 8) + 1]
  if turns.any (fun e => e.2.consumers.contains (core, m.id) && e.2.key == key) then s
  else
    match turns.find? (fun e => e.2.key == key && !own.contains e.1 && decide ((execOf s core).fenceAt ≤ e.2.begun)) with
    | some (i, t) =>
      let s := modCluster s cl (fun k => { k with turns := alPut k.turns i { t with consumers := t.consumers ++ [(core, m.id)] } })
      if t.ready then afterTake (modMma s core m.id (takeUnit t)) cl i core m.id else s
    | none =>
      match own.find? (fun i => (alFind turns i).isNone) with
      | none => s
      | some i =>
        let (b, s) := takeSeq s
        let bk := ((alFind (execOf s core).groups m.slot).map (·.block)).getD 0
        let t : TurnSlot :=
          { key := key, desc := m.stDesc, task := m.task, core := core, slot := m.slot, block := bk,
            data := { fmt := m.op.tFmt, attr := m.op.tAttr, elems := [], scales := [] }, begun := b,
            consumers := [(core, m.id)] }
        modCluster s cl (fun k => { k with turns := alPut k.turns i t })

/-- Request units for every instruction of a core, oldest first. -/
def requestTurns (s : State) (core : Nat) : State :=
  (execOf s core).mmas.foldl (fun s m => m.need.foldl (fun s n =>
    match (execOf s core).mmas.find? (fun x => x.id == m.id) with
    | some m => if m.need.contains n then requestUnit s core m n else s
    | none => s) s) s

/-- Read ranges through the transposing buffer: shared local memory of the block, or memory at its homes, without the L1 and
the write buffer (R130, R248). -/
def turnReads (c : Ctx) (slm : Bool) : List (Nat × Nat) → State → Acc (List (List Byte)) × State
  | [], s => (.ok [], s)
  | (a, n) :: r, s =>
    accBind (if slm then opRead s c true a n
        else agentRead s c.b.task.tenant c.b.task.part a n .plain (nodeIsRt s c.b.task.node) (c.core / 192)) (fun b s =>
      accBind (turnReads c slm r s) (fun bs s => (.ok (b :: bs), s)))

/-- Ranges of a unit's elements: `depth` stored rows of `nv` elements (R126). -/
def unitRanges (src stride w k v nv depth : Nat) : List (Nat × Nat) :=
  (List.range depth).map (fun i => (src + (k + i) * stride + v * w / 8, nv * w / 8))

/-- Ranges of a unit's scale entries and quality entries. -/
def unitSides (d : Desc) (fmt attr k v nv depth : Nat) : List (Nat × Nat) × List (Nat × Nat) :=
  let rows := (List.range depth).map (k + ·)
  (scaleRanges d fmt attr rows (v / max 1 (blockSize fmt attr)) (nv / max 1 (blockSize fmt attr)),
   qualRanges d fmt attr rows (v / qualBlock fmt attr) (nv / qualBlock fmt attr))

/-- Fill a unit (R127 to R129): its elements by vector, new blocks where the format has them, the re-blocker's counts, and
the source's own quality entries. -/
def fillUnit (s : State) (c : Ctx) (t : TurnSlot) : Acc (Operand × List (Nat × Nat) × List (List Nat)) × State :=
  let d := descOf t.desc
  let fmt := t.key.fmt
  let attr := t.key.attr
  let w := elemBits fmt
  let nv := 32 * turnPack fmt
  let bz := max 1 (blockSize fmt attr)
  let sb := scaleBytes fmt attr
  let qb := qualBlock fmt attr
  let sides := unitSides d fmt attr t.key.k t.key.v nv t.key.depth
  let table (n m : Nat) (bs : List (List Byte)) : List (List Nat) := bs.map (fun b => (List.range n).map (fun i => fieldAt b (i * m) m))
  accBind (turnReads c t.key.slm.isSome (unitRanges t.key.src t.key.stride w t.key.k t.key.v nv t.key.depth) s)
    (fun bs s =>
    accBind (turnReads c false sides.1 s) (fun sc s =>
    accBind (if t.key.source then (.ok [], s) else turnReads c false sides.2 s) (fun qs s =>
      let codes := bs.map (unpackElems w nv)
      let src : Operand := { fmt := fmt, attr := attr, elems := codes, scales := table (nv / bz) sb sc }
      let quals := table (nv / qb) 2 qs
      let tz := ofFp32 t.key.t
      let value (i v : Nat) : XVal :=
        if i < t.key.depth then
          (if fmt = 9 then xMul tz (cellVal src true i v v) else cellVal src true i v v) else xZero
      let pad (l : List Nat) : List Nat := l ++ List.replicate (32 - l.length) 0
      let empty : Operand := { src with elems := [], scales := [] }
      if !t.key.reblock then (.ok ({ empty with elems := (flipTable nv codes).map pad }, [], quals), s)
      else
        let col (v : Nat) : List CvtBlock :=
          let xs := (List.range 32).map (fun i => value i v)
          (List.range (32 / bz)).map (fun b => convertBlock fmt attr tz (fun _ => .rne) ((xs.drop (bz * b)).take bz))
        let cols := (List.range nv).map col
        (.ok ({ empty with elems := cols.map (fun l => l.flatMap (·.elems)), scales := cols.map (fun l => l.map (·.scale)) },
          cols.map (fun l => (l.foldl (fun a b => a + b.clipped) 0, l.foldl (fun a b => a + b.flushed) 0)), quals), s))))

/-- What the fill of a slot reads as: the path that requested it. -/
def turnCtx (s : State) (t : TurnSlot) : Ctx :=
  let x := execOf s t.core
  { core := t.core, slot := t.slot, x := x, g := alGet {} x.groups t.slot, b := { alGet {} x.blocks t.block with task := t.task },
    p := { lanes := 0, pc := 0 }, act := [], next := 0 }

/-- TURN_UNIT_READY (R126 to R130): the fill and the re-block of a slot end and its registered consumers take their groups;
a fault of the read is a fault of every consumer. -/
def execTurnUnitReady (cluster slot : Nat) (s : State) : Host.Outcome State Fault Refusal :=
  completes s (
    match alFind (clusterOf s cluster).turns slot with
    | none => s
    | some t =>
      if t.ready then s
      else
        match fillUnit s (turnCtx s t) t with
        | (.wait, s) => s
        | (.fault f, s) => t.consumers.foldl (fun s e =>
            match (execOf s e.1).mmas.find? (fun m => m.id == e.2) with
            | some m => mmaFault s e.1 m f
            | none => s) s
        | (.ok (o, q, sq), s) =>
          let t := { t with data := o, quals := q, srcQuals := sq, ready := true }
          let s := modCluster s cluster (fun k => { k with turns := alPut k.turns slot t })
          t.consumers.foldl (fun s e =>
            requestTurns (afterTake (modMma s e.1 e.2 (takeUnit t)) cluster slot e.1 e.2) e.1) s)

/-! ### Escalation (R104 to R111) -/

/-- SV_LAST_ESC of a tile (Table 4.8). Of two escalated operands that are equally narrow, FROM and TO name the stationary one
(DESIGN CHOICE, log entry 144: the table is silent). -/
def lastEsc (core : Nat) (m : MmaRun) (whenCode : Nat) : Nat :=
  let p := mmaPacking m.op
  let sN := narrower p m.op.sFmt (descOf m.tDesc).srcFmt
  let useS := sN && (decide (elemBits m.op.sFmt ≤ elemBits m.op.tFmt) || !narrower p m.op.tFmt (descOf m.stDesc).srcFmt)
  let (fm, tgt) := if useS then (m.op.sFmt, (stepTarget p (descOf m.tDesc).srcFmt).1)
                   else (m.op.tFmt, (stepTarget p (descOf m.stDesc).srcFmt).1)
  locOf core * 2 ^ 48 + fm * 2 ^ 44 + tgt * 2 ^ 40 + whenCode * 2 ^ 38 + b2n m.trigClip * 2 ^ 37 + b2n m.trigFlush * 2 ^ 36 +
    m.task.tag % 2 ^ 32

/-- The source of an escalated instruction's stream: read directly, or as the transposing buffer has delivered it. -/
def streamSource (s : State) (c : Ctx) (m : MmaRun) : Acc (List (List Nat)) × State :=
  match m.escSrc with
  | some src => (.ok src, s)
  | none => srcStream c (descOf m.stDesc) (redOf m) m.len m.vorg m.korg m.lanes s

/-- The stepped-up execution (R107): every operand narrower than its target is converted from its source, with a tensor
scale of 1. -/
def stepUp (s : State) (c : Ctx) (m : MmaRun) : Acc MmaRun × State :=
  let p := mmaPacking m.op
  let sd := descOf m.tDesc
  let td := descOf m.stDesc
  let one : Word := 0x3F800000
  let outl (stream : Bool) : List Nat := if m.op.outl && m.op.outlStream == stream then m.outl else []
  accBind (if narrower p m.op.sFmt sd.srcFmt then
      accBind (srcStationary c sd m.depth m.width s) (fun src s =>
        (.ok { m with tile := stepTile m.tile (stepTarget p sd.srcFmt) sd.srcFmt (outl false) src, tb := one }, s))
    else (.ok m, s)) (fun m s =>
    if narrower p m.op.tFmt td.srcFmt then
      accBind (streamSource s c m) (fun src s =>
        (.ok { m with strm := { stepStream (stepTarget p td.srcFmt) td.srcFmt (outl true) src with
                                  qClip := m.strm.qClip, qFlush := m.strm.qFlush, qElems := m.strm.qElems },
                      ta := one }, s))
    else (.ok m, s))

/-- An escalation whose stream's source is turned first collects the source's units (R132). -/
def collects (m : MmaRun) : Bool :=
  let td := descOf m.stDesc
  m.escSrc.isNone && td.turned && narrower (mmaPacking m.op) m.op.tFmt td.srcFmt

/-- After a stepped-up execution whose tile was converted, the stepped-up tile is the active one, and the original is in the
shadow registers again (R110). -/
def stepActive (x : Exec) (m : MmaRun) : Exec :=
  if narrower (mmaPacking m.op) m.op.sFmt (descOf m.tDesc).srcFmt then
    { x with active := some { m.tile with slot := noSlot }, shadow := x.shadow.orElse (fun _ => x.active) }
  else x

/-- Report an escalated or observed tile: SV_LAST_ESC, the event, the trace record (R123). -/
def noteEsc (s : State) (core : Nat) (m : MmaRun) (whenCode : Nat) : State :=
  let v := lastEsc core m whenCode
  let s := raiseEach s m.task.tenant gSV (if whenCode = 2 then 1 else 0) (polEach m.task.policy) (some v)
  let s := if whenCode = 2 then s else ctrAdd (ctrAdd s (blkKey 0 core) 0x09 1 none) (blkKey 0 core) 0x04 1 none
  traceEmit s 7 0 (locOf core) (some m.task.tenant) m.task.tag v

/-- Evaluate a complete instruction (R105, R106): its operand counts against the policy. `early` is a trigger that held
at issue. An escalation of a turned stream stays in the stream phase until its source's units have come. -/
def evaluate (s : State) (core : Nat) (c : Ctx) (m : MmaRun) (early : Bool) : Acc MmaRun × State :=
  let clip := m.tile.op.qClip + m.strm.qClip
  let flush := m.tile.op.qFlush + m.strm.qFlush
  let e := m.tile.op.qElems + m.strm.qElems
  let m := { m with opClip := clip, opFlush := flush, eOp := e, phase := .drain }
  let (tc, tf) := if early then (m.trigClip, m.trigFlush) else opTriggers m.task.policy clip flush e
  if !m.op.esc || !(tc || tf) || !polEnables m.task.policy (mmaPacking m.op) then (.ok m, s)
  else
    let m := { m with trigClip := tc, trigFlush := tf }
    if polObserve m.task.policy then
      (.ok { m with escState := 2, escWhen := 2 }, noteEsc s core m 2)
    else if collects m then
      (.ok { m with phase := .stream, escSrc := some [], escWhen := if early then 0 else 1,
                    need := turnNeeds (redOf m) m.len m.vorg m.korg (turnPack (descOf m.stDesc).srcFmt) }, s)
    else
      let w := if m.escSrc.isSome then m.escWhen else if early then 0 else 1
      accBind (stepUp s c m) (fun m' s => (.ok { m' with escState := 1, escWhen := w, escSrc := none }, noteEsc s core m w))

/-- ESCALATION_EVAL (R106, R107): the full counts are tested once every group has been read. -/
def execEscalationEval (core id : Nat) (s : State) : Host.Outcome State Fault Refusal :=
  completes s (
    match (execOf s core).mmas.find? (fun m => m.id == id) with
    | none => s
    | some m =>
      if m.phase != .stream || !m.need.isEmpty then s
      else
        let x := execOf s core
        let g := alGet {} x.groups m.slot
        let c : Ctx := { core := core, slot := m.slot, x := x, g := g, b := { alGet {} x.blocks g.block with task := m.task },
                         p := { lanes := m.lanes, pc := m.pc }, act := laneList m.lanes, next := m.pc }
        match evaluate s core c m (m.trigClip || m.trigFlush) with
        | (.wait, s) => s
        | (.fault f, s) => mmaFault s core m f
        | (.ok m', s) =>
          let s := modMma s core id (fun _ => m')
          if m'.need.isEmpty then (if m'.escState = 1 then modExec s core (fun x => stepActive x m') else s)
          else requestTurns s core)

/-! ### Issue -/

/-- The open job of a core that collects products. -/
def epiOf (s : State) (core job : Nat) : Option (Nat × EpiJob) :=
  (clusterOf s (coreCluster core)).epi.find? (fun e => e.2.core == core && e.2.job == job && !e.2.saved)

/-- SHAPE's fields: N, D, K (Table 7.7). -/
def shapeOf (x : Nat) : Nat × Nat × Nat := (bits x 25 20, bits x 19 13, bits x 12 0)

/-- Whether a tile lies in its panel (R143). A .Z tile lies in none unless its job is SMAX with Z_DRAIN, and no tile lies in a
panel that has closed (DESIGN CHOICE, log entry 144: the spec names no fault for either). -/
def epiFits (op : MmaOp) (j : EpiJob) (w k : Nat) : Bool :=
  let (rows, feats) := if op.epiFr then (w, k) else (k, w)
  decide (op.rowOrg + rows ≤ j.rows) && decide (op.featOrg + feats ≤ j.width) && (!op.epiZ || (j.mode == .smax && j.zDrain))

/-- What an MMA knows before it reads its operands. -/
structure MmaPrep where
  n : Nat
  d : Nat
  k : Nat
  vorg : Nat
  korg : Nat
  beta : Word
  sd : Desc
  sRaw : List Byte
  sVer : Nat
  dd : Desc
  dRaw : List Byte
  cd : Desc
  cRaw : List Byte
  /-- some handle that the instruction names is not written, and whether the stationary tile's is written -/
  noHandle : Bool
  hasS : Bool
  deriving DecidableEq, Repr

/-- Gather the shape, origins and handles of an MMA (R200 to R202). A KORG from a register is its low 16 bits, which need not
be a multiple of 32 (DESIGN CHOICE, log entry 144: the spec states the field's width and multiple for the constant only). -/
def mmaPrep (c : Ctx) (op : MmaOp) : MmaPrep :=
  let (n, d, k) := shapeOf (immU c op.shape)
  let h (t : Nat) : Handle := alGet { bytes := List.replicate 128 0, version := 0 } c.g.handles t
  let res (t : Nat) : Desc := resolveDesc c.b.task (descOf (h t).bytes)
  let miss (t : Nat) : Bool := (alFind c.g.handles t).isNone
  let (vorg, korg) := match op.vorg with
    | .imm x => (x, op.korg)
    | .u r => ((uReg c r).toNat, (uReg c (r + 1)).toNat % 65536)
  { n := n, d := d, k := k, vorg := vorg, korg := korg, beta := BitVec.ofNat 32 (immU c op.beta),
    sd := res op.st, sRaw := (h op.st).bytes, sVer := (h op.st).version, dd := res op.dt, dRaw := (h op.dt).bytes,
    cd := res (op.ct.getD op.dt), cRaw := (h (op.ct.getD op.dt)).bytes,
    hasS := !miss op.st
    noHandle := miss op.st || miss op.dt || (op.ct.isSome && miss (op.ct.getD 0)) }

/-- ARRAY_SHAPE (R46). -/
def badShape (m : MmaPrep) : Bool :=
  decide (64 < m.d) || decide (m.n < 1) || decide (32 < m.n) || decide (4096 < m.k) ||
    (decide (32 < m.d) && m.hasS && !m.sd.sparse)

/-- ARRAY_AXIS (R50, R56, R114). -/
def badAxis (op : MmaOp) (m : MmaPrep) : Bool :=
  op.transposed && (m.sd.sparse || op.sFmt == 9 || op.sFmt == 0xC || op.sFmt == 0xD || op.outl ||
    ((op.tFmt == 0xC || op.tFmt == 0xD) && decide (16 < m.n)))

/-- .ESC on an instruction that R104 does not accept it on: the 16-bit class, and plain INT8 or INT4. -/
def escBad (op : MmaOp) : Bool :=
  op.esc && (mmaPacking op == 2 || ((op.sFmt == 0xA || op.sFmt == 0xB) && op.sAttr == 0) ||
    ((op.tFmt == 0xA || op.tFmt == 0xB) && op.tAttr == 0))

/-- A format that no matrix operand may have, and an .ESC that its formats do not take; translation refuses these (R45, R100,
R104). -/
def badFormat (op : MmaOp) : Bool :=
  packing op.sFmt == 0 || packing op.tFmt == 0 || !fmtValid op.sFmt op.sAttr || !fmtValid op.tFmt op.tAttr ||
  (decide (op.sFmt ≤ 9) != decide (op.tFmt ≤ 9)) || decide (4 < op.oFmt) ||
  escBad op

/-- ESC_SOURCE (R104): a needed source is missing from a descriptor that is known. -/
def badSource (op : MmaOp) (hasS hasT : Bool) (sd td : Desc) : Bool :=
  (op.esc && ((hasS && narrower (mmaPacking op) op.sFmt sd.srcFmt && sd.srcAddr == 0) ||
    (hasT && narrower (mmaPacking op) op.tFmt td.srcFmt && td.srcAddr == 0))) ||
  (op.outl && (if op.outlStream then hasT && td.srcAddr == 0 else hasS && sd.srcAddr == 0))

/-- DESC_INVALID of a stationary tile (R196, R197). -/
def badTile (op : MmaOp) (m : MmaPrep) : Bool :=
  descBad m.sRaw || scaleStray op.sFmt op.sAttr m.sd || ((blockSize op.sFmt op.sAttr != 0 || m.sd.sparse) && !m.sd.colMajor) ||
  (m.sd.sparse && m.sd.metaAddr == 0) || (blockSize op.sFmt op.sAttr != 0 && m.sd.scaleAddr == 0)

/-- The scale of an SV4 operand (R119, R202): TSCALE, or SCALE of its record. -/
def tensorScale (s : State) (c : Ctx) (fmt : Nat) (d : Desc) : Acc (Option Word) × State :=
  if fmt != 9 then (.ok (some 0x3F800000), s)
  else if !d.tFromRecord then (.ok (some d.tscale), s)
  else accBind (recAtIssue s c.b.task.tenant c.b.task.part d.record) (fun r s =>
    (.ok (if recState r = 1 then none else some (recScale r)), s))

/-- The outlier list in range, as reduction indices (R113). -/
def outlierList (s : State) (c : Ctx) (op : MmaOp) (d : Nat) (x : Desc) : Acc (List Nat) × State :=
  if !op.outl then (.ok [], s)
  else accBind (recAtIssue s c.b.task.tenant c.b.task.part x.record) (fun r s =>
    (.ok (((recOutl r).filter (fun l => decide (op.k0 ≤ l) && decide (l < op.k0 + d))).map (· - op.k0)), s))

/-- The tile loaded last serves the instruction: it names the same handle, which has not been written since (R48). -/
def tileServes (c : Ctx) (op : MmaOp) (m : MmaPrep) : Option Tile :=
  match c.x.shadow.orElse (fun _ => c.x.active) with
  | some t => if t.slot == c.slot && t.handle == op.st && t.version == m.sVer then some t else none
  | none => none

/-- A tile that is loaded goes into the shadow registers behind the instructions of the array, and into the active ones of an
empty array; the instruction that brought the shadow's tile has swapped it in by then (R48). -/
def loadActive (x : Exec) (t : Tile) : Exec :=
  if x.mmas.isEmpty then { x with active := some t, shadow := none }
  else { x with active := x.shadow.orElse (fun _ => x.active), shadow := some t }

/-- C comes from the instruction before it, still in the array (R53, R108). -/
def chains (c : Ctx) (op : MmaOp) (m : MmaPrep) : Bool :=
  match c.x.mmas.getLast?, op.ct with
  | some q, some _ => q.slot == c.slot && q.dst == m.cRaw && !q.op.epi && q.op.transposed == op.transposed &&
      q.op.oFmt == op.oFmt && q.width == m.n && decide (m.k ≤ q.len) && !q.op.esc && !q.op.part && !op.part &&
      (!op.transposed || q.depth == m.d)
  | _, _ => false

/-- Ranges of an output tile. -/
def outRanges (d : Desc) (fmt w k : Nat) (lanes : Lanes) : List (Nat × Nat) :=
  ((List.range k).filter (rowLive lanes)).map (fun v => (d.base + v * d.stride, ceilDiv (w * elemBits fmt) 8))

/-- Ranges of a turned stream's units, or, with `source`, of its escalation source's (R126, R132). -/
def turnedRanges (d : Desc) (fmt attr red k vorg korg : Nat) (source : Bool) : List (Bool × Nat × Nat) :=
  let f := if source then d.srcFmt else fmt
  let nv := 32 * turnPack f
  (turnNeeds red k vorg korg (turnPack f)).flatMap (fun n =>
    let depth := min 32 (korg + red - n.k)
    if source then (unitRanges d.srcAddr d.srcStride (elemBits f) n.k n.v nv depth).map (fun r => (false, r))
    else
      let sides := unitSides d fmt attr n.k n.v nv depth
      (unitRanges d.base d.stride (elemBits f) n.k n.v nv depth).map (fun r => (d.slm, r)) ++
        (sides.1 ++ sides.2).map (fun r => (false, r)))

/-- Ranges of the sources that an instruction reads: for .OUTL at its issue, for .ESC when it escalates (R104, R113). -/
def sourceRanges (op : MmaOp) (m : MmaPrep) (td : Desc) (red : Nat) (lanes : Lanes) (esc : Bool) : List (Bool × Nat × Nat) :=
  let p := mmaPacking op
  let stat := if esc then op.esc && narrower p op.sFmt m.sd.srcFmt else op.outl && !op.outlStream
  let strm := if esc then op.esc && narrower p op.tFmt td.srcFmt else op.outl && op.outlStream
  (if stat && m.d != 0 then (statSrcRanges m.sd m.d m.n).map (fun r => (false, r)) else []) ++
  (if !strm || m.d = 0 then [] else if esc && td.turned then turnedRanges td op.tFmt op.tAttr red m.k m.vorg m.korg true
    else (streamSrcRanges td red m.k m.vorg m.korg lanes).map (fun r => (false, r)))

/-- Ranges that an instruction may read after its issue: a turned stream at the fills of its units, and the sources of an
escalation. -/
def laterRanges (op : MmaOp) (m : MmaPrep) (td : Desc) (red : Nat) (lanes : Lanes) : List (Bool × Nat × Nat) :=
  (if td.turned && m.d != 0 then turnedRanges td op.tFmt op.tAttr red m.k m.vorg m.korg false else []) ++
  sourceRanges op m td red lanes true

/-- Ranges an MMA reads at its issue, or of its turned stream: stream and tile with their scale and quality entries, metadata,
C, and the source of .OUTL. -/
def readRanges (op : MmaOp) (m : MmaPrep) (td : Desc) (red w : Nat) (lanes : Lanes) (reload cRead : Bool) :
    List (Bool × Nat × Nat) :=
  let eb := elemBits op.tFmt
  let vs := ((List.range m.k).filter (rowLive lanes)).map (m.vorg + ·)
  let tq := qualBlock op.tFmt op.tAttr
  let tb := max 1 (blockSize op.tFmt op.tAttr)
  let strm := if m.d = 0 then [] else if td.turned then turnedRanges td op.tFmt op.tAttr red m.k m.vorg m.korg false
    else vs.map (fun v => (td.slm, td.base + v * td.stride + m.korg * eb / 8, ceilDiv (red * eb) 8)) ++
      (scaleRanges td op.tFmt op.tAttr vs (m.korg / tb) (ceilDiv red tb) ++
        qualRanges td op.tFmt op.tAttr vs (m.korg / tq) (ceilDiv red tq)).map (fun r => (false, r))
  let rows := storedRows m.sd.sparse m.d
  let sq := qualBlock op.sFmt op.sAttr
  let tile := if m.d = 0 || !reload then [] else
    (tileElemRanges m.sd (elemBits op.sFmt) rows m.n).map (fun r => (m.sd.slm, r)) ++
    (scaleRanges m.sd op.sFmt op.sAttr (List.range m.n) 0 (ceilDiv m.d (max 1 (blockSize op.sFmt op.sAttr))) ++
      (if m.sd.colMajor then qualRanges m.sd op.sFmt op.sAttr (List.range m.n) 0 (ceilDiv m.d sq)
       else qualRanges m.sd op.sFmt op.sAttr (List.range rows) 0 (ceilDiv m.n 32)) ++
      (if m.sd.sparse then [(m.sd.metaAddr, 256)] else [])).map (fun r => (false, r))
  let cr := if cRead then (outRanges m.cd op.oFmt w m.k lanes).map (fun r => (m.cd.slm, r.1, r.2)) else []
  strm ++ tile ++ cr ++ sourceRanges op m td red lanes false

/-- Put an instruction into the array and move the path on; `tile` is the tile that it has loaded. The bubbles and back-up
cycles that its stream and drains will meet are free: they are the array's timing (R59, Table 18.3). -/
def enterMma (s : State) (c : Ctx) (m : MmaRun) (tile : Option Tile) : State :=
  let s := advance s c { c.g with srCount := c.g.srCount + b2n m.op.sr }
  let macs := (execOf s c.core).macs + m.depth * m.width * m.len
  let s := ctrAdd (ctrAdd s (blkKey 0 c.core) 0x04 1 none) (blkKey 0 c.core) 0x05 (macs / 1024) none
  requestTurns (modExec s c.core (fun x =>
    let x := match tile with | some t => loadActive x t | none => x
    let x := if m.escState = 1 then stepActive x m else x
    { x with mmas := x.mmas ++ [m], macs := macs % 1024 })) c.core

/-- Read the operands of an MMA: the instruction as it enters the array, and the tile that it loads. -/
def mmaRead (s : State) (c : Ctx) (op : MmaOp) (m : MmaPrep) (td : Desc) (tRaw : List Byte) (ta tb : Word)
    (outl : List Nat) : Acc (MmaRun × Option Tile) × State :=
  let red := if op.transposed then m.n else m.d
  let w := if op.transposed then m.d else m.n
  let lanes := laneMask c.act
  let chained := chains c op m
  let old := tileServes c op m
  let empty : Operand := { fmt := op.tFmt, attr := op.tAttr, elems := [], scales := [] }
  let noTile : Tile := { slot := c.slot, handle := op.st, version := 0, rows := 0, cols := 0,
                         op := { empty with fmt := op.sFmt, attr := op.sAttr }, index := [] }
  let (id, s) := takeSeq s
  accBind (if m.d = 0 then (.ok noTile, s) else match old with
    | some t => (.ok t, s)
    | none => loadTile c m.sd op.sFmt op.sAttr m.d m.n op.st m.sVer s) (fun whole s =>
  let (tile, s) := if m.d = 0 then (whole, s) else useTile whole op.sFmt op.sAttr m.d m.n s
  accBind (if m.d = 0 || td.turned then (.ok empty, s)
    else loadStream c td op.tFmt op.tAttr red m.k m.vorg m.korg lanes s) (fun strm s =>
  accBind (if op.ct.isSome && !chained then loadC c m.cd op.oFmt w m.k lanes s else (.ok [], s)) (fun cv s =>
  accBind (if !op.outl then (.ok [], s)
    else if op.outlStream then srcStream c td red m.k m.vorg m.korg lanes s
    else srcStationary c m.sd m.d m.n s) (fun src s =>
    let run : MmaRun :=
      { id := id, slot := c.slot, pc := c.p.pc, lanes := lanes, op := op, task := c.b.task, blockIx := c.b.index,
        groupIx := c.g.index, ordinal := c.g.srCount, depth := m.d, width := m.n, len := m.k, vorg := m.vorg,
        korg := m.korg, beta := m.beta, tile := tile, strm := strm, c := cv, ta := ta, tb := tb, dst := m.dRaw,
        stDesc := tRaw, tDesc := m.sRaw, outl := outl,
        later := laterRanges op m td red lanes
        outs := if op.epi then [] else outRanges m.dd op.oFmt w m.k lanes, outSlm := m.dd.slm, chained := chained,
        phase := if op.esc && m.d != 0 then .stream else .drain,
        need := if m.d != 0 && td.turned then turnNeeds red m.k m.vorg m.korg (turnPack op.tFmt) else [],
        outlSrc := outl.map (fun i => src.map (fun x => x.getD i 0)),
        outlFmt := if op.outlStream then td.srcFmt else m.sd.srcFmt }
    (.ok (run, if m.d = 0 || old.isSome then none else some whole), s)))))

/-- The resolved descriptor as bytes, so that what is captured needs no later resolution. -/
def resolveBytes (t : TaskCtx) (b : List Byte) : List Byte :=
  let d := resolveDesc t (descOf b)
  leBytes 8 d.base ++ leBytes 8 d.scaleAddr ++ leBytes 8 d.qualAddr ++ leBytes 8 d.srcAddr ++ b.drop 32

/-- The end of an issue: read, the faults of shared local memory (`odd`: SLM_ALIGN, `beyond`: SLM_RANGE), the collective's mask, the
evaluation at issue (R106), entry into the array. -/
def mmaGo (s : State) (c : Ctx) (op : MmaOp) (m : MmaPrep) (td : Desc) (tRaw : List Byte) (ta tb : Word)
    (outl : List Nat) (odd beyond : Bool) : State :=
  match mmaRead s c op m td tRaw ta tb outl with
  | (.wait, s) => s
  | (.fault f, s) => raiseFault s c (if f = .slmRange && odd then .slmAlign else f)
  | (.ok (run, tile), s) =>
    if odd then raiseFault s c .slmAlign
    else if beyond then raiseFault s c .slmRange
    else if laneMask c.act != c.g.launch && !op.part then raiseFault s c .divergentCollective
    else
      let (ec, ef) := opTriggers run.task.policy run.tile.op.qClip run.tile.op.qFlush (fullElems run)
      let early := run.phase == .stream && (ec || ef) && polEnables run.task.policy (mmaPacking op)
      if early && run.need.isEmpty then
        match evaluate s c.core c { run with trigClip := ec, trigFlush := ef } true with
        | (.wait, s) => s
        | (.fault f, s) => raiseFault s c f
        | (.ok run, s) => enterMma s c run tile
      else enterMma s c { run with trigClip := early && ec, trigFlush := early && ef } tile

/-- The core has an atomic outstanding on a line of one of these ranges of its tenant's space: reads that are made after the
issue wait for it here (R223). -/
def rangesBusy (s : State) (c : Ctx) (rs : List (Nat × Nat)) : Bool :=
  !c.x.atoms.isEmpty && rs.any (fun r => (chunksOf r.1 r.2).any (fun k =>
    match translate s c.b.task.tenant k.1 .r with
    | some t => c.x.atoms.any (fun a => a.target.line == t.line)
    | none => false))

/-- Accesses of an MMA to shared local memory that are not aligned to their elements (R180). -/
def mmaOdd (op : MmaOp) (m : MmaPrep) (td : Desc) (w : Nat) (lanes : Lanes) : Bool :=
  (m.d != 0 && (slmOdd m.sd.slm (elemBits op.sFmt) [m.sd.base, m.sd.stride] || slmOdd td.slm (elemBits op.tFmt) [td.base, td.stride])) ||
  (op.ct.isSome && slmOdd m.cd.slm (elemBits op.oFmt) ((outRanges m.cd op.oFmt w m.k lanes).map (·.1))) ||
  (!op.epi && slmOdd m.dd.slm (elemBits op.oFmt) ((outRanges m.dd op.oFmt w m.k lanes).map (·.1)))

/-- An SV4 stream that is turned is converted again with its t, which must be finite and not zero (R96, R127). -/
def badTurnScale (fmt : Nat) (td : Desc) (t : Option Word) : Bool :=
  fmt == 9 && td.turned && t.any (fun t => xIsZero (ofFp32 t) || !xIsFin (ofFp32 t))

/-- Checks and reads of the issue, in the order of Table 7.11 (R218): a fault of reading a record other than SCALE_RECORD is of
MEM_ACCESS's row, as are the reads of the operands, and the faults of shared local memory come after them. `tRaw` is the stream descriptor, or the fault of reading
it: DESC_INVALID for its address, otherwise MEM_ACCESS's row. A handle that is not written gives no fault of its fields
before HANDLE_INVALID (R194). -/
def mmaIssue (s : State) (c : Ctx) (op : MmaOp) (m : MmaPrep) (tRaw : Except DevFault (List Byte)) : State :=
  let raw := match tRaw with | .ok b => b | .error _ => List.replicate 128 0
  let hasT := match tRaw with | .ok _ => true | .error _ => false
  let td := descOf raw
  let run := m.d != 0
  let w := if op.transposed then m.d else m.n
  let lanes := laneMask c.act
  let job := epiOf s c.core op.epiJob
  if badAxis op m then raiseFault s c .arrayAxis
  else if run && (badAlign op.sFmt op.sAttr m.sd false || badAlign op.tFmt op.tAttr td td.turned) then raiseFault s c .operandAlign
  else if badFormat op then raiseFault s c .formatReserved
  else if run && badSource op m.hasS hasT m.sd td then raiseFault s c .escSource
  else if run && hasT && td.record % 128 != 0 then raiseFault s c .scaleRecord
  else
    let rest := accBind (if run && m.hasS then tensorScale s c op.sFmt m.sd else (.ok (some 0), s)) (fun tb s =>
      accBind (if run && hasT then tensorScale s c op.tFmt td else (.ok (some 0), s)) (fun ta s =>
        accBind (if run && (if op.outlStream then hasT else m.hasS) then outlierList s c op m.d (if op.outlStream then td else m.sd)
            else (.ok [], s)) (fun l s =>
          accBind (if op.amax && !m.noHandle then recAtIssue s c.b.task.tenant c.b.task.part m.dd.record else (.ok [], s)) (fun _ s =>
            (.ok (ta, tb, l), s)))))
    match rest with
    | (.wait, s) => s
    | (.fault .scaleRecord, s) => raiseFault s c .scaleRecord
    | (r, s) =>
      let late := match r with | .fault f => some f | _ => none
      let (ta, tb, outl) := match r with | .ok x => x | _ => (none, none, [])
      if op.epi && (match job with | some (_, j) => j.closed || !epiFits op j w m.k | none => true) then raiseFault s c .epiRange
      else if descBad m.dRaw || descBad m.cRaw || scaleStray op.oFmt 0 m.dd || (op.ct.isSome && scaleStray op.oFmt 0 m.cd) ||
          (run && ((m.hasS && badTile op m) || descBad raw || (hasT && (scaleStray op.tFmt op.tAttr td || badTurnScale op.tFmt td ta ||
          (blockSize op.tFmt op.tAttr != 0 && td.scaleAddr == 0))))) then raiseFault s c .descInvalid
      else
        match tRaw with
        | .error .descInvalid => raiseFault s c .descInvalid
        | _ =>
          if m.noHandle then raiseFault s c .handleInvalid
          else
            match tRaw with
            | .error f => raiseFault s c f
            | .ok tRaw =>
              match late with
              | some f => raiseFault s c f
              | none =>
                let out := if op.epi then none else
                  (outRanges m.dd op.oFmt w m.k lanes).findSome? (fun r => opCanWrite s c m.dd.slm r.1 r.2)
                let red := if op.transposed then m.n else m.d
                let rs := readRanges op m td red w lanes (tileServes c op m).isNone (op.ct.isSome && !chains c op m)
                let beyond := out == some .slmRange || rs.any (fun r => r.1 && decide (c.b.task.slmKib * 1024 < r.2.1 + r.2.2))
                if out == some .memAccess then raiseFault s c .memAccess
                else
                  match ta, tb with
                  | some ta, some tb =>
                    if (rs ++ sourceRanges op m td red lanes true).any (fun r => mmaClash c.x c.slot r.1 [r.2]) ||
                        rangesBusy s c ((laterRanges op m td red lanes).filterMap (fun r => if r.1 then none else some r.2)) then s
                    else if beyond && rs.any (fun r => !r.1 && !td.turned && !rangeOk s c.b.task.tenant r.2.1 r.2.2 .r) then
                      raiseFault s c .memAccess
                    else mmaGo s c op m td tRaw ta tb outl (mmaOdd op m td w lanes) beyond
                  | _, _ => s

/-- MMA (R46, R48, R53, R67 to R69, R83, R108, R200 to R203): the shape is checked first; K = 0 does nothing (R68); an
instruction behind an .ESC instruction waits for its evaluation. -/
def execMma (i : Iss) (op : MmaOp) (s : State) : Host.Outcome State Fault Refusal :=
  completes s (
    if (op.sFmt == 14 || op.tFmt == 14) && f64Absent s then absentUnit s i
    else
    let us := (match op.shape with | .u n => [Opd.u n] | _ => []) ++ (match op.vorg with | .u n => [.u n, .u (n + 1)] | _ => []) ++
      (match op.beta with | .u n => [.u n] | _ => [])
    issueWith s i [] ([.t op.st, .t op.dt, .u op.tu, .u (op.tu + 1)] ++ us ++
        (match op.ct with | some n => [.t n] | none => [])) [] (fun s c =>
      let m := mmaPrep c op
      if c.x.mmas.any (fun q => q.phase == .stream) || c.x.loads.any (fun l => l.slot == c.slot) then s
      else if badShape m then raiseFault s c .arrayShape
      else if m.k = 0 then
        if m.noHandle then raiseFault s c .handleInvalid
        else collective s c op.part (advance s c { c.g with srCount := c.g.srCount + b2n op.sr })
      else
      let m := { m with sRaw := resolveBytes c.b.task m.sRaw, dRaw := resolveBytes c.b.task m.dRaw,
                        cRaw := resolveBytes c.b.task m.cRaw }
      if m.d = 0 then mmaIssue s c op m (.ok (List.replicate 128 0))
      else if uReg64 c op.tu % 128 != 0 then mmaIssue s c op m (.error .descInvalid)
      else
        match descRead s c (uReg64 c op.tu) with
        | (.wait, s) => s
        | (.fault f, s) => mmaIssue s c op m (.error f)
        | (.ok b, s) => mmaIssue s c op m (.ok (resolveBytes c.b.task b))))

/-! ### The last drain write -/

/-- OUT_AMAX: the largest finite magnitude before the last rounding (Table 4.1). -/
def outAmax (rows : List (Nat × List (XVal × Conv))) : Rat := amaxOf (rows.flatMap (fun r => r.2.map (·.1)))

/-- The tile report (R102, R105, R116, R122): the counters of the tenant, the task's counts, the output comparison and the
amax contribution. -/
def tileReport (s : State) (core : Nat) (m : MmaRun) (rows : List (Nat × List (XVal × Conv))) : State :=
  let t := m.task.tenant
  let p := mmaPacking m.op
  let cs := rows.flatMap (fun r => r.2.map (·.2))
  let oc := (cs.filter (·.clipped)).length
  let ofl := (cs.filter (·.flushed)).length
  let clip := m.tile.op.qClip + m.strm.qClip
  let flush := m.tile.op.qFlush + m.strm.qFlush
  let s := bump (ctrAdd s (blkKey 1 (coreRegion core)) 0x0D 1 (some m.task.part)) t 0x60100 1
  let s := if m.escState = 1 then bump s t (if p = 8 then 0x60108 else if p = 4 then 0x60110 else 0x60118) 1
           else if m.escState = 2 then bump s t 0x60120 1 else s
  let s := bump (bump (bump (bump s t 0x60128 (if m.op.esc then m.opClip else clip)) t 0x60130
    (if m.op.esc then m.opFlush else flush)) t 0x60138 oc) t 0x60140 ofl
  let s := modNode s m.task.node (fun n => { n with esc := n.esc + b2n (m.escState == 1), observed := n.observed + b2n (m.escState == 2) })
  let s := if passes oc (bits m.task.policy 35 24) cs.length || passes ofl (bits m.task.policy 47 36) cs.length then
      raiseEv s t gSV 2 none else s
  if m.op.amax then
    pushAmax s core { tenant := t, part := m.task.part, node := m.task.node, record := (descOf m.dst).record,
                      value := some (toFp32 .rne (.fin false (outAmax rows))), clips := [] }
  else s

/-- Bytes of one row of the destination, with their address. -/
def rowStore (m : MmaRun) (r : Nat × List (XVal × Conv)) : Nat × List Byte :=
  ((descOf m.dst).base + r.1 * (descOf m.dst).stride, packElems (elemBits m.op.oFmt) (r.2.map (·.2.bits)))

/-- The stores of a last drain write: at the instruction's place in its group's order; those of a group that has gone count
for its node (R237). -/
def rowIns (s : State) (m : MmaRun) (r : Nat × List (XVal × Conv)) : List WbIn :=
  (bytesIn s m.slot m.task.part m.task.tenant (rowStore m r).1 (rowStore m r).2).map (fun w => { w with place := some m.id })

/-- Rows of the destination enter the write buffer, as far as it has room: how many have, of those left, and the state. A row
enters whole. -/
def writeRows (core : Nat) (m : MmaRun) : List (Nat × List (XVal × Conv)) → Nat → State → Nat × State
  | [], n, s => (n, s)
  | r :: rest, n, s =>
    match (if storeBusy (execOf s core) ((rowIns s m r).map (·.target)) then none else enterStores core (rowIns s m r) s) with
    | none => (n, s)
    | some s =>
      let s := modExec s core (fun x => { x with wb := x.wb.map (fun e =>
        if m.slot = noSlot && e.writers.any (fun w => w.1 == noSlot) then { e with nodes := (m.task.node :: e.nodes).dedup } else e) })
      writeRows core m rest (n + 1) s

/-- The destination of an instruction changes: shared local memory of its block at once, memory through the write buffer.
`true` when every row is there. -/
def writeDest (s : State) (core : Nat) (m : MmaRun) (rows : List (Nat × List (XVal × Conv))) : Bool × State :=
  if (descOf m.dst).slm then
    (true, match alFind (execOf s core).groups m.slot with
      | some g => rows.foldl (fun s r => slmPut s core g.block (rowStore m r).1 (rowStore m r).2) s
      | none => s)
  else
    let left := rows.drop m.rowsDone
    let (n, s) := writeRows core m left 0 s
    (n = left.length, modMma s core m.id (fun m => { m with rowsDone := m.rowsDone + n }))

/-- Deliver a tile to its epilogue job (R143, R145): the elements replace what the stage held and count again; the job
closes when every row has its elements. -/
def deliverEpi (s : State) (core : Nat) (m : MmaRun) (rows : List (Nat × List (XVal × Conv))) : State :=
  match epiOf s core m.op.epiJob with
  | none => s
  | some (ctx, j) =>
    let put (acc : AL Nat × AL Nat) (v o bitsV : Nat) : AL Nat × AL Nat :=
      let (r, f) := if m.op.epiFr then (m.op.rowOrg + o, m.op.featOrg + v) else (m.op.rowOrg + v, m.op.featOrg + o)
      (alPut acc.1 (r * 65536 + f) bitsV, alPut acc.2 r (alGet 0 acc.2 r + 1))
    let all (acc : AL Nat × AL Nat) : AL Nat × AL Nat :=
      rows.foldl (fun acc r => (r.2.zipIdx).foldl (fun acc (e, o) => put acc r.1 o e.2.bits) acc) acc
    let j := if m.op.epiZ then
        let (z, n) := all (j.z, j.zCount)
        { j with z := z, zCount := n }
      else
        let (d, n) := all (j.dy, j.dyCount)
        { j with dy := d, dyCount := n }
    let got (n : AL Nat) (r : Nat) : Bool := decide (j.width ≤ alGet 0 n r)
    let full := (List.range j.rows).all (fun r => got j.dyCount r && (!j.zDrain || got j.zCount r))
    modCluster s (coreCluster core) (fun k => { k with epi := alPut k.epi ctx { j with closed := full } })

/-- The instruction leaves the array: the shadow's tile, whose instruction is next, becomes active (R48), and an instruction
chained to it takes its result as C (R53). -/
def leaveArray (s : State) (core : Nat) (m : MmaRun) (rest : List MmaRun) (rows : List (Nat × List (XVal × Conv))) : State :=
  let result := (List.range m.len).map (fun v => (((rows.find? (fun r => r.1 == v)).map (·.2)).getD []).map (·.2.bits))
  let s := match rest.head? with
    | some q => if q.chained then modMma s core q.id (fun q => { q with c := result, chained := false }) else s
    | none => s
  let s := modExec s core (fun x => { x with active := x.shadow.orElse (fun _ => x.active), shadow := none })
  requestTurns (removeMma s core m.id) core

/-- B and H of an instruction (R59): the cycles of its bubbles and of its drains' back-up are the array's timing, and free. -/
def countStalls (s : State) (core : Nat) (m : MmaRun) : State :=
  let (b, s) := takeFree s
  let (h, s) := takeFree s
  let k := blkKey 0 core
  let p := some m.task.part
  let s := ctrAdd (ctrAdd s k 0x06 (b.toNat % 65536) p) k 0x07 (h.toNat % 65536) p
  if (descOf m.stDesc).turned then
    let (n, s) := takeFree s
    ctrAdd s k 0x08 (n.toNat % 65536) p
  else s

/-- MMA_DRAIN_WRITE (R49, R69, R83, R102, R143): the oldest instruction of the array makes its report and changes its
destination, or delivers to its job. Rows that find no room in the write buffer enter at a later one; no reader of the core
meets the destination until the last has (`mmaClash`; log entry 143). -/
def execMmaDrainWrite (core id : Nat) (s : State) : Host.Outcome State Fault Refusal :=
  completes s (
    match (execOf s core).mmas with
    | [] => s
    | m :: rest =>
      if m.id != id || m.phase != .drain || !m.need.isEmpty then s
      else
        let rows := (liveRows m).map (fun v => (v, outRow m v))
        let report (s : State) : State := countStalls (if m.depth = 0 then s else tileReport s core m rows) core m
        if m.op.epi then leaveArray (deliverEpi (report s) core m rows) core m rest rows
        else
          match writeDest (if m.rowsDone = 0 then report s else s) core m rows with
          | (true, s) => leaveArray s core m rest rows
          | (false, s') => if ((execOf s' core).mmas.find? (fun q => q.id == id)).any (fun q => m.rowsDone < q.rowsDone) then s' else s)

end Sys2Proof.Machine
end

