-- ==== Sys2Proof/Machine/Backward.lean ====
section
/-! DEFINITION. The activation stash and the gradient epilogue engine (R134 to R150, R205). -/

namespace Sys2Proof.Machine

/-! ### The stash -/

/-- The live entry of a tag in a partition: its number and contents. -/
def stashOf (s : State) (r part tag : Nat) : Option (Nat × StashEntry) :=
  (regionOf s r).stash.find? (fun e => e.2.part == part && e.2.tag == tag && !e.2.replaced)

/-- Lines of a partition's reservation in a region (R134): MiB of 8,192 lines. -/
def stashRoom (s : State) (part : Nat) : Nat := ((alFind s.sched.parts part).map (·.stashMib)).getD 0 * 8192

/-- Lines of all stash entries and stages of a region. -/
def regionStash (s : State) (r : Nat) : Nat :=
  s.sched.parts.foldl (fun n e => n + stashUse (regionOf s r) e.1 + stageUse s r e.1) 0

/-- Whether a partition's reservation in a region covers more lines (R134, R139), and the region's 16 MiB do (R26). -/
def stashFits (s : State) (r part n : Nat) : Bool :=
  decide (stashUse (regionOf s r) part + stageUse s r part + n ≤ stashRoom s part) && decide (regionStash s r + n ≤ 131072)

/-- The ways that stash lines have come to occupy give up the ordinary lines they held, dirty ones being written back
(R134, R135). -/
def stashDisplace (s : State) (r tenant : Nat) : State :=
  (regionOf s r).lines.foldl (fun s e =>
    if (stashWays s r (e.1 / 16)).contains (e.1 % 16) then
      modRegion (writeBack s tenant e.2) r (fun x => dropWay x (e.1 / 16) (e.1 % 16))
    else s) s

/-- Free a tag: an entry that a job references stays, without its tag, until the job ends (R137, R138). -/
def stashDrop (s : State) (r part tag : Nat) : State :=
  match stashOf s r part tag with
  | none => s
  | some (k, e) => modRegion s r (fun x =>
      let stash := if e.refs = 0 then alDel x.stash k else alPut x.stash k { e with replaced := true }
      { x with stash := stash })

/-- The region and partition of the issuing core. -/
def stashHome (c : Ctx) : Nat × Nat := (coreRegion c.core, c.b.task.part)

/-- Write the same predicate in the lanes that take part. -/
def setPred (c : Ctx) (g : Group) (p : Nat) (v : Bool) : Group := setP g p (c.act.map (fun l => (l, v)))

/-- STASH.OPEN (R136, R137, R139): the entry is OPEN within the reservation and the directory, REFUSED beyond them; a
length outside 1 to 131,072 lines, or the tag 0xFFFF, cannot be covered (log entry 30). A REFUSED entry holds no lines, and
one beyond a full directory keeps its tag's state alone. -/
def execStashOpen (i : Iss) (stat : Bool) (p : Nat) (tag lines : ImmU) (s : State) : Host.Outcome State Fault Refusal :=
  completes s (issueWith s i [] ((match tag with | .u n => [.u n] | _ => []) ++ (match lines with | .u n => [.u n] | _ => [])) []
    (fun s c =>
      if c.act.isEmpty then advance s c c.g
      else
        let (r, part) := stashHome c
        let n := immU c lines
        let t := immU c tag
        let s := stashDrop s r part t
        let ok := stashFits s r part n && decide ((regionOf s r).stash.length < 4096) && decide (1 ≤ n) &&
          decide (n ≤ 131072) && decide (t ≤ 0xFFFE)
        let e : StashEntry := { part := part, tenant := c.b.task.tenant, tag := t, stat := stat, lines := n,
                                st := if ok then .opened else .refused }
        let s := modRegion s r (fun x => { x with stash := alPut x.stash (alFresh x.stash) e })
        let s := if ok then stashDisplace s r c.b.task.tenant else ctrAdd s (blkKey 1 r) 0x0C 1 (some part)
        advance s c (setPred c c.g p ok)))

/-- The offsets of a stash access by lane. -/
def stashOffs (c : Ctx) (off : Opd) : List (Nat × Nat) := c.act.map (fun l => (l, (opdLane c off l).toNat))

/-- STASH.ST (R136, R205): the lanes' data go into an OPEN entry, in ascending lane order; a REFUSED entry discards them;
beyond the entry's length is STASH_RANGE. What a write to an ABSENT or SEALED entry does the spec does not say: it is
discarded (DESIGN CHOICE, log entry 144). -/
def execStashSt (i : Iss) (size : Nat) (tag : ImmU) (off v : Opd) (s : State) : Host.Outcome State Fault Refusal :=
  completes s (issueWith s i [] ((match tag with | .u n => [.u n] | _ => []) ++ [off] ++ spanOpds v size) [] (fun s c =>
    let (r, part) := stashHome c
    match stashOf s r part (immU c tag) with
    | none => advance s c c.g
    | some (k, e) =>
      let os := stashOffs c off
      if os.any (fun o => decide (e.lines * 128 < o.2 + size)) then raiseFault s c .stashRange
      else if e.st != .opened then advance s c c.g
      else
        let data := os.foldl (fun d o =>
          ((opdBytes c v size o.1).zipIdx).foldl (fun d (b, j) => alPut d (o.2 + j) b) d) e.data
        let covered (b : Nat) : Bool := os.any (fun o => decide (o.2 ≤ b) && decide (b < o.2 + size))
        let left := e.poison.filter (fun q => !(List.range 64).all (fun j => covered (64 * q + j)))
        advance (modRegion s r (fun x => { x with stash := alPut x.stash k { e with data := data, poison := left } })) c c.g))

/-- STASH.SEAL (Table 5.5): an OPEN entry becomes SEALED, a REFUSED one stays REFUSED. -/
def execStashSeal (i : Iss) (tag : ImmU) (s : State) : Host.Outcome State Fault Refusal :=
  completes s (issueWith s i [] (match tag with | .u n => [.u n] | _ => []) [] (fun s c =>
    let (r, part) := stashHome c
    let s := if c.act.isEmpty then s else match stashOf s r part (immU c tag) with
      | some (k, e) => if e.st = .opened then
          modRegion s r (fun x => { x with stash := alPut x.stash k { e with st := .sealed } }) else s
      | none => s
    advance s c c.g))

/-- A byte of a SEALED entry; bytes never written are free (log entry 31). -/
def stashByte (free : DWord) (e : StashEntry) (k : Nat) : Byte :=
  alGet (BitVec.ofNat 8 (free.toNat >>> (8 * (k % 8)))) e.data k

/-- A read of an entry touches a poisoned sector (R300). -/
def stashBad (e : StashEntry) (off n : Nat) : Bool :=
  e.poison.any (fun q => decide (off < 64 * q + 64) && decide (64 * q < off + n))

/-- STASH.LD (R136, R205): the predicate is true and the data are read when the entry is SEALED; otherwise it is false and
the register is unchanged. Poisoned data are MEM_POISON (R300). -/
def execStashLd (i : Iss) (size p v : Nat) (tag : ImmU) (off : Opd) (s : State) : Host.Outcome State Fault Refusal :=
  completes s (issueWith s i ((List.range (max 1 (size / 4))).map (v + ·))
      ((match tag with | .u n => [.u n] | _ => []) ++ [off]) [] (fun s c =>
    let (r, part) := stashHome c
    match stashOf s r part (immU c tag) with
    | none => advance s c (setPred c c.g p false)
    | some (_, e) =>
      if e.st != .sealed then advance s c (setPred c c.g p false)
      else
        let os := stashOffs c off
        if os.any (fun o => decide (e.lines * 128 < o.2 + size)) then raiseFault s c .stashRange
        else if os.any (fun o => stashBad e o.2 size) then raiseFault s c .memPoison
        else
          let (fr, s) := takeFree s
          let g := os.foldl (fun g o =>
            writeLoaded fr g v o.1 size 0 ((List.range size).map (fun j => stashByte fr e (o.2 + j)))) c.g
          advance s c (setPred c g p true)))

/-- STASH.FREE (R138). -/
def execStashFree (i : Iss) (tag : ImmU) (s : State) : Host.Outcome State Fault Refusal :=
  completes s (issueWith s i [] (match tag with | .u n => [.u n] | _ => []) [] (fun s c =>
    let (r, part) := stashHome c
    advance (if c.act.isEmpty then s else stashDrop s r part (immU c tag)) c c.g))

/-! ### Epilogue descriptors (Table 5.7) -/

/-- A descriptor that breaks Table 5.7 (R141); a WIDTH above 65,536 does not break it. -/
def epiBad (b : List Byte) : Bool :=
  let f (o n : Nat) : Nat := fieldAt b o n
  let mode := f 0 1
  let eps := ofFp32 (BitVec.ofNat 32 (f 12 4))
  decide (mode < 1) || decide (3 < mode) || decide (4 < f 1 1) || decide (2 < f 2 1 % 16) || decide (1 < f 2 1 / 16) ||
  decide (15 < f 3 1) || decide (f 4 2 < 1) || decide (32 < f 4 2) || (f 6 2 != 0) || (f 8 4 == 0) ||
  !xIsFin eps || (xNegative eps && !xIsZero eps) || (f 16 8 % 16 != 0) || (f 24 4 % 16 != 0) || (f 32 8 % 8 != 0) ||
  (f 48 8 % 16 != 0) || (f 56 4 % 16 != 0) || (f 60 4 != 0) || (!bit (f 3 1) 2 && f 64 8 != 0) || (f 72 8 % 128 != 0) ||
  (f 72 8 == 0) || ((b.drop 88).any (· != 0))

/-- Mode of a descriptor. -/
def epiMode (m : Nat) : EpiMode := if m = 1 then .ln else if m = 2 then .rms else .smax

/-- The SEALED entry that a descriptor's tag names, of the kind it needs (R142). -/
def epiEntry (s : State) (r part : Nat) (use stat : Bool) (tag : Nat) : Option Nat :=
  if !use || tag = 0xFFFF then none
  else match stashOf s r part tag with
    | some (k, e) => if e.st = .sealed && e.stat == stat then some k else none
    | none => none

/-- Count a reference to a stash entry. -/
def refEntry (s : State) (r : Nat) (k : Option Nat) : State :=
  match k with
  | none => s
  | some k => modRegion s r (fun x => match alFind x.stash k with
      | some e => { x with stash := alPut x.stash k { e with refs := e.refs + 1 } }
      | none => x)

/-- The job that a descriptor opens (R142). -/
def epiJobOf (s : State) (c : Ctx) (job desc eid : Nat) (b : List Byte) : EpiJob :=
  let (r, part) := stashHome c
  let f (o n : Nat) : Nat := fieldAt b o n
  let flags := f 3 1
  let lines := ceilDiv (f 4 2 * f 8 4 * 4 * (if bit flags 3 then 2 else 1)) 128
  { core := c.core, job := job, task := c.b.task, mode := epiMode (f 0 1), outFmt := f 1 1, xFmt := f 2 1 % 16,
    gFmt := f 2 1 / 16, partials := bit flags 2, zDrain := bit flags 3 && f 0 1 == 3, rows := f 4 2, width := f 8 4,
    eps := BitVec.ofNat 32 (f 12 4), desc := desc, xAddr := f 16 8, xStride := f 24 4,
    xEntry := epiEntry s r part (bit flags 0) false (f 28 2), statEntry := epiEntry s r part (bit flags 1) true (f 30 2),
    statsAddr := f 32 8, gammaAddr := f 40 8, dxAddr := f 48 8, dxStride := f 56 4, partAddr := f 64 8,
    stageInStash := stashFits s r part lines, stageLines := lines, stageAddr := f 72 8, eid := eid }

/-- EPI.OPEN (R141, R142): a broken descriptor faults; the job is declined when WIDTH exceeds 65,536 or the part has no
engines; otherwise a context opens, waiting while the core's job number is still in use. -/
def execEpiOpen (i : Iss) (job p u : Nat) (s : State) : Host.Outcome State Fault Refusal :=
  completes s (issueWith s i [] [.u u, .u (u + 1)] [] (fun s c =>
    if c.act.isEmpty then advance s c c.g
    else if !memReady c then s
    else
      let a := uReg64 c u
      if a % 128 != 0 then raiseFault s c .epiDescriptor
      else
        match descRead s c a with
        | (.wait, s) => s
        | (.fault f, s) => raiseFault s c f
        | (.ok b, s) =>
          if epiBad b then raiseFault s c .epiDescriptor
          else if decide (65536 < fieldAt b 8 4) || !s.units.testBit 0 then advance s c (setPred c c.g p false)
          else if (epiOf s c.core job).isSome then s
          else
            let (eid, s) := takeSeq s
            let j := epiJobOf s c job a eid b
            let r := coreRegion c.core
            let s := refEntry (refEntry s r j.xEntry) r j.statEntry
            let s := modCluster s (coreCluster c.core) (fun k =>
              { k with epi := alPut k.epi (((List.range 16).find? (fun n => (alFind k.epi n).isNone)).getD 16) j })
            advance (if j.stageInStash then stashDisplace s r c.b.task.tenant else s) c (setPred c c.g p true)))

/-! ### The sweeps (R148) -/

/-- rnd32 of R148. -/
def rnd32 (x : XVal) : XVal := roundFp32 x

/-- rowsum of R148: slices of 32 features, ascending. -/
def rowSum (xs : List XVal) : XVal :=
  (List.range (ceilDiv xs.length 32)).foldl (fun acc q =>
    round28 (xAdd acc (round28 (xSum ((xs.drop (32 * q)).take 32))))) xNegZero

/-- Largest value of a row; NaN if one is NaN (log entry 32). -/
def rowMax (xs : List XVal) : XVal :=
  if xs.any (· == .nan) then .nan
  else match xs with
    | [] => xNegZero
    | x :: r => r.foldl (fun a b => if xLt a b then b else a) x

/-- A number as a value. -/
def xNat (n : Nat) : XVal := .fin false (n : Rat)

/-- a − b. -/
def xSub (a b : XVal) : XVal := xAdd a (xNeg b)

/-- Statistics of a row: supplied, or recomputed from x (R148). LN: μ and r; RMS: r; SMAX: m and l. -/
def rowStats (j : EpiJob) (given : Option (XVal × XVal)) (x : List XVal) : XVal × XVal :=
  match given with
  | some p => p
  | none =>
    let w := xNat j.width
    let eps := ofFp32 j.eps
    match j.mode with
    | .ln =>
      let mu := rnd32 (xDiv (rowSum x) w)
      let var := rnd32 (xDiv (rowSum (x.map (fun v => xMul (xSub v mu) (xSub v mu)))) w)
      (mu, rsqFp32 (xAdd var eps))
    | .rms =>
      let ms := rnd32 (xDiv (rowSum (x.map (fun v => xMul v v))) w)
      (rsqFp32 (xAdd ms eps), xZero)
    | .smax =>
      let m := rowMax x
      (m, rnd32 (rowSum (x.map (fun v => expFp32 (rnd32 (xSub v m))))))

/-- One row of dx before its last rounding, with the row's x̂ (R148). -/
def rowBackward (j : EpiJob) (st : XVal × XVal) (x dy gamma : List XVal) : List XVal × List XVal :=
  let w := xNat j.width
  match j.mode with
  | .ln =>
    let xh := x.map (fun v => rnd32 (xMul (xSub v st.1) st.2))
    let g := (dy.zip gamma).map (fun e => rnd32 (xMul e.1 e.2))
    let a := rnd32 (xDiv (rowSum g) w)
    let b := rnd32 (xDiv (rowSum ((g.zip xh).map (fun e => xMul e.1 e.2))) w)
    ((g.zip xh).map (fun e => xMul st.2 (xSub (xSub e.1 a) (xMul e.2 b))), xh)
  | .rms =>
    let xh := x.map (fun v => rnd32 (xMul v st.1))
    let g := (dy.zip gamma).map (fun e => rnd32 (xMul e.1 e.2))
    let b := rnd32 (xDiv (rowSum ((g.zip xh).map (fun e => xMul e.1 e.2))) w)
    ((g.zip xh).map (fun e => xMul st.1 (xSub e.1 (xMul e.2 b))), xh)
  | .smax =>
    let y := x.map (fun v => rnd32 (xDiv (expFp32 (rnd32 (xSub v st.1))) st.2))
    let delta := rnd32 (rowSum ((dy.zip y).map (fun e => xMul e.1 e.2)))
    ((y.zip dy).map (fun e => xMul e.1 (xSub e.2 delta)), y)

/-- Decode a row of a source. -/
def decodeRow (fmt : Nat) (bs : List Byte) : List XVal :=
  let w := elemBits fmt
  (unpackElems w (bs.length * 8 / w) bs).map (decodeElem fmt 0)

/-- Read rows of a tenant's memory for the engine. -/
def engineRows (s : State) (t : TaskCtx) (die : Nat) : List (Nat × Nat) → List (List Byte) → Acc (List (List Byte)) × State
  | [], acc => (.ok acc, s)
  | (a, n) :: r, acc =>
    match agentRead s t.tenant t.part a n .plain (nodeIsRt s t.node) die with
    | (.ok b, s) => engineRows s t die r (acc ++ [b])
    | (.fault f, s) => (.fault f, s)
    | (.wait, s) => (.wait, s)

/-- Everything the sweeps read: x by row, statistics by row, γ. -/
def epiSources (s : State) (r : Nat) (j : EpiJob) (free : DWord) : Acc (List (List Byte) × List (Option (XVal × XVal)) × List Byte) × State :=
  let rows := List.range j.rows
  let xb := j.width * elemBits j.xFmt / 8
  let fromStash (k n off : Nat) : List Byte :=
    match alFind (regionOf s r).stash k with
    | some e => (List.range n).map (fun i => stashByte free e (off + i))
    | none => List.replicate n 0
  let stashRows (k n step : Nat) : Acc (List (List Byte)) :=
    let bad := match alFind (regionOf s r).stash k with
      | some e => rows.any (fun q => stashBad e (q * step) n)
      | none => false
    if bad then .fault .memPoison else .ok (rows.map (fun q => fromStash k n (q * step)))
  let pair (b : List Byte) : XVal × XVal :=
    (ofFp32 (BitVec.ofNat 32 (fieldAt b 0 4)), ofFp32 (BitVec.ofNat 32 (fieldAt b 4 4)))
  accBind (if j.zDrain then (.ok [], s) else match j.xEntry with
      | some k => (stashRows k xb j.xStride, s)
      | none => engineRows s j.task (r / 4) (rows.map (fun q => (j.xAddr + q * j.xStride, xb))) []) (fun xs s =>
    accBind (match j.statEntry with
        | some k => accBind (stashRows k 8 8, s) (fun bs s => (.ok (bs.map (fun b => some (pair b))), s))
        | none => if j.statsAddr = 0 then (.ok (rows.map (fun _ => none)), s)
          else accBind (engineRows s j.task (r / 4) (rows.map (fun q => (j.statsAddr + 8 * q, 8))) [])
            (fun bs s => (.ok (bs.map (fun b => some (pair b))), s))) (fun st s =>
      accBind (if j.mode = .smax then (.ok [], s)
        else agentRead s j.task.tenant j.task.part j.gammaAddr (j.width * elemBits j.gFmt / 8) .plain
            (nodeIsRt s j.task.node) (r / 4))
        (fun g s => (.ok (xs, st, g), s))))

/-- Free a job's context; the stash entries it referenced are released, and one that has lost its tag goes (R138). -/
def epiFree (s : State) (cluster ctx : Nat) (j : EpiJob) : State :=
  let r := cluster / 6
  let drop (s : State) (k : Option Nat) : State := match k with
    | none => s
    | some k => modRegion s r (fun x => match alFind x.stash k with
        | some e =>
          let stash := if e.refs ≤ 1 && e.replaced then alDel x.stash k
            else alPut x.stash k { e with refs := e.refs - 1 }
          { x with stash := stash }
        | none => x)
  drop (drop (modCluster s cluster (fun k => { k with epi := alDel k.epi ctx })) j.xEntry) j.statEntry

/-- RESULT (Table 5.7). -/
def epiResult (j : EpiJob) (fault : Bool) : Nat :=
  (if j.statEntry.isSome then 1 else if j.statsAddr != 0 then 2 else 0) + 4 * b2n (j.xEntry.isSome && !j.zDrain) + 8 * b2n j.stageInStash +
    16 * b2n fault

/-- Cut a write at the pages it touches. -/
def pageCuts : (fuel : Nat) → (va : Nat) → List Byte → List (Nat × List Byte)
  | 0, _, _ => []
  | fuel + 1, va, bs =>
    if bs.isEmpty then []
    else
      let k := 65536 - va % 65536
      (va, bs.take k) :: pageCuts fuel (va + k) (bs.drop k)

/-- The engine's writes, each within one page. -/
def engineCuts (ws : List (Nat × List Byte)) : List (Nat × List Byte) :=
  ws.flatMap (fun w => pageCuts (w.2.length / 65536 + 2) w.1 w.2)

/-- Make the engine's writes at their homes, in order, until one waits: what is left, and how it ended. -/
def engineWrites (s : State) (t : TaskCtx) (e : Issuer) : List (Nat × List Byte) → List (Nat × List Byte) × Acc Unit × State
  | [] => ([], .ok (), s)
  | (a, b) :: r =>
    match agentWrite s t.tenant t.part a b e with
    | (.ok _, s) => engineWrites s t e r
    | (.fault f, s) => ([], .fault f, s)
    | (.wait, s) => ((a, b) :: r, .wait, s)

/-- A staged element: as delivered, or, where none was, what the stage held before (free, log entry 31). -/
def staged (j : EpiJob) (z : Bool) (q k : Nat) : Word :=
  let m := if z then j.z else j.dy
  match alFind m (q * 65536 + k) with
  | some b => BitVec.ofNat 32 b
  | none => Config.startWord j.task.tenant j.eid ((if z then 2 ^ 26 else 2 ^ 25) + q * 65536 + k)

/-- The stage at STAGE_ADDR (R142): dy by row as FP32, then z (the order is the model's, log entry 146). -/
def stageRows (j : EpiJob) : List (Nat × List Byte) :=
  let rows (z : Bool) (base : Nat) : List (Nat × List Byte) :=
    (List.range j.rows).map (fun q => (base + q * j.width * 4, (List.range j.width).flatMap (fun k => leBytes 4 (staged j z q k).toNat)))
  if j.stageInStash then []
  else rows false j.stageAddr ++ (if j.zDrain then rows true (j.stageAddr + j.rows * j.width * 4) else [])

/-- What the sweeps write, and the clipped and flushed counts of the engine's rounding (R145, R148). -/
def epiOutputs (j : EpiJob) (xs : List (List Byte)) (st : List (Option (XVal × XVal))) (gb : List Byte) :
    List (Nat × List Byte) × Nat × Nat :=
  let gamma := decodeRow j.gFmt gb
  let rows := (List.range j.rows).map (fun q =>
    let x := if j.zDrain then (List.range j.width).map (fun k => ofFp32 (staged j true q k)) else decodeRow j.xFmt (xs.getD q [])
    let dy := (List.range j.width).map (fun k => ofFp32 (staged j false q k))
    let (dx, xh) := rowBackward j (rowStats j (st.getD q none) x) x dy gamma
    (dx.map (roundOut j.outFmt .rne .default), xh, dy))
  let cs := rows.flatMap (·.1)
  let dxs := (rows.zipIdx).map (fun (r, q) => (j.dxAddr + q * j.dxStride, packElems (elemBits j.outFmt) (r.1.map (·.bits))))
  let feat (f : List XVal × List XVal → Nat → XVal) (k : Nat) : List Byte :=
    leBytes 4 (toFp32 .rne (xSum (rows.map (fun r => f (r.2.1, r.2.2) k)))).toNat
  let dgamma := (List.range j.width).flatMap (feat (fun r k => xMul (r.2.getD k xZero) (r.1.getD k xZero)))
  let dbeta := (List.range j.width).flatMap (fun k =>
    if j.mode = .ln then feat (fun r k => r.2.getD k xZero) k else leBytes 4 0)
  let parts := if j.partials && j.mode != .smax then [(j.partAddr, dgamma), (j.partAddr + 4 * j.width, dbeta)] else []
  (dxs ++ parts, (cs.filter (·.clipped)).length, (cs.filter (·.flushed)).length)

/-- Put a job back into its context. -/
def putEpi (s : State) (cluster ctx : Nat) (j : EpiJob) : State :=
  modCluster s cluster (fun k => { k with epi := alPut k.epi ctx j })

/-- A failed access of a job: the task fails, and RESULT will say so. -/
def epiFail (s : State) (cluster ctx : Nat) (j : EpiJob) (f : DevFault) : State :=
  let s := failNode (if f = .memPoison then poisonConsumed s j.task.tenant else s) j.task.node
    { status := .fault, fault := f, loc := locOf j.core }
  putEpi s cluster ctx { j with out := [], bad := true, phase := max 2 j.phase }

/-- What a closed job does next (R142, R145, R148): the writes that stand out are made; then its stage is written out, its
sweeps run, and, once dx and the partials have been acknowledged, RESULT is written; the context is freed once RESULT has
been. It stops where an access waits. -/
def epiRun : (fuel : Nat) → State → (cluster ctx : Nat) → State
  | 0, s, _, _ => s
  | fuel + 1, s, cluster, ctx =>
    match alFind (clusterOf s cluster).epi ctx with
    | none => s
    | some j =>
      match engineWrites s j.task { die := cluster / 24, node := j.task.node, id := j.eid } j.out with
      | (rest, .wait, s) => putEpi s cluster ctx { j with out := rest }
      | (_, .fault f, s) => epiRun fuel (epiFail s cluster ctx j f) cluster ctx
      | (_, .ok _, s) =>
        let j := { j with out := [] }
        if j.phase = 0 then epiRun fuel (putEpi s cluster ctx { j with phase := 1, out := engineCuts (stageRows j) }) cluster ctx
        else if j.phase = 1 then
          let (free, s) := takeFree s
          match epiSources s (cluster / 6) j free with
          | (.wait, s) => putEpi s cluster ctx j
          | (.fault f, s) => epiRun fuel (epiFail s cluster ctx j f) cluster ctx
          | (.ok (xs, st, g), s) =>
            let (ws, cl, fl) := epiOutputs j xs st g
            let s := bump (bump s j.task.tenant 0x60138 cl) j.task.tenant 0x60140 fl
            epiRun fuel (putEpi s cluster ctx { j with phase := 2, out := engineCuts ws }) cluster ctx
        else if 0 < engineOut s .engine j.eid then putEpi s cluster ctx j
        else if j.phase = 2 then
          epiRun fuel (putEpi s cluster ctx { j with phase := 3, out := [(j.desc + 80, leBytes 8 (epiResult j j.bad))] }) cluster ctx
        else epiFree s cluster ctx j

/-- EPI_JOB_COMPLETE (R138, R145, R148): the sweeps of a closed job, dx by row, the partials, RESULT last. A fault of the
engine's accesses fails the task and RESULT says so. -/
def execEpiJobComplete (cluster ctx : Nat) (s : State) : Host.Outcome State Fault Refusal :=
  completes s (
    match alFind (clusterOf s cluster).epi ctx with
    | none => s
    | some j => if !j.closed || j.saved then s else epiRun 6 s cluster ctx)

/-- EPI.WAIT (R145, R235): once RESULT is written it acts as FENCE.LD of device scope for its path. -/
def execEpiWait (i : Iss) (job : Nat) (s : State) : Host.Outcome State Fault Refusal :=
  completes s (issueWith s i [] [] [] (fun s c =>
    if c.act.isEmpty then advance s c c.g
    else if (epiOf s c.core job).isSome then s
    else fencePath s c c.g c.next .ld .device false))

end Sys2Proof.Machine
end

