-- ==== Sys2Proof/Machine/Bench.lean ====
section
/-! DEFINITION. The bench (spec chapter 14), and TRACE.MARK. -/

namespace Sys2Proof.Machine

/-- Pages that x tokens take (R414). -/
def pagesFor (p : Pool) (x : Nat) : Nat := ceilDiv x p.tpp

/-- The sequence in a batch slot. -/
def seqInSlot (p : Pool) (slot : Nat) : Option (Nat × BenchSeq) := p.seqs.find? (fun e => e.2.slot == slot)

/-- BENCH.XLAT of one lane (R424): the address and whether it is valid. -/
def xlatOne (p : Pool) (slot t : Nat) : Nat × Bool :=
  match seqInSlot p slot with
  | none => (0, false)
  | some (_, q) =>
    if q.pages.length * p.tpp ≤ t then (0, false)
    else (p.base + q.pages.getD (t / p.tpp) 0 * 65536 + t % p.tpp * (65536 / p.tpp), true)

/-- BENCH.XLAT (R424): each lane's slot and token give an address in the pool of the task's partition; an empty slot, or a
partition without a pool, gives 0 and false. -/
def execBenchXlat (i : Iss) (p : Nat) (d slot token : Opd) (s : State) : Host.Outcome State Fault Refusal :=
  completes s (issueWith s i (vRegs true d) [slot, token] [] (fun s c =>
    let r (l : Nat) : Nat × Bool :=
      match alFind s.pools c.b.task.part with
      | none => (0, false)
      | some q => xlatOne q (opdLane c slot l).toNat (opdLane c token l).toNat
    let g := writeD64 s c.g d (c.act.map (fun l => (l, BitVec.ofNat 64 (r l).1)))
    advance (usedFree s d) c (setP g p (c.act.map (fun l => (l, (r l).2))))))

/-- TRACE.MARK (R517): one MARK record with the register pair of the lowest active lane and the identifier. -/
def execTraceMark (i : Iss) (id : ImmU) (a : Opd) (s : State) : Host.Outcome State Fault Refusal :=
  completes s (issueWith s i [] (match id with | .u n => [.u n] | _ => []) [a] (fun s c =>
    let s := match c.act.head? with
      | none => s
      | some l => traceEmit s 5 0 (locOf c.core) (some c.b.task.tenant) (opdLane64 c a l).toNat
          (c.p.pc + immU c id % 65536 * 2 ^ 32 + c.slot * 2 ^ 48)
    advance s c c.g))

/-! ### Steps (R416 to R421) -/

/-- A step descriptor (Table 14.3). -/
structure BenchStep where
  leave : List Nat
  joins : List (Nat × Nat × Nat)
  grows : List (Nat × Nat)
  grow : Nat
  reserved : Bool
  deriving DecidableEq, Repr

/-- Byte length of a step descriptor by its counts. -/
def stepBytes (nl nj ng : Nat) : Nat := 16 + 8 * ceilDiv nl 2 + 8 * nj + 4 * ng

/-- Read a step descriptor's fields. -/
def stepOf (b : List Byte) : BenchStep :=
  let nl := fieldAt b 0 2
  let nj := fieldAt b 2 2
  let ng := fieldAt b 4 2
  let jo := 16 + 8 * ceilDiv nl 2
  let go := jo + 8 * nj
  { leave := (List.range nl).map (fun k => fieldAt b (16 + 4 * k) 2)
    joins := (List.range nj).map (fun k => (fieldAt b (jo + 8 * k) 2, fieldAt b (jo + 8 * k + 2) 1 % 8, fieldAt b (jo + 8 * k + 4) 4))
    grows := (List.range ng).map (fun k => (fieldAt b (go + 4 * k) 2, fieldAt b (go + 4 * k + 2) 2))
    grow := fieldAt b 6 1
    reserved := ((b.drop 7).take 9).any (· != 0) ||
      (List.range nl).any (fun k => fieldAt b (16 + 4 * k + 2) 2 != 0) ||
      (List.range nj).any (fun k => fieldAt b (jo + 8 * k + 2) 2 / 8 != 0) }

/-- Growth of a continuing sequence. -/
def growthOf (d : BenchStep) (q : Nat) : Nat := ((d.grows.find? (fun e => e.1 == q)).map (·.2)).getD d.grow

/-- Whether a step descriptor is invalid (R418). -/
def stepBad (p : Pool) (d : BenchStep) : Bool :=
  let names := d.leave ++ d.joins.map (·.1) ++ d.grows.map (·.1)
  let running (q : Nat) : Bool := (alFind p.seqs q).isSome
  let top := p.maxPages * p.tpp
  decide (4096 < d.leave.length) || decide (4096 < d.joins.length) || decide (4096 < d.grows.length) ||
  names.any (fun q => decide (p.maxSeq ≤ q)) || decide (names.length != names.dedup.length) ||
  d.leave.any (fun q => !running q) || d.grows.any (fun e => !running e.1) || d.joins.any (fun e => running e.1) ||
  d.joins.any (fun e => decide (e.2.2 < 1) || decide (top < e.2.2)) ||
  p.seqs.any (fun e => !d.leave.contains e.1 && decide (top < e.2.len + growthOf d e.1)) || d.reserved

/-- Pages in use. -/
def usedPages (p : Pool) : List Nat := p.seqs.flatMap (fun e => e.2.pages)

/-- The `n` lowest free pages (R415). -/
def freePages (p : Pool) : (fuel k n : Nat) → List Nat
  | 0, _, _ => []
  | fuel + 1, k, n =>
    if n = 0 || p.pages ≤ k then []
    else if (usedPages p).contains k then freePages p fuel (k + 1) n
    else k :: freePages p fuel (k + 1) (n - 1)

/-- Free pages of a pool. -/
def freeCount (p : Pool) : Nat := p.pages - (usedPages p).length

/-- Take `n` pages. -/
def takePages (p : Pool) (n : Nat) : List Nat := freePages p ((usedPages p).length + n + 1) 0 n

/-- Evict until the growth fits (R419, step 2): the pool, the evicted in order. -/
def evictFor (d : BenchStep) : (fuel : Nat) → Pool → List Nat → Pool × List Nat
  | 0, p, ev => (p, ev)
  | fuel + 1, p, ev =>
    let add (e : Nat × BenchSeq) : Nat := pagesFor p (e.2.len + growthOf d e.1) - pagesFor p e.2.len
    let need := p.seqs.foldl (fun a e => a + add e) 0
    if need ≤ freeCount p then (p, ev)
    else
      let low := p.seqs.foldl (fun m e => min m e.2.prio) 8
      let cand := p.seqs.filter (fun e => e.2.prio == low)
      let top := cand.foldl (fun m e => max m e.2.stamp) 0
      match cand.find? (fun e => e.2.stamp == top) with
      | some v => evictFor d fuel { p with seqs := alDel p.seqs v.1 } (ev ++ [v.1])
      | none => (p, ev)

/-- Growth of every running sequence in ascending slot (R419). -/
def growAll (d : BenchStep) (p : Pool) : Pool × Nat :=
  (List.range 4096).foldl (fun (acc : Pool × Nat) slot =>
    match seqInSlot acc.1 slot with
    | none => acc
    | some (k, q) =>
      let len := q.len + growthOf d k
      let n := pagesFor p len - pagesFor p q.len
      ({ acc.1 with seqs := alPut acc.1.seqs k { q with len := len, pages := q.pages ++ takePages acc.1 n } }, acc.2 + n))
    (p, 0)

/-- The lowest empty batch slot (R415). -/
def emptySlot (p : Pool) : Option Nat := (List.range 4096).find? (fun k => (seqInSlot p k).isNone)

/-- Joins in list order (R419, step 3): the pool, a status per join, the pages taken. -/
def joinAll (skip : Bool) : List (Nat × Nat × Nat) → Pool → Bool → List Bool → Nat → Pool × List Bool × Nat
  | [], p, _, st, n => (p, st, n)
  | (q, prio, len) :: r, p, stop, st, n =>
    match emptySlot p with
    | none => joinAll skip r p (stop || !skip) (st ++ [false]) n
    | some slot =>
      if stop || decide (freeCount p < pagesFor p len) then joinAll skip r p (stop || !skip) (st ++ [false]) n
      else
        let e : BenchSeq := { len := len, prio := prio, stamp := p.joins, slot := slot, pages := takePages p (pagesFor p len) }
        joinAll skip r { p with seqs := alPut p.seqs q e, joins := p.joins + 1 } stop (st ++ [true]) (n + pagesFor p len)

/-- A valid step applied (R419): the pool, the evicted, the join statuses, the pages taken. -/
def applyStep (p : Pool) (d : BenchStep) (skip : Bool) : Pool × List Nat × List Bool × Nat :=
  let p := { p with seqs := d.leave.foldl (fun m q => alDel m q) p.seqs }
  let (p, ev) := evictFor d (p.seqs.length + 1) p []
  let (p, g) := growAll d p
  let (p, st, n) := joinAll skip d.joins p (!ev.isEmpty) [] 0
  ({ p with steps := p.steps + 1 }, ev, st, g + n)

/-- The pieces of a result area (Table 14.4) with their offsets. -/
def stepResult (p : Pool) (ev : List Nat) (st : List Bool) : List (Nat × List Byte) :=
  let batch := (List.range 4096).flatMap (fun slot => match seqInSlot p slot with
    | none => leBytes 8 0xFFFF
    | some (k, q) => leBytes 2 k ++ leBytes 2 q.prio ++ leBytes 4 q.len)
  [(0, leBytes 4 (freeCount p) ++ leBytes 2 p.seqs.length ++ leBytes 2 ev.length ++
      leBytes 2 ((st.filter (fun b => !b)).length) ++ [1] ++ leBytes 5 0 ++ leBytes 8 p.steps ++ leBytes 40 0),
   (0x40, st.map (fun b => if b then 0 else 4)), (0x1040, ev.flatMap (leBytes 2)), (0x4000, batch)]

/-- Write pieces for an agent of a tenant. -/
def agentWrites (s : State) (tenant part base node : Nat) : List (Nat × List Byte) → Acc Unit × State
  | [] => (.ok (), s)
  | (o, b) :: r =>
    match agentWrite s tenant part (base + o) b { node := node, sure := true } with
    | (.ok _, s) => agentWrites s tenant part base node r
    | (.fault f, s) => (.fault f, s)
    | (.wait, s) => (.wait, s)

/-- The next step node of a pool: those of RT jobs first (R421). -/
def nextStep (s : State) (p : Pool) : Option Nat :=
  match p.waiting.find? (nodeIsRt s) with
  | some n => some n
  | none => p.waiting.head?

/-- Whether every piece of a step's result can be written now (`agentReady`). -/
def agentsReady (s : State) (tenant part base node need : Nat) : List (Nat × List Byte) → Acc Unit × State
  | [] => (.ok (), s)
  | (o, b) :: r =>
    match agentReady 3 s tenant part (base + o) b.length { node := node } need with
    | (.ok _, s) => agentsReady s tenant part base node (need + (chunksOf (base + o) b.length).length) r
    | x => x

/-- Another pool has a step of an RT job waiting, which the bench serves first (R421); in strict isolation mode it serves
partitions in fixed windows. -/
def rtElsewhere (s : State) (part : Nat) : Bool :=
  !s.sched.strict && s.pools.any (fun e => e.1 != part && e.2.waiting.any (fun k => nodeIsRt s k && (match alFind s.fe.nodes k with
    | some n => !(s.host.xreqs.any (fun q => q.fn == n.tenant && !q.dead) ||
        s.links.txns.any (fun t => t.kind == .read && t.tenant == n.tenant && !t.dead))
    | none => false)))

/-- BENCH_STEP_APPLY (R416 to R421): the whole descriptor is read and checked, then the step is applied and its result
area written; nothing changes when it is invalid or an area cannot be read or written. -/
def execBenchStepApply (part : Nat) (s : State) : Host.Outcome State Fault Refusal :=
  completes s (
    match alFind s.pools part with
    | none => s
    | some p =>
      match nextStep s p with
      | none => s
      | some k =>
        match alFind s.fe.nodes k with
        | none => { s with pools := alPut s.pools part { p with waiting := p.waiting.erase k } }
        | some n =>
          let out (s : State) (f : Option FailInfo) : State :=
            modNode { s with pools := alMod p s.pools part (fun p => { p with waiting := p.waiting.erase k }) } k (fun n =>
              { n with phase := .finished, fail := match n.fail with | some x => some x | none => f.map (fun x => { x with node := n.idx }) })
          let bad (s : State) (f : DevFault) : State := out s (some { status := .fault, fault := f })
          let unread (s : State) (f : DevFault) : State := bad (if f = .memPoison then poisonConsumed s n.tenant else s) .memAccess
          let rt := nodeIsRt s k
          let sa := fieldAt n.desc 56 8
          let ra := fieldAt n.desc 64 8
          if !rt && rtElsewhere s part then s
          else if n.stopping then
            -- R423: a step not yet applied leaves APPLIED 0 in its result area
            if benchBodyBad n.desc then out s none
            else
              match agentWrite s n.tenant n.part (ra + 10) [0] { node := k } with
              | (.wait, s) => s
              | (_, s) => out s none
          else if benchBodyBad n.desc || n.tenant != p.owner then bad s .nodeInvalid
          else
            match agentRead s n.tenant n.part sa 16 .plain rt with
            | (.wait, s) => s
            | (.fault f, s) => unread s f
            | (.ok h, s) =>
              match agentRead s n.tenant n.part sa (stepBytes (fieldAt h 0 2) (fieldAt h 2 2) (fieldAt h 4 2)) .plain rt with
              | (.wait, s) => s
              | (.fault f, s) => unread s f
              | (.ok b, s) =>
                let d := stepOf b
                if stepBad p d then bad s .nodeInvalid
                else if !rangeOk s n.tenant ra 49152 .w then bad s .memAccess
                else
                  let (p', ev, st, taken) := applyStep p d (bit (fieldAt n.desc 72 1) 0)
                  match agentsReady s n.tenant n.part ra k 0 (stepResult p' ev st) with
                  | (.wait, s) => s
                  | (.fault _, s) => bad s .memAccess
                  | (.ok _, s) =>
                  match agentWrites s n.tenant n.part ra k (stepResult p' ev st) with
                  | (.wait, s) => s
                  | (.fault _, s) => bad s .memAccess
                  | (.ok _, s) =>
                    let s := { s with pools := alPut s.pools part { p' with waiting := p.waiting } }
                    let s := bump (bump (bump (bump s n.tenant 0x20140 1) n.tenant 0x20148 ((st.filter (fun x => !x)).length))
                      n.tenant 0x20150 ev.length) n.tenant 0x20158 taken
                    out s none)

end Sys2Proof.Machine
end

