-- ==== Sys2Proof/Machine/Control.lean ====
section
/-! DEFINITION. Control flow, hardware loops, rotation, barriers and instruction broadcast (R167 to R186, R212 to
R214). -/

namespace Sys2Proof.Machine

/-- Replace the current path by others; a backward branch counts when the path set has not changed (R169). -/
def splitPath (c : Ctx) (g : Group) (ps : List Path) (back : Bool) : Group :=
  let others := g.paths.filter (fun q => q.lanes != c.p.lanes)
  let g' := setPaths c.b.task.recon g (others ++ ps)
  if back && samePaths g.paths g'.paths then { g' with branches := g'.branches + 1 } else g'

/-- A path of lanes at a program counter. -/
def pathAt (lanes : List Nat) (pc : Nat) : Path := { lanes := laneMask lanes, pc := pc }

/-- Lanes of the current path that are not in a list. -/
def restLanes (c : Ctx) (l : List Nat) : List Nat := (laneList c.p.lanes).filter (fun x => !l.contains x)

/-- Each lane of the path goes to the program counter that `f` gives it (R167): one path per distinct place. -/
def scatter (c : Ctx) (f : Nat → Nat) : List Path :=
  (laneList c.p.lanes).map (fun l => pathAt [l] (f l))

/-- BRA (R167): lanes that take part and meet the condition go to the target; the path splits when they disagree. -/
def execBra (i : Iss) (p : Option (Bool × Nat)) (target : Nat) (s : State) : Host.Outcome State Fault Refusal :=
  completes s (issueWith s i [] (match p with | some (_, n) => [.p n] | none => []) [] (fun s c =>
    let taken := c.act.filter (fun l => match p with
      | some (neg, n) => predOf c.g n l != neg
      | none => true)
    putGroup s c (splitPath c c.g [pathAt taken target, pathAt (restLanes c taken) c.next]
      (!taken.isEmpty && decide (target ≤ c.p.pc)))))

/-- CALL: lanes that take part keep the return address and go to the target (log entry 19). -/
def execCall (i : Iss) (target : Nat) (s : State) : Host.Outcome State Fault Refusal :=
  completes s (issueWith s i [] [] [] (fun s c =>
    let g := { c.g with calls := c.act.foldl (fun m l => alPut m l (c.next :: alGet [] m l)) c.g.calls }
    putGroup s c (splitPath c g [pathAt c.act target, pathAt (restLanes c c.act) c.next] false)))

/-- RET: each lane returns to the address its last CALL kept; a lane without one goes on (log entry 19). -/
def execRet (i : Iss) (s : State) : Host.Outcome State Fault Refusal :=
  completes s (issueWith s i [] [] [] (fun s c =>
    let g := { c.g with calls := c.act.foldl (fun m l => alPut m l ((alGet [] m l).drop 1)) c.g.calls }
    putGroup s c (splitPath c g (scatter c (fun l =>
      if c.act.contains l then ((alGet [] c.g.calls l).head?).getD c.next else c.next)) false)))

/-! ### Barriers (R176, R177) -/

/-- The threads of a group's lanes: 32 times the group's number in its block, plus the lane. -/
def threadsOf (g : Group) (lanes : List Nat) : List Nat := lanes.map (fun l => 32 * g.index + l)

/-- The threads of a block that have not exited. -/
def liveThreads (x : Exec) (blk : Nat) : List Nat :=
  x.groups.flatMap (fun e => if e.2.block = blk then e.2.paths.flatMap (fun p => threadsOf e.2 (laneList p.lanes)) else [])

/-- Release every path of the block that waits at barrier `id` on generation `gen`. For the threads released this is a
load fence of block scope, at event number `seq` (R178). -/
def releaseBar (x : Exec) (seq blk id : Nat) (gen : BitVec 16) (recon : List Nat) : Exec :=
  let one (g : Group) : Group :=
    if g.block = blk && g.paths.any (fun p => p.bar == some (id, gen)) then
      setPaths recon g (g.paths.map (fun p => if p.bar == some (id, gen) then { p with bar := none } else p))
    else g
  { x with groups := alMap x.groups (fun _ g => one g), fenceAt := seq }

/-- Whether a generation's arrivals suffice (R177): its count, or, without one, every thread of the block that has not
exited. -/
def Bar.full (r : Bar) (live : List Nat) : Bool :=
  r.opened && (if r.count = 0 then live.all (fun t => r.who.contains t) else decide (r.count ≤ r.arrived))

/-- Complete the open generation of a barrier if its arrivals suffice (R177): the waiters are released and the
generation number advances. -/
def tryComplete (x : Exec) (seq blk id : Nat) : Exec :=
  match alFind x.blocks blk with
  | none => x
  | some b =>
    let r := b.bars.getD id {}
    let b' := { b with bars := b.bars.set id { gen := r.gen + 1 } }
    if r.full (liveThreads x blk) then releaseBar { x with blocks := alPut x.blocks blk b' } seq blk id r.gen b.task.recon
    else x

/-- Threads arrive at a barrier; the first arrival of a generation gives it its count (R176). -/
def Bar.arrive (r : Bar) (count : Nat) (who : List Nat) : Bar :=
  if r.opened then { r with arrived := r.arrived + who.length, who := r.who ++ who.filter (fun t => !r.who.contains t) }
  else { r with opened := true, count := count, arrived := who.length, who := who }

/-- Threads arrive at a barrier of their block. -/
def arrive (x : Exec) (blk id count : Nat) (who : List Nat) : Exec :=
  match alFind x.blocks blk with
  | none => x
  | some b => { x with blocks := alPut x.blocks blk { b with bars := b.bars.set id ((b.bars.getD id {}).arrive count who) } }

/-- The count that a lane gives; 0 stands for "every thread" (R176). -/
def countOf (c : Ctx) (o : Option Opd) (l : Nat) : Nat := match o with
  | none => 0
  | some q => (opdLane c q l).toNat

/-- The count of an arrival: that of its first lane. -/
def barCount (c : Ctx) (o : Option Opd) : Nat := countOf c o (c.act.headD 0)

/-- Whether an arrival raises BARRIER_COUNT (R176): a barrier above 3, or a lane whose count is 0, is above T, or
disagrees with the generation's first arrival. -/
def barBad (c : Ctx) (id : Nat) (o : Option Opd) : Bool :=
  let r := c.b.bars.getD id {}
  let first := if r.opened then r.count else barCount c o
  decide (3 < id) || c.act.any (fun l => countOf c o l != first ||
    (o.isSome && (countOf c o l == 0 || decide (c.b.threads < countOf c o l))))

/-- The group's outstanding loads and atomics have ended, as a fence of block scope waits for them (R178). -/
def barReady (c : Ctx) : Bool := c.x.loads.all (fun l => l.slot != c.slot) && c.x.atoms.all (fun a => a.slot != c.slot)

/-- An arrival acts as FENCE.FULL of block scope (R178): the group's matrix instructions have written their destinations
too. -/
def arriveReady (c : Ctx) : Bool := barReady c && c.x.mmas.all (fun m => m.slot != c.slot)

/-- Lanes of the context arrive: the fence of block scope takes its place, and the generation completes if this was the last
arrival (R176 to R178). -/
def arriveAt (s : State) (c : Ctx) (id : Nat) (count : Option Opd) : State :=
  modExec (markFence s c .block) c.core (fun x =>
    tryComplete (arrive x c.g.block id (barCount c count) (threadsOf c.g c.act)) s.seqNo c.g.block id)

/-- BAR.SYNC (R176): the lanes arrive and wait until the generation they joined completes. -/
def execBarSync (i : Iss) (id : ImmU) (count : Option Opd) (s : State) : Host.Outcome State Fault Refusal :=
  completes s (issueWith s i [] (match count with | some q => [q] | none => []) [] (fun s c =>
    if c.act.isEmpty then advance s c c.g
    else if !arriveReady c then s
    else if barBad c (immU c id) count then raiseFault s c .barrierCount
    else
      let n := immU c id
      let gen := (c.b.bars.getD n {}).gen
      let g := splitPath c c.g [{ pathAt c.act c.next with bar := some (n, gen) }, pathAt (restLanes c c.act) c.next] false
      arriveAt (putGroup s c g) c n count))

/-- BAR.POST (R176): the lanes arrive, keep the generation number, and go on. -/
def execBarPost (i : Iss) (id : ImmU) (d : Opd) (count : Option Opd) (s : State) : Host.Outcome State Fault Refusal :=
  completes s (issueWith s i (vRegs false d) (match count with | some q => [q] | none => []) [] (fun s c =>
    if c.act.isEmpty then advance s c c.g
    else if !arriveReady c then s
    else if barBad c (immU c id) count then raiseFault s c .barrierCount
    else
      let n := immU c id
      let gen := (c.b.bars.getD n {}).gen
      let g := writeD s c.g d (c.act.map (fun l => (l, gen.setWidth 32)))
      arriveAt (advance (usedFree s d) c g) c n count))

/-- BAR.WAIT (R176): lanes whose value equals the open generation number wait; the others go on. -/
def execBarWait (i : Iss) (id : ImmU) (a : Opd) (s : State) : Host.Outcome State Fault Refusal :=
  completes s (issueWith s i [] [a] [] (fun s c =>
    if c.act.isEmpty then advance s c c.g
    else if !barReady c then s
    else if 3 < immU c id then raiseFault s c .barrierCount
    else
      let n := immU c id
      let gen := (c.b.bars.getD n {}).gen
      let w := c.act.filter (fun l => opdLane c a l == gen.setWidth 32)
      markFence (putGroup s c (splitPath c c.g
        [{ pathAt w c.next with bar := some (n, gen) }, pathAt (restLanes c w) c.next] false)) c .block))

/-! ### EXIT -/

/-- EXIT (R167, R177): once no earlier instruction of the group can still fault, the lanes leave for good; an exit may
complete barrier generations; the last exit of the block ends it. -/
def execExit (i : Iss) (s : State) : Host.Outcome State Fault Refusal :=
  completes s (issueWith s i [] [] [] (fun s c =>
    if c.act.isEmpty then advance s c c.g
    else if mayFault c.x c.slot s.seqNo then s
    else
      let s := putGroup s c (splitPath c c.g [pathAt (restLanes c c.act) c.next] false)
      if (liveThreads (execOf s c.core) c.g.block).isEmpty then endBlock s c.core c.g.block
      else modExec s c.core (fun x => (List.range 4).foldl (fun x n => tryComplete x s.seqNo c.g.block n) x)))

/-! ### Hardware loops (R184 to R186) -/

/-- Open loops of a thread. -/
def loopsOf (g : Group) (l : Nat) : List LoopEnt := alGet [] g.loops l

/-- LOOP (R184, R185): the count is sampled per thread; a count of 0 skips the loop; a fifth open loop faults.
`endOff` is the offset after the matching ENDLOOP. -/
def execLoop (i : Iss) (count : Opd) (endOff : Nat) (s : State) : Host.Outcome State Fault Refusal :=
  completes s (issueWith s i [] [count] [] (fun s c =>
    if c.act.any (fun l => decide (4 ≤ (loopsOf c.g l).length)) then raiseFault s c .loopDepth
    else
      let n (l : Nat) : Nat := (opdLane c count l).toNat
      let loops := c.act.foldl (fun m l =>
        if n l = 0 then m else alPut m l ({ start := c.next, left := n l - 1, exit := endOff } :: alGet [] m l)) c.g.loops
      putGroup s c (splitPath c { c.g with loops := loops } (scatter c (fun l =>
        if c.act.contains l && n l == 0 then endOff else c.next)) false)))

/-- ENDLOOP (R186): lanes with repeats left branch back, the others leave the loop. -/
def execEndloop (i : Iss) (s : State) : Host.Outcome State Fault Refusal :=
  completes s (issueWith s i [] [] [] (fun s c =>
    let again := c.act.filter (fun l => match (loopsOf c.g l).head? with | some e => decide (0 < e.left) | none => false)
    let loops := c.act.foldl (fun m l =>
      match alGet [] m l with
      | e :: r => if e.left = 0 then alPut m l r else alPut m l ({ e with left := e.left - 1 } :: r)
      | [] => m) c.g.loops
    putGroup s c (splitPath c { c.g with loops := loops } (scatter c (fun l =>
      if again.contains l then (((loopsOf c.g l).head?).map (·.start)).getD c.next else c.next)) (!again.isEmpty))))

/-- LOOP.BREAK (R184): leave the innermost open loop at once. -/
def execLoopBreak (i : Iss) (s : State) : Host.Outcome State Fault Refusal :=
  completes s (issueWith s i [] [] [] (fun s c =>
    let loops := c.act.foldl (fun m l => alPut m l ((alGet [] m l).drop 1)) c.g.loops
    putGroup s c (splitPath c { c.g with loops := loops } (scatter c (fun l =>
      if c.act.contains l then (((loopsOf c.g l).head?).map (·.exit)).getD c.next else c.next)) false)))

/-! ### Rotation (R169, R170) -/

/-- YIELD (R170): the group rotates, unless the path set changes as the path moves on, or no lane takes part (R192). -/
def execYield (i : Iss) (s : State) : Host.Outcome State Fault Refusal :=
  completes s (issueWith s i [] [] [] (fun s c =>
    let g := movePath c c.g c.next
    if !c.act.isEmpty && samePaths c.g.paths g.paths then
      putGroup (ctrAdd s (blkKey 0 i.core) 0x0F 1 none) c (rotateGroup g)
    else putGroup s c g))

/-- The 64th backward branch rotates the group (R169). -/
def execGroupRotate (core slot : Nat) (s : State) : Host.Outcome State Fault Refusal :=
  completes s (
    match alFind (execOf s core).groups slot with
    | none => s
    | some g =>
      if g.branches < 64 then s
      else modExec (ctrAdd s (blkKey 0 core) 0x0F 1 none) core (fun x =>
        { x with groups := alPut x.groups slot (rotateGroup g) }))

/-! ### Instruction broadcast (R213, R214) -/

/-- Lines that a translated-code cache holds: 8,192 lines of 64 bytes, 8 ways of 1,024 sets by line number (log entry
20), most recently used first. -/
def codeCacheAdd (l : Nat × Nat × Nat) (cl : List (Nat × Nat × Nat)) : List (Nat × Nat × Nat) :=
  let rest := cl.filter (fun x => x != l)
  let sameSet := rest.filter (fun x => x.2.2 % 1024 == l.2.2 % 1024)
  let drop := sameSet.drop 7
  l :: rest.filter (fun x => !drop.contains x)

/-- The 64 bytes of a line of native code, as they stand in the code region. -/
def codeLine (s : State) (image line : Nat) : List Byte :=
  match (alFind s.images image).bind (fun i => codePa i (64 * line)) with
  | some pa => lineSlice (homePeek s pa).1 (pa % 128) 64
  | none => []

/-- The sequencer sends the line of the oldest request on the bus, from its cache or, on a miss, from the code region: every
subscriber to its image and variant that does not hold it writes it (R213, R214). -/
def execSequencerLineBroadcast (cluster : Nat) (s : State) : Host.Outcome State Fault Refusal :=
  completes s (
    let k := clusterOf s cluster
    match (if k.power = .retention || decide (s.time < k.wakeAt) then [] else k.requests) with
    | [] => s
    | l :: _ =>
      let bytes := if k.codeLines.contains l then codeOf k.code l.1 l.2.2 else codeLine s l.1 l.2.2
      let s := modCluster s cluster (fun k =>
        { k with requests := k.requests.filter (fun x => x != l), codeLines := codeCacheAdd l k.codeLines
                 code := (putCode k.code l.1 l.2.2 bytes).filter (fun e =>
                   (codeCacheAdd l k.codeLines).any (fun x => x.1 == e.1 && x.2.2 == e.2.1)) })
      (List.range 8).foldl (fun s j =>
        modExec s (8 * cluster + j) (fun x =>
          if x.subs.any (fun t => t.1 == l.1 && t.2.2 == l.2.1) && !x.istore.contains l then
            { x with istore := storeTouch l x.istore
                     code := (putCode x.code l.1 l.2.2 bytes).filter (fun e =>
                       (storeTouch l x.istore).any (fun y => y.1 == e.1 && y.2.2 == e.2.1)) }
          else x)) s)

end Sys2Proof.Machine
end

