-- ==== Sys2Proof/Machine/PageTree.lean ====
section
/-! DEFINITION. The page tables of tenants as trees of nodes in firmware sets (R282, R285): which nodes there are, where they
stand, and what their entries read as. -/

namespace Sys2Proof.Machine

/-- Page numbers of a tenant's valid entries. -/
def pagesOf (s : State) (tenant : Nat) : List Nat :=
  (s.mem.pages.filter (fun e => e.1 / 2 ^ 32 == tenant)).map (fun e => e.1 % 2 ^ 32)

/-- The region whose firmware set serves a partition: that of its lowest-numbered granule. -/
def partRegion (p : Partition) : Nat := (p.granules.headD 0) / 2

/-- A node of a page table: its level, and its number among the nodes of the level, which is the part of the page numbers above
those that it covers. -/
structure TreeNode where
  level : Nat
  index : Nat
  deriving DecidableEq, Repr

/-- Bytes of a node: 128 KiB at level 0, 4 KiB above (R285). -/
def TreeNode.bytes (n : TreeNode) : Nat := if n.level = 0 then 131072 else 4096

/-- Key of a tenant's node. -/
def nodeKey (tenant : Nat) (n : TreeNode) : Nat := tenant * 2 ^ 24 + n.level * 2 ^ 20 + n.index

/-- The node of a key. -/
def nodeOf (k : Nat) : TreeNode := { level := k / 2 ^ 20 % 16, index := k % 2 ^ 20 }

/-- Nodes that some pages need: the root, and each node of level 1 and 0 that has a valid entry (R285). -/
def nodesFor (ps : List Nat) : List TreeNode :=
  { level := 2, index := 0 } :: (ps.map (fun p => p / 2 ^ 23)).dedup.map (fun i => { level := 1, index := i }) ++
  (ps.map (fun p => p / 2 ^ 14)).dedup.map (fun i => { level := 0, index := i })

/-- Nodes that a tenant has: none while it is not bound. -/
def nodesWanted (s : State) (tenant : Nat) : List TreeNode :=
  if (alFind s.sched.tenants tenant).isSome then nodesFor (pagesOf s tenant) else []

/-- The firmware set of a tenant's partition. -/
def treeSet (s : State) (tenant : Nat) : Option ISet :=
  ((alFind s.sched.tenants tenant).bind (fun t => alFind s.sched.parts t.part)).bind (fun p =>
    s.mem.sets.find? (fun x => x.owner == .firmware (partRegion p)))

/-- Size of a mailbox state area (R430). -/
def areaBytes : Nat := 67239936

/-- Regions whose firmware sets hold the mailbox state areas. -/
def areaRegions (v : Variant) : List Nat := [0, 4 * Config.lastDie v]

/-- Bytes at the base of a firmware set that are the save areas of the region's 48 cores, and at its top that are a mailbox
state area (R282, R392, R430). -/
def savesBytes : Nat := 48 * 655360
def topBytes (v : Variant) (x : ISet) : Nat :=
  match x.owner with
  | .firmware r => if (areaRegions v).contains r then areaBytes else 0
  | _ => 0

/-- Place number k in a set for a node: level-0 nodes upwards from above the save areas, the others downwards from below the
mailbox state area (log entry 152). -/
def placeNo (v : Variant) (x : ISet) (n : TreeNode) (k : Nat) : Nat :=
  if n.level = 0 then x.base + savesBytes + k * n.bytes else x.base + x.size - topBytes v x - (k + 1) * n.bytes

/-- Bytes of a pool's table area (R412). -/
def poolBytes (p : Pool) : Nat := 32768 + 4 * p.maxSeq * p.maxPages

/-- Whether `n` bytes at an address meet the table area of a pool. -/
def areaHit (s : State) (a n : Nat) : Bool := s.pools.any (fun e => decide (a < e.2.area + poolBytes e.2) && decide (e.2.area < a + n))

/-- A node gets the lowest free place of its kind, clear of the pools' table areas. -/
def placeNode (s : State) (x : ISet) (tenant : Nat) (m : AL Nat) (n : TreeNode) : AL Nat :=
  let used := m.map (·.2)
  let v := s.variant
  let spare := (s.pools.map (fun e => poolBytes e.2 / n.bytes + 2)).foldl (· + ·) 0
  let k := (List.range (used.length + spare + 1)).find? (fun k => !used.contains (placeNo v x n k) && !areaHit s (placeNo v x n k) n.bytes)
  alPut m (nodeKey tenant n) (placeNo v x n (k.getD 0))

/-- A tenant's nodes after its pages have changed (R285): a node whose last valid entry went is freed, and one that an entry
needs is created. -/
def syncNodes (s : State) (tenant : Nat) : State :=
  let want := nodesWanted s tenant
  let kept := s.mem.nodes.filter (fun e => e.1 / 2 ^ 24 != tenant || want.contains (nodeOf e.1))
  match treeSet s tenant with
  | none => { s with mem.nodes := kept }
  | some x =>
    let new := want.filter (fun n => (alFind kept (nodeKey tenant n)).isNone)
    { s with mem.nodes := new.foldl (placeNode s x tenant) kept }

/-- Where a pool's table area of `n` bytes goes in the firmware set of its partition (R412; log entry 152): the lowest multiple of
4,096 above the save areas that meets no page-tree node and no other area. -/
def areaPlace (s : State) (tenant n : Nat) : Nat :=
  match treeSet s tenant with
  | none => 0
  | some x =>
    let lo := x.base + savesBytes
    let ends := lo :: (s.mem.nodes.map (fun e => e.2 + (nodeOf e.1).bytes) ++ s.pools.map (fun e => e.2.area + poolBytes e.2))
    let free (a : Nat) : Bool := decide (lo ≤ a) && !areaHit s a n &&
      s.mem.nodes.all (fun e => decide (a + n ≤ e.2) || decide (e.2 + (nodeOf e.1).bytes ≤ a))
    let up (a : Nat) : Nat := ceilDiv a 4096 * 4096
    ((ends.map up).filter free).foldl min (x.base + x.size)

/-- The bits of a page entry (Table 10.15). -/
def pageBits (e : PageEnt) : Nat :=
  2 ^ 63 + (match e.kind with | .local => 0 | .remote => 1 | .host => 2) * 2 ^ 61 + b2n e.r * 2 ^ 60 + b2n e.w * 2 ^ 59 +
  b2n e.a * 2 ^ 58 + b2n e.pending * 2 ^ 57 + (if e.kind = .remote then e.package % 256 * 2 ^ 48 else 0) + e.frame % 2 ^ 48

/-- The page entry of some bits; KIND 3 and V 0 give none. -/
def pageEntOf (v : Nat) : Option PageEnt :=
  let kind : Option PageKind := match v / 2 ^ 61 % 4 with | 0 => some .local | 1 => some .remote | 2 => some .host | _ => none
  if v / 2 ^ 63 % 2 = 0 then none
  else kind.map (fun k => { kind := k, r := bit v 60, w := bit v 59, a := bit v 58, pending := bit v 57,
                            package := v / 2 ^ 48 % 256, frame := v % 2 ^ 48 })

/-- Entry `k` of a node (R285): a page entry at level 0; above, V and the address of the next node ÷ 4,096. -/
def nodeEntry (s : State) (tenant : Nat) (n : TreeNode) (k : Nat) : Nat :=
  if n.level = 0 then ((alFind s.mem.pages (tenant * 2 ^ 32 + n.index * 2 ^ 14 + k)).map pageBits).getD 0
  else
    match alFind s.mem.nodes (nodeKey tenant { level := n.level - 1, index := n.index * 512 + k }) with
    | some a => 2 ^ 63 + a / 4096
    | none => 0

/-- The node that stands at a physical address: tenant, node, entry number. -/
def nodeAt (s : State) (pa : Nat) : Option (Nat × TreeNode × Nat) :=
  (s.mem.nodes.find? (fun e => decide (e.2 ≤ pa) && decide (pa < e.2 + (nodeOf e.1).bytes))).map (fun e =>
    (e.1 / 2 ^ 24, nodeOf e.1, (pa - e.2) / 8))

/-- Write entry `k` of a node: a page entry changes; the pointers of the upper levels are the firmware's alone (log entry
152). -/
def putNodeEntry (s : State) (tenant : Nat) (n : TreeNode) (k v : Nat) : State :=
  if n.level != 0 then s
  else
    let key := tenant * 2 ^ 32 + n.index * 2 ^ 14 + k
    match pageEntOf v with
    | some e => { s with mem.pages := alPut s.mem.pages key e }
    | none => if v / 2 ^ 63 % 2 = 0 then { s with mem.pages := alDel s.mem.pages key } else s

end Sys2Proof.Machine
end

