-- ==== Sys2Proof/Machine/QueueOps.lean ====
section
/-! DEFINITION. Named operations of the front end (spec chapter 12, R337): events, mirror records, flags, completion
records and the overflow log, slots, the shot clock. -/

namespace Sys2Proof.Machine

/-! ### Accessors -/

/-- Change a queue. -/
def modQueue (s : State) (q : Nat) (g : Queue → Queue) : State :=
  match alFind s.fe.queues q with
  | some x => { s with fe.queues := alPut s.fe.queues q (g x) }
  | none => s

/-- Change a job. -/
def modJob (s : State) (j : Nat) (g : Job → Job) : State :=
  match alFind s.fe.jobs j with
  | some x => { s with fe.jobs := alPut s.fe.jobs j (g x) }
  | none => s

/-- The partition of a tenant. -/
def partOf (s : State) (tenant : Nat) : Option Nat := (alFind s.sched.tenants tenant).map (·.part)

/-- An event of FE_EVENT with FE_LAST_EVENT (Tables 12.15 and 12.16): bit, Q, Q′, FLAG, FLAG2. -/
def feEvent (s : State) (fn bitN q q2 f f2 : Nat) : State :=
  raiseEv s fn gFE bitN (some (bitN * 2 ^ 60 + q % 4096 * 2 ^ 48 + q2 % 4096 * 2 ^ 36 + f % 2 ^ 14 * 2 ^ 22 + f2 % 2 ^ 14 * 2 ^ 8))

/-- Offsets of GS_ counters (Table 12.17). -/
def gsJobs : Nat := 0x20100
def gsNodes : Nat := 0x20108
def gsNodeFail : Nat := 0x20110
def gsTimeout : Nat := 0x20118
def gsLogged : Nat := 0x20120
def gsLost : Nat := 0x20128
def gsFlagWaits : Nat := 0x20130

/-! ### Mirror records (R337) -/

/-- Bytes of a mirror record on the link. The spec names what a record holds and no layout (log entry 34): byte 0 the
kind, then its fields little-endian. -/
def mirrorBytes (seq : Nat) : Mirror → List Byte
  | .ringEntry f q p o e => [1] ++ leBytes 8 seq ++ leBytes 2 f ++ leBytes 2 q ++ leBytes 4 p ++ leBytes 8 o ++ e
  | .nodeDone q o i st n p r xs =>
    [2] ++ leBytes 8 seq ++ leBytes 2 q ++ leBytes 8 o ++ leBytes 2 i ++ leBytes 1 st ++ leBytes 4 n ++ leBytes 8 p ++
    leBytes 1 (b2n r) ++ leBytes 1 xs.length ++ xs.flatMap (leBytes 8)
  | .flagSet f v => [3] ++ leBytes 8 seq ++ leBytes 2 f ++ leBytes 8 v
  | .mbSeq f l d => [4] ++ leBytes 8 seq ++ leBytes 2 f ++ leBytes 4 l ++ leBytes 4 d
  | .config f m => [5] ++ leBytes 8 seq ++ leBytes 2 f ++ m

/-- An acknowledgement of a record, and the other messages of the pair: FAILED, the end of a snapshot, a detach. -/
def ackBytes (seq : Nat) : List Byte := [0] ++ leBytes 8 seq
def failedBytes : List Byte := [6]
def detachBytes : List Byte := [7]
def snapEndBytes (seq : Nat) : List Byte := [8] ++ leBytes 8 seq
def degradedBytes : List Byte := [9]

/-- The record that bytes spell, with its number. -/
def mirrorOf (b : List Byte) : Option (Nat × Mirror) :=
  let seq := fieldAt b 1 8
  match fieldAt b 0 1 with
  | 1 => some (seq, .ringEntry (fieldAt b 9 2) (fieldAt b 11 2) (fieldAt b 13 4) (fieldAt b 17 8) (b.drop 25))
  | 2 =>
    let xs := (List.range (fieldAt b 35 1)).map (fun k => fieldAt b (36 + 8 * k) 8)
    some (seq, .nodeDone (fieldAt b 9 2) (fieldAt b 11 8) (fieldAt b 19 2) (fieldAt b 21 1) (fieldAt b 22 4) (fieldAt b 26 8)
      (fieldAt b 34 1 != 0) xs)
  | 3 => some (seq, .flagSet (fieldAt b 9 2) (fieldAt b 11 8))
  | 4 => some (seq, .mbSeq (fieldAt b 9 2) (fieldAt b 11 4) (fieldAt b 15 4))
  | 5 => some (seq, .config (fieldAt b 9 2) (b.drop 11))
  | _ => none

/-- The twin port on which a record travels (R337): by the parity of its number while both are UP, otherwise the one
that is UP. -/
def twinPort (s : State) (seq : Nat) : Nat :=
  let ps := Config.twinPorts s.variant
  let up (p : Nat) : Bool := (portOf s p).st == .up
  let mine := ps.getD (seq % 2) 4
  let other := ps.getD (1 - seq % 2) 4
  if up mine || !up other then mine else other

/-- Pieces of a record that exceeds the 48 bytes of a MIRROR message (Table 11.6): each begins with 10, the last with 11 (DESIGN
CHOICE, log entry 34). -/
def mirrorPieces : (fuel : Nat) → List Byte → List (List Byte)
  | 0, _ => []
  | fuel + 1, b => if b.length ≤ 47 then [11 :: b] else (10 :: b.take 47) :: mirrorPieces fuel (b.drop 47)

/-- Send bytes over the twin ports; type 0xD in channel MIRROR, or 0xC in channel MGMT. -/
def sendTwin (s : State) (seq : Nat) (mgmt : Bool) (b : List Byte) : State :=
  let m : LinkMsg := { type := if mgmt then 0xC else 0xD, vc := if mgmt then 2 else 3, src := s.selfId.getD 0, dst := s.twin.peer }
  let p := twinPort s seq
  (if mgmt || b.length ≤ 48 then [b] else mirrorPieces b.length b).foldl (fun s b => sendOn s p { m with body := b }) s

/-- The primary mirrors records while it is ATTACHING or SYNCED (Table 17.6). -/
def mirrors (s : State) : Bool := s.twin.role = 0 && (s.twin.st == .attaching || s.twin.st == .synced)

/-- The primary holds back the effects of records while it is SYNCED. -/
def holdsBack (s : State) : Bool := s.twin.role = 0 && s.twin.st == .synced

/-- Send a mirror record on the twin port that carries it now (R337). -/
def sendRecord (s : State) (x : MirrorRec) : State :=
  let p := twinPort s x.seq
  sendTwin { s with twin.sent := s.twin.sent.map (fun y => if y.seq = x.seq then { y with port := p } else y) } x.seq false
    (mirrorBytes x.seq x.r)

/-- Write a mirror record to the partner. -/
def mirror (s : State) (r : Mirror) : State :=
  if !mirrors s then s
  else
    let n := s.twin.nextSeq
    let x : MirrorRec := { seq := n, time := s.time, r := r }
    sendRecord { s with twin.nextSeq := n + 1, twin.sent := s.twin.sent ++ [x] } x

/-- The front end serves no doorbell, fetch or job: the package is FAILED (R479), or it is a twin's secondary, which runs no
work of its own before a takeover (R487, R493). -/
def frontStopped (s : State) : Bool :=
  s.ras.failed || (s.twin.role == 1 && (s.twin.st == .attaching || s.twin.st == .synced || s.twin.st == .degraded))

/-- Whether an unacknowledged record holds something back. -/
def heldBy (s : State) (p : Mirror → Bool) : Bool := holdsBack s && s.twin.sent.any (fun x => p x.r)

/-! ### Flags (R360 to R362) -/

/-- Value of a flag. -/
def flagOf (s : State) (f : Nat) : Nat := alGet 0 s.fe.flags f

/-- Fields of a KERNEL body (Table 12.6). -/
def kImage (d : List Byte) : Nat := fieldAt d 56 8
def kKernel (d : List Byte) : Nat := fieldAt d 64 4
def kBlocks (d : List Byte) : Nat := fieldAt d 68 4
def kThreads (d : List Byte) : Nat := fieldAt d 72 2
def kSplit (d : List Byte) : Nat := fieldAt d 74 1 % 16
def kPolicy (d : List Byte) : Nat := bits (fieldAt d 74 1) 6 4

/-- Fields of a node descriptor (Table 12.5). -/
def ndKind (d : List Byte) : Nat := fieldAt d 0 1 % 16
def ndFlags (d : List Byte) : Nat := fieldAt d 1 1
def ndNeeds (d : List Byte) : Nat := fieldAt d 2 1
def ndTag (d : List Byte) : Nat := fieldAt d 24 8
def ndWaitFlag (d : List Byte) : Nat := fieldAt d 32 2
def ndSetFlag (d : List Byte) : Nat := fieldAt d 34 2

/-- The condition of a node's wait (R361). -/
def waitMet (d : List Byte) (v : Nat) : Bool :=
  if bit (ndFlags d) 2 then decide (v = fieldAt d 40 8) else decide (fieldAt d 40 8 ≤ v)

/-- Test every waiter on a flag with a value that the flag has taken (R361, R362). -/
def wakeWaiters (s : State) (flag v : Nat) : State :=
  let (n, s) := takeSeq s
  let woken (x : Node) : Bool := x.phase == .waiting && ndWaitFlag x.desc == flag && waitMet x.desc v
  let due (k : Nat) (j : Job) : Bool := !j.subst && s.fe.nodes.any (fun e => e.2.job == k && e.2.idx == j.commit && woken e.2)
  { s with
    fe.jobs := alMap s.fe.jobs (fun k j => if due k j then { j with commitDue := true } else j)
    fe.nodes := alMap s.fe.nodes (fun _ x => if woken x then { x with phase := .ready, since := n } else x) }

/-- A flag takes a new value (R362); in SYNCED the waiters wake once the record is acknowledged (Table 11.10). -/
def setFlag (s : State) (flag v : Nat) : State :=
  let s := { s with fe.flags := if v = 0 then alDel s.fe.flags flag else alPut s.fe.flags flag v }
  let s := mirror s (.flagSet flag v)
  if holdsBack s then s else wakeWaiters s flag v

/-- Whether a tenant holds a flag's group (R360). -/
def flagGranted (s : State) (tenant flag : Nat) : Bool := alFind s.fe.grants (flag / 64) == some tenant

/-! ### Jobs -/

/-- The job has been stopped or has failed (R366). -/
def Job.failing (j : Job) : Bool := j.fail.isSome

/-- The job becomes failing (R366); the first failing node is the one that the job record names (R367). -/
def failJob (j : Job) (f : FailInfo) : Job :=
  match j.fail with
  | none => { j with fail := some f }
  | some g => if g.node = 0xFFFFFFFF && f.node != 0xFFFFFFFF then { j with fail := some f } else j

/-- Resident nodes of a job. -/
def nodesOf (s : State) (job : Nat) : List (Nat × Node) := s.fe.nodes.filter (fun e => e.2.job == job)

/-- A node has been dispatched and has not completed, or has ended without running and must still complete. -/
def Node.active (n : Node) : Bool := n.phase == .running || n.phase == .finished

/-! ### The shot clock (R376) -/

/-- Cores on which a block of the job is resident, saved contexts included. -/
def blockCores (s : State) (job : Nat) : List Nat :=
  (s.cores.filter (fun e => e.2.exec.blocks.any (fun b => b.2.task.job == job) ||
    ((alFind s.saved e.1).map (fun x => x.blocks.any (fun b => b.2.task.job == job))).getD false)).map (·.1)

/-- A core's context of its owner is saved or being saved. -/
def coreSaved (job : Nat) (c : Core) : Bool :=
  c.owner == some job && (match c.hold with | .saving _ => true | .lent _ => true | _ => false)

/-- Every running task of the job is saved by pre-emption (R376). -/
def allSaved (s : State) (job : Nat) : Bool :=
  let cs := blockCores s job
  let others := (nodesOf s job).any (fun e => e.2.phase == .running && (ndKind e.2.desc != 1 || decide (e.2.liveBlocks = 0)))
  !cs.isEmpty && cs.all (fun c => coreSaved job (coreOf s c)) && !others

/-- Whether a queue's shot clock runs (R376, R508). -/
def shotRuns (s : State) (q : Queue) : Bool :=
  match q.job.bind (fun j => (alFind s.fe.jobs j).map (fun x => (j, x))) with
  | none => false
  | some (k, j) =>
    decide (0 < q.shotT) && j.phase == .placed && q.st != .halted && !j.expired && !allSaved s k &&
      !(j.cores.any (fun c => (coreOf s c).halted)) &&
      (decide (j.doneNodes.length < j.nodes) || j.subst)

/-- Let a queue's shot clock run or stop as the state demands. -/
def syncShot (s : State) (qi : Nat) : State :=
  match alFind s.fe.queues qi with
  | none => s
  | some q =>
    match shotRuns s q, q.shotFrom with
    | true, none => modQueue s qi (fun q => { q with shotFrom := some s.time })
    | false, some f => modQueue s qi (fun q => { q with shotFrom := none, shotAcc := q.shotAcc + (s.time - f) })
    | _, _ => s

/-- Let every shot clock run or stop as the state demands. -/
def syncShots (s : State) : State := s.fe.queues.foldl (fun s e => syncShot s e.1) s

/-- Restart a queue's shot clock at its full period (R376). -/
def restartShot (s : State) (qi : Nat) : State :=
  syncShot (modQueue s qi (fun q => { q with shotAcc := 0, shotFrom := none, shotT := q.shotUs })) qi

/-- Ticks that a queue's shot clock has run since its restart. -/
def shotElapsed (s : State) (q : Queue) : Nat := q.shotAcc + (match q.shotFrom with | some f => s.time - f | none => 0)

/-! ### Completion records (R368 to R375) -/

/-- What a record says (Table 12.8). -/
structure Rec where
  jobTag : Nat
  taskTag : Nat := 0
  node : Nat := 0xFFFF
  queue : Nat
  status : Nat
  isJob : Bool
  fail : FailInfo := {}
  esc : Nat := 0
  observed : Nat := 0
  aux1 : Nat := 0
  aux0 : Nat := 0
  flagInfo : Nat := 0
  lost : Nat := 0
  deriving DecidableEq, Repr

/-- Status codes (Table 12.9). -/
def statusCode : Status → Nat
  | .ok => 0
  | .timeout => 1
  | .fault => 2
  | .substituted => 3
  | .joinDeferred => 4
  | .evicted => 5
  | .unitAbsent => 6
  | .completionLostRisk => 7

/-- The first 62 bytes of a record; SEQ is added when it is written. -/
def recBytes (r : Rec) : List Byte :=
  leBytes 8 r.jobTag ++ leBytes 8 r.taskTag ++ leBytes 2 r.node ++ leBytes 2 (r.queue % 4096) ++ leBytes 1 r.status ++
  leBytes 1 (b2n r.isJob) ++ leBytes 2 (faultCode r.fail.fault) ++ leBytes 2 r.fail.loc ++ leBytes 2 0 ++
  leBytes 4 r.fail.pc ++ leBytes 4 r.fail.lanes ++ leBytes 4 (min r.esc (2 ^ 32 - 1)) ++
  leBytes 4 (min r.observed (2 ^ 32 - 1)) ++ leBytes 4 (min r.aux1 (2 ^ 32 - 1)) ++ leBytes 8 r.aux0 ++
  leBytes 4 r.flagInfo ++ leBytes 2 (min r.lost 65535)

/-- Size of a completion ring. -/
def cringSize (q : Queue) : Nat := 2 ^ q.ringLog2

/-- Where a queue's records go: its PASID for host memory (R529), or none for a final translation fault. -/
def recordPasid (s : State) (q : Queue) : Option (Option Nat) := if q.pasid then tenantPasid s q.fn else some none

/-- Read a queue's consumer count (R368); a read that fails leaves the copy as it is. -/
def readConsumer (s : State) (qi : Nat) (q : Queue) : Acc Unit × State :=
  let s := modQueue s qi (fun q => { q with polled := s.time })
  let got (s : State) (b : List Byte) : State := modQueue s qi (fun q => { q with cons := leNat b })
  match translate s q.fn q.consAddr .r with
  | none => (.ok (), s)
  | some (.loc pa) => let (b, _, s) := devRead s pa 8 ((partOf s q.fn).getD 0) q.fn .plain; (.ok (), got s b)
  | some (.host a) =>
    match hostXlat s q.fn none a false with
    | (.wait, s) => (.wait, s)
    | (.fault, s) => (.ok (), s)
    | (.ok ha, s) =>
      match hostBytes s ha 8 with
      | (.ok b, s) => (.ok (), got s b)
      | (_, s) => (.ok (), s)
  | some (.remote pk a) =>
    match remoteBytes s 0 q.fn pk a 8 with
    | (.ok b, s) => (.ok (), got s b)
    | (.wait, s) => (.wait, s)
    | (_, s) => (.ok (), s)

/-- Whether the queue's copy of the consumer count leaves room in its ring. -/
def ringRoom (q : Queue) : Bool := decide ((q.prod + 2 ^ 64 - q.cons) % 2 ^ 64 < cringSize q)

/-- Write 62 bytes at the producer index, in two writes with SEQ and PHASE in the second (R368). -/
def writeRecord (s : State) (qi : Nat) (q : Queue) (b : List Byte) : Acc Unit × State :=
  let va := q.ringBase + 64 * (q.prod % cringSize q)
  let b := b.take 62 ++ leBytes 2 (q.prod % 2 ^ 15 + 2 ^ 15 * (q.prod / cringSize q % 2))
  let done (s : State) : State := modQueue s qi (fun q => { q with prod := (q.prod + 1) % 2 ^ 64 })
  match translate s q.fn va .w with
  | none => (.fault .memAccess, s)
  | some (.loc pa) =>
    let w (s : State) (pa : Nat) (b : List Byte) : State := devWrite s pa ((partOf s q.fn).getD 0) q.fn b (q.cls == .rt)
    if !writeMay s pa 64 ((partOf s q.fn).getD 0) (q.cls == .rt) then (.wait, s)
    else (.ok (), done (w (w s pa (b.take 56)) (pa + 56) (b.drop 56)))
  | some (.host a) =>
    match recordPasid s q with
    | none => (.fault .memAccess, s)
    | some pz =>
      match hostXlat s q.fn pz a true with
      | (.wait, s) => (.wait, s)
      | (.fault, s) => (.fault .memAccess, s)
      | (.ok ha, s) => (.ok (), done (hostWrite (hostWrite s ha (b.take 56) false) (ha + 56) (b.drop 56) false))
  | some (.remote pk a) =>
    if !reachable s pk then (.fault .remoteUnreachable, s)
    else if !tagsFree s 0 2 then (.wait, s)
    else
      let w (s : State) (o : Nat) (b : List Byte) : State :=
        engineWrite s {} pk (a / 128 * 128) q.fn (maskOf (a % 128 + o) b.length) (linePlace (a % 128 + o) b)
      (.ok (), done (w (w s 0 (b.take 56)) 56 (b.drop 56)))

/-- Place a record in the overflow log (R373, R375); the byte after it says whether its write signals the vector. -/
def logRecord (s : State) (qi : Nat) (b : List Byte) (isJob signal : Bool) : State :=
  match alFind s.fe.queues qi with
  | none => s
  | some q =>
    if isJob || q.log.length < 63 then
      let s := modQueue s qi (fun q => { q with log := q.log ++ [b ++ [if signal then 1 else 0]] })
      let s := bump s q.fn gsLogged 1
      if !isJob && q.log.length = 62 then
        let s := modQueue s qi (fun q => { q with st := .halted })
        let s := match q.job with
          | some j => modJob s j (fun j => failJob { j with lostRisk := true } { status := .completionLostRisk })
          | none => s
        syncShot (feEvent s q.fn 3 qi 0 0 0) qi
      else s
    else
      let s := match q.job with
        | some j => modJob s j (fun j => { j with lost := j.lost + 1 })
        | none => s
      bump s q.fn gsLost 1

/-- The queue enters LOGGING with a record (R373). -/
def enterLogging (s : State) (qi fn : Nat) (why : QReason) (bitN : Nat) (b : List Byte) (isJob signal : Bool) : State :=
  let s := modQueue s qi (fun q => { q with st := if q.st = .halted then .halted else .logging, reason := why })
  logRecord (feEvent s fn bitN qi 0 0 0) qi b isJob signal

/-- Write or log a record (R365, R373). A job record's write signals the queue's vector when `signal` says so (R536).
`wait`: a translation is outstanding. -/
def putRecord (s : State) (qi : Nat) (b : List Byte) (isJob signal : Bool) : Acc Unit × State :=
  match alFind s.fe.queues qi with
  | none => (.ok (), s)
  | some q =>
    if q.st = .logging || !q.log.isEmpty then (.ok (), logRecord s qi b isJob signal)
    else
      match (if ringRoom q then (Acc.ok (), s) else readConsumer s qi q) with
      | (.wait, s) => (.wait, s)
      | (_, s) =>
        match alFind s.fe.queues qi with
        | none => (.ok (), s)
        | some q =>
          if !ringRoom q then (.ok (), enterLogging s qi q.fn .ringFull 2 b isJob signal)
          else
            match writeRecord s qi q b with
            | (.wait, s) => (.wait, s)
            | (.fault _, s) => (.ok (), enterLogging s qi q.fn .writeFault 1 b isJob signal)
            | (.ok _, s) =>
              (.ok (), if signal && decide (2 ≤ q.vector) && decide (q.vector < vectorsOf q.fn) then signalVec s q.fn q.vector else s)

/-! ### Queue states and slots (R350, R351) -/

/-- A queue without work goes IDLE and releases its slot (Table 12.3). -/
def settleQueue (s : State) (qi : Nat) : State :=
  modQueue s qi (fun q =>
    if q.st = .active && q.entries.isEmpty && q.job.isNone && q.log.isEmpty then { q with st := .idle, slot := none } else q)

/-- Rank of a class (R350). -/
def classRank : QClass → Nat
  | .rt => 0
  | .hi => 1
  | .normal => 2
  | .bulk => 3

/-- Slots held by queues. -/
def slotsUsed (s : State) : List Nat := s.fe.queues.filterMap (fun e => e.2.slot)

/-- The slot that a queue of a class would take (R350). -/
def slotFor (s : State) (cls : QClass) : Option Nat :=
  let used := slotsUsed s
  let free := (List.range 128).filter (fun k => !used.contains k)
  let un := free.find? (fun k => decide (s.sched.r ≤ k))
  if cls = .rt then
    match free.find? (fun k => decide (k < s.sched.r)) with
    | some k => some k
    | none => un
  else un

/-- Order of acceptance of a queue's oldest entry. -/
def oldestOrder (q : Queue) : Nat := (q.entries.head?.map (·.order)).getD 0

/-- The queue that is served next among those waiting for a slot (R350). -/
def nextForSlot (s : State) : Option Nat :=
  (s.fe.queues.filter (fun e => e.2.st == .waitSlot)).foldl (fun best e =>
    match best with
    | none => some e.1
    | some b =>
      match alFind s.fe.queues b with
      | none => some e.1
      | some x =>
        if classRank e.2.cls < classRank x.cls || (classRank e.2.cls = classRank x.cls && oldestOrder e.2 < oldestOrder x)
        then some e.1 else some b) none

end Sys2Proof.Machine
end

