-- ==== Sys2Proof/Machine/DebugOps.lean ====
section
/-! DEFINITION. Debug operations that other families use (R502 to R513): captures, task starts, the whistle and its
release. -/

namespace Sys2Proof.Machine

/-- BAR0 offset of a counter block (Table 18.14). -/
def blkOffset (k : Nat) : Nat :=
  512 * (k % 65536) + (match k / 65536 with | 0 => 0xA0000 | 1 => 0x160000 | 2 => 0x164000 | _ => 0x16C000)

/-- Counters that a block has (Table 18.1). -/
def blkCounters (k : Nat) : Nat := if k / 65536 = 1 then 16 else 8

/-- Trace source of a block: the location code of its core or region unit. -/
def blkSource (k : Nat) : Nat := if k / 65536 = 0 then locOf (k % 65536) else locRegion (k % 65536)

/-- Functions that may read a counter block (R513, R514): the physical function, and a tenant's function for the core
blocks of its own partition within the scope. -/
def blkReaders (s : State) (k : Nat) : List Nat :=
  pf :: (if k / 65536 = 0 then (coreTenants s (k % 65536)).filter (fun t => inScope s t && t != 0) else [])

/-- A capture (R502): every COUNTn is copied, with its stamp and cause, and with the attributed task's tag in a core
block; COUNTERS records follow when SNAP_TRACE is 1. -/
def capture (s : State) (k cause : Nat) (tag : Option Nat) : State :=
  let b := ctrOf s k
  let b := { b with snap := b.count, snapStamp := stampNow s, snapCause := cause, snapTag := tag.getD 0 }
  let s := modCtr s k (fun _ => b)
  if b.snapTrace && decide (k / 65536 < 2) then
    (List.range (blkCounters k)).foldl (fun s n =>
      traceEmit s 6 n (blkSource k) (if k / 65536 = 0 then (coreTenants s (k % 65536)).head? else none) b.snapTag (alGet 0 b.count n)) s
  else s

/-- Counters with AUTO_RESET return to 0 (R503). -/
def autoReset (b : CtrBlock) : CtrBlock :=
  { b with count := (List.range 8).foldl (fun m n => if bit (alGet 0 b.evsel n) 28 then alPut m n 0 else m) b.count }

/-- Whether a counter of a block resets at task starts. -/
def hasAuto (b : CtrBlock) : Bool := (List.range 8).any (fun n => bit (alGet 0 b.evsel n) 28)

/-- A block of a task starts on a core (R502 to R504): the attributed task changes; outside a freeze the counters are
captured with the ending task's tag, and those with AUTO_RESET return to 0. -/
def taskStart (s : State) (core tag : Nat) : State :=
  let k := blkKey 0 core
  let b := ctrOf s k
  if b.tag = some tag then s
  else if b.frozen then modCtr s k (fun b => { b with tag := some tag })
  else if hasAuto b then modCtr (capture s k 2 b.tag) k (fun b => autoReset { b with tag := some tag })
  else modCtr s k (fun b => { b with tag := some tag })

/-! ### The whistle -/

/-- DBG_WHISTLE_STATUS (Table 18.20). -/
def whistleStatus (s : State) : Nat :=
  b2n s.dbg.raised * 2 ^ 31 + b2n (s.cores.any (fun c => c.2.halted)) * 2 ^ 30 + s.dbg.first * 2 ^ 27 + s.dbg.sources * 2 ^ 22

/-- Functions that may read DBG_WHISTLE_STATUS (R513, R514). -/
def whistleReaders (s : State) : List Nat :=
  pf :: (match s.dbg.scope with
    | some t => if 0 < s.dbg.level && t != 0 then [t] else []
    | none => if 0 < s.dbg.level then (s.sched.tenants.map (·.1)).filter (· != 0) else [])

/-- The cores within the debug scope (R508). -/
def scopeCore (s : State) (c : Nat) : Bool :=
  match s.dbg.scope with
  | none => true
  | some t => (coreTenants s c).contains t

/-- Change every core. -/
def mapCores (s : State) (f : Nat → Core → Core) : State :=
  { s with cores := s.cores.map (fun (e : Nat × Core) => (e.1, f e.1 e.2)) }

/-- Halt the cores within the scope, and stop the shot clocks of the jobs that hold them (R508). -/
def haltCores (s : State) : State :=
  syncShots (mapCores s (fun i c => if c.present && scopeCore s i then { c with halted := true } else c))

/-- Freeze the counter blocks within the whistle's reach (R506, R510). -/
def freezeBlocks (s : State) : State :=
  { s with dbg.freezeAt := stampNow s
           dbg.blocks := s.dbg.blocks.map (fun e =>
             if blockReached s e.1 then (e.1, { e.2 with frozen := true, freezeStamp := stampNow s, tagFrozen := e.2.tag }) else e) }

/-- Every source emits its WHISTLE record (R516, Table 18.12). -/
def whistleRecords (s : State) : State :=
  if !bit s.dbg.traceCtl 31 then s
  else
    let p0 := s.dbg.sources + s.dbg.first * 32
    let srcs := frontSrc :: (s.cores.map (fun e => locOf e.1)) ++ s.regions.map (fun e => locRegion e.1)
    srcs.foldl (fun s x => traceEmit s 9 0 x none p0 (stampNow s)) s

/-- A source raises the whistle (R505, R506, R508, R510): 0 the contact, 1 a break, 2 BRK, 3 an overflow, 4 the mailbox. -/
def raiseWhistle (s : State) (code : Nat) : State :=
  if s.dbg.raised then { s with dbg.sources := setBitN s.dbg.sources code }
  else
    let reach := if s.sched.strict then some (some (s.dbg.scope.getD 0x3FF)) else some none
    let s := { s with dbg.first := code, dbg.sources := setBitN 0 code, dbg.stamp := stampNow s, frozen := reach }
    let s := freezeBlocks (whistleRecords s)
    let s := { s with dbg.raised := true }
    let s := if s.dbg.action && s.dbg.level = 2 then haltCores s else s
    let s := if s.dbg.drive then emit { s with dbg.driving := true } (.pin 0 false) else s
    if s.dbg.irqEn then (whistleReaders s).foldl (fun s f => occur s f 9 0 (whistleStatus s)) s else s

/-- A break or BRK record becomes visible. -/
def brkRecord (s : State) (core slot npc lys : Nat) : State :=
  { s with dbg.brkHit := locOf core * 2 ^ 48 + slot * 2 ^ 42 + 2 ^ 41 + npc, dbg.brkLys := lys }

/-- Blocks count again (R504, R509): a core whose attributed task changed during the freeze makes its capture. -/
def resumeBlocks (s : State) : State :=
  let ks := (s.dbg.blocks.filter (fun e => e.2.frozen)).map (·.1)
  let s := { s with dbg.resumeAt := stampNow s }
  ks.foldl (fun s k =>
    let s := modCtr s k (fun b => { b with frozen := false, resumeStamp := stampNow s })
    let b := ctrOf s k
    if k / 65536 = 0 && b.tag != b.tagFrozen && hasAuto b then modCtr (capture s k 2 b.tagFrozen) k autoReset else s) s

/-- A group that BRK stopped. -/
def brkStopped (g : Group) : Bool := match g.stop with | .brk _ => true | _ => false

/-- End the freeze and any halt (R509): groups stopped by BRK run on, shot clocks run again, and a held BRK raises the
whistle anew (R512). -/
def releaseWhistle (s : State) : State :=
  if !s.dbg.raised then s
  else
    let s := resumeBlocks { s with frozen := none }
    let s := { s with dbg.raised := false, dbg.first := 0, dbg.sources := 0 }
    let s := syncShots (mapCores s (fun _ c => { c with halted := false }))
    let s := mapCores s (fun i c =>
      let gs := alMap c.exec.groups (fun k g =>
        if brkStopped g && !(s.dbg.brkHeld.any (fun h => h.1 == i && h.2.1 == k)) then { g with stop := .running } else g)
      { c with exec.groups := gs })
    let s := { s with dbg.brkHit := 0, dbg.brkLys := 0, dbg.heldNode := none }
    match s.dbg.brkHeld with
    | [] => s
    | (c, slot, npc) :: r =>
      let lys := match (alFind (execOf s c).groups slot).bind currentPath with
        | some (p : Path) => p.pc
        | none => 0
      raiseWhistle (brkRecord { s with dbg.brkHeld := r } c slot npc lys) 2

/-- The debug level returns to 0 (R513): a halt is released, breaks are disarmed, trace stops, the access port closes. -/
def lockDebug (s : State) : State :=
  let s := if s.cores.any (fun c => c.2.halted) then releaseWhistle s else s
  { s with dbg.level := 0, dbg.scope := none, dbg.breaks := alMap s.dbg.breaks (fun _ b => { b with en := false }),
           dbg.traceCtl := s.dbg.traceCtl % 2 ^ 31, dbg.accCtl := [] }

end Sys2Proof.Machine
end

