-- ==== Sys2Proof/Machine/RunOps.lean ====
section
/-! DEFINITION. Named operations of running work (spec chapters 12, 13 and 16): readiness of nodes, core resets, stopped
nodes, the referee, ends of jobs, partition resets. -/

namespace Sys2Proof.Machine

/-! ### Core resets (R463) -/

/-- A job goes with its nodes; responses to writes still out for them are discarded. -/
def dropJob (s : State) (k : Nat) : State :=
  let mine := (s.fe.nodes.filter (fun e => e.2.job == k)).map (·.1)
  let s := deadEngine s mine.contains
  { s with fe.nodes := s.fe.nodes.filter (fun e => e.2.job != k), fe.jobs := alDel s.fe.jobs k }

/-- Set the fail information of a node that is being stopped; an earlier failure stands (R187). -/
def stopFail (n : Node) (st : Status) (f : DevFault) : Node :=
  { n with stopping := true, fail := match n.fail with
      | some x => some x
      | none => some { status := st, fault := f, node := n.idx } }

/-- Free the epilogue jobs of a core without writing RESULT (R147, R464). -/
def freeEpis (s : State) (core : Nat) : State :=
  let k := coreCluster core
  ((clusterOf s k).epi.filter (fun e => e.2.core == core && !e.2.saved)).foldl (fun s e => epiFree s k e.1 e.2) s

/-- Abandon the pre-passes that a core started: STATE goes back to 0 (R120). The rule names a partition reset; any reset of the
core abandons them, so that no reset core's record stays in pre-pass (DESIGN CHOICE, log entry 144). -/
def dropPrePasses (s : State) (core : Nat) : State :=
  let r := coreRegion core
  let mine := (regionOf s r).prepass.filter (fun p => p.core == core)
  let s := mine.foldl (fun s p =>
    match translate s p.tenant p.record .a with
    | some (.loc pa) => devWrite s (pa + 16) p.part p.tenant [0]
    | _ => (recWrite s p.tenant p.part p.record 16 [0]).2) s
  modRegion s r (fun x => { x with prepass := x.prepass.filter (fun p => p.core != core) })

/-- Leave every turn slot that a core consumes; a slot without consumers is free. -/
def dropTurns (s : State) (core : Nat) : State :=
  modCluster s (coreCluster core) (fun k =>
    let turns := alMap k.turns (fun _ t => { t with consumers := t.consumers.filter (fun e => e.1 != core) })
    { k with turns := turns.filter (fun e => !e.2.consumers.isEmpty) })

/-- Start a core reset (R463, steps 1, 2 and 5): issue stops, what is in flight is squashed, remote entries count as
drained, remote tags go to the parking unit, which discards their responses. -/
def coreReset (s : State) (core : Nat) (node : Option Nat) : State :=
  if (coreOf s core).draining then s
  else
    let s := dropTurns (dropPrePasses (freeEpis s core) core) core
    let kept := (alFind s.saved core).isSome
    let txns := s.links.txns.map (fun t => if t.core = core && !(t.parked && kept) then { t with dead := true } else t)
    let s := { s with links.txns := txns }
    modCore s core (fun c =>
      let x := c.exec
      let x := { x with blocks := [], groups := [], loads := [], atoms := [], fences := [], mmas := [], active := none,
                        subs := [], offers := [], wb := x.wb.filter (fun e => !e.sent) }
      { c with exec := x, draining := true, resetNode := node, resetAt := s.time })

/-- Discard a job's saved contexts (R464), with their epilogue jobs; the responses of their parked tags are discarded as
they arrive. Other jobs' contexts stay. -/
def dropSaved (s : State) (job : Nat) : State :=
  let mine (x : Exec) : Bool := x.blocks.any (fun b => b.2.task.job == job)
  let gone (c : Nat) : Bool := match alFind s.saved c with | some x => mine x | none => false
  let txns := s.links.txns.map (fun t => if t.parked && gone t.core then { t with dead := true } else t)
  let s := (s.saved.map (·.1)).foldl (fun s c =>
    if gone c then
      let k := coreCluster c
      ((clusterOf s k).epi.filter (fun e => e.2.core == c && e.2.saved)).foldl (fun s e => epiFree s k e.1 e.2) s
    else s) s
  { s with saved := s.saved.filter (fun e => !mine e.2), links.txns := txns }

/-- Cores of a job that hold blocks of it now: a lent core runs another job's blocks. -/
def runCores (s : State) (job : Nat) : List Nat :=
  (s.cores.filter (fun e => e.2.exec.blocks.any (fun b => b.2.task.job == job))).map (·.1)

/-- Remove a stopped node from a die's queue when its operation has not started, or stop its issue (R377). -/
def stopEngines (s : State) (node : Nat) : State × Bool :=
  let started := s.dies.any (fun d => d.2.ranges.any (fun r => r.node == node && r.started) ||
    d.2.copies.any (fun r => r.node == node && r.started))
  let rs (l : List RangeOp) : List RangeOp := (l.filter (fun r => r.node != node || r.started)).map (fun r =>
    if r.node = node then { r with stopped := true } else r)
  let cs (l : List CopyOp) : List CopyOp := (l.filter (fun r => r.node != node || r.started)).map (fun r =>
    if r.node = node then { r with stopped := true } else r)
  let dies := alMap s.dies (fun _ d => { d with ranges := rs d.ranges, copies := cs d.copies })
  ({ s with dies := dies }, started)

/-- Stop a running node (R377, step 2): a KERNEL's cores are reset, engines stop issuing, a bench step stops as R423 gives. -/
def stopNode (s : State) (k : Nat) (st : Status) (f : DevFault) : State :=
  match alFind s.fe.nodes k with
  | none => s
  | some n =>
    if n.phase != .running then s
    else
      let s := modNode s k (fun n => stopFail n st f)
      match ndKind n.desc with
      | 1 =>
        let s := (runCores s n.job).foldl (fun s c =>
          if (execOf s c).blocks.any (fun b => b.2.task.node == k) then coreReset s c (some k) else s) s
        modNode (dropSaved s n.job) k (fun n => { n with phase := .finished, liveBlocks := 0 })
      | 4 => s
      | _ =>
        let (s, started) := stopEngines s k
        if started then s else modNode s k (fun n => { n with phase := .finished })

/-- Stop every running node of a job. -/
def stopNodes (s : State) (job : Nat) (st : Status) (f : DevFault) : State :=
  ((nodesOf s job).map (·.1)).foldl (fun s k => stopNode s k st f) s

/-- Nodes of a job that were never dispatched leave residency without a record (R366, R399). -/
def dropUndispatched (s : State) (job : Nat) : State :=
  { s with fe.nodes := s.fe.nodes.filter (fun e => e.2.job != job || e.2.active) }

/-! ### The referee (R397 to R401) -/

/-- E of a queue, in ticks (R397). -/
def tailEstimate (q : Queue) : Nat := if q.tails.isEmpty then 100 * q.tailUs else q.tails.foldl max 0

/-- D of a job, in ticks, when it has one. -/
def deadlineOf (j : Job) : Option Nat := if j.budgetUs = 0 || j.entry.resumed then none else some (j.entry.time + 100 * j.budgetUs)

/-- An event of QOS_EVENT; QOS_LAST_RT changes at RT job records only. -/
def qosEvent (s : State) (fn bitN : Nat) : State := raiseEv s fn gQOS bitN none

/-- The referee substitutes (R399): the original's running nodes are stopped and nothing further of it is dispatched. -/
def substitute (s : State) (k : Nat) (fn : Nat) : State :=
  let s := modJob s k (fun j => { j with subst := true, substStop := true })
  let s := bump (qosEvent s fn 0) fn 0x30120 1
  stopNodes (dropUndispatched s k) k .substituted .none

/-- The referee's test of a job (R398, R400). -/
def refTest (s : State) (k : Nat) : State :=
  match alFind s.fe.jobs k with
  | none => s
  | some j =>
    match alFind s.fe.queues j.queue, deadlineOf j with
    | some q, some d =>
      if q.cls != .rt || j.refOff || j.subst || j.commitDone || j.failing || j.lateEarly || j.phase == .ended || j.phase == .started then s
      else if s.time + tailEstimate q ≤ d then s
      else if j.substAddr = 0 then qosEvent (modJob s k (fun j => { j with refOff := true })) j.fn 1
      else if j.phase != .placed then modJob s k (fun j => { j with lateEarly := true })
      else substitute s k j.fn
    | _, _ => s

/-! ### Versioned tensors (R151 to R154) -/

/-- Release a capture or a hold of a READ (R153): one less use; it goes when none is left. -/
def dropCapture (s : State) (c : Nat) : State :=
  match alFind s.captures c with
  | none => s
  | some x =>
    { s with captures := if x.count ≤ 1 then alDel s.captures c else alPut s.captures c { x with count := x.count - 1 } }

/-- The four references of a KERNEL node (Table 12.7), those in use. -/
def vrefs (d : List Byte) : List Nat :=
  if ndKind d != 1 then [] else (List.range 4).filterMap (fun i =>
    let x := fieldAt d (96 + 8 * i) 8
    if bit x 21 then some x else none)

/-- MODE and TENSOR of a reference. -/
def vrefMode (x : Nat) : Nat := bits x 23 22
def vrefTensor (x : Nat) : Nat := bits x 11 0

/-- A live capture holds a version of a tensor (R153, R154). -/
def versionHeld (s : State) (t v : Nat) : Bool := s.captures.any (fun c => c.2.tensor == t && c.2.version == v)

/-- A hold of R153 or R154 on a node: the capture table is full, another UPDATE of the tensor runs, or a capture holds the
version that the update would overwrite. -/
def vtHold (s : State) (d : List Byte) : Bool :=
  let refs := vrefs d
  let new := (refs.filter (fun x => decide (vrefMode x < 2))).length
  (decide (0 < new) && decide (16384 < s.captures.length + new)) ||
  refs.any (fun x => vrefMode x == 3 && (match alFind s.vtensors (vrefTensor x) with
    | some t => t.updating || (decide (t.bases.length ≤ t.c + 1) && versionHeld s (vrefTensor x) (t.c + 1 - t.bases.length))
    | none => false))

/-- Present cores of a partition, in rising order (R34). -/
def partCores (s : State) (part : Nat) : List Nat :=
  match alFind s.sched.parts part with
  | none => []
  | some p => (s.cores.filter (fun e => p.granules.contains (coreGranule e.1) && e.2.present && !e.2.fenced)).map (·.1)

/-- The die whose engine takes a RANGE or COPY node: that of the lowest-indexed core of the partition without a resident
block, or of its lowest-indexed core when each holds one (DEDUCED; log entry 35). -/
def engineDie (s : State) (part : Nat) : Nat :=
  let cs := partCores s part
  coreDie (((cs.find? (fun c => (execOf s c).blocks.isEmpty)).orElse (fun _ => cs.head?)).getD 0)

/-- A node whose engine queue is full is held (R269, R335). -/
def engineHold (s : State) (n : Node) : Bool :=
  let d := dieOf s (engineDie s n.part)
  (ndKind n.desc == 2 && decide (16 ≤ d.ranges.length)) || (ndKind n.desc == 3 && decide (16 ≤ d.copies.length))

/-- A node is held from dispatch by another chapter's rule (R364). -/
def onHold (s : State) (n : Node) : Bool := vtHold s n.desc || engineHold s n

/-! ### Readiness of nodes (R361, R364) -/

/-- Nodes whose predecessors have all completed OK become dispatchable, or wait on their flags; the referee tests the job
when its commit node becomes dispatchable (R398). -/
def releaseNodes (s : State) (k : Nat) : State :=
  match alFind s.fe.jobs k with
  | none => s
  | some j =>
    if j.phase != .placed || j.failing || j.substStop then s
    else
      let go := (nodesOf s k).filter (fun e => e.2.phase == .parsed && e.2.preds.all (fun p => j.okNodes.contains p) && !onHold s e.2)
      let s := go.foldl (fun s e =>
        let (n, s) := takeSeq s
        let wait := bit (ndFlags e.2.desc) 1 && !waitMet e.2.desc (flagOf s (ndWaitFlag e.2.desc))
        let s := if wait then bump s j.tenant gsFlagWaits 1 else s
        modNode s e.1 (fun x => { x with phase := if wait then .waiting else .ready, since := n })) s
      if !j.subst && (nodesOf s k).any (fun e => e.2.idx == j.commit && e.2.phase == .ready) then refTest s k else s

/-- Holds may have ended: what they held back is released (R364). -/
def releaseHeld (s : State) : State := (s.fe.jobs.map (·.1)).foldl releaseNodes s

/-- The referee's tests of commit nodes that have become dispatchable by their flags (R398). -/
def testCommits (s : State) : State :=
  (s.fe.jobs.filter (fun e => e.2.commitDue)).foldl (fun s e => refTest (modJob s e.1 (fun j => { j with commitDue := false })) e.1) s

/-! ### Holds that end -/

/-- What a node's references do when it completes (Table 5.10). -/
def endHolds (s : State) (n : Node) (ok : Bool) : State :=
  n.holds.foldl (fun s h =>
    if h.mode = 3 then
      match alFind s.vtensors h.tensor with
      | some t => { s with vtensors := alPut s.vtensors h.tensor { t with c := if ok then t.c + 1 else t.c, updating := false } }
      | none => s
    else match h.cap with
      | some c => dropCapture s c
      | none => s) s

/-! ### Ends of jobs (R366, R367, R378, R388, R394) -/

/-- The work of a job is over: no node is running, and either every node has completed or the job is failing. -/
def jobOver (s : State) (k : Nat) (j : Job) : Bool :=
  !((nodesOf s k).any (fun e => e.2.active)) &&
    (j.failing || (j.phase == .placed && !j.substStop && decide (0 < j.nodes) && decide (j.doneNodes.length = j.nodes)))

/-- Status of the job record (R367). -/
def jobStatus (j : Job) : Status :=
  if j.lostRisk then .completionLostRisk
  else if j.expired then .timeout
  else match j.fail with
    | some f => f.status
    | none => if j.subst then .substituted else .ok

/-- FLAG_INFO of a job record (Table 12.8). -/
def flagInfo (j : Job) : Nat :=
  (match j.flagW with | some w => w * 2 ^ 18 + 8 | none => 0) + (match j.flagS with | some f => f * 2 ^ 4 + 4 | none => 0)

/-- The job record. -/
def jobRec (j : Job) : Rec :=
  let f := j.fail.getD {}
  { jobTag := j.entry.jobTag, queue := j.queue, status := statusCode (jobStatus j), isJob := true, fail := f,
    esc := j.escSum, observed := j.obsSum, aux1 := f.node, aux0 := j.dispatched, flagInfo := flagInfo j, lost := j.lost }

/-- Microseconds, rounded up. -/
def ceilUs (t : Nat) : Nat := ceilDiv t 100

/-- A core that a job gives up (R388, R394): a pre-empted core whose save has not begun returns at once, one that was
handed over without a save returns at once, a saved one waits for its restore. -/
def releaseCore (s : State) (k : Nat) (c : Nat) : State :=
  let saved := (alFind s.saved c).isSome
  modCore s c (fun x =>
    let x := if x.owner = some k then { x with owner := none } else x
    match x.hold with
    | .chosen r => if r = k then { x with hold := .free } else x
    | .lent r => if r = k && !saved then { x with hold := .free } else x
    | _ => x)

/-- The RT registers at an RT job record (Tables 13.11 and 13.12, R397). -/
def rtRecord (s : State) (q : Queue) (j : Job) : State :=
  let st := jobStatus j
  let lat := min (ceilUs (j.latency.getD 0)) (2 ^ 17 - 1)
  let v := j.queue * 2 ^ 52 + statusCode st * 2 ^ 48 + min j.preempted (2 ^ 11 - 1) * 2 ^ 37 + lat * 2 ^ 20
  let s := modFn s j.fn (fun x => { x with last := alPut x.last gQOS v })
  let s := bump s j.fn 0x30100 1
  match st, j.commitTime with
  | .ok, some t => modQueue s j.queue (fun _ => { q with tails := (q.tails ++ [s.time - t]).drop (q.tails.length - 7) })
  | _, _ => s

/-- A job ends (R367): its record is written or logged, the vector is signalled, its cores are released, and its queue goes
on, or halts (R378). A record that waits for a translation leaves the job as it is. -/
def endJob (s : State) (k : Nat) : State :=
  match alFind s.fe.jobs k with
  | none => s
  | some j =>
    let st := jobStatus j
    let failed := st != .ok && st != .substituted
    match putRecord s j.queue (recBytes (jobRec j)) true (j.entry.irq || st != .ok) with
    | (.wait, s) => s
    | (_, s) =>
      match alFind s.fe.queues j.queue with
      | none => s
      | some q =>
        let s := bump s j.fn gsJobs 1
        let s := if q.cls = .rt then rtRecord s q j else s
        let s := traceEmit s 3 0 frontSrc (some j.tenant) j.entry.jobTag (j.queue + statusCode st * 2 ^ 12)
        let s := if failed then feEvent s j.fn 0 j.queue 0 0 0 else s
        let s := dropJob s k
        let s := (s.cores.map (·.1)).foldl (fun s c => releaseCore s k c) s
        let halt := q.haltOnError && (j.expired || st == .fault || st == .unitAbsent)
        let s := modQueue s j.queue (fun q =>
          { q with job := none, entries := q.entries.drop 1, shotFrom := none, shotAcc := 0,
                   st := if halt then .halted else q.st, reason := if halt then .error else q.reason
                   logReason := if halt && q.reason != .error then q.reason else q.logReason })
        syncShots (settleQueue s j.queue)

/-- End the job if its work is over. -/
def tryEnd (s : State) (k : Nat) : State :=
  match alFind s.fe.jobs k with
  | some j => if jobOver s k j then endJob s k else s
  | none => s

/-- End every job whose work is over. -/
def tryEnds (s : State) : State := s.fe.jobs.foldl (fun s e => tryEnd s e.1) s

/-! ### Partition resets (R464) -/

/-- Free the stash of a partition (R138); entries that no job references go at once. -/
def freeStash (s : State) (part : Nat) : State :=
  { s with regions := alMap s.regions (fun _ x =>
      let keep := alMap x.stash (fun _ e => if e.part = part then { e with replaced := true } else e)
      { x with stash := keep.filter (fun e => e.2.part != part || decide (0 < e.2.refs)) }) }

/-- Release the captures of a tenant's tensors (R153). -/
def freeCaptures (s : State) (tenant : Nat) : State :=
  { s with captures := s.captures.filter (fun c =>
      match alFind s.vtensors c.2.tensor with
      | some t => t.tenant != tenant
      | none => false) }

/-- Abandon saves and restores in progress of jobs (R464). -/
def abandonSaves (s : State) (jobs : List Nat) : State :=
  let ends := s.cores.filter (fun e => match e.2.hold, e.2.owner with
    | .saving _, some o => jobs.contains o
    | _, _ => false)
  let s := ends.foldl (fun s e => modRegion s (coreRegion e.1) (fun x => { x with turn := x.turn - 1 })) s
  mapCores s (fun _ c =>
    match c.hold, c.owner with
    | .saving r, some o => if jobs.contains o then { c with hold := .lent r } else c
    | .chosen r, some o => if jobs.contains o then { c with hold := .lent r } else c
    | _, _ => c)

/-- A node that is ready under R364 but for a hold (R153, R154, R269). -/
def heldNode (s : State) (n : Node) : Bool :=
  n.phase == .parsed && onHold s n && (match alFind s.fe.jobs n.job with
    | some j => j.phase == .placed && n.preds.all (fun p => j.okNodes.contains p)
    | none => false)

/-- Nodes of a job that wait on a flag or on a hold complete as stopped nodes (R377, R464). -/
def stopWaiting (s : State) (job : Nat) (st : Status) (f : DevFault) : State :=
  { s with fe.nodes := alMap s.fe.nodes (fun _ n =>
      if n.job = job && (n.phase == .waiting || (n.phase == .ready && onHold s n) || heldNode s n) then { stopFail n st f with phase := .finished } else n) }

/-- A partition reset of some jobs of a partition (R464): their cores are reset, their saved contexts discarded, their
running and waiting nodes stopped with a fault, and the jobs fail. -/
def resetJobs (s : State) (part : Nat) (jobs tenants : List Nat) (f : DevFault) : State :=
  let cores := (s.cores.filter (fun e =>
    (e.2.exec.blocks.any (fun b => jobs.contains b.2.task.job)) ||
    (match e.2.owner, e.2.hold with | some o, .free => jobs.contains o | some o, .chosen _ => jobs.contains o | _, _ => false) ||
    (match e.2.hold with | .lent r => jobs.contains r | _ => false))).map (·.1)
  let s := cores.foldl (fun s c => coreReset s c (((execOf s c).blocks.head?).map (fun b => b.2.task.node))) s
  let s := abandonSaves (jobs.foldl dropSaved s) jobs
  let s := jobs.foldl (fun s k =>
    let s := stopNodes s k .fault f
    let s := stopWaiting s k .fault f
    modJob s k (fun j => failJob j { status := .fault, fault := f })) s
  tenants.foldl freeCaptures (freeStash s part)

end Sys2Proof.Machine
end

