-- ==== Sys2Proof/Machine/Debug.lean ====
section
/-! DEFINITION. Debug, counters and trace (spec chapter 18): captures and clears, overflows, the contact, breaks, BRK, the
access port, DROP records. -/

namespace Sys2Proof.Machine

/-! ### Who may use the debug registers (Table 18.9, R514) -/

/-- Whether a counter block exists (R498). -/
def blkExists (s : State) (k : Nat) : Bool :=
  let ix := k % 65536
  match k / 65536 with
  | 0 => (coreOf s ix).present
  | 1 => decide (ix < Config.regions s.variant)
  | 2 => (ctlOf s ix).present
  | 3 => Config.portBonded s.variant ix
  | _ => false

/-- A function that may act at a debug level: the physical function, or the function of a tenant within the scope. -/
def dbgAllowed (s : State) (fn level : Nat) : Bool :=
  decide (level ≤ s.dbg.level) && (fn == pf || (decide (fn < serviceFn) && inScope s fn))

/-- A function that may write a counter block: at level 1, the blocks that its window holds. -/
def blkWriter (s : State) (fn k : Nat) : Bool :=
  blkExists s k && dbgAllowed s fn 1 && (blkReaders s k).contains fn

/-- COUNTER_SNAP (R502): a write of 1 to CTL.SNAP. -/
def execCounterSnap (fn block : Nat) (s : State) : Host.Outcome State Fault Refusal :=
  hostAccess s fn (if blkWriter s fn block then capture s block 1 (ctrOf s block).tag else s)

/-- COUNTER_CLEAR (R504): a write of 1 to CTL.CLEAR. -/
def execCounterClear (fn block : Nat) (s : State) : Host.Outcome State Fault Refusal :=
  hostAccess s fn (
    if blkWriter s fn block then modCtr s block (fun b => { b with count := [], ovf := 0, wrapped := [] }) else s)

/-- COUNTER_OVERFLOW (R500, R538): a counter that has wrapped sets STATUS.OVF, and raises the whistle and the interrupt as its
EVSEL says. -/
def execCounterOverflow (block n : Nat) (s : State) : Host.Outcome State Fault Refusal :=
  completes s (
    let b := ctrOf s block
    if !b.wrapped.contains n then s
    else
      let s := modCtr s block (fun b => { b with wrapped := b.wrapped.erase n, ovf := setBitN b.ovf n })
      let e := alGet 0 b.evsel n
      let s := if bit e 30 && s.dbg.ovfEn then raiseWhistle s 3 else s
      if bit e 29 then (blkReaders s block).foldl (fun s f => occur s f 0xA 0 (blkOffset block + n * 2 ^ 32)) s else s)

/-! ### The whistle's contact and release -/

/-- WHISTLE_PIN_EDGE (R505, R555): a source while PIN_EN is 1, unless the device drives the contact or is in reset. -/
def execWhistlePinEdge (s : State) : Host.Outcome State Fault Refusal :=
  completes s (if s.pm.ready && s.dbg.pinEn && !s.dbg.driving then raiseWhistle s 0 else s)

/-- WHISTLE_DRIVE_END (R505): 1 µs after the raise. -/
def execWhistleDriveEnd (s : State) : Host.Outcome State Fault Refusal :=
  completes s (
    if s.dbg.driving && decide (s.dbg.stamp + 9600 ≤ stampNow s) then emit { s with dbg.driving := false } (.pin 0 true) else s)

/-- WHISTLE_RELEASE (R509): DBG_WHISTLE_CMD.RELEASE, which the physical function may write at every level. -/
def execWhistleRelease (fn : Nat) (s : State) : Host.Outcome State Fault Refusal :=
  hostAccess s fn (if fn == pf || dbgAllowed s fn 1 then releaseWhistle s else s)

/-! ### Breaks and BRK (R511, R512) -/

/-- A write of a break unit's CTL (Table 18.22): EN 1 arms it and zeroes its count. -/
def writeBreak (s : State) (fn unit value : Nat) : State :=
  if 4 ≤ unit || !dbgAllowed s fn 1 then s
  else
    let set (b : BreakUnit) : BreakUnit :=
      { b with en := bit value 31, mode := b2n (bit value 30), fired := b.fired && !bit value 29, queue := value % 4096, fn := fn
               count := if bit value 31 then 0 else b.count }
    { s with dbg.breaks := alMod {} s.dbg.breaks unit set }

/-- BREAK_ARM (R511). -/
def execBreakArm (fn unit value : Nat) (s : State) : Host.Outcome State Fault Refusal :=
  hostAccess s fn (writeBreak s fn unit (setBitN value 31))

/-- BRK (R215, R512): the group whose next native instruction is BRK stops, the hit is recorded and the whistle raised; while
an earlier hit is recorded it is held; outside a level-2 scope it is MEM_ACCESS. -/
def execBrk (core slot npc : Nat) (s : State) : Host.Outcome State Fault Refusal :=
  completes s (
    match issue s { core := core, slot := slot, guarded := false, negated := false, guard := 0, nx := 0 } with
    | none => s
    | some c =>
      let t := c.b.task
      if !(nativeSpan t c.p.pc).contains npc || !c.x.istore.contains (t.image, t.variant, npc / 64) ||
          !isBrk c.x t.image npc then s
      else if s.dbg.level != 2 || !inScope s t.tenant then raiseFault s c .memAccess
      else
        let s := putGroup s c { c.g with stop := .brk npc }
        if bit s.dbg.brkHit 41 then { s with dbg.brkHeld := s.dbg.brkHeld ++ [(core, slot, npc)] }
        else raiseWhistle (brkRecord s core slot npc c.p.pc) 2)

/-! ### The access port (R515) -/

/-- The core that a location code names, if it is a core's code (Table 1.2). -/
def coreAtLoc (loc : Nat) : Nat := loc / 256 * 192 + loc % 256 / 64 * 48 + loc % 64 / 8 * 8 + loc % 8

/-- Forget the written line in every translated-code cache and instruction store (R515). -/
def dropCodeLine (s : State) (image line : Nat) : State :=
  let s := mapCores s (fun _ c =>
    let x := c.exec
    let x := { x with istore := x.istore.filter (fun l => !(l.1 == image && l.2.2 == line))
                      code := x.code.filter (fun e => !(e.1 == image && e.2.1 == line)) }
    { c with exec := x })
  { s with clusters := alMap s.clusters (fun _ k => { k with
      codeLines := k.codeLines.filter (fun l => !(l.1 == image && l.2.2 == line))
      code := k.code.filter (fun e => !(e.1 == image && e.2.1 == line)) }) }

/-- A result of the port: code, data read, state. -/
abbrev PortRes := Nat × Option Nat × State

/-- MEM_PA, and MEM_VA's and CODE's accesses to local memory: 8 bytes at their home, as part 0's. -/
def portMem (s : State) (pa : Nat) (write : Option Nat) : PortRes :=
  if (setOf s pa).isNone then (3, none, s)
  else
    match nodeAt s pa, write with
    | some (t, n, k), some v => (0, none, putNodeEntry s t n k v)
    | some (t, n, k), none => (0, some (nodeEntry s t n k), s)
    | none, some v => (0, none, devWrite s pa 0 0 (leBytes 8 v))
    | none, none => let (b, _, s) := devRead s pa 8 0 0 .plain; (0, some (leNat b), s)

/-- MEM_VA: 8 bytes in a tenant's address space; `none` while a translation is outstanding. -/
def portVa (s : State) (tenant va : Nat) (write : Option Nat) : Option PortRes × State :=
  let part := (partOf s tenant).getD 0
  match write with
  | some v =>
    match agentWrite s tenant part va (leBytes 8 v) with
    | (.ok _, s) => (some (0, none, s), s)
    | (.fault _, s) => (some (3, none, s), s)
    | (.wait, s) => (none, s)
  | none =>
    match agentRead s tenant part va 8 .plain with
    | (.ok b, s) => (some (0, some (leNat b), s), s)
    | (.fault _, s) => (some (3, none, s), s)
    | (.wait, s) => (none, s)

/-- CODE: 8 bytes of an image's native code. -/
def portCode (s : State) (image : Nat) (i : Image) (off : Nat) (write : Option Nat) : PortRes :=
  match codePa i off with
  | none => (3, none, s)
  | some pa =>
    let (r, d, s) := portMem s pa write
    if write.isNone || r != 0 then (r, d, s) else (r, d, dropCodeLine s image (off / 64))

/-- ISTORE: 8 bytes of a line that the store holds, lines in the store's order (log entry 39). -/
def portStore (s : State) (core addr : Nat) (write : Option Nat) : PortRes :=
  let x := execOf s core
  match x.istore[addr / 64]? with
  | none => (3, none, s)
  | some (image, _, line) =>
    let b := codeOf x.code image line
    let at_ := addr % 64 / 8 * 8
    match write with
    | none => (0, some (leNat ((b.drop at_).take 8)), s)
    | some v =>
      (0, none, modExec s core (fun x => { x with code := putCode x.code image line (b.take at_ ++ leBytes 8 v ++ b.drop (at_ + 8)) }))

/-- VREG, UREG and PC of a group of a halted core (Table 18.10). VREG names a native register, in which the register map
places a %v (R217); what a temporary of the translator holds the spec does not give, so it reads as a free value and a
write to it changes nothing that the model holds (DESIGN CHOICE, log entry 148). -/
def portGroup (s : State) (fn core target sel addr : Nat) (write : Option Nat) : PortRes :=
  let x := execOf s core
  match alFind x.groups sel with
  | none => (3, none, s)
  | some g =>
    match alFind x.blocks g.block with
    | none => (3, none, s)
    | some b =>
      let put (g : Group) : State := modExec s core (fun x => { x with groups := alPut x.groups sel g })
      if !inScope s b.task.tenant || (fn != pf && fn != b.task.tenant) then (1, none, s)
      else if target = 4 then
        let m := bits addr 15 8
        if b.task.nregs ≤ m then (3, none, s)
        else
          match (b.task.vmap.find? (fun e => e.2 == m)).map (·.1), write with
          | some n, some v => (0, none, put (setV g n [(addr % 32, BitVec.ofNat 32 v)]))
          | some n, none =>
            (0, some (alGet (startVal b.task.tenant g.birth (32 * n + addr % 32)) g.regs (32 * n + addr % 32)).toNat, s)
          | none, some _ => (0, none, s)
          | none, none => let (v, s) := takeFree s; (0, some (v.toNat % 2 ^ 32), s)
      else if target = 5 then
        if 64 ≤ addr then (3, none, s)
        else
          match write with
          | some v => (0, none, put (setU g addr (BitVec.ofNat 32 v)))
          | none => (0, some (alGet (startVal b.task.tenant g.birth (2 ^ 16 + addr)) g.uregs addr).toNat, s)
      else
        match write with
        | some _ => (1, none, s)
        | none =>
          match g.paths.find? (fun p => decide (addr < 32) && p.lanes.getLsbD addr) with
          | none => (3, none, s)
          | some p =>
            let npc := match g.stop with
              | .brk n => n
              | _ => ((b.task.lines.find? (fun e => e.1 == p.pc)).map (·.2)).getD 0
            (0, some (p.pc * 2 ^ 32 + npc), s)

/-- One access of the port: `none` while it waits for a translation. -/
def portAccess (s : State) (fn ctl : Nat) : Option PortRes × State :=
  let addr := alGet 0 s.dbg.accAddr fn
  let write := if bit ctl 27 then some (alGet 0 s.dbg.accData fn) else none
  let target := bits ctl 26 24
  let one (r : PortRes) : Option PortRes × State := (some r, r.2.2)
  let scope := if fn = pf then s.dbg.scope else some fn
  if target < 4 && addr % 8 != 0 then one (3, none, s)
  else if target = 0 then
    match scope with
    | some t => portVa s t addr write
    | none => one (1, none, s)
  else if target = 1 then (if scope.isNone then one (portMem s addr write) else one (1, none, s))
  else if target = 2 then
    match alFind s.images (alGet 0 s.dbg.accImage fn) with
    | none => one (3, none, s)
    | some i =>
      if !inScope s i.tenant || (fn != pf && fn != i.tenant) then one (1, none, s)
      else one (portCode s (alGet 0 s.dbg.accImage fn) i addr write)
  else if target = 7 then one (3, none, s)
  else
    let core := coreAtLoc (ctl % 65536)
    if !locValid s (ctl % 65536) || 2 ^ 14 ≤ ctl % 65536 || !(coreOf s core).present then one (3, none, s)
    else if !scopeCore s core || (fn != pf && !(coreTenants s core).contains fn) then one (1, none, s)
    else if !(coreOf s core).halted then one (2, none, s)
    else if target = 3 then one (portStore s core addr write)
    else one (portGroup s fn core target (bits ctl 23 16) addr write)

/-- A write of DBG_ACC_CTL at level 2 (Table 18.24): with GO the access is performed, and RESULT and the data stand in the
registers after it. -/
def writeAccCtl (s : State) (fn value : Nat) : State :=
  let ctl := value % 2 ^ 28
  if !dbgAllowed s fn 2 then s
  else if !bit value 31 then
    { s with dbg.accCtl := alPut s.dbg.accCtl fn (ctl + alGet 0 s.dbg.accCtl fn / 2 ^ 28 * 2 ^ 28) }
  else
    match portAccess s fn ctl with
    | (none, s) => s
    | (some (r, d, _), s) =>
      let s := { s with dbg.accCtl := alPut s.dbg.accCtl fn (ctl + r * 2 ^ 28) }
      match d with
      | some v => { s with dbg.accData := alPut s.dbg.accData fn v }
      | none => s

/-- ACCESS_PORT_GO (R515). -/
def execAccessPortGo (fn value : Nat) (s : State) : Host.Outcome State Fault Refusal :=
  hostAccess s fn (writeAccCtl s fn (setBitN (value % 2 ^ 31) 31))

/-! ### Trace -/

/-- TRACE_DROP_EMIT (R518): once its FIFO has room, a source that dropped records emits a DROP record. The trace port's own
source is the port's FIFO. -/
def execTraceDropEmit (source : Nat) (s : State) : Host.Outcome State Fault Refusal :=
  completes s (
    if source != 0xFFFE then traceDropRec s source
    else
      let q := alGet {} s.dbg.sources0 source
      if !traceOn s 10 || q.dropped = 0 || 32768 ≤ s.dbg.portFifo.length then s
      else
        let r := [10, 0, source, 0x3FF, stampNow s, q.dropped, q.firstStamp]
        { s with dbg.portFifo := s.dbg.portFifo ++ [r], dbg.sources0 := alPut s.dbg.sources0 source {} })

/-- TRACE_PORT_UP_CHANGE (R519). -/
def execTracePortUpChange (up : Bool) (s : State) : Host.Outcome State Fault Refusal :=
  completes s (if bit s.units 4 then { s with dbg.portUp := up } else s)

end Sys2Proof.Machine
end

