-- ==== Sys2Proof/Machine/CacheOps.lean ====
section
/-! DEFINITION. Operations over whole slices and partitions (R250, R260, R273). -/

namespace Sys2Proof.Machine

/-- Write back every dirty line of some ways of a slice, then invalidate every line in them; the stamps advance (R260,
R273). -/
def dropWays (s : State) (r : Nat) (mask : BitVec 16) : State :=
  (regionOf s r).lines.foldl (fun s e =>
    if mask.getLsbD (e.1 % 16) then modRegion (writeBack s (tenantOf s e.2.pa) e.2) r (fun x => dropWay x (e.1 / 16) (e.1 % 16)) else s) s

/-- Regions in which a partition has ways: those that home its memory (R403). -/
def partSlices (s : State) (part : Nat) : List Nat :=
  match alFind s.sched.parts part with
  | none => []
  | some p => (s.regions.map (·.1)).filter (partHomes s p)

/-- Free the detectors and clear the L1s of a partition's cores (R273, R250). -/
def clearPartCores (s : State) (part : Nat) : State :=
  (partCores s part).foldl (fun s c => modExec (l1Clear s c) c (fun x => { x with dets := [] })) s

/-- Free a partition's side-buffer entries (R273). -/
def freeSide (s : State) (part : Nat) : State :=
  (s.regions.map (·.1)).foldl (fun s r => freeSides s r (fun e => e.part == part)) s

/-- The scrub of R273. -/
def scrubPart (s : State) (part : Nat) : State :=
  let s := (partSlices s part).foldl (fun s r => dropWays s r (waysOf s r part)) s
  clearPartCores (freeStash (freeSide s part) part) part

end Sys2Proof.Machine
end

