-- ==== Sys2Proof/Machine/Engines.lean ====
section
/-! DEFINITION. The range-maintenance engines (R269 to R272) and the copy engines (R335, R336). -/

namespace Sys2Proof.Machine

/-- An engine has ended with a node: what its record carries, and a fault unless the node had failed before. -/
def engineDone (s : State) (node aux0 aux1 : Nat) (f : Option DevFault) : State :=
  modNode s node (fun n =>
    { n with phase := .finished, aux0 := aux0, aux1 := aux1,
             fail := match n.fail, f with
               | some x, _ => some x
               | none, some f => some { status := .fault, fault := f, node := n.idx }
               | none, none => none })

/-! ### Range maintenance -/

/-- RANGE_OP_START (R271): an engine runs the operations of its queue one at a time, in arrival order. -/
def execRangeOpStart (die : Nat) (s : State) : Host.Outcome State Fault Refusal :=
  completes s (
    match (dieOf s die).ranges with
    | op :: r => if op.started then s else modDie s die (fun x => { x with ranges := { op with started := true } :: r })
    | [] => s)

/-- One command at a line's home (Table 9.8); the line's side-buffer entry is freed. -/
def rangeLine (s : State) (pa op part tenant : Nat) : State :=
  match homeSlice s pa with
  | none => s
  | some (r, set, tag) =>
    let s := ccBump (freeSides s r (fun e => e.pa == pa)) r part tenant ccMaintLines 1
    let zero : MemWrite := { pa := pa, mask := BitVec.allOnes 128, data := 0, poison := 0, part := part }
    match findWay (regionOf s r) set tag, op with
    | some (w, l), 0 =>
      modRegion (writeBack s tenant l) r (fun x => bumpStamp (if l.dirty then setWay x set w { l with dirty := false } else x) set)
    | some (w, l), 1 =>
      modRegion (if l.dirty then ccBump s r part tenant ccDalDrop 1 else s) r (fun x => dropWay x set w)
    | some (w, l), 2 => modRegion (writeBack s tenant l) r (fun x => dropWay x set w)
    | some (w, l), _ =>
      modRegion s r (fun x => bumpStamp (setWay x set w { l with data := 0, poison := 0, dirty := true, age := 3 }) set)
    | none, 3 => ctlWrite (modRegion s r (fun x => bumpStamp x set)) zero
    | none, _ => s

/-- The parts of a range that the engine performs, with whether the page grants W: lines in pages that map to local device
memory (R270); the other lines are skipped. -/
def rangeParts (s : State) (tenant base len : Nat) : List (Nat × Nat × Bool) :=
  (s.mem.pages.filter (fun e => e.1 / 2 ^ 32 == tenant)).filterMap (fun e =>
    let va := e.1 % 2 ^ 32 * 65536
    let lo := max base va
    let hi := min (base + len) (va + 65536)
    let pa := e.2.frame * 65536 + (lo - va)
    let here := match e.2.kind with
      | .local => (setOf s pa).isSome && !inCode s pa
      | .remote => packageIsSelf s.selfId e.2.package && ownReach s tenant pa
      | .host => false
    if decide (lo < hi) && here then some (pa, hi - lo, e.2.w) else none)

/-- The lines of some parts, in order. -/
def partLines (ps : List (Nat × Nat × Bool)) : List Nat :=
  ps.flatMap (fun p => (List.range (p.2.1 / 128)).map (fun i => p.1 + 128 * i))

/-- RANGE_OP_COMPLETE (R270, R271, R377): every command is performed and every write-back accepted; the record carries the
lines performed and skipped. A stopped operation has performed a free number of lines (log entry 37), as has a ZERO that
meets a page without W (R286). -/
def execRangeOpComplete (die : Nat) (s : State) : Host.Outcome State Fault Refusal :=
  completes s (
    match (dieOf s die).ranges with
    | [] => s
    | op :: r =>
      if !op.started then s
      else
        let ps := rangeParts s op.tenant op.base op.len
        let denied := op.op == 3 && ps.any (fun p => !p.2.2)
        let lines := partLines (if denied then ps.filter (fun p => p.2.2) else ps)
        let (fr, s) := if op.stopped || denied then takeFree s else (0, s)
        let todo := if op.stopped || denied then lines.take (fr.toNat % (lines.length + 1)) else lines
        let s := todo.foldl (fun s pa => rangeLine s pa op.op op.part op.tenant) s
        let s := modDie s die (fun x => { x with ranges := r })
        let skipped := if op.stopped || denied then 0 else op.len / 128 - lines.length
        engineDone s op.node todo.length skipped (if denied then some .memAccess else none))

/-! ### Copies -/

/-- COPY_START (R335, R336): the engine takes up the next copy of its queue; the order of its lines is free. -/
def execCopyStart (die : Nat) (s : State) : Host.Outcome State Fault Refusal :=
  completes s (
    match (dieOf s die).copies with
    | op :: r =>
      if op.started then s
      else
        let (f, s) := takeFree s
        let n := op.len / 128
        modDie s die (fun x => { x with copies := { op with started := true, first := f.toNat % max 1 n } :: r })
    | [] => s)

/-- Whether the engine may take up another line (R336): it keeps at most 256 in flight, and a write to another package
needs a tag. -/
def copyRoom (s : State) (op : CopyOp) (die va : Nat) : Bool :=
  match translate s op.tenant va .w with
  | some (.remote pk _) =>
    !reachable s pk || (tagsFree s die 1 && decide ((s.links.txns.filter (fun t => t.kind == .engine && t.node == op.node && !t.dead)).length < 256))
  | _ => true

/-- A whole-line write at the destination (R336): with the fill hint at its home, or a message to another package. -/
def copyWrite (s : State) (op : CopyOp) (die va : Nat) (d : Line) : Acc Unit × State :=
  match translate s op.tenant va .w with
  | none => (.fault .memAccess, s)
  | some (.loc pa) =>
    (.ok (), homeWrite s pa op.part op.tenant (if op.hint = 1 then .stream else .plain) (BitVec.allOnes 128) d 0 (nodeIsRt s op.node))
  | some (.remote pk a) =>
    if !reachable s pk then (.fault .remoteUnreachable, lnkErr s op.tenant 0 pk 7 (a / 128))
    else (.ok (), engineWrite s { die := die, node := op.node } pk a op.tenant (BitVec.allOnes 128) d)
  | some (.host _) => agentWrite s op.tenant op.part va (lineSlice d 0 128) { die := die, node := op.node }

/-- Copy one line of an operation. -/
def copyLine (s : State) (op : CopyOp) (die i : Nat) : Acc Unit × State :=
  if !copyRoom s op die (op.dst + 128 * i) then (.wait, s)
  else
    match agentRead s op.tenant op.part (op.src + 128 * i) 128 .plain (nodeIsRt s op.node) die with
    | (.wait, s) => (.wait, s)
    | (.fault f, s) => (.fault f, s)
    | (.ok b, s) =>
      match copyWrite s op die (op.dst + 128 * i) (linePlace 0 b) with
      | (.ok _, s) => (.ok (), bump s op.tenant lnkCopy 1)
      | (x, s) => (x, s)

/-- Copy lines in the engine's order until all are copied, one meets a fault, or one waits for a translation: how many were
copied, and how it ended. -/
def copyLines : (fuel : Nat) → State → CopyOp → (die done : Nat) → Nat × Acc Unit × State
  | 0, s, _, _, done => (done, .ok (), s)
  | fuel + 1, s, op, die, done =>
    let n := op.len / 128
    if n ≤ done then (done, .ok (), s)
    else
      match copyLine s op die ((op.first + done) % n) with
      | (.ok _, s) => copyLines fuel s op die (done + 1)
      | (x, s) => (done, x, s)

/-- After a stop, any further line may have been copied (R336; log entry 37). -/
def copyRest (s : State) (op : CopyOp) (die done : Nat) : Nat × State :=
  let n := op.len / 128
  let ctr := s.freeCtr
  ((List.range (n - done)).map (· + done)).foldl (fun (a : Nat × State) k =>
    if Config.copiedLine ctr k then
      match copyLine a.2 op die ((op.first + k) % n) with
      | (.ok _, s) => (a.1 + 1, s)
      | (_, s) => (a.1, s)
    else a) (done, { s with freeCtr := s.freeCtr + 1 })

/-- Writes of a copy that are still in flight to other packages. -/
def copyBusy (s : State) (op : CopyOp) : Bool := s.links.txns.any (fun t => t.kind == .engine && t.node == op.node && !t.dead)

/-- A copy that issues no more lines ends once its writes in flight have been answered: the record gives the lines written, those
that were rejected apart (R336). -/
def copyEnd (s : State) (die : Nat) (op : CopyOp) (r : List CopyOp) : State :=
  if copyBusy s op then modDie s die (fun x => { x with copies := { op with ended := true } :: r })
  else engineDone (modDie s die (fun x => { x with copies := r })) op.node (op.done - op.lost) 0 op.failed

/-- A copy stops: lines that it had in flight may have been copied. -/
def copyStop (s : State) (die : Nat) (op : CopyOp) (r : List CopyOp) : State :=
  let (m, s) := copyRest s op die op.done
  copyEnd s die { op with done := m } r

/-- COPY_COMPLETE (R336, R377): every line is read at its source and written whole at its destination, and the copy ends when
every write to another package has been acknowledged; an unmapped page, a REJECT, poison or a timeout stops it. -/
def execCopyComplete (die : Nat) (s : State) : Host.Outcome State Fault Refusal :=
  completes s (
    match (dieOf s die).copies with
    | [] => s
    | op :: r =>
      if !op.started then s
      else if op.ended then copyEnd s die op r
      else if op.stopped || op.failed.isSome then copyStop s die op r
      else
        match copyLines (op.len / 128) s op die op.done with
        | (done, .wait, s) => modDie s die (fun x => { x with copies := { op with done := done } :: r })
        | (done, .fault f, s) =>
          copyStop (if f = .memPoison then poisonConsumed s op.tenant else s) die { op with done := done, failed := some f } r
        | (done, .ok _, s) =>
          if copyBusy s op then modDie s die (fun x => { x with copies := { op with done := done } :: r })
          else engineDone (modDie s die (fun x => { x with copies := r })) op.node done 0 none)

end Sys2Proof.Machine
end

