-- ==== Sys2Proof/Machine/ResponseOps.lean ====
section
/-! DEFINITION. Responses to outstanding remote accesses and host reads (R332, R333, R393, R532): what they do to the load,
atomic, store or fence that holds the tag, in the core's live context or in its saved one. -/

namespace Sys2Proof.Machine

/-- Run `f` on the context that a transaction belongs to: the saved context of its core while the tag is parked with it
(R393), otherwise the live one. -/
def onContext (s : State) (t : Txn) (f : State → State) : State :=
  match (if t.parked then alFind s.saved t.core else none) with
  | none => f s
  | some x =>
    let live := execOf s t.core
    let s := f (modExec s t.core (fun _ => x))
    let y := execOf s t.core
    modExec { s with saved := alPut s.saved t.core y } t.core (fun _ => live)

/-- Whether a transaction's context is saved. -/
def txnSaved (s : State) (t : Txn) : Bool := t.parked && (alFind s.saved t.core).isSome

/-- The fault of an error code (R332, R333): 1 to 4 of REJECT, 5 a timeout, 6 poison. -/
def errFault (err : Nat) : DevFault :=
  if err = 5 then .remoteTimeout else if err = 6 then .memPoison else .remoteAccess

/-- A load's response. -/
def answerLoad (s : State) (t : Txn) (f : Option DevFault) (data : Line) : State :=
  onContext s t (fun s => modExec s t.core (fun x => { x with loads := x.loads.map (fun l =>
    if l.id = t.id then
      (match f with
       | some g => { l with failed := some g }
       | none => { l with got := some (data, 0, 0) })
    else l) }))

/-- An atomic's response: the old value, or a fault that is raised when the response returns (R332), or, in a saved
context, when the context resumes (R393). -/
def answerAtom (s : State) (t : Txn) (f : Option DevFault) (data : Line) : State :=
  let saved := txnSaved s t
  onContext s t (fun s =>
    match (execOf s t.core).atoms.find? (fun a => a.id == t.id) with
    | none => s
    | some a =>
      match f with
      | none =>
        atomDone (atomReturn s t.core a.slot a.dst a.size (a.lanes.map (fun e => (e.lane, data.toNat % 2 ^ (8 * a.size))))) t.core a
      | some g =>
        if saved then
          modExec s t.core (fun x => { x with atoms := x.atoms.map (fun b => if b.id = a.id then { b with failed := some g } else b) })
        else
          lateFault (atomGone s t.core a) t.core a.id a.slot a.pc (laneMask (a.lanes.map (·.lane))) g)

/-- A write's acknowledgement, rejection or timeout: the entry leaves the write buffer, and the tasks whose stores it holds
fail when it was not performed (R332, R237), in a saved context when the context resumes (R393). -/
def answerStore (s : State) (t : Txn) (f : Option DevFault) : State :=
  let saved := txnSaved s t
  onContext s t (fun s =>
    match (execOf s t.core).wb.find? (fun e => e.id == t.id) with
    | none => s
    | some e =>
      let gone (s : State) : State := modExec s t.core (fun x => { x with wb := x.wb.filter (fun w => w.id != t.id) })
      match f with
      | none => gone s
      | some g =>
        let g := if g = .remoteAccess then .remoteWriteRejected else g
        if saved then modExec s t.core (fun x => { x with wb := x.wb.map (fun w => if w.id = t.id then { w with failed := some g } else w) })
        else e.nodes.foldl (fun s n => failNode s n { status := .fault, fault := g, loc := locOf t.core }) (gone s))

/-- A fence's zero-length host read has completed (R228). -/
def answerFence (s : State) (t : Txn) : State :=
  onContext s t (fun s => modExec s t.core (fun x => { x with fences := x.fences.map (fun f =>
    if f.id = t.id then { f with hostRead := 3 } else f) }))

/-- The acknowledgement of an engine's write; a rejection or timeout fails the node for which it was made, and what the
engine still does for it: a job's RESULT says so, and a copy stops (R145, R332, R336). -/
def answerEngine (s : State) (t : Txn) (f : Option DevFault) : State :=
  match f with
  | none => s
  | some g =>
    let copying := s.dies.any (fun d => d.2.copies.any (fun c => c.node == t.node))
    let g := if g = .remoteAccess && !copying then .remoteWriteRejected else g
    let s := { s with
      clusters := alMap s.clusters (fun _ k => { k with epi := alMap k.epi (fun _ j =>
        if j.task.node == t.node && j.eid == t.id then { j with bad := true } else j) })
      dies := alMap s.dies (fun _ d => { d with copies := d.copies.map (fun c =>
        if c.node == t.node then { c with failed := c.failed.or (some g), lost := c.lost + 1 } else c) }) }
    failNode s t.node { status := .fault, fault := g }

/-- The counter and event of a remote outcome (R332, R333, Tables 11.14, 11.15 and 11.18). -/
def noteRemote (s : State) (t : Txn) (err : Nat) : State :=
  match t.target with
  | .remote pk a =>
    if err = 0 then s
    else
      let s := if err = 5 then bump s t.tenant lnkTimeout 1 else if err = 6 then s else bump s t.tenant lnkReject 1
      lnkErr s t.tenant (if (t.kind == .store || t.kind == .engine) && err != 5 then 1 else 0) pk err (a / 128)
  | _ => s

/-- The response to a transaction: `err` 0 for success. A response whose work was reset is discarded (R463, R533). -/
def answerTxn (s : State) (t : Txn) (err : Nat) (f : Option DevFault) (data : Line) : State :=
  let s := closeTxn s t.die t.tag
  if t.dead then s
  else
    let s := noteRemote s t err
    match t.kind with
    | .load => answerLoad s t f data
    | .atom => answerAtom s t f data
    | .store => answerStore s t f
    | .fence => answerFence s t
    | .engine => answerEngine s t f
    | .read =>
      match t.target with
      | .remote pk a => { s with links.fetched := s.links.fetched ++
          [{ tenant := t.tenant, package := pk, line := a / 128, data := data, fail := f }] }
      | _ => s

end Sys2Proof.Machine
end

