-- ==== Sys2Proof/Machine/Aes.lean ====
section
/-! DEFINITION. AES-256 (FIPS 197), AES-256-CMAC (NIST SP 800-38B, R439) and AES key unwrap (RFC 3394, Table 15.10), on lists
of numbers below 256. -/

namespace Sys2Proof.Machine

/-! ### The cipher -/

/-- Multiplication by x in GF(2⁸) modulo x⁸ + x⁴ + x³ + x + 1. -/
def aesX (a : Nat) : Nat := if a < 128 then 2 * a else (2 * a % 256) ^^^ 0x1B

/-- Product in GF(2⁸), `n` bits of `b` still to be taken. -/
def aesMulN : (n a b : Nat) → Nat
  | 0, _, _ => 0
  | n + 1, a, b => (if b % 2 = 1 then a else 0) ^^^ aesMulN n (aesX a) (b / 2)

/-- Product in GF(2⁸). -/
def aesMul (a b : Nat) : Nat := aesMulN 8 a b

/-- Inverse in GF(2⁸), 0 for 0: the 254th power. -/
def aesInv (a : Nat) : Nat :=
  let a2 := aesMul a a
  let a4 := aesMul a2 a2
  let a8 := aesMul a4 a4
  let a16 := aesMul a8 a8
  let a32 := aesMul a16 a16
  let a64 := aesMul a32 a32
  let a128 := aesMul a64 a64
  aesMul (aesMul (aesMul a2 a4) (aesMul a8 a16)) (aesMul (aesMul a32 a64) a128)

/-- Rotate a byte left. -/
def rotl8 (a n : Nat) : Nat := a * 2 ^ n % 256 + a * 2 ^ n / 256

/-- The S-box. -/
def aesSub (a : Nat) : Nat :=
  let b := aesInv a
  b ^^^ rotl8 b 1 ^^^ rotl8 b 2 ^^^ rotl8 b 3 ^^^ rotl8 b 4 ^^^ 0x63

/-- The inverse S-box. -/
def aesUnsub (a : Nat) : Nat := aesInv (rotl8 a 1 ^^^ rotl8 a 3 ^^^ rotl8 a 6 ^^^ 5)

/-- Exclusive-or of two byte strings. -/
def xorBytes (a b : List Nat) : List Nat := List.zipWith (· ^^^ ·) a b

/-- The next word of the key schedule, from the words so far (newest first) and its number. -/
def aesNextWord (ws : List (List Nat)) (i rcon : Nat) : List Nat :=
  let t := ws.headD []
  let t := if i % 8 = 0 then xorBytes ((t.drop 1 ++ t.take 1).map aesSub) [rcon, 0, 0, 0]
    else if i % 8 = 4 then t.map aesSub else t
  xorBytes (ws.getD 7 []) t

/-- The key schedule, newest word first. -/
def aesExpand : (n i rcon : Nat) → List (List Nat) → List (List Nat)
  | 0, _, _, ws => ws
  | n + 1, i, rcon, ws =>
    aesExpand n (i + 1) (if i % 8 = 0 then aesX rcon else rcon) (aesNextWord ws i rcon :: ws)

/-- The 15 round keys of a 32-byte key. -/
def aesKeys (key : List Nat) : List (List Nat) :=
  let ws := (aesExpand 52 8 1 ((List.range 8).map (fun i => (key.drop (4 * i)).take 4)).reverse).reverse
  (List.range 15).map (fun r => ((ws.drop (4 * r)).take 4).flatten)

/-- ShiftRows on a state stored column by column; `k` is 1, or 3 for its inverse. -/
def aesShift (k : Nat) (s : List Nat) : List Nat :=
  (List.range 16).map (fun i => s.getD ((i + 4 * k * (i % 4)) % 16) 0)

/-- MixColumns with the first row of its matrix. -/
def aesMix (row s : List Nat) : List Nat :=
  (List.range 16).map (fun i =>
    (List.range 4).foldl (fun a j => a ^^^ aesMul (row.getD ((j + 4 - i % 4) % 4) 0) (s.getD (i / 4 * 4 + j) 0)) 0)

/-- Rounds of encryption. -/
def aesRounds : List (List Nat) → List Nat → List Nat
  | [], s => s
  | [k], s => xorBytes (aesShift 1 (s.map aesSub)) k
  | k :: r, s => aesRounds r (xorBytes (aesMix [2, 3, 1, 1] (aesShift 1 (s.map aesSub))) k)

/-- Encrypt a 16-byte block. -/
def aesEncrypt (key block : List Nat) : List Nat :=
  match aesKeys key with
  | [] => block
  | k :: r => aesRounds r (xorBytes block k)

/-- Rounds of decryption, with the round keys from the last to the first. -/
def aesUnrounds : List (List Nat) → List Nat → List Nat
  | [], s => s
  | [k], s => xorBytes ((aesShift 3 s).map aesUnsub) k
  | k :: r, s => aesUnrounds r (aesMix [14, 11, 13, 9] (xorBytes ((aesShift 3 s).map aesUnsub) k))

/-- Decrypt a 16-byte block. -/
def aesDecrypt (key block : List Nat) : List Nat :=
  match (aesKeys key).reverse with
  | [] => block
  | k :: r => aesUnrounds r (xorBytes block k)

/-! ### CMAC -/

/-- A block as a big-endian number. -/
def beNat (b : List Nat) : Nat := b.foldl (fun a x => 256 * a + x) 0

/-- The `n` big-endian bytes of a number. -/
def beBytes (n x : Nat) : List Nat := (List.range n).map (fun i => x / 256 ^ (n - 1 - i) % 256)

/-- Doubling in GF(2¹²⁸) (SP 800-38B). -/
def cmacDbl (x : Nat) : Nat := if x < 2 ^ 127 then 2 * x else (2 * x % 2 ^ 128) ^^^ 0x87

/-- The chain over the blocks of a message, the last one made with a subkey. -/
def cmacChain (key : List Nat) (k1 k2 : Nat) : (fuel : Nat) → List Nat → List Nat → List Nat
  | 0, _, c => c
  | fuel + 1, m, c =>
    if m.length ≤ 16 then
      let last := if m.length = 16 then xorBytes m (beBytes 16 k1)
        else xorBytes (m ++ [0x80] ++ List.replicate (15 - m.length) 0) (beBytes 16 k2)
      aesEncrypt key (xorBytes c last)
    else cmacChain key k1 k2 fuel (m.drop 16) (aesEncrypt key (xorBytes c (m.take 16)))

/-- AES-256-CMAC of a message. -/
def aesCmac (key msg : List Nat) : List Nat :=
  let l := beNat (aesEncrypt key (List.replicate 16 0))
  cmacChain key (cmacDbl l) (cmacDbl (cmacDbl l)) (msg.length / 16 + 1) msg (List.replicate 16 0)

/-! ### Key unwrap -/

/-- The steps of the unwrapping, step number `t` downwards (RFC 3394, 2.2.2): A, and the words R, for `n` words. -/
def unwrapSteps (key : List Nat) (n : Nat) : (t : Nat) → Nat × List (List Nat) → Nat × List (List Nat)
  | 0, x => x
  | t + 1, (a, rs) =>
    let i := t % n
    let b := aesDecrypt key (beBytes 8 (a ^^^ (t + 1)) ++ rs.getD i [])
    unwrapSteps key n t (beNat (b.take 8), rs.set i (b.drop 8))

/-- Unwrap a 40-byte wrapped key: none when the integrity check fails. -/
def aesUnwrap (key wrapped : List Nat) : Option (List Nat) :=
  let rs := (List.range 4).map (fun i => (wrapped.drop (8 + 8 * i)).take 8)
  let (a, rs) := unwrapSteps key 4 24 (beNat (wrapped.take 8), rs)
  if a = 0xA6A6A6A6A6A6A6A6 then some rs.flatten else none

end Sys2Proof.Machine
end

