-- ==== Sys2Proof/Machine/StopOps.lean ====
section
/-! DEFINITION. The stop of all work and the FAILED state (R466 step 1, R479). -/

namespace Sys2Proof.Machine

/-! ### The stop of all work (R466 step 1, R479) -/

/-- Clear what a core runs: write buffers are discarded without a drain. -/
def stopCore (c : Core) : Core :=
  { c with exec := {}, owner := none, hold := .free, draining := false, resetNode := none }

/-- Every fetcher, the graph scheduler, the engines, the bench and every core stop; what they carried out is abandoned. -/
def stopWork (s : State) : State :=
  { s with
    cores := alMap s.cores (fun _ c => stopCore c)
    clusters := alMap s.clusters (fun _ k => { k with turns := [], epi := [], requests := [] })
    regions := alMap s.regions (fun _ r => { r with prepass := [], amax := [], turn := 0 })
    dies := alMap s.dies (fun _ d => { d with ranges := [], copies := [] })
    saved := []
    pools := alMap s.pools (fun _ p => { p with waiting := [] })
    links.txns := s.links.txns.map (fun t => { t with dead := true })
    links.fetched := []
    fe.jobs := []
    fe.nodes := []
    fe.queues := alMap s.fe.queues (fun _ q => { q with job := none, shotFrom := none })
    fns := alMap s.fns (fun _ f => { f with ring := f.ring.asleep })
    host.xreqs := s.host.xreqs.map (fun x => { x with dead := true }) }

/-- The FAILED message leaves on each twin port that is UP (R479). -/
def sendFailed (s : State) : State :=
  if s.twin.role = 0 && (s.twin.st == .attaching || s.twin.st == .synced || s.twin.st == .degraded) then
    ((Config.twinPorts s.variant).filter (fun p => (portOf s p).st == .up)).foldl (fun s p =>
      sendOn s p { type := 0xD, vc := 3, src := s.selfId.getD 0, dst := s.twin.peer, body := failedBytes }) s
  else s

/-- A fatal error (R479, R526): FAILED, FATAL in every function, the report on the primary interface, the FAILED message of
a twin's primary; a resource that it names becomes a lasting fault. -/
def fatalErr (s : State) (res : Option Resource) : State :=
  if s.ras.failed then s
  else
    let s := sendFailed { s with ras.failed := true, ras.fatalRes := res }
    let s := raiseAll (stopWork s) gRAS 7 (some (rasLast res 2))
    let s := emit { s with host.aerUie := true } (.pcie 5 pf (b2n s.host.aerFatal))
    match res with
    | some r => lastingFault s r true
    | none => s

end Sys2Proof.Machine
end

