-- ==== Sys2Proof/Machine/MboxOps.lean ====
section
/-! DEFINITION. The Cyrno mailbox protocol (spec chapter 15): messages and replies, the round-robin of R429, sequence
numbers and the replay log, the checks of R438 and the authentication of critical commands. -/

namespace Sys2Proof.Machine

/-! ### Messages -/

/-- Who may send an opcode (R442). -/
inductive Sender
  | any | own | ownOrPf | pf
  deriving DecidableEq, Repr

/-- What the tables of chapter 15 say of an opcode: payload length (none: variable), senders, PERM of a critical command,
the optional unit it belongs to (R428), and the payload bytes that the tables name. -/
structure OpInfo where
  len : Option Nat
  who : Sender
  perm : Option Nat := none
  unit : Option Nat := none
  named : List (Nat × Nat) := []
  deriving DecidableEq, Repr

/-- Session, discovery, submission and tenant messages (Tables 15.7 and 15.9, R576). -/
def opTenant : Nat → Option OpInfo
  | 0x0001 => some { len := some 8, who := .any, named := [(0, 0), (4, 7)] }
  | 0x0002 => some { len := some 0, who := .any }
  | 0x0003 => some { len := some 8, who := .any, named := [(0, 3)] }
  | 0x0004 => some { len := some 0, who := .pf }
  | 0x0100 => some { len := some 24, who := .own, named := [(0, 8), (16, 23)] }
  | 0x0101 => some { len := some 40, who := .own, named := [(0, 16), (18, 21), (24, 35)] }
  | 0x0102 => some { len := some 40, who := .own, named := [(0, 16), (18, 21), (24, 35)] }
  | 0x0103 => some { len := some 8, who := .own, named := [(0, 1)] }
  | 0x0104 => some { len := some 8, who := .own, named := [(0, 1)] }
  | 0x0105 => some { len := some 8, who := .own, named := [(0, 1)] }
  | 0x0106 => some { len := some 16, who := .ownOrPf, named := [(0, 2), (8, 15)] }
  | 0x0107 => some { len := some 8, who := .ownOrPf, named := [(0, 1)] }
  | 0x0110 => some { len := some 48, who := .own, named := [(0, 11), (16, 27), (32, 43)] }
  | 0x0111 => some { len := some 8, who := .own, named := [(0, 7)] }
  | 0x0120 => some { len := some 16, who := .ownOrPf, named := [(0, 0), (8, 15)] }
  | 0x0121 => some { len := some 48, who := .own, named := [(0, 0), (8, 47)] }
  | 0x0122 => some { len := some 8, who := .own, named := [(0, 1)] }
  | 0x0130 => some { len := some 24, who := .own, unit := some 1, named := [(0, 13), (16, 23)] }
  | 0x0131 => some { len := some 0, who := .own, unit := some 1 }
  | 0x0132 => some { len := some 8, who := .own, unit := some 1, named := [(0, 1)] }
  | 0x0140 => some { len := some 24, who := .ownOrPf, named := [(0, 16)] }
  | 0x0141 => some { len := some 32, who := .ownOrPf, named := [(0, 16), (24, 31)] }
  | 0x0142 => some { len := some 32, who := .ownOrPf, named := [(0, 17), (24, 31)] }
  | 0x0143 => some { len := some 16, who := .ownOrPf, named := [(0, 15)] }
  | 0x0144 => some { len := some 8, who := .ownOrPf, named := [(0, 7)] }
  | _ => none

/-- Administration and security messages (Table 15.10, R576). -/
def opAdmin : Nat → Option OpInfo
  | 0x0200 => some { len := some 24, who := .pf, perm := some 1, named := [(0, 6), (8, 23)] }
  | 0x0201 => some { len := some 8, who := .pf, perm := some 1, named := [(0, 0)] }
  | 0x0202 => some { len := some 16, who := .pf, named := [(0, 0), (2, 3), (8, 15)] }
  | 0x0203 => some { len := some 0, who := .pf }
  | 0x0204 => some { len := some 32, who := .pf, named := [(0, 6), (8, 17), (24, 31)] }
  | 0x0205 => some { len := some 8, who := .pf, named := [(0, 1)] }
  | 0x0206 => some { len := some 8, who := .pf, named := [(0, 2)] }
  | 0x0207 => some { len := some 8, who := .pf, named := [(0, 1)] }
  | 0x0208 => some { len := some 8, who := .pf, named := [(0, 1)] }
  | 0x0209 => some { len := some 8, who := .pf, perm := some 3, named := [(0, 0)] }
  | 0x0300 => some { len := some 16, who := .pf, named := [(0, 0), (8, 15)] }
  | 0x0301 => some { len := some 8, who := .pf, named := [(0, 0)] }
  | 0x0302 => some { len := none, who := .pf, named := [(0, 1), (8, 2055)] }
  | 0x0303 => some { len := some 24, who := .pf, named := [(0, 5), (8, 23)] }
  | 0x0304 => some { len := some 8, who := .pf, named := [(0, 3)] }
  | 0x0310 => some { len := some 8, who := .pf, unit := some 3, named := [(0, 0)] }
  | 0x0311 => some { len := some 0, who := .pf, unit := some 3 }
  | 0x0312 => some { len := some 8, who := .pf, perm := some 5, unit := some 3, named := [(0, 0)] }
  | 0x0320 => some { len := some 8, who := .pf, named := [(0, 3)] }
  | 0x0321 => some { len := some 32, who := .pf, perm := some 6, named := [(0, 0), (4, 7), (16, 31)] }
  | 0x0400 => some { len := some 48, who := .pf, perm := some 2, named := [(0, 1), (4, 47)] }
  | 0x0401 => some { len := some 16, who := .pf, perm := some 0, named := [(0, 11)] }
  | 0x0402 => some { len := none, who := .any, named := [(0, 16319)] }
  | 0x0403 => some { len := some 8, who := .pf, perm := some 4, named := [(0, 0), (2, 3)] }
  | 0x0404 => some { len := some 0, who := .pf }
  | 0x0405 => some { len := some 0, who := .pf }
  | _ => none

/-- What the tables say of an opcode; none for an unassigned one. -/
def opInfo (op : Nat) : Option OpInfo := (opTenant op).orElse (fun _ => opAdmin op)

/-- A request that is being carried out: sender, opcode, TENANT, FLAGS, payload, and the whole message. -/
structure Req where
  fn : Nat
  op : Nat
  tenant : Nat
  flags : Nat
  pay : List Byte
  msg : List Byte
  deriving DecidableEq, Repr

/-- A field of a request's payload. -/
def Req.f (r : Req) (off n : Nat) : Nat := fieldAt r.pay off n

/-- The tenant that a request acts for (R433, R442). -/
def Req.actor (r : Req) : Nat :=
  match opInfo r.op with
  | some i => if r.fn = Machine.pf && (i.who = .pf || i.who = .ownOrPf) then r.tenant else r.fn
  | none => r.fn

/-- The message names a tenant that cannot exist (R17). -/
def actorBad (r : Req) : Bool := decide (1024 ≤ r.actor)

/-- What a reply says: status code of Table 12.9, reason of Table 15.3, and fields from byte 8. -/
structure Rep where
  status : Nat := 0
  reason : Nat := 0
  fields : List Byte := []
  deriving DecidableEq, Repr

/-- Success, with fields. -/
def okRep (fields : List Byte) : Rep := { fields := fields }

/-- Status FAULT with a reason. -/
def badRep (reason : Nat) : Rep := { status := 2, reason := reason }

/-- Reasons (Table 15.3). -/
def rBadOpcode : Nat := 1
def rBadLength : Nat := 2
def rBadField : Nat := 3
def rNotPermitted : Nat := 4
def rAuthRequired : Nat := 5
def rAuthFailed : Nat := 6
def rReplay : Nat := 7
def rSlotLocked : Nat := 8
def rSeqError : Nat := 9
def rState : Nat := 10
def rNoResource : Nat := 11
def rNotFound : Nat := 12
def rVerify : Nat := 13
def rRollback : Nat := 14
def rFailover : Nat := 15

/-- How carrying out a request goes: a reply, no reply yet, or a wait for a host translation. -/
inductive Done
  | rep (r : Rep)
  | later
  | wait
  deriving DecidableEq, Repr

/-! ### Mailboxes -/

/-- A mailbox, by function; 1025 is the board path. -/
def mboxOf (s : State) (f : Nat) : Mbox := alGet {} s.mgmt.mboxes f

/-- Change a mailbox. -/
def modMbox (s : State) (f : Nat) (g : Mbox → Mbox) : State :=
  { s with mgmt.mboxes := alMod {} s.mgmt.mboxes f g }

/-- Sequence numbers run 1 to 0xFFFF_FFFF and wrap to 1. -/
def nextSeqNo (x : Nat) : Nat := if 0xFFFFFFFF ≤ x then 1 else x + 1

/-- The message of a mailbox: the request buffer, or the board path's oldest Cyrno message. -/
def mboxMsg (s : State) (f : Nat) : List Byte :=
  let b := if f = boardFn then ((s.mgmt.mctp.head?).map (·.2)).getD [] else (mboxOf s f).req
  b ++ List.replicate (16384 - b.length) 0

/-- Whether the board path's oldest message is an SPDM message (R431). -/
def boardSpdm (s : State) : Bool := ((s.mgmt.mctp.head?).map (·.1)) == some 0x05

/-- Whether a mailbox has a request that may be consumed (R432). -/
def mboxReady (s : State) (f : Nat) : Bool :=
  if f = boardFn then !s.mgmt.mctp.isEmpty else (mboxOf s f).reqPending && !(mboxOf s f).respValid

/-- The controller serves requests: the device is initialised, and no request is still being carried out to its reply
(R429). -/
def mgmtFree (s : State) : Bool :=
  s.pm.ready && s.mgmt.busy.isNone && !(s.mgmt.mboxes.any (fun e => e.2.respHeld || e.2.exec))

/-- The mailbox that is served next (R429): round-robin after the one served last. -/
def dueMbox (s : State) : Option Nat :=
  if !mgmtFree s then none
  else
    let all := (s.mgmt.mboxes.map (·.1)).filter (fun f => mboxReady s f) ++
      (if mboxReady s boardFn && (alFind s.mgmt.mboxes boardFn).isNone then [boardFn] else [])
    (all.find? (fun f => decide (s.mgmt.lastServed < f))).orElse (fun _ => all.head?)

/-! ### Replies (R433 to R436) -/

/-- The bytes of a reply to a message. -/
def replyBytes (msg : List Byte) (rep : Rep) (seq peer : Nat) (unnumbered : Bool) : List Byte :=
  let pay := leBytes 1 rep.status ++ [0] ++ leBytes 2 rep.reason ++ leBytes 4 0 ++ rep.fields
  leBytes 2 (fieldAt msg 0 2 % 2 ^ 15 + 2 ^ 15) ++ leBytes 2 pay.length ++ leBytes 2 (fieldAt msg 4 2) ++
  leBytes 2 (if unnumbered then 16 else 0) ++ leBytes 4 seq ++ leBytes 4 peer ++ List.replicate 16 0 ++ pay

/-- A reply leaves: into the response buffer with RESP_READY (R432), or over the board path (R431). -/
def deliverReply (s : State) (f : Nat) : State :=
  let m := mboxOf s f
  if f = boardFn then emit (modMbox s f (fun m => { m with respHeld := false })) (.mctp (0x7E :: m.resp))
  else raiseEv (modMbox s f (fun m => { m with respHeld := false, respValid := true })) f gMB 0 none

/-- Write an unnumbered reply (R435). -/
def unnumberedReply (s : State) (f : Nat) (msg : List Byte) (rep : Rep) : State :=
  let m := mboxOf s f
  deliverReply (modMbox s f (fun m' => { m' with resp := replyBytes msg rep m.d m.l true })) f

/-- Opcodes whose successful messages are mirrored (R490). -/
def mirroredOps : List Nat :=
  [0x0100, 0x0101, 0x0102, 0x0103, 0x0104, 0x0105, 0x0110, 0x0111, 0x0120, 0x0121, 0x0122, 0x0200, 0x0201, 0x0202, 0x0203,
   0x0204, 0x0205, 0x0206, 0x0208, 0x0209, 0x0140, 0x0141, 0x0142, 0x0143]

/-- A record of a mailbox that the partner has not acknowledged (Table 11.10). -/
def mboxHeld (s : State) (f : Nat) : Bool :=
  heldBy s (fun r => match r with
    | .mbSeq g _ _ => g == f
    | .config g _ => g == f
    | _ => false)

/-- The numbered reply to a consumed request (R435, R436, R490): it is logged, its records are mirrored, and in SYNCED it
leaves once they are acknowledged. -/
def numberedReply (s : State) (f : Nat) (msg : List Byte) (rep : Rep) : State :=
  let m := mboxOf s f
  let d := nextSeqNo m.d
  let b := replyBytes msg rep d m.l false
  let entry := sliceBytes b 0 88 ++ leBytes 4 (fieldAt msg 8 4)
  let s := modMbox s f (fun m => { m with d := d, resp := b, exec := false, log := (m.log ++ [entry]).drop (m.log.length - 255) })
  let body := msg.take (32 + fieldAt msg 2 2)
  let s := if rep.status = 0 && mirroredOps.contains (fieldAt msg 0 2) then
      mirror { s with mgmt.applied := s.mgmt.applied ++ [(f, body)] } (.config f body)
    else s
  let s := mirror s (.mbSeq f m.l d)
  if mboxHeld s f then modMbox s f (fun m => { m with respHeld := true }) else deliverReply s f

/-- The logged reply to request L is sent again, with REPEATED set (Table 15.4): what the log keeps of it. -/
def repeatReply (s : State) (f : Nat) (msg : List Byte) : State :=
  let m := mboxOf s f
  match m.log.find? (fun e => fieldAt e 88 4 == m.l) with
  | none => unnumberedReply s f msg (badRep rSeqError)
  | some e =>
    let n := 32 + min 56 (fieldAt e 2 2)
    let b := e.take 6 ++ leBytes 2 (fieldAt e 6 2 ||| 32) ++ (e.drop 8).take (n - 8)
    deliverReply (modMbox s f (fun m => { m with resp := b })) f

/-! ### Authentication (R439 to R441) -/

/-- A key slot. -/
def keySlot (s : State) (k : Nat) : KeySlot := alGet {} s.mgmt.keys k

/-- The device is unowned (R441). -/
def unowned (s : State) : Bool := (keySlot s 0).key.isNone

/-- An authentication failure of a slot (R440): sixteen within 60 s lock it. -/
def authFailure (s : State) (k : Nat) : State :=
  let x := keySlot s k
  let fails := x.fails.filter (fun t => decide (s.time < t + 6000000000)) ++ [s.time]
  let lock := decide (16 ≤ fails.length)
  let s := { s with mgmt.keys := alPut s.mgmt.keys k { x with fails := fails, locked := x.locked || lock } }
  let s := raisePfSf s gMB 1 none
  if lock then raisePfSf s gMB 2 none else s

/-- Slot that FLAGS names. -/
def Req.slot (r : Req) : Nat := r.flags / 2 % 8

/-- CRITICAL: a trailer is present. -/
def Req.critical (r : Req) : Bool := bit r.flags 0

/-- The checks of a critical command (R438, row 3): a reply when one fails. A counter that is accepted stays consumed. -/
def authCheck (s : State) (r : Req) (perm : Nat) : Option Rep × State :=
  if unowned s && r.op != 0x0403 then (none, s)
  else if !r.critical then (some (badRep rAuthRequired), s)
  else
    let k := r.slot
    let x := keySlot s k
    let n := 32 + r.pay.length
    let body := (r.msg.take (n + 8)).map BitVec.toNat
    let counter := fieldAt r.msg n 8
    if x.locked then (some (badRep rSlotLocked), s)
    else if k != 0 && (!bit x.mask perm || r.op = 0x0400) then (some (badRep rNotPermitted), s)
    else
      match x.key with
      | none => (some (badRep rAuthFailed), authFailure s k)
      | some key =>
        if aesCmac (key.map BitVec.toNat) body != ((r.msg.drop (n + 16)).take 16).map BitVec.toNat then
          (some (badRep rAuthFailed), authFailure s k)
        else if counter ≤ x.counter then (some (badRep rReplay), authFailure s k)
        else (none, { s with mgmt.keys := alPut s.mgmt.keys k { x with counter := counter } })

/-! ### The checks of R438 -/

/-- Whether a sender may send an opcode (R442): the service function and the board path send what Any and PF name. -/
def senderOk (f : Nat) : Sender → Bool
  | .any => true
  | .own => decide (f < serviceFn)
  | .ownOrPf => decide (f < serviceFn)
  | .pf => f == pf || f == serviceFn || f == boardFn

/-- A reserved byte of the payload, the header or the trailer is set, or CRITICAL stands on an opcode that is not critical
(R438, R576). -/
def reservedSet (r : Req) (i : OpInfo) : Bool :=
  (List.range r.pay.length).any (fun k => r.pay.getD k 0 != 0 && !(i.named.any (fun x => decide (x.1 ≤ k) && decide (k ≤ x.2)))) ||
  decide (16 ≤ r.flags) || ((r.msg.drop 16).take 16).any (· != 0) || (r.critical && i.perm.isNone) ||
  (r.critical && ((r.msg.drop (40 + r.pay.length)).take 8).any (· != 0))

/-- The payload length of a request is wrong, or the message exceeds 16 KiB (R438, R576). -/
def lengthBad (r : Req) (i : OpInfo) : Bool :=
  decide (16384 < 32 + r.pay.length + (if r.critical then 32 else 0)) ||
  (match i.len with
   | some n => r.pay.length != n
   | none =>
     if r.op = 0x0302 then r.pay.length != 8 + 8 * r.f 0 2
     else decide (r.pay.length < 4) || decide (16320 < r.pay.length))

/-- Opcodes that a FAILED package still answers (R479). -/
def failedOps : List Nat := [0x0002, 0x0003, 0x0001, 0x0004, 0x0320, 0x0402, 0x0311, 0x0312]

/-- The checks of a consumed request before it is carried out (R438, R479). -/
def checkReq (s : State) (r : Req) : Option Rep × State :=
  match opInfo r.op with
  | none => (some (badRep rBadOpcode), s)
  | some i =>
    if s.ras.failed && !failedOps.contains r.op then (some (badRep rState), s)
    else if lengthBad r i then (some (badRep rBadLength), s)
    else if !senderOk r.fn i.who then (some (badRep rNotPermitted), s)
    else
      let (bad, s) := match i.perm with
        | some p => authCheck s r p
        | none => (none, s)
      match bad with
      | some x => (some x, s)
      | none =>
        if (match i.unit with | some u => !bit s.units u | none => false) then (some { status := 6 }, s)
        else if reservedSet r i then (some (badRep rBadField), s)
        else (none, s)

/-! ### Serving a request -/

/-- The parsed request of a mailbox. -/
def reqOf (f : Nat) (msg : List Byte) : Req :=
  let op := fieldAt msg 0 2
  { fn := f, op := op, tenant := fieldAt msg 4 2, flags := fieldAt msg 6 2, pay := (msg.drop 32).take (fieldAt msg 2 2),
    msg := msg }

/-- Take a request out of its mailbox. -/
def takeRequest (s : State) (f : Nat) : State :=
  let s := { s with mgmt.lastServed := f }
  if f = boardFn then { s with mgmt.mctp := s.mgmt.mctp.drop 1 } else modMbox s f (fun m => { m with reqPending := false })

/-- The SYNC fields (Table 15.7). -/
def syncFields (m : Mbox) : List Byte :=
  leBytes 4 m.l ++ leBytes 4 m.d ++ leBytes 4 m.hostAcked ++
  leBytes 4 (match m.log with | [] => 0 | e :: _ => fieldAt e 8 4) ++ leBytes 2 m.log.length ++ leBytes 6 0

/-- Handle the request of a mailbox by Table 15.4; a consumed one is checked and carried out by `h`. -/
def handleMsg (s : State) (f : Nat) (msg : List Byte) (h : State → Req → Done × State) : State :=
  let r := reqOf f msg
  let m := mboxOf s f
  let seq := fieldAt msg 8 4
  let s1 := takeRequest s f
  if r.op = 0x0002 then
    unnumberedReply s1 f msg (match checkReq s1 r with | (some x, _) => x | (none, _) => okRep (syncFields m))
  else if seq = nextSeqNo m.l then
    let s2 := modMbox s1 f (fun m => { m with l := seq, hostAcked := fieldAt msg 12 4, copy := msg })
    match checkReq s2 r with
    | (some rep, s3) => numberedReply s3 f msg rep
    | (none, s3) =>
      match h s3 r with
      | (.rep rep, s4) => numberedReply s4 f msg rep
      | (.later, s4) => mirror (modMbox s4 f (fun m => { m with exec := true })) (.mbSeq f seq m.d)
      | (.wait, s4) =>
        let s3 := { s3 with host := s4.host, freeCtr := s4.freeCtr, mgmt.retry := some f }
        mirror (modMbox s3 f (fun m => { m with exec := true })) (.mbSeq f seq m.d)
  else if seq = m.l && m.l != 0 then repeatReply s1 f msg
  else unnumberedReply s1 f msg (badRep rSeqError)

/-- SPDM request codes that the device supports (R444): GET_VERSION, GET_CAPABILITIES, NEGOTIATE_ALGORITHMS, GET_DIGESTS,
GET_CERTIFICATE, CHALLENGE, GET_MEASUREMENTS, as DSP0274 numbers them. -/
def spdmCodes : List Nat := [0x84, 0xE1, 0xE3, 0x81, 0x82, 0x83, 0xE0]

/-- SPDM request code of the request that a mailbox holds, if it holds one. -/
def spdmCode (s : State) (f : Nat) : Option Nat :=
  let msg := mboxMsg s f
  if f = boardFn && boardSpdm s then some (fieldAt msg 1 1)
  else if fieldAt msg 0 2 = 0x0402 then some (fieldAt msg 33 1)
  else none

/-- The SPDM ERROR response UnsupportedRequest to a request (R444): version 1.3, code 0x7F, error 0x07, the request's code. -/
def spdmError (code : Nat) : List Byte := [0x13, 0x7F, 0x07] ++ leBytes 1 code

/-- Answer an SPDM request of a mailbox: within a reply, or as an MCTP message of type 5 (R431, R444). -/
def answerSpdm (s : State) (f : Nat) (resp : State → Nat → List Byte → List Byte × State) : State :=
  let msg := mboxMsg s f
  if f = boardFn && boardSpdm s then
    let req := ((s.mgmt.mctp.head?).map (·.2)).getD []
    let (b, s) := resp (takeRequest s f) f req
    emit s (.mctp (0x05 :: b))
  else handleMsg s f msg (fun s r => let (b, s) := resp s f r.pay; (.rep (okRep b), s))

/-- An SPDM request asks for what Table 15.11 does not list: a certificate slot other than 0 of GET_CERTIFICATE or CHALLENGE,
or a measurement beyond index 5 (0 asks for their number, 0xFF for all). -/
def spdmBeyond (code : Nat) (req : List Byte) : Bool :=
  ((code = 0x82 || code = 0x83) && fieldAt req 2 1 % 16 != 0) ||
  (code = 0xE0 && decide (5 < fieldAt req 3 1) && fieldAt req 3 1 != 0xFF)

/-- A request that no row of the command table carries out: an unassigned opcode, or an SPDM request outside Table 15.11. -/
def plainRequest (s : State) (f : Nat) : Bool :=
  match spdmCode s f with
  | some c => !spdmCodes.contains c
  | none => (opInfo (fieldAt (mboxMsg s f) 0 2)).isNone

/-- Answer the requests due that no command of the table carries out, in turn. -/
def answerPlain : (fuel : Nat) → State → State
  | 0, s => s
  | fuel + 1, s =>
    match dueMbox s with
    | none => s
    | some f =>
      if !plainRequest s f then s
      else
        match spdmCode s f with
        | some c => answerPlain fuel (answerSpdm s f (fun s _ _ => (spdmError c, s)))
        | none => answerPlain fuel (handleMsg s f (mboxMsg s f) (fun s _ => (.rep (badRep rBadOpcode), s)))

/-- Answer the requests due that no command of the table carries out. -/
def settleMail (s : State) : State := answerPlain 1100 s

/-- Carry on the consumed request of mailbox `f`, which waits for a translation, by the copy kept of it (R430): it stays
consumed, and every later request waits for it (R429). -/
def resumeMsg (s : State) (f : Nat) (h : State → Req → Done × State) : State :=
  let msg := (mboxOf s f).copy
  match h s (reqOf f msg) with
  | (.rep rep, s1) => settleMail (numberedReply { s1 with mgmt.retry := none } f msg rep)
  | (.later, s1) => { s1 with mgmt.retry := none }
  | (.wait, s1) => { s with host := s1.host, freeCtr := s1.freeCtr }

/-- Serve the request that is being carried out, or else the one that is due, when it has this opcode. -/
def serveOp (op : Nat) (h : State → Req → Done × State) (s : State) : State :=
  match s.mgmt.retry with
  | some f => if s.pm.ready && fieldAt (mboxOf s f).copy 0 2 = op then resumeMsg s f h else s
  | none =>
    match dueMbox s with
    | none => s
    | some f =>
      if (f = boardFn && boardSpdm s) || fieldAt (mboxMsg s f) 0 2 != op then s
      else settleMail (handleMsg s f (mboxMsg s f) h)

/-- Serve the SPDM request that is due, when it has this code. -/
def serveSpdm (code : Nat) (resp : State → Nat → List Byte → List Byte × State) (s : State) : State :=
  match dueMbox s with
  | none => s
  | some f => if spdmCode s f = some code then settleMail (answerSpdm s f resp) else s

/-- The reply to a request that was being carried out, with what its mailbox keeps of it (R430); a mailbox that a
function-level reset has cleared since gets none (R435), and the controller goes on. -/
def lateReply (s : State) (f : Nat) (rep : Rep) : State :=
  if (mboxOf s f).exec then
    settleMail (numberedReply { s with mgmt.busy := none, mgmt.retry := none } f (mboxOf s f).copy rep)
  else if s.mgmt.busy = some f then settleMail { s with mgmt.busy := none }
  else s

/-- The reply of mailbox `f` that has not left yet becomes FAULT with MGMT_FAILOVER: its number and its place in the log
stay (R430). -/
def failHeld (s : State) (f : Nat) : State :=
  modMbox s f (fun m =>
    let b := replyBytes m.copy (badRep rFailover) m.d m.l false
    { m with resp := b, log := m.log.dropLast ++ [sliceBytes b 0 88 ++ leBytes 4 (fieldAt m.copy 8 4)] })

end Sys2Proof.Machine
end

