-- ==== Sys2Proof/Machine/TwinOps.lean ====
section
/-! DEFINITION. Named operations of twin operation (R337, R338, R487 to R491): release of what mirror records hold back,
degradation, resending, the snapshot, the end of twin mode. -/

namespace Sys2Proof.Machine

/-! ### Held-back effects (Table 11.10) -/

/-- A held reply leaves once no record of its mailbox is outstanding. -/
def releaseReply (s : State) (f : Nat) : State :=
  if (mboxOf s f).respHeld && !mboxHeld s f then deliverReply s f else s

/-- The effect that an acknowledged record held back in SYNCED. -/
def releaseRec (s : State) (r : Mirror) : State :=
  match r with
  | .ringEntry _ _ _ _ _ => s
  | .nodeDone _ _ _ _ node _ _ _ => modNode s node (fun n => { n with mirrored := true })
  | .flagSet f v => wakeWaiters s f v
  | .mbSeq f _ _ => releaseReply s f
  | .config f _ => releaseReply s f

/-- The primary stops holding back: every effect is released in order. -/
def releaseAll (s : State) (st : TwinState) : State :=
  let held := if holdsBack s then s.twin.sent else []
  let s := { s with twin.st := st, twin.sent := [] }
  held.foldl (fun s x => releaseRec s x.r) s

/-- Send a message of the pair on each twin port that is UP. -/
def tellTwin (s : State) (b : List Byte) : State :=
  ((Config.twinPorts s.variant).filter (fun p => (portOf s p).st == .up)).foldl (fun s p =>
    sendOn s p { type := 0xC, vc := 2, src := s.selfId.getD 0, dst := s.twin.peer, body := b }) s

/-- A pair is formed or forming. -/
def paired (s : State) : Bool := s.twin.st == .attaching || s.twin.st == .synced

/-- A twin event (Table 17.2) in every function; in strict isolation mode no virtual function sees it (R477). -/
def raiseTwin (s : State) (bitN : Nat) : State :=
  if s.sched.strict then raisePfSf s gRAS bitN none else raiseAll s gRAS bitN none

/-- The pair becomes DEGRADED (R491): it mirrors nothing and holds back nothing; TWIN_DEGRADED is raised here, and in the
partner where it can be reached. -/
def degradeTwin (s : State) (tell : Bool) : State :=
  if s.twin.st != .synced then s
  else
    let s := raiseTwin (releaseAll s .degraded) 9
    settleMail (if tell then tellTwin s degradedBytes else s)

/-- Records sent on a failing twin port and not acknowledged are sent again on the other (R337). -/
def resendRecords (s : State) (failing : Nat) : State :=
  if mirrors s then
    (s.twin.sent.filter (fun x => x.port == failing)).foldl (fun s x => sendRecord s x) s
  else s

/-! ### Ports of the pair -/

/-- Both twin ports are UP in twin mode. -/
def twinUp (s : State) : Bool :=
  (Config.twinPorts s.variant).all (fun p => (portOf s p).st == .up && (portOf s p).twin)

/-- A port goes to DOWN with its sessions empty. -/
def portDown (s : State) (p : Nat) : State :=
  modPort s p (fun x => { x with
    st := .down, width := 0, spareUsed := false, txSeq := 0, retry := [], rxSeq := 0, rxAsked := false, wait := [], inbox := [],
    credit := [], owed := [], attempts := 0, txData := 4095, asked := none, parts := [], margin := false })

/-- The twin ports return to DOWN as ordinary ports (R39, R495). -/
def twinPortsDown (s : State) : State :=
  (Config.twinPorts s.variant).foldl (fun s p => modPort (portDown s p) p (fun x => { x with twin := false })) s

/-- The twin ports start their bring-up in twin mode (R326, R489). -/
def twinPortsStart (s : State) : State :=
  (Config.twinPorts s.variant).foldl (fun s p =>
    modPort (portDown s p) p (fun x => { x with twin := true, st := .detect, since := s.time })) s

/-! ### The snapshot (R489) -/

/-- Records of the accepted entries of a function's queues and of its ring position. -/
def snapRings (s : State) : List Mirror :=
  (s.fe.queues.flatMap (fun q => q.2.entries.map (fun e =>
    Mirror.ringEntry q.2.fn q.1 (fnOf s q.2.fn).ring.head e.order
      (leBytes 2 q.1 ++ [1] ++ leBytes 1 (b2n e.irq) ++ leBytes 4 e.graphLen ++ leBytes 8 e.graphAddr ++ leBytes 8 e.jobTag ++ leBytes 8 0)))) ++
  (s.fns.filter (fun e => e.2.ring.configured)).map (fun e => Mirror.ringEntry e.1 0xFFFF e.2.ring.head 0 [])

/-- Records of the completed nodes of the running jobs. -/
def snapNodes (s : State) : List Mirror :=
  s.fe.jobs.flatMap (fun j => j.2.doneNodes.reverse.map (fun i =>
    let prod := match alFind s.fe.queues j.2.queue with
      | some q => q.prod + q.log.length
      | none => 0
    Mirror.nodeDone j.2.queue j.2.entry.order i (if j.2.okNodes.contains i then 0 else statusCode (jobStatus j.2)) 0xFFFFFFFF prod
      false []))

/-- The records of a snapshot: configuration, flags, ring positions with accepted entries, completed nodes, mailbox counts. -/
def snapshot (s : State) : List Mirror :=
  s.mgmt.applied.map (fun e => Mirror.config e.1 e.2) ++ s.fe.flags.map (fun e => Mirror.flagSet e.1 e.2) ++ snapRings s ++
  snapNodes s ++ s.mgmt.mboxes.map (fun e => Mirror.mbSeq e.1 e.2.l e.2.d)

/-- The primary sends the snapshot once its twin ports are UP. -/
def sendSnapshot (s : State) : State :=
  let s := (snapshot s).foldl mirror s
  tellTwin { s with twin.snapEnd := some s.twin.nextSeq } (snapEndBytes s.twin.nextSeq)

/-- Twin state returns to OFF, what was held back is released. -/
def twinOff (s : State) : State :=
  let s := releaseAll s .off
  { twinPortsDown s with twin := {} }

/-- The partner fits (R487): it has the same CAP_ID, and the secondary has at least as many virtual functions enabled as the
primary. -/
def pairFits (s : State) : Bool :=
  (Config.twinPorts s.variant).all (fun p => match (portOf s p).partner with
    | some x =>
      let mine := (liveFns s).length - 1
      x.capId == capId s.variant && (if s.twin.role = 1 then decide (x.vfs ≤ mine) else decide (mine ≤ x.vfs))
    | none => false)

/-- The reply to an attach that fails. -/
def failAttach (s : State) : State :=
  match s.mgmt.busy with
  | some f => lateReply s f (badRep rState)
  | none => s

/-- What an attach does once both twin ports are UP: the secondary replies, with reason STATE where the pair breaks R487, and a
primary whose partner fits sends its snapshot (R489). -/
def attachProgress (s : State) : State :=
  if s.twin.st != .attaching || !twinUp s then s
  else
    let s := { s with twin.peer := (portOf s ((Config.twinPorts s.variant).getD 0 4)).peer }
    if s.twin.role = 1 then
      match s.mgmt.busy with
      | some f => if pairFits s then lateReply s f (okRep []) else failAttach (twinOff s)
      | none => s
    else if s.twin.snapEnd.isNone && pairFits s then sendSnapshot s
    else s

end Sys2Proof.Machine
end

