-- ==== Sys2Proof/Machine/Ports.lean ====
section
/-! DEFINITION. The die-to-die links (R312 to R315, R482) and the Springbok ports: bring-up, retraining, flits (R316 to
R327). -/

namespace Sys2Proof.Machine

/-! ### Die-to-die links -/

/-- A die-to-die link. -/
def d2dOf (s : State) (l : Nat) : D2dLink := alGet { lo := 0, portLo := 0, hi := 0, inUse := false } s.links.d2d l

/-- Change a die-to-die link. -/
def modD2d (s : State) (l : Nat) (g : D2dLink → D2dLink) : State :=
  { s with links.d2d := alPut s.links.d2d l (g (d2dOf s l)) }

/-- The resource of a die-to-die link (Table 17.3). -/
def d2dRes (l : Nat) : Resource := { kind := 8, place := l, detail := 0 }

/-- The flits that a replay request has sent again (R313, R321): the one expected, and those behind it that were discarded. -/
def d2dAgain (x : D2dLink) : List (Nat × List Byte × Nat) :=
  if x.retry.any (fun r => r.1 == x.rxSeq) then x.retry else (x.rxSeq, [], 0) :: x.retry

/-- Replays that the most often replayed of them has had. -/
def d2dReplays (x : D2dLink) : Nat := ((d2dAgain x).map (·.2.2)).foldl max 0

/-- A replay request names the flit expected (R313): every unacknowledged flit from it on is sent again, counted and charged to
the link; the ninth replay of one flit makes the link retrain instead (R482). -/
def d2dReplay (s : State) (l : Nat) : State :=
  let x := d2dOf s l
  let again := d2dAgain x
  if 8 ≤ d2dReplays x then modD2d s l (fun x => { x with up := false, retry := [], rxAsked := false })
  else
    let s := modD2d s l (fun x => { x with
      rxAsked := true, replayed := min (x.replayed + again.length) (2 ^ 21 - 1), retry := again.map (fun r => (r.1, r.2.1, r.2.2 + 1)) })
    correctedErr (emit s (.d2d l 2 [x.rxSeq])) (some (d2dRes l)) again.length

/-- A whole flit that is discarded behind a replay request is sent again with it: it lies in the 64 flits of the retry buffer. -/
def d2dBehind (s : State) (l seq : Nat) (body : List Byte) : State :=
  let x := d2dOf s l
  if 64 ≤ (seq + 1024 - x.rxSeq) % 1024 || x.retry.any (fun r => r.1 == seq) then s
  else correctedErr (modD2d s l (fun x => { x with
    replayed := min (x.replayed + 1) (2 ^ 21 - 1), retry := x.retry ++ [(seq, body, 1)] })) (some (d2dRes l)) 1

/-- The 256 bytes of a fabric flit at the receiver of a link in service (R313, R314): one that is whole and the one expected is
delivered; the first that fails its CRC or comes out of order is discarded with a replay request, and until the flit expected
arrives whole every later one is discarded without another. -/
def d2dTake (s : State) (l : Nat) (flit : List Byte) : State :=
  let x := d2dOf s l
  let seq := fieldAt flit 0 2 % 1024
  let body := (flit.drop 2).take 250
  if crcHolds flit && seq == x.rxSeq then
    emit (modD2d s l (fun x => { x with
      rxSeq := (x.rxSeq + 1) % 1024, rxAsked := false, retry := x.retry.filter (fun r => r.1 != seq), inbox := x.inbox ++ [body] }))
      (.d2d l 1 [x.rxSeq, fieldAt flit 0 2 / 1024])
  else if x.rxAsked then (if crcHolds flit then d2dBehind s l seq body else s)
  else d2dReplay s l

/-- D2D_FLIT_RECEIVE (R313, R314): a fabric flit arrives (see `d2dTake`); flits wait while the link retrains (R482). -/
def execD2dFlitReceive (link seq ack : Nat) (body : List Byte) (crc : Nat) (s : State) : Host.Outcome State Fault Refusal :=
  completes s (
    let x := d2dOf s link
    let flit := rxFabric seq ack body crc
    if !x.inUse || body.length != 250 then s
    else if !x.up then modD2d s link (fun x => { x with wait := x.wait ++ [flit] })
    else d2dTake s link flit)

/-- D2D_RETRAIN_FAIL (R482): three failures within 1 ms are fatal, since the paths of R36 are fixed until the next boot. -/
def execD2dRetrainFail (link : Nat) (s : State) : Host.Outcome State Fault Refusal :=
  completes s (
    let x := d2dOf s link
    if !x.inUse || x.up then s
    else
      let fails := x.fails.filter (fun t => decide (s.time < t + 100000)) ++ [s.time]
      let s := modD2d s link (fun x => { x with fails := fails })
      if 3 ≤ fails.length then fatalErr s (some (d2dRes link)) else s)

/-- D2D_RETRAIN_DONE (R482): the link is back and the messages that waited on it go on in order. -/
def execD2dRetrainDone (link : Nat) (s : State) : Host.Outcome State Fault Refusal :=
  completes s (
    let x := d2dOf s link
    if !x.inUse || x.up then s
    else x.wait.foldl (fun s f => if (d2dOf s link).up then d2dTake s link f else modD2d s link (fun x => { x with wait := x.wait ++ [f] }))
      (modD2d s link (fun x => { x with up := true, wait := [], rxAsked := false })))

/-! ### Lanes (R317) -/

/-- Lanes of a port that the lasting-fault list names. -/
def listedLanes (s : State) (p : Nat) : List Nat :=
  (s.mgmt.faults.filter (fun e => e.kind == 9 && e.place == p)).map (fun e => e.detail % 16)

/-- Physical lanes that the port uses: those of 0 to 8 that have not failed. -/
def usableLanes (s : State) (p : Nat) : List Nat :=
  (List.range 9).filter (fun l => !((portOf s p).failedLanes ++ listedLanes s p).contains l)

/-- Map the lanes (R317): width 8 with at most one lane skipped, width 4 on the lowest four with more; none when fewer than
four are left. Lane 8 is the spare. -/
def mapLanes (s : State) (p : Nat) : Option (Nat × Bool) :=
  let u := usableLanes s p
  if 8 ≤ u.length then some (8, decide (u.length = 8) && u.contains 8)
  else if 4 ≤ u.length then some (4, (u.take 4).contains 8)
  else none

/-! ### Bring-up (R325, R326) -/

/-- A port's state, with the part of the bring-up that RETRAIN repeats. -/
def portStep (x : Port) : PortState := if x.st = .retrain then x.sub else x.st

/-- Move a port's bring-up on. -/
def portGo (x : Port) (y : PortState) : Port := if x.st = .retrain then { x with sub := y } else { x with st := y }

/-- PORT_DETECT_DONE (R325): the lanes on which a receiver was detected; four or more lead to TRAIN. -/
def execPortDetectDone (port : Nat) (lanes : List Nat) (s : State) : Host.Outcome State Fault Refusal :=
  completes s (
    let seen := (List.range 9).filter (fun l => lanes.contains l)
    if (portOf s port).st != .detect || seen.length < 4 then s
    else modPort s port (fun x => { x with st := .train, failedLanes := (List.range 9).filter (fun l => !seen.contains l) }))

/-- PORT_DETECT_TIMEOUT (R325): after 10 ms with fewer lanes, DOWN. -/
def execPortDetectTimeout (port : Nat) (s : State) : Host.Outcome State Fault Refusal :=
  completes s (
    if (portOf s port).st = .detect && decide ((portOf s port).since + 1000000 ≤ s.time) then portDown s port else s)

/-- PORT_TRAIN_DONE (R325): failing lanes are marked failed. -/
def execPortTrainDone (port : Nat) (failed : List Nat) (s : State) : Host.Outcome State Fault Refusal :=
  completes s (
    if portStep (portOf s port) != .train then s
    else modPort s port (fun x => { portGo x .align with
      failedLanes := (List.range 9).filter (fun l => x.failedLanes.contains l || failed.contains l) }))

/-- PORT_ALIGN_DONE (R317, R325): the lanes are mapped, or no width is possible and the port goes DOWN. -/
def execPortAlignDone (port : Nat) (s : State) : Host.Outcome State Fault Refusal :=
  completes s (
    if portStep (portOf s port) != .align then s
    else
      match mapLanes s port with
      | none => portDown s port
      | some (w, sp) =>
        let use := usableLanes s port
        let s := modPort s port (fun x => { portGo x .exchange with
          width := w, spareUsed := sp, failedLanes := (List.range 9).filter (fun l => !use.contains l), rxFlits := 0, rxWire := 0, rxBad := false,
          txAcc := 0, txHeld := 0, txWords := 0, laneErrs := [] })
        if sp || w = 4 then raiseEv s pf gLNK 4 none else s)

/-- The identifier that the package announces: one named by LINK_CONFIG is applied at the first bring-up after it (R326). -/
def announcedId (s : State) : Option Nat := s.links.newId.orElse (fun _ => s.selfId)

/-- Send what waits on every port that is UP. -/
def pumpPort (s : State) (p : Nat) : State := pump (portOf s p).wait.length s p

/-- PORT_EXCHANGE_DONE (R325, R326): the partner's identifier, port and twin role; a conflict sends the port to DOWN. -/
def execPortExchangeDone (port peer peerPort : Nat) (peerTwin : Option TwinInfo) (credit : Nat) (s : State) :
    Host.Outcome State Fault Refusal :=
  completes s (
    let x := portOf s port
    if portStep x != .exchange then s
    else if announcedId s = some peer then raiseEv (portDown s port) pf gLNK 5 none
    else if x.twin != peerTwin.isSome || (x.twin && !(Config.twinPorts s.variant).contains peerPort) then
      raiseEv (portDown s port) pf gLNK 7 none
    else
      let s := { s with selfId := announcedId s, links.newId := none }
      let fresh := x.st != .retrain
      let s := modPort s port (fun x => { x with
        st := .up, sub := .train, peer := peer, peerPort := peerPort, partner := peerTwin, attempts := 0
        credit := if fresh then (List.range 12).map (fun k => (k, credit)) else x.credit })
      attachProgress (pumpPort s port))

/-! ### Retraining (R322, R327) -/

/-- A port enters RETRAIN: buffers and credits are kept (Table 11.7). -/
def enterRetrain (s : State) (p : Nat) : State :=
  let s := modPort s p (fun x => { x with
    st := .retrain, sub := .train, retrains := min 511 (x.retrains + 1), attempts := 1, since := s.time, failedLanes := [] })
  let s := raiseEv s pf gLNK 3 none
  if (portOf s p).twin then resendRecords s p else s

/-- PORT_RETRAIN_ENTER (R322): a flit that has been replayed 8 times without being acknowledged. -/
def execPortRetrainEnter (port : Nat) (s : State) : Host.Outcome State Fault Refusal :=
  completes s (
    let x := portOf s port
    if x.st = .up && x.retry.any (fun f => decide (8 ≤ f.replays)) then
      enterRetrain (modPort s port (fun x => { x with retry := x.retry.map (fun f => { f with replays := 0 }) })) port
    else s)

/-- A request of this package fails at its source with REMOTE_TIMEOUT (R327). -/
def failRequest (s : State) (m : LinkMsg) : State :=
  if some m.src != s.selfId || m.vc != 0 then s
  else
    match s.links.txns.find? (fun t => t.tag == m.tag && t.tenant == m.tenant && (match t.target with
      | .remote pk a => pk == m.dst && a / 128 == m.line
      | _ => false)) with
    | some t => answerTxn s t 5 (some .remoteTimeout) 0
    | none => s

/-- A port becomes DEAD (R327, R491): its unacknowledged requests fail, it leaves every route-table entry, LINK_DOWN is
raised. -/
def portDead (s : State) (p : Nat) : State :=
  let x := portOf s p
  let ms := x.retry.flatMap (·.msgs) ++ x.wait
  let s := modPort s p (fun y => { y with
    st := .dead, width := 0, spareUsed := false, retry := [], wait := [], credit := [], owed := [], txSeq := 0, rxSeq := 0, rxAsked := false,
    txData := 4095, asked := none, parts := [] })
  let cut (r : AL Nat) : AL Nat := r.map (fun e => (e.1, e.2 - (e.2 &&& 1 <<< p)))
  let s := ms.foldl failRequest { s with links.routes := cut s.links.routes, links.newRoutes := s.links.newRoutes.map cut }
  let s := raiseEv s pf gLNK 2 none
  if !x.twin then s
  else if (Config.twinPorts s.variant).all (fun q => (portOf s q).st == .dead) then
    degradeTwin { s with twin.deadSynced := s.twin.st == .synced } false
  else resendRecords s p

/-- PORT_RETRAIN_TIMEOUT (R325, R327): an attempt that has not reached UP within 500 µs; after three, DEAD. -/
def execPortRetrainTimeout (port : Nat) (s : State) : Host.Outcome State Fault Refusal :=
  completes s (
    let x := portOf s port
    if x.st != .retrain || s.time < x.since + 50000 then s
    else if x.attempts < 3 then
      modPort s port (fun x => { x with sub := .train, attempts := x.attempts + 1, since := s.time, failedLanes := [] })
    else portDead s port)

/-! ### Flits (R318 to R323) -/

/-- The resource of a lane (Table 17.3). -/
def laneRes (p lane : Nat) : Resource := { kind := 9, place := p, detail := lane }

/-- The physical lane of a logical lane (R317): failed lanes are skipped, and the spare lane, 8, fills the first gap. -/
def physLane (x : Port) (l : Nat) : Nat :=
  if x.width = 8 then (if x.failedLanes.contains l then 8 else l)
  else ((List.range 9).filter (fun k => !x.failedLanes.contains k)).getD l 0

/-- Symbols of a codeword that the decoder corrected are charged to the lanes that carried them (R318, R319). -/
def chargeLanes (s : State) (p : Nat) (syms : List Nat) : State :=
  let x := portOf s p
  (List.range 9).foldl (fun s lane =>
    let n := (syms.filter (fun k => physLane x (symLane x.width k) == lane)).length
    if n = 0 then s
    else
      let s := modPort s p (fun x => { x with laneErrs := alMod 0 x.laneErrs lane (· + n) })
      correctedErr (ctrAdd s (blkKey 3 p) 6 n none) (some (laneRes p lane)) n) s

/-- At each marker codeword the port measures its lanes' error ratios over the 1,024 codewords that end there, a corrected
symbol counting as one bit error; one above 2 × 10⁻⁴ sets the margin warning (Table 11.2; log entry 150). -/
def measureLanes (s : State) (p : Nat) : State :=
  modPort s p (fun x => { x with
    laneErrs := [], margin := x.laneErrs.any (fun e => decide (1024 * (5440 / max 1 x.width) < 5000 * e.2)) })

/-- Bits of a Springbok flit (R320). -/
def flitBits : Nat := 2048

/-- Codewords of the wire that the receiver decodes with its next flit: those up to the last that carries bits of it (R318). -/
def newWords (x : Port) : Nat := wireOf (flitWords flitBits x.rxFlits).2 + 1 - x.rxWire

/-- The next flit is taken from the stream of codewords (R318, R319); `fec` names the symbols found wrong in each codeword
that this decodes. Up to 15 are corrected and charged; a codeword with more is discarded. Answers whether the flit overlaps a
discarded one. -/
def takeFlit (s : State) (p : Nat) (fec : List (List Nat)) : Bool × State :=
  let x := portOf s p
  let ws := (List.range (newWords x)).map (fun i => (x.rxWire + i, (fec.getD i []).dedup))
  let bad (e : Nat × List Nat) : Bool := decide (cwCorrects < e.2.length)
  let data := ws.filter (fun e => !isMarker e.1)
  let lost := data.any bad || (x.rxBad && decide (wireOf (flitWords flitBits x.rxFlits).1 < x.rxWire))
  let s := ws.foldl (fun s e =>
    let s := if bad e then ctrAdd s (blkKey 3 p) 7 1 none else chargeLanes s p e.2
    if isMarker e.1 then measureLanes s p else s) s
  (lost, modPort s p (fun x => { x with
    rxFlits := x.rxFlits + 1, rxWire := x.rxWire + ws.length, rxBad := (data.getLast?.map bad).getD x.rxBad }))

/-- Flits that an acknowledgement covers leave the retry buffer (R321). -/
def ackFlits (x : Port) (ack : Nat) : Port :=
  if x.retry.any (fun f => f.seq == ack) then
    { x with retry := ((x.retry.dropWhile (fun f => f.seq != ack)).drop 1) }
  else x

/-- A flit that fails, or comes out of order, is discarded; one replay request names the flit expected (R321). -/
def refuseFlit (s : State) (p : Nat) : State :=
  let x := portOf s p
  if x.rxAsked then s
  else
    let s := modPort s p (fun x => { x with rxAsked := true })
    putFlit (ctrAdd s (blkKey 3 p) 4 1 none) p x.txData x.rxSeq 2 [] []

/-- A flit was delivered: what waits is sent, and where nothing does, an idle flit carries the new ACK (R321). -/
def answerFlit (s : State) (p : Nat) : State :=
  let t := pumpPort s p
  if (portOf t p).txSeq = (portOf s p).txSeq then sendIdle t p else t

/-- FLIT_RECEIVE (R318 to R323): the 256 bytes of a flit, with the messages and credit returns that its body spells. The
codewords that carry it are decoded; then acknowledgement, and in-order delivery of messages and credits, or a replay request
when the CRC fails or a codeword was lost. KIND 1 carries only the acknowledgement; KIND 2 asks for a replay, which
REPLAY_REQUEST_RECEIVE begins. -/
def execFlitReceive (port seq ack kind : Nat) (rest : List Byte) (fec : List (List Nat)) (msgs : List LinkMsg)
    (credits : List (Nat × Nat)) (s : State) : Host.Outcome State Fault Refusal :=
  completes s (
    if (portOf s port).st != .up then s
    else
      let (lost, s) := takeFlit s port fec
      if !crcHolds (rxFlit seq ack kind rest) || lost then refuseFlit s port
      else if kind = 1 then pumpPort (modPort s port (fun x => ackFlits x ack)) port
      else if kind = 2 then modPort s port (fun x => { x with asked := some ack })
      else
        let x := portOf s port
        if seq != x.rxSeq then refuseFlit (modPort s port (fun x => ackFlits x ack)) port
        else
          let s := modPort s port (fun x =>
            { ackFlits x ack with
              rxSeq := (seq + 1) % 4096, rxAsked := false, inbox := x.inbox ++ msgs
              credit := credits.foldl (fun m c => alPut m c.1 (alGet 0 m c.1 + c.2)) x.credit })
          answerFlit (ctrAdd s (blkKey 3 port) 2 1 none) port)

/-- REPLAY_REQUEST_RECEIVE (R321, R322): the replay request that a flit of KIND 2 has brought is answered: every unacknowledged
flit from the named one on is sent again, in order, before any new flit; a flit that has been replayed 8 times makes the port
retrain instead (PORT_RETRAIN_ENTER). -/
def execReplayRequestReceive (port seq : Nat) (s : State) : Host.Outcome State Fault Refusal :=
  completes s (
    let x := portOf s port
    if x.st != .up || x.asked != some seq then s
    else if !(x.retry.any (fun f => f.seq == seq)) then modPort s port (fun x => { x with asked := none })
    else
      let old := x.retry.takeWhile (fun f => f.seq != seq)
      let again := x.retry.dropWhile (fun f => f.seq != seq)
      if again.any (fun f => decide (8 ≤ f.replays)) then s
      else
        let again := again.map (fun f => { f with replays := f.replays + 1 })
        let s := modPort s port (fun x => { x with retry := old ++ again, asked := none })
        let s := again.foldl (fun s f => putFlit s port f.seq (ackNow x) f.kind f.msgs f.credits) s
        pumpPort (ctrAdd s (blkKey 3 port) 5 again.length none) port)

end Sys2Proof.Machine
end

