-- ==== Sys2Proof/Machine/MapOps.lean ====
section
/-! DEFINITION. Named operations of tenant address spaces (R282 to R289): memory use, allocation and freeing of granules,
room in firmware sets. -/

namespace Sys2Proof.Machine

/-! ### Memory use (R285, R287) -/

/-- Level-1 and level-0 nodes that some pages need (R285). -/
def nodeCounts (ps : List Nat) : Nat × Nat :=
  (((ps.map (fun p => p / 2 ^ 23)).dedup).length, ((ps.map (fun p => p / 2 ^ 14)).dedup).length)

/-- Granules that the page table of some pages counts for: the root, one for a level-1 node, two for a level-0 node. -/
def tableUse (ps : List Nat) : Nat := let (a, b) := nodeCounts ps; 1 + a + 2 * b

/-- Granules of the table areas of a tenant's pools. -/
def poolUse (s : State) (tenant : Nat) : Nat :=
  ((s.pools.filter (fun e => e.2.owner == tenant)).map (fun e => ceilDiv (poolBytes e.2) 65536)).foldl (· + ·) 0

/-- A tenant's memory use in granules (R287). -/
def memUse (s : State) (tenant : Nat) : Nat :=
  (s.mem.grans.filter (fun e => granOwner e.2 == tenant)).length + poolUse s tenant +
  (if (alFind s.sched.tenants tenant).isSome then tableUse (pagesOf s tenant) else 0)

/-- MEM_QUOTA of a bound tenant. -/
def quotaOf (s : State) (tenant : Nat) : Nat := ((alFind s.sched.tenants tenant).map (·.memQuota)).getD 0

/-- OVER_QUOTA (Table 13.5): raised once while memory use exceeds the quota, until use falls below it. -/
def checkQuota (s : State) (tenant : Nat) : State :=
  match alFind s.sched.tenants tenant with
  | none => s
  | some t =>
    let u := memUse s tenant
    let set (s : State) (b : Bool) : State := { s with sched.tenants := alPut s.sched.tenants tenant { t with overQuota := b } }
    if t.memQuota < u && !t.overQuota then raiseEv (set s true) tenant gQOS 5 none
    else if u < t.memQuota && t.overQuota then set s false
    else s

/-! ### Room in firmware sets (R282, R373, R392, R412, R430) -/

/-- Size of a region's firmware set. -/
def firmSize (s : State) (r : Nat) : Nat :=
  ((s.mem.sets.find? (fun x => x.owner == .firmware r)).map (·.size)).getD 0

/-- Bytes in use in a region's firmware set: save areas, mailbox state areas, page tables, overflow logs, pools' tables. -/
def firmUse (s : State) (r : Nat) : Nat :=
  let save := 655360 * ((s.cores.filter (fun e => e.2.present && coreRegion e.1 == r)).length)
  let area := areaBytes * ((areaRegions s.variant).filter (· == r)).length
  let parts := (s.sched.parts.filter (fun e => partRegion e.2 == r)).map (·.1)
  let ts := (s.sched.tenants.filter (fun e => parts.contains e.2.part)).map (·.1)
  let tables := (ts.map (fun t => let (a, b) := nodeCounts (pagesOf s t); 4096 + 4096 * a + 131072 * b)).foldl (· + ·) 0
  let logs := 4096 * (s.fe.queues.filter (fun e => ts.contains e.2.fn)).length
  let pools := ((s.pools.filter (fun e => parts.contains e.1)).map (fun e => poolBytes e.2)).foldl (· + ·) 0
  save + area + tables + logs + pools

/-- Whether a state's firmware set of a tenant's partition holds what it must. -/
def firmFits (s : State) (tenant : Nat) : Bool :=
  match (alFind s.sched.tenants tenant).bind (fun t => alFind s.sched.parts t.part) with
  | some p => decide (firmUse s (partRegion p) ≤ firmSize s (partRegion p))
  | none => false

/-! ### Granules (R287) -/

/-- Sets that a partition's granules come from, lowest address first: its dedicated sets when it has any, otherwise the
SHARED sets. -/
def granSets (s : State) (part : Nat) : List ISet :=
  let own := s.mem.sets.filter (fun x => x.owner == .part part)
  let xs := if own.isEmpty then s.mem.sets.filter (fun x => x.owner == .shared) else own
  xs.mergeSort (fun a b => decide (a.base ≤ b.base))

/-- A granule is neither allocated nor retired. -/
def granFree (s : State) (g : Nat) : Bool := (alFind s.mem.grans g).isNone && (alFind s.mem.retired g).isNone

/-- The first `n` free granules from `g` to below `top`. -/
def freeFrom (s : State) : (fuel g top n : Nat) → List Nat
  | 0, _, _, _ => []
  | fuel + 1, g, top, n =>
    if n = 0 || top ≤ g then []
    else if granFree s g then g :: freeFrom s fuel (g + 1) top (n - 1)
    else freeFrom s fuel (g + 1) top n

/-- The `n` lowest free granules of some sets; none when they hold too few. -/
def findGranules (s : State) (xs : List ISet) (n : Nat) : Option (List Nat) :=
  let used := s.mem.grans.length + s.mem.retired.length
  if (xs.map (fun x => x.size / 65536)).foldl (· + ·) 0 < n then none
  else
    let gs := xs.foldl (fun (a : List Nat) x =>
      a ++ freeFrom s (used + n + 1) (x.base / 65536) ((x.base + x.size) / 65536) (n - a.length)) []
    if gs.length = n then some gs else none

/-- A physical range is written whole, without its caches' part: no line of it stays in a slice, a side buffer, an L1 or on
offer, and a load of it that is outstanding does not fill its L1. -/
def clearRange (s : State) (base n : Nat) : State :=
  let inside (pa : Nat) : Bool := decide (base ≤ pa) && decide (pa < base + n)
  let hit (t : Target) : Bool := match t with | .loc pa => inside pa | _ => false
  let s := (s.regions.map (·.1)).foldl (fun s r =>
    freeSides (modRegion s r (fun x => { x with lines := x.lines.filter (fun e => !inside e.2.pa) })) r (fun e => inside e.pa)) s
  { s with cores := alMap s.cores (fun _ c =>
      let x := c.exec
      { c with exec := { x with
          l1 := x.l1.filter (fun e => !hit e.2.target), offers := x.offers.filter (fun o => !hit o.target)
          loads := x.loads.map (fun l => if hit l.target then { l with nofill := true } else l) } }) }

/-- Zero a range of physical memory, with valid check bytes (R283): queued writes to it are void, and no cache holds a line of
it (`clearRange`). -/
def zeroRange (s : State) (base n : Nat) : State :=
  let s := clearRange s base n
  { s with
    mem.mem := cellZero s.mem.mem base n
    mem.poisoned := s.mem.poisoned.filter (fun x => decide (x < base / 64) || decide ((base + n) / 64 ≤ x))
    mem.ctls := alMap s.mem.ctls (fun _ c =>
      { c with writes := c.writes.filter (fun w => decide (w.pa < base) || decide (base + n ≤ w.pa))
               reads := c.reads.map (fun m => if base ≤ m.pa ∧ m.pa < base + n then { m with stale := true } else m) }) }

/-- Invalidate the lines of a physical range in every slice, without write-back, and free their side-buffer entries (R289). -/
def voidRange (s : State) (base n : Nat) : State :=
  let inside (pa : Nat) : Bool := decide (base ≤ pa) && decide (pa < base + n)
  (s.regions.map (·.1)).foldl (fun s r =>
    let ks := ((regionOf s r).lines.filter (fun e => inside e.2.pa)).map (·.1)
    freeSides (modRegion s r (fun x => ks.foldl (fun x k => dropWay x (k / 16) (k % 16)) x)) r (fun e => inside e.pa)) s

/-- Write back and invalidate the lines of a physical range in every slice (R283). -/
def cleanRange (s : State) (base n tenant : Nat) : State :=
  let inside (pa : Nat) : Bool := decide (base ≤ pa) && decide (pa < base + n)
  (s.regions.map (·.1)).foldl (fun s r =>
    let s := ((regionOf s r).lines.filter (fun e => inside e.2.pa)).foldl (fun s e =>
      modRegion (writeBack s tenant e.2) r (fun x => dropWay x (e.1 / 16) (e.1 % 16))) s
    freeSides s r (fun e => inside e.pa)) s

/-- The lines of a range have been written at their homes: the stamps of their sets advance (R252, R253). -/
def stampRange (s : State) (base n : Nat) : State :=
  { s with regions := (List.range (n / 128)).foldl (fun rs i =>
      match homeSlice s (base + 128 * i) with
      | some (r, set, _) => alMod {} rs r (fun x => bumpStamp x set)
      | none => rs) s.regions }

/-- Allocate granules, zeroed (R287). -/
def allocGranules (s : State) (gs : List Nat) (u : GranUse) : State :=
  gs.foldl (fun s g => { stampRange (zeroRange s (g * 65536) 65536) (g * 65536) 65536 with mem.grans := alPut s.mem.grans g u }) s

/-- Free granules: their lines leave the caches; pending ones are retired (R289, R305). -/
def releaseGranules (s : State) (gs : List Nat) : State :=
  gs.foldl (fun s g => freeGranule (voidRange s (g * 65536) 65536) g) s

/-! ### Unmapping (R289) -/

/-- Clear the L1 of every core that holds a block of a tenant. -/
def clearTenantL1 (s : State) (tenant : Nat) : State :=
  { s with cores := alMap s.cores (fun _ c =>
      if c.exec.blocks.any (fun b => b.2.task.tenant == tenant) then { c with exec := c.exec.noL1 } else c) }

/-- Unmap the pages of a tenant from number `p0` to below `p1`: pages unmapped, granules freed. -/
def unmapPages (s : State) (tenant p0 p1 : Nat) : Nat × Nat × State :=
  let hit (k : Nat) : Bool := k / 2 ^ 32 == tenant && decide (p0 ≤ k % 2 ^ 32) && decide (k % 2 ^ 32 < p1)
  let es := s.mem.pages.filter (fun e => hit e.1)
  let gs := (es.filter (fun e => e.2.kind == .local)).map (fun e => e.2.frame)
  let s := { s with mem.pages := s.mem.pages.filter (fun e => !hit e.1) }
  (es.length, gs.length, releaseGranules (clearTenantL1 (syncNodes s tenant) tenant) gs)

end Sys2Proof.Machine
end

