-- ==== Sys2Proof/Machine/Session.lean ====
section
/-! DEFINITION. The mailbox windows (R431, R432, R437), the failover of the management controller (R430), and the session and
discovery messages (Table 15.7, R443). -/

namespace Sys2Proof.Machine

/-! ### The window -/

/-- A function of the primary interface or the service function, which has a mailbox window. -/
def hasMbox (f : Nat) : Bool := decide (f ≤ serviceFn)

/-- Byte of a function's mailbox window in BAR4 (Table 15.1): the request buffer reads as it was last written, the response
buffer as the last reply stands in it, and the rest as 0. Only MB_SUBMIT writes the window, so writes to its last two parts
are ignored. -/
def readWindow (s : State) (fn addr : Nat) : Byte :=
  if !hasMbox fn then 0
  else if addr < 0x4000 then (mboxOf s fn).req.getD addr 0
  else if addr < 0x8000 then (mboxOf s fn).resp.getD (addr - 0x4000) 0
  else 0

/-- MB_SUBMIT (R432): the message is written from byte 0 of the request buffer and submitted; both are ignored while
REQ_PENDING reads 1. -/
def execMbSubmit (fn : Nat) (msg : List Byte) (posted : Posted) (s : State) : Host.Outcome State Fault Refusal :=
  let s := postHost s posted
  hostAccess s fn (
    if !hasMbox fn || (mboxOf s fn).reqPending then s
    else
      let msg := msg.take 16384
      settleMail (modMbox s fn (fun m => { m with req := msg ++ m.req.drop msg.length, reqPending := true })))

/-- A write to MB_CTRL (Table 15.14): RESYNC, RESP_ACK and SUBMIT of what the request buffer holds. -/
def mbCtrl (s : State) (fn : Nat) (submit ack resync : Bool) : State :=
  if !hasMbox fn then s
  else settleMail (modMbox s fn (fun m =>
    { m with reqPending := (m.reqPending && !resync) || submit, respValid := m.respValid && !ack && !resync }))

/-- MB_RESP_ACK (R432): RESP_VALID is cleared. -/
def execMbRespAck (fn : Nat) (s : State) : Host.Outcome State Fault Refusal := hostAccess s fn (mbCtrl s fn false true false)

/-- MB_RESYNC (R437): REQ_PENDING is cleared without consuming the request, and RESP_VALID is cleared. -/
def execMbResync (fn : Nat) (s : State) : Host.Outcome State Fault Refusal := hostAccess s fn (mbCtrl s fn false false true)

/-- The standby takes over (R430): it serves every mailbox; a request whose reply had not left is answered with FAULT. -/
def failover (s : State) : State :=
  if !s.pm.ready || s.mgmt.standby then s
  else
    let s := { s with mgmt.standby := true, images := alMap s.images (fun _ i => { i with waiter := none }) }
    let s := raiseAll s gMB 3 none
    let s := ((s.mgmt.mboxes.filter (fun e => e.2.respHeld)).map (·.1)).foldl failHeld s
    let open_ := (s.mgmt.mboxes.filter (fun e => e.2.exec)).map (·.1)
    settleMail (open_.foldl (fun s f => lateReply s f (badRep rFailover)) s)

/-- MGMT_FAILOVER (R430). -/
def execMgmtFailover (s : State) : Host.Outcome State Fault Refusal := completes s (failover s)

/-! ### Capability words (R4, R5, R162, R275, R310, R339, R380, R409, R426, R471, R543) -/

/-- CAP_HOST of a function (Table 19.11). -/
def capHost (f : Nat) : Nat :=
  (if f = pf then 0 else if f < serviceFn then 1 else 2) * 2 ^ 30 + (if f < serviceFn then f else 0) * 2 ^ 20 +
  vectorsOf (min f serviceFn)

/-- Controllers present. -/
def ctlCount (s : State) : Nat := (s.mem.ctls.filter (fun e => e.2.present)).length

/-- Springbok ports bonded (R28). -/
def bondedPorts (v : Variant) : List Nat := (List.range 40).filter (fun p => Config.portBonded v p)

/-- Die-to-die links by variant (Table 11.12a). -/
def d2dCount : Variant → Nat
  | .gbl8 => 16
  | .gbl2 => 2
  | _ => 4

/-- The 16 words at BAR0 offsets 0x0000_0000 to 0x0000_003C. -/
def capWords (s : State) (f : Nat) : List Nat :=
  let v := s.variant
  let fp := bit s.units 2
  [ capId v,
    s.units,
    capHost f,
    0,
    255 * 2 ^ 24 + 48 * 2 ^ 18 + 32 * 2 ^ 12 + 32 * 2 ^ 6 + 16,
    256 * 2 ^ 20 + 384 * 2 ^ 8 + 8 * 2 ^ 4 + 4,
    64 * 2 ^ 25 + (if fp then 16 else 0) * 2 ^ 20 + 4 * 2 ^ 16 + (if fp then 8 else 0) * 2 ^ 12 + 12 * 2 ^ 8 + 24,
    48 * 2 ^ 24 + 16 * 2 ^ 19 + 7 * 2 ^ 15 + 24576,
    8 * 2 ^ 24 + 64 * 2 ^ 16 + 16 * 2 ^ 8 + 16,
    (Config.hbmStacks v - s.mem.stackOff.length) * 2 ^ 24 + ctlCount s * 2 ^ 16 + 64 * 2 ^ 8 + 80,
    8 * 2 ^ 28 + 10 * 2 ^ 24 + 64 * 2 ^ 16 + 16 * 2 ^ 8 + 16,
    (bondedPorts v).length * 2 ^ 26 + 8 * 2 ^ 22 + 1 * 2 ^ 20 + 112 * 2 ^ 12 + 3 * 2 ^ 10 + d2dCount v * 2 ^ 5,
    16 * 2 ^ 23 + 64 * 2 ^ 16 + 14 * 2 ^ 12 + 16 * 2 ^ 7 + 7 * 2 ^ 4 + 12,
    Config.partitions v * 2 ^ 25 + 24 * 2 ^ 19 + 12 * 2 ^ 14 + 16 * 2 ^ 9,
    if bit s.units 1 then 24 * 2 ^ 27 + 16 * 2 ^ 22 + 12 * 2 ^ 17 + 12 * 2 ^ 13 + 64 * 2 ^ 5 else 0,
    96 * 2 ^ 25 + 6 * 2 ^ 20 + 4 * 2 ^ 15 + 8 * 2 ^ 10 + 12 * 2 ^ 5 ]

/-- ARRAY_LAT of a core (R64). -/
def arrayLat (c : Core) : Nat := if c.spareRow.isSome then 67 else 66

/-- CAP_CORE (Table 2.7). -/
def capCore (c : Core) : Nat :=
  if c.present then
    2 ^ 31 + 32 * 2 ^ 24 + 32 * 2 ^ 16 + b2n c.spareRow.isSome * 2 ^ 15 + c.spareRow.getD 0 % 32 * 2 ^ 8 + arrayLat c
  else 0

/-- LNK_D2Dl (Table 11.17). -/
def lnkD2d (x : D2dLink) : Nat :=
  if x.inUse then
    2 ^ 31 + b2n x.up * 2 ^ 30 + x.repaired % 16 * 2 ^ 26 + x.lo % 8 * 2 ^ 23 + x.portLo % 4 * 2 ^ 21 + min x.replayed (2 ^ 21 - 1)
  else 0

/-- OWNER code of a set (Table 15.8). -/
def ownerCode : SetOwner → Nat
  | .part p => p
  | .shared => 0xFF
  | .firmware _ => 0xFE
  | .kept _ _ => 0xFD

/-- A set in section 3. -/
def setBytes (x : ISet) : List Byte :=
  leBytes 8 x.base ++ leBytes 8 x.size ++ leBytes 1 x.member.length ++ leBytes 1 (ownerCode x.owner) ++ leBytes 6 0 ++
  (List.range x.member.length).flatMap (fun k => leBytes 8 (x.member.getD k 0 + x.mbase.getD k 0 * 2 ^ 32))

/-- The firmware set of a region: base and size. -/
def firmSet (s : State) (r : Nat) : Nat × Nat :=
  ((s.mem.sets.find? (fun x => x.owner == .firmware r)).map (fun x => (x.base, x.size))).getD (0, 0)

/-- Section 5: save areas, then the mailbox state areas at the top of their firmware sets (R392, R430). -/
def areaSection (s : State) : List Byte :=
  (s.cores.filter (fun e => e.2.present)).flatMap (fun e =>
    leBytes 8 ((firmSet s (coreRegion e.1)).1 + Config.saveAreaOffset e.1) ++ leBytes 8 655360) ++
  (areaRegions s.variant).flatMap (fun r => leBytes 8 ((firmSet s r).1 + (firmSet s r).2 - areaBytes) ++ leBytes 8 areaBytes)

/-- A section of QUERY_CAPS (Table 15.8). -/
def capSection (s : State) (f k : Nat) : Option (List Byte) :=
  match k with
  | 0 => some ((capWords s f).flatMap (leBytes 4))
  | 1 => some ((List.range (Config.cores s.variant)).flatMap (fun c => leBytes 4 (capCore (coreOf s c))))
  | 2 =>
    let ls := [66, 67].filter (fun l => s.cores.any (fun e => e.2.present && arrayLat e.2 == l))
    some (leBytes 1 ls.length ++ ls.flatMap (leBytes 1))
  | 3 => some (leBytes 4 s.mem.sets.length ++ s.mem.sets.flatMap setBytes)
  | 4 => some ((bondedPorts s.variant).flatMap (leBytes 1) ++ [0xFF] ++ s.links.d2d.flatMap (fun e => leBytes 4 (lnkD2d e.2)))
  | 5 => some (areaSection s)
  | _ => none

/-- Data bytes that one QUERY_CAPS or FAULT_LIST_READ reply holds (log entry 42). -/
def replyRoom : Nat := 16304

/-- QUERY_CAPS (R443). -/
def execQueryCaps (s : State) : Host.Outcome State Fault Refusal :=
  completes s (serveOp 0x0001 (fun s r =>
    match capSection s r.fn (r.f 0 1) with
    | none => (.rep (badRep rBadField), s)
    | some b =>
      let d := (b.drop (r.f 4 4)).take replyRoom
      (.rep (okRep (leBytes 4 b.length ++ leBytes 4 d.length ++ d)), s)) s)

/-- SYNC (R435, R437): answered by `handleMsg` with its fields, unnumbered. -/
def execSync (s : State) : Host.Outcome State Fault Refusal :=
  completes s (serveOp 0x0002 (fun s _ => (.rep (okRep []), s)) s)

/-- REPLAY_GET (R436): a logged reply by its SEQ. -/
def execReplayGet (s : State) : Host.Outcome State Fault Refusal :=
  completes s (serveOp 0x0003 (fun s r =>
    match (mboxOf s r.fn).log.find? (fun e => fieldAt e 8 4 == r.f 0 4) with
    | some e => (.rep (okRep e), s)
    | none => (.rep (badRep rNotFound), s)) s)

/-- FW_STATUS (Table 15.7, R445). -/
def execFwStatus (s : State) : Host.Outcome State Fault Refusal :=
  completes s (serveOp 0x0004 (fun s _ =>
    let m := s.mgmt
    let svn (k : Nat) : Nat := (m.banks.getD k {}).svn
    let b := leBytes 1 m.activeBank ++ leBytes 1 (m.pendingBank.getD 0xFF) ++ leBytes 2 0 ++ leBytes 4 (svn m.activeBank) ++
      leBytes 4 m.minSvn ++ leBytes 4 ((m.pendingBank.map svn).getD 0) ++ leBytes 4 m.failedBoots
    (.rep (okRep b), s)) s)

end Sys2Proof.Machine
end

