-- ==== Sys2Proof/Machine/Errors.lean ====
section
/-! DEFINITION. Errors by structure (spec chapter 17, Table 17.1, R474 to R480): parity of the array, corrected and uncorrected
errors, leaks of the buckets, fatal errors. -/

namespace Sys2Proof.Machine

/-! ### Where an error lies -/

/-- A macro of a unit (Table 17.3, kind 3), or nothing: the resource of an SRAM site. -/
def macroOnly (res : Option Resource) : Option Resource := res.filter (fun r => r.kind == 3)

/-- Resource that an error of a site charges (Table 17.1). -/
def siteRes (site : ErrSite) (res : Option Resource) : Option Resource :=
  match site with
  | .fabricData _ | .fabricCtl => none
  | .memory _ _ _ => none
  | .array core row => some { kind := 2, place := locOf core, detail := row }
  | .lane port lane => some { kind := 9, place := port, detail := lane }
  | .d2d link => some (d2dRes link)
  | .pin ctl pc p => some (pinRes ctl pc p)
  | _ => macroOnly res

/-- Tenant of a block of a core. -/
def blockTenants (s : State) (core blk : Nat) : List Nat := ((alFind (execOf s core).blocks blk).map (fun b => b.task.tenant)).toList

/-! ### Corrected errors -/

/-- A line of a core's L1. -/
def l1Entry (s : State) (core key : Nat) : Option L1Line := alFind (execOf s core).l1 key

/-- What a correction changes besides the count: a parity error drops the line of an L1 or an instruction store (Table 17.1). -/
def correctSite (s : State) (site : ErrSite) : State :=
  match site with
  | .l1 core key => if (l1Entry s core key).isNone then s else modExec s core (fun x => { x with l1 := alDel x.l1 key })
  | .istore core image variant line =>
    let s := if !(execOf s core).istore.contains (image, variant, line) then s else modExec s core (fun x => { x with istore := x.istore.filter (fun e => e != (image, variant, line)) })
    modCluster s (coreCluster core) (fun k => { k with codeLines := k.codeLines.filter (fun e => e != (image, variant, line)) })
  | _ => s

/-- An error of a memory sector, if decoding its symbols gives that outcome (R298). -/
def memErr (s : State) (ctl sector : Nat) (syms : List Nat) (o : EccOutcome) : State :=
  match lineAddr s ctl (sector / 2) with
  | none => s
  | some pa =>
    if eccOutcome (erasedOf (ctlOf s ctl) (linePlaceOf s pa).pc) syms != o then s else eccSector s pa (sector % 2) syms false

/-- CORRECTED_ERROR (R473, R476, R480): the value is corrected, the error is counted and its resource charged. -/
def execCorrectedError (site : ErrSite) (res : Option Resource) (s : State) : Host.Outcome State Fault Refusal :=
  completes s (
    if s.pm.phase != .running then s
    else
      match site with
      | .memory ctl sector syms => memErr s ctl sector syms .corrected
      | _ => correctedErr (correctSite s site) (siteRes site res) 1)

/-- BUCKET_LEAK (R480): at a multiple of W / N the level falls by one, never below 0. -/
def execBucketLeak (res : Resource) (s : State) : Host.Outcome State Fault Refusal := completes s (applyLeaks s res true)

/-! ### The array (R475) -/

/-- Resource of a parity detection: an array row, or from 33 on a macro of the FIFOs and outlier units. -/
def arrayRes (core row : Nat) : Resource :=
  if row ≤ 32 then { kind := 2, place := locOf core, detail := row } else { kind := 3, place := locOf core, detail := row - 33 }

/-- ARRAY_PARITY_REEXEC (R475): the first detection runs the instruction again from its operands, in the form in force; the
second is MEM_POISON at the instruction. -/
def execArrayParityReexec (core id row : Nat) (s : State) : Host.Outcome State Fault Refusal :=
  completes s (
    match (execOf s core).mmas.find? (fun m => m.id == id) with
    | none => s
    | some m =>
      if m.reexec then
        let s := modMma s core id (fun m => { m with parity2 := true })
        mmaFault (uncorrectedErr s (some (arrayRes core row)) [m.task.tenant]) core m .memPoison
      else correctedErr (modMma s core id (fun m => { m with reexec := true })) (some (arrayRes core row)) 1)

/-! ### Uncorrected errors -/

/-- Add a word to a poison list. -/
def poisonAdd (l : List Nat) (k : Nat) : List Nat := if l.contains k then l else l ++ [k]

/-- A word of a group is poisoned (R474). -/
def poisonWord (g : Group) (file key : Nat) : Group :=
  match file with
  | 0 => { g with regPoison := poisonAdd g.regPoison key }
  | 1 => { g with uregPoison := poisonAdd g.uregPoison key }
  | 2 => { g with predPoison := poisonAdd g.predPoison key }
  | _ => { g with handlePoison := poisonAdd g.handlePoison key }

/-- A partition reset of every job of a partition that holds cores (R464, R478). -/
def partReset (s : State) (part : Nat) : State :=
  let jobs := (s.fe.jobs.filter (fun e => e.2.part == part && e.2.phase == .placed)).map (·.1)
  let tenants := (s.sched.tenants.filter (fun e => e.2.part == part)).map (·.1)
  let s := resetJobs s part jobs tenants .memPoison
  let s := raisePfSf s gRAS 6 none
  syncShots ((tenants.filter (fun t => t != pf)).foldl (fun s t => raiseEv s t gRAS 6 none) s)

/-- Partition whose saved context a parking unit serves: that of its lowest parked tag (log entry 44). -/
def parkedPart (s : State) (die : Nat) : Option Nat :=
  let ts := s.links.txns.filter (fun t => t.die == die && t.parked && !t.dead)
  match ts.foldl (fun (m : Option Txn) t => match m with
      | some x => if t.tag < x.tag then some t else some x
      | none => some t) none with
  | some t => (alFind s.fe.nodes t.node).map (·.part)
  | none => none

/-- Partition of a saved context. -/
def savedPart (s : State) (core : Nat) : Option Nat :=
  match alFind s.saved core with
  | some x => (x.blocks.head?).map (fun b => b.2.task.part)
  | none => none

/-- The consumers of a turn unit fault with MEM_POISON (Table 17.1). -/
def poisonTurn (s : State) (t : TurnSlot) : State :=
  t.consumers.foldl (fun s c =>
    match (execOf s c.1).mmas.find? (fun m => m.id == c.2) with
    | some m => mmaFault s c.1 m .memPoison
    | none => s) s

/-- The node that uses an engine completes with MEM_POISON: a started operation stops, one that has not started ends. -/
def poisonEngine (s : State) (node : Nat) : State :=
  let s := modNode s node (fun n => stopFail n .fault .memPoison)
  let s := { s with pools := alMap s.pools (fun _ p => { p with waiting := p.waiting.filter (fun k => k != node) }) }
  let (s, started) := stopEngines s node
  if started then s else engineDone s node 0 0 none

/-- Poison a line where it stands: in its slice, else in memory (R300). -/
def poisonLine (s : State) (pa : Nat) : State :=
  let pa := pa / 128 * 128
  match homeSlice s pa with
  | none => s
  | some (r, set, tag) =>
    match findWay (regionOf s r) set tag with
    | some (w, l) => modRegion s r (fun x => setWay x set w { l with poison := 3 })
    | none => { s with mem.poisoned := poisonAdd (poisonAdd s.mem.poisoned (pa / 64)) (pa / 64 + 1) }

/-- Whether an uncorrected error of a site has something to poison or to end. Sites whose errors Table 17.1 calls impossible, or
gives to commands of their own, have none. -/
def ucTenants (s : State) (site : ErrSite) : Option (List Nat) :=
  match site with
  | .word core slot _ _ => (alFind (execOf s core).groups slot).map (fun g => blockTenants s core g.block)
  | .slm core blk _ => (alFind (execOf s core).blocks blk).map (fun b => [b.task.tenant])
  | .wb core entry => ((execOf s core).wb.find? (fun e => e.id == entry)).map (fun e => [e.tenant])
  | .turn cluster slot => (alFind (clusterOf s cluster).turns slot).map (fun t => [t.task.tenant])
  | .epi cluster ctx => (alFind (clusterOf s cluster).epi ctx).map (fun j => [j.task.tenant])
  | .slice region key => (alFind (regionOf s region).lines key).map (fun l => [tenantOf s l.pa])
  | .stash region entry _ => (alFind (regionOf s region).stash entry).map (fun e => [e.tenant])
  | .side region pa => (sideOf (regionOf s region) pa).map (fun e => [e.tenant])
  | .engine node => (alFind s.fe.nodes node).bind (fun n => if n.phase = .running then some [n.tenant] else none)
  | .parking die => (parkedPart s die).map (fun p => (s.sched.tenants.filter (fun e => e.2.part == p)).map (·.1))
  | .saveArea core => (savedPart s core).map (fun p => (s.sched.tenants.filter (fun e => e.2.part == p)).map (·.1))
  | .mgmt => some []
  | .fabricData pa => (homeOf s (pa / 128 * 128)).map (fun _ => [tenantOf s (pa / 128 * 128)])
  | _ => none

/-- What an uncorrected error does to its site (Table 17.1). -/
def poisonSite (s : State) (site : ErrSite) : State :=
  match site with
  | .word core slot file key =>
    modExec s core (fun x => match alFind x.groups slot with
      | some g => { x with groups := alPut x.groups slot (poisonWord g file key) }
      | none => x)
  | .slm core blk word =>
    modExec s core (fun x => match alFind x.blocks blk with
      | some b =>
        let bad : Block := { b with slmPoison := poisonAdd b.slmPoison word }
        { x with blocks := alPut x.blocks blk bad }
      | none => x)
  | .wb core entry =>
    modExec s core (fun x => { x with wb := x.wb.map (fun e => if e.id = entry then { e with poison := true } else e) })
  | .turn cluster slot =>
    match alFind (clusterOf s cluster).turns slot with
    | some t => poisonTurn s t
    | none => s
  | .epi cluster ctx =>
    match alFind (clusterOf s cluster).epi ctx with
    | some j =>
      epiFail s cluster ctx { j with closed := true } .memPoison
    | none => s
  | .slice region key =>
    modRegion s region (fun x => match alFind x.lines key with
      | some l => { x with lines := alPut x.lines key { l with poison := 3 } }
      | none => x)
  | .stash region entry line =>
    modRegion s region (fun x => match alFind x.stash entry with
      | some e =>
        let bad : StashEntry := { e with poison := poisonAdd (poisonAdd e.poison (2 * line)) (2 * line + 1) }
        { x with stash := alPut x.stash entry bad }
      | none => x)
  | .side region pa => freeSides s region (fun e => e.pa == pa)
  | .engine node => poisonEngine s node
  | .parking die => match parkedPart s die with
    | some p => partReset s p
    | none => s
  | .saveArea core => match savedPart s core with
    | some p => partReset s p
    | none => s
  | .mgmt => failover s
  | .fabricData pa => poisonLine s pa
  | _ => s

/-- UNCORRECTED_ERROR (R473, R474, R476, R478): the data are poisoned, or the work that holds them faults; tags, the front end
and fabric control are fatal. -/
def execUncorrectedError (site : ErrSite) (res : Option Resource) (s : State) : Host.Outcome State Fault Refusal :=
  completes s (
    if s.pm.phase != .running then s
    else
      match site with
      | .sliceTag _ | .front | .fabricCtl => fatalErr s (siteRes site res)
      | .memory ctl sector syms => memErr s ctl sector syms .uncorrectable
      | _ =>
        match ucTenants s site with
        | some ts => poisonSite (uncorrectedErr s (siteRes site res) ts) site
        | none => s)

/-- FATAL_ERROR (R479). -/
def execFatalError (res : Option Resource) (s : State) : Host.Outcome State Fault Refusal :=
  completes s (if s.pm.phase != .running then s else fatalErr s res)

end Sys2Proof.Machine
end

