-- ==== Sys2Proof/Machine/GroupData.lean ====
section
/-! DEFINITION. Group reductions, scans and shuffles (R173 to R175, Table 6.8). -/

namespace Sys2Proof.Machine

/-- The reduction of the present lanes' values: absent lanes contribute the neutral element, which changes nothing. -/
def reduceLanes (f : Word → Word → Word) (neutral : Word) : List Word → Word
  | [] => neutral
  | x :: r => r.foldl f x

/-- A reduction or scan: every present lane receives the reduction of all lanes, or, in a scan, of the lanes up to it. A
scan takes in the lane's own value or not as the free constant `Config.scanInclusive` says (log entry 24). -/
def gred (s : State) (i : Iss) (scan part : Bool) (d a : Opd) (red : List Word → Word) : State :=
  issueWith s i (vRegs false d) [a] [] (fun s c =>
    collective s c part (
      let val (l : Nat) : Word := opdLane c a l
      let res (l : Nat) : Word :=
        if scan then red ((c.act.filter (fun m => if Config.scanInclusive then decide (m ≤ l) else decide (m < l))).map val)
        else red (c.act.map val)
      advance (usedFree s d) c (writeD s c.g d (c.act.map (fun l => (l, res l))))))

/-- Whether a word is a NaN of FP32. -/
def isNan32 (w : Word) : Bool := fmtFP32.decode w.toNat == .nan

/-- A lane's value as a reduction writes it: every NaN is the canonical one (R74). -/
def canonLane (ty : LaneTy) (w : Word) : Word :=
  if ty = .f32 ∧ isNan32 w = true then BitVec.ofNat 32 fmtFP32.canonNan else w

/-- GRED.ADD: integer sums wrap; a NaN among FP32 values gives the canonical NaN; the sum of more than two other FP32
values depends on an order the spec does not state, and is free (log entry 24). -/
def redAdd (ty : LaneTy) (xs : List Word) : Word :=
  match ty with
  | .f32 =>
    if xs.any isNan32 then BitVec.ofNat 32 fmtFP32.canonNan
    else if xs.length ≤ 2 then reduceLanes (addLane .f32 .rne) 0 xs
    else canonLane .f32 (Config.gredSum xs)
  | t => reduceLanes (addLane t .rne) 0 xs

/-- Neutral element of MIN (`big` false) and MAX of a type (R174). -/
def pickNeutral (ty : LaneTy) (big : Bool) : Word :=
  match ty, big with
  | .f32, false => 0x7F800000
  | .f32, true => 0xFF800000
  | .s32, false => 0x7FFFFFFF
  | .s32, true => 0x80000000
  | .u32, false => 0xFFFFFFFF
  | .u32, true => 0

/-- GRED.MIN (`big` false) and GRED.MAX of the present lanes' values. -/
def redPick (ty : LaneTy) (big : Bool) (xs : List Word) : Word :=
  reduceLanes (pickLane ty big) (pickNeutral ty big) (xs.map (canonLane ty))

/-- GRED.ADD and its scan (R173, R174). -/
def execGredAdd (i : Iss) (ty : LaneTy) (scan part : Bool) (d a : Opd) (s : State) : Host.Outcome State Fault Refusal :=
  completes s (gred s i scan part d a (redAdd ty))

/-- GRED.OR and its scan. -/
def execGredOr (i : Iss) (scan part : Bool) (d a : Opd) (s : State) : Host.Outcome State Fault Refusal :=
  completes s (gred s i scan part d a (reduceLanes (fun x y => x ||| y) 0))

/-- GRED.XOR and its scan. -/
def execGredXor (i : Iss) (scan part : Bool) (d a : Opd) (s : State) : Host.Outcome State Fault Refusal :=
  completes s (gred s i scan part d a (reduceLanes (fun x y => x ^^^ y) 0))

/-- GRED.AND and its scan: the neutral element is all ones. -/
def execGredAnd (i : Iss) (scan part : Bool) (d a : Opd) (s : State) : Host.Outcome State Fault Refusal :=
  completes s (gred s i scan part d a (reduceLanes (fun x y => x &&& y) (BitVec.allOnes 32)))

/-- GRED.MIN and its scan. -/
def execGredMin (i : Iss) (ty : LaneTy) (scan part : Bool) (d a : Opd) (s : State) : Host.Outcome State Fault Refusal :=
  completes s (gred s i scan part d a (redPick ty false))

/-- GRED.MAX and its scan. -/
def execGredMax (i : Iss) (ty : LaneTy) (scan part : Bool) (d a : Opd) (s : State) : Host.Outcome State Fault Refusal :=
  completes s (gred s i scan part d a (redPick ty true))

/-- SHFL (R174): each lane receives `a` of the lane that its `b` names; an absent lane supplies zero, and a number above
31 names no lane, for which the spec states no value (log entry 24). -/
def execShfl (i : Iss) (part : Bool) (d a b : Opd) (s : State) : Host.Outcome State Fault Refusal :=
  completes s (issueWith s i (vRegs false d) [a, b] [] (fun s c =>
    collective s c part (
      let res (l : Nat) : Word :=
        let n := (opdLane c b l).toNat
        if 32 ≤ n then Config.shflBeyond (opdLane c b l) (opdLane c a l)
        else if c.act.contains n then opdLane c a n else 0
      advance (usedFree s d) c (writeD s c.g d (c.act.map (fun l => (l, res l)))))))

end Sys2Proof.Machine
end

