-- ==== Sys2Proof/Machine/HostRegs.lean ====
section
/-! DEFINITION. Writes to the registers of the BAR0 window (spec chapters 18 and 19): FE_PASID, the event ring, the MSI-X
table, and every other register that a host may write, by its access code (R12 to R15, R528). -/

namespace Sys2Proof.Machine

/-! ### FE_PASID (R529) -/

/-- A write to FE_PASID: ignored while a queue of the function has the PASID attribute. -/
def writePasid (s : State) (fn value : Nat) : State :=
  if fn = serviceFn || s.fe.queues.any (fun q => q.2.fn == fn && q.2.pasid) then s
  else modFn s fn (fun x => { x with pasid := b2n (bit value 31) * 2 ^ 31 + value % 2 ^ 20 })

/-- FE_PASID_WRITE (R529). -/
def execFePasidWrite (fn value : Nat) (s : State) : Host.Outcome State Fault Refusal := hostAccess s fn (writePasid s fn value)

/-! ### The event ring (R537, R540) -/

/-- A write to MB_EVR_CTL: EN from 0 to 1 resets PROD and CONS and arms the vector; an invalid SIZE_LOG2 leaves EN at 0;
SIZE_LOG2 is ignored while EN reads 1. Entries that still wait for a translation when EN becomes 0 are dropped. -/
def writeEvrCtl (s : State) (fn value : Nat) : State :=
  let x := fnOf s fn
  let e := x.evr
  let size := value % 32
  if e.en then
    if bit value 31 then s
    else
      let n := x.evWait.length
      let e := { e with en := false, armed := false, drop := (e.drop + n) % 2 ^ 64, owed := e.owed || decide (0 < n) }
      setFn s fn { x with evr := e, evWait := [] }
  else
    let e := { e with sizeLog2 := size }
    let e := if bit value 31 && decide (6 ≤ size) && decide (size ≤ 12) then { e with en := true, armed := true, prod := 0, cons := 0 } else e
    setFn s fn { x with evr := e }

/-- EVENT_RING_ENABLE (R537). -/
def execEventRingEnable (fn value : Nat) (s : State) : Host.Outcome State Fault Refusal := hostAccess s fn (writeEvrCtl s fn value)

/-- A write to MB_EVR_CONS: ignored ahead of PROD or more than the ring behind it; it arms the vector, and signals at once when
entries remain. -/
def writeEvrCons (s : State) (fn value : Nat) : State :=
  let x := fnOf s fn
  let v := value % 2 ^ 32
  if evSize x.evr < (x.evr.prod + 2 ^ 32 - v) % 2 ^ 32 then s
  else
    let e := { x.evr with cons := v, armed := x.evr.en }
    let s := setFn s fn { x with evr := e }
    if e.prod = v then s else evSignal s fn

/-- EVENT_RING_CONS_WRITE (R540). -/
def execEventRingConsWrite (fn value : Nat) (s : State) : Host.Outcome State Fault Refusal := hostAccess s fn (writeEvrCons s fn value)

/-! ### MSI-X (R535) -/

/-- Send the message of a vector that is pending and neither masked nor disabled. -/
def flushVec (s : State) (fn vec : Nat) : State :=
  let x := fnOf s fn
  let e := alGet {} x.vecs vec
  if e.pend && !e.masked && x.pcie.msixEn then
    emit (setFn s fn { x with vecs := alPut x.vecs vec { e with pend := false } }) (.msix fn vec e.addr e.data)
  else s

/-- Change a vector of the table. -/
def writeVec (s : State) (fn vec : Nat) (g : Vec → Vec) : State :=
  if vectorsOf fn ≤ vec then s
  else flushVec (modFn s fn (fun x => { x with vecs := alPut x.vecs vec (g (alGet {} x.vecs vec)) })) fn vec

/-- MSIX_UNMASK (R535): a vector whose pending bit is set sends one message. -/
def execMsixUnmask (fn vec : Nat) (s : State) : Host.Outcome State Fault Refusal :=
  hostAccess s fn (writeVec s fn vec (fun e => { e with masked := false }))

/-! ### Fields -/

/-- One half of a 64-bit register replaced. -/
def setHalf (old : Nat) (hi : Bool) (v : Nat) : Nat := if hi then old % 2 ^ 32 + v * 2 ^ 32 else old / 2 ^ 32 * 2 ^ 32 + v

/-- Bits of the event register of a group that the spec defines (Tables 4.8 to 17.9). -/
def eventBits (grp : Nat) : Nat :=
  match grp with
  | 1 => 9 | 2 => 7 | 3 => 7 | 4 => 5 | 5 => 8 | 6 => 5 | 7 => 4 | 8 => 11
  | _ => 0

/-- Bits of a group's event register that a function has: some belong to the physical and service functions only (Tables 10.11,
11.14, 15.15 and 16.12). -/
def eventSeen (fn grp : Nat) : Nat :=
  if fn = pf || fn = serviceFn then 2 ^ 11 - 1
  else
    match grp with
    | 3 => 31 | 5 => 3 | 6 => 9 | 7 => 8
    | _ => 2 ^ 11 - 1

/-- Group whose event register stands at an offset, with whether it is the enable register. -/
def eventReg (addr : Nat) : Option (Nat × Bool) :=
  match addr with
  | 0x10008 => some (1, false) | 0x1000C => some (1, true)
  | 0x30008 => some (2, false) | 0x3000C => some (2, true)
  | 0x50008 => some (3, false) | 0x5000C => some (3, true)
  | 0x60008 => some (4, false) | 0x6000C => some (4, true)
  | 0x70008 => some (5, false) | 0x7000C => some (5, true)
  | 0x80008 => some (6, false) | 0x8000C => some (6, true)
  | 0x90008 => some (7, false) | 0x9000C => some (7, true)
  | 0x90020 => some (8, false) | 0x90024 => some (8, true)
  | _ => none

/-- A write to an event register clears the bits written 1; one to its enable register sets it (R12). The service function
holds the groups MB_ and PM_ only (Table 19.8). -/
def writeEvent (s : State) (fn grp : Nat) (en : Bool) (v : Nat) : State :=
  if fn = serviceFn && grp < 6 then s
  else
    let m := v % 2 ^ eventBits grp &&& eventSeen fn grp
    modFn s fn (fun x =>
      if en then { x with en := alPut x.en grp m }
      else
        let old := alGet 0 x.ev grp
        { x with ev := alPut x.ev grp (old - (old &&& m)) })

/-! ### Counter blocks (Tables 18.1, 18.2, 18.16 to 18.18) -/

/-- Counter block and offset in it that a DBG_ offset names. -/
def blockAt (addr : Nat) : Option (Nat × Nat) :=
  let at_ (kind base : Nat) : Option (Nat × Nat) := some (blkKey kind ((addr - base) / 512), (addr - base) % 512)
  if addr < 0xA0000 then none
  else if addr < 0x160000 then at_ 0 0xA0000
  else if addr < 0x164000 then at_ 1 0x160000
  else if addr < 0x16C000 then at_ 2 0x164000
  else if addr < 0x180000 then at_ 3 0x16C000
  else none

/-- The fields of EVSEL that a kind of block holds as writable (Table 18.18). -/
def evselMask (kind : Nat) : Nat :=
  match kind with
  | 0 => 0xF00000FF
  | 1 => 0xEFE000FF
  | 2 => 0xEFE000FF
  | _ => 0xE0000000

/-- A write to a counter block, at level 1 (Table 18.9): a capture comes before a clear (R504). -/
def writeBlock (s : State) (fn k off v : Nat) : State :=
  if !blkWriter s fn k then s
  else if off = 0 then
    let s := modCtr s k (fun b => { b with snapTrace := bit v 2 })
    let s := if bit v 0 then capture s k 1 (ctrOf s k).tag else s
    if bit v 1 then modCtr s k (fun b => { b with count := [], ovf := 0, wrapped := [] }) else s
  else if off = 4 then modCtr s k (fun b => { b with ovf := b.ovf - (b.ovf &&& (v / 2 ^ 16)) })
  else if 0x20 ≤ off && decide (off < 0x20 + 4 * blkCounters k) then
    let n := (off - 0x20) / 4
    let m := evselMask (k / 65536)
    modCtr s k (fun b => { b with evsel := alPut b.evsel n ((v &&& m) + (alGet 0 b.evsel n &&& (2 ^ 32 - 1 - m))) })
  else if 0x80 ≤ off && decide (off < 0x80 + 8 * blkCounters k) then
    let n := (off - 0x80) / 8
    modCtr s k (fun b => { b with count := alPut b.count n (setHalf (alGet 0 b.count n) (off % 8 = 4) v) })
  else s

/-! ### The other DBG_ registers (Table 18.14) -/

/-- A write to DBG_WHISTLE_CTL: ACTION 0 needs level 1 and HALT level 2; the physical function's only (R514). -/
def writeWhistle (s : State) (fn v : Nat) : State :=
  if fn != pf || !dbgAllowed s fn (if bit v 31 then 2 else 1) then s
  else { s with dbg.action := bit v 31, dbg.drive := bit v 30, dbg.pinEn := bit v 29, dbg.ovfEn := bit v 28, dbg.irqEn := bit v 27 }

/-- A write to a DBG_ register outside the counter blocks. -/
def writeDbg (s : State) (fn addr v : Nat) : State :=
  let off := addr - 0x180000
  let hi := addr % 8 = 4
  if off = 4 then writeWhistle s fn v
  else if off = 0xC then
    (if bit v 0 && (fn == pf || dbgAllowed s fn 1) then releaseWhistle s else s)
  else if 0x40 ≤ off && decide (off < 0xC0) then
    let n := (off - 0x40) / 32
    let r := (off - 0x40) % 32
    if r = 0 then writeBreak s fn n v
    else if !dbgAllowed s fn 1 then s
    else if r = 8 || r = 12 then
      { s with dbg.breaks := alMod {} s.dbg.breaks n (fun b => { b with val := setHalf b.val hi v }) }
    else if r = 16 || r = 20 then
      { s with dbg.breaks := alMod {} s.dbg.breaks n (fun b => { b with mask := setHalf b.mask hi v }) }
    else s
  else if off = 0x100 then
    (if bit s.units 4 && fn == pf && dbgAllowed s fn 1 then { s with dbg.traceCtl := v / 2 ^ 20 * 2 ^ 20 } else s)
  else if !dbgAllowed s fn 2 then s
  else if off = 0x140 then writeAccCtl s fn v
  else if off = 0x148 || off = 0x14C then
    { s with dbg.accAddr := alPut s.dbg.accAddr fn (setHalf (alGet 0 s.dbg.accAddr fn) hi v) }
  else if off = 0x150 || off = 0x154 then
    { s with dbg.accData := alPut s.dbg.accData fn (setHalf (alGet 0 s.dbg.accData fn) hi v) }
  else if off = 0x158 || off = 0x15C then
    { s with dbg.accImage := alPut s.dbg.accImage fn (setHalf (alGet 0 s.dbg.accImage fn) hi v) }
  else s

/-! ### One register -/

/-- A 4-byte write to a register, or to one half of a 64-bit register; an offset that holds nothing writable ignores it (R14). -/
def writeReg (s : State) (fn addr v : Nat) : State :=
  match eventReg addr with
  | some (g, en) => writeEvent s fn g en v
  | none =>
    if addr = 0x10018 then writePasid s fn v
    else if addr = 0x80004 then mbCtrl s fn (bit v 0) (bit v 1) (bit v 2)
    else if addr = 0x80100 || addr = 0x80104 then
      (if (fnOf s fn).evr.en then s
       else modFn s fn (fun x => { x with evr.base := setHalf x.evr.base (addr = 0x80104) v / 4096 * 4096 }))
    else if addr = 0x80108 then writeEvrCtl s fn v
    else if addr = 0x80110 then writeEvrCons s fn v
    else if 0x3F0000 ≤ addr && decide (addr < 0x3F8000) then
      let vec := (addr - 0x3F0000) / 16
      match addr / 4 % 4 with
      | 0 => writeVec s fn vec (fun e => { e with addr := BitVec.ofNat 64 (setHalf e.addr.toNat false v) })
      | 1 => writeVec s fn vec (fun e => { e with addr := BitVec.ofNat 64 (setHalf e.addr.toNat true v) })
      | 2 => writeVec s fn vec (fun e => { e with data := BitVec.ofNat 32 v })
      | _ => writeVec s fn vec (fun e => { e with masked := bit v 0 })
    else if fn = serviceFn then s
    else
      match blockAt addr with
      | some (k, off) => writeBlock s fn k off v
      | none => if 0x180000 ≤ addr && decide (addr < 0x180160) then writeDbg s fn addr v else s

/-- REGISTER_WRITE (R12, R14, R528): a naturally aligned write of 4 or 8 bytes in the 4 MiB of BAR0; any other is ignored. -/
def execRegisterWrite (fn addr size value : Nat) (s : State) : Host.Outcome State Fault Refusal :=
  hostAccess s fn (
    if 2 ^ 22 ≤ addr then s
    else if size = 4 && addr % 4 = 0 then writeReg s fn addr (value % 2 ^ 32)
    else if size = 8 && addr % 8 = 0 then
      writeReg (writeReg s fn addr (value % 2 ^ 32)) fn (addr + 4) (value / 2 ^ 32 % 2 ^ 32)
    else s)

end Sys2Proof.Machine
end

