-- ==== Sys2Proof/Machine/Submission.lean ====
section
/-! DEFINITION. Submission, task graphs and completion (spec chapter 12): doorbells, the fetcher, slots, jobs, graph
parsing, completion of nodes, the overflow log, the shot clock. -/

namespace Sys2Proof.Machine

/-! ### Doorbells (R344) -/

/-- Whether a function has a host ring and queues (R341). -/
def submits (f : Nat) : Bool := decide (f < serviceFn)

/-- DB_RING (R344, R345): pending is set, and a wake-up is posted to a sleeping fetcher; in FAILED no doorbell is acted on
(R479). -/
def execDbRing (fn : Nat) (posted : Posted) (s : State) : Host.Outcome State Fault Refusal :=
  let s := postHost s posted
  hostAccess s fn (
    if submits fn && (fnOf s fn).ring.configured && !frontStopped s then
      modFn s fn (fun x =>
        let r := x.ring
        { x with ring := { r with pend := true, woken := r.woken || !r.awake, dbTime := some (r.dbTime.getD s.time) } })
    else s)

/-- A queue that waits for its consumer count reads it again (R368, R374); when it leaves room, the log may drain. -/
def pollQueue (s : State) (qi : Nat) : State :=
  match alFind s.fe.queues qi with
  | none => s
  | some q =>
    if q.reason != .ringFull then s
    else
      match readConsumer s qi q with
      | (.ok _, s) => modQueue s qi (fun q => if ringRoom q then { q with reason := .none } else q)
      | (_, s) => s

/-- DB_COMPL (R344, R368): every queue of the function that waits after a full ring reads its consumer count. -/
def execDbCompl (fn : Nat) (posted : Posted) (s : State) : Host.Outcome State Fault Refusal :=
  let s := postHost s posted
  hostAccess s fn (
    if submits fn && !frontStopped s then (s.fe.queues.filter (fun e => e.2.fn == fn)).foldl (fun s e => pollQueue s e.1) s else s)

/-- CONSUMER_COUNT_POLL (R368): the reading of every 100 µs, counted from the last reading. -/
def execConsumerCountPoll (queue : Nat) (posted : Posted) (s : State) : Host.Outcome State Fault Refusal :=
  completes s (
    let due := match alFind s.fe.queues queue with
      | some q => decide (q.polled + 10000 ≤ s.time)
      | none => false
    if frontStopped s || !due then postHost s posted else pollQueue (postHost s posted) queue)

/-! ### The fetcher (R345 to R348, R579) -/

/-- Read TAIL of a function's control block. -/
def readTail (s : State) (fn ctrl : Nat) : Acc Nat × State :=
  match hostXlat s fn none ctrl false with
  | (.wait, s) => (.wait, s)
  | (.fault, s) => (.fault .memAccess, s)
  | (.ok a, s) =>
    match hostBytes s a 4 with
    | (.ok b, s) => (.ok (leNat b), s)
    | (.fault f, s) => (.fault f, s)
    | (.wait, s) => (.wait, s)

/-- Change a function's ring. -/
def modRing (s : State) (fn : Nat) (g : Ring → Ring) : State := modFn s fn (fun x => { x with ring := g x.ring })

/-- Write HEAD to the control block; a final fault drops the write with RING_ACCESS_FAULT (R579). -/
def writeHead (s : State) (fn : Nat) : Acc Unit × State :=
  let r := (fnOf s fn).ring
  match hostXlat s fn none (r.ctrl + 8) true with
  | (.wait, s) => (.wait, s)
  | (.fault, s) => (.ok (), feEvent s fn 8 0 0 0 0)
  | (.ok a, s) => (.ok (), hostWrite s a (leBytes 4 r.head) false)

/-- A read of TAIL or of an entry ended in a fault: HEAD is written, the pass ends and the fetcher sleeps (R579). -/
def fetchFault (s : State) (fn : Nat) : State :=
  match writeHead s fn with
  | (.wait, s) => modRing s fn (fun r => { r with faultDue := true })
  | (_, s) =>
    feEvent (modRing s fn (fun r => { r.asleep with woken := r.woken })) fn 8 0 0 0 0

/-- Begin a pass (R345): the doorbells that came before the read of TAIL are caught; TAIL − HEAD above the size stops the
fetcher (R348). -/
def beginPass (s : State) (fn : Nat) : State :=
  let s := modRing s fn (fun r => { r with awake := true, pend := false, woken := false, tail := none, tailDue := false })
  match readTail s fn (fnOf s fn).ring.ctrl with
  | (.wait, s) => s
  | (.fault _, s) => fetchFault s fn
  | (.ok t, s) =>
    let s := modRing s fn (fun r => { r with passDb := r.dbTime, dbTime := none })
    let r := (fnOf s fn).ring
    if 2 ^ r.sizeLog2 < (t + 2 ^ 32 - r.head) % 2 ^ 32 then
      feEvent (modRing s fn (fun r => { r with overrun := true, tail := none })) fn 6 0 0 0 0
    else modRing s fn (fun r => { r with tail := some t })

/-- The one extra read of TAIL (R345): another pass runs when it has moved or a doorbell came, else the fetcher sleeps. -/
def lastRead (s : State) (fn : Nat) : State :=
  match readTail s fn (fnOf s fn).ring.ctrl with
  | (.wait, s) => s
  | (.fault _, s) => fetchFault s fn
  | (.ok t, s) =>
    let r := (fnOf s fn).ring
    if t != r.head || r.pend then beginPass s fn else modRing s fn (fun r => { r with tailDue := false })

/-- End a pass whose entries are all consumed (R345): HEAD is written, awake becomes 0, and TAIL is read once more. -/
def endPass (s : State) (fn : Nat) : State :=
  match writeHead s fn with
  | (.wait, s) => s
  | (_, s) => lastRead (modRing s fn (fun r => { r with awake := false, tail := none, headDue := false, tailDue := true })) fn

/-- A translation or a remote read of a function is outstanding: what waits for it has left the stage. -/
def xlatOut (s : State) (fn : Nat) : Bool :=
  s.host.xreqs.any (fun q => q.fn == fn && !q.dead) || s.links.txns.any (fun t => t.kind == .read && t.tenant == fn && !t.dead)

/-- A fetcher has a host access to make: a read of TAIL or of an entry, or a write of HEAD. -/
def fetchWants (s : State) (fn : Nat) : Bool :=
  let r := (fnOf s fn).ring
  submits fn && r.configured && !r.overrun && !xlatOut s fn &&
  (r.faultDue || r.headDue || r.tailDue || (if r.awake then r.entry.isNone else r.woken))

/-- A function owns an RT queue. -/
def ownsRt (s : State) (fn : Nat) : Bool := s.fe.queues.any (fun e => e.2.fn == fn && e.2.cls == .rt)

/-- Whether two functions' work shares a stage in order (R395): in strict isolation mode the stages serve partitions in fixed
windows, and only the work of one partition is ordered (R408). -/
def sameStage (s : State) (f g : Nat) : Bool := !s.sched.strict || partOf s f == partOf s g

/-- A fetcher's turn at the host-read stage (R395): those of functions with an RT queue read first. -/
def fetchTurn (s : State) (fn : Nat) : Bool :=
  ownsRt s fn || s.fns.all (fun e => !(ownsRt s e.1 && sameStage s fn e.1 && fetchWants s e.1))

/-- FETCHER_PASS (R345 to R348, R579): a posted wake-up starts a pass; what the pass left to do is done; a pass whose entries are
consumed ends. -/
def execFetcherPass (fn : Nat) (s : State) : Host.Outcome State Fault Refusal :=
  completes s (
    let r := (fnOf s fn).ring
    if !submits fn || !r.configured || r.overrun || frontStopped s || !fetchTurn s fn then s
    else if r.faultDue then fetchFault s fn
    else if r.tailDue then lastRead s fn
    else if !r.awake then (if r.woken then beginPass s fn else s)
    else
      match r.tail with
      | none => beginPass s fn
      | some t => if t = r.head then endPass s fn else s)

/-- Whether a ring entry is one that is skipped (R347): reserved KIND or fields, or a queue that does not exist or belongs
to another function. -/
def entryBad (s : State) (fn : Nat) (e : List Byte) : Bool :=
  decide (4096 ≤ fieldAt e 0 2) || decide (1 < fieldAt e 2 1) || decide (1 < fieldAt e 3 1) || fieldAt e 24 8 != 0 ||
  (fieldAt e 2 1 == 1 && (match alFind s.fe.queues (fieldAt e 0 2) with | some q => q.fn != fn | none => true))

/-- Accepted entries of the package (R347). -/
def acceptedTotal (s : State) : Nat := s.fe.queues.foldl (fun n e => n + e.2.entries.length) 0

/-- HEAD moves past an entry; every sixteenth is written to the control block, before the next entry is accepted. -/
def passEntry (s : State) (fn : Nat) : State :=
  let s := modRing s fn (fun r => { r with head := (r.head + 1) % 2 ^ 32, entry := none })
  if (fnOf s fn).ring.head % 16 = 0 then
    (match writeHead s fn with
     | (.wait, s) => modRing s fn (fun r => { r with headDue := true })
     | (_, s) => s)
  else s

/-- The entry at HEAD: read before and waiting for room, or read now. -/
def readEntry (s : State) (fn : Nat) : Acc (List Byte) × State :=
  let r := (fnOf s fn).ring
  match r.entry with
  | some e => (.ok e, s)
  | none =>
    if !fetchTurn s fn then (.wait, s)
    else
      match hostXlat s fn none (r.base + 32 * (r.head % 2 ^ r.sizeLog2)) false with
      | (.wait, s) => (.wait, s)
      | (.fault, s) => (.fault .memAccess, s)
      | (.ok a, s) => hostBytes s a 32

/-- The entry at HEAD, as read, is consumed, passed to its queue, or skipped; it waits while its queue or the package is full
(R347). -/
def acceptEntry (s : State) (fn : Nat) (e : List Byte) : State :=
  let r := (fnOf s fn).ring
  let qi := fieldAt e 0 2 % 4096
  if entryBad s fn e then feEvent (passEntry s fn) fn 7 qi 0 0 0
  else if fieldAt e 2 1 = 0 then passEntry s fn
  else
    match alFind s.fe.queues qi with
    | none => s
    | some q =>
      if 64 ≤ q.entries.length || 32768 ≤ acceptedTotal s then modRing s fn (fun r => { r with entry := some e })
      else
        let x : RingEntry :=
          { graphLen := fieldAt e 4 4, graphAddr := fieldAt e 8 8, jobTag := fieldAt e 16 8, irq := bit (fieldAt e 3 1) 0,
            time := s.time, order := s.fe.nextOrder, db := r.passDb.getD s.time }
        let s := { s with fe.nextOrder := s.fe.nextOrder + 1 }
        let s := modQueue s qi (fun q =>
          { q with entries := q.entries ++ [x], st := if q.st = .idle then .waitSlot else q.st,
                   since := if q.st = .idle then s.time else q.since })
        let s := passEntry s fn
        mirror s (.ringEntry fn qi (fnOf s fn).ring.head x.order e)

/-- RING_ENTRY_ACCEPT (R345, R347): the next entry of the running pass, once a write of HEAD that was due is made. -/
def execRingEntryAccept (fn : Nat) (s : State) : Host.Outcome State Fault Refusal :=
  completes s (
    let r := (fnOf s fn).ring
    match r.tail with
    | none => s
    | some t =>
      if !r.configured || !r.awake || r.faultDue || t = r.head then s
      else
        match (if r.headDue then writeHead s fn else (.ok (), s)) with
        | (.wait, s) => s
        | (_, s) =>
          let s := if r.headDue then modRing s fn (fun r => { r with headDue := false }) else s
          match readEntry s fn with
          | (.wait, s) => s
          | (.fault _, s) => fetchFault s fn
          | (.ok e, s) => acceptEntry s fn e)

/-! ### Slots and jobs (R350 to R352) -/

/-- SLOT_ASSIGN (R350): the waiting queue that is next by class and age takes its slot. -/
def execSlotAssign (queue : Nat) (s : State) : Host.Outcome State Fault Refusal :=
  completes s (
    match alFind s.fe.queues queue with
    | none => s
    | some q =>
      if nextForSlot s != some queue || q.st != .waitSlot || frontStopped s then s
      else
        match slotFor s q.cls with
        | some k => modQueue s queue (fun q => { q with slot := some k, st := .active })
        | none => s)

/-- Bytes in a slot's prefetch buffer, 16 KiB (R352). -/
def prefetchMax : Nat := 16384

/-- What a queue's prefetch buffer holds of an entry's graph buffer. -/
def prefetched (q : Queue) (e : RingEntry) : List Byte :=
  match q.prefetch with
  | some (o, b) => if o = e.order then b else []
  | none => []

/-- While a job is parsed or running, the slot reads the start of the next accepted entry's graph buffer (R352); a read that
cannot be made leaves the buffer as it is. -/
def prefetchNext (s : State) (qi : Nat) : State :=
  match alFind s.fe.queues qi with
  | none => s
  | some q =>
    match q.entries[1]?, partOf s q.fn with
    | some e, some part =>
      if !(prefetched q e).isEmpty then s
      else
        match agentRead s q.fn part e.graphAddr (min e.graphLen prefetchMax) .plain (q.cls == .rt) with
        | (.ok b, s) => modQueue s qi (fun q => { q with prefetch := some (e.order, b) })
        | (_, s) => s
    | _, _ => s

/-- JOB_START (R352, R384): the next job of an ACTIVE queue of a bound tenant. -/
def execJobStart (queue : Nat) (s : State) : Host.Outcome State Fault Refusal :=
  completes s (
    match alFind s.fe.queues queue with
    | none => s
    | some q =>
      match q.st, q.job, q.entries, (if frontStopped s then none else partOf s q.fn) with
      | .active, none, e :: _, some part =>
        let k := s.fe.nextJob
        let j : Job := { queue := queue, fn := q.fn, tenant := q.fn, part := part, entry := e, graphAddr := e.graphAddr,
                         graphLen := e.graphLen, pre := prefetched q e, refOff := e.resumed || e.noRef, lateEarly := e.late }
        modQueue { s with fe.nextJob := k + 1, fe.jobs := alPut s.fe.jobs k j } queue (fun q => { q with job := some k })
      | _, _, _, _ => s)

/-! ### Graph parsing (R353 to R358) -/

/-- GRAPH_ADDR and GRAPH_LEN break Table 12.1. -/
def graphRefBad (addr len : Nat) : Bool :=
  addr % 64 != 0 || len % 64 != 0 || decide (len < 192) || decide (67108864 < len)

/-- A header that breaks Table 12.4; `rt` adds the rule on COMMIT (R397). -/
def headerBad (h : List Byte) (len : Nat) (rt : Bool) : Bool :=
  let n := fieldAt h 6 2
  let off := fieldAt h 12 4
  let cnt := fieldAt h 16 4
  fieldAt h 0 4 != 0x48505247 || fieldAt h 4 2 != 1 || n == 0 || fieldAt h 8 4 != len || decide (len < 64 + 128 * n) ||
  (off == 0 && cnt != 0) || (off != 0 && (off % 64 != 0 || decide (off < 64 + 128 * n) || decide (len < off + 2 * cnt))) ||
  (h.drop 38).any (· != 0) || (rt && decide (n ≤ fieldAt h 36 2))

/-- The 8 bytes of a reference break Table 12.7. -/
def vrefBad (x : Nat) : Bool :=
  bits x 20 12 != 0 || (vrefMode x != 1 && bits x 31 24 != 0) || (vrefMode x == 1 && bits x 31 24 == 0) ||
  (vrefMode x != 1 && vrefMode x != 2 && bits x 63 32 != 0)

/-- A body that breaks the table of its kind (R354, R355, R416); RANGE and COPY descriptors are checked by their own rules. -/
def bodyBad (d : List Byte) : Bool :=
  match ndKind d with
  | 0 => (d.drop 56).any (· != 0)
  | 1 => fieldAt d 68 4 == 0 || fieldAt d 72 2 == 0 || decide (8 < fieldAt d 74 1 % 16) || bit (fieldAt d 74 1) 7 ||
         fieldAt d 75 5 != 0 || (List.range 4).any (fun i => vrefBad (fieldAt d (96 + 8 * i) 8))
  | 2 => (d.drop 88).any (· != 0)
  | 3 => (d.drop 88).any (· != 0)
  | 4 => benchBodyBad d
  | _ => false

/-- A block size above the kernel's largest (Table 12.6), where the image is loaded. -/
def threadsBad (s : State) (tenant : Nat) (d : List Byte) : Bool :=
  ndKind d == 1 && (match (alFind s.images (kImage d)).bind (fun i => if i.tenant = tenant then i.kernels[kKernel d]? else none) with
    | some k => decide (k.maxThreads < kThreads d)
    | none => false)

/-- Inline back distances in use. -/
def inlineEdges (d : List Byte) : List Nat := (List.range (fieldAt d 3 1)).map (fun i => fieldAt d (10 + 2 * i) 2)

/-- A node that breaks Tables 12.5 to 12.7 or R356, its extension distances given. -/
def nodeBad (d : List Byte) (i : Nat) (ext : List Nat) (edgeCount : Nat) : Bool :=
  decide (4 < fieldAt d 0 1) || decide (32 ≤ fieldAt d 1 1) || decide (16 ≤ fieldAt d 2 1) || decide (6 < fieldAt d 3 1) ||
  (List.range 6).any (fun k => decide (fieldAt d 3 1 ≤ k) && fieldAt d (10 + 2 * k) 2 != 0) || fieldAt d 22 2 != 0 ||
  decide (16384 ≤ fieldAt d 32 2) || decide (16384 ≤ fieldAt d 34 2) || fieldAt d 36 4 != 0 ||
  decide (edgeCount < fieldAt d 4 4 + fieldAt d 8 2) && fieldAt d 8 2 != 0 ||
  (inlineEdges d ++ ext).any (fun x => x == 0 || decide (i < x)) || bodyBad d

/-- A node names a flag outside its tenant's grants (R357). -/
def flagsDenied (s : State) (tenant : Nat) (d : List Byte) : Bool :=
  (bit (ndFlags d) 1 && !flagGranted s tenant (ndWaitFlag d)) || (bit (ndFlags d) 3 && !flagGranted s tenant (ndSetFlag d))

/-- A node needs a unit that CAP_UNITS reports absent (R7, R357, R425). -/
def unitsAbsent (s : State) (d : List Byte) : Bool :=
  let n := ndNeeds d
  (bit n 0 && !bit s.units 0) || (bit n 1 && !bit s.units 2) || ((bit n 2 || ndKind d == 4) && !bit s.units 1) ||
  (bit n 3 && !bit s.units 4)

/-- The fault or absence with which a node completes at its parse, without running. -/
def parseFail (s : State) (tenant : Nat) (d : List Byte) (i : Nat) (ext : List Nat) (edgeCount : Nat) : Option FailInfo :=
  if nodeBad d i ext edgeCount || threadsBad s tenant d then some { status := .fault, fault := .nodeInvalid, node := i }
  else if flagsDenied s tenant d then some { status := .fault, fault := .flagNotGranted, node := i }
  else if unitsAbsent s d then some { status := .unitAbsent, node := i }
  else none

/-- A resident node is free to the started job of a slot (R358): 256 of its own, then the 32,768 shared ones. -/
def nodeRoom (s : State) (k : Nat) : Option Bool :=
  if ((nodesOf s k).filter (fun e => !e.2.shared)).length < 256 then some false
  else if (s.fe.nodes.filter (fun e => e.2.shared)).length < 32768 then some true
  else none

/-- The front end finds a graph that it cannot read (R357); poison that it consumed is reported (R300). -/
def graphPoison (s : State) (tenant : Nat) (f : DevFault) : State := if f = .memPoison then poisonConsumed s tenant else s

/-- The job ends because its graph is bad (R357): with no node running it ends at once. -/
def graphFault (s : State) (k : Nat) (f : DevFault) : State :=
  tryEnd (dropUndispatched (modJob s k (fun j => failJob j { status := .fault, fault := f })) k) k

/-- The job is one of an RT queue. -/
def jobRt (s : State) (j : Job) : Bool := ((alFind s.fe.queues j.queue).map (·.cls)) == some .rt

/-- Read `n` bytes of a job's graph buffer from `off`: from what was prefetched of it, else from memory (R352). -/
def graphRead (s : State) (j : Job) (off n : Nat) : Acc (List Byte) × State :=
  if off + n ≤ j.pre.length then (.ok ((j.pre.drop off).take n), s)
  else agentRead s j.tenant j.part (j.graphAddr + off) n .plain (jobRt s j)

/-- Parse nodes in index order while resident nodes are free (R357, R358); nodes that a resumed job has completed are counted
and not parsed (R493). -/
def parseNodes : (fuel : Nat) → State → (k : Nat) → State
  | 0, s, _ => s
  | fuel + 1, s, k =>
    match alFind s.fe.jobs k with
    | none => s
    | some j =>
      if j.failing || decide (j.nodes ≤ j.nextNode) then s
      else
        match nodeRoom s k with
        | none => s
        | some shared =>
          let i := j.nextNode
          if j.doneNodes.contains i then parseNodes fuel (modJob s k (fun j => { j with nextNode := i + 1 })) k
          else
          match graphRead s j (64 + 128 * i) 128 with
          | (.wait, s) => s
          | (.fault f, s) => graphFault (graphPoison s j.tenant f) k .graphAddr
          | (.ok d, s) =>
            let beyond := decide (j.edgeCount < fieldAt d 4 4 + fieldAt d 8 2)
            let n := if beyond then 0 else fieldAt d 8 2
            match graphRead s j (j.edgeOff + 2 * fieldAt d 4 4) (2 * n) with
            | (.wait, s) => s
            | (.fault f, s) => graphFault (graphPoison s j.tenant f) k .graphAddr
            | (.ok eb, s) =>
              let ext := (List.range n).map (fun x => fieldAt eb (2 * x) 2)
              let bad := parseFail s j.tenant d i ext j.edgeCount
              let x : Node :=
                { job := k, queue := j.queue, tenant := j.tenant, part := j.part, idx := i, subst := j.subst, desc := d,
                  preds := ((inlineEdges d ++ ext).map (fun b => i - b)).dedup, shared := shared, fail := bad,
                  phase := if bad.isSome then .finished else .parsed }
              let m := s.fe.nextNode
              let s := { s with fe.nextNode := m + 1, fe.nodes := alPut s.fe.nodes m x }
              let s := modJob s k (fun j => { j with nextNode := i + 1 })
              parseNodes fuel s k

/-- The whole graph buffer can be read (R357). -/
def readGraph (s : State) (j : Job) : Acc (List Byte) × State :=
  match agentRead s j.tenant j.part (j.graphAddr + j.pre.length) (j.graphLen - j.pre.length) .plain (jobRt s j) with
  | (.ok b, s) => (.ok (j.pre ++ b), s)
  | x => x

/-- Read and check a job's header, take its fields, and parse (R353, R357, R397). -/
def parseHeader (s : State) (k : Nat) (j : Job) (rt : Bool) : State :=
  if graphRefBad j.graphAddr j.graphLen then graphFault s k .graphAddr
  else
    match readGraph s j with
    | (.wait, s) => s
    | (.fault f, s) => graphFault (graphPoison s j.tenant f) k .graphAddr
    | (.ok b, s) =>
      if headerBad (b.take 64) j.graphLen rt then graphFault s k .graphHeader
      else
        let s := modJob s k (fun j =>
          { j with phase := .parsing, pre := b, nodes := fieldAt b 6 2, edgeOff := fieldAt b 12 4, edgeCount := fieldAt b 16 4,
                   budgetUs := if rt then fieldAt b 20 4 else 0, substAddr := if rt then fieldAt b 24 8 else 0,
                   substLen := if rt then fieldAt b 32 4 else 0, commit := fieldAt b 36 2 })
        releaseNodes (parseNodes 65535 s k) k

/-- In SYNCED, parsing waits until the entry's RING_ENTRY record is acknowledged (R352, R337). -/
def entryHeld (s : State) (j : Job) : Bool :=
  heldBy s (fun r => match r with
    | .ringEntry _ q _ o _ => q == j.queue && o == j.entry.order
    | _ => false)

/-- A queue's job waits at the parsing stage. -/
def parseWants (s : State) (q : Queue) : Bool :=
  match q.job.bind (fun k => (alFind s.fe.jobs k).map (fun j => (k, j))) with
  | none => false
  | some (k, j) =>
    !j.failing && !entryHeld s j && !xlatOut s q.fn &&
    (j.phase == .started || (j.subst && j.substStop && j.phase == .placed && (nodesOf s k).isEmpty) || (j.phase != .ended && !j.substStop && decide (j.nextNode < j.nodes) && (nodeRoom s k).isSome))

/-- A queue's turn at parsing (R395): RT jobs first, in order of acceptance. -/
def parseTurn (s : State) (queue : Nat) (q : Queue) : Bool :=
  s.fe.queues.all (fun e => e.1 == queue || e.2.cls != .rt || !sameStage s q.fn e.2.fn || !parseWants s e.2 ||
    (q.cls == .rt && decide (oldestOrder q ≤ oldestOrder e.2)))

/-- GRAPH_PARSE (R353 to R358, R395): the header once, then nodes as resident nodes become free. -/
def execGraphParse (queue : Nat) (s : State) : Host.Outcome State Fault Refusal :=
  completes s (
    match alFind s.fe.queues queue with
    | none => s
    | some q =>
      match q.job.bind (fun k => (alFind s.fe.jobs k).map (fun j => (k, j))) with
      | none => s
      | some (k, j) =>
        if j.failing || entryHeld s j || !parseTurn s queue q then s
        else if j.phase = .started then prefetchNext (parseHeader s k j (q.cls == .rt)) queue
        else if j.substStop || j.phase = .ended then s
        else prefetchNext (releaseNodes (parseNodes 65535 s k) k) queue)

/-! ### Completion of nodes (R237, R365, R366) -/

/-- A write-buffer entry, an atomic, or an instruction in the array of the node is still to be performed on a core. -/
def coreBusyFor (x : Exec) (k tenant : Nat) : Bool :=
  x.wb.any (fun e => e.nodes.contains k) || x.mmas.any (fun m => m.task.node == k) ||
  x.atoms.any (fun a => a.slot == noSlot && a.tenant == tenant) || x.blocks.any (fun b => b.2.task.node == k)

/-- Every access made for the node has been performed (R237); the drain of its cores' resets has ended. -/
def nodePerformed (s : State) (k : Nat) (n : Node) : Bool :=
  s.links.txns.all (fun t => t.node != k || t.dead) && (ndKind n.desc != 1 || (
    s.cores.all (fun e => !coreBusyFor e.2.exec k n.tenant && e.2.resetNode != some k) &&
    s.saved.all (fun e => !coreBusyFor e.2 k n.tenant) &&
    s.regions.all (fun e => e.2.amax.all (fun u => u.node != k) && e.2.prepass.all (fun p => p.node != k)) &&
    s.clusters.all (fun e => e.2.epi.all (fun j => j.2.task.node != k || !j.2.closed))))

/-- The node's work has ended: it has finished, or its blocks have all ended, no further block being dispatched. -/
def nodeEnded (n : Node) : Bool :=
  n.phase == .finished || (n.phase == .running && ndKind n.desc == 1 && decide (n.liveBlocks = 0) &&
    (decide (fieldAt n.desc 68 4 ≤ n.nextBlock) || n.fail.isSome))

/-- A task that ends with an epilogue job still open fails, and the engine frees the job (R147). -/
def endEpis (s : State) (k : Nat) : State :=
  s.clusters.foldl (fun s e =>
    (e.2.epi.filter (fun j => j.2.task.node == k && !j.2.closed)).foldl (fun s j =>
      failNode (epiFree s e.1 j.1 j.2) k { status := .fault, fault := .epilogueIncomplete, loc := locOf j.2.core }) s) s

/-- The record of a node. -/
def nodeRec (j : Job) (n : Node) : Rec :=
  let f := n.fail.getD {}
  { jobTag := j.entry.jobTag, taskTag := ndTag n.desc, node := n.idx, queue := n.queue, status := statusCode f.status,
    isJob := false, fail := f, esc := n.esc, observed := n.observed, aux1 := n.aux1, aux0 := n.aux0 }

/-- The last steps of a completion (R365, steps 4 and 5; R366): flag, versions, successors, shot clock, or failure. -/
def closeNode (s : State) (k : Nat) (n : Node) : State :=
  let st := (n.fail.getD {}).status
  let ok := st == .ok
  let s := { s with fe.nodes := alDel s.fe.nodes k }
  let s := endHolds s n ok
  let s := modJob s n.job (fun j => { j with
    doneNodes := n.idx :: j.doneNodes, okNodes := if ok then n.idx :: j.okNodes else j.okNodes
    escSum := j.escSum + n.esc, obsSum := j.obsSum + n.observed })
  let s := if ok then s else bump s n.tenant gsNodeFail 1
  let s := traceEmit s 2 0 frontSrc (some n.tenant) (ndTag n.desc)
    (n.queue + n.idx * 2 ^ 12 + ndKind n.desc * 2 ^ 28 + statusCode st * 2 ^ 32)
  let set := ok && bit (ndFlags n.desc) 3 && flagGranted s n.tenant (ndSetFlag n.desc)
  let s := if set then
      let old := flagOf s (ndSetFlag n.desc)
      testCommits (setFlag s (ndSetFlag n.desc)
        (if bit (ndFlags n.desc) 4 then (old + fieldAt n.desc 48 8) % 2 ^ 64 else fieldAt n.desc 48 8))
    else s
  let s := if ok then releaseNodes s n.job
    else if st == .substituted then s
    else
      let s := modJob s n.job (fun j => failJob j ((n.fail.getD {})))
      dropUndispatched s n.job
  restartShot (releaseHeld s) n.queue

/-- References of a node that were resolved at its dispatch. -/
def usedRefs (n : Node) : List Nat :=
  ((List.range 4).filter (fun i => match n.holds[i]? with | some h => decide (h.mode < 4) | none => false)).map (fun i =>
    fieldAt n.desc (96 + 8 * i) 8)

/-- NODE_COMPLETE (R237, R365 to R367): in order, the accesses are performed, the NODE_DONE record is acknowledged, the node
record is written or logged, the flag is set, and the successors are released; then the job may end. -/
def execNodeComplete (node : Nat) (s : State) : Host.Outcome State Fault Refusal :=
  completes s (
    match alFind s.fe.nodes node with
    | none => s
    | some n =>
      if !nodeEnded n || !nodePerformed s node n then s
      else
        let s := endEpis s node
        match alFind s.fe.nodes node with
        | none => s
        | some n =>
          match alFind s.fe.jobs n.job with
          | none => s
          | some j =>
            let st := (n.fail.getD {}).status
            let s := modNode s node (fun n => { n with phase := .finished })
            let isMine (r : Mirror) : Bool := match r with | .nodeDone _ _ _ _ m _ _ _ => m == node | _ => false
            let sent := n.mirrored || s.twin.sent.any (fun x => isMine x.r)
            let rep := st != .ok || bit (ndFlags n.desc) 0
            let prod := match alFind s.fe.queues n.queue with
              | some q => q.prod + q.log.length
              | none => 0
            let s := if mirrors s && !sent then mirror s (.nodeDone n.queue j.entry.order n.idx (statusCode st) node prod rep (usedRefs n)) else s
            if heldBy s isMine then s
            else
              let s := modNode s node (fun n => { n with mirrored := true })
              if st = .ok && !bit (ndFlags n.desc) 0 then tryEnd (closeNode s node n) n.job
              else
                match putRecord s n.queue (recBytes (nodeRec j n)) false false with
                | (.wait, s) => s
                | (_, s) => tryEnd (closeNode s node n) n.job)

/-! ### The overflow log (R374) -/

/-- LOG_DRAIN (R374): the logged records are written in order until the log is empty or a write stops the drain; the queue
then returns to ACTIVE. -/
def drainLog : (fuel : Nat) → State → (qi : Nat) → State
  | 0, s, _ => s
  | fuel + 1, s, qi =>
    match alFind s.fe.queues qi with
    | none => s
    | some q =>
      match q.log with
      | [] => syncShots (settleQueue (modQueue s qi (fun q => { q with st := .active, reason := .none })) qi)
      | b :: rest =>
        match (if ringRoom q then (Acc.ok (), s) else readConsumer s qi q) with
        | (.wait, s) => s
        | (_, s) =>
          match alFind s.fe.queues qi with
          | none => s
          | some q =>
            if !ringRoom q then modQueue s qi (fun q => { q with reason := .ringFull })
            else
              match writeRecord s qi q b with
              | (.wait, s) => s
              | (.fault _, s) => feEvent (modQueue s qi (fun q => { q with reason := .writeFault })) q.fn 1 qi 0 0 0
              | (.ok _, s) =>
                let s := modQueue s qi (fun q => { q with log := rest })
                let sig := b.getD 62 0 != 0 && decide (2 ≤ q.vector) && decide (q.vector < vectorsOf q.fn)
                drainLog fuel (if sig then signalVec s q.fn q.vector else s) qi

/-- LOG_DRAIN (R374): admitted once the queue's wait is over. -/
def execLogDrain (queue : Nat) (s : State) : Host.Outcome State Fault Refusal :=
  completes s (
    match alFind s.fe.queues queue with
    | none => s
    | some q => if (q.st = .logging || q.st = .halted) && q.reason = .none && !frontStopped s then drainLog 65 s queue else s)

/-! ### The shot clock (R377, R379) -/

/-- The flag that the lowest node of a job not yet parsed would set. -/
def unparsedFlag (s : State) (k : Nat) : Option Nat :=
  match alFind s.fe.jobs k with
  | none => none
  | some j =>
    let d (i : Nat) : List Byte := (j.pre.drop (64 + 128 * i)).take 128
    (((List.range (j.nodes - j.nextNode)).map (· + j.nextNode)).find? (fun i => bit (ndFlags (d i)) 3 && !j.doneNodes.contains i)).map
      (fun i => ndSetFlag (d i))

/-- The flags W and S that an expiry names (R377). -/
def expiryFlags (s : State) (k : Nat) : Option Nat × Option Nat :=
  let ns := nodesOf s k
  let low (l : List (Nat × Node)) : Option Node :=
    l.foldl (fun b e => match b with
      | none => some e.2
      | some (x : Node) => if e.2.idx < x.idx then some e.2 else some x) none
  ((low (ns.filter (fun e => e.2.phase == .waiting))).map (fun n => ndWaitFlag n.desc),
   ((low (ns.filter (fun e => bit (ndFlags e.2.desc) 3))).map (fun n => ndSetFlag n.desc)).or (unparsedFlag s k))

/-- Keep an expiry and look for the other half of a wait cycle (R379). -/
def waitCycle (s : State) (fn qi w f : Nat) : State :=
  let hit := s.fe.expiries.find? (fun e => e.queue != qi && e.w == f && e.s == w)
  let mine : Expiry := { queue := qi, w := w, s := f }
  let s := { s with fe.expiries := (s.fe.expiries ++ [mine]).drop (s.fe.expiries.length - 63) }
  match hit with
  | some e => feEvent s fn 5 qi e.queue w e.w
  | none => s

/-- SHOT_CLOCK_EXPIRE (R376, R377, R379): between T and T + 2 µs after the last restart. The job fails, its running work is
stopped, and each stopped or waiting node completes with TIMEOUT. -/
def execShotClockExpire (queue : Nat) (s : State) : Host.Outcome State Fault Refusal :=
  completes s (
    match alFind s.fe.queues queue with
    | none => s
    | some q =>
      match q.job with
      | none => s
      | some k =>
        if !shotRuns s q || shotElapsed s q < 100 * q.shotT then s
        else
          let (w, f) := expiryFlags s k
          let s := feEvent (bump s q.fn gsTimeout 1) q.fn 4 queue 0 (w.getD 0) (f.getD 0)
          let s := stopWaiting s k .timeout .none
          let s := stopNodes s k .timeout .none
          let s := modJob s k (fun j => failJob { j with expired := true, flagW := w, flagS := f } { status := .timeout })
          let s := syncShot (dropUndispatched s k) queue
          let s := match w, f with
            | some w, some f => waitCycle s q.fn queue w f
            | _, _ => s
          tryEnd s k)

end Sys2Proof.Machine
end

