-- ==== Sys2Proof/Machine/MailQueues.lean ====
section
/-! DEFINITION. Mailbox messages of the host ring, queues and flags (Table 15.9, opcodes 0x0100 to 0x0107). -/

namespace Sys2Proof.Machine

/-! ### Answers of a handler -/

/-- A handler's answer: success with fields. -/
def ansOk (s : State) (fields : List Byte) : Done × State := (.rep (okRep fields), s)

/-- A handler's answer: status FAULT with a reason. -/
def ansBad (s : State) (reason : Nat) : Done × State := (.rep (badRep reason), s)

/-! ### The host ring (R341) -/

/-- RING_CONFIG carried out: HEAD takes the TAIL that the control block holds; a read that fails changes nothing. -/
def hRingConfig (s : State) (r : Req) : Done × State :=
  let base := r.f 0 8
  let log2 := r.f 8 1
  let ctrl := r.f 16 8
  if base % 4096 != 0 || log2 < 6 || 16 < log2 || ctrl % 64 != 0 then ansBad s rBadField
  else
    match readTail s r.fn ctrl with
    | (.wait, s) => (.wait, s)
    | (.fault _, s) => ansBad s rState
    | (.ok t, s) => ansOk (modRing s r.fn (fun _ =>
        { configured := true, base := base, sizeLog2 := log2, ctrl := ctrl, head := t })) []

/-- RING_CONFIG (R341). -/
def execRingConfig (s : State) : Host.Outcome State Fault Refusal := completes s (serveOp 0x0100 hRingConfig s)

/-! ### Queues (R349, R368, R390, R397) -/

/-- Class of a code (Table 15.9). -/
def classOf : Nat → QClass
  | 0 => .rt
  | 1 => .hi
  | 2 => .normal
  | _ => .bulk

/-- Fields of QUEUE_CREATE and QUEUE_CONFIG as a queue of the sender. -/
def queueFields (r : Req) : Queue :=
  { fn := r.fn, cls := classOf (r.f 2 1), haltOnError := bit (r.f 3 1) 0, pasid := bit (r.f 3 1) 1, shotUs := r.f 4 4,
    ringBase := r.f 8 8, ringLog2 := r.f 16 1, vector := r.f 18 2, rtCores := r.f 20 2, consAddr := r.f 24 8, tailUs := r.f 32 4 }

/-- A field of QUEUE_CREATE or QUEUE_CONFIG is out of range (Table 15.9, R368, R390, R397, R536). -/
def queueBad (s : State) (r : Req) : Bool :=
  let q := queueFields r
  decide (4096 ≤ r.f 0 2) || decide (3 < r.f 2 1) || decide (3 < r.f 3 1) || q.ringBase % 4096 != 0 || decide (q.ringLog2 < 6) ||
  decide (16 < q.ringLog2) || q.consAddr % 8 != 0 ||
  !(q.vector = 0xFFFF || (decide (2 ≤ q.vector) && decide (q.vector < vectorsOf r.fn))) ||
  (if q.cls = .rt then q.rtCores = 0 || decide (Config.cores s.variant < q.rtCores) || q.tailUs = 0
   else q.rtCores != 0 || q.tailUs != 0)

/-- Whether a tenant, if it is bound, finds room in its firmware set. -/
def roomFor (s : State) (tenant : Nat) : Bool := (alFind s.sched.tenants tenant).isNone || firmFits s tenant

/-- A queue with the PASID attribute needs FE_PASID.EN and PASID Enable (R529). -/
def pasidBad (s : State) (r : Req) : Bool :=
  bit (r.f 3 1) 1 && !(bit (fnOf s r.fn).pasid 31 && (fnOf s r.fn).pcie.pasidEn)

/-- QUEUE_CREATE carried out. -/
def hQueueCreate (s : State) (r : Req) : Done × State :=
  if queueBad s r then ansBad s rBadField
  else if (alFind s.fe.queues (r.f 0 2)).isSome || pasidBad s r then ansBad s rState
  else
    let s' := { s with fe.queues := alPut s.fe.queues (r.f 0 2) (queueFields r) }
    if !roomFor s' r.fn then ansBad s rNoResource else ansOk s' []

/-- QUEUE_CREATE (R349). -/
def execQueueCreate (s : State) : Host.Outcome State Fault Refusal := completes s (serveOp 0x0101 hQueueCreate s)

/-- The queue that a message names: its reason of refusal, or the queue (NOT_FOUND; NOT_PERMITTED for another function's). -/
def namedQueue (s : State) (r : Req) : Except Nat Queue :=
  if 4096 ≤ r.f 0 2 then .error rBadField
  else
    match alFind s.fe.queues (r.f 0 2) with
    | none => .error rNotFound
    | some q => if q.fn = r.fn then .ok q else .error rNotPermitted

/-- QUEUE_CONFIG of an existing queue: class, ring and PASID change only while it is IDLE; both counts are then set to 0
(R368); a TAIL_US sets the measured tails aside (R397). -/
def configQueue (q n : Queue) : Option Queue :=
  let idle := q.st == .idle
  let fixed := n.cls != q.cls || n.ringBase != q.ringBase || n.ringLog2 != q.ringLog2 || n.consAddr != q.consAddr ||
    n.pasid != q.pasid
  if fixed && !idle then none
  else
    some { q with
      cls := n.cls, haltOnError := n.haltOnError, pasid := n.pasid, shotUs := n.shotUs, ringBase := n.ringBase,
      ringLog2 := n.ringLog2, vector := n.vector, rtCores := n.rtCores, consAddr := n.consAddr, tailUs := n.tailUs, tails := [],
      prod := if idle then 0 else q.prod, cons := if idle then 0 else q.cons }

/-- QUEUE_CONFIG carried out. A new SHOT_US applies from the next restart: the running clock keeps its period. -/
def hQueueConfig (s : State) (r : Req) : Done × State :=
  if queueBad s r then ansBad s rBadField
  else
    match namedQueue s r with
    | .error e => ansBad s e
    | .ok q =>
      match (if pasidBad s r then none else configQueue q (queueFields r)) with
      | none => ansBad s rState
      | some q => ansOk { s with fe.queues := alPut s.fe.queues (r.f 0 2) q } []

/-- QUEUE_CONFIG (Table 15.9). -/
def execQueueConfig (s : State) : Host.Outcome State Fault Refusal := completes s (serveOp 0x0102 hQueueConfig s)

/-- A job is abandoned without records: its running work stops and its cores are released. -/
def abandonJob (s : State) (k : Nat) : State :=
  let s := stopNodes (dropSaved s k) k .fault .none
  let s := abandonSaves s [k]
  let s := dropJob s k
  (s.cores.map (·.1)).foldl (fun s c => releaseCore s k c) s

/-- A queue is removed, with whatever it still has. -/
def removeQueue (s : State) (qi : Nat) : State :=
  match alFind s.fe.queues qi with
  | none => s
  | some q =>
    let s := match q.job with
      | some k => abandonJob s k
      | none => s
    { s with fe.queues := alDel s.fe.queues qi }

/-- QUEUE_DESTROY carried out (R349): accepted entries of a HALTED queue are abandoned without records. -/
def hQueueDestroy (s : State) (r : Req) : Done × State :=
  match namedQueue s r with
  | .error e => ansBad s e
  | .ok q => if q.st = .idle || q.st = .halted then ansOk (removeQueue s (r.f 0 2)) [] else ansBad s rState

/-- QUEUE_DESTROY (R349). -/
def execQueueDestroy (s : State) : Host.Outcome State Fault Refusal := completes s (serveOp 0x0103 hQueueDestroy s)

/-- QUEUE_RESUME carried out (R378): to LOGGING while its log holds records, otherwise on. -/
def hQueueResume (s : State) (r : Req) : Done × State :=
  match namedQueue s r with
  | .error e => ansBad s e
  | .ok q =>
    if q.st != .halted || q.reason != .error then ansBad s rState
    else
      let s := modQueue s (r.f 0 2) (fun q => { q with st := if q.log.isEmpty then .active else .logging, reason := if q.log.isEmpty then .none else q.logReason, logReason := .none })
      ansOk (syncShot (settleQueue s (r.f 0 2)) (r.f 0 2)) []

/-- QUEUE_RESUME (R378). -/
def execQueueResume (s : State) : Host.Outcome State Fault Refusal := completes s (serveOp 0x0104 hQueueResume s)

/-- A queue that waits after a write fault starts its drain (R374). -/
def remapQueue (q : Queue) : Queue :=
  if q.reason = .writeFault then { q with reason := .none }
  else if q.logReason = .writeFault then { q with logReason := .none } else q

/-- REMAP_DONE carried out: one queue, or every queue of the function. -/
def hRemapDone (s : State) (r : Req) : Done × State :=
  if r.f 0 2 = 0xFFFF then
    ansOk { s with fe.queues := alMap s.fe.queues (fun _ q => if q.fn = r.fn then remapQueue q else q) } []
  else
    match namedQueue s r with
    | .error e => ansBad s e
    | .ok _ => ansOk (modQueue s (r.f 0 2) remapQueue) []

/-- REMAP_DONE (R374). -/
def execRemapDone (s : State) : Host.Outcome State Fault Refusal := completes s (serveOp 0x0105 hRemapDone s)

/-! ### Flags (R359 to R362) -/

/-- FLAG_WRITE carried out: a store or a sum modulo 2^64, applied as a set. -/
def hFlagWrite (s : State) (r : Req) : Done × State :=
  let f := r.f 0 2
  if actorBad r || 16384 ≤ f || 1 < r.f 2 1 then ansBad s rBadField
  else if !flagGranted s r.actor f then ansBad s rNotPermitted
  else ansOk (tryEnds (testCommits (setFlag s f (if r.f 2 1 = 0 then r.f 8 8 else (flagOf s f + r.f 8 8) % 2 ^ 64)))) []

/-- FLAG_WRITE (R362). -/
def execFlagWrite (s : State) : Host.Outcome State Fault Refusal := completes s (serveOp 0x0106 hFlagWrite s)

/-- FLAG_READ carried out. -/
def hFlagRead (s : State) (r : Req) : Done × State :=
  let f := r.f 0 2
  if actorBad r || 16384 ≤ f then ansBad s rBadField
  else if !flagGranted s r.actor f then ansBad s rNotPermitted
  else ansOk s (leBytes 8 (flagOf s f))

/-- FLAG_READ (Table 15.9). -/
def execFlagRead (s : State) : Host.Outcome State Fault Refusal := completes s (serveOp 0x0107 hFlagRead s)

end Sys2Proof.Machine
end

