-- ==== Sys2Proof/Machine/MailTenant.lean ====
section
/-! DEFINITION. Mailbox messages of a tenant's memory, images, policies, versioned tensors and bench pool (Table 15.9, opcodes
0x0110 to 0x0144), and CODE_UNLOAD_EFFECT. -/

namespace Sys2Proof.Machine

/-! ### Mapping (R287 to R289) -/

/-- BYTES and VA of a mapping message are out of range. -/
def spanBad (va n : Nat) : Bool := va % 65536 != 0 || n % 65536 != 0 || n = 0 || decide (2 ^ 48 < va + n)

/-- Numbers of the pages of a range. -/
def spanPages (va n : Nat) : List Nat := (List.range (n / 65536)).map (fun k => va / 65536 + k)

/-- A page of a range is mapped. -/
def spanMapped (s : State) (tenant va n : Nat) : Bool :=
  (pagesOf s tenant).any (fun p => decide (va / 65536 ≤ p) && decide (p < (va + n) / 65536))

/-- Enter page entries, with the nodes that they need (R285). -/
def putPages (s : State) (tenant : Nat) (ps : List (Nat × PageEnt)) : State :=
  syncNodes { s with mem.pages := ps.foldl (fun m e => alPut m (tenant * 2 ^ 32 + e.1) e.2) s.mem.pages } tenant

/-- Memory use of a tenant once a range is mapped with `g` new granules. -/
def useAfter (s : State) (tenant va n g : Nat) : Nat :=
  let ps := pagesOf s tenant
  memUse s tenant + g + tableUse (ps ++ spanPages va n) - tableUse ps

/-- Common checks of a mapping message: fields, binding, pages already mapped, and a quota that `g` new granules and new nodes
would raise memory use above (R287, R288). -/
def mapCheck (s : State) (r : Req) (g : Nat) : Option Nat :=
  let t := r.actor
  if actorBad r || spanBad (r.f 0 8) (r.f 8 8) || 7 < r.f 16 1 then some rBadField
  else if (alFind s.sched.tenants t).isNone || spanMapped s t (r.f 0 8) (r.f 8 8) then some rState
  else if quotaOf s t < useAfter s t (r.f 0 8) (r.f 8 8) g && memUse s t < useAfter s t (r.f 0 8) (r.f 8 8) g then some rNoResource
  else none

/-- Page entry of a mapping message with the rights it names. -/
def entryOf (r : Req) (kind : PageKind) (package frame : Nat) : PageEnt :=
  { kind := kind, r := bit (r.f 16 1) 0, w := bit (r.f 16 1) 1, a := bit (r.f 16 1) 2, package := package, frame := frame }

/-- MAP_DEVICE carried out (R287): the lowest free granules of the partition's sets, zeroed. -/
def hMapDevice (s : State) (r : Req) : Done × State :=
  let t := r.actor
  let n := r.f 8 8 / 65536
  match mapCheck s r n with
  | some e => ansBad s e
  | none =>
    match findGranules s (granSets s ((partOf s t).getD 0)) n with
    | none => ansBad s rNoResource
    | some gs =>
      let ps := (spanPages (r.f 0 8) (r.f 8 8)).zip gs
      let s' := putPages (allocGranules s gs (.page t)) t (ps.map (fun e => (e.1, entryOf r .local 0 e.2)))
      if !roomFor s' t then ansBad s rNoResource
      else ansOk (checkQuota s' t) (leBytes 8 n ++ leBytes 8 (memUse s' t))

/-- MAP_DEVICE (R287). -/
def execMapDevice (s : State) : Host.Outcome State Fault Refusal := completes s (serveOp 0x0140 hMapDevice s)

/-- MAP_HOST and MAP_REMOTE carried out (R288): entries to consecutive frames; nothing is allocated, no target is checked. -/
def mapOutside (s : State) (r : Req) (kind : PageKind) (package : Nat) : Done × State :=
  let t := r.actor
  let base := r.f 24 8
  if base % 65536 != 0 || 2 ^ 64 < base + r.f 8 8 then ansBad s rBadField
  else
    match mapCheck s r 0 with
    | some e => ansBad s e
    | none =>
      let ps := (spanPages (r.f 0 8) (r.f 8 8)).zip (spanPages base (r.f 8 8))
      let s' := putPages s t (ps.map (fun e => (e.1, entryOf r kind package e.2)))
      if !roomFor s' t then ansBad s rNoResource else ansOk (checkQuota s' t) []

/-- MAP_HOST carried out. -/
def hMapHost (s : State) (r : Req) : Done × State := mapOutside s r .host 0

/-- MAP_REMOTE carried out. -/
def hMapRemote (s : State) (r : Req) : Done × State := mapOutside s r .remote (r.f 17 1)

/-- MAP_HOST (R288). -/
def execMapHost (s : State) : Host.Outcome State Fault Refusal := completes s (serveOp 0x0141 hMapHost s)

/-- MAP_REMOTE (R288). -/
def execMapRemote (s : State) : Host.Outcome State Fault Refusal := completes s (serveOp 0x0142 hMapRemote s)

/-- MEM_UNMAP carried out (R289): pages without an entry are skipped. -/
def hMemUnmap (s : State) (r : Req) : Done × State :=
  if actorBad r || spanBad (r.f 0 8) (r.f 8 8) then ansBad s rBadField
  else
    let (p, g, s) := unmapPages s r.actor (r.f 0 8 / 65536) ((r.f 0 8 + r.f 8 8) / 65536)
    ansOk (checkQuota s r.actor) (leBytes 8 p ++ leBytes 8 g)

/-- MEM_UNMAP (R289). -/
def execMemUnmap (s : State) : Host.Outcome State Fault Refusal := completes s (serveOp 0x0143 hMemUnmap s)

/-- MAP_QUERY (R289): the page entry of an address, or 0. -/
def hMapQuery (s : State) (r : Req) : Done × State :=
  if actorBad r then ansBad s rBadField
  else ansOk s (leBytes 8 (((pageOf s r.actor (r.f 0 8)).map pageBits).getD 0))

/-- MAP_QUERY (R289). -/
def execMapQuery (s : State) : Host.Outcome State Fault Refusal := completes s (serveOp 0x0144 hMapQuery s)

/-! ### Images (R206 to R211) -/

/-- A kernel of an accepted image (log entry 40), within the limits of R157, R158 and R156. -/
def acceptedKernel (im mp rs : List Byte) (k : Nat) : Kernel :=
  { nregs := 1 + Config.kernelField im mp rs k 0 % 255, slmKib := Config.kernelField im mp rs k 1 % 257,
    maxThreads := max 1 (min 1024 (Config.kernelField im mp rs k 2)), entry := Config.kernelField im mp rs k 3,
    recon := (Config.kernelList im mp rs k 1).map (·.1), lines := Config.kernelList im mp rs k 0
    altLines := Config.kernelList im mp rs k 3, nend := Config.kernelField im mp rs k 6
    altEnd := Config.kernelField im mp rs k 7
    units := Config.kernelField im mp rs k 4 % 32, vmap := Config.kernelList im mp rs k 2
    constThreads := Config.kernelField im mp rs k 5 % 1025 }

/-- Kernels of an accepted image. -/
def acceptedKernels (im mp rs : List Byte) : List Kernel :=
  (List.range (Config.imageKernels im mp rs)).map (acceptedKernel im mp rs)

/-- A line map that covers a variant's native code: Lysril instructions at multiples of 8, the kernel's entry among them,
native ones at multiples of 16 below the end, in ascending order of both offsets (R190, R208, R216). -/
def lineMapSound (entry nend : Nat) (lines : List (Nat × Nat)) : Bool :=
  lines.any (fun e => e.1 == entry) && lines.all (fun e => e.1 % 8 == 0 && e.2 % 16 == 0 && decide (e.2 < nend)) &&
  decide (lines.Pairwise (fun e f => e.1 < f.1 ∧ e.2 < f.2))

/-- The items of R208 that a kernel's own lists violate: 2 a reconvergence point at no instruction boundary, 3 a register
number beyond the record, 4 an absent unit, 7 the line map. -/
def kernelFails (units : Nat) (k : Kernel) : List Nat :=
  (if k.recon.all (fun p => k.lines.any (fun e => e.1 == p) && k.altLines.any (fun e => e.1 == p)) then [] else [2]) ++
  (if k.vmap.all (fun e => decide (e.2 < k.nregs)) then [] else [3]) ++ (if k.units &&& units = k.units then [] else [4]) ++
  (if lineMapSound k.entry k.nend k.lines && lineMapSound k.entry k.altEnd k.altLines then [] else [7])

/-- What the verifier answers for an image: the lowest item of R208 that it violates, by its kernels' own lists or by the part
of the acceptance that the spec leaves to the verifier (log entry 40); 0 for a kernel
beyond the register limits, to which the spec gives no item (R160; DESIGN CHOICE, log entry 144). -/
def verdict (s : State) (im mp rs : List Byte) : Option Nat :=
  let ks := acceptedKernels im mp rs
  match [1, 2, 3, 4, 5, 6, 7].find? (fun n => (n != 4 && Config.imageVerdict im mp rs == n) ||
      ks.any (fun k => (kernelFails s.units k).contains n)) with
  | some n => some n
  | none => if ks.any (fun k => regsExceed k.constThreads k.nregs || decide (256 < k.slmKib)) then some 0 else none

/-- Granules of a code region. -/
def codeGranules (n : Nat) : Nat := max 1 (ceilDiv n 65536)

/-- Write bytes into a region's granules. -/
def writeRegion (s : State) (part tenant : Nat) : List Nat → List Byte → State
  | [], _ => s
  | g :: gs, b => writeRegion (devWrite s (g * 65536) part tenant (b.take 65536)) part tenant gs (b.drop 65536)

/-- Bytes padded with zeros to whole lines. -/
def lineFill (b : List Byte) : List Byte := b ++ List.replicate (ceilDiv b.length 128 * 128 - b.length) 0

/-- Enter an accepted image: its code region and its handle. -/
def enterImage (s : State) (tenant part : Nat) (im mp rs : List Byte) (gs : List Nat) : State :=
  let h := s.nextImage
  let s := writeRegion (allocGranules s gs (.code tenant h)) part tenant gs (lineFill (im ++ mp ++ rs))
  let ks := acceptedKernels im mp rs
  let x : Image := { tenant := tenant, kernels := ks, bytes := im.length + mp.length + rs.length, region := gs }
  { s with images := alPut s.images h x, nextImage := h + 1 }

/-- The reply to a load that fails verification (R209, Table 15.9): item 4 of R208 is an absent unit. -/
def verifyRep (v at_ : Nat) : Rep :=
  { status := if v = 4 then 6 else 2, reason := rVerify, fields := leBytes 4 at_ ++ leBytes 1 v }

/-- CODE_LOAD carried out (R206 to R211): the three parts are read from the tenant's addresses, verified, and placed in a code
region that counts against the quota. A failed load changes no state but what its reads changed. For a part that cannot be
read the spec gives no reason: the reply is STATE (DESIGN CHOICE, log entry 144). -/
def hCodeLoad (s : State) (r : Req) : Done × State :=
  let t := r.fn
  match alFind s.sched.tenants t with
  | none => ansBad s rState
  | some tn =>
    match agentRead s t tn.part (r.f 0 8) (r.f 8 4) .plain with
    | (.wait, s) => (.wait, s)
    | (.fault _, s) => ansBad s rState
    | (.ok im, s) =>
      match agentRead s t tn.part (r.f 16 8) (r.f 24 4) .plain with
      | (.wait, s) => (.wait, s)
      | (.fault _, s) => ansBad s rState
      | (.ok mp, s) =>
        match agentRead s t tn.part (r.f 32 8) (r.f 40 4) .plain with
        | (.wait, s) => (.wait, s)
        | (.fault _, s) => ansBad s rState
        | (.ok rs, s) =>
          let n := codeGranules (im.length + mp.length + rs.length)
          match verdict s im mp rs with
          | some v => (.rep (verifyRep v (Config.imageFault im mp rs v)), s)
          | none =>
          if tn.memQuota < memUse s t + n then ansBad s rNoResource
          else
            match findGranules s (granSets s tn.part) n with
            | none => ansBad s rNoResource
            | some gs => ansOk (checkQuota (enterImage s t tn.part im mp rs gs) t) (leBytes 8 s.nextImage)

/-- CODE_LOAD (R206 to R209). -/
def execCodeLoad (s : State) : Host.Outcome State Fault Refusal := completes s (serveOp 0x0110 hCodeLoad s)

/-- A resident block runs a variant of an image, the blocks of a saved context being resident, or a task of it that is
dispatched has blocks still to come (R210). -/
def imageRuns (s : State) (h : Nat) : Bool :=
  s.fe.nodes.any (fun e => e.2.phase == .running && ndKind e.2.desc == 1 && kImage e.2.desc == h && e.2.fail.isNone &&
    decide (e.2.nextBlock < kBlocks e.2.desc)) ||
  s.cores.any (fun c => c.2.exec.blocks.any (fun b => b.2.task.image == h)) ||
  s.saved.any (fun x => x.2.blocks.any (fun b => b.2.task.image == h))

/-- The unload of an image takes effect (R210, R211): its lines leave every translated-code cache, its region is freed. -/
def dropImage (s : State) (h : Nat) : State :=
  match alFind s.images h with
  | none => s
  | some i =>
    let cl := alMap s.clusters (fun _ c =>
      { c with codeLines := c.codeLines.filter (fun x => x.1 != h), requests := c.requests.filter (fun x => x.1 != h) })
    let s := releaseGranules { s with clusters := cl, images := alDel s.images h } i.region
    checkQuota s i.tenant

/-- CODE_UNLOAD carried out (R210): its reply waits while a resident block runs the image. -/
def hCodeUnload (s : State) (r : Req) : Done × State :=
  let h := r.f 0 8
  match alFind s.images h with
  | none => ansBad s rNotFound
  | some i =>
    if i.tenant != r.fn then ansBad s rNotPermitted
    else if imageRuns s h then
      (.later, { s with images := alPut s.images h { i with unloading := true, waiter := some r.fn } })
    else ansOk (dropImage s h) []

/-- CODE_UNLOAD (R210). -/
def execCodeUnload (s : State) : Host.Outcome State Fault Refusal := completes s (serveOp 0x0111 hCodeUnload s)

/-- CODE_UNLOAD_EFFECT (R210): no resident block runs the image any more. -/
def execCodeUnloadEffect (image : Nat) (s : State) : Host.Outcome State Fault Refusal :=
  completes s (
    match alFind s.images image with
    | none => s
    | some i =>
      if !i.unloading || imageRuns s image then s
      else
        let s := dropImage s image
        match i.waiter with
        | some f => lateReply s f (okRep [])
        | none => s)

/-! ### Policies and versioned tensors -/

/-- SET_PRECISION_POLICY carried out (R121): tasks dispatched from now on take the word. -/
def hSetPrecisionPolicy (s : State) (r : Req) : Done × State :=
  let w := r.f 8 8
  if actorBad r || 7 < r.f 0 1 || bits w 63 56 != 0 || bits w 50 48 != 0 then ansBad s rBadField
  else
    ansOk (modFn s r.actor (fun x => { x with policies := x.policies.set (r.f 0 1) w })) []

/-- SET_PRECISION_POLICY (R121). -/
def execSetPrecisionPolicy (s : State) : Host.Outcome State Fault Refusal := completes s (serveOp 0x0120 hSetPrecisionPolicy s)

/-- The lowest number of a tensor that is not registered. -/
def freeTensor (s : State) : Option Nat := (List.range 4096).find? (fun k => (alFind s.vtensors k).isNone)

/-- VTENSOR_REGISTER carried out (R151). -/
def hVtensorRegister (s : State) (r : Req) : Done × State :=
  let n := r.f 0 1
  let base (k : Nat) : Nat := r.f (16 + 8 * k) 8
  if n < 2 || 4 < n || r.f 8 8 % 128 != 0 || (List.range 4).any (fun k => if k < n then base k % 128 != 0 else base k != 0) then
    ansBad s rBadField
  else
    match freeTensor s with
    | none => ansBad s rNoResource
    | some k =>
      let x : VTensor := { tenant := r.fn, slotBytes := r.f 8 8, bases := (List.range n).map base }
      ansOk { s with vtensors := alPut s.vtensors k x } (leBytes 2 k)

/-- VTENSOR_REGISTER (R151). -/
def execVtensorRegister (s : State) : Host.Outcome State Fault Refusal := completes s (serveOp 0x0121 hVtensorRegister s)

/-- A dispatched task that has not completed references a tensor. -/
def tensorUsed (s : State) (t : Nat) : Bool :=
  s.fe.nodes.any (fun e => e.2.active && e.2.holds.any (fun h => h.tensor == t))

/-- Remove a tensor with its captures. -/
def dropTensor (s : State) (t : Nat) : State :=
  { s with vtensors := alDel s.vtensors t, captures := s.captures.filter (fun c => c.2.tensor != t) }

/-- VTENSOR_UNREGISTER carried out (R153). -/
def hVtensorUnregister (s : State) (r : Req) : Done × State :=
  let k := r.f 0 2
  if 4096 ≤ k then ansBad s rBadField
  else
    match alFind s.vtensors k with
    | none => ansBad s rNotFound
    | some t =>
      if t.tenant != r.fn then ansBad s rNotPermitted
      else if tensorUsed s k then ansBad s rState
      else ansOk (dropTensor s k) []

/-- VTENSOR_UNREGISTER (R153). -/
def execVtensorUnregister (s : State) : Host.Outcome State Fault Refusal := completes s (serveOp 0x0122 hVtensorUnregister s)

/-! ### The bench pool (R411 to R413) -/

/-- Every page of a range is device memory of the package. -/
def rangeLocal (s : State) (tenant base pages : Nat) : Bool :=
  decide ((s.mem.pages.filter (fun e => e.1 / 2 ^ 32 == tenant && decide (base / 65536 ≤ e.1 % 2 ^ 32) &&
    decide (e.1 % 2 ^ 32 < base / 65536 + pages) &&
    (e.2.kind == .local || (e.2.kind == .remote && packageIsSelf s.selfId e.2.package && ownReach s tenant (e.2.frame * 65536))))).length
    = pages)

/-- A parameter of a pool breaks Table 14.1. -/
def poolBad (s : State) (r : Req) : Bool :=
  let pages := r.f 8 4
  let tpp := r.f 12 2
  let ms := r.f 16 4
  let mp := r.f 20 4
  r.f 0 8 % 65536 != 0 || pages = 0 || decide (2 ^ 24 < pages) || !((List.range 13).any (fun k => tpp == 2 ^ k)) || ms = 0 ||
  decide (65536 < ms) || mp = 0 || decide (65536 < mp) || decide (2 ^ 26 < ms * mp) || !rangeLocal s r.fn (r.f 0 8) pages

/-- BENCH_POOL_CREATE carried out. -/
def hBenchPoolCreate (s : State) (r : Req) : Done × State :=
  if poolBad s r then ansBad s rBadField
  else
    match alFind s.sched.tenants r.fn with
    | none => ansBad s rState
    | some t =>
    if (alFind s.pools t.part).isSome then ansBad s rState
    else
      let p : Pool := { owner := r.fn, base := r.f 0 8, pages := r.f 8 4, tpp := r.f 12 2, maxSeq := r.f 16 4,
                        maxPages := r.f 20 4, pageBytes := 65536 }
      let p := { p with area := areaPlace s r.fn (poolBytes p) }
      let s' := { s with pools := alPut s.pools t.part p }
      if t.memQuota < memUse s' r.fn || !roomFor s' r.fn then ansBad s rNoResource
      else ansOk (checkQuota s' r.fn) []

/-- BENCH_POOL_CREATE (R411, R412). -/
def execBenchPoolCreate (s : State) : Host.Outcome State Fault Refusal := completes s (serveOp 0x0130 hBenchPoolCreate s)

/-- The pool that a tenant owns, with its partition. -/
def poolOf (s : State) (tenant : Nat) : Option (Nat × Pool) := s.pools.find? (fun e => e.2.owner == tenant)

/-- Destroy a partition's pool. -/
def dropPool (s : State) (part : Nat) : State :=
  match alFind s.pools part with
  | none => s
  | some p => checkQuota { s with pools := alDel s.pools part } p.owner

/-- A step of a pool is dispatched and has not completed. -/
def poolBusy (s : State) (part : Nat) : Bool :=
  s.fe.nodes.any (fun e => e.2.active && e.2.part == part && e.2.inBench)

/-- BENCH_POOL_DESTROY carried out. -/
def hBenchPoolDestroy (s : State) (r : Req) : Done × State :=
  match poolOf s r.fn with
  | none => ansBad s rNotFound
  | some (part, _) => if poolBusy s part then ansBad s rState else ansOk (dropPool s part) []

/-- BENCH_POOL_DESTROY (R413). -/
def execBenchPoolDestroy (s : State) : Host.Outcome State Fault Refusal := completes s (serveOp 0x0131 hBenchPoolDestroy s)

/-- Fields of BENCH_SEQ_QUERY; page numbers beyond one reply are left out. -/
def seqFields (x : Option BenchSeq) : List Byte :=
  match x with
  | none => List.replicate 12 0
  | some q =>
    leBytes 1 1 ++ leBytes 1 q.prio ++ leBytes 2 q.slot ++ leBytes 4 q.len ++ leBytes 4 q.pages.length ++
    (q.pages.take 4083).flatMap (leBytes 4)

/-- BENCH_SEQ_QUERY carried out. -/
def hBenchSeqQuery (s : State) (r : Req) : Done × State :=
  match poolOf s r.fn with
  | none => ansBad s rNotFound
  | some (_, p) => if p.maxSeq ≤ r.f 0 2 then ansBad s rBadField else ansOk s (seqFields (alFind p.seqs (r.f 0 2)))

/-- BENCH_SEQ_QUERY (Table 15.9). -/
def execBenchSeqQuery (s : State) : Host.Outcome State Fault Refusal := completes s (serveOp 0x0132 hBenchSeqQuery s)

end Sys2Proof.Machine
end

