-- ==== Sys2Proof/Machine/Remote.lean ====
section
/-! DEFINITION. Routing and remote accesses (R328 to R334). -/

namespace Sys2Proof.Machine

/-! ### Requests (R330, R331) -/

/-- Take the first waiting message of some types out of a port's inbox. -/
def takeMsg (s : State) (port : Nat) (types : List Nat) : Option (LinkMsg × State) :=
  match (portOf s port).inbox.find? (fun m => types.contains m.type) with
  | some m => some (m, returnCredit (modPort s port (fun x => { x with inbox := x.inbox.erase m })) port m)
  | none => none

/-- A response to a request: it goes back by this package's route to the source. -/
def respMsg (s : State) (m : LinkMsg) (type err : Nat) (poison : Bool) (data : Line) : State :=
  sendMsg s { type := type, vc := 1, src := s.selfId.getD 0, dst := m.src, poison := poison, err := err, tag := m.tag,
              size := m.size, tenant := m.tenant, line := m.line, offset := m.offset, data := data }

/-- REJECT (R330, R331). -/
def rejectMsg (s : State) (m : LinkMsg) (err : Nat) : State := respMsg s m 0xB err false 0

/-- Bytes of the line that a request names: the whole line for a read, the bytes written, the operand of an atomic. -/
def reqSpan (m : LinkMsg) : Nat × Nat := if m.type = 0x3 then (m.offset, 2 ^ m.size) else (0, 128)

/-- Whether some export entry allows a request (R331). -/
def exportOk (s : State) (m : LinkMsg) : Bool :=
  let a := m.line * 128 + (reqSpan m).1
  s.links.exports.any (fun e =>
    let x := e.2
    (match x.src with | some p => p == m.src | none => true) && (match x.tenant with | some t => t == m.tenant | none => true) &&
    decide (x.base ≤ a) && decide (a + (reqSpan m).2 ≤ x.base + x.len) &&
    (if m.type = 0x1 then x.rd else if m.type = 0x2 then x.wr else x.atomic))

/-- The partition to which a remote access to local memory belongs: that of the memory's owner. -/
def ownerPart (s : State) (pa : Nat) : Nat := (partOf s (tenantOf s pa)).getD 64

/-- Perform a remote atomic at its home (R223): the old value returns; poisoned data leave memory unchanged. -/
def remoteAtom (s : State) (m : LinkMsg) (pa : Nat) : State :=
  let n := 2 ^ m.size
  let part := ownerPart s pa
  let (d, p) := homePeek s pa
  if p &&& maskSectors (maskOf m.offset n) != 0 then
    respMsg (homeRead s pa part (tenantOf s pa) .plain).2.2.2 m 0xA 0 true 0
  else
    let old := leNat (lineSlice d m.offset n)
    let (v, w) := atomNew m.op n old m.b.toNat m.c.toNat
    let s := if w then homeWrite s pa part (tenantOf s pa) .plain (maskOf m.offset n) (linePlace m.offset (leBytes n v)) 0
      else (homeRead s pa part (tenantOf s pa) .plain).2.2.2
    respMsg s m 0xA 0 false (BitVec.ofNat 1024 old)

/-- Perform a remote request that the export table allows (R222, R331). -/
def performRemote (s : State) (m : LinkMsg) : State :=
  let pa := m.line * 128
  let dev := match setOf s pa with
    | some x => (match x.owner with | .firmware _ => false | _ => true)
    | none => false
  if !dev || inCode s pa then rejectMsg s m 4
  else if m.type = 0x1 then
    let (d, _, p, s) := homeRead s pa (ownerPart s pa) (tenantOf s pa) .plain
    respMsg s m 0x8 0 (p != 0) d
  else if m.type = 0x2 then
    let s := homeWrite s pa (ownerPart s pa) (tenantOf s pa) .plain m.mask m.data (if m.poison then 3 else 0)
    respMsg s m 0x9 0 false 0
  else remoteAtom s m pa

/-- Forward a message towards its destination (R330). A REJECT that finds no way is dropped (DESIGN CHOICE, log entry 155). -/
def forwardMsg (s : State) (m : LinkMsg) : State :=
  let back (s : State) (err : Nat) : State := if m.type = 0xB then s else rejectMsg s m err
  if 2 ≤ m.hop then back (raiseEv s pf gLNK 6 none) 3
  else
    match routePort s m.dst m.line with
    | none => back s 2
    | some p => sendOn s p { m with hop := m.hop + 1 }

/-- REMOTE_REQUEST_RECEIVE (R330, R331): the oldest request of a port is forwarded, rejected, or performed after the export
check, once the home can serve it (R295). -/
def execRemoteRequestReceive (port : Nat) (s : State) : Host.Outcome State Fault Refusal :=
  completes s (
    if s.pm.phase != .running then s
    else
      match takeMsg s port [0x1, 0x2, 0x3] with
      | none => s
      | some (m, t) =>
        let pa := m.line * 128
        if t.selfId != some m.dst then forwardMsg t m
        else if !exportOk t m then rejectMsg t m 1
        else if !(m.type == 0x2 && maskFull m.mask && homeAwake t pa) && !homeReady t pa (ownerPart t pa) then s
        else performRemote t m)

/-! ### Responses (R332, R333) -/

/-- The error of a response: REJECT's code, or 6 for poison. -/
def respErr (m : LinkMsg) : Nat := if m.type = 0xB then (if m.err = 0 then 1 else m.err) else if m.poison then 6 else 0

/-- A response answers a transaction: it comes from the package that the request named, or is the REJECT of a package on the
way (R330). -/
def respFits (m : LinkMsg) (t : Txn) : Bool :=
  (match t.target with
    | .remote pk a => (pk == m.src || (m.type == 0xB && (m.err == 2 || m.err == 3))) && a / 128 == m.line
    | _ => false) &&
  (m.type == 0xB || m.type == (match t.kind with
    | .load => 0x8
    | .atom => 0xA
    | .store => 0x9
    | .engine => 0x9
    | .read => 0x8
    | .fence => 0xB))

/-- REMOTE_RESPONSE_RECEIVE (R330, R332, R333): the oldest response of a port completes or faults the access that holds its
tag, or is forwarded; one whose request has timed out is discarded. -/
def execRemoteResponseReceive (port die : Nat) (s : State) : Host.Outcome State Fault Refusal :=
  completes s (
    match takeMsg s port [0x8, 0x9, 0xA, 0xB] with
    | none => s
    | some (m, s) =>
      if s.selfId != some m.dst then forwardMsg s m
      else
        match txnOf s die m.tag with
        | none => s
        | some t =>
          if !respFits m t then s
          else
            let e := respErr m
            let s := if t.parked && !t.dead then bump s t.tenant 0x30130 1 else s
            answerTxn s t e (if e = 0 then none else some (errFault e)) m.data)

/-- REMOTE_TIMEOUT (R333). -/
def execRemoteTimeout (die tag : Nat) (s : State) : Host.Outcome State Fault Refusal :=
  completes s (
    match txnOf s die tag with
    | none => s
    | some t =>
      match t.target with
      | .remote _ _ =>
        if t.since + 100000 * s.links.timeoutMs ≤ s.time then answerTxn s t 5 (some .remoteTimeout) 0 else s
      | _ => s)

/-! ### The route table (R328) -/

/-- Ports that a new table removes from some entry. -/
def removedPorts (old new : AL Nat) : List Nat :=
  (List.range 40).filter (fun p => old.any (fun e => bit e.2 p && !bit (alGet 0 new e.1) p))

/-- A written route table takes effect when no message of the package's own traffic waits on a port that it removes (R328). -/
def applyRoutes (s : State) : State :=
  match s.links.newRoutes with
  | none => s
  | some t =>
    if (removedPorts s.links.routes t).any (fun p => (portOf s p).wait.any (fun m => some m.src == s.selfId && m.vc < 2)) then s
    else { s with links.routes := t, links.newRoutes := none }

/-- ROUTE_TABLE_APPLY (R328). -/
def execRouteTableApply (s : State) : Host.Outcome State Fault Refusal := completes s (applyRoutes s)

end Sys2Proof.Machine
end

