-- ==== Sys2Proof/Machine/Scheduling.lean ====
section
/-! DEFINITION. Scheduling (spec chapter 13): placement of jobs, pre-emption with its saves and restores, dispatch of nodes
and placement of blocks, the end of core resets, the referee and the deadline. -/

namespace Sys2Proof.Machine

/-! ### Reserve and ordinary cores (R385) -/

/-- Core of a region, 0 to 47, at position k of the reserve list. -/
def reservePos (k : Nat) : Nat := [0, 3, 1, 4, 2, 5].getD (k % 6) 0 * 8 + (7 - k / 6)

/-- The reserve cores of a region: the first n positions whose core is present. -/
def regionReserve (s : State) (r : Nat) : List Nat :=
  (((List.range 48).map (fun k => 48 * r + reservePos k)).filter (fun c => (coreOf s c).present)).take s.sched.n

/-- Whether a core is a reserve core. -/
def isReserve (s : State) (c : Nat) : Bool := (regionReserve s (coreRegion c)).contains c

/-- A partition's reserve cores and its ordinary cores, in rising order. -/
def reserveCores (s : State) (part : Nat) : List Nat := (partCores s part).filter (isReserve s)
def ordinaryCores (s : State) (part : Nat) : List Nat :=
  (partCores s part).filter (fun c => !isReserve s c && !(match (coreOf s c).owner.bind (alFind s.fe.jobs) with
    | some j => jobRt s j
    | none => false))

/-- A core is free (R387): no job holds it, and no context is being saved on it or waits to be restored to it. -/
def coreFree (s : State) (c : Nat) : Bool :=
  let x := coreOf s c
  x.owner.isNone && x.hold == .free && !x.draining && (alFind s.saved c).isNone

/-! ### Placement (R387, R390) -/

/-- Class of a job's queue. -/
def jobClass (s : State) (j : Job) : QClass := ((alFind s.fe.queues j.queue).map (·.cls)).getD .bulk

/-- Whether a job's queue is HALTED. -/
def jobHalted (s : State) (j : Job) : Bool := ((alFind s.fe.queues j.queue).map (fun q => q.st == .halted)).getD true

/-- The started jobs of a partition that wait for placement. -/
def waitingJobs (s : State) (part : Nat) : List (Nat × Job) :=
  s.fe.jobs.filter (fun e => e.2.part == part && (e.2.phase == .started || e.2.phase == .parsing) && !e.2.failing && !jobHalted s e.2)

/-- The first of some jobs by class, then acceptance. -/
def firstJob (s : State) (l : List (Nat × Job)) : Option (Nat × Job) :=
  l.foldl (fun b e =>
    match b with
    | none => some e
    | some x =>
      let ce := classRank (jobClass s e.2)
      let cx := classRank (jobClass s x.2)
      if ce < cx || (ce = cx && e.2.entry.order < x.2.entry.order) then some e else some x) none

/-- A job takes its place: its nodes may be dispatched and its shot clock starts (R376). -/
def placed (s : State) (k : Nat) (cores : List Nat) : State :=
  let s := modJob s k (fun j => { j with phase := .placed, cores := cores })
  match alFind s.fe.jobs k with
  | some j => syncShots (restartShot (releaseNodes s k) j.queue)
  | none => s

/-- Rank of an ordinary core in the order in which an RT job takes cores: free, then held by BULK, NORMAL and HI jobs; none
for a core that is not chosen (R390, R508). -/
def takeRank (s : State) (c : Nat) : Option Nat :=
  let x := coreOf s c
  if x.halted then none
  else
    match x.owner.bind (alFind s.fe.jobs) with
    | none => some 0
    | some j =>
      match jobClass s j with
      | .bulk => some 1
      | .normal => some 2
      | .hi => some 3
      | .rt => none

/-- The first `n` ordinary cores by rank, then index. -/
def takeOrdinary (s : State) (cs : List Nat) (n : Nat) : List Nat :=
  ((List.range 4).flatMap (fun r => cs.filter (fun c => takeRank s c == some r))).take n

/-- The RT job that a partition places next, with the cores that it takes and whether it fits its reserve (R390); none while an
RT job of the partition is placed, or while the cores are too few. -/
def rtPlan (s : State) (part : Nat) : Option (Nat × Job × List Nat × Bool) :=
  let isRt (e : Nat × Job) : Bool := jobClass s e.2 == .rt
  if s.fe.jobs.any (fun e => e.2.part == part && isRt e && e.2.phase == .placed) then none
  else
    match firstJob s ((waitingJobs s part).filter isRt) with
    | none => none
    | some (k, j) =>
      let res := reserveCores s part
      let n := min (((alFind s.fe.queues j.queue).map (·.rtCores)).getD 0) (partCores s part).length
      let fits := decide (n ≤ res.length)
      let cs := if fits then res.take n else res ++ takeOrdinary s (ordinaryCores s part) (n - res.length)
      if j.phase != .parsing || n = 0 || cs.length < n then none else some (k, j, cs, fits)

/-- Other jobs' turn at placement (R395): no RT job can be placed now. -/
def placeTurn (s : State) : Bool :=
  s.sched.strict || s.sched.parts.all (fun e => match rtPlan s e.1 with
    | some (_, j, _, _) => xlatOut s j.fn
    | none => true)

/-- JOB_PLACE (R387, R395): only the first job of the partition's order, on the C lowest-indexed free ordinary cores. -/
def execJobPlace (part : Nat) (s : State) : Host.Outcome State Fault Refusal :=
  completes s (
    match firstJob s ((waitingJobs s part).filter (fun e => jobClass s e.2 != .rt)) with
    | none => s
    | some (k, j) =>
      match alFind s.sched.tenants j.tenant with
      | none => s
      | some t =>
        let ord := ordinaryCores s part
        let n := min t.coresMax ord.length
        let free := (ord.filter (coreFree s)).take n
        if j.phase != .parsing || n = 0 || free.length < n || !placeTurn s then s
        else
          let s := free.foldl (fun s c => modCore s c (fun x => { x with owner := some k })) s
          tryEnd (placed s k free) k)

/-- TENANT_SWITCH_SCRUB (R273): in strict isolation mode, before the first dispatch for a new tenant into a partition. -/
def execTenantSwitchScrub (part tenant : Nat) (s : State) : Host.Outcome State Fault Refusal :=
  completes s (
    match alFind s.sched.parts part with
    | none => s
    | some p =>
      if !s.sched.strict || p.served = some tenant || partOf s tenant != some part then s
      else
        let s := scrubPart s part
        { s with sched.parts := alPut s.sched.parts part { p with served := some tenant } })

/-- A core of the RT job is handed over or chosen for pre-emption (R390): a free core is its own at once; a core in a save
turn when its save completes; a core whose saved context waits at once; any other held core waits for its turn. -/
def takeCore (s : State) (k c : Nat) : State :=
  modCore s c (fun x =>
    match x.hold with
    | .saving _ => { x with hold := .saving k }
    | .lent _ => { x with hold := .lent k }
    | _ => if x.owner.isSome then { x with hold := .chosen k } else { x with owner := some k })

/-- The substitute's header at placement (R400): SUBST_INVALID turns the referee off; true while the read waits for a
translation. -/
def checkSubst (s : State) (k : Nat) (j : Job) : Bool × State :=
  if j.substAddr = 0 || j.refOff then (false, s)
  else
    let bad (s : State) : State := qosEvent (modJob s k (fun j => { j with refOff := true })) j.fn 2
    if graphRefBad j.substAddr j.substLen then (false, bad s)
    else
      match agentRead s j.tenant j.part j.substAddr (min j.substLen prefetchMax) .plain true with
      | (.wait, s) => (true, s)
      | (.fault _, s) => (false, bad s)
      | (.ok b, s) =>
        (false, if headerBad (b.take 64) j.substLen false then bad s else modJob s k (fun j => { j with substPre := b }))

/-- RT_JOB_PLACE (R390, R398, R400): the partition's first waiting RT job, when no RT job of it is placed. -/
def execRtJobPlace (part : Nat) (s : State) : Host.Outcome State Fault Refusal :=
  completes s (
    match rtPlan s part with
    | none => s
    | some (k, j, cs, fits) =>
      match checkSubst s k j with
      | (true, s) => s
      | (false, s) =>
        let owners := (cs.filterMap (fun c => (coreOf s c).owner)).dedup
        let pre := (cs.filter (fun c => (coreOf s c).owner.isSome)).length
        let s := cs.foldl (fun s c => takeCore s k c) s
        let s := ((owners.filterMap (fun o => (alFind s.fe.jobs o).map (·.fn))).dedup).foldl (fun s f => qosEvent s f 6) s
        let s := if pre = 0 then s else bump s j.fn 0x30110 1
        let s := modJob s k (fun j => { j with fits := fits, preempted := pre })
        let late := ((alFind s.fe.jobs k).map (fun j => j.lateEarly && !j.refOff)).getD false
        if late then
          placed (substitute (modJob s k (fun j => { j with phase := .placed })) k j.fn) k cs
        else placed s k cs)

/-! ### Saves and restores (R391 to R394) -/

/-- Cores of a region in rising order. -/
def regionCores (s : State) (r : Nat) : List Nat := (s.cores.filter (fun e => coreRegion e.1 == r)).map (·.1)

/-- A core chosen for pre-emption and not halted. -/
def coreChosen (s : State) (c : Nat) : Option Nat :=
  let x := coreOf s c
  match x.hold with
  | .chosen k => if x.halted then none else some k
  | _ => none

/-- CORE_SAVE_TURN (R391): chosen cores without resident blocks are handed over without a save; when the region's previous turn
has completed, the next cores, at most 16 in rising order, are saved. -/
def execCoreSaveTurn (region : Nat) (s : State) : Host.Outcome State Fault Refusal :=
  completes s (
    let cs := (regionCores s region).filter (fun c => (coreChosen s c).isSome)
    let setHold (h : Nat → CoreHold) (s : State) (c : Nat) : State :=
      modCore s c (fun x => { x with hold := h ((coreChosen s c).getD 0) })
    let save := if (regionOf s region).turn = 0 then (cs.filter (fun c => !(execOf s c).blocks.isEmpty)).take 16 else []
    let s := (cs.filter (fun c => (execOf s c).blocks.isEmpty)).foldl (setHold .lent) s
    let s := save.foldl (setHold .saving) s
    syncShots (modRegion s region (fun x => { x with turn := x.turn + save.length })))

/-- The epilogue jobs of a core leave their contexts with its save (R147). -/
def saveEpis (s : State) (c : Nat) : State :=
  modCluster s (coreCluster c) (fun k =>
    ((k.epi.filter (fun e => e.2.core == c && !e.2.saved)).foldl (fun (k : Cluster) e =>
      let epi := alPut (alDel k.epi e.1) (64 + 16 * (c % 8) + e.2.job) { e.2 with saved := true }
      { k with epi := epi }) k))

/-- They take contexts again when the core resumes. -/
def restoreEpis (s : State) (c : Nat) : State :=
  modCluster s (coreCluster c) (fun k =>
    ((k.epi.filter (fun e => e.2.core == c && e.2.saved)).foldl (fun (k : Cluster) e =>
      let free := ((List.range 16).find? (fun n => (alFind k.epi n).isNone)).getD 16
      let epi := alPut (alDel k.epi e.1) free { e.2 with saved := false }
      { k with epi := epi }) k))

/-- The save may complete (R70, R244): the array has drained, every write-buffer entry is performed or sent, and what a waiting
fence covers in local memory has ended. -/
def saveReady (e : Exec) : Bool :=
  e.mmas.isEmpty && e.wb.all (·.sent) && e.fences.all (fun f =>
    e.loads.all (fun l => !f.loads.contains l.id || !l.target.isLoc) && e.atoms.all (fun a => !f.atoms.contains a.id || !a.target.isLoc))

/-- A context as it is saved: without its L1, which its loads fill no more (R244). -/
def Exec.kept (e : Exec) : Exec :=
  { e with l1 := [], offers := [], dets := [], loads := e.loads.map (fun l => { l with nofill := true }) }

/-- CORE_SAVE_COMPLETE (R392, R393, R70, R244): once the array has drained and every write-buffer entry is performed or sent,
the waiting fences complete, the context is saved, its remote tags are parked, and the core is the RT job's. -/
def execCoreSaveComplete (core : Nat) (s : State) : Host.Outcome State Fault Refusal :=
  completes s (
    let x := coreOf s core
    match x.hold with
    | .saving k =>
      if !saveReady x.exec then s
      else
        let r := coreRegion core
        let s := x.exec.fences.foldl (fun s f => fenceOver s core f) s
        let e := execOf s core
        let txns := s.links.txns.map (fun t => if t.core = core && !t.dead then { t with parked := true } else t)
        let saved := if e.blocks.isEmpty then s.saved else alPut s.saved core e.kept
        let s := saveEpis { s with links.txns := txns, saved := saved } core
        let s := modCore s core (fun c => { c with hold := .lent k, exec :=
          { split := e.split, lastTenant := e.lastTenant, l1 := e.l1, istore := e.istore, code := e.code } })
        let s := modRegion s r (fun y => { y with turn := y.turn - 1 })
        let fn := ((x.owner.bind (alFind s.fe.jobs)).map (·.fn))
        let s := match fn with
          | some f => bump s f 0x30118 1
          | none => s
        syncShots s
    | _ => s)

/-- PARKED_RESPONSE (R393): the response of a parked tag is recorded with the saved context; after the context has resumed it
is delivered to the core as an ordinary response. -/
def execParkedResponse (die tag err : Nat) (poison : Bool) (data : Line) (s : State) : Host.Outcome State Fault Refusal :=
  completes s (
    match txnOf s die tag with
    | none => s
    | some t =>
      if !t.parked && !t.dead then s
      else
        let err := if err = 0 && poison && t.kind != .store then 6 else err % 7
        let s := if t.dead then s else bump s t.tenant 0x30130 1
        answerTxn s t err (if err = 0 then none else some (errFault err)) data)

/-- Whether the RT job that a core is lent to has ended. -/
def lentOver (s : State) (c : Core) : Bool :=
  match c.hold with
  | .lent k => (alFind s.fe.jobs k).isNone
  | _ => false

/-- Writes of a context that were rejected or timed out while it was saved fail the tasks whose stores they held (R393). -/
def parkedWrites (s : State) (core : Nat) : State :=
  let bad := (execOf s core).wb.filter (fun w => w.failed.isSome)
  let s := modExec s core (fun x => { x with wb := x.wb.filter (fun w => w.failed.isNone) })
  bad.foldl (fun s w => w.nodes.foldl (fun s n =>
    failNode s n { status := .fault, fault := w.failed.getD .none, loc := locOf core }) s) s

/-- CORE_RESTORE (R394): after the RT job's record, the saved context goes back to its core, which returns to its job. -/
def execCoreRestore (core : Nat) (s : State) : Host.Outcome State Fault Refusal :=
  completes s (
    let x := coreOf s core
    if !lentOver s x || x.draining || !x.exec.blocks.isEmpty || !x.exec.wb.isEmpty || !x.exec.mmas.isEmpty then s
    else
      match alFind s.saved core with
      | none => syncShots (modCore s core (fun c => { c with hold := .free }))
      | some e =>
        let s := modCore { s with saved := alDel s.saved core } core (fun c =>
          { c with hold := .free, exec := { e with istore := c.exec.istore, code := c.exec.code } })
        syncShots (restoreEpis (parkedWrites s core) core))

/-! ### Dispatch of nodes (R364) -/

/-- The break units that a dispatch fires, after each has counted it (R511). -/
def breakCount (s : State) (n : Node) : AL BreakUnit × List Nat :=
  let sees (b : BreakUnit) : Bool := b.en && inScope s n.tenant && (b.fn == pf || b.fn == n.tenant)
  let cnt (b : BreakUnit) : BreakUnit := if sees b && b.mode = 0 && b.queue = n.queue then { b with count := b.count + 1 } else b
  let units := alMap s.dbg.breaks (fun _ b => cnt b)
  let fires (b : BreakUnit) : Bool :=
    sees b && (if b.mode = 0 then b.queue == n.queue && b.count == b.val else (ndTag n.desc &&& b.mask) == (b.val &&& b.mask))
  let hit := (units.filter (fun e => fires e.2)).map (·.1)
  (alMap units (fun _ b => if fires b then { b with fired := true, en := false } else b), hit)

/-- The break units watch a dispatch decision (R511); true when the node is held until the release. -/
def breakWatch (s : State) (k : Nat) (n : Node) : Bool × State :=
  if n.seen then (false, s)
  else
    let (units, hit) := breakCount s n
    let s := modNode { s with dbg.breaks := units } k (fun n => { n with seen := true })
    if hit.isEmpty then (false, s)
    else
      let v := hit.foldl (fun m u => m + 2 ^ (60 + u % 4)) 0 + n.queue * 2 ^ 48 + n.idx * 2 ^ 32 + ndTag n.desc % 2 ^ 32
      let s := raiseWhistle { s with dbg.breakHit := v } 1
      if s.dbg.action && s.dbg.level = 2 then (true, { s with dbg.heldNode := some k }) else (false, s)

/-- The kernel that a node names, when its image is the tenant's and loaded (R209, R210). -/
def kernelOf (s : State) (n : Node) : Option Kernel :=
  match alFind s.images (kImage n.desc) with
  | some i => if i.tenant = n.tenant && !i.unloading then i.kernels[kKernel n.desc]? else none
  | none => none

/-- A block that no empty core can hold (R160). -/
def unplaceable (d : List Byte) (x : Kernel) : Bool :=
  regsExceed (kThreads d) x.nregs || decide (32 * kSplit d < x.slmKib) ||
  decide (48 < groupsOf (kThreads d))

/-- Resolve one versioned-tensor reference at dispatch (R152, R153). -/
def resolveRef (s : State) (tenant x : Nat) : Except DevFault (VrefHold × State) :=
  let off : VrefHold := { tensor := 0, mode := 4, key := 0 }
  if !bit x 21 then .ok (off, s)
  else
    let t := vrefTensor x
    match alFind s.vtensors t with
    | none => .error .nodeInvalid
    | some v =>
      if v.tenant != tenant then .error .nodeInvalid
      else
        let n := v.bases.length
        let key := bits x 63 32
        let live := (s.captures.find? (fun c => c.2.tensor == t && c.2.key == some key)).map (·.1)
        let add (c : Capture) : State × Nat :=
          ({ s with captures := alPut s.captures s.nextCapture c, nextCapture := s.nextCapture + 1 }, s.nextCapture)
        match vrefMode x with
        | 0 =>
          let (s, i) := add { tensor := t, key := none, version := v.c, count := 1 }
          .ok ({ tensor := t, mode := 0, key := 0, cap := some i, rd := v.bases.getD (v.c % n) 0 }, s)
        | 1 =>
          if live.isSome then .error .versionNotCaptured
          else
            let (s, i) := add { tensor := t, key := some key, version := v.c, count := bits x 31 24 + 1 }
            .ok ({ tensor := t, mode := 1, key := key, cap := some i, rd := v.bases.getD (v.c % n) 0 }, s)
        | 2 =>
          match live.bind (fun i => (alFind s.captures i).map (fun c => (i, c))) with
          | none => .error .versionNotCaptured
          | some (i, c) => .ok ({ tensor := t, mode := 2, key := key, cap := some i, rd := v.bases.getD (c.version % n) 0 }, s)
        | _ =>
          .ok ({ tensor := t, mode := 3, key := 0, rd := v.bases.getD (v.c % n) 0, wr := v.bases.getD ((v.c + 1) % n) 0 },
            { s with vtensors := alPut s.vtensors t { v with updating := true } })

/-- Resolve the four references in order; on a fault those already resolved are released at completion (R153). -/
def resolveRefs (s : State) (tenant : Nat) : List Nat → List VrefHold → List VrefHold × Option DevFault × State
  | [], acc => (acc, none, s)
  | x :: r, acc =>
    match resolveRef s tenant x with
    | .ok (h, s) => resolveRefs s tenant r (acc ++ [h])
    | .error f => (acc, some f, s)

/-- A KERNEL node at dispatch: the checks of R209, R160 and R152; then it runs, with its policy captured (R121). -/
def dispatchKernel (s : State) (k : Nat) (n : Node) : State :=
  let fail (s : State) (f : DevFault) : State :=
    modNode s k (fun x => { x with phase := .finished, fail := some { status := .fault, fault := f, node := x.idx } })
  match kernelOf s n with
  | none => fail s .imageInvalid
  | some x =>
    if x.maxThreads < kThreads n.desc then fail s .nodeInvalid
    else if unplaceable n.desc x then fail s .blockUnplaceable
    else
      match resolveRefs s n.tenant ((List.range 4).map (fun i => fieldAt n.desc (96 + 8 * i) 8)) [] with
      | (hs, some f, s) => fail (modNode s k (fun x => { x with holds := hs })) f
      | (hs, none, s) =>
        let pol := (fnOf s n.tenant).policies.getD (kPolicy n.desc) 0
        modNode s k (fun x => { x with phase := .running, holds := hs, policy := pol })

/-- A range descriptor that breaks Table 9.7. -/
def rangeBad (d : List Byte) : Bool :=
  let len := fieldAt d 64 8
  fieldAt d 56 8 % 128 != 0 || len % 128 != 0 || decide (len < 128) || decide (2 ^ 40 < len) || decide (3 < fieldAt d 72 1) ||
  ((d.drop 73).take 15).any (· != 0)

/-- A copy descriptor that breaks Table 11.9, or whose ranges overlap (R335). -/
def copyBad (d : List Byte) : Bool :=
  let a := fieldAt d 56 8
  let b := fieldAt d 64 8
  let len := fieldAt d 72 8
  a % 128 != 0 || b % 128 != 0 || len % 128 != 0 || decide (len < 128) || decide (2 ^ 40 < len) || decide (1 < fieldAt d 80 1) ||
  ((d.drop 81).take 7).any (· != 0) || overlaps (a, len) (b, len)

/-- A RANGE node passes to its engine (R269), a COPY node to its (R335), a BENCH_STEP to the bench (R416). -/
def dispatchEngine (s : State) (k : Nat) (n : Node) : State :=
  let d := n.desc
  let die := engineDie s n.part
  let fail (s : State) (f : DevFault) : State :=
    modNode s k (fun x => { x with phase := .finished, fail := some { status := .fault, fault := f, node := x.idx } })
  let run (s : State) : State := modNode s k (fun x => { x with phase := .running })
  match ndKind d with
  | 2 =>
    if rangeBad d then fail s .descriptorInvalid
    else
      let op : RangeOp := { node := k, tenant := n.tenant, part := n.part, base := fieldAt d 56 8, len := fieldAt d 64 8,
                            op := fieldAt d 72 1 % 4 }
      run (modDie s die (fun x => { x with ranges := x.ranges ++ [op] }))
  | 3 =>
    if copyBad d then fail s .descriptorInvalid
    else
      let op : CopyOp := { node := k, tenant := n.tenant, part := n.part, src := fieldAt d 56 8, dst := fieldAt d 64 8,
                           len := fieldAt d 72 8, hint := fieldAt d 80 1 }
      run (modDie s die (fun x => { x with copies := x.copies ++ [op] }))
  | _ =>
    match alFind s.pools n.part with
    | some p =>
      if p.owner != n.tenant || benchBodyBad d then fail s .nodeInvalid
      else modNode (run { s with pools := alPut s.pools n.part { p with waiting := p.waiting ++ [k] } }) k (fun x => { x with inBench := true })
    | none => fail s .nodeInvalid

/-- A ready node of a placed job that nothing holds may be dispatched (R364); in strict isolation mode the scrub of R273 comes
first. -/
def dispatchable (s : State) (node : Nat) (n : Node) (j : Job) : Bool :=
  n.phase == .ready && j.phase == .placed && !j.failing && !j.substStop && !jobHalted s j && !j.cores.any (fun c => (coreOf s c).halted) &&
  !onHold s n && s.dbg.heldNode != some node &&
  (!s.sched.strict || ((alFind s.sched.parts n.part).bind (·.served)) == some n.tenant)

/-- Nodes of RT jobs for which `wants` holds go first, in order of acceptance (R395). -/
def rtFirst (s : State) (j : Job) (wants : Nat → Node → Job → Bool) : Bool :=
  s.fe.nodes.all (fun e => match alFind s.fe.jobs e.2.job with
    | none => true
    | some x => jobClass s x != .rt || !sameStage s j.fn x.fn || !wants e.1 e.2 x || (jobClass s j == .rt && decide (j.entry.order ≤ x.entry.order)))

/-- A job's turn at dispatch. -/
def dispatchTurn (s : State) (j : Job) : Bool := rtFirst s j (dispatchable s)

/-- NODE_DISPATCH (R364, R395): a ready node of a placed job that nothing holds; a NOP completes at its dispatch. The referee tests
before the commit node's dispatch (R398), and in strict isolation mode the scrub of R273 comes first. -/
def execNodeDispatch (node : Nat) (s : State) : Host.Outcome State Fault Refusal :=
  completes s (
    match alFind s.fe.nodes node with
    | none => s
    | some n =>
      match alFind s.fe.jobs n.job with
      | none => s
      | some j =>
        if !dispatchable s node n j || !dispatchTurn s j then s
        else
          let commit := n.idx == j.commit && !j.subst && jobClass s j == .rt
          let s := if commit && j.commitDue then refTest (modJob s n.job (fun j => { j with commitDue := false })) n.job else s
          match alFind s.fe.nodes node with
          | none => s
          | some n =>
            let (held, s) := breakWatch s node n
            if held then s
            else
              let s := modJob s n.job (fun j => { j with
                dispatched := j.dispatched + 1, commitDone := j.commitDone || commit
                commitTime := if commit then some s.time else j.commitTime })
              let s := match alFind s.sched.parts n.part with
                | some p => { s with sched.parts := alPut s.sched.parts n.part { p with served := some n.tenant } }
                | none => s
              let s := bump s n.tenant gsNodes 1
              let s := traceEmit s 1 0 frontSrc (some n.tenant) (ndTag n.desc) (n.queue + n.idx * 2 ^ 12 + ndKind n.desc * 2 ^ 28)
              match ndKind n.desc with
              | 0 => modNode s node (fun x => { x with phase := .finished })
              | 1 => syncShots (dispatchKernel s node n)
              | _ => syncShots (dispatchEngine s node n))

/-! ### Placement of blocks (R158, R159, R389) -/

/-- Whether a job may run blocks on a core now. -/
def coreAvailable (s : State) (job c : Nat) : Bool :=
  let x := coreOf s c
  x.present && !x.fenced && !x.draining && !x.halted && x.power == .active &&
    ((x.owner == some job && x.hold == .free) || x.hold == .lent job)

/-- Whether a block fits on a core (Table 6.1, R159). -/
def blockFits (x : Exec) (d : List Byte) (k : Kernel) : Bool :=
  let regs := x.blocks.foldl (fun a e => a + groupsOf e.2.threads * allocRegs e.2.task.nregs * 128) 0
  let slm := x.blocks.foldl (fun a e => a + e.2.task.slmKib) 0
  decide (x.groups.length + groupsOf (kThreads d) ≤ 48) && decide (x.blocks.length < 16) &&
  decide (regs + groupsOf (kThreads d) * allocRegs k.nregs * 128 ≤ 262144) && decide (slm + k.slmKib ≤ 32 * kSplit d) &&
  (x.blocks.isEmpty || x.split == kSplit d)

/-- The kernel of a dispatched node; it stays with its image until the last block of it has ended (R210). -/
def runKernel (s : State) (n : Node) : Option Kernel := (alFind s.images (kImage n.desc)).bind (fun i => i.kernels[kKernel n.desc]?)

/-- A running KERNEL node with blocks still to place. -/
def placing (n : Node) : Bool :=
  n.phase == .running && ndKind n.desc == 1 && n.fail.isNone && !n.stopping && decide (n.nextBlock < kBlocks n.desc)

/-- Cores on which the next block of a node fits. -/
def fitCores (s : State) (n : Node) : List Nat :=
  match runKernel s n, alFind s.fe.jobs n.job with
  | some k, some j => if placing n then j.cores.filter (fun c => coreAvailable s n.job c && blockFits (execOf s c) n.desc k) else []
  | _, _ => []

/-- The core that takes the next block: the fewest resident blocks, then the lowest index (R389). -/
def bestCore (s : State) (n : Node) : Option Nat :=
  (fitCores s n).foldl (fun b c =>
    match b with
    | none => some c
    | some x =>
      let bc := (execOf s c).blocks.length
      let bx := (execOf s x).blocks.length
      if bc < bx || (bc = bx && c < x) then some c else some x) none

/-- Order of dispatchable nodes (R389). -/
def nodeBefore (a b : Node) : Bool := decide (a.since < b.since) || (a.since == b.since && decide (a.idx < b.idx))

/-- The task that a block's core holds. -/
def taskCtx (s : State) (node : Nat) (n : Node) (k : Kernel) (core : Nat) : TaskCtx :=
  let alt := (coreOf s core).spareRow.isSome
  { tenant := n.tenant, part := n.part, job := n.job, node := node, image := kImage n.desc, kernel := kKernel n.desc,
    variant := if alt then 67 else 66, nblocks := kBlocks n.desc, targs := fieldAt n.desc 80 8,
    vrd := n.holds.map (·.rd), vwr := n.holds.map (·.wr), seed := BitVec.ofNat 64 (fieldAt n.desc 88 8), policy := n.policy,
    tag := ndTag n.desc, slmKib := k.slmKib, nregs := k.nregs, recon := k.recon, vmap := k.vmap,
    lines := if alt then k.altLines else k.lines, nend := if alt then k.altEnd else k.nend }

/-- The launch mask of group g of a block of T threads (R156). -/
def launchMask (threads g : Nat) : Lanes :=
  let n := min 32 (threads - 32 * g)
  BitVec.ofNat 32 (2 ^ n - 1)

/-- Start a block on a core (R156, R159, R161, R163, R212, R238). Its groups take the lowest free residency slots and the block
the lowest free number (DESIGN CHOICE, log entry 144). -/
def startBlock (s : State) (node : Nat) (n : Node) (k : Kernel) (core : Nat) : State :=
  let x := execOf s core
  let t := taskCtx s node n k core
  let split := kSplit n.desc
  let wipe := x.split != split || x.lastTask != some node
  let clear := x.lastTenant != some n.tenant
  let birth := if clear then none else some s.freeCtr
  let s := if clear then s else { s with freeCtr := s.freeCtr + 1 }
  let blk := ((List.range 17).find? (fun b => (alFind x.blocks b).isNone)).getD 16
  let b : Block := { task := t, index := n.nextBlock, threads := kThreads n.desc, birth := birth }
  let free := (List.range 48).filter (fun g => (alFind x.groups g).isNone)
  let gs := (free.take (groupsOf b.threads)).zipIdx
  let groups := gs.foldl (fun (m : AL Group) e =>
    let launch := launchMask b.threads e.2
    alPut m e.1 { block := blk, index := e.2, launch := launch, paths := holdPaths k.recon [{ lanes := launch, pc := k.entry }],
                  birth := birth }) x.groups
  let sub := (t.image, t.kernel, t.variant)
  let x := if wipe then x.noL1 else x
  let x := { x with split := split, dets := x.dets.filter (fun d => !(gs.any (fun g => g.1 == d.slot))), lastTask := some node, lastTenant := some n.tenant,
                    blocks := alPut x.blocks blk b, groups := groups,
                    subs := if x.subs.contains sub then x.subs else x.subs ++ [sub] }
  let s := modExec s core (fun _ => x)
  traceEmit (taskStart s core t.tag) 4 0 (locOf core) (some n.tenant) t.tag n.nextBlock

/-- The measured dispatch latency (R396): the first block of node 0 of the job's original graph. -/
def rtLatency (s : State) (k : Nat) (n : Node) : State :=
  match alFind s.fe.jobs k with
  | none => s
  | some j =>
    if jobClass s j != .rt || n.idx != 0 || n.nextBlock != 0 || n.subst then s
    else
      let lat := s.time - j.entry.db
      let s := modJob s k (fun j => { j with latency := some lat })
      let s := bump s j.fn 0x30108 (ceilUs lat - counterOf s j.fn 0x30108)
      if (if j.fits then 2000 else 8000) < lat then qosEvent s j.fn 4 else s

/-- A job's turn to have its blocks placed. -/
def blockTurn (s : State) (n : Node) : Bool :=
  match alFind s.fe.jobs n.job with
  | some j => rtFirst s j (fun _ x _ => (bestCore s x).isSome)
  | none => true

/-- BLOCK_PLACE (R389, R395): the next block of a running KERNEL node starts on the core of its job that R389 gives, when no earlier
node of the job has a block that fits. -/
def execBlockPlace (node core : Nat) (s : State) : Host.Outcome State Fault Refusal :=
  completes s (
    match alFind s.fe.nodes node with
    | none => s
    | some n =>
      match runKernel s n with
      | none => s
      | some k =>
        let earlier := (nodesOf s n.job).any (fun e => nodeBefore e.2 n && (bestCore s e.2).isSome)
        let asleep := (coreOf s core).power == .retention || decide (s.time < (coreOf s core).wakeAt)
        if bestCore s n != some core || earlier || !blockTurn s n || asleep then s
        else
          let s := modCore s core (fun c => { c with power := if c.power = .gated then .active else c.power })
          let s := startBlock s node n k core
          let s := rtLatency s n.job n
          syncShots (modNode s node (fun x => { x with nextBlock := x.nextBlock + 1, liveBlocks := x.liveBlocks + 1 })))

/-! ### The end of a core reset (R463) -/

/-- CORE_RESET_DRAIN_END (R463, steps 3 to 5): when the write buffer has drained, or after 10 µs, what remains is discarded
and counted, the core is cleared, and it is free and leaves any halt (R508). -/
def execCoreResetDrainEnd (core : Nat) (s : State) : Host.Outcome State Fault Refusal :=
  completes s (
    let c := coreOf s core
    let left := c.exec.wb.filter (fun e => !e.sent)
    if !c.draining || (!left.isEmpty && decide (s.time < c.resetAt + 1000)) then s
    else
      let s := left.foldl (fun s e => bump s e.tenant 0x90118 1) s
      let s := ((left.map (·.tenant)).dedup).foldl (fun s t => raiseEv s t gPM 3 none) s
      let s := match c.resetNode with
        | some k => modNode s k (fun n => { n with aux1 := n.aux1 + left.length })
        | none => s
      let kept := (alFind s.saved core).isSome
      let txns := s.links.txns.map (fun t => if t.core = core && !(t.parked && kept) then { t with dead := true } else t)
      let s := modCore { s with links.txns := txns } core (fun c =>
        { c with draining := false, resetNode := none, halted := false,
                 exec := { split := c.exec.split, istore := c.exec.istore, code := c.exec.code } })
      syncShots s)

/-! ### The referee and the deadline (R398 to R401) -/

/-- The job of a queue. -/
def queueJob (s : State) (queue : Nat) : Option (Nat × Job) :=
  ((alFind s.fe.queues queue).bind (·.job)).bind (fun k => (alFind s.fe.jobs k).map (fun j => (k, j)))

/-- The test of an accepted entry whose job has not started and whose graph's header is prefetched (R398, R400). -/
def testNext (s : State) (queue : Nat) : State :=
  match alFind s.fe.queues queue with
  | none => s
  | some q =>
    match q.prefetch.bind (fun p => ((if q.job.isSome then q.entries.drop 1 else q.entries).find? (fun e => e.order == p.1)).map
        (fun e => (e, p.2))) with
    | none => s
    | some (e, b) =>
      let put (f : RingEntry → RingEntry) : State :=
        modQueue s queue (fun q => { q with entries := q.entries.map (fun x => if x.order == e.order then f x else x) })
      if q.cls != .rt || e.resumed || e.late || e.noRef || headerBad (b.take 64) e.graphLen true || fieldAt b 20 4 == 0 ||
          decide (s.time + tailEstimate q ≤ e.time + 100 * fieldAt b 20 4) then s
      else if fieldAt b 24 8 = 0 then qosEvent (put (fun x => { x with noRef := true })) q.fn 1
      else put (fun x => { x with late := true })

/-- REFEREE_TEST (R398): at every timebase value that is a multiple of 100, or when the commit node is ready; jobs that hold
halted cores are not tested (R508). -/
def execRefereeTest (queue : Nat) (s : State) : Host.Outcome State Fault Refusal :=
  completes s (
    let s := if s.time % 100 = 0 then testNext s queue else s
    match queueJob s queue with
    | none => s
    | some (k, j) =>
      if j.cores.any (fun c => (coreOf s c).halted) || !(s.time % 100 == 0 || j.commitDue) then s
      else refTest (modJob s k (fun j => { j with commitDue := false })) k)

/-- SUBSTITUTE_START (R399, R400): once every stopped node has completed, the substitute is read, parsed and released within
the same job. -/
def execSubstituteStart (queue : Nat) (s : State) : Host.Outcome State Fault Refusal :=
  completes s (
    match queueJob s queue with
    | none => s
    | some (k, j) =>
      if (match alFind s.fe.queues queue with | some q => !parseTurn s queue q | none => true) then s
      else if !j.subst || !j.substStop || j.failing || j.phase != .placed || !(nodesOf s k).isEmpty then s
      else
        let j' := { j with graphAddr := j.substAddr, graphLen := j.substLen, pre := j.substPre }
        match readGraph s j' with
        | (.wait, s) => s
        | (.fault f, s) => graphFault (graphPoison s j.tenant f) k .graphAddr
        | (.ok b, s) =>
          if headerBad (b.take 64) j.substLen false then graphFault s k .graphHeader
          else
            let s := modJob s k (fun j =>
              { j with graphAddr := j.substAddr, graphLen := j.substLen, pre := b, nodes := fieldAt b 6 2, edgeOff := fieldAt b 12 4,
                       edgeCount := fieldAt b 16 4, nextNode := 0, doneNodes := [], okNodes := [], substStop := false })
            syncShot (releaseNodes (parseNodes 65535 s k) k) queue)

/-- DEADLINE_PASS (R401): the timebase exceeds D before the job record. -/
def execDeadlinePass (queue : Nat) (s : State) : Host.Outcome State Fault Refusal :=
  completes s (
    match queueJob s queue with
    | none => s
    | some (k, j) =>
      match deadlineOf j with
      | none => s
      | some d =>
        if j.missed || jobClass s j != .rt || s.time ≤ d then s
        else bump (qosEvent (modJob s k (fun j => { j with missed := true })) j.fn 3) j.fn 0x30128 1)

end Sys2Proof.Machine
end

