-- ==== Sys2Proof/Machine/SetOps.lean ====
section
/-! DEFINITION. Named operations of interleave sets (R577, R578) and of partitions (R382, R383, R403, R404): building and
regrouping sets, the limits of Table 13.1, changes of way masks. -/

namespace Sys2Proof.Machine

/-! ### Building sets -/

/-- Channel lines of a controller that hold tenant memory, and those of its firmware reservation (R577). -/
def tenantLines : Nat := 130023424
def firmLines : Nat := 4194304

/-- Multiples of 1 GiB (R279). -/
def gib : Nat := 2 ^ 30

/-- Split a list of controllers into groups of distinct powers of two, largest first (R577, step 2). -/
def groupCtls : (fuel : Nat) → List Nat → List (List Nat)
  | 0, _ => []
  | fuel + 1, hs =>
    if hs.isEmpty then []
    else
      let n := 2 ^ Nat.log2 hs.length
      hs.take n :: groupCtls fuel (hs.drop n)

/-- The lowest multiple of 1 GiB at which a size overlaps no set (R578, step 4). -/
def freeBase (sets : List ISet) (size : Nat) : Nat :=
  let cands := (0 :: sets.map (fun x => ceilDiv (x.base + x.size) gib * gib)).mergeSort (fun a b => decide (a ≤ b))
  (cands.find? (fun b => !sets.any (fun x => decide (b < x.base + x.size) && decide (x.base < b + size)))).getD 0

/-- A set over the tenant memory of some controllers. -/
def tenantSet (base : Nat) (owner : SetOwner) (hs : List Nat) : ISet :=
  { base := base, size := hs.length * tenantLines * 128, member := hs, mbase := hs.map (fun _ => 0), owner := owner }

/-- Add sets over the tenant memory of some controllers, grouped, each at its lowest free base. -/
def addSets (sets : List ISet) (owner : SetOwner) (hs : List Nat) : List ISet :=
  (groupCtls 64 (hs.mergeSort (fun a b => decide (a ≤ b)))).foldl (fun sets g =>
    sets ++ [tenantSet (freeBase sets (g.length * tenantLines * 128)) owner g]) sets

/-! ### Changing sets (R578) -/

/-- A set holds an allocated granule or a code region. -/
def setInUse (s : State) (x : ISet) : Bool :=
  s.mem.grans.any (fun e => decide (x.base ≤ e.1 * 65536) && decide (e.1 * 65536 < x.base + x.size))

/-- Controllers of some dies that are present. -/
def dieCtls (s : State) (dies : List Nat) : List Nat :=
  (s.mem.ctls.filter (fun e => e.2.present && dies.contains (e.1 / 8))).map (·.1)

/-- Write back, invalidate and zero a set's range, and remove the set (R283). -/
def removeSet (s : State) (x : ISet) : State :=
  let s := zeroRange (cleanRange s x.base x.size pf) x.base x.size
  { s with mem.sets := s.mem.sets.filter (fun y => y.base != x.base) }

/-- The dies of a partition's granules. -/
def granDies (gs : List Nat) : List Nat := (gs.map (· / 8)).dedup

/-- A set has a member on one of some dies. -/
def setOnDies (x : ISet) (dies : List Nat) : Bool := x.member.any (fun h => dies.contains (h / 8))

/-- A kept set of another partition or other granules (R467). -/
def strayKept (p : Nat) (gs : List Nat) : SetOwner → Bool
  | .kept q hs => !(q == p && hs == gs)
  | _ => false

/-- The sets of a new DEDICATED partition; none when a SHARED set that it needs is in use (R578). A kept set of its own
identifier and granules is taken as it stands. -/
def dedicateSets (s : State) (p : Nat) (gs : List Nat) : Option State :=
  let dies := granDies gs
  let shared := s.mem.sets.filter (fun x => x.owner == .shared && setOnDies x dies)
  if shared.any (setInUse s) then none
  else
    let stray := s.mem.sets.filter (fun x => strayKept p gs x.owner && setOnDies x dies)
    let gone := shared ++ stray
    let s := gone.foldl removeSet s
    let mine := s.mem.sets.any (fun x => x.owner == .kept p gs)
    let sets := s.mem.sets.map (fun x => if x.owner = .kept p gs then { x with owner := .part p } else x)
    let sets := if mine then sets else addSets sets (.part p) (dieCtls s dies)
    let freed := (gone.flatMap (·.member)).filter (fun h => !dies.contains (h / 8))
    some { s with mem.sets := addSets sets .shared freed }

/-- The dedicated sets of a partition are removed, and their controllers are grouped with those of every unused SHARED set
into new SHARED sets (R578). -/
def releaseSets (s : State) (p : Nat) : State :=
  let own := s.mem.sets.filter (fun x => x.owner == .part p)
  if own.isEmpty then s
  else
    let idle := s.mem.sets.filter (fun x => x.owner == .shared && !setInUse s x)
    let s := (own ++ idle).foldl removeSet s
    { s with mem.sets := addSets s.mem.sets .shared ((own ++ idle).flatMap (·.member)) }

/-! ### Limits of partitions (Table 13.1) -/

/-- Ways of a mask. -/
def wayCount (m : BitVec 16) : Nat := popCount 16 m.toNat

/-- KEEP and STASH_MIB of a partition are within R258 and R134, and it has an eligible way wherever its memory is homed
(R403). -/
def partFits (s : State) (id : Nat) (p : Partition) : Bool :=
  ((s.regions.map (·.1)).filter (partHomes s p)).all (fun r => decide (p.keep < wayCount (waysOf s r id))) &&
  (!p.ways || decide (p.stashMib ≤ wayCount p.mask))

/-- Masks of WAYS partitions are disjoint where both have homes (R403). -/
def masksDisjoint (s : State) : Bool :=
  let ws := s.sched.parts.filter (fun e => e.2.ways)
  ws.all (fun a => ws.all (fun b =>
    a.1 == b.1 || a.2.mask &&& b.2.mask == 0 || !(s.regions.any (fun r => partHomes s a.2 r.1 && partHomes s b.2 r.1))))

/-- Stash reservations of each region total at most 16 MiB (R134). -/
def stashTotals (s : State) : Bool :=
  (s.regions.map (·.1)).all (fun r =>
    decide (((s.sched.parts.filter (fun e => e.2.granules.any (fun g => g / 2 == r))).map (fun e => e.2.stashMib)).foldl (· + ·) 0 ≤ 16))

/-- Regulated rates total at most 125, or the windows 15 (R402, R407). -/
def rateTotals (s : State) : Bool :=
  let ps := (s.sched.parts.filter (fun e => !e.2.dedicated)).map (·.2)
  if s.sched.strict then decide ((ps.map (·.rate)).foldl (· + ·) 0 ≤ 15)
  else decide ((ps.map (fun p => p.rate + p.rtRate)).foldl (· + ·) 0 ≤ 125)

/-- Granules of the variant whose partition may be DEDICATED (R282): whole dies of a GBL-8. -/
def mayDedicate (s : State) (gs : List Nat) : Bool :=
  s.variant == .gbl8 && (granDies gs).all (fun d => (List.range 8).all (fun k => gs.contains (8 * d + k)))

/-- Strict isolation mode demands WAYS, and DEDICATED where it is allowed (R406). -/
def strictFits (s : State) : Bool :=
  !s.sched.strict || s.sched.parts.all (fun e => e.2.ways && (e.2.dedicated || !mayDedicate s e.2.granules))

/-- Every limit of Table 13.1 and of the rules it cites holds. -/
def partsValid (s : State) : Bool :=
  s.sched.parts.all (fun e => partFits s e.1 e.2) && masksDisjoint s && stashTotals s && rateTotals s

/-- The ways of a partition's own mask. -/
def ownWays (p : Partition) : BitVec 16 := if p.ways then p.mask else 0

/-- Lines of ways that leave a mask are written back and invalidated (R260): `ch` holds the ways that change hands in the
slices that home the partition's memory. Ways that stash lines come to occupy under the new masks give up their ordinary lines
(R26, R135). -/
def changeWays (s : State) (part : Nat) (ch : BitVec 16) : State :=
  if ch = 0 then s
  else (partSlices s part).foldl (fun s r => stashDisplace (dropWays s r ch) r pf) s

/-! ### Power of a partition's blocks (R456, R459) -/

/-- Clusters of a granule (R34). -/
def granClusters (g : Nat) : List Nat := (List.range 3).map (fun k => g / 2 * 6 + g % 2 * 3 + k)

/-- Key of an aggregator's power state. -/
def aggKey (r : Nat) : Nat := blkKey 5 r

/-- PARTITION_CREATE powers on the cores and cluster units of its granules and the aggregators of their regions; blocks so
powered on hold their reset state. -/
def powerOn (s : State) (gs : List Nat) : State :=
  let cores := alMap s.cores (fun k c => if gs.contains (coreGranule k) && c.present then
    { c with exec := {}, power := .active, owner := none, hold := .free, draining := false, resetNode := none, halted := false, wakeAt := 0 } else c)
  let cl := (gs.flatMap granClusters).foldl (fun m k => alPut m k { power := .active }) s.clusters
  let bl := (gs.map (· / 2)).foldl (fun m r => alPut m (aggKey r) .active) s.pm.blocks
  { s with cores := cores, clusters := cl, pm.blocks := bl }

/-- PARTITION_DESTROY powers them off; power-off loses every value that the blocks held, their counter blocks included. -/
def powerOff (s : State) (gs : List Nat) : State :=
  let cores := alMap s.cores (fun k c => if gs.contains (coreGranule k) then
    { c with exec := {}, power := .off, owner := none, hold := .free, draining := false, resetNode := none, halted := false, wakeAt := 0 } else c)
  let cl := (gs.flatMap granClusters).foldl (fun m k => alPut m k {}) s.clusters
  let used := s.sched.parts.flatMap (fun e => e.2.granules.map (· / 2))
  let bl := ((gs.map (· / 2)).filter (fun r => !used.contains r)).foldl (fun m r => alPut m (aggKey r) .off) s.pm.blocks
  let off := (gs.map (· / 2)).filter (fun r => !used.contains r)
  { s with cores := cores, clusters := cl, pm.blocks := bl
           saved := s.saved.filter (fun e => !gs.contains (coreGranule e.1))
           regions := alMap s.regions (fun r x => if off.contains r then { x with prepass := [], amax := [], turn := 0 } else x)
           dbg.blocks := s.dbg.blocks.filter (fun e => !(e.1 / 65536 == 0 && gs.contains (coreGranule e.1))) }

/-! ### Ends of bindings and partitions (R383, R384) -/

/-- A tenant's images are unloaded. -/
def dropImages (s : State) (tenant : Nat) : State :=
  let mine := s.images.filter (fun e => e.2.tenant == tenant)
  let cl := alMap s.clusters (fun _ c =>
    { c with codeLines := c.codeLines.filter (fun x => !mine.any (fun m => m.1 == x.1)),
             requests := c.requests.filter (fun x => !mine.any (fun m => m.1 == x.1)) })
  releaseGranules { s with clusters := cl, images := s.images.filter (fun e => e.2.tenant != tenant) } (mine.flatMap (fun e => e.2.region))

/-- Stash entries of a tenant are freed (R138); one that an engine still references goes when it is released. -/
def freeTenantStash (s : State) (tenant : Nat) : State :=
  { s with regions := alMap s.regions (fun _ x =>
      let marked := alMap x.stash (fun _ e => if e.tenant = tenant then { e with replaced := true } else e)
      let left := marked.filter (fun e => e.2.tenant != tenant || decide (0 < e.2.refs))
      { x with stash := left }) }

/-- A binding ends (R384): the address space is unmapped and destroyed, captures, stash entries, images and the pool go. -/
def unbindTenant (s : State) (tenant : Nat) : State :=
  let (_, _, s) := unmapPages s tenant 0 (2 ^ 32)
  let s := freeTenantStash (freeCaptures (dropImages s tenant) tenant) tenant
  syncNodes { s with pools := s.pools.filter (fun e => e.2.owner != tenant), sched.tenants := alDel s.sched.tenants tenant } tenant

/-- A partition ends (R383, R459): its ways are released, its stash and pool go, its dedicated sets are released, and its
blocks are powered off. -/
def destroyPart (s : State) (part : Nat) : State :=
  match alFind s.sched.parts part with
  | none => s
  | some p =>
    let s := freeSide (freeStash (changeWays s part (ownWays p)) part) part
    let ctls := alMap s.mem.ctls (fun _ c => { c with regs := alDel c.regs part })
    let s := releaseSets { s with mem.ctls := ctls, pools := alDel s.pools part, sched.parts := alDel s.sched.parts part } part
    powerOff s p.granules

end Sys2Proof.Machine
end

