-- ==== Sys2Proof/Machine/MailAdmin.lean ====
section
/-! DEFINITION. Mailbox messages of partitions, tenants and links (Table 15.10, opcodes 0x0200 to 0x0304). -/

namespace Sys2Proof.Machine

/-! ### Partitions (R382, R383, R402 to R406) -/

/-- A partition identifier that the variant lacks (R17). -/
def partBad (s : State) (r : Req) : Bool := decide (Config.partitions s.variant ≤ r.f 0 1)

/-- A regulator's ranges (Table 13.1). -/
def rateBad (rate burst : Nat) : Bool := decide (125 < rate) || burst = 0 || decide (4096 < burst)

/-- The partition that PARTITION_CREATE describes. -/
def newPart (r : Req) (gs : List Nat) : Partition :=
  { granules := gs, dedicated := r.f 1 1 = 1, ways := r.f 2 1 = 1, mask := BitVec.ofNat 16 (r.f 4 2), keep := r.f 3 1,
    stashMib := r.f 6 1, rate := r.f 8 2, burst := r.f 10 2, rtRate := r.f 12 2, rtBurst := r.f 14 2 }

/-- PARTITION_CREATE carried out: all limits are held against the state that it would leave. -/
def hPartitionCreate (s : State) (r : Req) : Done × State :=
  let id := r.f 0 1
  let gs := setBits 64 (r.f 16 8)
  let p := newPart r gs
  if partBad s r || 1 < r.f 1 1 || 1 < r.f 2 1 || gs.isEmpty || gs.any (fun g => decide (Config.partitions s.variant ≤ g)) ||
      (p.ways && p.mask = 0) || rateBad p.rate p.burst || rateBad p.rtRate p.rtBurst || (p.dedicated && !mayDedicate s gs) then
    ansBad s rBadField
  else if (alFind s.sched.parts id).isSome || s.sched.parts.any (fun e => e.2.granules.any gs.contains) then ansBad s rState
  else
    match (if p.dedicated then dedicateSets s id gs else some s) with
    | none => ansBad s rState
    | some s' =>
      let s' := { s' with sched.parts := alPut s'.sched.parts id p }
      if !strictFits s' then ansBad s rState
      else if !partsValid s' then ansBad s rNoResource
      else ansOk (powerOn (changeWays s' id (ownWays p)) gs) []

/-- PARTITION_CREATE (R382). -/
def execPartitionCreate (s : State) : Host.Outcome State Fault Refusal := completes s (serveOp 0x0200 hPartitionCreate s)

/-- PARTITION_DESTROY carried out (R383). -/
def hPartitionDestroy (s : State) (r : Req) : Done × State :=
  let id := r.f 0 1
  if partBad s r then ansBad s rBadField
  else if (alFind s.sched.parts id).isNone then ansBad s rNotFound
  else if s.sched.tenants.any (fun e => e.2.part == id) then ansBad s rState
  else if (partCores s id).any (fun c => (coreOf s c).draining || !(execOf s c).wb.isEmpty) then (.wait, s)
  else ansOk (destroyPart s id) []

/-- PARTITION_DESTROY (R383). -/
def execPartitionDestroy (s : State) : Host.Outcome State Fault Refusal := completes s (serveOp 0x0201 hPartitionDestroy s)

/-- A binding just made. -/
def newTenant (part coresMax quota : Nat) : Tenant :=
  { part := part, coresMax := coresMax, memQuota := quota }

/-- CORES_MAX is out of range for a partition (R384). -/
def coresBad (s : State) (part n : Nat) : Bool := n = 0 || decide ((ordinaryCores s part).length < n)

/-- TENANT_BIND carried out (R384): the tenant's counters are cleared; in strict isolation mode the scrub of R273 is due again
(R406). -/
def hTenantBind (s : State) (r : Req) : Done × State :=
  let id := r.f 0 1
  let t := r.actor
  if partBad s r || r.f 2 2 = 0 || 1024 ≤ t then ansBad s rBadField
  else
    match alFind s.sched.parts id with
    | none => ansBad s rNotFound
    | some p =>
      if coresBad s id (r.f 2 2) then ansBad s rBadField
      else if (alFind s.sched.tenants t).isSome || (s.sched.strict && s.sched.tenants.any (fun e => e.2.part == id)) then
        ansBad s rState
      else
        let s' := { s with sched.tenants := alPut s.sched.tenants t (newTenant id (r.f 2 2) (r.f 8 8)),
                           sched.parts := if s.sched.strict then alPut s.sched.parts id { p with served := none } else s.sched.parts }
        if !firmFits s' t then ansBad s rNoResource
        else ansOk (checkQuota (modFn (syncNodes s' t) t (fun x => { x with cnt := [], policies := List.replicate 8 policyReset })) t) []

/-- TENANT_BIND (R384). -/
def execTenantBind (s : State) : Host.Outcome State Fault Refusal := completes s (serveOp 0x0202 hTenantBind s)

/-- TENANT_UNBIND carried out (R384); the debug level returns to 0 when the scope tenant is unbound (R513). -/
def hTenantUnbind (s : State) (r : Req) : Done × State :=
  let t := r.actor
  if 1024 ≤ t then ansBad s rBadField
  else if (alFind s.sched.tenants t).isNone then ansBad s rNotFound
  else if s.fe.queues.any (fun e => e.2.fn == t && (!e.2.entries.isEmpty || e.2.job.isSome)) then ansBad s rState
  else
    let s := unbindTenant s t
    ansOk (if s.dbg.scope = some t then lockDebug s else s) []

/-- TENANT_UNBIND (R384). -/
def execTenantUnbind (s : State) : Host.Outcome State Fault Refusal := completes s (serveOp 0x0203 hTenantUnbind s)

/-- The partition after QOS_SET: only the selected fields change. -/
def qosPart (r : Req) (p : Partition) : Partition :=
  let sel := r.f 1 1
  let p := if bit sel 0 then { p with ways := r.f 2 1 = 1, mask := BitVec.ofNat 16 (r.f 4 2) } else p
  let p := if bit sel 1 then { p with keep := r.f 3 1 } else p
  let p := if bit sel 2 then { p with rate := r.f 8 2, burst := r.f 10 2 } else p
  if bit sel 3 then { p with rtRate := r.f 12 2, rtBurst := r.f 14 2 } else p

/-- Credit above the BURST of a partition is discarded (Table 13.5). -/
def clampCredit (s : State) (id : Nat) (p : Partition) : State :=
  { s with mem.ctls := alMap s.mem.ctls (fun _ c =>
      match alFind c.regs id with
      | none => c
      | some g => { c with regs := alPut c.regs id { credit := min g.credit p.burst, rtCredit := min g.rtCredit p.rtBurst } }) }

/-- A selected field of QOS_SET is out of range. -/
def qosBad (s : State) (r : Req) : Bool :=
  let sel := r.f 1 1
  partBad s r || decide (63 < sel) || (bit sel 0 && (decide (1 < r.f 2 1) || (r.f 2 1 = 1 && r.f 4 2 = 0))) ||
  (bit sel 2 && rateBad (r.f 8 2) (r.f 10 2)) || (bit sel 3 && rateBad (r.f 12 2) (r.f 14 2)) ||
  ((bit sel 4 || bit sel 5) && decide (1024 ≤ r.actor)) || (bit sel 4 && coresBad s (r.f 0 1) (r.f 16 2))

/-- The tenant's part of QOS_SET: its reason of refusal, or the state. -/
def qosTenant (s : State) (r : Req) : Except Nat State :=
  let sel := r.f 1 1
  if !(bit sel 4 || bit sel 5) then .ok s
  else
    match alFind s.sched.tenants r.actor with
    | none => .error rNotFound
    | some t =>
      if t.part != r.f 0 1 then .error rState
      else
        let t := if bit sel 4 then { t with coresMax := r.f 16 2 } else t
        let t := if bit sel 5 then { t with memQuota := r.f 24 8 } else t
        .ok (checkQuota { s with sched.tenants := alPut s.sched.tenants r.actor t } r.actor)

/-- QOS_SET carried out (R404): cuts as Table 13.5 gives. -/
def hQosSet (s : State) (r : Req) : Done × State :=
  let id := r.f 0 1
  if qosBad s r then ansBad s rBadField
  else
    match alFind s.sched.parts id with
    | none => ansBad s rNotFound
    | some p =>
      let p' := qosPart r p
      let s' := { s with sched.parts := alPut s.sched.parts id p' }
      if !strictFits s' then ansBad s rState
      else if !partsValid s' then ansBad s rNoResource
      else
        match qosTenant s' r with
        | .error e => ansBad s e
        | .ok s' => ansOk (clampCredit (changeWays s' id (ownWays p ^^^ ownWays p')) id p') []

/-- QOS_SET (R404). -/
def execQosSet (s : State) : Host.Outcome State Fault Refusal := completes s (serveOp 0x0204 hQosSet s)

/-- RT_RESERVE_SET carried out (R385). -/
def hRtReserveSet (s : State) (r : Req) : Done × State :=
  if 48 < r.f 0 1 || 16 < r.f 1 1 then ansBad s rBadField
  else ansOk { s with sched.n := r.f 0 1, sched.r := r.f 1 1 } []

/-- RT_RESERVE_SET (R385). -/
def execRtReserveSet (s : State) : Host.Outcome State Fault Refusal := completes s (serveOp 0x0205 hRtReserveSet s)

/-- A revoke abandons the waits on a group's flags (R360). -/
def abandonWaits (s : State) (g : Nat) : State :=
  let hit (n : Node) : Bool := n.phase == .waiting && ndWaitFlag n.desc / 64 == g
  { s with fe.nodes := alMap s.fe.nodes (fun _ n =>
      if hit n then { stopFail n .fault .flagNotGranted with phase := .finished } else n) }

/-- FLAG_GRANT carried out (R360). -/
def hFlagGrant (s : State) (r : Req) : Done × State :=
  let g := r.f 0 2
  if 255 < g || 1 < r.f 2 1 || 1024 ≤ r.actor then ansBad s rBadField
  else
    match alFind s.fe.grants g, r.f 2 1 with
    | none, 0 => ansOk s []
    | none, _ =>
      ansOk { s with fe.grants := alPut s.fe.grants g r.actor, fe.flags := s.fe.flags.filter (fun e => e.1 / 64 != g) } []
    | some t, 0 =>
      if t = r.actor then ansOk (abandonWaits { s with fe.grants := alDel s.fe.grants g } g) [] else ansBad s rState
    | some t, _ => if t = r.actor then ansOk s [] else ansBad s rState

/-- FLAG_GRANT (R360). -/
def execFlagGrant (s : State) : Host.Outcome State Fault Refusal := completes s (serveOp 0x0206 hFlagGrant s)

/-- MEM_SCRUB_CONFIG carried out (R301). -/
def hMemScrubConfig (s : State) (r : Req) : Done × State :=
  if r.f 0 2 = 0 || 168 < r.f 0 2 then ansBad s rBadField else ansOk { s with mgmt.scrubHours := r.f 0 2 } []

/-- MEM_SCRUB_CONFIG (R301). -/
def execMemScrubConfig (s : State) : Host.Outcome State Fault Refusal := completes s (serveOp 0x0207 hMemScrubConfig s)

/-- SET_STASH_RESERVE carried out (R134, R139): a cut reclaims nothing. -/
def hSetStashReserve (s : State) (r : Req) : Done × State :=
  let id := r.f 0 1
  if partBad s r then ansBad s rBadField
  else
    match alFind s.sched.parts id with
    | none => ansBad s rNotFound
    | some p =>
      let s' := { s with sched.parts := alPut s.sched.parts id { p with stashMib := r.f 1 1 } }
      if partsValid s' then ansOk s' [] else ansBad s rNoResource

/-- SET_STASH_RESERVE (R134). -/
def execSetStashReserve (s : State) : Host.Outcome State Fault Refusal := completes s (serveOp 0x0208 hSetStashReserve s)

/-- ISOLATION_SET carried out (R405, R513). -/
def hIsolationSet (s : State) (r : Req) : Done × State :=
  if 1 < r.f 0 1 then ansBad s rBadField
  else if !s.sched.parts.isEmpty then ansBad s rState
  else ansOk (lockDebug { s with
    sched.strict := r.f 0 1 = 1, mem.refills := 96 * s.time / 600, mem.windows := 96 * s.time / 1200 }) []

/-- ISOLATION_SET (R405). -/
def execIsolationSet (s : State) : Host.Outcome State Fault Refusal := completes s (serveOp 0x0209 hIsolationSet s)

/-! ### Links (R325 to R333) -/

/-- LINK_CONFIG carried out (Table 11.7, R326): named ports leave DOWN, and the others go to DOWN; the identifier is applied
at the first bring-up. Ports in twin mode are not the system's (R39). -/
def hLinkConfig (s : State) (r : Req) : Done × State :=
  let m := r.f 8 8
  if 2 ^ 40 ≤ m || (setBits 40 m).any (fun p => !Config.portBonded s.variant p) then ansBad s rBadField
  else if s.selfId.isSome && s.selfId != some (r.f 0 1) then ansBad s rState
  else
    let s := { s with links.newId := some (r.f 0 1) }
    ansOk (((bondedPorts s.variant).filter (fun p => !(portOf s p).twin)).foldl (fun s p =>
      if bit m p then (if (portOf s p).st = .down then modPort s p (fun x => { x with st := .detect, since := s.time }) else s)
      else portDown s p) s) []

/-- LINK_CONFIG (R326). -/
def execLinkConfig (s : State) : Host.Outcome State Fault Refusal := completes s (serveOp 0x0300 hLinkConfig s)

/-- LINK_RETRAIN carried out (Table 11.7): DOWN and DEAD start their bring-up, UP retrains; a port that trains already goes
on. A port leaves DOWN only with a configuration (R325). -/
def hLinkRetrain (s : State) (r : Req) : Done × State :=
  let p := r.f 0 1
  if !Config.portBonded s.variant p then ansBad s rBadField
  else
    match (portOf s p).st with
    | .down =>
      if (announcedId s).isNone then ansBad s rState
      else ansOk (modPort s p (fun x => { x with st := .detect, since := s.time })) []
    | .dead => ansOk (modPort s p (fun x => { x with st := .detect, since := s.time })) []
    | .up => ansOk (enterRetrain s p) []
    | _ => ansOk s []

/-- LINK_RETRAIN (Table 11.7). -/
def execLinkRetrain (s : State) : Host.Outcome State Fault Refusal := completes s (serveOp 0x0301 hLinkRetrain s)

/-- Entries of LINK_ROUTE_SET: destination and port mask. -/
def routeEntries (r : Req) : List Nat := (List.range (r.f 0 2)).map (fun k => r.f (8 + 8 * k) 8)

/-- LINK_ROUTE_SET carried out (R328): the written table takes effect at once, or when no message of the package's own waits on
a port that it removes. -/
def hLinkRouteSet (s : State) (r : Req) : Done × State :=
  let es := routeEntries r
  if es.isEmpty || decide (256 < es.length) || es.any (fun e => decide (2 ^ 48 ≤ e) || (setBits 40 (e / 256)).any (fun p => !Config.portBonded s.variant p)) then ansBad s rBadField
  else
    let t := es.foldl (fun t e => alPut t (e % 256) (e / 256)) (s.links.newRoutes.getD s.links.routes)
    ansOk (applyRoutes { s with links.newRoutes := some t }) []

/-- LINK_ROUTE_SET (R328). -/
def execLinkRouteSet (s : State) : Host.Outcome State Fault Refusal := completes s (serveOp 0x0302 hLinkRouteSet s)

/-- LINK_EXPORT_SET carried out (R331). -/
def hLinkExportSet (s : State) (r : Req) : Done × State :=
  let k := r.f 0 2
  let fl := r.f 3 1
  if 512 ≤ k || 63 < fl then ansBad s rBadField
  else if !bit fl 5 then ansOk { s with links.exports := alDel s.links.exports k } []
  else if (!bit fl 1 && decide (1024 ≤ r.f 4 2)) || r.f 8 8 % gib != 0 || r.f 16 8 % gib != 0 then ansBad s rBadField
  else
    let x : Export := { src := if bit fl 0 then none else some (r.f 2 1), tenant := if bit fl 1 then none else some (r.f 4 2),
                        base := r.f 8 8, len := r.f 16 8, rd := bit fl 2, wr := bit fl 3, atomic := bit fl 4 }
    ansOk { s with links.exports := alPut s.links.exports k x } []

/-- LINK_EXPORT_SET (R331). -/
def execLinkExportSet (s : State) : Host.Outcome State Fault Refusal := completes s (serveOp 0x0303 hLinkExportSet s)

/-- LINK_TIMEOUT_SET carried out (R333). -/
def hLinkTimeoutSet (s : State) (r : Req) : Done × State :=
  if r.f 0 4 = 0 || 1000 < r.f 0 4 then ansBad s rBadField else ansOk { s with links.timeoutMs := r.f 0 4 } []

/-- LINK_TIMEOUT_SET (R333). -/
def execLinkTimeoutSet (s : State) : Host.Outcome State Fault Refusal := completes s (serveOp 0x0304 hLinkTimeoutSet s)

end Sys2Proof.Machine
end

