-- ==== Sys2Proof/Machine/TakeoverOps.lean ====
section
/-! DEFINITION. Named operations of a twin's secondary: applying mirror records (R490), taking over (R493), leaving twin mode
(R495). -/

namespace Sys2Proof.Machine

/-! ### Applying records (R489, R490) -/

/-- What carries out a mirrored message (R490), without authentication. -/
def mirrorHandler (op : Nat) : Option (State → Req → Done × State) :=
  match op with
  | 0x0100 => some hRingConfig
  | 0x0101 => some hQueueCreate
  | 0x0102 => some hQueueConfig
  | 0x0103 => some hQueueDestroy
  | 0x0104 => some hQueueResume
  | 0x0105 => some hRemapDone
  | 0x0110 => some hCodeLoad
  | 0x0111 => some hCodeUnload
  | 0x0120 => some hSetPrecisionPolicy
  | 0x0121 => some hVtensorRegister
  | 0x0122 => some hVtensorUnregister
  | 0x0140 => some hMapDevice
  | 0x0141 => some hMapHost
  | 0x0142 => some hMapRemote
  | 0x0143 => some hMemUnmap
  | 0x0200 => some hPartitionCreate
  | 0x0201 => some hPartitionDestroy
  | 0x0202 => some hTenantBind
  | 0x0203 => some hTenantUnbind
  | 0x0204 => some hQosSet
  | 0x0205 => some hRtReserveSet
  | 0x0206 => some hFlagGrant
  | 0x0208 => some hSetStashReserve
  | 0x0209 => some hIsolationSet
  | _ => none

/-- How applying a record goes. -/
inductive Applied
  | ok (s : State)
  | wait (s : State)
  | bad

/-- A record belongs to a queue. -/
def Mirror.ofQueue (q : Nat) : Mirror → Bool
  | .ringEntry _ q' _ _ _ => q' == q
  | .nodeDone q' _ _ _ _ _ _ _ => q' == q
  | _ => false

/-- Apply a message; QUEUE_DESTROY makes the queue's records void. -/
def applyConfig (s : State) (f : Nat) (msg : List Byte) : Applied :=
  let r := reqOf f msg
  match mirrorHandler r.op with
  | none => .bad
  | some h =>
    match h s r with
    | (.wait, s) => .wait s
    | (.later, _) => .bad
    | (.rep rep, s) =>
      if rep.status != 0 then .bad
      else
        let s := { s with mgmt.applied := s.mgmt.applied ++ [(f, msg)] }
        if r.op = 0x0103 then .ok { s with twin.store := s.twin.store.filter (fun x => !x.r.ofQueue (r.f 0 2)) } else .ok s

/-- Apply a record: configuration and flags at once, the rest at a takeover. -/
def applyRecord (s : State) (r : Mirror) : Applied :=
  match r with
  | .config f msg => applyConfig s f msg
  | .flagSet f v => .ok { s with fe.flags := alPut s.fe.flags f v }
  | _ => .ok s

/-- Apply the records held in sequence order, until one is missing or waits; one that cannot be applied makes the pair
DEGRADED. -/
def applyStore : (fuel : Nat) → State → State
  | 0, s => s
  | fuel + 1, s =>
    match s.twin.store.find? (fun x => x.seq == s.twin.applySeq) with
    | none => s
    | some x =>
      match applyRecord s x.r with
      | .ok s => applyStore fuel { s with twin.applySeq := x.seq + 1 }
      | .wait s => s
      | .bad => degradeTwin { s with twin.applySeq := x.seq + 1 } true

/-- Apply what can be applied. -/
def applyMirrors (s : State) : State :=
  if s.twin.role = 1 && paired s then applyStore (s.twin.store.length + 1) s else s

/-! ### Takeover (R493) -/

/-- `n` free bytes. -/
def freeBytes : (words : Nat) → State → List Byte × State
  | 0, s => ([], s)
  | k + 1, s =>
    let (w, s) := takeFree s
    let (b, s) := freeBytes k s
    (leBytes 8 w.toNat ++ b, s)

/-- Status of a code (Table 12.9). -/
def statusOf : Nat → Status
  | 0 => .ok
  | 1 => .timeout
  | 2 => .fault
  | 3 => .substituted
  | 4 => .joinDeferred
  | 5 => .evicted
  | 6 => .unitAbsent
  | _ => .completionLostRisk

/-- A completed task's reference is applied again (R493, step 3): a capture that is still to be used, a use, a commit. -/
def replayRef (s : State) (ok : Bool) (x : Nat) : State :=
  let t := vrefTensor x
  let key := bits x 63 32
  let live := (s.captures.find? (fun c => c.2.tensor == t && c.2.key == some key)).map (·.1)
  match alFind s.vtensors t, vrefMode x with
  | some v, 1 =>
    if live.isSome || bits x 31 24 = 0 then s
    else
      let c : Capture := { tensor := t, key := some key, version := v.c, count := bits x 31 24 }
      { s with captures := alPut s.captures s.nextCapture c, nextCapture := s.nextCapture + 1 }
  | some _, 2 => (match live with | some c => dropCapture s c | none => s)
  | some v, 3 => if ok then { s with vtensors := alPut s.vtensors t { v with c := v.c + 1 } } else s
  | _, _ => s

/-- The first effects of the mirrored records, in sequence order: mailbox counts, versions and captures, ring positions. -/
def replayRecord (s : State) (r : Mirror) : State :=
  match r with
  | .mbSeq f l d => modMbox s f (fun m => { m with l := l, d := d, log := [] })
  | .nodeDone _ _ _ st _ _ _ xs => xs.foldl (fun s x => replayRef s (st == 0) x) s
  | .ringEntry f _ pos _ _ => modRing s f (fun x => if x.configured then { x with head := pos } else x)
  | _ => s

/-- Accepted entries of a queue in the records, by order. -/
def takenEntries (rs : List Mirror) (qi time : Nat) : List RingEntry :=
  let es := rs.filterMap (fun r => match r with
    | .ringEntry _ q _ o e =>
      if q = qi then
        some ({ graphLen := fieldAt e 4 4, graphAddr := fieldAt e 8 8, jobTag := fieldAt e 16 8, irq := bit (fieldAt e 3 1) 0,
                time := time, order := o, db := time, resumed := true } : RingEntry)
      else none
    | _ => none)
  es.dedup.mergeSort (fun a b => decide (a.order ≤ b.order))

/-- A completed node of a queue in the records. -/
structure DoneRec where
  order : Nat
  idx : Nat
  st : Nat
  prod : Nat
  written : Bool
  deriving DecidableEq, Repr

/-- Completed nodes of a queue in the records. -/
def takenDone (rs : List Mirror) (qi : Nat) : List DoneRec :=
  rs.filterMap (fun r => match r with
    | .nodeDone q o i st _ p w _ => if q = qi then some { order := o, idx := i, st := st, prod := p, written := w } else none
    | _ => none)

/-- The 63 bytes of a logged record that is written again: what the records tell of it, the rest free. -/
def againBytes (s : State) (qi pos : Nat) (es : List RingEntry) (ds : List DoneRec) : List Byte × State :=
  let (f, s) := freeBytes 7 s
  let b := match ds.find? (fun d => d.written && d.prod == pos) with
    | some d =>
      let tag := match es.find? (fun e => e.order == d.order) with
        | some e => leBytes 8 e.jobTag
        | none => f.take 8
      tag ++ (f.drop 8).take 8 ++ leBytes 2 d.idx ++ leBytes 2 qi ++ leBytes 1 d.st ++ [0] ++ (f.drop 16).take 40
    | none => f.take 18 ++ leBytes 2 qi ++ (f.drop 20).take 36 ++ f.take 6
  (b ++ [0], s)

/-- The records from position `p` on, `n` of them. -/
def againAll (qi : Nat) (es : List RingEntry) (ds : List DoneRec) : (n p : Nat) → State → List (List Byte) × State
  | 0, _, s => ([], s)
  | n + 1, p, s =>
    let (b, s) := againBytes s qi p es ds
    let (r, s) := againAll qi es ds n (p + 1) s
    (b :: r, s)

/-- The job of a queue's oldest entry, with the nodes that had completed. -/
def resumedJob (qi : Nat) (q : Queue) (part : Nat) (e : RingEntry) (ds : List DoneRec) : Job :=
  let mine := ds.filter (fun d => d.order == e.order)
  { queue := qi, fn := q.fn, tenant := q.fn, part := part, entry := e, graphAddr := e.graphAddr, graphLen := e.graphLen,
    refOff := true, doneNodes := (mine.map (·.idx)).reverse, okNodes := ((mine.filter (fun d => d.st == 0)).map (·.idx)).reverse,
    fail := (mine.find? (fun d => d.st != 0)).map (fun d => { status := statusOf d.st, node := d.idx }) }

/-- Rewriting starts at the consumer count; what is read later than this step starts at the oldest record that the ring can
hold. -/
def rewriteQueue (s : State) (qi : Nat) (es : List RingEntry) (ds : List DoneRec) : State :=
  match alFind s.fe.queues qi with
  | none => s
  | some q =>
    let top := ds.foldl (fun m d => max m (d.prod + b2n d.written)) 0
    let s := (readConsumer s qi q).2
    let cons := ((alFind s.fe.queues qi).map (·.cons)).getD 0
    let base := max (top - cringSize q) (min cons top)
    let (log, s) := againAll qi es ds (top - base) base s
    let s := modQueue s qi (fun q => { q with prod := base, log := log, st := if log.isEmpty then q.st else .logging, reason := .none })
    if log.isEmpty then s else drainLog (log.length + 1) s qi

/-- A queue goes on from its mirrored entries (R493, steps 4 to 6). -/
def resumeQueue (rs : List Mirror) (s : State) (qi : Nat) : State :=
  match alFind s.fe.queues qi with
  | none => s
  | some q =>
    let es := takenEntries rs qi s.time
    let ds := takenDone rs qi
    let last : Nat := ds.foldl (fun m d => max m d.order) 0
    let left := es.filter (fun (e : RingEntry) => decide (last ≤ e.order))
    let slot := slotFor s q.cls
    let s := modQueue s qi (fun q => { q with
      entries := left, slot := if left.isEmpty then none else slot, since := s.time,
      st := if left.isEmpty then .idle else if slot.isSome then .active else .waitSlot })
    let s := match left.head?, partOf s q.fn, slot with
      | some e, some part, some _ =>
        let k := s.fe.nextJob
        modQueue { s with fe.nextJob := k + 1, fe.jobs := alPut s.fe.jobs k (resumedJob qi q part e ds) } qi
          (fun q => { q with job := some k })
      | _, _, _ => s
    let s := rewriteQueue s qi es ds
    { s with fe.nextOrder := es.foldl (fun m e => max m (e.order + 1)) s.fe.nextOrder }

/-- The secondary takes over (R493). -/
def takeover (s : State) : State :=
  let rs := (s.twin.store.mergeSort (fun a b => decide (a.seq ≤ b.seq))).map (·.r)
  let s := raiseAll { s with twin.st := .takenOver, twin.store := [] } gRAS 10 none
  let s := rs.foldl replayRecord s
  let qs := (s.fe.queues.mergeSort (fun a b => decide (classRank a.2.cls ≤ classRank b.2.cls))).map (·.1)
  tryEnds (qs.foldl (resumeQueue rs) s)

/-! ### Leaving twin mode (R495) -/

/-- Messages whose effects stay when a secondary destroys what it received: they name no partition, queue, ring or image. -/
def keptOps : List Nat := [0x0121, 0x0122, 0x0205, 0x0206, 0x0209]

/-- The secondary destroys every partition, queue, ring configuration and image that it received by mirroring. -/
def clearMirrored (s : State) : State :=
  let s := (s.fe.queues.map (·.1)).foldl removeQueue s
  let s := (s.sched.tenants.map (·.1)).foldl unbindTenant s
  let s := (s.sched.parts.map (·.1)).foldl destroyPart s
  { s with
    fns := alMap s.fns (fun _ x => { x with ring := {} })
    mgmt.applied := s.mgmt.applied.filter (fun e => keptOps.contains (fieldAt e.2 0 2)) }

/-- A module leaves twin mode: resumed state is kept in TAKEN_OVER. -/
def leaveTwin (s : State) : State :=
  let s := if s.twin.role = 1 && s.twin.st != .takenOver then clearMirrored s else s
  twinOff s

end Sys2Proof.Machine
end

