-- ==== Sys2Proof/Machine/HostIf.lean ====
section
/-! DEFINITION. The PCI Express side (spec chapter 19): translations and page requests, completions of host reads and atomics,
configuration requests, function-level resets (R465), and the board path's messages and address (R431, R556). -/

namespace Sys2Proof.Machine

/-! ### Work that waits for a translation (R530, R531) -/

/-- Send again the host loads of a core that wait for a translation. -/
def retryCore (s : State) (core : Nat) : State :=
  ((execOf s core).loads.filter (fun l => l.waitXlat)).foldl (fun s l =>
    if !tagsFree s (coreDie core) 1 then s
    else
      let x := execOf s core
      let node := (((alFind x.groups l.slot).bind (fun g => alFind x.blocks g.block)).map (·.task.node)).getD 0
      sendLoad s core node l) s

/-- The same for a saved context; a read sent from one is parked (R533). -/
def retrySaved (s : State) (core : Nat) : State :=
  match alFind s.saved core with
  | none => s
  | some x =>
    let live := execOf s core
    let n := s.links.txns.length
    let s := retryCore (modExec s core (fun _ => x)) core
    let y := execOf s core
    let new := (s.links.txns.drop n).map (fun t => { t with parked := true })
    modExec { s with saved := alPut s.saved core y, links.txns := s.links.txns.take n ++ new } core (fun _ => live)

/-- Write the event-ring entries of a function that wait, in order. -/
def retryEvents (s : State) (fn : Nat) : State :=
  let w := (fnOf s fn).evWait
  w.foldl (fun s (g, b, d, t) =>
    if (fnOf s fn).evWait.isEmpty then evWrite s fn g b d t
    else modFn s fn (fun x => { x with evWait := x.evWait ++ [(g, b, d, t)] })) (modFn s fn (fun x => { x with evWait := [] }))

/-- Everything of a function that waited for a translation goes on. -/
def retryHost (s : State) (fn : Nat) : State :=
  let s := (s.cores.map (·.1)).foldl retryCore s
  let s := (s.saved.map (·.1)).foldl retrySaved s
  let s := if (fnOf s fn).evWait.isEmpty then s else retryEvents s fn
  settleMail (applyMirrors (tryEnds s))

/-- Entries of the address translation cache of the primary interface (R530). -/
def atcSize : Nat := 8192

/-- Enter a translation; a full cache loses an entry, which one being free. -/
def putAtc (s : State) (key : Nat) (e : AtcEnt) : State :=
  if (alFind s.host.atc key).isSome || decide (s.host.atc.length < atcSize) then { s with host.atc := alPut s.host.atc key e }
  else
    let (f, s) := takeFree s
    let old := ((s.host.atc[f.toNat % atcSize]?).map (·.1)).getD 0
    { s with host.atc := alPut (alDel s.host.atc old) key e }

/-- The oldest outstanding request for a page, and the others. -/
def takeXreq (s : State) (fn : Nat) (pasid : Option Nat) (page : Nat) (prg : Bool) : Option (XlatReq × State) :=
  match s.host.xreqs.findIdx? (fun q => q.fn == fn && q.pasid == pasid && q.page == page && q.prg == prg) with
  | none => none
  | some i => (s.host.xreqs[i]?).map (fun q => (q, { s with host.xreqs := s.host.xreqs.eraseIdx i }))

/-- ATS_TRANSLATION_COMPLETE (R530, R531, R533): the translation is entered and the waiting accesses are sent, or a translation
fault is met: final after a page request's success, or where no page request may be sent. -/
def execAtsTranslationComplete (fn : Nat) (pasid : Option Nat) (page host : Nat) (r w : Bool) (s : State) :
    Host.Outcome State Fault Refusal :=
  completes s (
    match takeXreq s fn pasid page false with
    | none => s
    | some (q, s) =>
      if q.dead then s
      else
        let p := (fnOf s fn).pcie
        let lacks := if q.write then !w else !r
        let e : AtcEnt := { host := host, r := r, w := w, final := lacks && (q.retried || !p.pri || p.priStopped) }
        retryHost (putAtc s (atcKey fn pasid (page * 4096)) e) fn)

/-- ATS_INVALIDATE_REQUEST (R530): the translations of the range are removed, and the completion is sent; accesses that used
them have been sent already. -/
def execAtsInvalidateRequest (fn : Nat) (pasid : Option Nat) (page pages : Nat) (s : State) : Host.Outcome State Fault Refusal :=
  completes s (
    if !s.pm.ready || fn = serviceFn || !fnLive s fn then s
    else
      let lo := atcKey fn pasid (page * 4096)
      let atc := s.host.atc.filter (fun e => !(decide (lo ≤ e.1) && decide (e.1 < lo + pages)))
      emit { s with host.atc := atc } (.pcie 6 fn page))

/-- PRG_RESPONSE (R531, R533): 0 success, the page is translated again; 1 Invalid Request, the fault is final; 15 Response
Failure, final, and the function sends no page request until PRI is reset. -/
def execPrgResponse (fn : Nat) (pasid : Option Nat) (page code : Nat) (s : State) : Host.Outcome State Fault Refusal :=
  completes s (
    if code != 0 && code != 1 && code != 15 then s
    else
      match takeXreq s fn pasid page true with
      | none => s
      | some (q, s) =>
        let s := if code = 15 then modFn s fn (fun x => { x with pcie.priStopped := true }) else s
        if q.dead then s
        else
          let key := atcKey fn pasid (page * 4096)
          if code = 0 then
            let again : XlatReq := { q with prg := false, retried := true }
            retryHost (emit { s with host.xreqs := s.host.xreqs ++ [again], host.atc := alDel s.host.atc key } (.pcie 1 fn page)) fn
          else retryHost (putAtc s key { host := 0, r := false, w := false, final := true }) fn)

/-! ### Host reads and atomics (R532, R533) -/

/-- The atomic that a tag belongs to, in the live or the saved context. -/
def txnAtom (s : State) (t : Txn) : Option Atomic :=
  let x := if t.parked then (alFind s.saved t.core).getD (execOf s t.core) else execOf s t.core
  x.atoms.find? (fun a => a.id == t.id)

/-- The host performs an atomic of 4 or 8 bytes at its address: the old value, and host memory. -/
def hostAtom (s : State) (a : Atomic) (line : Nat) : Nat × State :=
  match a.lanes with
  | [] => (0, s)
  | e :: _ =>
    let m := 2 ^ (8 * a.size)
    let old := leNat (cellGets s.host.mem (line + e.pos) a.size)
    let (v, w) := atomNew a.op a.size old (e.b.toNat % m) (e.c.toNat % m)
    (old, if w then { s with host.mem := cellPuts s.host.mem (line + e.pos) (leBytes a.size v) } else s)

/-- A host read or atomic completes: 0 with its data, 5 as a final translation fault, 6 poisoned. -/
def completeHost (s : State) (t : Txn) (line err : Nat) : State :=
  let s := if t.parked && !t.dead then bump s t.tenant 0x30130 1 else s
  match err, t.kind, txnAtom s t with
  | 0, .atom, some a =>
    let (old, s) := hostAtom s a line
    answerTxn s t 0 none (BitVec.ofNat 1024 old)
  | 0, _, _ => answerTxn s t 0 none (linePlace 0 (cellGets s.host.mem line 128))
  | e, _, _ => answerTxn s t e (some (if e = 6 then .memPoison else .memAccess)) 0

/-- HOST_READ_COMPLETE (R532, R533): `ok` false is Unsupported Request or Completer Abort. -/
def execHostReadComplete (die tag : Nat) (ok poison : Bool) (s : State) : Host.Outcome State Fault Refusal :=
  completes s (
    match txnOf s die tag with
    | none => s
    | some t =>
      match t.target with
      | .host ha => completeHost s t ha (if !ok then 5 else if poison then 6 else 0)
      | _ => s)

/-- HOST_COMPLETION_TIMEOUT (R532): after 50 ms. -/
def execHostCompletionTimeout (die tag : Nat) (s : State) : Host.Outcome State Fault Refusal :=
  completes s (
    match txnOf s die tag with
    | none => s
    | some t =>
      match t.target with
      | .host ha => if t.since + 5000000 ≤ s.time then completeHost s t ha 5 else s
      | _ => s)

/-! ### Function-level resets (R465, R469) -/

/-- Mirrored messages whose effects a function-level reset ends. -/
def flrOps : List Nat := [0x0100, 0x0101, 0x0102, 0x0103, 0x0104, 0x0105, 0x0110, 0x0111, 0x0120, 0x0121, 0x0122]

/-- Stop the jobs of a function that hold cores, partition by partition (R464). -/
def flrJobs (s : State) (fn : Nat) : State :=
  let mine := s.fe.jobs.filter (fun e => e.2.fn == fn && e.2.phase == .placed)
  ((mine.map (fun e => e.2.part)).dedup).foldl (fun s p =>
    resetJobs s p ((mine.filter (fun e => e.2.part == p)).map (·.1)) [fn] .none) s

/-- The debug registers of a function's window return to their reset values. -/
def flrDebug (s : State) (fn : Nat) : State :=
  { s with
    dbg.breaks := s.dbg.breaks.filter (fun e => e.2.fn != fn || fn == pf)
    dbg.accCtl := alDel s.dbg.accCtl fn
    dbg.accAddr := alDel s.dbg.accAddr fn
    dbg.accData := alDel s.dbg.accData fn
    dbg.accImage := alDel s.dbg.accImage fn }

/-- A function-level reset of one function: its jobs, queues, ring, images, tensors and pool, its mailbox, and its
registers and precision policies; requests for translations still outstanding are left to complete (R533). -/
def flr (s : State) (fn : Nat) : State :=
  let s := flrJobs s fn
  let s := ((s.fe.queues.filter (fun e => e.2.fn == fn)).map (·.1)).foldl removeQueue s
  let s := dropImages s fn
  let s := ((s.vtensors.filter (fun e => e.2.tenant == fn)).map (·.1)).foldl dropTensor s
  let s := match poolOf s fn with
    | some (p, _) => dropPool s p
    | none => s
  let s := flrDebug s fn
  let xs := s.host.xreqs.map (fun q => if q.fn = fn then { q with dead := true } else q)
  let applied := s.mgmt.applied.filter (fun e => !(e.1 == fn && flrOps.contains (fieldAt e.2 0 2)))
  { s with
    host.xreqs := xs
    host.atc := s.host.atc.filter (fun e => e.1 / 2 ^ 80 != fn)
    mgmt.applied := applied
    mgmt.mboxes := alDel s.mgmt.mboxes fn
    mgmt.retry := if s.mgmt.retry = some fn then none else s.mgmt.retry
    fns := alDel s.fns fn }

/-- Every enabled virtual function is reset, and then they are disabled (R524). -/
def disableVfs (s : State) : State :=
  if !s.host.vfEnable then s
  else
    let s := ((List.range s.host.numVfs).map (· + 1)).foldl flr s
    { s with host.vfEnable := false }

/-- A reset of the physical function is one of every function of the primary interface (Table 16.5); its SR-IOV and Device
Control 2 bits return to their reset values. -/
def flrPrimary (s : State) : State :=
  let s := flr (disableVfs s) pf
  { s with host.numVfs := 0, host.atomicEn := false }

/-- FUNCTION_LEVEL_RESET (R465, R469). -/
def execFunctionLevelReset (fn : Nat) (s : State) : Host.Outcome State Fault Refusal :=
  completes s (
    if !s.pm.ready || !fnLive s fn then s
    else syncShots (settleMail (if fn = pf then flrPrimary s else flr s fn)))

/-- VF_DISABLE (R524): VF Enable is cleared. -/
def execVfDisable (s : State) : Host.Outcome State Fault Refusal :=
  completes s (if s.pm.ready then syncShots (settleMail (disableVfs s)) else s)

/-- D3HOT_ENTER (R524): memory decode is disabled, nothing else stops. -/
def execD3hotEnter (s : State) : Host.Outcome State Fault Refusal :=
  completes s (if s.pm.ready then modFn s pf (fun x => { x with pcie.d3hot := true }) else s)

/-! ### Configuration requests (R522 to R526, R530, R531, R534; log entry 43) -/

/-- ATS Enable is written: clearing it empties the function's cache, and waiting accesses are sent untranslated. -/
def writeAts (s : State) (fn : Nat) (en : Bool) : State :=
  let s := modFn s fn (fun x => { x with pcie.ats := en })
  if en then s
  else
    let xs := s.host.xreqs.map (fun q => if q.fn = fn then { q with dead := true } else q)
    retryHost { s with host.xreqs := xs, host.atc := s.host.atc.filter (fun e => e.1 / 2 ^ 80 != fn) } fn

/-- MSI-X Enable is written: vectors that are pending and unmasked send their messages. -/
def writeMsix (s : State) (fn : Nat) (en : Bool) : State :=
  let s := modFn s fn (fun x => { x with pcie.msixEn := en })
  ((fnOf s fn).vecs.map (·.1)).foldl (fun s v => flushVec s fn v) s

/-- A write to a configuration register, by the codes of log entry 43. -/
def writeConfig (s : State) (fn reg v : Nat) : State :=
  match reg with
  | 0 => writeMsix s fn (bit v 0)
  | 1 => if fn = serviceFn then s else writeAts s fn (bit v 0)
  | 2 => if fn = serviceFn then s
    else modFn s fn (fun x => { x with pcie.pri := bit v 0, pcie.priStopped := x.pcie.priStopped && !bit v 1 })
  | 3 => modFn s fn (fun x => { x with pcie.priAlloc := v })
  | 4 => if fn = serviceFn then s else modFn s fn (fun x => { x with pcie.pasidEn := bit v 0 })
  | 5 =>
    if fn = pf || fn = serviceFn then
      (if v = 0 then modFn s fn (fun x => { x with pcie.d3hot := false })
       else if v = 3 then modFn s fn (fun x => { x with pcie.d3hot := true }) else s)
    else s
  | 6 => if fn != pf then s else if bit v 0 then { s with host.vfEnable := true } else disableVfs s
  | 7 => if fn != pf || s.host.vfEnable || 1023 < v then s else { s with host.numVfs := v }
  | 8 => if fn = pf then { s with host.atomicEn := bit v 0 } else s
  | 9 => if fn = pf then { s with host.aerFatal := bit v 0 } else s
  | 10 => if fn = pf && bit v 0 then { s with host.aerUie := false } else s
  | _ => s

/-- CONFIG_REQUEST (R525): Request Retry Status until device initialisation ends, then completed normally. -/
def execConfigRequest (fn reg : Nat) (write : Option Nat) (s : State) : Host.Outcome State Fault Refusal :=
  completes s (
    if !s.pm.ready then (if s.pm.phase = .off then s else emit s (.pcie 4 fn reg))
    else if !fnLive s fn then s
    else
      let s := match write with
        | some v => writeConfig s fn reg v
        | none => s
      emit s (.pcie 3 fn reg))

/-! ### The board path (R431, R556) -/

/-- MCTP_MESSAGE_RECEIVE (R431): a vendor-defined (0x7E) or SPDM (0x05) message arrives whole and waits to be consumed. -/
def execMctpMessageReceive (type : Nat) (msg : List Byte) (s : State) : Host.Outcome State Fault Refusal :=
  completes s (
    if !s.pm.ready || (type != 0x7E && type != 0x05) then s
    else settleMail { s with mgmt.mctp := s.mgmt.mctp ++ [(type, msg)] })

/-- I3C_ENTDAA (R556): the dynamic address; none is acknowledged before device initialisation ends. -/
def execI3cEntdaa (addr : Nat) (s : State) : Host.Outcome State Fault Refusal :=
  completes s (if s.pm.ready then { s with mgmt.i3cAddr := some (addr % 128) } else s)

end Sys2Proof.Machine
end

