-- ==== Sys2Proof/Machine/MailDevice.lean ====
section
/-! DEFINITION. Mailbox messages of the lasting-fault list, keys, firmware, debug and attestation (Table 15.10, opcodes 0x0320
to 0x0405; Table 15.11). -/

namespace Sys2Proof.Machine

/-! ### The lasting-fault list (R483 to R486) -/

/-- The 16 bytes of an entry (Table 17.5). -/
def entryBytes (e : FaultEnt) : List Byte :=
  withCrc (leBytes 1 e.kind ++ leBytes 1 e.flags ++ leBytes 2 e.place ++ leBytes 4 e.detail ++ leBytes 4 e.boot)

/-- FAULT_LIST_READ carried out: entries in the order in which they were added. -/
def hFaultListRead (s : State) (r : Req) : Done × State :=
  let es := (s.mgmt.faults.drop (r.f 0 4)).take 1018
  ansOk s (leBytes 4 s.mgmt.faults.length ++ leBytes 4 es.length ++ es.flatMap entryBytes)

/-- FAULT_LIST_READ (R483). -/
def execFaultListRead (s : State) : Host.Outcome State Fault Refusal := completes s (serveOp 0x0320 hFaultListRead s)

/-- An entry satisfies Table 17.3. -/
def entryValid (s : State) (e : FaultEnt) : Bool :=
  let core := locValid s e.place && e.place / 16384 = 0
  let ctl := decide (e.place < Config.controllers s.variant)
  decide (e.flags < 4) &&
  (match e.kind with
   | 1 => core && e.detail = 0
   | 2 => core && decide (e.detail ≤ 32)
   | 3 => locValid s e.place && decide (e.detail < 65536)
   | 4 => ctl && decide (e.detail < 2 ^ 24)
   | 5 => ctl
   | 6 => ctl && decide (e.detail < 2 ^ 10) && decide (e.detail / 16 ≤ 35)
   | 7 => ctl && e.detail = 0
   | 8 => decide (e.place < d2dCountOf s.variant) && e.detail = 0
   | 9 => Config.portBonded s.variant e.place && decide (e.detail ≤ 8)
   | 10 => locValid s e.place && e.place / 16384 = 1 && e.detail = 0
   | 15 => decide (2 ≤ e.place) && decide (e.place ≤ 9) && e.detail != 0 && e.boot != 0
   | _ => false)
where
  /-- Die-to-die links by variant (Table 11.12a). -/
  d2dCountOf : Variant → Nat
    | .gbl8 => 16
    | .gbl2 => 2
    | _ => 4

/-- After an edit of a THRESHOLD entry, a level at or above the threshold makes its resource lasting at once (R485). -/
def recheckBuckets (s : State) (kind : Nat) : State :=
  (s.ras.buckets.filter (fun b => b.1.kind == kind)).foldl (fun s b =>
    match bucketLimit s kind with
    | some (n, _) => if max 1 n ≤ b.2 then lastingFault { s with ras.buckets := resPut s.ras.buckets b.1 0 } b.1 false else s
    | none => s) s

/-- Leaks of a kind's buckets are settled under the threshold in force before an edit. -/
def settleBuckets (s : State) (kind : Nat) : State :=
  (s.ras.buckets.filter (fun b => b.1.kind == kind)).foldl (fun s b => applyLeaks s b.1 true) s

/-- Leaks already applied under a new threshold: none is due for the time before the edit. -/
def restartLeaks (s : State) (kind : Nat) : State :=
  match bucketLimit s kind with
  | none => s
  | some (n, w) =>
    { s with ras.leaks := s.ras.leaks.map (fun e => if e.1.kind = kind then (e.1, leaksDue s n w true) else e) }

/-- An edit of the list, with what takes effect at the reply. -/
def editList (s : State) (e : FaultEnt) (fs : List FaultEnt) (added : Bool) : State :=
  if e.kind = 15 then
    let s := settleBuckets s e.place
    let ls := (s.ras.buckets.filter (fun b => b.1.kind == e.place && !s.ras.leaks.any (fun l => l.1 == b.1))).map (fun b => (b.1, 0))
    recheckBuckets (restartLeaks { s with mgmt.faults := fs, ras.leaks := s.ras.leaks ++ ls } e.place) e.place
  else if e.kind = 5 && added then retireGranule { s with mgmt.faults := fs } e.detail e.place
  else { s with mgmt.faults := fs }

/-- FAULT_LIST_EDIT carried out (R485): the device sets ORIGIN, the boot number and CHECK of an added entry. -/
def hFaultListEdit (s : State) (r : Req) : Done × State :=
  let fs := s.mgmt.faults
  if 1 < r.f 0 1 then ansBad s rBadField
  else if r.f 0 1 = 0 then
    let k := r.f 16 1
    let e : FaultEnt := { kind := k, flags := r.f 17 1, place := r.f 18 2, detail := r.f 20 4,
                          boot := if k = 15 then r.f 24 4 else s.mgmt.bootNo }
    if !entryValid s e then ansBad s rBadField
    else if listMax ≤ fs.length then ansBad s rNoResource
    else
      let e := { e with flags := e.flags / 2 * 2 + 1 }
      let s := editList s e (fs ++ [e]) true
      ansOk s (leBytes 4 s.mgmt.faults.length)
  else
    match fs[r.f 4 4]? with
    | none => ansBad s rNotFound
    | some e =>
      let s := editList s e (fs.eraseIdx (r.f 4 4)) false
      ansOk s (leBytes 4 s.mgmt.faults.length)

/-- FAULT_LIST_EDIT (R485). -/
def execFaultListEdit (s : State) : Host.Outcome State Fault Refusal := completes s (serveOp 0x0321 hFaultListEdit s)

/-! ### Keys (R439 to R441) -/

/-- Store or erase a slot's key and mask; its counter is kept. -/
def putKey (s : State) (k : Nat) (key : Option (List Byte)) (mask : Nat) : State :=
  { s with mgmt.keys := alMod {} s.mgmt.keys k (fun x => { x with key := key, mask := mask }) }

/-- KEY_CHANGE carried out (R441): a new key comes wrapped under slot 0's key, or in clear while the device is unowned. -/
def hKeyChange (s : State) (r : Req) : Done × State :=
  let k := r.f 0 1
  if 7 < k || 1 < r.f 1 1 || 127 < r.f 4 4 || r.slot != 0 then ansBad s rBadField
  else if r.f 1 1 = 1 then
    if k = 0 then ansOk { s with mgmt.keys := alMap s.mgmt.keys (fun _ x => { x with key := none, mask := 0 }) } []
    else ansOk (putKey s k none 0) []
  else
    match (keySlot s 0).key with
    | none => ansOk (putKey s k (some ((r.pay.drop 8).take 32)) (r.f 4 4)) []
    | some k0 =>
      match aesUnwrap (k0.map BitVec.toNat) (((r.pay.drop 8).take 40).map BitVec.toNat) with
      | none => ansBad s rBadField
      | some b => ansOk (putKey s k (some (b.map (BitVec.ofNat 8))) (r.f 4 4)) []

/-- KEY_CHANGE (R441). -/
def execKeyChange (s : State) : Host.Outcome State Fault Refusal := completes s (serveOp 0x0400 hKeyChange s)

/-! ### Firmware (R445) -/

/-- Read bytes at a function's own addresses, page by page. -/
def ownRead : (fuel : Nat) → State → (fn addr n : Nat) → List Byte → Acc (List Byte) × State
  | 0, s, _, _, _, acc => (.ok acc, s)
  | fuel + 1, s, fn, addr, n, acc =>
    if n = 0 then (.ok acc, s)
    else
      let k := min n (4096 - addr % 4096)
      match hostXlat s fn none addr false with
      | (.wait, s) => (.wait, s)
      | (.fault, s) => (.fault .memAccess, s)
      | (.ok a, s) =>
        match hostBytes s a k with
        | (.ok b, s) => ownRead fuel s fn (addr + k) (n - k) (acc ++ b)
        | (.fault f, s) => (.fault f, s)
        | (.wait, s) => (.wait, s)

/-- FW_UPDATE carried out (R445): read, verify, check the security version, write the inactive bank and mark it pending. -/
def hFwUpdate (s : State) (r : Req) : Done × State :=
  let fn := if r.fn = boardFn then pf else r.fn
  match ownRead (r.f 8 4 / 4096 + 2) s fn (r.f 0 8) (r.f 8 4) [] with
  | (.wait, s) => (.wait, s)
  | (.fault _, s) => ansBad s rState
  | (.ok im, s) =>
    let svn := Config.firmwareSvn im % 2 ^ 32
    if !Config.signatureOk im then ansBad s rVerify
    else if svn < s.mgmt.minSvn then ansBad s rRollback
    else
      let b := 1 - s.mgmt.activeBank
      let s := { s with mgmt.banks := s.mgmt.banks.set b { svn := svn, image := im }, mgmt.pendingBank := some b,
                        mgmt.failedBoots := 0 }
      ansOk s (leBytes 4 svn ++ leBytes 1 b)

/-- FW_UPDATE (R445). -/
def execFwUpdate (s : State) : Host.Outcome State Fault Refusal := completes s (serveOp 0x0401 hFwUpdate s)

/-! ### Debug (R505, R513) -/

/-- DEBUG_UNLOCK carried out (R513). -/
def hDebugUnlock (s : State) (r : Req) : Done × State :=
  let lv := r.f 0 1
  let t := r.f 2 2
  if lv = 0 || 2 < lv || (1024 ≤ t && t != 0xFFFF) then ansBad s rBadField
  else if s.sched.strict && t = 0xFFFF then ansBad s rState
  else ansOk { s with dbg.level := lv, dbg.scope := if t = 0xFFFF then none else some t } []

/-- DEBUG_UNLOCK (R513). -/
def execDebugUnlock (s : State) : Host.Outcome State Fault Refusal := completes s (serveOp 0x0403 hDebugUnlock s)

/-- DEBUG_LOCK carried out (R513). -/
def hDebugLock (s : State) (_r : Req) : Done × State := ansOk (lockDebug s) []

/-- DEBUG_LOCK (R513). -/
def execDebugLock (s : State) : Host.Outcome State Fault Refusal := completes s (serveOp 0x0404 hDebugLock s)

/-- WHISTLE carried out (R505): the mailbox is a source of the whistle. -/
def hWhistle (s : State) (_r : Req) : Done × State := ansOk (raiseWhistle s 4) []

/-- WHISTLE (R505). -/
def execWhistle (s : State) : Host.Outcome State Fault Refusal := completes s (serveOp 0x0405 hWhistle s)

/-! ### Attestation (R444, Table 15.11) -/

/-- What measurements 3 to 5 cover (Table 15.11): the lasting-fault list, the isolation mode, the key slots' masks, whether the
device is owned, and the debug state. -/
def spdmMeasured (s : State) : List Nat :=
  [b2n s.sched.strict, b2n (unowned s), s.dbg.level, (s.dbg.scope.map (· + 1)).getD 0] ++
  (List.range 8).map (fun k => (keySlot s k).mask) ++
  s.mgmt.faults.flatMap (fun e => [e.kind, e.flags, e.place, e.detail, e.boot])

/-- An SPDM 1.3 response to request code `code`: version, response code, and contents whose formats the spec takes from outside
(log entry 14); a GET_MEASUREMENTS response is of the state at this moment (R444). -/
def spdmReply (code : Nat) (s : State) (_fn : Nat) (req : List Byte) : List Byte × State :=
  if spdmBeyond code req then (spdmError code, s)
  else
    let what := leNat req
    let measured := if code = 0xE0 then spdmMeasured s else []
    let n := Config.spdmLen what measured s.freeCtr % 16300
    ([0x13, BitVec.ofNat 8 (code - 0x80)] ++ (List.range n).map (fun i => Config.spdmByte what measured s.freeCtr i),
     { s with freeCtr := s.freeCtr + 1 })

/-- GET_VERSION (R444). -/
def execGetVersion (s : State) : Host.Outcome State Fault Refusal := completes s (serveSpdm 0x84 (spdmReply 0x84) s)

/-- GET_CAPABILITIES (R444). -/
def execGetCapabilities (s : State) : Host.Outcome State Fault Refusal := completes s (serveSpdm 0xE1 (spdmReply 0xE1) s)

/-- NEGOTIATE_ALGORITHMS (R444). -/
def execNegotiateAlgorithms (s : State) : Host.Outcome State Fault Refusal := completes s (serveSpdm 0xE3 (spdmReply 0xE3) s)

/-- GET_DIGESTS (R444). -/
def execGetDigests (s : State) : Host.Outcome State Fault Refusal := completes s (serveSpdm 0x81 (spdmReply 0x81) s)

/-- GET_CERTIFICATE (R444). -/
def execGetCertificate (s : State) : Host.Outcome State Fault Refusal := completes s (serveSpdm 0x82 (spdmReply 0x82) s)

/-- CHALLENGE (R444). -/
def execChallenge (s : State) : Host.Outcome State Fault Refusal := completes s (serveSpdm 0x83 (spdmReply 0x83) s)

/-- GET_MEASUREMENTS (R444). -/
def execGetMeasurements (s : State) : Host.Outcome State Fault Refusal := completes s (serveSpdm 0xE0 (spdmReply 0xE0) s)

end Sys2Proof.Machine
end

