-- ==== Sys2Proof/Machine/Tick.lean ====
section
/-! DEFINITION. What an idle step does: one tick of the 10 ns timebase (R449), with the effects that come about at ticks
whatever is commanded (log entry 25). -/

namespace Sys2Proof.Machine

/-- Effective rung of a stepping block: its thermal rung, one coarser while the limiter's drop is in force (R450). -/
def rungOf (s : State) (kind ix last : Nat) : Nat :=
  min last (alGet 0 s.pm.rungs (blkKey kind ix) + b2n s.pm.drop)

/-- Core divider at a rung (Table 16.1); in strict isolation mode ÷8 is the nominal rung (R453). -/
def coreDiv (strict : Bool) (rung : Nat) : Nat :=
  if strict then (if rung = 0 then 8 else 12) else (if rung = 0 then 6 else if rung = 1 then 8 else 12)

/-- Fabric divider at a rung. -/
def fabricDiv (rung : Nat) : Nat := if rung = 0 then 4 else if rung = 1 then 6 else 8

/-- Memory-controller divider at a rung. -/
def memDiv (rung : Nat) : Nat := if rung = 0 then 8 else 12

/-- Cycles of a block's domain in one timebase tick: every divider divides 96 (R450). -/
def cyclesPerTick (s : State) (k : Nat) : Nat :=
  let ix := k % 65536
  match k / 65536 with
  | 0 => 96 / coreDiv s.sched.strict (rungOf s 0 ix (if s.sched.strict then 1 else 2))
  | 1 => 96 / fabricDiv (rungOf s 2 ix 2)
  | 2 => 96 / memDiv (rungOf s 4 ix 1)
  | _ => 0

/-- The cycle counters of a block advance by the cycles of the tick, gated or not (R500): event 0x01 of core, region and
controller blocks. -/
def tickBlocks (s : State) : State :=
  { s with dbg.blocks := s.dbg.blocks.map (fun e =>
      if e.1 / 65536 = 3 then e else (e.1, ctrAddBlock e.2 false 0x01 (cyclesPerTick s e.1) none)) }

/-- A controller's cycles in which a request waits for regulator credit (MEM_CNT_REG_WAIT, Table 10.14, and event 0x08): they
count for every tenant that has one waiting, and once for the physical function. -/
def tickRegWait (s : State) : State :=
  s.mem.ctls.foldl (fun s e =>
    let broke (part : Nat) (rt : Bool) : Bool := sharedPart s part && !s.sched.strict && decide (creditOf e.2 part rt ≤ 0)
    let waits := ((readsLeft e.2).filter (fun m => broke m.part m.rt)).map (fun m => (m.tenant, m.part)) ++
      (e.2.writes.filter (fun w => broke w.part w.rt)).map (fun w => (tenantOf s w.pa, w.part))
    match waits with
    | [] => s
    | (_, part) :: _ =>
      let n := cyclesPerTick s (blkKey 2 e.1)
      let ts := ((waits.map (·.1)).filter (· != pf)).dedup
      ctrAdd (ts.foldl (fun s t => bump s t 0x50230 n) (bump s pf 0x50230 n)) (blkKey 2 e.1) 0x08 n (some part)) s

/-- A port's fabric cycles in which a message waits for credit (Table 18.5, event 8). -/
def tickCredit (s : State) : State :=
  (s.links.ports.filter (fun e => e.2.st == .up && !e.2.wait.isEmpty && decide (e.2.retry.length < 512))).foldl (fun s e =>
    ctrAdd s (blkKey 3 e.1) 8 (96 / fabricDiv (rungOf s 3 (e.1 / 5) 2)) none) s

/-- Once a microsecond, GS_CNT_SLOT_WAIT (Table 12.17) advances for each function with a queue in WAIT_SLOT, and
PM_CNT_LIMIT_US and PM_CNT_THERMAL_US advance (R455, Table 16.14) in every function's window. -/
def tickMicro (s : State) : State :=
  if s.time % 100 != 0 then s
  else
    let fs := liveFns s
    let s := fs.foldl (fun s f =>
      if s.fe.queues.any (fun e => e.2.fn == f && e.2.st == .waitSlot) then bump s f 0x20138 1 else s) s
    let s := if s.pm.drop then fs.foldl (fun s f => bump s f 0x90108 1) s else s
    if s.pm.rungs.any (fun e => e.2 != 0) then fs.foldl (fun s f => bump s f 0x90110 1) s else s

/-! ### Idle blocks (R456) -/

/-- A core that holds no work. -/
def coreIdle (s : State) (c : Nat) : Bool :=
  let k := coreOf s c
  let x := k.exec
  k.present && !k.draining && x.blocks.isEmpty && x.groups.isEmpty && x.wb.isEmpty && x.mmas.isEmpty && x.loads.isEmpty &&
  x.atoms.isEmpty && x.fences.isEmpty

/-- A cluster whose units hold no work. -/
def clusterIdle (s : State) (k : Nat) : Bool :=
  let x := clusterOf s k
  x.turns.isEmpty && x.epi.isEmpty && x.requests.isEmpty

/-- A block holds no work (Table 16.3): by kind 0 core, 1 cluster units, 2 slice, 3 engines and parking unit of a die, 4 memory
controller, 5 aggregator. -/
def blockIdle (s : State) (b : PowerBlock) : Bool :=
  match b.kind with
  | 0 => coreIdle s b.ix
  | 1 => clusterIdle s b.ix
  | 2 => s.dies.all (fun d => d.2.ranges.all (fun o => !o.started))
  | 3 => (dieOf s b.ix).ranges.isEmpty && (dieOf s b.ix).copies.isEmpty && (tagsUsed s b.ix).isEmpty
  | 4 => (ctlOf s b.ix).reads.isEmpty && (ctlOf s b.ix).writes.isEmpty
  | 5 => (regionOf s b.ix).prepass.isEmpty && (regionOf s b.ix).amax.isEmpty
  | _ => false

/-- When a block last held work: at a tick, or at the last access of a slice or request of a controller (log entry 128). -/
def busyAt (s : State) (b : PowerBlock) : Nat :=
  let t := alGet 0 s.pm.busy (blkKey b.kind b.ix)
  match b.kind with
  | 2 => max t (regionOf s b.ix).used
  | 4 => max t (ctlOf s b.ix).lastUse
  | _ => t

/-- Cycles of a block's domain in a tick. -/
def blockRate (s : State) (b : PowerBlock) : Nat :=
  let core (k : Nat) : Nat := 96 / coreDiv s.sched.strict (rungOf s k b.ix (if s.sched.strict then 1 else 2))
  match b.kind with
  | 0 => core 0
  | 1 => core 1
  | 3 => 96 / fabricDiv (rungOf s 3 b.ix 2)
  | 4 => cyclesPerTick s (blkKey 2 b.ix)
  | _ => cyclesPerTick s (blkKey 1 b.ix)

/-- Blocks that hold work at a tick. -/
def tickBusy (s : State) : State :=
  let of (kind : Nat) (ks : List Nat) : List PowerBlock := ks.map (fun k => { kind := kind, ix := k })
  let rs := s.regions.map (·.1)
  let bs := of 0 (s.cores.map (·.1)) ++ of 1 (s.clusters.map (·.1)) ++ of 2 rs ++ of 3 (s.dies.map (·.1)) ++
    of 4 (s.mem.ctls.map (·.1)) ++ of 5 rs
  { s with pm.busy := (bs.filter (fun b => !blockIdle s b)).foldl (fun m b => alPut m (blkKey b.kind b.ix) s.time) s.pm.busy }

/-- The source 0xFFFE, the trace port, which holds the port's FIFO. -/
def portSrc : Nat := 0xFFFE

/-- One source passes its oldest record to the port's FIFO, or drops it there when it is full (R518). -/
def traceMove (s : State) (src : Nat) : State :=
  let q : TraceSrc := alGet {} s.dbg.sources0 src
  match q.fifo with
  | [] => s
  | r :: rs =>
    let s := { s with dbg.sources0 := alPut s.dbg.sources0 src { q with fifo := rs } }
    if s.dbg.portFifo.length < 32768 then { s with dbg.portFifo := s.dbg.portFifo ++ [r] }
    else
      let p : TraceSrc := alGet {} s.dbg.sources0 portSrc
      let first := if p.dropped = 0 then r.getD 4 0 else p.firstStamp
      { s with dbg.traceDrop := s.dbg.traceDrop + 1
               dbg.sources0 := alPut s.dbg.sources0 portSrc { p with dropped := p.dropped + 1, firstStamp := first } }

/-- Trace transport in one tick (R518, R519): each source passes its oldest record to the port's FIFO, and the port sends up
to nine records while its receiver holds the lanes aligned (log entry 38). -/
def tickTrace (s : State) : State :=
  let s := (s.dbg.sources0.map (·.1)).foldl traceMove s
  let out := if s.dbg.portUp then s.dbg.portFifo.take 9 else []
  let s := { s with dbg.portFifo := s.dbg.portFifo.drop out.length, dbg.traceSent := s.dbg.traceSent + out.length }
  out.foldl (fun s r => emit s (.trace r)) s

/-- One tick of the timebase; nothing happens while the timebase does not run. -/
def tick (s : State) : State :=
  if s.pm.phase = .off then s
  else tickTrace (tickMicro (tickBusy (tickRegWait (tickCredit (tickBlocks { s with time := (s.time + 1) % 2 ^ 64 })))))

end Sys2Proof.Machine
end

