-- ==== Sys2Proof/Machine/Memory.lean ====
section
/-! DEFINITION. The memory controllers and the arrival of lines at slices (spec chapters 09 and 10): runs, refresh,
regulators and windows, patrol, retention, fills, side-buffer entries, eviction offers, residency. -/

namespace Sys2Proof.Machine

/-! ### Runs (R290 to R295) -/

/-- Pseudo-channel of a read. -/
def readPc (s : State) (m : MemRead) : Nat := (linePlaceOf s m.pa).pc

/-- Reads that may be served on a pseudo-channel now. -/
def allowedReads (s : State) (h pc : Nat) : List MemRead :=
  (readsLeft (ctlOf s h)).filter (fun m => readPc s m == pc && runAllowed s h pc m.part m.rt)

/-- Whether a read is next by the order of R294 and R402: RT first, then the oldest; `some true` when it passes older ones
to an open row. -/
def readTurn (s : State) (h : Nat) (m : MemRead) : Option Bool :=
  let p := linePlaceOf s m.pa
  let ok := allowedReads s h p.pc
  let peers := ok.filter (fun x => x.rt == m.rt)
  if !ok.contains m || (!m.rt && ok.any (fun x => x.rt)) then none
  else if peers.head? == some m then some false
  else if rowOpen (ctlOf s h) p && decide (alGet 0 (ctlOf s h).passes p.pc < 16) then some true
  else none

/-- Whether a read is of the run `run` and still to be performed. -/
def inRun (s : State) (run : Option (Nat × Nat)) (x : MemRead) : Bool := runOf s x.pa == run && !x.done

/-- The run read of a request (R290, R291): one run is charged and counted, its four sectors are decoded (R298 to R304), and
every queued read of the run takes its line as it stands for it (R293). -/
def performRead (s : State) (h : Nat) (m : MemRead) (pass : Bool) (ecc : EccIn) : State :=
  let p := linePlaceOf s m.pa
  let run := runOf s m.pa
  let lat := (s.time - m.since) * cyclesPerTick s (blkKey 2 h)
  let s := eccRun (chargeRuns (openRow s h p m.part) h p.pc m.part 1 m.rt) (runBase m.pa) ecc false
  let s := modCtl s h (fun c => { c with
    reads := c.reads.map (fun x =>
      if inRun s run x then { x with done := true, data := (memLineFor s x.pa x.id).1, poison := (memLineFor s x.pa x.id).2 } else x)
    passes := alPut c.passes p.pc (if pass then alGet 0 c.passes p.pc + 1 else 0) })
  let s := memBump s m.tenant 0x50200 1
  let k := blkKey 2 h
  let s := ctrAdd (ctrAdd s k 0x02 1 (some m.part)) k 0x09 lat (some m.part)
  if pass then ctrAdd s k 0x06 1 (some m.part) else s

/-- MC_RUN_READ (R290, R291, R294, R298 to R304, R402, R407). -/
def execMcRunRead (ctl id : Nat) (ecc : EccIn) (s : State) : Host.Outcome State Fault Refusal :=
  completes s (
    match (readsLeft (ctlOf s ctl)).find? (fun m => m.id == id) with
    | none => s
    | some m =>
      match ctlServes (ctlOf s ctl), readTurn s ctl m with
      | true, some pass => performRead s ctl m pass ecc
      | _, _ => s)

/-- Runs with queued writes, in order of arrival. -/
def writeRuns (s : State) (h : Nat) : List Nat :=
  ((ctlOf s h).writes.filterMap (fun w => (runOf s w.pa).map (·.2))).reverse.dedup.reverse

/-- A queued read needs a line with queued writes (R294). -/
def runNeeded (s : State) (h q : Nat) : Bool :=
  let c := ctlOf s h
  (readsLeft c).any (fun m => runOf s m.pa == some (h, q) && c.writes.any (fun w => w.pa == m.pa))

/-- Lines of a run with queued writes, and the bytes that they cover. -/
def runLines (s : State) (h q : Nat) : List (Nat × LineMask) :=
  let ws := (ctlOf s h).writes.filter (fun w => runOf s w.pa == some (h, q))
  ((ws.map (·.pa)).dedup).map (fun pa => (pa, (ws.filter (fun w => w.pa == pa)).foldl (fun m w => m ||| w.mask) 0))

/-- A mask that covers part of a sector. -/
def partSector (m : LineMask) : Bool := maskSectors m != maskWholeSectors m

/-- The partition that a write run is charged to: that of the first of its writes that has one (R295). -/
def writePart (s : State) (h q : Nat) : Nat :=
  (((ctlOf s h).writes.find? (fun w => runOf s w.pa == some (h, q) && w.part != 64)).map (·.part)).getD 64

/-- A read that arrived before a write to its line is still to be performed: the run is not written before it (R293). -/
def readFirst (s : State) (h q : Nat) : Bool :=
  let c := ctlOf s h
  (readsLeft c).any (fun m => runOf s m.pa == some (h, q) && c.writes.any (fun w => w.pa == m.pa && decide (m.id < w.after)))

/-- Whether a write run is an RT job's (R402): that of the first of its writes that has a partition. -/
def writeRt (s : State) (h q : Nat) : Bool :=
  (((ctlOf s h).writes.find? (fun w => runOf s w.pa == some (h, q) && w.part != 64)).map (·.rt)).getD false

/-- Run slots of a write run: two for a read-modify-write (R292). -/
def writeSlots (s : State) (h q : Nat) : Nat := if (runLines s h q).any (fun l => partSector l.2) then 2 else 1

/-- Whether a run may be written now (R293, R295, R407): an ordinary one does not go before an RT read that may be served
(R402). -/
def writeReady (s : State) (h q : Nat) : Bool :=
  let pc := (placeOf (2 * q)).pc
  runAllowed s h pc (writePart s h q) (writeRt s h q) (writeSlots s h q) && !readFirst s h q &&
  (writeRt s h q || !(allowedReads s h pc).any (·.rt))

/-- One write run (R292): lines with whole sectors are written directly, others by a read-modify-write, whose read decodes the
run, of two run slots. -/
def performWrite (s : State) (h q : Nat) (ecc : EccIn) : State :=
  let ls := runLines s h q
  let part := writePart s h q
  let p := placeOf (2 * q)
  let rmw := ls.find? (fun l => partSector l.2)
  let t := ((ls.head?).map (fun l => tenantOf s l.1)).getD pf
  let s := chargeRuns (openRow s h p part) h p.pc part (writeSlots s h q) (writeRt s h q)
  let s := match rmw with
    | some l => ctrAdd (memBump (eccRun s (runBase l.1) ecc false) t 0x50210 1) (blkKey 2 h) 0x04 1 (some part)
    | none => s
  let s := ctrAdd (memBump s t 0x50208 1) (blkKey 2 h) 0x03 1 (some part)
  (runLines s h q).foldl (fun s l => flushWrites s l.1) s

/-- Write up to `n` of some runs, those that may be written when their turn comes; answers how many were. -/
def writeBatch (h : Nat) : List Nat → (n : Nat) → List EccIn → State → Nat × State
  | [], _, _, s => (0, s)
  | _, 0, _, s => (0, s)
  | q :: qs, n + 1, es, s =>
    if writeReady s h q then
      let (k, s) := writeBatch h qs n es.tail (performWrite s h q (es.headD {}))
      (k + 1, s)
    else writeBatch h qs (n + 1) es s

/-- MC_RUN_WRITE (R292 to R295): a batch of at least 16 runs, or of fewer when a queued read needs one of the lines, which
comes first, or when no write may be held over a window (R407). -/
def execMcRunWrite (ctl count : Nat) (eccs : List EccIn) (s : State) : Host.Outcome State Fault Refusal :=
  completes s (
    let rs := writeRuns s ctl
    let need := rs.filter (fun q => runNeeded s ctl q && writeReady s ctl q)
    let order := need ++ rs.filter (fun q => !need.contains q)
    if !ctlServes (ctlOf s ctl) || (decide (count < 16) && need.isEmpty && !s.sched.strict) then s
    else
      let (n, t) := writeBatch ctl order count eccs s
      if n = count then t else s)

/-- DRAM_REFRESH (R277, R294): per-bank refresh closes the row of one bank, which the spec leaves to the controller, as it
does the cycles that the refresh takes; in the time-partitioned form in window 15 (R407). -/
def execDramRefresh (ctl pc : Nat) (s : State) : Host.Outcome State Fault Refusal :=
  completes s (
    if !ctlServes (ctlOf s ctl) || decide (16 ≤ pc) || (s.sched.strict && sharedCtl s ctl && (ctlOf s ctl).window != 15) then s
    else
      let (b, s) := takeFree s
      let (n, s) := takeFree s
      let s := modCtl s ctl (fun c => { c with rows := alDel c.rows (pc * 64 + b.toNat % 64) })
      ctrAdd s (blkKey 2 ctl) 0x07 n.toNat none)

/-- A refill of one regulator (R295). -/
def refill (g : Regulator) (p : Partition) : Regulator :=
  { credit := min (p.burst : Int) (g.credit + p.rate), rtCredit := min (p.rtBurst : Int) (g.rtCredit + p.rtRate) }

/-- Root-clock cycles since the timebase began: 96 in each 10 ns (R448). -/
def rootCycles (s : State) : Nat := 96 * s.time

/-- REGULATOR_REFILL (R295): every controller of a SHARED set, for each partition that is regulated there, once in 600 root-clock
cycles (R448). -/
def execRegulatorRefill (s : State) : Host.Outcome State Fault Refusal :=
  completes s (
    if s.sched.strict || decide (rootCycles s < 600 * (s.mem.refills + 1)) then s
    else
      let ps := s.sched.parts.filter (fun e => !e.2.dedicated)
      { s with mem.refills := s.mem.refills + 1, mem.ctls := alMap s.mem.ctls (fun h c =>
          if sharedCtl s h then { c with regs := ps.foldl (fun m e => alPut m e.1 (refill (alGet {} m e.1) e.2)) c.regs } else c) })

/-- The writes of a window's holder that still wait as the window ends: no write is held over into a later window (R407), so
they are performed in what the window has left. -/
def endWindow (s : State) (h : Nat) : State :=
  if ctlServes (ctlOf s h) && sharedCtl s h then (writeBatch h (writeRuns s h) (writeRuns s h).length [] s).2 else s

/-- MEMORY_WINDOW_BOUNDARY (R407): the next window of the time-partitioned form begins at every controller, 1,200 root-clock
cycles after the one before (R448). -/
def execMemoryWindowBoundary (s : State) : Host.Outcome State Fault Refusal :=
  completes s (
    if s.sched.strict && decide (1200 * (s.mem.windows + 1) ≤ rootCycles s) then
      let s := (s.mem.ctls.map (·.1)).foldl endWindow s
      { s with mem.windows := s.mem.windows + 1, mem.ctls := alMap s.mem.ctls (fun _ c => { c with window := (c.window + 1) % 16, windowRuns := [] }) }
    else s)

/-- A controller's only requests are the corrected sectors that it writes back itself (R299). -/
def onlyOwn (c : Ctl) : Bool := (readsLeft c).isEmpty && c.writes.all (·.own)

/-- PATROL_READ (R301, R299, R300): the next run of the controller, its four sectors, only while the controller has no other
request; retired granules are skipped. -/
def execPatrolRead (ctl : Nat) (ecc : EccIn) (s : State) : Host.Outcome State Fault Refusal :=
  completes s (
    let c := ctlOf s ctl
    if !ctlServes c || !onlyOwn c || (s.sched.strict && sharedCtl s ctl && c.window != 15) then s
    else
      let x := c.patrol
      let s := modCtl s ctl (fun c => { c with patrol := (x + 4) % 2 ^ 28 })
      match lineAddr s ctl (x / 4 * 2) with
      | none => s
      | some pa =>
        let gone := match alFind s.mem.retired (pa / 65536) with
          | some g => !g.pending
          | none => false
        if gone then s
        else
          let s := ctrAdd (memBump (openRow s ctl (placeOf (x / 4 * 2)) 64) pf 0x50200 1) (blkKey 2 ctl) 0x02 1 none
          eccRun (bump s pf 0x50238 4) pa ecc true)

/-- MC_RETENTION_ENTER (R308, R458): a controller that has received no request for 100 µs and has performed its queued writes
enters self-refresh. -/
def execMcRetentionEnter (ctl : Nat) (s : State) : Host.Outcome State Fault Refusal :=
  completes s (
    let c := ctlOf s ctl
    if ctlServes c && (readsLeft c).isEmpty && c.writes.isEmpty && decide (c.lastUse + 10000 ≤ s.time) then
      modCtl s ctl (fun c => { c with st := .retention, rows := [] })
    else s)

/-! ### Fills (R254, R264, R265) -/

/-- Remove a read from its controller. -/
def dropRead (s : State) (pa id : Nat) : State :=
  match homeOf s pa with
  | none => s
  | some (h, _) => modCtl s h (fun c => { c with reads := c.reads.filter (fun m => m.id != id) })

/-- The oldest performed read of a line. -/
def doneRead (s : State) (pa : Nat) : Option MemRead :=
  (homeOf s pa).bind (fun x => (ctlOf s x.1).reads.find? (fun m => m.pa == pa && m.done))

/-- The oldest load that waits for a line of device memory, with its core. -/
def oldestLoad (s : State) (pa : Nat) : Option (Nat × Load) :=
  let mine := s.cores.flatMap (fun e =>
    (e.2.exec.loads.filter (fun l => l.target == .loc pa && l.got.isNone && l.failed.isNone)).map (fun l => (e.1, l)))
  mine.foldl (fun (b : Option (Nat × Load)) e =>
    match b with
    | none => some e
    | some x => if e.2.id < x.2.id then some e else some x) none

/-- A load has its value. -/
def giveLoad (s : State) (c id : Nat) (d : Line) (st : BitVec 24) (p : BitVec 2) : State :=
  modExec s c (fun x => { x with loads := x.loads.map (fun k => if k.id = id then { k with got := some (d, st, p) } else k) })

/-- The loads that wait for a read which a later write has overtaken have its value; it enters no cache (R293). -/
def giveStale (s : State) (pa : Nat) (m : MemRead) (st : BitVec 24) : State :=
  { s with cores := alMap s.cores (fun _ c => { c with exec := { c.exec with
      loads := c.exec.loads.map (fun l =>
        if l.read == some m.id && l.target == .loc pa && l.got.isNone && l.failed.isNone then
          { l with got := some (m.data, st, m.poison), nofill := true } else l) } }) }

/-- Serve the oldest waiting load of a line with the line that came, by a fill of Table 9.2, or fill for the demand that asked
when its load is gone. -/
def fillFor (s : State) (r set tag pa : Nat) (d : Line) (p : BitVec 2) (m : Option MemRead) : State :=
  match oldestLoad s pa, m with
  | some (c, l), _ =>
    let (d, st, p, s) := homeFill (ccBump s r l.part l.tenant ccLookup 1) r set tag pa l.part l.tenant l.hint d p
    giveLoad s c l.id d st p
  | none, some m =>
    match m.kind with
    | .demand h => (homeFill (ccBump s r m.part m.tenant ccLookup 1) r set tag pa m.part m.tenant h d p).2.2.2
    | .prefetch => s
  | none, none => s

/-- The oldest waiting load takes its line from the side buffer (R265): it is freed, and filled from. -/
def fillFromSide (s : State) (r pa : Nat) : State :=
  match oldestLoad s pa with
  | none => s
  | some (c, l) =>
    let (d, st, p, s) := homeRead s pa l.part l.tenant l.hint
    if (sideOf (regionOf s r) pa).isSome then s else giveLoad s c l.id d st p

/-- SLICE_FILL (R254, R265, R291, R293): a line that a demand has read from memory, or that the side buffer holds, goes to the
oldest load that waits for it and into the slice; one that is in the slice by now is discarded, and one that a later write has
overtaken goes to the loads that waited for it alone. -/
def execSliceFill (pa : Nat) (s : State) : Host.Outcome State Fault Refusal :=
  completes s (
    match homeSlice s pa with
    | none => s
    | some (r, set, tag) =>
      match doneRead s pa with
      | some m =>
        if m.stale then giveStale (dropRead s pa m.id) pa m (stampOf (regionOf s r) set)
        else if m.kind = .prefetch then s
        else
          let s := dropRead s pa m.id
          if (findWay (regionOf s r) set tag).isSome then s else fillFor s r set tag pa m.data m.poison (some m)
      | none =>
        if (findWay (regionOf s r) set tag).isSome || (sideOf (regionOf s r) pa).isNone then s else fillFromSide s r pa)

/-- Entries that the allotment of a partition may hold at a slice (R264). -/
def allotMax (s : State) (r : Nat) (ways : Option Nat) : Nat :=
  let size (e : Nat × Partition) : Nat := 4 * (wayList e.2.mask).length
  let holders := s.sched.parts.filter (fun e => e.2.ways && partHomes s e.2 r)
  match ways with
  | some p => ((holders.find? (fun e => e.1 == p)).map size).getD 0
  | none => 64 - (holders.map size).foldl (· + ·) 0

/-- PREFETCH_FILL (R264): the line enters the side buffer, in place of the oldest entry of a full allotment. -/
def execPrefetchFill (pa : Nat) (s : State) : Host.Outcome State Fault Refusal :=
  completes s (
    match homeSlice s pa, doneRead s pa with
    | some (r, set, tag), some m =>
      if m.kind != .prefetch || m.stale then s
      else
        let s := dropRead s pa m.id
        let x := regionOf s r
        let ways := match alFind s.sched.parts m.part with
          | some p => if p.ways then some m.part else none
          | none => none
        if (findWay x set tag).isSome || (sideOf x pa).isSome then s
        else if allotMax s r ways = 0 then fillFor s r set tag pa m.data m.poison (some m)
        else
          let mine := x.side.filter (fun e => e.allot == ways)
          let s := if mine.length < allotMax s r ways then s
            else
              match mine with
              | o :: _ => ccBump (modRegion s r (fun x => dropSide x o.pa)) r o.part o.tenant ccPrefUnused 1
              | [] => s
          modRegion s r (fun x => { x with side := x.side ++
            [{ pa := pa, data := m.data, poison := m.poison, part := m.part, tenant := m.tenant, allot := ways, since := s.time }] })
    | _, _ => s)

/-- SIDE_ENTRY_EXPIRE (R264): an entry unused for 65,536 fabric cycles is freed. -/
def execSideEntryExpire (region pa : Nat) (s : State) : Host.Outcome State Fault Refusal :=
  completes s (
    match sideOf (regionOf s region) pa with
    | none => s
    | some e =>
      if (s.time - e.since) * cyclesPerTick s (blkKey 1 region) < 65536 then s
      else freeSides s region (fun e => e.pa == pa))

/-! ### Eviction offers (R266, R267) -/

/-- The way that an offer takes (Table 9.6): the lowest-numbered eligible way that is invalid or at age 3; an offer never
causes a write-back. -/
def offerWay (s : State) (r set part : Nat) : Option Nat :=
  let x := regionOf s r
  (eligible s r part set).find? (fun w =>
    match alFind x.lines (set * 16 + w) with
    | none => true
    | some l => decide (l.age = 3) && !l.keep && !l.dirty)

/-- EVICTION_OFFER (R266 to R268): the oldest offer of a core's queue is treated at its home. -/
def execEvictionOffer (core : Nat) (s : State) : Host.Outcome State Fault Refusal :=
  completes s (
    match (execOf s core).offers with
    | [] => s
    | o :: rest =>
      let s := modExec s core (fun x => { x with offers := rest })
      let pa := o.target.addr
      match homeSlice s pa with
      | none => s
      | some (r, set, tag) =>
        let done (s : State) (acc : Bool) : State := ccBump s r o.part o.tenant (if acc then ccOfferAcc else ccOfferDec) 1
        let x := regionOf s r
        match findWay x set tag with
        | some (w, l) => done (modRegion s r (fun x => setWay x set w (if l.keep then l else { l with age := 1 }))) true
        | none =>
          if o.stream || o.stamp != stampOf x set then done s false
          else
            match offerWay s r set o.part with
            | none => done s false
            | some w =>
              done (modRegion (freeSides s r (fun e => e.pa == pa)) r (fun x => setWay x set w
                { tag := tag, data := o.data, age := 2, dirty := false, keep := false, part := o.part, poison := o.poison,
                  pa := pa })) true)

/-- RESIDENCY_TICK (R266): at every tick of 16,384 timebase cycles each L1 line's residency count advances, to 3. -/
def execResidencyTick (s : State) : Host.Outcome State Fault Refusal :=
  completes s (
    if s.time % 16384 != 0 then s
    else { s with cores := alMap s.cores (fun _ c =>
      let l1 := alMap c.exec.l1 (fun _ l => { l with residency := min 3 (l.residency + 1) })
      { c with exec := { c.exec with l1 := l1 } }) })

end Sys2Proof.Machine
end

