-- ==== Sys2Proof/Machine/Boot.lean ====
section
/-! DEFINITION. Named operations of initialisation and reset (spec chapters 16 and 20): the lasting-fault list at boot
(R63, R302 to R306, R481 to R486), the default interleave sets (R577), the steps of Table 16.4, and what a warm or cold cause
clears (Table 16.6). -/

namespace Sys2Proof.Machine

/-! ### The lasting-fault list at boot -/

/-- Entries of a kind. -/
def ofKind (fs : List FaultEnt) (k : Nat) : List FaultEnt := fs.filter (fun e => e.kind == k)

/-- Record a fault of this boot, unless its resource has an entry or the list is full (R481, R486). -/
def bootEntry (boot : Nat) (fs : List FaultEnt) (r : Resource) : List FaultEnt :=
  if fs.any (fun e => e.kind == r.kind && e.place == r.place && e.detail == r.detail) || decide (listMax ≤ fs.length) then fs
  else fs ++ [{ kind := r.kind, flags := 0, place := r.place, detail := r.detail, boot := boot }]

/-- Failed physical rows of a core (R63). -/
def failedRows (fs : List FaultEnt) (loc : Nat) : List Nat :=
  (((ofKind fs 2).filter (fun e => e.place == loc)).map (fun e => e.detail % 64)).dedup

/-- Failed macros of a unit beyond its spares (Table 17.3). -/
def macrosOut (fs : List FaultEnt) (place : Nat) : Bool :=
  decide (Config.spareMacros place < (((ofKind fs 3).filter (fun e => e.place == place)).map (·.detail)).dedup.length)

/-- Location code of a cluster unit: 0 sequencer, 1 transposing buffer, 2 epilogue engine (Table 1.2). -/
def clusterLoc (k unit : Nat) : Nat := 2 ^ 14 + k / 24 * 256 + k % 24 / 6 * 64 + k % 6 * 8 + unit

/-- A cluster unit is removed: by a UNIT entry, or for want of spare macros. -/
def unitOut (fs : List FaultEnt) (place : Nat) : Bool := (ofKind fs 10).any (fun e => e.place == place) || macrosOut fs place

/-- A core is removed at boot (R24, R63, Table 17.3). -/
def coreOut (fs : List FaultEnt) (c : Nat) : Bool :=
  let loc := locOf c
  (ofKind fs 1).any (fun e => e.place == loc) || decide (2 ≤ (failedRows fs loc).length) || macrosOut fs loc ||
  unitOut fs (clusterLoc (c / 8) 0) || unitOut fs (clusterLoc (c / 8) 1)

/-- The spare row of a core replaces its one failed row (R63, R64). -/
def spareFor (fs : List FaultEnt) (c : Nat) : Option Nat :=
  match failedRows fs (locOf c) with
  | [f] => if f < 32 then some f else none
  | _ => none

/-- An epilogue engine is removed (R24). -/
def geeOut (v : Variant) (fs : List FaultEnt) : Bool := (List.range (Config.clusters v)).any (fun k => unitOut fs (clusterLoc k 2))

/-- Units that stay in service with their spares exhausted: those of regions and dies (Table 17.3). -/
def exhausted (fs : List FaultEnt) : Bool := (ofKind fs 3).any (fun e => decide (2 ≤ e.place / 2 ^ 14) && macrosOut fs e.place)

/-- Pins of a controller that stay failed after lane repair (Table 10.7, step 5; R303), by pseudo-channel. -/
def erasedAt (fs : List FaultEnt) (b : BootIn) (h : Nat) : AL (List Nat) :=
  let listed := ((ofKind fs 6).filter (fun e => e.place == h)).map (fun e => (e.detail % 16, e.detail / 16 % 64))
  let found := (b.selfTest.filter (fun t => t.1 == 6 && t.2.1 == h)).map (fun t => (t.2.2 % 16, t.2.2 / 16 % 64))
  let left := ((listed ++ found).dedup).filter (fun p => !b.laneSpared.contains (h, p.1, p.2))
  left.foldl (fun m p => alPut m p.1 (alGet [] m p.1 ++ [p.2])) []

/-! ### Interleave sets (R577) -/

/-- Lay sets one after the other, each from the first multiple of 1 GiB at or above the end of the one before. -/
def laySets : List ISet → (top : Nat) → List ISet
  | [], _ => []
  | x :: r, top =>
    let b := ceilDiv top gib * gib
    { x with base := b } :: laySets r (b + x.size)

/-- Controllers whose reservation a region's firmware set uses. -/
def firmMembers (v : Variant) (hs : List Nat) (r : Nat) : List Nat :=
  let own (q : Nat) : List Nat := hs.filter (fun h => h / 2 == q)
  let cands := r :: (List.range 4).map (fun k => r / 4 * 4 + k) ++ List.range (Config.regions v)
  own ((cands.find? (fun q => !(own q).isEmpty)).getD r)

/-- A region's share of its reservation in steps of 8,192 lines: where it starts and its length. -/
def firmShare (v : Variant) (hs : List Nat) (r : Nat) : Nat × Nat :=
  let mine := firmMembers v hs r
  let us := (List.range (Config.regions v)).filter (fun q => firmMembers v hs q == mine)
  let k := us.idxOf r
  let each := 512 / us.length
  let more := 512 % us.length
  ((each * k + min k more) * 8192, (each + b2n (decide (k < more))) * 8192)

/-- The firmware set of a region. -/
def firmwareSet (v : Variant) (hs : List Nat) (r : Nat) : ISet :=
  let mine := firmMembers v hs r
  let (at_, n) := firmShare v hs r
  { base := 0, size := mine.length * n * 128, member := mine, mbase := mine.map (fun _ => tenantLines + at_), owner := .firmware r }

/-- The sets of a cold reset. -/
def coldSets (v : Variant) (hs : List Nat) : List ISet :=
  if hs.isEmpty then []
  else laySets ((groupCtls 64 hs).map (tenantSet 0 .shared) ++ (List.range (Config.regions v)).map (firmwareSet v hs)) 0

/-! ### Die-to-die links (R35, R36, R315) -/

/-- The neighbour of a die on a port (Table 1.3). -/
def dieNeighbour (v : Variant) (d p : Nat) : Option Nat :=
  match v, p with
  | .gbl8, 0 => some (d / 4 * 4 + (d + 1) % 4)
  | .gbl8, 1 => some (d / 4 * 4 + (d + 3) % 4)
  | .gbl8, 2 => some ((d + 4) % 8)
  | .gbl8, 3 => some ((1 - d / 4) * 4 + (d + 2) % 4)
  | .gbl4, 0 | .gbl4l, 0 => some ((d + 1) % 4)
  | .gbl4, 1 | .gbl4l, 1 => some ((d + 3) % 4)
  | .gbl2, 0 | .gbl2, 1 => some (1 - d)
  | _, _ => none

/-- The links in the order of Table 11.17: lower die, its port, higher die. -/
def d2dTable (v : Variant) : List (Nat × Nat × Nat) :=
  (List.range (Config.dies v)).flatMap (fun d => (List.range 4).filterMap (fun p =>
    match dieNeighbour v d p with
    | some n => if d < n then some (d, p, n) else none
    | none => none))

/-- The links after initialisation. -/
def bootLinks (v : Variant) (fs : List FaultEnt) (b : BootIn) : AL D2dLink :=
  ((d2dTable v).zipIdx).map (fun (x, l) =>
    let off := (ofKind fs 8).any (fun e => e.place == l) || b.d2dFailed.contains l
    let lanes := ((b.d2dRepaired.find? (fun e => e.1 == l)).map (·.2)).getD 0
    (l, { lo := x.1, portLo := x.2.1, hi := x.2.2, inUse := !off, up := !off, repaired := lanes }))

/-- The dies that a die reaches over links in use, by port: port and neighbour, ports ascending. -/
def dieHops (v : Variant) (links : AL D2dLink) (d : Nat) : List (Nat × Nat) :=
  (List.range 4).filterMap (fun p =>
    match dieNeighbour v d p with
    | none => none
    | some n =>
      let used := links.any (fun e => e.2.inUse &&
        ((e.2.lo == d && e.2.portLo == p) || (e.2.hi == d && dieNeighbour v e.2.lo e.2.portLo == some d && e.2.lo == n &&
          portBack v e.2.lo e.2.portLo == p)))
      if used then some (p, n) else none)
where
  /-- The port of the higher die of a link: the one on which it has the lower die as its neighbour; of two links between the
  same dies, port 0 leads to port 0 and port 1 to port 1 (Table 1.3). -/
  portBack (v : Variant) (lo p : Nat) : Nat :=
    match dieNeighbour v lo p with
    | none => 4
    | some n =>
      let back := (List.range 4).filter (fun q => dieNeighbour v n q == some lo)
      if back.contains p && decide (1 < back.length) then p else back.headD 4

/-- Hops of a shortest path between two dies, within `fuel` hops; none where no path exists. -/
def dieDist (v : Variant) (links : AL D2dLink) : (fuel : Nat) → (src dst : Nat) → Option Nat
  | 0, src, dst => if src = dst then some 0 else none
  | fuel + 1, src, dst =>
    if src = dst then some 0
    else ((dieHops v links src).filterMap (fun h => (dieDist v links fuel h.2 dst).map (· + 1))).foldl
      (fun m n => match m with | none => some n | some k => some (min k n)) none

/-- A shortest path that takes, at each hop, the lowest-numbered port that lies on one (R36). -/
def diePath (v : Variant) (links : AL D2dLink) : (fuel : Nat) → (src dst : Nat) → List Nat
  | 0, _, _ => []
  | fuel + 1, src, dst =>
    match dieDist v links (fuel + 1) src dst with
    | none | some 0 => []
    | some n =>
      match (dieHops v links src).find? (fun h => dieDist v links fuel h.2 dst == some (n - 1)) with
      | some h => h.1 :: diePath v links fuel h.2 dst
      | none => []

/-- The paths of every ordered pair of dies (R36). -/
def bootPaths (v : Variant) (links : AL D2dLink) : AL (List Nat) :=
  (List.range (Config.dies v)).flatMap (fun a => ((List.range (Config.dies v)).filter (fun b => b != a)).map (fun b =>
    (a * 8 + b, diePath v links (Config.dies v - 1) a b)))

/-- What a warm reset keeps of a port: RETRAINS counts since the last cold reset (R12, Table 11.16). -/
def keptPorts (m : AL Port) : AL Port := alMap m (fun _ p => { retrains := p.retrains })

/-- Ports that start with lanes the list names. -/
def bootPorts (m : AL Port) (fs : List FaultEnt) : AL Port :=
  (ofKind fs 9).foldl (fun m e => alMod {} m e.place (fun p =>
    { p with failedLanes := if p.failedLanes.contains (e.detail % 16) then p.failedLanes else p.failedLanes ++ [e.detail % 16] })) m

/-! ### What a cause clears (R466 to R469, Table 16.6) -/

/-- Flash and what a warm reset keeps of the management controller; a cold reset clears the locks of the key slots (R440). -/
def keepMgmt (m : Mgmt) (cold : Bool) : Mgmt :=
  { keys := if cold then alMap m.keys (fun _ k => { k with locked := false, fails := [] }) else m.keys
    banks := m.banks, activeBank := m.activeBank, pendingBank := m.pendingBank, failedBoots := m.failedBoots
    minSvn := m.minSvn, faults := m.faults, bootNo := m.bootNo }

/-- What every reset of the package keeps: the model's own fields, the flash, the host and the contacts. -/
def keepAlways (s : State) (cold : Bool) : State :=
  let host : HostWorld := { mem := s.host.mem, out := s.host.out, aerUie := s.host.aerUie && !cold, aerFatal := s.host.aerFatal && !cold }
  let pm : Pm := { mrstLow := s.pm.mrstLow, perstLow := s.pm.perstLow, thermTrip := s.pm.thermTrip, leak := s.pm.leak,
                   hotReset := s.pm.hotReset && !cold }
  { pending := s.pending, freeCtr := s.freeCtr, seqNo := s.seqNo, variant := s.variant, host := host, pm := pm
    mgmt := keepMgmt s.mgmt cold }

/-- A cold cause: package power is removed, and everything but the flash is lost. -/
def coldOff (s : State) (cause : Nat) : State :=
  let k := keepAlways s true
  let k := { k with pm.cause := cause }
  let k := if s.dbg.driving then emit k (.pin 0 true) else k
  if s.pm.pgood then emit k (.pin 1 false) else k

/-- Owner of a set after a warm cause: a dedicated set becomes a kept set (R467). -/
def keptOwner (s : State) : SetOwner → SetOwner
  | .part p => .kept p (((alFind s.sched.parts p).map (·.granules)).getD [])
  | o => o

/-- Dirty lines of the slices: region, key. -/
def dirtyLines (s : State) : List (Nat × Nat) :=
  s.regions.flatMap (fun r => (r.2.lines.filter (fun e => e.2.dirty)).map (fun e => (r.1, e.1)))

/-- Perform every queued write of the controllers. -/
def drainCtls (s : State) : State :=
  ((s.mem.ctls.flatMap (fun c => c.2.writes.map (·.pa))).dedup).foldl flushWrites s

/-- The stacks enter self-refresh (R466, step 3; Table 10.1). -/
def selfRefresh (s : State) : State :=
  { s with mem.ctls := alMap s.mem.ctls (fun _ c => if c.st = .active then { c with st := .retention, rows := [] } else c) }

/-- Every slice writes back its dirty lines, poisoned ones with their pattern, and the controllers perform them. -/
def flushAll (s : State) : State :=
  let s := s.regions.foldl (fun s r => r.2.lines.foldl (fun s e => writeBack s pf e.2) s) s
  let s := selfRefresh (drainCtls s)
  { s with regions := alMap s.regions (fun _ r => { r with lines := [] }) }

/-- Saturating count of PM_RESET_CAUSE.LOST. -/
def lostCount (n : Nat) : Nat := min n (2 ^ 24 - 1)

/-- A warm cause (R466, step 1): all work stops, write buffers are discarded, the ports go to DOWN; what Table 16.6 keeps stays,
and the flush begins unless WFLUSH_OFF was low, in which case the dirty lines are lost at once. Pending granules are freed with
their allocations, and are recorded as retired (R305). -/
def warmOn (s : State) (cause : Nat) : State :=
  let k := keepAlways (if s.dbg.driving then emit s (.pin 0 true) else s) false
  let mem : MemSys := { mem := s.mem.mem, poisoned := s.mem.poisoned, hot := s.mem.hot, stackOff := s.mem.stackOff, nextRead := s.mem.nextRead
                        refills := 96 * s.time / 600, windows := 96 * s.time / 1200
                        sets := s.mem.sets.map (fun x => { x with owner := keptOwner s x.owner })
                        ctls := alMap s.mem.ctls (fun _ c => { c with reads := [] }) }
  let rs := alMap s.regions (fun _ r => ({ lines := r.lines } : Region))
  let pend := (s.mem.retired.filter (fun e => e.2.pending)).map (fun e => ({ kind := 5, place := e.2.ctl, detail := e.1 } : Resource))
  let faults := pend.foldl (bootEntry s.mgmt.bootNo) k.mgmt.faults
  let k := { k with
    time := s.time, mem := mem, regions := rs, mgmt.faults := faults, links.ports := keptPorts s.links.ports
    pm.phase := .warm, pm.pgood := s.pm.pgood, pm.wflush := s.pm.wflush, pm.cause := cause, pm.warm := true
    pm.flushFrom := if s.pm.wflush then some s.time else none }
  if s.pm.wflush then k
  else
    let n := (dirtyLines k).length
    let k := selfRefresh (drainCtls k)
    { k with regions := alMap k.regions (fun _ r => { r with lines := [] }), pm.lost := lostCount n }

/-! ### Firmware (R445) -/

/-- The boot of the selected bank: the state, and whether initialisation reaches its end. A pending image that reaches it becomes
active; one that fails three times in a row gives way to the previous bank. -/
def bootFirmware (s : State) (ok : Bool) : State × Bool × Bool :=
  match s.mgmt.pendingBank with
  | none => (s, true, false)
  | some b =>
    if ok then
      let svn := (s.mgmt.banks.getD b {}).svn
      ({ s with mgmt.activeBank := b, mgmt.pendingBank := none, mgmt.failedBoots := 0, mgmt.minSvn := max s.mgmt.minSvn svn }, true, false)
    else if 2 ≤ s.mgmt.failedBoots then ({ s with mgmt.pendingBank := none, mgmt.failedBoots := 0 }, true, true)
    else ({ s with mgmt.failedBoots := s.mgmt.failedBoots + 1 }, false, false)

/-! ### Steps 3 to 9 of Table 16.4 -/

/-- The list after steps 3 and 4: entries whose copies are both bad are lost, the self-test's failures are recorded, and a core
with two failed rows gets its CORE entry. -/
def bootList (s : State) (b : BootIn) : List FaultEnt :=
  let fs := (s.mgmt.faults.zipIdx.filter (fun e => !b.flashBad.contains e.2)).map (·.1)
  let found := b.selfTest.filter (fun t => t.1 == 2 || t.1 == 3)
  let fs := found.foldl (fun fs t => bootEntry s.mgmt.bootNo fs { kind := t.1, place := t.2.1, detail := t.2.2 }) fs
  ((((ofKind fs 2).map (·.place)).dedup).filter (fun p => decide (2 ≤ (failedRows fs p).length))).foldl (fun fs p =>
    bootEntry s.mgmt.bootNo fs { kind := 1, place := p, detail := 0 }) fs

/-- Rows that post-package repair restored (R306), named by their positions in the list. -/
def repairedRows (s : State) (b : BootIn) : List FaultEnt :=
  (s.mgmt.faults.zipIdx.filter (fun e => e.1.kind == 4 && b.repaired.contains e.2 && !b.flashBad.contains e.2)).map (·.1)

/-- Granules of a row entry. -/
def entryGranules (s : State) (e : FaultEnt) : List Nat :=
  rowGranules s e.place (e.detail % 16) (e.detail / 16 % 64) (e.detail / 2 ^ 10 % 2 ^ 14)

/-- What a warm boot keeps of a set when some of its controllers are removed (R303): the address map is built without them, so a
tenant's set that lost a member is not in it until the next cold reset, and a firmware set keeps its other members. -/
def withoutGone (here : Nat → Bool) (x : ISet) : Option ISet :=
  if x.member.all here then some x
  else
    match x.owner with
    | .firmware _ =>
      let ms := (x.member.zip x.mbase).filter (fun e => here e.1)
      let n := 2 ^ Nat.log2 ms.length
      if ms.isEmpty then none
      else some { x with member := (ms.take n).map (·.1), mbase := (ms.take n).map (·.2), size := x.size / x.member.length * n }
    | _ => none

/-- Redundant lanes of a controller that lane repair has mapped (R302 step 5). -/
def sparesAt (fs : List FaultEnt) (b : BootIn) (h : Nat) : Nat :=
  let listed := ((ofKind fs 6).filter (fun e => e.place == h)).map (fun e => (e.detail % 16, e.detail / 16 % 64))
  let found := (b.selfTest.filter (fun t => t.1 == 6 && t.2.1 == h)).map (fun t => (t.2.2 % 16, t.2.2 / 16 % 64))
  (((listed ++ found).dedup).filter (fun p => b.laneSpared.contains (h, p.1, p.2))).length

/-- Memory after steps 5 to 8 of Table 10.7: controllers, address map, repaired rows' granules zeroed and back in service, the
granules of unrepaired rows retired. -/
def bootMemory (s : State) (cold : Bool) (b : BootIn) (done : List FaultEnt) : State :=
  let v := s.variant
  let fs := s.mgmt.faults
  let off := if cold then b.stackBad else s.mem.stackOff
  let here (h : Nat) : Bool := !(ofKind fs 7).any (fun e => e.place == h) && !off.contains (h / 4)
  let ctls := (List.range (Config.controllers v)).map (fun h =>
    (h, ({ present := here h, erased := erasedAt fs b h, spares := sparesAt fs b h, lastUse := s.time } : Ctl)))
  let worn := (List.range (Config.controllers v)).filter (fun h => (erasedAt fs b h).any (fun p => decide (2 ≤ p.2.length)))
  let sets := if cold then coldSets v ((List.range (Config.controllers v)).filter here) else s.mem.sets.filterMap (withoutGone here)
  let s := { s with mem := { s.mem with
    ctls := ctls, sets := sets, stackOff := off, retired := [], grans := [], pages := [], nodes := [] } }
  let left := (ofKind fs 4).filter (fun e => !done.contains e)
  let kept := left.flatMap (entryGranules s)
  let back := (done.flatMap (entryGranules s)).filter (fun g => !kept.contains g)
  let fs := fs.filter (fun e => !done.contains e && !(e.kind == 5 && back.contains e.detail))
  let fs := left.foldl (fun fs e =>
    let new := (entryGranules s e).filter (fun g => !(ofKind fs 5).any (fun x => x.detail == g))
    if 1023 < ((ofKind fs 5).filter (fun x => x.place == e.place)).length + new.length then fs
    else new.foldl (fun fs g => bootEntry s.mgmt.bootNo fs { kind := 5, place := e.place, detail := g }) fs) fs
  let fs := worn.foldl (fun fs h => bootEntry s.mgmt.bootNo fs { kind := 7, place := h, detail := 0 }) fs
  let s := back.foldl (fun s g => zeroRange s (g * 65536) 65536) s
  let gone := (ofKind fs 5).foldl (fun m e => alPut m e.detail ({ pending := false, ctl := e.place } : GranFault)) []
  { s with mgmt.faults := fs, mem.retired := gone }

/-- What decides which units serve: the list, and what this boot's self-test found, for which a full list has no room (R63,
R486). -/
def knownFaults (fs : List FaultEnt) (b : BootIn) : List FaultEnt :=
  b.selfTest.foldl (fun fs t =>
    if fs.any (fun e => e.kind == t.1 && e.place == t.2.1 && e.detail == t.2.2) then fs
    else fs ++ [{ kind := t.1, flags := 0, place := t.2.1, detail := t.2.2, boot := 0 }]) fs

/-- Cores, clusters, regions and dies after step 8: powered off, the slices as R274 gives. -/
def bootUnits (s : State) (b : BootIn) : State :=
  let v := s.variant
  let fs := knownFaults s.mgmt.faults b
  let cores := (List.range (Config.cores v)).map (fun c =>
    (c, ({ present := !coreOut fs c, spareRow := if coreOut fs c then none else spareFor fs c } : Core)))
  let us := if Config.optionalUnits v then 31 - b2n (geeOut v fs) else 0
  { s with
    cores := cores
    clusters := (List.range (Config.clusters v)).map (fun k => (k, ({} : Cluster)))
    regions := (List.range (Config.regions v)).map (fun r => (r, ({} : Region)))
    dies := (List.range (Config.dies v)).map (fun d => (d, ({} : Die)))
    pm.blocks := (List.range (Config.regions v)).map (fun r => (aggKey r, BlockPower.off))
    units := us }

/-- The events of a boot, raised at the end of device initialisation: the new lasting faults, lost entries, a full list, spares
exhausted, a flush left incomplete, a fall-back of the firmware. -/
def bootEvents (s : State) (old : List FaultEnt) (b : BootIn) (fellBack flushBad : Bool) : State :=
  let new := s.mgmt.faults.filter (fun e => !old.contains e && e.kind != 5)
  let s := new.foldl (fun s e =>
    raisePfSf (bump (bump s pf 0x90130 1) serviceFn 0x90130 1) gRAS 2
      (some (rasLast (some { kind := e.kind, place := e.place, detail := e.detail }) 0))) s
  let s := if old.zipIdx.any (fun e => b.flashBad.contains e.2) then raisePfSf s gRAS 2 (some (rasLast none 0)) else s
  let s := if b.selfTest.any (fun t => t.1 != 6 && !hasEntry s { kind := t.1, place := t.2.1, detail := t.2.2 })
    then raisePfSf s gRAS 5 none else s
  let s := if exhausted s.mgmt.faults then raisePfSf s gRAS 4 none else s
  let s := if flushBad then raisePfSf s gPM 2 none else s
  if fellBack then raisePfSf s gMB 4 none else s

/-- A warm cause if a contact is low when initialisation ends (R554). -/
def lateCause (s : State) : State :=
  if s.pm.mrstLow then warmOn s 4 else if s.pm.perstLow then warmOn s 5 else s

/-- Steps 2 to 9 of Table 16.4 from what the cause kept. -/
def bootUp (s : State) (cold : Bool) (b : BootIn) : State :=
  let s := { s with mgmt.bootNo := s.mgmt.bootNo + 1 }
  let (s, ok, fellBack) := bootFirmware s b.bootOk
  if !ok then { s with pm.phase := .running }
  else
    let old := s.mgmt.faults
    let s := bootMemory { s with mgmt.faults := bootList s b } cold b (repairedRows s b)
    let s := bootUnits s b
    let flushBad := s.pm.flushIncomplete
    let s := { s with
      links := { d2d := bootLinks s.variant s.mgmt.faults b, ports := bootPorts s.links.ports s.mgmt.faults, diePaths := bootPaths s.variant (bootLinks s.variant s.mgmt.faults b) }
      fns := []
      ras := { initEnd := s.time }
      pm.phase := .running, pm.ready := true, pm.flushIncomplete := false, pm.flushFrom := none }
    lateCause (bootEvents s old b fellBack flushBad)

end Sys2Proof.Machine
end

