-- ==== Sys2Proof/Machine/Power.lean ====
section
/-! DEFINITION. Power, clocks and resets (spec chapters 16 and 20): causes of cold and warm resets and their ends, divider steps,
the current limiter, power states of blocks, the module's sensors. -/

namespace Sys2Proof.Machine

/-! ### Cold resets (R462, R553, R559, R563) -/

/-- POWER_GOOD (R460, R559, Table 16.4): PGOOD rises, WFLUSH_OFF is sampled, and cold initialisation runs to its end. -/
def execPowerGood (boot : BootIn) (s : State) : Host.Outcome State Fault Refusal :=
  completes s (
    if s.pm.phase != .off || s.pm.thermTrip then s
    else
      let s := emit { s with pm.pgood := true, pm.wflush := boot.wflush, time := 0 } (.pin 1 true)
      bootUp s true boot)

/-- A cold cause in whatever the package is doing. -/
def coldCause (s : State) (cause : Nat) : State := if s.pm.phase = .off then s else coldOff s cause

/-- INPUT_UNDERVOLTAGE (R559): cause 1. -/
def execInputUndervoltage (s : State) : Host.Outcome State Fault Refusal := completes s (coldCause s 1)

/-- REFCLK_LOSS (R553): cause 2. -/
def execRefclkLoss (s : State) : Host.Outcome State Fault Refusal := completes s (coldCause s 2)

/-- THERMAL_TRIP (R451, R563): cause 3; the carrier asserts THERMTRIP_N and keeps power off. -/
def execThermalTrip (s : State) : Host.Outcome State Fault Refusal :=
  completes s (
    if s.pm.phase = .off then s
    else
      let s := coldOff s 3
      emit { s with pm.thermTrip := true } (.pin 2 false))

/-- THERMAL_TRIP_RECOVER (R563): THERMTRIP_N is released, and the package is powered again. -/
def execThermalTripRecover (s : State) : Host.Outcome State Fault Refusal :=
  completes s (if s.pm.thermTrip then emit { s with pm.thermTrip := false } (.pin 2 true) else s)

/-! ### Warm resets (R462, R466, R468, R554) -/

/-- A warm cause: from step 9 on it begins a warm reset; during one it extends it. -/
def warmCause (s : State) (cause : Nat) : State := if s.pm.ready then warmOn s cause else s

/-- MRST_N_ASSERT (R554): cause 4. -/
def execMrstNAssert (s : State) : Host.Outcome State Fault Refusal := completes s (warmCause { s with pm.mrstLow := true } 4)

/-- PERST_ASSERT (R554): cause 5. -/
def execPerstAssert (s : State) : Host.Outcome State Fault Refusal := completes s (warmCause { s with pm.perstLow := true } 5)

/-- PCIE_HOT_RESET (R462): hot reset or link disable of the primary interface, cause 6. -/
def execPcieHotReset (s : State) : Host.Outcome State Fault Refusal :=
  completes s (if s.pm.ready then warmOn { s with pm.hotReset := true } 6 else if s.pm.phase = .warm then { s with pm.hotReset := true } else s)

/-- PERST_RELEASE (R554): PERST0_N goes high before the end of initialisation, so that the primary link may train. -/
def execPerstRelease (s : State) : Host.Outcome State Fault Refusal :=
  completes s (if s.pm.ready then s else { s with pm.perstLow := false })

/-- WARM_FLUSH_TIMEOUT (R466, step 2): lines still dirty 2 ms into the flush are discarded; the others have been written back. -/
def execWarmFlushTimeout (left : List (Nat × Nat)) (s : State) : Host.Outcome State Fault Refusal :=
  completes s (
    match s.pm.flushFrom with
    | none => s
    | some t =>
      let lost := (dirtyLines s).filter (fun x => left.contains x)
      if s.pm.phase != .warm || decide (s.time < t + 200000) || lost.isEmpty then s
      else
        let s := lost.foldl (fun s x => modRegion s x.1 (fun r => { r with lines := alDel r.lines x.2 })) s
        let s := flushAll s
        { s with pm.flushFrom := none, pm.lost := lostCount lost.length, pm.flushIncomplete := true })

/-- WARM_RESET_RELEASE (R466, steps 3 and 4): the last warm cause deasserts, what the flush still has is written back, and steps
2 to 9 of initialisation run with memory and the interleave sets kept. -/
def execWarmResetRelease (boot : BootIn) (s : State) : Host.Outcome State Fault Refusal :=
  completes s (
    if s.pm.phase != .warm then s
    else
      let s := match s.pm.flushFrom with
        | some _ =>
          let s := flushAll s
          { s with pm.flushed := true }
        | none => s
      bootUp { s with pm.mrstLow := false, pm.perstLow := false, pm.hotReset := false } false boot)

/-! ### Divider steps (R450, R451, R453) -/

/-- A stepping block of the part, with the last rung of its ladder (Table 16.1). -/
def lastRung (s : State) (b : PowerBlock) : Option Nat :=
  let v := s.variant
  let core := if s.sched.strict then 1 else 2
  let of (n rung : Nat) : Option Nat := if b.ix < n then some rung else none
  match b.kind with
  | 0 => of (Config.cores v) core
  | 1 => of (Config.clusters v) core
  | 2 => of (Config.regions v) 2
  | 3 => of (Config.dies v) 2
  | 4 => of (Config.controllers v) 1
  | _ => none

/-- Rung of a block by temperature. -/
def thermRung (s : State) (b : PowerBlock) : Nat := alGet 0 s.pm.rungs (blkKey b.kind b.ix)

/-- A block moves to a rung at a reading of its sensor. -/
def moveRung (s : State) (b : PowerBlock) (temp rung : Nat) : State :=
  let k := blkKey b.kind b.ix
  { s with pm.rungs := if rung = 0 then alDel s.pm.rungs k else alPut s.pm.rungs k rung
           pm.temps := alPut s.pm.temps k temp
           pm.cool := alPut s.pm.cool k s.time }

/-- THERMAL_STEP_COARSER (R451): at 105 °C or more, one rung, with its event; on the last rung nothing moves. -/
def execThermalStepCoarser (b : PowerBlock) (temp : Nat) (s : State) : Host.Outcome State Fault Refusal :=
  completes s (
    match lastRung s b with
    | none => s
    | some last =>
      if s.pm.phase != .running || temp < 105 || 120 ≤ temp then s
      else if last ≤ thermRung s b then moveRung s b temp (thermRung s b)
      else raisePfSf (moveRung s b temp (thermRung s b + 1)) gPM 1 none)

/-- THERMAL_STEP_FINER (R451): a reading of the sensor below 105 °C; after 1 ms below 95 °C without a break, one rung, never finer
than nominal. A reading of 95 °C or more breaks it. -/
def execThermalStepFiner (b : PowerBlock) (temp : Nat) (s : State) : Host.Outcome State Fault Refusal :=
  completes s (
    let since := alGet 0 s.pm.cool (blkKey b.kind b.ix)
    if s.pm.phase = .running && (lastRung s b).isSome && decide (95 ≤ temp) then
      { s with pm.cool := alPut s.pm.cool (blkKey b.kind b.ix) s.time }
    else if (lastRung s b).isNone || s.pm.phase != .running || 95 ≤ temp || thermRung s b = 0 || s.time < since + 100000 then s
    else moveRung s b temp (thermRung s b - 1))

/-! ### The current limiter (R454, R455) -/

/-- LIMITER_TRIP (`Config.limitAmps`): the drop is in force for at least 200 µs; each trip is counted and raises LIMITER_TRIP. -/
def execLimiterTrip (s : State) : Host.Outcome State Fault Refusal :=
  completes s (
    if s.pm.phase != .running then s
    else
      let s := (liveFns s).foldl (fun s f => bump s f 0x90100 1) s
      raisePfSf { s with pm.drop := true, pm.dropUntil := s.time + 20000 } gPM 0 none)

/-- LIMITER_RELEASE: after the hold. -/
def execLimiterRelease (s : State) : Host.Outcome State Fault Refusal :=
  completes s (if s.pm.drop && decide (s.pm.dropUntil ≤ s.time) then { s with pm.drop := false } else s)

/-! ### Sensors of the module -/

/-- LEAK_DETECT (R564): LEAK_N is asserted; the module takes no action of its own. -/
def execLeakDetect (s : State) : Host.Outcome State Fault Refusal := completes s (emit { s with pm.leak := true } (.pin 3 false))

/-- STACK_TEMPERATURE_READOUT (R277): above 85 °C the stack's refresh rate is doubled. -/
def execStackTemperatureReadout (stack temp : Nat) (s : State) : Host.Outcome State Fault Refusal :=
  completes s (
    if s.pm.phase != .running || Config.hbmStacks s.variant ≤ stack then s
    else
      let others := s.mem.hot.filter (fun k => k != stack)
      { s with mem.hot := if 85 < temp then others ++ [stack] else others })

/-! ### Power states of blocks (R456 to R458, Table 16.3) -/

/-- Power state of a block that is not a core, cluster or slice. -/
def blockPower (s : State) (b : PowerBlock) : BlockPower := alGet .active s.pm.blocks (blkKey b.kind b.ix)

/-- Set the power state of such a block. -/
def setBlock (s : State) (b : PowerBlock) (p : BlockPower) : State :=
  { s with pm.blocks := alPut s.pm.blocks (blkKey b.kind b.ix) p }

/-- A block has been idle for 64 cycles of its own domain (Table 16.3). -/
def idleFor (s : State) (b : PowerBlock) : Bool := blockIdle s b && decide (64 ≤ (s.time - busyAt s b) * blockRate s b)

/-- A block has been idle for 100 µs. -/
def idleLong (s : State) (b : PowerBlock) : Bool := blockIdle s b && decide (busyAt s b + 10000 ≤ s.time)

/-- BLOCK_CLOCK_GATE: an active block of a kind that gates, after 64 idle cycles. -/
def execBlockClockGate (b : PowerBlock) (s : State) : Host.Outcome State Fault Refusal :=
  completes s (
    if s.pm.phase != .running then s
    else
      match b.kind with
      | 0 => if idleFor s b && (coreOf s b.ix).power == .active then modCore s b.ix (fun c => { c with power := .gated }) else s
      | 1 =>
        if idleFor s b && (clusterOf s b.ix).power == .active then modCluster s b.ix (fun k => { k with power := .gated }) else s
      | 2 =>
        if b.ix < Config.regions s.variant && idleFor s b && (regionOf s b.ix).power == .active then
          modRegion s b.ix (fun r => { r with power := .gated })
        else s
      | 3 =>
        if b.ix < Config.dies s.variant && idleFor s b && blockPower s b == .active then setBlock s b .gated else s
      | 4 =>
        let c := ctlOf s b.ix
        if c.present && c.st == .active && idleFor s b && blockPower s b == .active then setBlock s b .gated else s
      | 5 =>
        if b.ix < Config.regions s.variant && idleFor s b && blockPower s b == .active then setBlock s b .gated else s
      | _ => s)

/-- BLOCK_RETENTION_ENTER: a core's L1 is invalidated and its registers and stores are kept; a cluster follows its cores and keeps
its translated-code cache; a slice keeps its lines and empties its side buffer; a controller enters self-refresh (R308). -/
def execBlockRetentionEnter (b : PowerBlock) (s : State) : Host.Outcome State Fault Refusal :=
  completes s (
    if s.pm.phase != .running then s
    else
      match b.kind with
      | 0 =>
        let p := (coreOf s b.ix).power
        if idleLong s b && (p == .active || p == .gated) then
          modExec (modCore s b.ix (fun c => { c with power := .retention })) b.ix (fun x => { x with l1 := [], offers := [], dets := [] })
        else s
      | 1 =>
        let p := (clusterOf s b.ix).power
        let cs := (List.range 8).map (fun i => coreOf s (8 * b.ix + i))
        if clusterIdle s b.ix && (p == .active || p == .gated) && cs.all (fun c => !c.present || c.power == .retention) then
          modCluster s b.ix (fun k => { k with power := .retention })
        else s
      | 2 =>
        let p := (regionOf s b.ix).power
        if b.ix < Config.regions s.variant && idleLong s b && (p == .active || p == .gated) then
          modRegion (freeSides s b.ix (fun _ => true)) b.ix (fun r => { r with power := .retention })
        else s
      | 4 =>
        let c := ctlOf s b.ix
        if c.present && c.st == .active && c.reads.isEmpty && c.writes.isEmpty && decide (c.lastUse + 10000 ≤ s.time) then
          modCtl (setBlock s b .active) b.ix (fun c => { c with st := .retention, rows := [] })
        else s
      | _ => s)

/-- A gated or retained block becomes active. -/
def wakePower (p : BlockPower) : BlockPower := if p = .gated || p = .retention then .active else p

/-- BLOCK_WAKE (R457): a block in retention begins to wake; what waits for it waits for 2 µs at a core or cluster, 1 µs at a
slice. -/
def execBlockWake (b : PowerBlock) (s : State) : Host.Outcome State Fault Refusal :=
  completes s (
    if s.pm.phase != .running then s
    else
      match b.kind with
      | 0 => if (coreOf s b.ix).power = .off then s else modCore s b.ix (fun c =>
        { c with power := wakePower c.power, wakeAt := if c.power = .retention then s.time + 200 else c.wakeAt })
      | 1 => if (clusterOf s b.ix).power = .off then s else modCluster s b.ix (fun k =>
        { k with power := wakePower k.power, wakeAt := if k.power = .retention then s.time + 200 else k.wakeAt })
      | 2 =>
        if Config.regions s.variant ≤ b.ix then s else modRegion s b.ix (fun r =>
          { r with power := wakePower r.power, wakeAt := if r.power = .retention then s.time + 100 else r.wakeAt })
      | 4 =>
        if (ctlOf s b.ix).present then
          let s := modCtl s b.ix (fun c => wakeCtl c s.time)
          if blockPower s b = .gated then setBlock s b .active else s
        else s
      | 3 => if blockPower s b = .gated then setBlock s b .active else s
      | 5 => if blockPower s b = .gated then setBlock s b .active else s
      | _ => s)

end Sys2Proof.Machine
end

