-- ==== Sys2Proof/Machine/Twin.lean ====
section
/-! DEFINITION. The twin port (R337, R338, R487 to R495): records, acknowledgements, attaching, takeover, detaching. -/

namespace Sys2Proof.Machine

/-- Take the first message of the pair whose first byte is one of some kinds out of a twin port's inbox. -/
def takePair (s : State) (port : Nat) (kinds : List Nat) : Option (List Byte × State) :=
  match (portOf s port).inbox.find? (fun m => (m.type == 0xC || m.type == 0xD) && kinds.contains (fieldAt m.body 0 1)) with
  | some m => some (m.body, returnCredit (modPort s port (fun x => { x with inbox := x.inbox.erase m })) port m)
  | none => none

/-- The secondary holds a record and acknowledges it; one received twice is held once (R337). -/
def holdRecord (s : State) (seq : Nat) (r : Mirror) : State :=
  let known := decide (seq < s.twin.applySeq) || s.twin.store.any (fun x => x.seq == seq)
  let s := if known then s else { s with twin.store := s.twin.store ++ [{ seq := seq, time := s.time, r := r }] }
  applyMirrors (sendTwin s seq false (ackBytes seq))

/-- MIRROR_RECORD_RECEIVE (R337, R489 to R491): a record, the end of the snapshot, or the partner's notice that the pair is
DEGRADED. -/
def execMirrorRecordReceive (port : Nat) (s : State) : Host.Outcome State Fault Refusal :=
  completes s (
    match takePair s port [1, 2, 3, 4, 5, 8, 9, 10, 11] with
    | none => s
    | some (b, s) =>
      let whole := if fieldAt b 0 1 = 11 then (portOf s port).parts ++ b.drop 1 else b
      let more := if fieldAt b 0 1 = 10 then (portOf s port).parts ++ b.drop 1 else []
      let s := modPort s port (fun x => { x with parts := more })
      if fieldAt b 0 1 = 10 then s
      else
      let b := whole
      if fieldAt b 0 1 = 9 then degradeTwin s false
      else if s.twin.role != 1 || !paired s then s
      else if fieldAt b 0 1 = 8 then { s with twin.snapEnd := some (fieldAt b 1 8) }
      else
        match mirrorOf b with
        | some (seq, r) => holdRecord s seq r
        | none => s)

/-- MIRROR_ACK (R337): the record's effect is released. -/
def execMirrorAck (port : Nat) (s : State) : Host.Outcome State Fault Refusal :=
  completes s (
    match takePair s port [0] with
    | none => s
    | some (b, s) =>
      match s.twin.sent.find? (fun x => x.seq == fieldAt b 1 8) with
      | none => s
      | some x =>
        let held := holdsBack s
        let s := { s with twin.sent := s.twin.sent.filter (fun y => y.seq != x.seq) }
        if held then tryEnds (settleMail (releaseRec s x.r)) else s)

/-- MIRROR_ACK_TIMEOUT (R338): a record unacknowledged for 1 ms. -/
def execMirrorAckTimeout (s : State) : Host.Outcome State Fault Refusal :=
  completes s (if holdsBack s && s.twin.sent.any (fun x => decide (x.time + 100000 ≤ s.time)) then degradeTwin s true else s)

/-- TWIN_SYNCED (R489): the secondary has acknowledged the snapshot and every record since. -/
def execTwinSynced (s : State) : Host.Outcome State Fault Refusal :=
  completes s (
    match s.twin.st, s.twin.snapEnd with
    | .attaching, some n =>
      let done := if s.twin.role = 0 then s.twin.sent.isEmpty else decide (n ≤ s.twin.applySeq)
      if !done || !twinUp s then s
      else
        let s := raiseTwin { s with twin.st := .synced } 8
        match s.mgmt.busy with
        | some f => lateReply s f (okRep [])
        | none => s
    | _, _ => s)

/-- TWIN_ATTACH_TIMEOUT (R489): the attach has not completed within 10 s. -/
def execTwinAttachTimeout (s : State) : Host.Outcome State Fault Refusal :=
  completes s (if s.twin.st = .attaching && decide (s.twin.since + 1000000000 ≤ s.time) then failAttach (twinOff s) else s)

/-- TWIN_FAILED_RECEIVE (R492): a SYNCED secondary takes over. -/
def execTwinFailedReceive (port : Nat) (s : State) : Host.Outcome State Fault Refusal :=
  completes s (
    match takePair s port [6] with
    | none => s
    | some (_, s) => if s.twin.role = 1 && s.twin.st = .synced && !s.ras.failed then settleMail (takeover s) else s)

/-- TWIN_DETACH_NOTICE (R495): the peer detaches. -/
def execTwinDetachNotice (port : Nat) (s : State) : Host.Outcome State Fault Refusal :=
  completes s (
    match takePair s port [7] with
    | none => s
    | some (_, s) =>
      if s.twin.st = .attaching || s.twin.st = .synced || s.twin.st = .degraded then failAttach (leaveTwin s) else s)

/-! ### Messages (Table 15.10) -/

/-- TWIN_ATTACH carried out (R487, R489): the twin ports start in twin mode; the reply follows when the attach ends. -/
def hTwinAttach (s : State) (r : Req) : Done × State :=
  let role := r.f 0 1
  if 1 < role then ansBad s rBadField
  else if s.twin.st != .off || (announcedId s).isNone || (role = 1 && (!s.sched.parts.isEmpty || !s.pools.isEmpty || s.fns.any (fun e => e.2.ring.configured)))
    then ansBad s rState
  else
    (.later, twinPortsStart { s with twin := { st := .attaching, role := role, since := s.time }, mgmt.busy := some r.fn })

/-- TWIN_ATTACH (R489). -/
def execTwinAttach (s : State) : Host.Outcome State Fault Refusal := completes s (serveOp 0x0310 hTwinAttach s)

/-- TWIN_DETACH carried out (R495). -/
def hTwinDetach (s : State) (_r : Req) : Done × State :=
  if s.twin.st = .off then ansOk s []
  else ansOk (leaveTwin (if s.twin.st = .takenOver then s else tellTwin s detachBytes)) []

/-- TWIN_DETACH (R495). -/
def execTwinDetach (s : State) : Host.Outcome State Fault Refusal := completes s (serveOp 0x0311 hTwinDetach s)

/-- TWIN_TAKEOVER carried out (R492): without FORCE only while both twin ports are DEAD and the secondary was SYNCED when the
last of them became so. -/
def hTwinTakeover (s : State) (r : Req) : Done × State :=
  let second := s.twin.role = 1 && (s.twin.st == .attaching || s.twin.st == .synced || s.twin.st == .degraded)
  let dead := (Config.twinPorts s.variant).all (fun p => (portOf s p).st == .dead)
  if 1 < r.f 0 1 then ansBad s rBadField
  else if !second || s.ras.failed || (r.f 0 1 = 0 && !(dead && s.twin.deadSynced)) then ansBad s rState
  else ansOk (takeover s) []

/-- TWIN_TAKEOVER (R492). -/
def execTwinTakeover (s : State) : Host.Outcome State Fault Refusal := completes s (serveOp 0x0312 hTwinTakeover s)

end Sys2Proof.Machine
end

