-- ==== Sys2Proof/Machine/Dispatch.lean ====
section
/-! DEFINITION. The one place where a command meets its meaning: one arm per constructor of `Instr`. -/

namespace Sys2Proof.Machine

/-- The effect of a command on everything but the queue. -/
def exec (i : Instr) (s : State) : Host.Outcome State Fault Refusal :=
  match i with
  | .add iss ty r d a b => Sys2Proof.Machine.execAdd iss ty r d a b s
  | .sub iss ty r d a b => Sys2Proof.Machine.execSub iss ty r d a b s
  | .mul iss ty r d a b => Sys2Proof.Machine.execMul iss ty r d a b s
  | .fma iss r d a b c => Sys2Proof.Machine.execFma iss r d a b c s
  | .madS32 iss d a b c => Sys2Proof.Machine.execMadS32 iss d a b c s
  | .min iss ty d a b => Sys2Proof.Machine.execMin iss ty d a b s
  | .max iss ty d a b => Sys2Proof.Machine.execMax iss ty d a b s
  | .setp iss ty cmp d a b => Sys2Proof.Machine.execSetp iss ty cmp d a b s
  | .and iss d a b => Sys2Proof.Machine.execAnd iss d a b s
  | .or iss d a b => Sys2Proof.Machine.execOr iss d a b s
  | .xor iss d a b => Sys2Proof.Machine.execXor iss d a b s
  | .shl iss d a b => Sys2Proof.Machine.execShl iss d a b s
  | .shr iss ty d a b => Sys2Proof.Machine.execShr iss ty d a b s
  | .cvt iss dty sty r sat d a => Sys2Proof.Machine.execCvt iss dty sty r sat d a s
  | .mov iss d src => Sys2Proof.Machine.execMov iss d src s
  | .sel iss d a b p => Sys2Proof.Machine.execSel iss d a b p s
  | .f64Op iss op r d a b c => Sys2Proof.Machine.execF64Op iss op r d a b c s
  | .expF32 iss d a => Sys2Proof.Machine.execExpF32 iss d a s
  | .exp2F32 iss d a => Sys2Proof.Machine.execExp2F32 iss d a s
  | .log2F32 iss d a => Sys2Proof.Machine.execLog2F32 iss d a s
  | .rcpF32 iss d a => Sys2Proof.Machine.execRcpF32 iss d a s
  | .rsqF32 iss d a => Sys2Proof.Machine.execRsqF32 iss d a s
  | .sqrtF32 iss d a => Sys2Proof.Machine.execSqrtF32 iss d a s
  | .cvtBlk iss w => Sys2Proof.Machine.execCvtBlk iss w s
  | .prepassComplete region tenant record => Sys2Proof.Machine.execPrepassComplete region tenant record s
  | .ld iss q d a => Sys2Proof.Machine.execLd iss q d a s
  | .loadReturn core id => Sys2Proof.Machine.execLoadReturn core id s
  | .st iss q a b => Sys2Proof.Machine.execSt iss q a b s
  | .atom iss q d a b c => Sys2Proof.Machine.execAtom iss q d a b c s
  | .atomicPerform core id => Sys2Proof.Machine.execAtomicPerform core id s
  | .writeBufferDrain core entry => Sys2Proof.Machine.execWriteBufferDrain core entry s
  | .fenceLd iss scope => Sys2Proof.Machine.execFenceLd iss scope s
  | .fenceSt iss scope => Sys2Proof.Machine.execFenceSt iss scope s
  | .fenceFull iss scope => Sys2Proof.Machine.execFenceFull iss scope s
  | .fenceRelease core id => Sys2Proof.Machine.execFenceRelease core id s
  | .gredAdd iss ty scan part d a => Sys2Proof.Machine.execGredAdd iss ty scan part d a s
  | .gredOr iss scan part d a => Sys2Proof.Machine.execGredOr iss scan part d a s
  | .gredXor iss scan part d a => Sys2Proof.Machine.execGredXor iss scan part d a s
  | .gredAnd iss scan part d a => Sys2Proof.Machine.execGredAnd iss scan part d a s
  | .gredMin iss ty scan part d a => Sys2Proof.Machine.execGredMin iss ty scan part d a s
  | .gredMax iss ty scan part d a => Sys2Proof.Machine.execGredMax iss ty scan part d a s
  | .shfl iss part d a b => Sys2Proof.Machine.execShfl iss part d a b s
  | .tileDesc iss t u => Sys2Proof.Machine.execTileDesc iss t u s
  | .tileBase iss t u => Sys2Proof.Machine.execTileBase iss t u s
  | .tileLd iss part v n u row col => Sys2Proof.Machine.execTileLd iss part v n u row col s
  | .tileSt iss part v n u row col => Sys2Proof.Machine.execTileSt iss part v n u row col s
  | .mma iss op => Sys2Proof.Machine.execMma iss op s
  | .turnUnitReady cluster slot => Sys2Proof.Machine.execTurnUnitReady cluster slot s
  | .escalationEval core id => Sys2Proof.Machine.execEscalationEval core id s
  | .mmaDrainWrite core id => Sys2Proof.Machine.execMmaDrainWrite core id s
  | .arrayParityReexec core id row => Sys2Proof.Machine.execArrayParityReexec core id row s
  | .amaxContribution region index => Sys2Proof.Machine.execAmaxContribution region index s
  | .amaxCommit iss u => Sys2Proof.Machine.execAmaxCommit iss u s
  | .stashOpen iss stat p tag lines => Sys2Proof.Machine.execStashOpen iss stat p tag lines s
  | .stashSt iss size tag off v => Sys2Proof.Machine.execStashSt iss size tag off v s
  | .stashSeal iss tag => Sys2Proof.Machine.execStashSeal iss tag s
  | .stashLd iss size p v tag off => Sys2Proof.Machine.execStashLd iss size p v tag off s
  | .stashFree iss tag => Sys2Proof.Machine.execStashFree iss tag s
  | .epiOpen iss job p u => Sys2Proof.Machine.execEpiOpen iss job p u s
  | .epiJobComplete cluster ctx => Sys2Proof.Machine.execEpiJobComplete cluster ctx s
  | .epiWait iss job => Sys2Proof.Machine.execEpiWait iss job s
  | .benchXlat iss p d slot token => Sys2Proof.Machine.execBenchXlat iss p d slot token s
  | .traceMark iss id a => Sys2Proof.Machine.execTraceMark iss id a s
  | .bra iss p target => Sys2Proof.Machine.execBra iss p target s
  | .call iss target => Sys2Proof.Machine.execCall iss target s
  | .ret iss => Sys2Proof.Machine.execRet iss s
  | .exit iss => Sys2Proof.Machine.execExit iss s
  | .loop iss count endOff => Sys2Proof.Machine.execLoop iss count endOff s
  | .endloop iss => Sys2Proof.Machine.execEndloop iss s
  | .loopBreak iss => Sys2Proof.Machine.execLoopBreak iss s
  | .yield iss => Sys2Proof.Machine.execYield iss s
  | .groupRotate core slot => Sys2Proof.Machine.execGroupRotate core slot s
  | .barSync iss id count => Sys2Proof.Machine.execBarSync iss id count s
  | .barPost iss id d count => Sys2Proof.Machine.execBarPost iss id d count s
  | .barWait iss id a => Sys2Proof.Machine.execBarWait iss id a s
  | .brk core slot npc => Sys2Proof.Machine.execBrk core slot npc s
  | .sequencerLineBroadcast cluster => Sys2Proof.Machine.execSequencerLineBroadcast cluster s
  | .dbRing fn posted => Sys2Proof.Machine.execDbRing fn posted s
  | .dbCompl fn posted => Sys2Proof.Machine.execDbCompl fn posted s
  | .fetcherPass fn => Sys2Proof.Machine.execFetcherPass fn s
  | .ringEntryAccept fn => Sys2Proof.Machine.execRingEntryAccept fn s
  | .slotAssign queue => Sys2Proof.Machine.execSlotAssign queue s
  | .jobStart queue => Sys2Proof.Machine.execJobStart queue s
  | .graphParse queue => Sys2Proof.Machine.execGraphParse queue s
  | .jobPlace part => Sys2Proof.Machine.execJobPlace part s
  | .tenantSwitchScrub part tenant => Sys2Proof.Machine.execTenantSwitchScrub part tenant s
  | .rtJobPlace part => Sys2Proof.Machine.execRtJobPlace part s
  | .coreSaveTurn region => Sys2Proof.Machine.execCoreSaveTurn region s
  | .coreSaveComplete core => Sys2Proof.Machine.execCoreSaveComplete core s
  | .parkedResponse die tag err poison data => Sys2Proof.Machine.execParkedResponse die tag err poison data s
  | .coreRestore core => Sys2Proof.Machine.execCoreRestore core s
  | .nodeDispatch node => Sys2Proof.Machine.execNodeDispatch node s
  | .blockPlace node core => Sys2Proof.Machine.execBlockPlace node core s
  | .nodeComplete node => Sys2Proof.Machine.execNodeComplete node s
  | .consumerCountPoll queue posted => Sys2Proof.Machine.execConsumerCountPoll queue posted s
  | .logDrain queue => Sys2Proof.Machine.execLogDrain queue s
  | .shotClockExpire queue => Sys2Proof.Machine.execShotClockExpire queue s
  | .coreResetDrainEnd core => Sys2Proof.Machine.execCoreResetDrainEnd core s
  | .refereeTest queue => Sys2Proof.Machine.execRefereeTest queue s
  | .substituteStart queue => Sys2Proof.Machine.execSubstituteStart queue s
  | .deadlinePass queue => Sys2Proof.Machine.execDeadlinePass queue s
  | .rangeOpStart die => Sys2Proof.Machine.execRangeOpStart die s
  | .rangeOpComplete die => Sys2Proof.Machine.execRangeOpComplete die s
  | .copyStart die => Sys2Proof.Machine.execCopyStart die s
  | .copyComplete die => Sys2Proof.Machine.execCopyComplete die s
  | .benchStepApply part => Sys2Proof.Machine.execBenchStepApply part s
  | .sliceFill pa => Sys2Proof.Machine.execSliceFill pa s
  | .prefetchFill pa => Sys2Proof.Machine.execPrefetchFill pa s
  | .sideEntryExpire region pa => Sys2Proof.Machine.execSideEntryExpire region pa s
  | .evictionOffer core => Sys2Proof.Machine.execEvictionOffer core s
  | .residencyTick => Sys2Proof.Machine.execResidencyTick s
  | .mcRunRead ctl id ecc => Sys2Proof.Machine.execMcRunRead ctl id ecc s
  | .mcRunWrite ctl count ecc => Sys2Proof.Machine.execMcRunWrite ctl count ecc s
  | .dramRefresh ctl pc => Sys2Proof.Machine.execDramRefresh ctl pc s
  | .regulatorRefill => Sys2Proof.Machine.execRegulatorRefill s
  | .memoryWindowBoundary => Sys2Proof.Machine.execMemoryWindowBoundary s
  | .patrolRead ctl ecc => Sys2Proof.Machine.execPatrolRead ctl ecc s
  | .mcRetentionEnter ctl => Sys2Proof.Machine.execMcRetentionEnter ctl s
  | .correctedError site res => Sys2Proof.Machine.execCorrectedError site res s
  | .bucketLeak res => Sys2Proof.Machine.execBucketLeak res s
  | .uncorrectedError site res => Sys2Proof.Machine.execUncorrectedError site res s
  | .fatalError res => Sys2Proof.Machine.execFatalError res s
  | .d2dFlitReceive link seq ack body crc => Sys2Proof.Machine.execD2dFlitReceive link seq ack body crc s
  | .d2dRetrainFail link => Sys2Proof.Machine.execD2dRetrainFail link s
  | .portDetectDone port lanes => Sys2Proof.Machine.execPortDetectDone port lanes s
  | .portDetectTimeout port => Sys2Proof.Machine.execPortDetectTimeout port s
  | .portTrainDone port failed => Sys2Proof.Machine.execPortTrainDone port failed s
  | .portAlignDone port => Sys2Proof.Machine.execPortAlignDone port s
  | .portExchangeDone port peer peerPort peerTwin credit => Sys2Proof.Machine.execPortExchangeDone port peer peerPort peerTwin credit s
  | .portRetrainEnter port => Sys2Proof.Machine.execPortRetrainEnter port s
  | .portRetrainTimeout port => Sys2Proof.Machine.execPortRetrainTimeout port s
  | .flitReceive port seq ack kind rest fec msgs credits => Sys2Proof.Machine.execFlitReceive port seq ack kind rest fec msgs credits s
  | .replayRequestReceive port seq => Sys2Proof.Machine.execReplayRequestReceive port seq s
  | .remoteRequestReceive port => Sys2Proof.Machine.execRemoteRequestReceive port s
  | .remoteResponseReceive port die => Sys2Proof.Machine.execRemoteResponseReceive port die s
  | .remoteTimeout die tag => Sys2Proof.Machine.execRemoteTimeout die tag s
  | .routeTableApply => Sys2Proof.Machine.execRouteTableApply s
  | .mirrorRecordReceive port => Sys2Proof.Machine.execMirrorRecordReceive port s
  | .mirrorAck port => Sys2Proof.Machine.execMirrorAck port s
  | .mirrorAckTimeout => Sys2Proof.Machine.execMirrorAckTimeout s
  | .twinSynced => Sys2Proof.Machine.execTwinSynced s
  | .twinAttachTimeout => Sys2Proof.Machine.execTwinAttachTimeout s
  | .twinFailedReceive port => Sys2Proof.Machine.execTwinFailedReceive port s
  | .mbSubmit fn msg posted => Sys2Proof.Machine.execMbSubmit fn msg posted s
  | .mbRespAck fn => Sys2Proof.Machine.execMbRespAck fn s
  | .mbResync fn => Sys2Proof.Machine.execMbResync fn s
  | .mgmtFailover => Sys2Proof.Machine.execMgmtFailover s
  | .queryCaps => Sys2Proof.Machine.execQueryCaps s
  | .sync => Sys2Proof.Machine.execSync s
  | .replayGet => Sys2Proof.Machine.execReplayGet s
  | .fwStatus => Sys2Proof.Machine.execFwStatus s
  | .ringConfig => Sys2Proof.Machine.execRingConfig s
  | .queueCreate => Sys2Proof.Machine.execQueueCreate s
  | .queueConfig => Sys2Proof.Machine.execQueueConfig s
  | .queueDestroy => Sys2Proof.Machine.execQueueDestroy s
  | .queueResume => Sys2Proof.Machine.execQueueResume s
  | .remapDone => Sys2Proof.Machine.execRemapDone s
  | .flagWrite => Sys2Proof.Machine.execFlagWrite s
  | .flagRead => Sys2Proof.Machine.execFlagRead s
  | .codeLoad => Sys2Proof.Machine.execCodeLoad s
  | .codeUnload => Sys2Proof.Machine.execCodeUnload s
  | .codeUnloadEffect image => Sys2Proof.Machine.execCodeUnloadEffect image s
  | .setPrecisionPolicy => Sys2Proof.Machine.execSetPrecisionPolicy s
  | .vtensorRegister => Sys2Proof.Machine.execVtensorRegister s
  | .vtensorUnregister => Sys2Proof.Machine.execVtensorUnregister s
  | .benchPoolCreate => Sys2Proof.Machine.execBenchPoolCreate s
  | .benchPoolDestroy => Sys2Proof.Machine.execBenchPoolDestroy s
  | .benchSeqQuery => Sys2Proof.Machine.execBenchSeqQuery s
  | .mapDevice => Sys2Proof.Machine.execMapDevice s
  | .mapHost => Sys2Proof.Machine.execMapHost s
  | .mapRemote => Sys2Proof.Machine.execMapRemote s
  | .memUnmap => Sys2Proof.Machine.execMemUnmap s
  | .mapQuery => Sys2Proof.Machine.execMapQuery s
  | .partitionCreate => Sys2Proof.Machine.execPartitionCreate s
  | .partitionDestroy => Sys2Proof.Machine.execPartitionDestroy s
  | .tenantBind => Sys2Proof.Machine.execTenantBind s
  | .tenantUnbind => Sys2Proof.Machine.execTenantUnbind s
  | .qosSet => Sys2Proof.Machine.execQosSet s
  | .rtReserveSet => Sys2Proof.Machine.execRtReserveSet s
  | .flagGrant => Sys2Proof.Machine.execFlagGrant s
  | .memScrubConfig => Sys2Proof.Machine.execMemScrubConfig s
  | .setStashReserve => Sys2Proof.Machine.execSetStashReserve s
  | .isolationSet => Sys2Proof.Machine.execIsolationSet s
  | .linkConfig => Sys2Proof.Machine.execLinkConfig s
  | .linkRetrain => Sys2Proof.Machine.execLinkRetrain s
  | .linkRouteSet => Sys2Proof.Machine.execLinkRouteSet s
  | .linkExportSet => Sys2Proof.Machine.execLinkExportSet s
  | .linkTimeoutSet => Sys2Proof.Machine.execLinkTimeoutSet s
  | .twinAttach => Sys2Proof.Machine.execTwinAttach s
  | .twinDetach => Sys2Proof.Machine.execTwinDetach s
  | .twinTakeover => Sys2Proof.Machine.execTwinTakeover s
  | .faultListRead => Sys2Proof.Machine.execFaultListRead s
  | .faultListEdit => Sys2Proof.Machine.execFaultListEdit s
  | .keyChange => Sys2Proof.Machine.execKeyChange s
  | .fwUpdate => Sys2Proof.Machine.execFwUpdate s
  | .debugUnlock => Sys2Proof.Machine.execDebugUnlock s
  | .debugLock => Sys2Proof.Machine.execDebugLock s
  | .whistle => Sys2Proof.Machine.execWhistle s
  | .getVersion => Sys2Proof.Machine.execGetVersion s
  | .getCapabilities => Sys2Proof.Machine.execGetCapabilities s
  | .negotiateAlgorithms => Sys2Proof.Machine.execNegotiateAlgorithms s
  | .getDigests => Sys2Proof.Machine.execGetDigests s
  | .getCertificate => Sys2Proof.Machine.execGetCertificate s
  | .challenge => Sys2Proof.Machine.execChallenge s
  | .getMeasurements => Sys2Proof.Machine.execGetMeasurements s
  | .fePasidWrite fn value => Sys2Proof.Machine.execFePasidWrite fn value s
  | .eventRingEnable fn value => Sys2Proof.Machine.execEventRingEnable fn value s
  | .eventRingConsWrite fn value => Sys2Proof.Machine.execEventRingConsWrite fn value s
  | .msixUnmask fn vec => Sys2Proof.Machine.execMsixUnmask fn vec s
  | .counterSnap fn block => Sys2Proof.Machine.execCounterSnap fn block s
  | .counterClear fn block => Sys2Proof.Machine.execCounterClear fn block s
  | .counterOverflow block n => Sys2Proof.Machine.execCounterOverflow block n s
  | .whistlePinEdge => Sys2Proof.Machine.execWhistlePinEdge s
  | .whistleDriveEnd => Sys2Proof.Machine.execWhistleDriveEnd s
  | .whistleRelease fn => Sys2Proof.Machine.execWhistleRelease fn s
  | .breakArm fn unit value => Sys2Proof.Machine.execBreakArm fn unit value s
  | .accessPortGo fn value => Sys2Proof.Machine.execAccessPortGo fn value s
  | .traceDropEmit source => Sys2Proof.Machine.execTraceDropEmit source s
  | .registerWrite fn addr size value => Sys2Proof.Machine.execRegisterWrite fn addr size value s
  | .configRequest fn reg write => Sys2Proof.Machine.execConfigRequest fn reg write s
  | .vfDisable => Sys2Proof.Machine.execVfDisable s
  | .d3hotEnter => Sys2Proof.Machine.execD3hotEnter s
  | .atsTranslationComplete fn pasid page host r w => Sys2Proof.Machine.execAtsTranslationComplete fn pasid page host r w s
  | .atsInvalidateRequest fn pasid page pages => Sys2Proof.Machine.execAtsInvalidateRequest fn pasid page pages s
  | .prgResponse fn pasid page code => Sys2Proof.Machine.execPrgResponse fn pasid page code s
  | .hostReadComplete die tag ok poison => Sys2Proof.Machine.execHostReadComplete die tag ok poison s
  | .hostCompletionTimeout die tag => Sys2Proof.Machine.execHostCompletionTimeout die tag s
  | .functionLevelReset fn => Sys2Proof.Machine.execFunctionLevelReset fn s
  | .powerGood boot => Sys2Proof.Machine.execPowerGood boot s
  | .inputUndervoltage => Sys2Proof.Machine.execInputUndervoltage s
  | .refclkLoss => Sys2Proof.Machine.execRefclkLoss s
  | .mrstNAssert => Sys2Proof.Machine.execMrstNAssert s
  | .perstAssert => Sys2Proof.Machine.execPerstAssert s
  | .pcieHotReset => Sys2Proof.Machine.execPcieHotReset s
  | .warmFlushTimeout left => Sys2Proof.Machine.execWarmFlushTimeout left s
  | .warmResetRelease boot => Sys2Proof.Machine.execWarmResetRelease boot s
  | .thermalStepCoarser b temp => Sys2Proof.Machine.execThermalStepCoarser b temp s
  | .thermalStepFiner b temp => Sys2Proof.Machine.execThermalStepFiner b temp s
  | .thermalTrip => Sys2Proof.Machine.execThermalTrip s
  | .thermalTripRecover => Sys2Proof.Machine.execThermalTripRecover s
  | .limiterTrip => Sys2Proof.Machine.execLimiterTrip s
  | .limiterRelease => Sys2Proof.Machine.execLimiterRelease s
  | .leakDetect => Sys2Proof.Machine.execLeakDetect s
  | .blockClockGate b => Sys2Proof.Machine.execBlockClockGate b s
  | .blockRetentionEnter b => Sys2Proof.Machine.execBlockRetentionEnter b s
  | .blockWake b => Sys2Proof.Machine.execBlockWake b s
  | .d2dRetrainDone link => Sys2Proof.Machine.execD2dRetrainDone link s
  | .tracePortUpChange up => Sys2Proof.Machine.execTracePortUpChange up s
  | .mctpMessageReceive type msg => Sys2Proof.Machine.execMctpMessageReceive type msg s
  | .i3cEntdaa addr => Sys2Proof.Machine.execI3cEntdaa addr s
  | .perstRelease => Sys2Proof.Machine.execPerstRelease s
  | .stackTemperatureReadout stack temp => Sys2Proof.Machine.execStackTemperatureReadout stack temp s
  | .twinDetachNotice port => Sys2Proof.Machine.execTwinDetachNotice port s

end Sys2Proof.Machine
end

