-- ==== Sys2Proof/Machine/RegRead.lean ====
section
/-! DEFINITION. What every register of the BAR0 window reads as (R12, R14, R528, R541): the groups of Table 19.8. No command of
the table reads a register; these are the values that a read completes with. A register stands at its offset with its width in
bytes. -/

namespace Sys2Proof.Machine

/-- A register that a window holds: its width in bytes and its value. -/
abbrev RegVal := Option (Nat × Nat)

/-- A 32-bit and a 64-bit register. -/
def r32 (v : Nat) : RegVal := some (4, v % 2 ^ 32)
def r64 (v : Nat) : RegVal := some (8, v % 2 ^ 64)

/-- A counter of a function. -/
def cntReg (x : Fn) (addr : Nat) : RegVal := r64 (alGet 0 x.cnt addr)

/-- Counters at consecutive offsets. -/
def cntIn (x : Fn) (lo hi addr : Nat) : RegVal :=
  if lo ≤ addr && decide (addr ≤ hi) && addr % 8 = 0 then cntReg x addr else none

/-! ### CAP_ (R520, R543) -/

/-- CAP_DBG (Table 18.13): counters per block, break units, and the trace port's lanes and rate. -/
def capDbg (s : State) : Nat :=
  let trace := bit s.units 4
  8 * 2 ^ 28 + 16 * 2 ^ 23 + 8 * 2 ^ 19 + 8 * 2 ^ 15 + 4 * 2 ^ 12 + (if trace then 8 else 0) * 2 ^ 8 + (if trace then 32 else 0)

def capReg (s : State) (fn addr : Nat) : RegVal :=
  if addr < 0x40 then r32 ((capWords s fn).getD (addr / 4) 0)
  else if addr = 0x40 then r32 (capDbg s)
  else if 0x2000 ≤ addr && decide (addr < 0x3800) then r32 (capCore (coreOf s ((addr - 0x2000) / 4)))
  else none

/-! ### FE_, GS_ and QOS_ (R381, R410, R427, R529) -/

/-- FE_RING_STATE (Table 12.14). -/
def feRingState (r : Ring) : Nat :=
  b2n r.configured * 2 ^ 31 + b2n r.awake * 2 ^ 30 + b2n r.pend * 2 ^ 29 + b2n r.overrun * 2 ^ 28 + r.sizeLog2 % 32

def feReg (x : Fn) (addr : Nat) : RegVal :=
  if addr = 0x10000 then r32 (feRingState x.ring)
  else if addr = 0x10004 then r32 x.ring.head
  else if addr = 0x10010 then r64 (alGet 0 x.last gFE)
  else if addr = 0x10018 then r32 x.pasid
  else cntIn x 0x20100 0x20158 addr

/-- QOS_STATUS (Table 13.8). -/
def qosStatus (s : State) (tenant : Nat) : Nat :=
  match alFind s.sched.tenants tenant with
  | none => 0
  | some t =>
    2 ^ 31 + t.part % 64 * 2 ^ 25 + b2n (((alFind s.sched.parts t.part).map (·.dedicated)).getD false) * 2 ^ 24 +
    b2n t.overQuota * 2 ^ 23 + t.coresMax % 2 ^ 11 * 2 ^ 12

/-- QOS_RESERVE (Table 13.9). -/
def qosReserve (s : State) : Nat := b2n s.sched.strict * 2 ^ 31 + s.sched.n % 64 * 2 ^ 25 + s.sched.r % 32 * 2 ^ 20

def qosReg (s : State) (fn addr : Nat) : RegVal :=
  let x := fnOf s fn
  if addr = 0x30000 then r32 (qosStatus s fn)
  else if addr = 0x30004 then r32 (qosReserve s)
  else if addr = 0x30010 then r64 (alGet 0 x.last gQOS)
  else cntIn x 0x30100 0x30130 addr

/-! ### CC_ (R272, R276) -/

/-- Range operations of a tenant that are queued or running in any engine. -/
def rangesOf (s : State) (tenant : Nat) : Nat :=
  (s.dies.map (fun d => (d.2.ranges.filter (fun r => r.tenant == tenant)).length)).foldl (· + ·) 0

/-- CC_MAINT (Table 9.12). -/
def ccMaint (s : State) (tenant : Nat) : Nat := rangesOf s tenant % 256 * 2 ^ 8 + b2n (rangesOf s tenant != 0)

/-- CC_QUOTA (Table 9.13). -/
def ccQuota (s : State) (tenant : Nat) : Nat :=
  match alFind s.sched.tenants tenant with
  | none => 0
  | some t =>
    match alFind s.sched.parts t.part with
    | none => 0
    | some p =>
      b2n p.ways * 2 ^ 31 + t.part % 64 * 2 ^ 25 + (if p.ways then (wayList p.mask).length else 0) * 2 ^ 20 + p.keep % 32 * 2 ^ 15 +
      p.stashMib % 32 * 2 ^ 10

/-- CC_MAINT_DIEd (Table 9.14). -/
def ccMaintDie (s : State) (d : Nat) : Nat :=
  let n := (dieOf s d).ranges.length
  n % 32 * 2 ^ 8 + b2n (n != 0)

def ccReg (s : State) (fn addr : Nat) : RegVal :=
  if addr = 0x40000 then r32 (ccMaint s fn)
  else if addr = 0x40004 then r32 (ccQuota s fn)
  else if 0x40040 ≤ addr && decide (addr < 0x40060) then (if fn = pf then r32 (ccMaintDie s ((addr - 0x40040) / 4)) else none)
  else cntIn (fnOf s fn) 0x40100 0x40158 addr

/-! ### MEM_ (R311) -/

/-- MEM_CTRLh (Table 10.13). -/
def memCtrl (s : State) (h : Nat) : Nat :=
  let c := ctlOf s h
  let mine := s.mem.retired.filter (fun e => e.2.ctl == h)
  if !c.present then 0
  else
    2 ^ 31 + (match c.st with | .active => 0 | .retention => 1 | .training => 2) * 2 ^ 29 + c.spares % 16 * 2 ^ 24 +
    (c.erased.map (fun e => e.2.length)).foldl (· + ·) 0 % 16 * 2 ^ 20 +
    (mine.filter (fun e => !e.2.pending)).length % 1024 * 2 ^ 10 + (mine.filter (fun e => e.2.pending)).length % 1024

def memReg (s : State) (fn addr : Nat) : RegVal :=
  let x := fnOf s fn
  if addr = 0x50010 then r64 (alGet (0xFF * 2 ^ 16) x.last gMEM)
  else if 0x50100 ≤ addr && decide (addr < 0x50200) then (if fn = pf then r32 (memCtrl s ((addr - 0x50100) / 4)) else none)
  else if addr = 0x50238 && fn != pf then r64 0
  else cntIn x 0x50200 0x50238 addr

/-! ### SV_ (R124) -/

/-- SV_CAP (Table 4.6): the largest HIST_LEN, outlier lanes per record, policies per tenant, revision of the interface. -/
def svCap : Nat := 16 * 2 ^ 16 + 8 * 2 ^ 12 + 8 * 2 ^ 8 + 1

def svReg (x : Fn) (addr : Nat) : RegVal :=
  if addr = 0x60000 then r32 svCap
  else if addr = 0x60010 then r64 (alGet 0 x.last gSV)
  else if 0x60040 ≤ addr && decide (addr < 0x60080) && addr % 8 = 0 then r64 (x.policies.getD ((addr - 0x60040) / 8) 0)
  else cntIn x 0x60100 0x60150 addr

/-! ### LNK_ (R340, R497) -/

/-- LNK_SELF (Table 11.13). -/
def lnkSelf (s : State) : Nat :=
  (match s.selfId with | some i => 2 ^ 24 + i % 256 * 2 ^ 16 | none => 0) + b2n (s.twin.st != .off) * 2 ^ 15 +
  (s.links.ports.filter (fun e => e.2.st == .up)).length % 64

/-- Code of a port's state (Table 11.7). -/
def PortState.code : PortState → Nat
  | .down => 0 | .detect => 1 | .train => 2 | .align => 3 | .exchange => 4 | .up => 5 | .retrain => 6 | .dead => 7

/-- LNK_PORTn (Table 11.16). -/
def lnkPort (s : State) (n : Nat) : Nat :=
  let x := portOf s n
  if !Config.portBonded s.variant n then 0
  else
    2 ^ 31 + x.st.code * 2 ^ 28 + b2n x.twin * 2 ^ 27 + x.width / 4 % 4 * 2 ^ 25 + b2n x.spareUsed * 2 ^ 24 + x.peer % 256 * 2 ^ 16 +
    x.peerPort % 64 * 2 ^ 10 + b2n x.margin * 2 ^ 9 + min x.retrains 511

/-- Code of a twin state, and LNK_TWIN (Table 17.12). -/
def TwinState.code : TwinState → Nat
  | .off => 0 | .attaching => 1 | .synced => 2 | .degraded => 3 | .takenOver => 4

def lnkTwin (t : Twin) : Nat :=
  t.st.code * 2 ^ 29 + t.role % 2 * 2 ^ 28 + t.peer % 256 * 2 ^ 20 + min t.sent.length (2 ^ 20 - 1)

def lnkReg (s : State) (fn addr : Nat) : RegVal :=
  let x := fnOf s fn
  if addr = 0x70018 then (if fn = pf || fn = serviceFn then r32 (lnkTwin s.twin) else none)
  else if fn = serviceFn then none
  else if addr = 0x70000 then r32 (lnkSelf s)
  else if addr = 0x70010 then r64 (alGet 0 x.last gLNK)
  else if 0x70100 ≤ addr && decide (addr < 0x701A0) then (if fn = pf then r32 (lnkPort s ((addr - 0x70100) / 4)) else none)
  else if 0x70200 ≤ addr && decide (addr < 0x70240) then
    (if fn = pf then r32 (((alFind s.links.d2d ((addr - 0x70200) / 4)).map lnkD2d).getD 0) else none)
  else cntIn x 0x70300 0x70328 addr

/-! ### MB_ (R446, R542) -/

/-- MB_STATUS (Table 15.13). -/
def mbStatus (s : State) (fn : Nat) : Nat :=
  let m := mboxOf s fn
  b2n s.mgmt.standby * 8 + b2n m.exec * 4 + b2n m.respValid * 2 + b2n m.reqPending

/-- MB_KEYS (Table 15.16). -/
def mbKeys (s : State) : Nat :=
  let has (k : Nat) : Bool := (keySlot s k).key.isSome
  let mask (p : Nat → Bool) : Nat := ((List.range 8).map (fun k => b2n (p k) * 2 ^ k)).foldl (· + ·) 0
  b2n (has 0) * 2 ^ 24 + mask (fun k => (keySlot s k).locked) * 2 ^ 16 + mask has

/-- MB_EVR_CTL (Table 19.9). -/
def evrCtl (e : EvRing) : Nat := b2n e.en * 2 ^ 31 + b2n e.armed * 2 ^ 30 + e.sizeLog2 % 32

def mbReg (s : State) (fn addr : Nat) : RegVal :=
  let e := (fnOf s fn).evr
  match addr with
  | 0x80000 => r32 (mbStatus s fn)
  | 0x80004 => r32 0
  | 0x80010 => r32 (mboxOf s fn).l
  | 0x80014 => r32 (mboxOf s fn).d
  | 0x80018 => if fn = pf || fn = serviceFn then r32 (mbKeys s) else none
  | 0x80100 => r64 e.base
  | 0x80108 => r32 (evrCtl e)
  | 0x8010C => r32 e.prod
  | 0x80110 => r32 e.cons
  | 0x80118 => r64 e.drop
  | _ => none

/-! ### PM_ (R472, R496) -/

/-- Die of a stepping block, by its kind and number. -/
def blockDie (k : Nat) : Nat :=
  let ix := k % 65536
  match k / 65536 with
  | 0 => ix / 192
  | 1 => ix / 24
  | 2 => ix / 4
  | 3 => ix
  | _ => ix / 8

/-- A block of a die is stepped by temperature. -/
def dieThermal (s : State) (d : Nat) : Bool := s.pm.rungs.any (fun e => blockDie e.1 == d && e.2 != 0)

/-- Coarsest rung among the blocks of some kinds of a die. -/
def coarsest (s : State) (d last : Nat) (kinds : List Nat) : Nat :=
  let own := (s.pm.rungs.filter (fun e => blockDie e.1 == d && kinds.contains (e.1 / 65536))).map (·.2)
  min last (own.foldl max 0 + b2n s.pm.drop)

/-- PM_STATE (Table 16.10). -/
def pmState (s : State) : Nat :=
  b2n s.pm.ready * 2 ^ 31 + b2n s.pm.drop * 2 ^ 30 + b2n s.pm.wflush * 2 ^ 29 + b2n s.sched.strict * 2 ^ 28 +
  ((List.range 8).map (fun d => b2n (dieThermal s d) * 2 ^ (8 + d))).foldl (· + ·) 0

/-- PM_RESET_CAUSE (Table 16.11). -/
def pmResetCause (s : State) : Nat :=
  s.pm.cause % 16 * 2 ^ 28 + b2n s.pm.warm * 2 ^ 27 + b2n s.pm.flushed * 2 ^ 26 + s.pm.lost % 2 ^ 24

/-- PM_DIEd (Table 16.13). -/
def pmDie (s : State) (d : Nat) : Nat :=
  if Config.dies s.variant ≤ d then 0
  else
    let temp := ((s.pm.temps.filter (fun e => blockDie e.1 == d)).map (·.2)).foldl max 0
    2 ^ 31 + coreDiv s.sched.strict (coarsest s d (if s.sched.strict then 1 else 2) [0, 1]) * 2 ^ 27 +
    fabricDiv (coarsest s d 2 [2, 3]) * 2 ^ 23 + memDiv (coarsest s d 1 [4]) * 2 ^ 19 + b2n (dieThermal s d) * 2 ^ 18 + temp % 256 * 2 ^ 10

/-- PM_RAS_STATE (Table 17.11): the list and the fenced cores stand outside the virtual functions only. -/
def pmRasState (s : State) (fn : Nat) : Nat :=
  let own := fn = pf || fn = serviceFn
  b2n s.ras.failed * 2 ^ 31 + (if own then s.mgmt.faults.length % 2 ^ 18 * 2 ^ 11 + s.ras.fenced % 2 ^ 11 else 0)

def pmReg (s : State) (fn addr : Nat) : RegVal :=
  let x := fnOf s fn
  let vf := fn != pf && fn != serviceFn
  match addr with
  | 0x90000 => r32 (pmState s)
  | 0x90004 => r32 (pmResetCause s)
  | 0x90010 => r64 s.time
  | 0x90028 => r64 (alGet 0 x.last gRAS)
  | 0x90030 => r32 (pmRasState s fn)
  | _ =>
    if 0x90040 ≤ addr && decide (addr < 0x90060) then (if fn = pf then r32 (pmDie s ((addr - 0x90040) / 4)) else none)
    else if fn = serviceFn && addr < 0x90120 then none
    else if vf && s.sched.strict && decide (0x90100 ≤ addr) && decide (addr < 0x90118) && addr % 8 = 0 then r64 0
    else (cntIn x 0x90100 0x90118 addr).orElse (fun _ => cntIn x 0x90120 0x90130 addr)

/-! ### DBG_ (R498, R514, R521) -/

/-- A register of a counter block (Table 18.2); a counter that the block lacks reads 0. -/
def blkReg (s : State) (k off : Nat) : RegVal :=
  let b := ctrOf s k
  let n := blkCounters k
  let has (i v : Nat) : Nat := if i < n then v else 0
  if !blkExists s k then r32 0
  else if off = 0 then r32 (b2n b.snapTrace * 4)
  else if off = 4 then r32 (b.ovf % 2 ^ 16 * 2 ^ 16 + b2n b.frozen * 2 ^ 15 + b.snapCause % 4 * 2 ^ 13)
  else if off = 8 then r64 b.freezeStamp
  else if off = 0x10 then r64 b.snapTag
  else if off = 0x18 then r64 b.snapStamp
  else if 0x20 ≤ off && decide (off < 0x60) then r32 (has ((off - 0x20) / 4) (alGet 0 b.evsel ((off - 0x20) / 4)))
  else if off = 0x60 then r64 b.aux0
  else if off = 0x68 then r64 b.aux1
  else if off = 0x70 then r64 b.resumeStamp
  else if 0x80 ≤ off && decide (off < 0x100) && off % 8 = 0 then r64 (has ((off - 0x80) / 8) (alGet 0 b.count ((off - 0x80) / 8)))
  else if 0x100 ≤ off && decide (off < 0x180) && off % 8 = 0 then r64 (has ((off - 0x100) / 8) (alGet 0 b.snap ((off - 0x100) / 8)))
  else none

/-- DBG_STATE (Table 18.15). -/
def dbgState (s : State) : Nat :=
  s.dbg.level % 4 * 2 ^ 30 +
  (if s.dbg.level = 0 then 0 else match s.dbg.scope with | none => 2 ^ 29 | some t => t % 2 ^ 10 * 2 ^ 16)

/-- DBG_WHISTLE_CTL (Table 18.19). -/
def whistleCtl (d : Dbg) : Nat :=
  b2n d.action * 2 ^ 31 + b2n d.drive * 2 ^ 30 + b2n d.pinEn * 2 ^ 29 + b2n d.ovfEn * 2 ^ 28 + b2n d.irqEn * 2 ^ 27

/-- DBG_BREAKn_CTL (Table 18.22). -/
def breakCtl (b : BreakUnit) : Nat := b2n b.en * 2 ^ 31 + b.mode % 2 * 2 ^ 30 + b2n b.fired * 2 ^ 29 + b.queue % 2 ^ 12

/-- DBG_TRACE_STATUS (Table 18.23). -/
def traceStatus (s : State) : Nat :=
  b2n s.dbg.portUp * 2 ^ 31 + b2n (bit s.dbg.traceCtl 31 && !(s.dbg.raised && bit s.dbg.traceCtl 30)) * 2 ^ 30 +
  min s.dbg.portFifo.length 0xFFFF

/-- A register of the DBG_ group outside the counter blocks: a virtual function within the scope holds DBG_STATE,
DBG_WHISTLE_STATUS, the break units and, at level 2, the access port (R514). -/
def dbgReg (s : State) (fn off : Nat) : RegVal :=
  let me := fn = pf
  let vf := decide (fn < serviceFn) && inScope s fn
  let port := me || (vf && decide (2 ≤ s.dbg.level))
  let brk (n : Nat) : BreakUnit := alGet {} s.dbg.breaks n
  if off = 0 then r32 (dbgState s)
  else if off = 4 then (if me then r32 (whistleCtl s.dbg) else none)
  else if off = 8 then r32 (whistleStatus s)
  else if off = 0xC then r32 0
  else if off = 0x10 then (if me then r64 s.dbg.stamp else none)
  else if off = 0x18 then (if me then r64 s.dbg.brkHit else none)
  else if off = 0x20 then (if me then r32 s.dbg.brkLys else none)
  else if off = 0x28 then (if me then r64 s.dbg.breakHit else none)
  else if 0x40 ≤ off && decide (off < 0xC0) then
    let n := (off - 0x40) / 32
    if !me && !vf then none
    else if off % 32 = 0 then r32 (breakCtl (brk n))
    else if off % 32 = 8 then r64 (brk n).val
    else if off % 32 = 16 then r64 (brk n).mask
    else none
  else if 0x100 ≤ off && decide (off < 0x118) && !s.units.testBit 4 then
    (if !me then none else if off = 0x100 || off = 0x104 then r32 0 else if off = 0x108 || off = 0x110 then r64 0 else none)
  else if off = 0x100 then (if me then r32 s.dbg.traceCtl else none)
  else if off = 0x104 then (if me then r32 (traceStatus s) else none)
  else if off = 0x108 then (if me then r64 s.dbg.traceSent else none)
  else if off = 0x110 then (if me then r64 s.dbg.traceDrop else none)
  else if !port then none
  else if off = 0x140 then r32 (alGet 0 s.dbg.accCtl fn)
  else if off = 0x148 then r64 (alGet 0 s.dbg.accAddr fn)
  else if off = 0x150 then r64 (alGet 0 s.dbg.accData fn)
  else if off = 0x158 then r64 (alGet 0 s.dbg.accImage fn)
  else none

/-! ### The window (R14, R528, R541) -/

/-- A word of the MSI-X table, and of the pending bits from 0x003F_8000 on (R535). -/
def msixReg (s : State) (fn addr : Nat) : RegVal :=
  let x := fnOf s fn
  if addr < 0x3F8000 then
    let vec := (addr - 0x3F0000) / 16
    let e := alGet {} x.vecs vec
    if vectorsOf fn ≤ vec then none
    else
      match addr / 4 % 4 with
      | 0 => r32 e.addr.toNat
      | 1 => r32 (e.addr.toNat / 2 ^ 32)
      | 2 => r32 e.data.toNat
      | _ => r32 (b2n e.masked)
  else if addr < 0x3F8100 then
    r32 (((List.range 32).map (fun k => b2n (alGet {} x.vecs ((addr - 0x3F8000) * 8 + k)).pend * 2 ^ k)).foldl (· + ·) 0)
  else none

/-- The register that begins at an offset of a function's window; none where the window holds none. -/
def regAt (s : State) (fn addr : Nat) : RegVal :=
  let own := decide (fn ≠ serviceFn)
  match eventReg addr with
  | some (g, en) =>
    if fn = serviceFn && g < 6 then none else r32 (alGet 0 (if en then (fnOf s fn).en else (fnOf s fn).ev) g)
  | none =>
    if addr < 0x4000 then capReg s fn addr
    else if 0x80000 ≤ addr && decide (addr < 0x90000) then mbReg s fn addr
    else if 0x90000 ≤ addr && decide (addr < 0xA0000) then pmReg s fn addr
    else if 0x70000 ≤ addr && decide (addr < 0x80000) then lnkReg s fn addr
    else if 0x3F0000 ≤ addr then msixReg s fn addr
    else if !own then none
    else if addr < 0x30000 then feReg (fnOf s fn) addr
    else if addr < 0x40000 then qosReg s fn addr
    else if addr < 0x50000 then ccReg s fn addr
    else if addr < 0x60000 then memReg s fn addr
    else if addr < 0x70000 then svReg (fnOf s fn) addr
    else
      match blockAt addr with
      | some (k, off) => if (blkReaders s k).contains fn then blkReg s k off else none
      | none => if 0x180000 ≤ addr && decide (addr < 0x180160) then dbgReg s fn (addr - 0x180000) else none

/-- A 4-byte read: a register, or one half of a 64-bit register; any other offset reads 0 (R14). -/
def readWord (s : State) (fn addr : Nat) : Nat :=
  match regAt s fn addr with
  | some (_, v) => v % 2 ^ 32
  | none =>
    match (if addr % 8 = 4 then regAt s fn (addr - 4) else none) with
    | some (8, v) => v / 2 ^ 32 % 2 ^ 32
    | _ => 0

/-- A read of BAR0 (R528): naturally aligned, of 4 or 8 bytes; any other reads 0. -/
def readReg (s : State) (fn addr size : Nat) : Nat :=
  if 2 ^ 22 ≤ addr then 0
  else if size = 4 && addr % 4 = 0 then readWord s fn addr
  else if size = 8 && addr % 8 = 0 then readWord s fn addr + 2 ^ 32 * readWord s fn (addr + 4)
  else 0

/-- What a read of a function's doorbell page, at the start of its BAR2, returns: 0 at every offset (R344). -/
def readDoorbell (_s : State) (_fn _addr _size : Nat) : Nat := 0

end Sys2Proof.Machine
end

