-- ==== Sys2Proof/Safety.lean ====
section
/-! DEFINITION. The terms in which statements speak of the machine: when an instruction issues, what a path sees
afterwards, memory's canonical form, and what an event leaves alone. -/

namespace Sys2Proof.Machine

/-! ### Memory -/

/-- A memory is in its canonical form: addresses strictly rising, no listed byte equal to what an unlisted one reads. -/
abbrev Memory.wf (m : List Host.Cell) : Prop := cellsWf m = true

/-- Device memory and host memory are canonical. -/
def State.memOk (s : State) : Prop := Memory.wf s.mem.mem ∧ Memory.wf s.host.mem

/-- A byte of stacked memory. -/
def memByte (s : State) (pa : Nat) : Byte := cellGet s.mem.mem pa

/-- A byte of host memory. -/
def hostByte (s : State) (a : Nat) : Byte := cellGet s.host.mem a

/-- A line of device memory as its home holds it (R251, R264, R293): the slice's copy, else the side buffer's, else memory
with the controller's queued writes. -/
def homeLine (s : State) (pa : Nat) : Line :=
  match homeSlice s pa with
  | none => (memLine s pa).1
  | some (r, set, tag) =>
    match findWay (regionOf s r) set tag with
    | some (_, l) => l.data
    | none =>
      match sideOf (regionOf s r) pa with
      | some e => e.data
      | none => (memLine s pa).1

/-- An address of device memory that lies at a home and not in its side buffer. -/
def Homed (s : State) (pa : Nat) : Prop :=
  ∃ r set tag, homeSlice s pa = some (r, set, tag) ∧ sideOf (regionOf s r) pa = none

/-- A host's access to a BAR of function `f` takes effect (R524, R525). -/
def HostMay (s : State) (f : Nat) : Prop :=
  s.pm.ready = true ∧ fnLive s f = true ∧ (fnOf s f).pcie.d3hot = false

/-- A bit of an event register of a function. -/
def eventSet (s : State) (f grp b : Nat) : Bool := bit (alGet 0 (fnOf s f).ev grp) b

/-- The first `n` bytes of the registers from %v `d` of a lane, little-endian (R11, R191). -/
def regBytes (c : Ctx) (d lane n : Nat) : List Byte :=
  ((List.range (max 1 (n / 4))).flatMap (fun w => leBytes 4 (vReg c (d + w) lane).toNat)).take n

/-! ### Issue -/

/-- The native instructions of a path's next instruction are in the core's instruction store, and none is BRK (R213,
R215). -/
def Fetched (c : Ctx) : Prop := (∀ l ∈ nativeLines c, l ∈ c.x.istore) ∧ brkAhead c = false

/-- An instruction issues (R163, R164, R213, R474): its group can issue with context `c`, the registers it writes and
reads wait for no access, the instruction is there, and none of its operands is poisoned. -/
def Issues (s : State) (i : Iss) (c : Ctx) (dst : List Nat) (narrow wide : List Opd) : Prop :=
  issue s i = some c ∧ opsReady c (dst ++ narrow.flatMap (vRegs false) ++ wide.flatMap (vRegs true)) = true ∧
    anyPoison c i narrow wide = false ∧ Fetched c

/-- The state once the instruction has been taken from the store and counted. -/
def issued (s : State) (i : Iss) (c : Ctx) : State :=
  ctrAdd (touchLines s i.core (nativeLines c)) (blkKey 0 i.core) 0x03 1 none

/-- The group and core of a context as another state holds them. -/
def Ctx.seen (c : Ctx) (t : State) : Ctx :=
  { c with x := execOf t c.core, g := alGet {} (execOf t c.core).groups c.slot }

/-- What a destination holds after the values `f` of the active lanes were written to it: each active lane of a thread
register or predicate, and a uniform register when the lanes agree. -/
def Wrote (c : Ctx) (t : State) (d : Opd) (f : Nat → Word) : Prop :=
  match d with
  | .v n => ∀ l ∈ c.act, vReg (c.seen t) n l = f l
  | .p n => ∀ l ∈ c.act, predOf (c.seen t).g n l = (f l).getLsbD 0
  | .u n => ∀ v, c.act ≠ [] → (∀ l ∈ c.act, f l = v) → uReg (c.seen t) n = v
  | _ => True

/-- As `Wrote`, for a destination of 64 bits. -/
def Wrote64 (c : Ctx) (t : State) (d : Opd) (f : Nat → DWord) : Prop :=
  match d with
  | .v n => ∀ l ∈ c.act, vReg (c.seen t) n l = (f l).setWidth 32 ∧ vReg (c.seen t) (n + 1) l = (f l).extractLsb' 32 32
  | .u n => ∀ v, c.act ≠ [] → (∀ l ∈ c.act, f l = v) →
      uReg (c.seen t) n = v.setWidth 32 ∧ uReg (c.seen t) (n + 1) = v.extractLsb' 32 32
  | .p n => ∀ l ∈ c.act, predOf (c.seen t).g n l = (f l).getLsbD 0
  | _ => True

/-- The path of a context has moved to program counter `pc` (R167). -/
def Moved (c : Ctx) (t : State) (pc : Nat) : Prop :=
  (c.seen t).g.paths = holdPaths c.b.task.recon (mergePaths
    (c.g.paths.map (fun q => if q.lanes = c.p.lanes then { q with pc := pc, released := false } else q)))

/-- Lane `l` of a group is in a path at program counter `pc`, waiting at barrier `bar` or not, stalled or not (R167). -/
def LaneAt (g : Group) (l pc : Nat) (bar : Option (Nat × BitVec 16)) (stall : Stall) : Prop :=
  ∃ p ∈ g.paths, p.lanes.getLsbD l = true ∧ p.pc = pc ∧ p.bar = bar ∧ p.stall = stall

/-- A precise fault `f` of the issuing group (R187): its block has left the core, and its node, which had not failed, is to
complete with status FAULT naming the fault, the place, the program counter and the lanes. -/
def Faulted (c : Ctx) (s t : State) (f : DevFault) : Prop :=
  (execOf t c.core).groups = (execOf s c.core).groups.filter (fun e => e.2.block != c.g.block) ∧
  (execOf t c.core).blocks = alDel (execOf s c.core).blocks c.g.block ∧
  ∀ n, alFind s.fe.nodes c.b.task.node = some n → n.fail = none →
    ∃ m, alFind t.fe.nodes c.b.task.node = some m ∧
      m.fail = some { status := .fault, fault := f, loc := locOf c.core, pc := c.p.pc, lanes := c.p.lanes.toNat, node := n.idx } ∧
      m.doneBlocks = n.doneBlocks + 1

/-- Every part of the state is as before but the cores, the debug counters and the count of free values. -/
def OnlyCores (s t : State) : Prop := t = { s with cores := t.cores, dbg := t.dbg, freeCtr := t.freeCtr }

/-- Every core but one is as before, and of that one everything but its groups and its instruction store's order. -/
def OnlyGroup (s t : State) (core slot : Nat) : Prop :=
  (∀ k, k ≠ core → coreOf t k = coreOf s k) ∧
  (∃ gs st, coreOf t core = { coreOf s core with exec := { execOf s core with groups := gs, istore := st } }) ∧
  ∀ j, j ≠ slot → alFind (execOf t core).groups j = alFind (execOf s core).groups j

/-! ### Mailboxes -/

/-- The request of mailbox `f`, taken out as the next in sequence (R435): its SEQ and PEER are kept, and a copy of it. -/
def Taken (s : State) (f : Nat) : State :=
  modMbox (takeRequest s f) f (fun m =>
    { m with l := fieldAt (mboxMsg s f) 8 4, hostAcked := fieldAt (mboxMsg s f) 12 4, copy := mboxMsg s f })

/-- The request `r` of mailbox `f` with opcode `op` is the one that is served next (R429, R432), and it is the next in
sequence (R435, Table 15.4). -/
def Due (s : State) (f op : Nat) (r : Req) : Prop :=
  s.mgmt.retry = none ∧ dueMbox s = some f ∧ (f = boardFn → boardSpdm s = false) ∧ r = reqOf f (mboxMsg s f) ∧ r.op = op ∧
    fieldAt r.msg 8 4 = nextSeqNo (mboxOf s f).l

/-- That request passes the checks of R438, which leave state `s1` to carry it out in: as `s`, but for its mailbox and the
counter of the key slot that authenticated it. -/
def Carries (s : State) (f op : Nat) (r : Req) (s1 : State) : Prop :=
  Due s f op r ∧ checkReq (Taken s f) r = (none, s1)

/-- The numbered reply `rep` to request `r`, which was carried out to state `s`, stands in mailbox `f`, delivered, or held
back until the twin has acknowledged its records (R433 to R436, R337). -/
def Replied (s t : State) (f : Nat) (r : Req) (rep : Rep) : Prop :=
  f = boardFn ∨
    (mboxOf t f).resp = replyBytes r.msg rep (nextSeqNo (mboxOf s f).d) (mboxOf s f).l false ∧
      (mboxOf t f).l = (mboxOf s f).l ∧ (mboxOf t f).d = nextSeqNo (mboxOf s f).d ∧ (mboxOf t f).exec = false ∧
      ((mboxOf t f).respValid = true ∨ (mboxOf t f).respHeld = true)

/-- Mailbox traffic apart, `t` holds what `s` holds of memory, compute units, front end,
scheduling, reliability and power. -/
def MailOnly (s t : State) : Prop :=
  t.mem = s.mem ∧ t.cores = s.cores ∧ t.clusters = s.clusters ∧ t.regions = s.regions ∧ t.fe = s.fe ∧ t.sched = s.sched ∧
    t.images = s.images ∧ t.vtensors = s.vtensors ∧ t.pools = s.pools ∧ t.ras = s.ras ∧ t.pm = s.pm ∧
    t.links.exports = s.links.exports ∧ t.links.routes = s.links.routes ∧ t.mgmt.faults = s.mgmt.faults ∧
    t.mgmt.keys = s.mgmt.keys ∧ t.mgmt.banks = s.mgmt.banks

end Sys2Proof.Machine
end

