-- ==== Sys2Proof/Certificates/Slice0/Obligations.lean ====
section
/-! DEFINITION. The statements for the provers: what the commands do, stop on and leave alone. -/

open Sys2Proof Sys2Proof.Machine

/-! ### The queue of commands -/

/-- The command at the front of the queue runs on the state with the rest of the queue: a step is that and nothing more. -/
def Obligations.StepRunsFrontCommand : Prop :=
  ∀ (s : State) (c : Instr) (rest : List Instr),
    step { s with pending := c :: rest } = exec c { s with pending := rest }

/-- With no command waiting the block idles through one tick: the step answers a next state whose queue is empty, and the
timebase has advanced by one wherever it runs (R449; that an idle step is one 10 ns tick is the model's choice, log entry
25). -/
def Obligations.IdleStepIsOneTick : Prop :=
  ∀ s : State, s.pending = [] →
    ∃ t, step s = .next t ∧ t.pending = [] ∧
      (s.pm.phase = .off → t = s) ∧ (s.pm.phase ≠ .off → t.time = (s.time + 1) % 2 ^ 64)

/-- No step changes what the part is, and a step takes exactly the front command off the queue (first in, first out).
Well-formed waiting commands stay well formed, on every part: what waits after a step waited before it. -/
def Obligations.StepKeepsPartAndWaitingCommands : Prop :=
  (∀ s t : State, step s = .next t → t.variant = s.variant ∧ t.pending = s.pending.drop 1) ∧
  (∀ s t : State, (∀ c ∈ s.pending, c.wf = true) → step s = .next t → ∀ c ∈ t.pending, c.wf = true)

/-- Every step keeps device memory and host memory in their canonical form: addresses strictly rising and no listed byte
equal to what an unlisted one reads. -/
def Obligations.StepKeepsMemoryCanonical : Prop :=
  ∀ s t : State, s.memOk → step s = .next t → t.memOk

/-- Reset's memories are in their canonical form, list nothing and read 0 everywhere (R307), and
no command waits. -/
def Obligations.ResetMemoryCanonical : Prop :=
  State.reset.memOk ∧ State.reset.pending = [] ∧ (∀ a, memByte State.reset a = 0) ∧ ∀ a, hostByte State.reset a = 0

/-- Accesses of a host to a BAR, by the function they go through. -/
def hostFn : Instr → Option Nat
  | .dbRing f _ => some f
  | .dbCompl f _ => some f
  | .mbSubmit f _ _ => some f
  | .mbRespAck f => some f
  | .mbResync f => some f
  | .fePasidWrite f _ => some f
  | .eventRingEnable f _ => some f
  | .eventRingConsWrite f _ => some f
  | .msixUnmask f _ => some f
  | .counterSnap f _ => some f
  | .counterClear f _ => some f
  | .whistleRelease f => some f
  | .breakArm f _ _ => some f
  | .accessPortGo f _ => some f
  | .registerWrite f _ _ _ => some f
  | _ => none

/-- Host-memory bytes that the host wrote before an access (R239). -/
def hostPosted : Instr → Posted
  | .dbRing _ p => p
  | .dbCompl _ p => p
  | .mbSubmit _ _ p => p
  | _ => []

/-- A host access to a BAR stops the run when device initialisation has not ended (R525), and nothing else stops any
command; an access to a function that is not enabled, or in D3hot, changes nothing beyond the host's own
earlier writes to its memory (R524). -/
def Obligations.OnlyEarlyBarAccessStops : Prop :=
  (∀ (c : Instr) (f : Nat) (s : State), hostFn c = some f → s.pm.ready = false → exec c s = .fault .barBeforeReady) ∧
  (∀ (c : Instr) (f : Nat) (s : State), hostFn c = some f → s.pm.ready = true →
    (fnLive s f = false ∨ (fnOf s f).pcie.d3hot = true) →
    exec c s = .next (postHost s (hostPosted c))) ∧
  (∀ (c : Instr) (s : State), (hostFn c = none ∨ s.pm.ready = true) → ∃ t, exec c s = .next t)

/-! ### Lane instructions (chapters 06 and 07) -/

/-- A lane instruction: what issues, its destination, its three sources and its result in a lane. -/
structure LaneSem where
  i : Iss
  d : Opd
  a : Opd
  b : Opd
  c : Opd
  f : Word → Word → Word → Word

/-- A 32-bit lane operation of FP32 values whose exact result is rounded once, to nearest even (R99, R165). -/
def fp32Of (f : XVal → XVal) (x : Word) : Word := toFp32 .rne (f (ofFp32 x))

/-- Results of the 32-bit lane instructions: integers wrap modulo 2^32; comparisons, minimum and maximum by type; FP32 by
IEEE 754 (R99); a shift by 32 or more is free (log entry 12). -/
def laneSem : Instr → Option LaneSem
  | .add i .f32 r d a b => some ⟨i, d, a, b, .none, fun x y _ => addLane .f32 r x y⟩
  | .add i _ _ d a b => some ⟨i, d, a, b, .none, fun x y _ => x + y⟩
  | .sub i .f32 r d a b => some ⟨i, d, a, b, .none, fun x y _ => subLane .f32 r x y⟩
  | .sub i _ _ d a b => some ⟨i, d, a, b, .none, fun x y _ => x - y⟩
  | .mul i .f32 r d a b => some ⟨i, d, a, b, .none, fun x y _ => toFp32 (arithRnd r) (xMul (ofFp32 x) (ofFp32 y))⟩
  | .mul i _ _ d a b => some ⟨i, d, a, b, .none, fun x y _ => x * y⟩
  | .fma i r d a b c => some ⟨i, d, a, b, c, fmaLane r⟩
  | .madS32 i d a b c => some ⟨i, d, a, b, c, fun x y z => x * y + z⟩
  | .min i .s32 d a b => some ⟨i, d, a, b, .none, fun x y _ => if x.toInt < y.toInt then x else y⟩
  | .min i .u32 d a b => some ⟨i, d, a, b, .none, fun x y _ => if x.toNat < y.toNat then x else y⟩
  | .min i .f32 d a b => some ⟨i, d, a, b, .none, fun x y _ => BitVec.ofNat 32 (pickVal fmtFP32 false x.toNat y.toNat)⟩
  | .max i .s32 d a b => some ⟨i, d, a, b, .none, fun x y _ => if x.toInt < y.toInt then y else x⟩
  | .max i .u32 d a b => some ⟨i, d, a, b, .none, fun x y _ => if x.toNat < y.toNat then y else x⟩
  | .max i .f32 d a b => some ⟨i, d, a, b, .none, fun x y _ => BitVec.ofNat 32 (pickVal fmtFP32 true x.toNat y.toNat)⟩
  | .setp i ty k d a b => some ⟨i, d, a, b, .none, fun x y _ => if cmpLane ty k x y then 1 else 0⟩
  | .and i d a b => some ⟨i, d, a, b, .none, fun x y _ => x &&& y⟩
  | .or i d a b => some ⟨i, d, a, b, .none, fun x y _ => x ||| y⟩
  | .xor i d a b => some ⟨i, d, a, b, .none, fun x y _ => x ^^^ y⟩
  | .shl i d a b => some ⟨i, d, a, b, .none, fun x y _ => if y.toNat < 32 then x <<< y.toNat else Config.wideShift x y⟩
  | .shr i .s32 d a b =>
    some ⟨i, d, a, b, .none, fun x y _ => if y.toNat < 32 then x.sshiftRight y.toNat else Config.wideShift x y⟩
  | .shr i _ d a b => some ⟨i, d, a, b, .none, fun x y _ => if y.toNat < 32 then x >>> y.toNat else Config.wideShift x y⟩
  | .mov i d (.opd a) => some ⟨i, d, a, .none, .none, fun x _ _ => x⟩
  | .sel i d a b p => some ⟨i, d, a, b, p, fun x y q => if q.getLsbD 0 then x else y⟩
  | .expF32 i d a => some ⟨i, d, a, .none, .none, fun x _ _ => fp32Of expFp32 x⟩
  | .exp2F32 i d a => some ⟨i, d, a, .none, .none, fun x _ _ => fp32Of exp2Fp32 x⟩
  | .log2F32 i d a => some ⟨i, d, a, .none, .none, fun x _ _ => fp32Of log2Fp32 x⟩
  | .rcpF32 i d a => some ⟨i, d, a, .none, .none, fun x _ _ => fp32Of rcpFp32 x⟩
  | .rsqF32 i d a => some ⟨i, d, a, .none, .none, fun x _ _ => fp32Of rsqFp32 x⟩
  | .sqrtF32 i d a => some ⟨i, d, a, .none, .none, fun x _ _ => fp32Of sqrtFp32 x⟩
  | _ => none

/-- Every lane instruction that issues completes: each active lane of its destination holds the result of its sources in
that lane, and the path moves past the instruction. -/
def Obligations.LaneInstructionsCompleteWithTheirResults : Prop :=
  ∀ (ins : Instr) (m : LaneSem) (s : State) (c : Ctx), laneSem ins = some m →
    Issues s m.i c (vRegs false m.d) [m.a, m.b, m.c] [] →
    ∃ t, exec ins s = .next t ∧ Wrote c t m.d (fun l => m.f (opdLane c m.a l) (opdLane c m.b l) (opdLane c m.c l)) ∧
      Moved c t c.next

/-- The frame of the lane instructions: every register, predicate and handle but the destination in the active lanes is
as before, memory, every other group, every other core and every other part of the state as well. -/
def Obligations.LaneInstructionsLeaveEverythingElse : Prop :=
  ∀ (ins : Instr) (m : LaneSem) (s t : State) (c : Ctx), laneSem ins = some m →
    Issues s m.i c (vRegs false m.d) [m.a, m.b, m.c] [] → exec ins s = .next t →
    OnlyCores s t ∧ OnlyGroup s t m.i.core m.i.slot ∧
    (∀ n l, l < 32 → (m.d ≠ .v n ∨ l ∉ c.act) → vReg (c.seen t) n l = vReg c n l) ∧
    (∀ n l, l < 32 → (m.d ≠ .p n ∨ l ∉ c.act) → predOf (c.seen t).g n l = predOf c.g n l) ∧
    (∀ n, m.d ≠ .u n → uReg (c.seen t) n = uReg c n) ∧
    (c.seen t).g.handles = c.g.handles ∧ (c.seen t).g.loops = c.g.loops ∧ (c.seen t).g.calls = c.g.calls ∧
    (c.seen t).g.srCount = c.g.srCount ∧ (c.seen t).g.stop = c.g.stop

/-- A conversion that issues completes with the converted value in each active lane (R99), for 32-bit and 64-bit sources
and destinations and every rounding; .SR counts one stochastic instruction of the group, and its random value is free
(log entry 18). FP64 types need the FP64 lanes (R166). A move of a special value (Table 7.4, R195) and a 64-bit
floating instruction on a part with FP64 lanes (R166) complete with their values in each active lane. -/
def Obligations.WideLaneInstructionsComplete : Prop :=
  (∀ (i : Iss) (dty sty : CvtTy) (r : LaneRnd) (sm : SatMode) (d a : Opd) (s : State) (c : Ctx),
      ((dty = .f64 ∨ sty = .f64) → s.units.testBit 2 = true) →
      Issues s i c (vRegs (cvtIsWide dty) d) (if cvtIsWide sty then [] else [a]) (if cvtIsWide sty then [a] else []) →
      ∃ t, exec (.cvt i dty sty r sm d a) s = .next t ∧ Moved c t c.next ∧
        (c.seen t).g.srCount = c.g.srCount + (if r = .sr then 1 else 0) ∧
        let x (l : Nat) : DWord := if cvtIsWide sty then opdLane64 c a l else (opdLane c a l).setWidth 64
        let y (l : Nat) : DWord := cvtLane dty sty (laneRnd ((Config.fresh (s.freeCtr + 2 + l)).toNat % 65536) r) sm (x l)
        if cvtIsWide dty then Wrote64 c t d y else Wrote c t d (fun l => (y l).setWidth 32)) ∧
  ((∀ (i : Iss) (d : Opd) (z : Special) (s : State) (c : Ctx), Issues s i c (vRegs (specialWide z) d) [] [] →
      ∃ t, exec (.mov i d (.special z)) s = .next t ∧ Moved c t c.next ∧
        let y (l : Nat) : DWord := BitVec.ofNat 64 (match z with
          | .lane => l
          | .group => c.g.index
          | .block => c.b.index
          | .nblocks => c.b.task.nblocks
          | .targs => c.b.task.targs
          | .vrefRd n => c.b.task.vrd.getD n 0
          | .vrefWr n => c.b.task.vwr.getD n 0
          | .core => locOf i.core)
        if specialWide z then Wrote64 c t d y else Wrote c t d (fun l => (y l).setWidth 32)) ∧
    (∀ (i : Iss) (op : F64Op) (r : LaneRnd) (d a b e : Opd) (s : State) (c : Ctx), s.units.testBit 2 = true →
      Issues s i c (vRegs true d) [] [a, b, e] →
      ∃ t, exec (.f64Op i op r d a b e) s = .next t ∧ Moved c t c.next ∧
        Wrote64 c t d (fun l => f64Lane op r (opdLane64 c a l) (opdLane64 c b l) (opdLane64 c e l))))

/-- On a part without FP64 lanes an instruction that names FP64, be it of the 64-bit pipe, a conversion or a matrix
instruction, is handled as an absent unit: the block of the issuing group ends,
and its task, unless it failed before, completes with status UNIT_ABSENT naming the place, the program counter and the
lanes (R7, R18, R166). -/
def Obligations.Fp64WithoutLanesEndsTheTask : Prop :=
  ∀ (ins : Instr) (i : Iss) (s : State) (c : Ctx) (n : Node), s.units.testBit 2 = false → issue s i = some c →
    ((∃ op r d a b e, ins = .f64Op i op r d a b e) ∨
      (∃ dty sty r sm d a, (dty = .f64 ∨ sty = .f64) ∧ ins = .cvt i dty sty r sm d a) ∨
      (∃ op, (op.sFmt = 14 ∨ op.tFmt = 14) ∧ ins = .mma i op)) →
    alFind s.fe.nodes c.b.task.node = some n → n.fail = none →
    ∃ t m, exec ins s = .next t ∧
      (execOf t i.core).groups = (execOf s i.core).groups.filter (fun e => e.2.block != c.g.block) ∧
      (execOf t i.core).blocks = alDel (execOf s i.core).blocks c.g.block ∧
      alFind t.fe.nodes c.b.task.node = some m ∧
      m.fail = some { status := .unitAbsent, loc := locOf i.core, pc := c.p.pc, lanes := c.p.lanes.toNat, node := n.idx } ∧
      m.doneBlocks = n.doneBlocks + 1

/-! ### Collectives over a group's lanes (R173, R174) -/

/-- A reduction: what issues, destination, source, whether it scans, .PARTIAL, and the reduction of the present lanes. -/
structure GredSem where
  i : Iss
  d : Opd
  a : Opd
  scan : Bool
  part : Bool
  red : List Word → Word

/-- The reductions of Table 6.8: wrapping integer sums; bitwise operations; the smallest and largest value by type, where no
lane is present the neutral element. A NaN that a reduction writes is the canonical one (R74). The order of an FP32 sum of
three or more lanes is free (log entry 24). -/
def gredSem : Instr → Option GredSem
  | .gredAdd i .f32 scan part d a => some ⟨i, d, a, scan, part, fun xs =>
      if xs.any isNan32 then 0x7FC00000
      else match xs with
        | [] => 0
        | [x] => x
        | [x, y] => addLane .f32 .rne x y
        | _ => canonLane .f32 (Config.gredSum xs)⟩
  | .gredAdd i _ scan part d a => some ⟨i, d, a, scan, part, fun xs => xs.foldl (fun x y => x + y) 0⟩
  | .gredOr i scan part d a => some ⟨i, d, a, scan, part, fun xs => xs.foldl (fun x y => x ||| y) 0⟩
  | .gredXor i scan part d a => some ⟨i, d, a, scan, part, fun xs => xs.foldl (fun x y => x ^^^ y) 0⟩
  | .gredAnd i scan part d a => some ⟨i, d, a, scan, part, fun xs => xs.foldl (fun x y => x &&& y) (BitVec.allOnes 32)⟩
  | .gredMin i .u32 scan part d a => some ⟨i, d, a, scan, part, fun xs => xs.foldl (fun x y => if x.toNat < y.toNat then x else y) 0xFFFFFFFF⟩
  | .gredMin i .s32 scan part d a => some ⟨i, d, a, scan, part, fun xs => xs.foldl (fun x y => if x.toInt < y.toInt then x else y) 0x7FFFFFFF⟩
  | .gredMin i .f32 scan part d a => some ⟨i, d, a, scan, part, fun xs => reduceLanes (pickLane .f32 false) 0x7F800000 (xs.map (canonLane .f32))⟩
  | .gredMax i .u32 scan part d a => some ⟨i, d, a, scan, part, fun xs => xs.foldl (fun x y => if x.toNat < y.toNat then y else x) 0⟩
  | .gredMax i .s32 scan part d a => some ⟨i, d, a, scan, part, fun xs => xs.foldl (fun x y => if x.toInt < y.toInt then y else x) 0x80000000⟩
  | .gredMax i .f32 scan part d a => some ⟨i, d, a, scan, part, fun xs => reduceLanes (pickLane .f32 true) 0xFF800000 (xs.map (canonLane .f32))⟩
  | _ => none

/-- A reduction or shuffle with .PARTIAL, or whose lanes are the group's launch mask, completes: each present lane
receives the reduction over the present lanes (in a scan, over those up to it; whether it takes in its own value is
free, log entry 24), or the value of the lane that it names, an absent lane supplying zero (R173, R174). Without
.PARTIAL, a collective of a path whose lanes are not the group's launch mask raises DIVERGENT_COLLECTIVE at issue and
writes no register: its block ends (R173). -/
def Obligations.CollectivesCompleteOrDiverge : Prop :=
  ((∀ (ins : Instr) (m : GredSem) (s : State) (c : Ctx), gredSem ins = some m →
      Issues s m.i c (vRegs false m.d) [m.a] [] → (m.part = true ∨ laneMask c.act = c.g.launch) →
      ∃ t, exec ins s = .next t ∧ Moved c t c.next ∧ OnlyCores s t ∧ OnlyGroup s t m.i.core m.i.slot ∧
        Wrote c t m.d (fun l => m.red
          ((c.act.filter (fun k => !m.scan || decide (k < l) || (Config.scanInclusive && k == l))).map (opdLane c m.a)))) ∧
    (∀ (i : Iss) (part : Bool) (d a b : Opd) (s : State) (c : Ctx), Issues s i c (vRegs false d) [a, b] [] →
      (part = true ∨ laneMask c.act = c.g.launch) →
      ∃ t, exec (.shfl i part d a b) s = .next t ∧ Moved c t c.next ∧ OnlyCores s t ∧ OnlyGroup s t i.core i.slot ∧
        Wrote c t d (fun l =>
          let n := (opdLane c b l).toNat
          if 31 < n then Config.shflBeyond (opdLane c b l) (opdLane c a l)
          else if n ∈ c.act then opdLane c a n else 0))) ∧
  ((∀ (ins : Instr) (m : GredSem) (s : State) (c : Ctx), gredSem ins = some m → m.part = false →
      Issues s m.i c (vRegs false m.d) [m.a] [] → laneMask c.act ≠ c.g.launch →
      ∃ t, exec ins s = .next t ∧ Faulted c s t .divergentCollective) ∧
    (∀ (i : Iss) (d a b : Opd) (s : State) (c : Ctx), Issues s i c (vRegs false d) [a, b] [] → laneMask c.act ≠ c.g.launch →
      ∃ t, exec (.shfl i false d a b) s = .next t ∧ Faulted c s t .divergentCollective))

/-! ### Control flow, loops, rotation and barriers (R167 to R186) -/

/-- Branches, calls and returns complete: each lane of the path goes where R167 sends it, and the return addresses are as
that leaves them (what CALL keeps and RET takes is the model's reading, log entry 19). -/
def Obligations.ControlFlowSendsEachLane : Prop :=
  (∀ (i : Iss) (p : Option (Bool × Nat)) (target : Nat) (s : State) (c : Ctx),
    Issues s i c [] (match p with | some (_, n) => [.p n] | none => []) [] →
    ∃ t, exec (.bra i p target) s = .next t ∧ OnlyCores s t ∧ OnlyGroup s t i.core i.slot ∧
      ∀ l ∈ laneList c.p.lanes, LaneAt (c.seen t).g l
        (if l ∈ c.act ∧ (match p with | some (neg, n) => predOf c.g n l != neg | none => true) = true then target else c.next) none .go) ∧
  (∀ (i : Iss) (target : Nat) (s : State) (c : Ctx), Issues s i c [] [] [] →
    ∃ t, exec (.call i target) s = .next t ∧ OnlyCores s t ∧ OnlyGroup s t i.core i.slot ∧
      ∀ l ∈ laneList c.p.lanes,
        LaneAt (c.seen t).g l (if l ∈ c.act then target else c.next) none .go ∧
        alGet [] (c.seen t).g.calls l = (if l ∈ c.act then [c.next] else []) ++ alGet [] c.g.calls l) ∧
  (∀ (i : Iss) (s : State) (c : Ctx), Issues s i c [] [] [] →
    ∃ t, exec (.ret i) s = .next t ∧ OnlyCores s t ∧ OnlyGroup s t i.core i.slot ∧
      ∀ l ∈ laneList c.p.lanes,
        LaneAt (c.seen t).g l (if l ∈ c.act then (alGet [] c.g.calls l).headD c.next else c.next) none .go ∧
        alGet [] (c.seen t).g.calls l = (alGet [] c.g.calls l).drop (if l ∈ c.act then 1 else 0))

/-- Hardware loops (R184): LOOP samples its 32-bit count once in each lane that enters it, from a uniform register, a
thread register or an immediate; a count of 0 skips past the matching ENDLOOP and opens nothing, and a count of c > 0
opens a loop with c - 1 repeats left, whatever the register holds later. ENDLOOP goes back to the start while repeats
are left, one fewer each time, and closes the loop when none is; LOOP.BREAK leaves the innermost open loop at once. A
LOOP by a thread with four loops open raises LOOP_DEPTH at issue (R185). -/
def Obligations.LoopsRunTheirCount : Prop :=
  ((∀ (i : Iss) (count : Opd) (endOff : Nat) (s : State) (c : Ctx), Issues s i c [] [count] [] →
      (∀ l ∈ c.act, (loopsOf c.g l).length < 4) →
      ∃ t, exec (.loop i count endOff) s = .next t ∧ OnlyCores s t ∧ OnlyGroup s t i.core i.slot ∧
        ∀ l ∈ laneList c.p.lanes,
          let n := (opdLane c count l).toNat
          LaneAt (c.seen t).g l (if l ∈ c.act ∧ n = 0 then endOff else c.next) none .go ∧
          loopsOf (c.seen t).g l =
            (if l ∈ c.act ∧ n ≠ 0 then [{ start := c.next, left := n - 1, exit := endOff }] else []) ++ loopsOf c.g l) ∧
    (∀ (i : Iss) (s : State) (c : Ctx), Issues s i c [] [] [] →
      ∃ t, exec (.endloop i) s = .next t ∧ OnlyCores s t ∧ OnlyGroup s t i.core i.slot ∧
        ∀ l ∈ laneList c.p.lanes, l ∈ c.act → ∀ e r, loopsOf c.g l = e :: r →
          LaneAt (c.seen t).g l (if 0 < e.left then e.start else c.next) none .go ∧
          loopsOf (c.seen t).g l = (if 0 < e.left then { e with left := e.left - 1 } :: r else r)) ∧
    (∀ (i : Iss) (s : State) (c : Ctx), Issues s i c [] [] [] →
      ∃ t, exec (.loopBreak i) s = .next t ∧ OnlyCores s t ∧ OnlyGroup s t i.core i.slot ∧
        ∀ l ∈ laneList c.p.lanes, l ∈ c.act → ∀ e r, loopsOf c.g l = e :: r →
          LaneAt (c.seen t).g l e.exit none .go ∧ loopsOf (c.seen t).g l = r)) ∧
  (∀ (i : Iss) (count : Opd) (endOff : Nat) (s : State) (c : Ctx), Issues s i c [] [count] [] →
      (∃ l ∈ c.act, 4 ≤ (loopsOf c.g l).length) →
      ∃ t, exec (.loop i count endOff) s = .next t ∧ Faulted c s t .loopDepth)

/-- The threads of the block that run on when, of the current path, `lanes` are left. -/
def threadsLeft (c : Ctx) (lanes : List Nat) : List Nat :=
  let g := { c.g with paths := c.g.paths.filter (fun q => q.lanes != c.p.lanes) ++ [pathAt lanes c.next] }
  liveThreads { c.x with groups := alPut c.x.groups c.slot g } c.g.block

/-- The path that a rotation away from `p` makes current (R169): the eligible path with the next higher program counter, or,
when there is none, the eligible path with the lowest. -/
def nextPath (g : Group) (p : Path) : Option Path :=
  ((g.paths.filter Path.eligible).find? (fun q => decide (p.pc < q.pc))).or ((g.paths.filter Path.eligible).head?)

/-- EXIT: once no earlier instruction of the group can still fault, the active lanes leave for good and the others go on;
when no thread of the block is left, the block leaves the core and its node counts it (R167, R177). YIELD completes and rotates
the group unless the path set changes as the path moves on (R170); the 64th backward branch rotates it: the eligible path with
the next higher program counter becomes current, or the lowest, and the count restarts at 0 (R169). An instruction that no
lane takes part in only moves its path past it (R192). -/
def Obligations.ExitAndRotationComplete : Prop :=
  (∀ (i : Iss) (s : State) (c : Ctx), Issues s i c [] [] [] → c.act ≠ [] → mayFault c.x c.slot s.seqNo = false →
    threadsLeft c (restLanes c c.act) = [] →
    ∃ t, exec (.exit i) s = .next t ∧ (execOf t i.core).blocks = alDel (execOf s i.core).blocks c.g.block ∧
      (∀ e ∈ (execOf t i.core).groups, e.2.block ≠ c.g.block) ∧
      ∀ n, alFind s.fe.nodes c.b.task.node = some n →
        ∃ m, alFind t.fe.nodes c.b.task.node = some m ∧ m.doneBlocks = n.doneBlocks + 1 ∧ m.liveBlocks = n.liveBlocks - 1) ∧
  (∀ (i : Iss) (s : State) (c : Ctx), Issues s i c [] [] [] → c.act ≠ [] → mayFault c.x c.slot s.seqNo = false →
    threadsLeft c (restLanes c c.act) ≠ [] →
    ∃ t, exec (.exit i) s = .next t ∧ OnlyCores s t ∧ (∀ k, k ≠ i.core → coreOf t k = coreOf s k) ∧
      (∀ l ∈ laneList c.p.lanes, l ∉ c.act → LaneAt (c.seen t).g l c.next none .go) ∧
      ∀ q ∈ (c.seen t).g.paths, ∀ l ∈ c.act, q.lanes.getLsbD l = true →
        ∃ p ∈ c.g.paths, p.lanes ≠ c.p.lanes ∧ p.lanes.getLsbD l = true) ∧
  (∀ (i : Iss) (s : State) (c : Ctx), Issues s i c [] [] [] →
    ∃ t, exec (.yield i) s = .next t ∧ OnlyCores s t ∧ OnlyGroup s t i.core i.slot ∧ Moved c t c.next ∧
      (c.act ≠ [] → samePaths c.g.paths (c.seen t).g.paths = true →
        ∀ q, currentPath { c.g with paths := (c.seen t).g.paths } = some q →
          (c.seen t).g.branches = 0 ∧ (c.seen t).g.rotated = (nextPath (c.seen t).g q).map (·.lanes))) ∧
  (∀ (core slot : Nat) (s : State) (g : Group), alFind (execOf s core).groups slot = some g →
    ∃ t, exec (.groupRotate core slot) s = .next t ∧ OnlyCores s t ∧ OnlyGroup s t core slot ∧
      ∃ g', alFind (execOf t core).groups slot = some g' ∧ g'.paths = g.paths ∧
        (g.branches < 64 → g' = g) ∧
        (64 ≤ g.branches → ∀ p, currentPath g = some p → g'.branches = 0 ∧ g'.rotated = (nextPath g p).map (·.lanes))) ∧
  (∀ (i : Iss) (s : State) (c : Ctx), Issues s i c [] [] [] → c.act = [] →
    ∃ t, exec (.exit i) s = .next t ∧ OnlyCores s t ∧ OnlyGroup s t i.core i.slot ∧ Moved c t c.next)

/-- An arrival that BARRIER_COUNT does not meet (R176): a barrier of the four, and in every active lane the count of the
generation's first arrival, which is between 1 and the block's threads, or is not given by either. -/
def GoodArrival (c : Ctx) (n : Nat) (count : Option Opd) : Prop :=
  n < 4 ∧ ∀ l ∈ c.act,
    countOf c count l = (if (c.b.bars.getD n {}).opened then (c.b.bars.getD n {}).count else countOf c count (c.act.headD 0)) ∧
    (count ≠ none → 0 < countOf c count l ∧ countOf c count l ≤ c.b.threads)

/-- A barrier's open generation with the active lanes' arrivals (R176): the first arrival gives the generation its count. -/
def arrivedBar (c : Ctx) (n : Nat) (count : Option Opd) : Bar :=
  let r := c.b.bars.getD n {}
  let who := c.act.map (fun l => 32 * c.g.index + l)
  if r.opened then { r with arrived := r.arrived + who.length, who := r.who ++ who.filter (fun t => !r.who.contains t) }
  else { gen := r.gen, opened := true, count := countOf c count (c.act.headD 0), arrived := who.length, who := who }

/-- The arrival completes its generation (R177): the arrivals reach the count, or without one every thread of the block that
has not exited has arrived. -/
def Completes (c : Ctx) (n : Nat) (r : Bar) : Prop :=
  n < c.b.bars.length ∧
    if r.count = 0 then ∀ t ∈ threadsLeft c (laneList c.p.lanes), t ∈ r.who else r.count ≤ r.arrived

/-- Barriers: BAR.SYNC's lanes arrive and wait on the open generation, and BAR.POST's keep its number in their destination
and go on, once the group's earlier accesses have been performed (R178); an arrival that completes the generation
releases its waiters, advances the number and starts the next generation with none (R177). BAR.WAIT's lanes wait
exactly when their value is the open generation's number (R176). With no lane taking part the path only moves on
(R192). An arrival with a barrier number above 3, a count of 0 or above the block's threads, or a count that differs
from that of the generation's first arrival raises BARRIER_COUNT at issue, in whichever active lane it stands; so does
a BAR.WAIT on a barrier above 3 (R176). -/
def Obligations.BarriersCountArrivals : Prop :=
  ((∀ (i : Iss) (id : ImmU) (count : Option Opd) (s : State) (c : Ctx),
      Issues s i c [] (match count with | some q => [q] | none => []) [] → c.act ≠ [] → arriveReady c = true →
      GoodArrival c (immU c id) count →
      ∃ t b, exec (.barSync i id count) s = .next t ∧ OnlyCores s t ∧ (∀ k, k ≠ i.core → coreOf t k = coreOf s k) ∧
        alFind (execOf t i.core).blocks c.g.block = some b ∧
        (∀ l ∈ laneList c.p.lanes, l ∉ c.act → LaneAt (c.seen t).g l c.next none .go) ∧
        (¬ Completes c (immU c id) (arrivedBar c (immU c id) count) →
          b = { c.b with bars := c.b.bars.set (immU c id) (arrivedBar c (immU c id) count) } ∧
          ∀ l ∈ c.act, LaneAt (c.seen t).g l c.next (some (immU c id, (c.b.bars.getD (immU c id) {}).gen)) .go) ∧
        (Completes c (immU c id) (arrivedBar c (immU c id) count) →
          b = { c.b with bars := c.b.bars.set (immU c id) { gen := (c.b.bars.getD (immU c id) {}).gen + 1 } } ∧
          ∀ l ∈ c.act, LaneAt (c.seen t).g l c.next none .go)) ∧
    (∀ (i : Iss) (id : ImmU) (d : Opd) (count : Option Opd) (s : State) (c : Ctx),
      Issues s i c (vRegs false d) (match count with | some q => [q] | none => []) [] → c.act ≠ [] → arriveReady c = true →
      GoodArrival c (immU c id) count →
      ∃ t b, exec (.barPost i id d count) s = .next t ∧ OnlyCores s t ∧ (∀ k, k ≠ i.core → coreOf t k = coreOf s k) ∧
        alFind (execOf t i.core).blocks c.g.block = some b ∧
        Wrote c t d (fun _ => (c.b.bars.getD (immU c id) {}).gen.setWidth 32) ∧
        (∀ l ∈ laneList c.p.lanes, LaneAt (c.seen t).g l c.next none .go) ∧
        (¬ Completes c (immU c id) (arrivedBar c (immU c id) count) →
          b = { c.b with bars := c.b.bars.set (immU c id) (arrivedBar c (immU c id) count) }) ∧
        (Completes c (immU c id) (arrivedBar c (immU c id) count) →
          b = { c.b with bars := c.b.bars.set (immU c id) { gen := (c.b.bars.getD (immU c id) {}).gen + 1 } })) ∧
    (∀ (i : Iss) (id : ImmU) (a : Opd) (s : State) (c : Ctx), Issues s i c [] [a] [] → c.act ≠ [] → barReady c = true →
      immU c id < 4 →
      ∃ t, exec (.barWait i id a) s = .next t ∧ OnlyCores s t ∧ (∀ k, k ≠ i.core → coreOf t k = coreOf s k) ∧
        (execOf t i.core).blocks = (execOf s i.core).blocks ∧
        ∀ l ∈ laneList c.p.lanes,
          LaneAt (c.seen t).g l c.next
            (if l ∈ c.act ∧ opdLane c a l = (c.b.bars.getD (immU c id) {}).gen.setWidth 32
              then some (immU c id, (c.b.bars.getD (immU c id) {}).gen) else none) .go) ∧
    (∀ (i : Iss) (id : ImmU) (count : Option Opd) (s : State) (c : Ctx),
      Issues s i c [] (match count with | some q => [q] | none => []) [] → c.act = [] →
      ∃ t, exec (.barSync i id count) s = .next t ∧ OnlyCores s t ∧ OnlyGroup s t i.core i.slot ∧ Moved c t c.next) ∧
    (∀ (i : Iss) (id : ImmU) (d : Opd) (count : Option Opd) (s : State) (c : Ctx),
      Issues s i c (vRegs false d) (match count with | some q => [q] | none => []) [] → c.act = [] →
      ∃ t, exec (.barPost i id d count) s = .next t ∧ OnlyCores s t ∧ OnlyGroup s t i.core i.slot ∧ Moved c t c.next) ∧
    (∀ (i : Iss) (id : ImmU) (a : Opd) (s : State) (c : Ctx), Issues s i c [] [a] [] → c.act = [] →
      ∃ t, exec (.barWait i id a) s = .next t ∧ OnlyCores s t ∧ OnlyGroup s t i.core i.slot ∧ Moved c t c.next)) ∧
  ((∀ (i : Iss) (id : ImmU) (d : Opd) (count : Option Opd) (s : State) (c : Ctx), arriveReady c = true → c.act ≠ [] →
      ¬ GoodArrival c (immU c id) count →
      (Issues s i c [] (match count with | some q => [q] | none => []) [] →
        ∃ t, exec (.barSync i id count) s = .next t ∧ Faulted c s t .barrierCount) ∧
      (Issues s i c (vRegs false d) (match count with | some q => [q] | none => []) [] →
        ∃ t, exec (.barPost i id d count) s = .next t ∧ Faulted c s t .barrierCount)) ∧
    (∀ (i : Iss) (id : ImmU) (a : Opd) (s : State) (c : Ctx), Issues s i c [] [a] [] → c.act ≠ [] → barReady c = true →
      3 < immU c id →
      ∃ t, exec (.barWait i id a) s = .next t ∧ Faulted c s t .barrierCount))

/-! ### Memory (chapters 06, 08, 09 and 10) -/

/-- Loads, stores and atomics of shared local memory complete at once (R180 to R183, R199, R224): a load gives each active
lane the bytes at its address; a store leaves each lane's bytes at its address, where no later lane overlaps them, and every
other byte as before; an atomic of one lane returns the old value and stores the new one. Device memory is untouched. -/
def Obligations.SharedLocalMemoryCompletes : Prop :=
  (∀ (i : Iss) (q : MemQ) (d : Nat) (a : Opd) (s : State) (c : Ctx), q.slm = true → q.size ≤ 4 →
    Issues s i c ((spanOpds (.v d) (accBytes q)).flatMap (vRegs false)) [a] [] →
    mmaClash c.x c.slot true (c.act.map (fun l => (addrOf c q a l, accBytes q))) = false → slmFault c q a = none →
    c.act.any (fun l => slmBad c.b (addrOf c q a l) (accBytes q)) = false →
    ∃ t, exec (.ld i q (.v d) a) s = .next t ∧ Moved c t c.next ∧ OnlyCores s t ∧ OnlyGroup s t i.core i.slot ∧
      ∀ l ∈ c.act, regBytes (c.seen t) d l (accBytes q) = slmRead c.b (addrOf c q a l) (accBytes q)) ∧
  (∀ (i : Iss) (q : MemQ) (a b : Opd) (s : State) (c : Ctx), q.slm = true → q.size ≤ 4 →
    Issues s i c [] ([a] ++ spanOpds b (accBytes q)) [] →
    mmaClash c.x c.slot true (c.act.map (fun l => (addrOf c q a l, accBytes q))) = false →
    readAhead c.x c.slot true (c.act.map (fun l => (addrOf c q a l, accBytes q))) = false → slmFault c q a = none →
    (∀ l ∈ c.act, (opdBytes c b (accBytes q) l).length = accBytes q) →
    ∃ t b', exec (.st i q a b) s = .next t ∧ Moved c t c.next ∧ t.mem = s.mem ∧
      alFind (execOf t i.core).blocks c.g.block = some b' ∧
      (∀ x, (∀ l ∈ c.act, x < addrOf c q a l ∨ addrOf c q a l + accBytes q ≤ x) → slmByte b' x = slmByte c.b x) ∧
      (∀ l ∈ c.act, (∀ k ∈ c.act, l < k → addrOf c q a k ≠ addrOf c q a l) →
        slmRead b' (addrOf c q a l) (accBytes q) = opdBytes c b (accBytes q) l)) ∧
  (∀ (i : Iss) (q : MemQ) (d : Nat) (a b e : Opd) (s : State) (c : Ctx) (l : Nat), q.slm = true → q.size ≤ 3 →
    q.order = .none → c.act = [l] →
    Issues s i c ((spanOpds (.v d) (accBytes q)).flatMap (vRegs false))
      ([a] ++ spanOpds b (min 8 (accBytes q)) ++ spanOpds e (min 8 (accBytes q))) [] →
    mmaClash c.x c.slot true [(addrOf c q a l, accBytes q)] = false →
    readAhead c.x c.slot true [(addrOf c q a l, accBytes q)] = false → slmFault c q a = none →
    slmBad c.b (addrOf c q a l) (accBytes q) = false →
    ∃ t b', exec (.atom i q (.v d) a b e) s = .next t ∧ t.mem = s.mem ∧
      alFind (execOf t i.core).blocks c.g.block = some b' ∧
      regBytes (c.seen t) d l (accBytes q) = slmRead c.b (addrOf c q a l) (accBytes q) ∧
      slmRead b' (addrOf c q a l) (accBytes q) = leBytes (accBytes q) (atomNew q.op (accBytes q)
        (leNat (slmRead c.b (addrOf c q a l) (accBytes q))) ((opdLane64 c b l).toNat % 2 ^ (8 * accBytes q))
        ((opdLane64 c e l).toNat % 2 ^ (8 * accBytes q))).1)

/-- Loads, stores and atomics of device memory at issue, for one active lane whose access lies in one line of stacked
memory: a load that hits the L1 gives its value at once, with the write buffer's newer bytes (R220, R248); one that misses
becomes outstanding at that line; a store enters the write buffer (R219); an atomic invalidates the core's own copy and
becomes outstanding (R223). No byte of memory changes. -/
def Obligations.DeviceAccessesIssue : Prop :=
  ∀ (i : Iss) (q : MemQ) (a : Opd) (s : State) (c : Ctx) (l pa off : Nat), q.slm = false → q.size ≤ 4 → q.hint = .plain →
    c.act = [l] → pa % 128 = 0 → off + accBytes q ≤ 128 →
    mmaClash c.x c.slot false [(addrOf c q a l, accBytes q)] = false →
    addrOf c q a l % accBytes q = 0 → addrOf c q a l % 128 = off →
    (∀ d line k, Issues s i c ((spanOpds (.v d) (accBytes q)).flatMap (vRegs false)) [] [a] →
      translate s c.b.task.tenant (addrOf c q a l) .r = some (.loc (pa + off)) →
      atomBusy c.x [{ lane := l, off := 0, n := accBytes q, t := .loc (pa + off) }] = false →
      l1Find c.x (.loc pa) = some (k, line) → line.poison = 0 →
      c.x.loads.any (fun m => m.target == .loc pa) = false →
      (∀ e ∈ c.x.wb, e.poison = false) →
      ∃ t, exec (.ld i q (.v d) a) s = .next t ∧ t.mem.mem = s.mem.mem ∧ Moved c t c.next ∧
        regBytes (c.seen t) d l (accBytes q) = lineSlice (wbForward c.x (.loc pa) (BitVec.allOnes 128) line.data).2.1 off (accBytes q)) ∧
    (∀ d, Issues s i c ((spanOpds (.v d) (accBytes q)).flatMap (vRegs false)) [] [a] →
      translate s c.b.task.tenant (addrOf c q a l) .r = some (.loc (pa + off)) →
      atomBusy c.x [{ lane := l, off := 0, n := accBytes q, t := .loc (pa + off) }] = false →
      l1Find c.x (.loc pa) = none → (∀ e ∈ c.x.wb, e.poison = false) →
      ∃ t m, exec (.ld i q (.v d) a) s = .next t ∧ t.mem.mem = s.mem.mem ∧ Moved c t c.next ∧
        m ∈ (execOf t i.core).loads ∧ m.slot = i.slot ∧ m.dst = d ∧ m.size = accBytes q ∧ m.target = .loc pa ∧
        m.lanes = [{ lane := l, off := 0, n := accBytes q, pos := off }] ∧ m.got = none ∧ m.failed = none) ∧
    (∀ b, Issues s i c [] (spanOpds b (accBytes q)) [a] →
      translate s c.b.task.tenant (addrOf c q a l) .w = some (.loc (pa + off)) → c.x.wb.length < 32 →
      c.x.atoms.any (fun m => m.target.line == .loc pa) = false →
      (opdBytes c b (accBytes q) l).length = accBytes q →
      readAhead c.x c.slot false [(addrOf c q a l, accBytes q)] = false →
      ∃ t e, exec (.st i q a b) s = .next t ∧ t.mem = s.mem ∧ Moved c t c.next ∧ e ∈ (execOf t i.core).wb ∧
        e.target = .loc pa ∧ e.sent = false ∧ e.mask &&& maskOf off (accBytes q) = maskOf off (accBytes q) ∧
        lineSlice e.data off (accBytes q) = opdBytes c b (accBytes q) l) ∧
    (∀ d b e, Issues s i c ((spanOpds d (accBytes q)).flatMap (vRegs false))
        (spanOpds b (min 8 (accBytes q)) ++ spanOpds e (min 8 (accBytes q))) [a] →
      translate s c.b.task.tenant (addrOf c q a l) .a = some (.loc (pa + off)) → q.order = .none →
      readAhead c.x c.slot false [(addrOf c q a l, accBytes q)] = false →
      ∃ t m, exec (.atom i q d a b e) s = .next t ∧ t.mem = s.mem ∧
        (∀ k ∈ laneList c.p.lanes, LaneAt (c.seen t).g k c.next c.p.bar .go) ∧
        m ∈ (execOf t i.core).atoms ∧ m.slot = i.slot ∧ m.op = q.op ∧ m.size = accBytes q ∧ m.target = .loc pa ∧
        m.lanes = [{ lane := l, pos := off, b := opdLane64 c b l, c := opdLane64 c e l }] ∧ m.after = none ∧
        (∀ x ∈ (execOf t i.core).l1, x.2.target ≠ .loc pa))

/-- An access of shared local memory whose address is not a multiple of its size raises SLM_ALIGN, and one that ends
beyond the block's allocation raises SLM_RANGE; the alignment is tested first (Table 7.11, R180). A device access
without a valid mapping, or without the permission it needs, raises MEM_ACCESS at issue (R199, R286), and so does an
atomic whose address is not aligned to its size. -/
def Obligations.MemoryAccessesFault : Prop :=
  (∀ (i : Iss) (q : MemQ) (d a b : Opd) (s : State) (c : Ctx) (f : DevFault), q.slm = true →
      mmaClash c.x c.slot true (c.act.map (fun l => (addrOf c q a l, accBytes q))) = false →
      ((∃ l ∈ c.act, addrOf c q a l % accBytes q ≠ 0) ∧ f = .slmAlign ∨
        (∀ l ∈ c.act, addrOf c q a l % accBytes q = 0) ∧
          (∃ l ∈ c.act, c.b.task.slmKib * 1024 < addrOf c q a l + accBytes q) ∧ f = .slmRange) →
      (Issues s i c ((spanOpds d (accBytes q)).flatMap (vRegs false)) [a] [] →
        ∃ t, exec (.ld i q d a) s = .next t ∧ Faulted c s t f) ∧
      (Issues s i c [] ([a] ++ spanOpds b (accBytes q)) [] →
        readAhead c.x c.slot true (c.act.map (fun l => (addrOf c q a l, accBytes q))) = false →
        ∃ t, exec (.st i q a b) s = .next t ∧ Faulted c s t f)) ∧
  (∀ (i : Iss) (q : MemQ) (d a b e : Opd) (s : State) (c : Ctx), q.slm = false → q.size ≤ 4 →
      mmaClash c.x c.slot false (c.act.map (fun l => (addrOf c q a l, accBytes q))) = false →
      ((∃ l ∈ c.act, translate s c.b.task.tenant (addrOf c q a l) .r = none) →
        Issues s i c ((spanOpds d (accBytes q)).flatMap (vRegs false)) [] [a] →
        ∃ t, exec (.ld i q d a) s = .next t ∧ Faulted c s t .memAccess) ∧
      ((∃ l ∈ c.act, translate s c.b.task.tenant (addrOf c q a l) .w = none) →
        Issues s i c [] (spanOpds b (accBytes q)) [a] →
        readAhead c.x c.slot false (c.act.map (fun l => (addrOf c q a l, accBytes q))) = false →
        ∃ t, exec (.st i q a b) s = .next t ∧ Faulted c s t .memAccess) ∧
      (((∃ l ∈ c.act, addrOf c q a l % accBytes q ≠ 0) ∨
          (∃ l ∈ c.act, translate s c.b.task.tenant (addrOf c q a l) .a = none)) →
        Issues s i c ((spanOpds d (accBytes q)).flatMap (vRegs false))
          (spanOpds b (min 8 (accBytes q)) ++ spanOpds e (min 8 (accBytes q))) [a] →
        readAhead c.x c.slot false (c.act.map (fun l => (addrOf c q a l, accBytes q))) = false →
        ∃ t, exec (.atom i q d a b e) s = .next t ∧ Faulted c s t .memAccess))

/-- A write performed at its line's home is what the home holds afterwards: the bytes under the mask are the written ones,
the others as before, whether the line was in the slice, was allocated there or went through to memory (R252, R255, R259); no
byte of stacked memory changes until its controller performs a write. -/
def Obligations.HomeHoldsWhatWasWritten : Prop :=
  ∀ (s : State) (pa part tenant : Nat) (h : Hint) (mask : LineMask) (d : Line) (p : BitVec 2) (r set tag : Nat),
    homeSlice s pa = some (r, set, tag) → sideOf (regionOf s r) pa = none →
    homeLine (homeWrite s pa part tenant h mask d p) pa = lineMerge (homeLine s pa) d mask ∧
      (homeWrite s pa part tenant h mask d p).mem.mem = s.mem.mem

/-- The far ends of accesses to stacked memory: a returning load delivers its bytes to its register and leaves the list of
outstanding loads (R222, R248); a draining write-buffer entry is performed at its home and leaves the buffer (R219, R221); an
atomic of one lane is performed at its home, returns the old value and leaves the list (R223). Stacked memory's bytes change
only when a controller writes. -/
def Obligations.DeviceAccessesEnd : Prop :=
  (∀ (core id : Nat) (s : State) (m : Load) (g : Group) (d : Line) (st : BitVec 24) (e : LoadLane),
    (execOf s core).loads.find? (fun l => l.id == id) = some m →
    (∀ l ∈ (execOf s core).loads, l.target = m.target → m.id ≤ l.id) → m.failed = none → m.got = some (d, st, 0) →
    m.fwdPoison = false → m.lanes = [e] → e.off = 0 → e.n = m.size → e.pos + e.n ≤ 128 →
    m.size ∈ [1, 2, 4, 8, 16] → e.lane < 32 → alFind (execOf s core).groups m.slot = some g →
    ∃ t g', exec (.loadReturn core id) s = .next t ∧ t.mem.mem = s.mem.mem ∧
      (∀ l ∈ (execOf t core).loads, l.id ≠ id) ∧ alFind (execOf t core).groups m.slot = some g' ∧
      ((List.range (max 1 (m.size / 4))).flatMap
        (fun w => leBytes 4 (alGet 0 g'.regs (32 * (m.dst + w) + e.lane)).toNat)).take m.size =
        lineSlice (lineMerge d m.fwd m.fwdMask) e.pos m.size) ∧
  (∀ (core entry : Nat) (s : State) (e : WbEntry) (pa r set tag : Nat),
    (execOf s core).wb.find? (fun w => w.id == entry) = some e → e.sent = false → heldBack (execOf s core) e = false →
    (∀ w ∈ (execOf s core).wb, w.target = e.target → e.id ≤ w.id) → e.target = .loc pa →
    homeSlice s pa = some (r, set, tag) → sideOf (regionOf s r) pa = none → sliceAwake s r = true →
    (maskFull e.mask = true ∨ homeReady s pa e.part (nodeIsRt s (e.nodes.headD noNode)) = true) →
    ∃ t, exec (.writeBufferDrain core entry) s = .next t ∧ (∀ w ∈ (execOf t core).wb, w.id ≠ entry) ∧
      homeLine t pa = lineMerge (homeLine s pa) e.data e.mask ∧ t.mem.mem = s.mem.mem) ∧
  (∀ (core id : Nat) (s : State) (a : Atomic) (g : Group) (pa r set tag : Nat) (e : AtomLane) (d : Nat) (w : Nat) (line : SliceLine),
    (execOf s core).atoms.find? (fun x => x.id == id) = some a → a.failed = none → a.after = none → a.sent = false →
    a.target = .loc pa → a.lanes = [e] → a.dst = some d → a.size ∈ [4, 8] → a.order = .none → e.pos + a.size ≤ 128 →
    a.op ≠ .cas → e.lane < 32 → atomHeld (execOf s core) a = false → sliceAwake s r = true → storeAhead (execOf s core) (.loc pa) = false →
    homeSlice s pa = some (r, set, tag) → findWay (regionOf s r) set tag = some (w, line) → line.poison = 0 →
    sideOf (regionOf s r) pa = none → alFind (execOf s core).groups a.slot = some g →
    let old := lineSlice line.data e.pos a.size
    ∃ t g', exec (.atomicPerform core id) s = .next t ∧ (∀ x ∈ (execOf t core).atoms, x.id ≠ id) ∧
      alFind (execOf t core).groups a.slot = some g' ∧
      ((List.range (a.size / 4)).flatMap (fun k => leBytes 4 (alGet 0 g'.regs (32 * (d + k) + e.lane)).toNat)) = old ∧
      lineSlice (homeLine t pa) e.pos a.size = leBytes a.size (atomNew a.op a.size (leNat old)
        (e.b.toNat % 2 ^ (8 * a.size)) (e.c.toNat % 2 ^ (8 * a.size))).1 ∧ t.mem.mem = s.mem.mem)

/-- A fence that covers nothing outstanding ends at once and its path moves on; FENCE.LD and FENCE.FULL of device or system
scope then leave the L1 empty; otherwise its lanes wait past it, and FENCE_RELEASE, once everything it covers has ended,
resumes them with the same effect (R228 to R232, R250). -/
def Obligations.FencesWaitAndRelease : Prop :=
  (∀ (i : Iss) (kind : FenceKind) (sc : Scope) (s : State) (c : Ctx) (ins : Instr),
    ins = (match kind with | .ld => Instr.fenceLd i sc | .st => Instr.fenceSt i sc | .full => Instr.fenceFull i sc) →
    Issues s i c [] [] [] → c.act ≠ [] →
    let f := fenceFor c s.seqNo kind sc c.p.lanes
    ∃ t, exec ins s = .next t ∧ t.mem = s.mem ∧
      (fenceDone c.x f = true ∧ f.hostRead = 0 → Moved c t c.next ∧ (execOf t i.core).fences = c.x.fences ∧
        (kind ≠ .st ∧ (sc = .device ∨ sc = .system) → (execOf t i.core).l1 = [])) ∧
      (¬ (fenceDone c.x f = true ∧ f.hostRead = 0) → (execOf t i.core).fences = c.x.fences ++ [f] ∧
        ∀ l ∈ laneList c.p.lanes, LaneAt (c.seen t).g l c.next c.p.bar (.fence s.seqNo))) ∧
  (∀ (core id : Nat) (s : State) (f : FenceWait) (g : Group) (p : Path) (l : Nat),
    (execOf s core).fences.find? (fun x => x.id == id) = some f → fenceDone (execOf s core) f = true →
    f.hostRead ≠ 1 → f.hostRead ≠ 2 → alFind (execOf s core).groups f.slot = some g → p ∈ g.paths →
    p.stall = .fence id → p.lanes.getLsbD l = true →
    ∃ t g', exec (.fenceRelease core id) s = .next t ∧ t.mem = s.mem ∧ (∀ x ∈ (execOf t core).fences, x.id ≠ id) ∧
      alFind (execOf t core).groups f.slot = some g' ∧ LaneAt g' l p.pc p.bar .go ∧
      (f.kind ≠ .st ∧ (f.scope = .device ∨ f.scope = .system) → (execOf t core).l1 = []))

/-! ### Tile instructions, block conversion and scaling records (R112 to R120, R194 to R197, R204) -/

/-- TILE.DESC and TILE.BASE complete with the handle written under a new write number, and every other handle as before;
TILE.LD gives each lane its row's elements, and TILE.ST of whole-byte elements in shared local memory leaves a lane's row
packed at its place and every other byte as before (R194, R196, R197). -/
def Obligations.TileInstructionsComplete : Prop :=
  (∀ (i : Iss) (t u : Nat) (s s1 : State) (c : Ctx) (b : List Byte), Issues s i c [] [.u u, .u (u + 1)] [] →
    memReady c = true → c.act ≠ [] → readDesc (issued s i c) c u = (.ok b, s1) →
    ∃ r, exec (.tileDesc i t u) s = .next r ∧ Moved c r c.next ∧
      alFind (c.seen r).g.handles t = some { bytes := b, version := s1.seqNo } ∧
      ∀ k, k ≠ t → alFind (c.seen r).g.handles k = alFind c.g.handles k) ∧
  (∀ (i : Iss) (t u : Nat) (s : State) (c : Ctx) (h : Handle), Issues s i c [] [.u u, .u (u + 1), .t t] [] →
    c.act ≠ [] → alFind c.g.handles t = some h →
    ∃ r, exec (.tileBase i t u) s = .next r ∧ Moved c r c.next ∧ OnlyGroup s r i.core i.slot ∧ r.mem = s.mem ∧
      alFind (c.seen r).g.handles t = some { bytes := leBytes 8 (uReg64 c u) ++ h.bytes.drop 8, version := s.seqNo } ∧
      ∀ k, k ≠ t → alFind (c.seen r).g.handles k = alFind c.g.handles k) ∧
  (∀ (i : Iss) (part : Bool) (v n u : Nat) (row col : ImmU) (s s1 s2 : State) (c : Ctx) (b : List Byte)
      (rows : List (Nat × List Nat)),
    Issues s i c ((List.range n).map (v + ·)) [.u u, .u (u + 1)] [] → memReady c = true →
    readDesc (issued s i c) c u true = (.ok b, s1) →
    let d := resolveDesc c.b.task (descOf b)
    let rs := c.act.flatMap (fun l => (tileRanges d (immU c row + l) (immU c col) n).map (fun r => (r.1, r.2.1)))
    (d.fmt = 14 → s.units.testBit 2 = true) → slmOdd d.slm (elemBits d.fmt) (rs.map (·.1)) = false →
    mmaClash c.x c.slot d.slm rs = false → tileRowsRead c d (immU c row) (immU c col) n c.act s1 = (.ok rows, s2) →
    (part = true ∨ laneMask c.act = c.g.launch) →
    ∃ r, exec (.tileLd i part v n u row col) s = .next r ∧ Moved c r c.next ∧ rows.map (·.1) = c.act ∧
      (∀ e ∈ rows, ∀ k < n, vReg (c.seen r) (v + k) e.1 = BitVec.ofNat 32 (e.2.getD k 0)) ∧
      ∀ k l, l < 32 → (k < v ∨ v + n ≤ k) → vReg (c.seen r) k l = vReg c k l) ∧
  (∀ (i : Iss) (part : Bool) (v n u l : Nat) (row col : ImmU) (s s1 : State) (c : Ctx) (b : List Byte),
    Issues s i c [] ([.u u, .u (u + 1)] ++ (List.range n).map (fun k => .v (v + k))) [] → memReady c = true →
    readDesc (issued s i c) c u true = (.ok b, s1) → c.act = [l] → (part = true ∨ laneMask c.act = c.g.launch) →
    let d := resolveDesc c.b.task (descOf b)
    let w := elemBits d.fmt
    let a := d.base + (immU c row + l) * d.stride + immU c col * w / 8
    (d.fmt = 14 → s.units.testBit 2 = true) → d.slm = true → d.colMajor = false → 8 ≤ w → w % 8 = 0 → a % (w / 8) = 0 →
    mmaClash c.x c.slot true [(a, n * w / 8)] = false →
    a + n * w / 8 ≤ c.b.task.slmKib * 1024 →
    ∃ r b', exec (.tileSt i part v n u row col) s = .next r ∧ Moved c r c.next ∧ r.mem.mem = s.mem.mem ∧
      alFind (execOf r i.core).blocks c.g.block = some b' ∧
      slmRead b' a (n * w / 8) = packElems w ((List.range n).map (fun k => (vReg c (v + k) l).toNat)) ∧
      ∀ x, (x < a ∨ a + n * w / 8 ≤ x) → slmByte b' x = slmByte c.b x)

/-- The fault that reading descriptor `b` raises, in the order of Table 7.11: OPERAND_ALIGN, FORMAT_RESERVED where the
instruction takes the format from the descriptor (`fmt`), SCALE_RECORD, DESC_INVALID (R82, R100, R115, R131, R196). -/
def DescFaults (fmt : Bool) (b : List Byte) (f : DevFault) : Prop :=
  let d := descOf b
  let odd := badAlign (if fmt then d.fmt else 0) (if fmt then d.attr else 0) d d.turned
  let bad := fmt && !fmtValid d.fmt d.attr
  odd = true ∧ f = .operandAlign ∨ odd = false ∧ bad = true ∧ f = .formatReserved ∨
  odd = false ∧ bad = false ∧ d.record % 128 ≠ 0 ∧ f = .scaleRecord ∨
  odd = false ∧ bad = false ∧ d.record % 128 = 0 ∧ (descBad b = true ∨ fmt = true ∧ scaleStray d.fmt d.attr d = true) ∧
    f = .descInvalid

/-- The descriptor that a CVT.BLK reads fits it: no misalignment, the format and the arrays that it needs (R204). -/
def cvtFits (w : CvtBlk) (b : List Byte) (d : Desc) : Prop :=
  (blockSize w.fmt w.attr ≠ 0 → d.base % 128 = 0 ∧ d.scaleAddr % 16 = 0 ∧ d.scaleAddr ≠ 0) ∧ d.qualAddr % 16 = 0 ∧
  (w.q = true → d.qualAddr ≠ 0) ∧ (d.turned = true → d.base % 128 = 0 ∧ d.stride % 128 = 0) ∧ descBad b = false ∧ d.fmt = w.fmt ∧ d.attr = w.attr ∧
  fmtValid w.fmt w.attr = true ∧ 2 < w.fmt ∧ w.fmt ≠ 14 ∧ scaleStray w.fmt w.attr d = false ∧ (w.ds = false → d.record % 128 = 0)

/-- The tensor scale of a CVT.BLK is usable, its stores are permitted and aligned, the write buffer has room for them, and no
atomic on one of their lines is outstanding (R223). -/
def cvtStores (s : State) (c : Ctx) (w : CvtBlk) (d : Desc) (t : Word) (outl : List Nat) : Prop :=
  (needsT w.fmt w.attr = true → xIsZero (ofFp32 t) = false ∧ xIsFin (ofFp32 t) = true) ∧
  (∀ e ∈ (cvtBlocks c w d t outl (immU c w.blk)).flatMap (blkStores w d), opCanWrite s c e.1 e.2.1 e.2.2.length = none ∧
    (e.1 = false → ∀ q ∈ bytesIn s c.slot c.b.task.part c.b.task.tenant e.2.1 e.2.2,
      storeBusy (execOf s c.core) [q.target] = false)) ∧
  slmOdd d.slm (elemBits w.fmt) ((cvtBlocks c w d t outl (immU c w.blk)).map (·.elems.1)) = false ∧
  (execOf s c.core).wb.length + 12 ≤ 32

/-- CVT.BLK completes: without .DS, and for one block of 32 lanes, its packed elements stand in shared local memory and its
scale entry in the write buffer; with .DS and a record that is READY it queues one contribution to the record; with .DS and
a record that is EMPTY it starts the pre-pass at the aggregator of its region and waits (R112, R116, R120, R204). -/
def Obligations.BlockConversionCompletes : Prop :=
  ∀ (i : Iss) (w : CvtBlk) (s s1 : State) (c : Ctx) (b : List Byte),
    Issues s i c [] ([.u w.du, .u (w.du + 1), .v w.v] ++ (match w.blk with | .u n => [.u n] | _ => [])) [] →
    c.act ≠ [] → memReady c = true → uReg64 c w.du % 128 = 0 →
    descRead (issued s i c) c (uReg64 c w.du) = (.ok b, s1) →
    let d := resolveDesc c.b.task (descOf b)
    cvtFits w b d →
    (∀ t, (if w.ds = true then ∃ r s2, recAtIssue s1 c.b.task.tenant c.b.task.part d.record = (.ok r, s2) ∧ recState r = 2 ∧
          cvtStores s2 c w d (recScale r) (recOutl r) ∧ t = recScale r
        else cvtStores s1 c w d d.tscale [] ∧ t = d.tscale) →
      ∃ r, exec (.cvtBlk i w) s = .next r ∧ (c.seen r).g.srCount = c.g.srCount + b2n w.sr ∧ Moved c r c.next ∧
        r.mem.mem = s.mem.mem ∧
        (w.ds = false → (regionOf r (coreRegion i.core)).amax = (regionOf s (coreRegion i.core)).amax ∧
          (d.slm = true → blockSize w.fmt w.attr ≠ 16 → w.q = false →
            ∃ b', alFind (execOf r i.core).blocks c.g.block = some b' ∧
              let o := cvtOne c w d t [] (immU c w.blk) 0 32
              slmRead b' o.elems.1 o.elems.2.length = o.elems.2 ∧
              (blockSize w.fmt w.attr ≠ 0 → ∀ pa off, off + o.scale.2.length ≤ 128 → pa % 128 = 0 → off = o.scale.1 % 128 →
                translate s1 c.b.task.tenant o.scale.1 .w = some (.loc (pa + off)) →
                ∃ e ∈ (execOf r i.core).wb, e.target = .loc pa ∧ e.sent = false ∧
                  lineSlice e.data off o.scale.2.length = o.scale.2)))) ∧
    (∀ rc s2, w.ds = true → recAtIssue s1 c.b.task.tenant c.b.task.part d.record = (.ok rc, s2) →
      recState rc = 2 → cvtStores s2 c w d (recScale rc) (recOutl rc) →
      ∃ r, exec (.cvtBlk i w) s = .next r ∧ (regionOf r (coreRegion i.core)).amax = (regionOf s (coreRegion i.core)).amax ++
        [{ tenant := c.b.task.tenant, part := c.b.task.part, node := c.b.task.node, record := d.record,
           value := cvtAmax c w d (recOutl rc) (immU c w.blk),
           clips := (cvtBlocks c w d (recScale rc) (recOutl rc) (immU c w.blk)).flatMap (·.clips) }]) ∧
    (∀ rc s2 s3 s4 bs, w.ds = true → recAtIssue s1 c.b.task.tenant c.b.task.part d.record = (.ok rc, s2) →
      recState rc = 0 →
      agentRead s2 c.b.task.tenant c.b.task.part (recSrc rc).1 ((recSrc rc).2.1 * 128) .stream (nodeIsRt s2 c.b.task.node)
        (coreDie i.core) = (.ok bs, s3) →
      recWrite s3 c.b.task.tenant c.b.task.part d.record 16 [1] { die := coreDie i.core, node := c.b.task.node } = (.ok (), s4) →
      ∃ r, exec (.cvtBlk i w) s = .next r ∧ (c.seen r).g = c.g ∧
        (regionOf r (coreRegion i.core)).prepass = (regionOf s (coreRegion i.core)).prepass ++
          [{ tenant := c.b.task.tenant, part := c.b.task.part, record := d.record, core := i.core, slot := i.slot,
             node := c.b.task.node, scale := scaleFrom rc (extentAmax (recSrc rc).2.2 bs) }])

/-- AMAX.COMMIT on a record in device memory completes with the record committed at its home; while STATE reads PREPASS it
changes no group and waits. What the commit does, field by field: PENDING that is at least 0 enters the history at
HIST_IDX, HIST_IDX and HIST_N advance, PENDING becomes −1.0, STEP advances, a history that is not empty gives the scale and
READY, AUTO_OUTL takes over the clip log, and the clip log empties (R117). -/
def Obligations.AmaxCommitUpdatesTheRecord : Prop :=
  (∀ (i : Iss) (u : Nat) (s s1 : State) (c : Ctx) (b : List Byte) (pa : Nat), Issues s i c [] [.u u, .u (u + 1)] [] →
    c.act ≠ [] → memReady c = true → (c.p.released = true ∨ fenceFree c .st .device = true) → uReg64 c u % 128 = 0 →
    recRead (if c.p.released then issued s i c else markFence (issued s i c) c .device) c.b.task.tenant c.b.task.part (uReg64 c u) .a
      (nodeIsRt s c.b.task.node) = (.ok b, s1) → recBad b = false →
    (recState b ≠ 1 → translate s1 c.b.task.tenant (uReg64 c u) .a = some (.loc pa) → Homed s1 pa →
      ∃ r, exec (.amaxCommit i u) s = .next r ∧ Moved c r c.next ∧ r.mem.mem = s.mem.mem ∧
        lineSlice (homeLine r pa) 0 128 = commitRecord b) ∧
    (recState b = 1 → ∃ r, exec (.amaxCommit i u) s = .next r ∧ (c.seen r).g = c.g)) ∧
  ∀ b : List Byte, b.length = 128 → recBad b = false →
    let k := commitRecord b
    let held := pendingHeld (recPending b)
    recPending k = 0xBF800000 ∧ fieldAt k 28 4 = (fieldAt b 28 4 + 1) % 2 ^ 32 ∧ sliceBytes k 48 16 = List.replicate 16 0xFF ∧
    recHistN k = (if held then min (recHistN b + 1) (recHistLen b) else recHistN b) ∧
    recHistIdx k = (if held then (recHistIdx b + 1) % recHistLen b else recHistIdx b) ∧
    (∀ j < 16, recHist k j = if held = true ∧ j = recHistIdx b then recPending b else recHist b j) ∧
    (if recHistN k = 0 then recScale k = recScale b ∧ recState k = recState b
      else recState k = 2 ∧ recScale k = scaleFrom k (histAmax k)) ∧
    sliceBytes k 32 16 = (if bit (fieldAt b 15 1) 7 = true then sliceBytes b 48 16 else sliceBytes b 32 16) ∧
    k.take 16 = b.take 16

/-- The aggregator's contribution raises PENDING and merges the clip log at the record's home, and leaves its queue; a
pre-pass that ends writes STATE 2 and the scale that it found from the extent's largest magnitude, leaves the aggregator's list and
raises the event JIT_PREPASS (R116, R118, R120). -/
def Obligations.AggregatorUpdatesRecords : Prop :=
  (∀ (region index : Nat) (s s1 : State) (u : AmaxUpd) (b : List Byte) (pa : Nat),
    (regionOf s region).amax[index]? = some u → recRead s u.tenant u.part u.record .a (nodeIsRt s u.node) = (.ok b, s1) →
    u.record % 128 = 0 → translate s1 u.tenant u.record .a = some (.loc pa) → Homed s1 pa →
    ∃ r, exec (.amaxContribution region index) s = .next r ∧ r.mem.mem = s.mem.mem ∧
      (regionOf r region).amax = (regionOf s region).amax.eraseIdx index ∧
      lineSlice (homeLine r pa) 0 128 = contribute b u.value u.clips) ∧
  (∀ (region tenant record : Nat) (s s1 : State) (p : PrePass) (b : List Byte) (pa : Nat),
    (regionOf s region).prepass.find? (fun p => p.tenant == tenant && p.record == record) = some p →
    p.bad = none → recRead s tenant p.part record .r (nodeIsRt s p.node) = (.ok b, s1) → record % 128 = 0 →
    translate s1 tenant record .a = some (.loc pa) → Homed s1 pa → homeReady s1 pa p.part (nodeIsRt s1 p.node) = true →
    ∃ r, exec (.prepassComplete region tenant record) s = .next r ∧
      (regionOf r region).prepass = (regionOf s region).prepass.erase p ∧ eventSet r tenant gSV 3 = true ∧
      lineSlice (homeLine r pa) 16 8 = [2] ++ sliceBytes b 17 3 ++ leBytes 4 p.scale.toNat)

/-! ### The matrix array (chapters 02 and 04) -/

/-- The operands that a matrix instruction names in uniform registers. -/
def mmaUniforms (op : MmaOp) : List Opd :=
  [.t op.st, .t op.dt, .u op.tu, .u (op.tu + 1)] ++
    ((match op.shape with | .u n => [Opd.u n] | _ => []) ++ (match op.vorg with | .u n => [.u n, .u (n + 1)] | _ => []) ++
      (match op.beta with | .u n => [.u n] | _ => [])) ++ (match op.ct with | some n => [.t n] | none => [])

/-- A matrix instruction passes the checks of its issue (R46, R50, R82, R104, R143, R180, R196, R203): `s` is the state
once its stream descriptor is read, `s'` the state once its scales, its outlier list and its record are. -/
def mmaPasses (s s' : State) (c : Ctx) (op : MmaOp) (m : MmaPrep) (tRaw : List Byte) (ta : Word) : Prop :=
  let td := descOf tRaw
  let w := if op.transposed then m.d else m.n
  let red := if op.transposed then m.n else m.d
  let rs := readRanges op m td red w (laneMask c.act) (tileServes c op m).isNone (op.ct.isSome && !chains c op m)
  badAxis op m = false ∧ badFormat op = false ∧ descBad m.dRaw = false ∧ descBad m.cRaw = false ∧ m.noHandle = false ∧
  scaleStray op.oFmt 0 m.dd = false ∧ (op.ct.isSome = true → scaleStray op.oFmt 0 m.cd = false) ∧
  mmaOdd op m td w (laneMask c.act) = false ∧
  (m.d ≠ 0 → badAlign op.sFmt op.sAttr m.sd false = false ∧ badAlign op.tFmt op.tAttr td td.turned = false ∧
    badSource op true true m.sd td = false ∧ td.record % 128 = 0 ∧ badTile op m = false ∧ descBad tRaw = false ∧
    scaleStray op.tFmt op.tAttr td = false ∧ badTurnScale op.tFmt td (some ta) = false ∧
    (blockSize op.tFmt op.tAttr ≠ 0 → td.scaleAddr ≠ 0)) ∧
  (op.epi = true → ∃ x j, epiOf s c.core op.epiJob = some (x, j) ∧ j.closed = false ∧ epiFits op j w m.k = true) ∧
  (op.epi = false → ∀ r ∈ outRanges m.dd op.oFmt w m.k (laneMask c.act), opCanWrite s' c m.dd.slm r.1 r.2 = none) ∧
  (∀ r ∈ rs ++ sourceRanges op m td red (laneMask c.act) true, mmaClash c.x c.slot r.1 [r.2] = false) ∧
  rangesBusy s' c ((laterRanges op m td red (laneMask c.act)).filterMap (fun r => if r.1 then none else some r.2)) = false ∧
  ∀ r ∈ rs, r.1 = true → r.2.1 + r.2.2 ≤ c.b.task.slmKib * 1024

/-- The scales of a matrix instruction's operands, its outlier list and its amax record are read, and no record that it names
is misaligned or holds an invalid field (R113, R115, R119, R202). -/
def mmaScales (s s' : State) (c : Ctx) (op : MmaOp) (m : MmaPrep) (tRaw : List Byte) (ta tb : Word) (outl : List Nat) : Prop :=
  ∃ s3, (if op.amax = true then ∃ r, recAtIssue s3 c.b.task.tenant c.b.task.part m.dd.record = (.ok r, s') else s' = s3) ∧
    if m.d = 0 then s3 = s ∧ ta = 0 ∧ tb = 0 ∧ outl = []
    else ∃ s1 s2, tensorScale s c op.sFmt m.sd = (.ok (some tb), s1) ∧
      tensorScale s1 c op.tFmt (descOf tRaw) = (.ok (some ta), s2) ∧
      outlierList s2 c op m.d (if op.outlStream then descOf tRaw else m.sd) = (.ok outl, s3)

/-- A matrix instruction completes: with K = 0 its path moves on and nothing else changes (R68); otherwise, where the counts
of its tile do not already trigger an escalation, it enters the array behind the others with the operands that it has
read, and its path moves on, its destination unchanged until its last drain write (R48, R49, R106). -/
def Obligations.MatrixInstructionsEnterTheArray : Prop :=
  ∀ (i : Iss) (op : MmaOp) (s : State) (c : Ctx), ((op.sFmt ≠ 14 ∧ op.tFmt ≠ 14) ∨ f64Absent s = false) →
    Issues s i c [] (mmaUniforms op) [] →
    (∀ q ∈ c.x.mmas, q.phase = .drain) → (∀ l ∈ c.x.loads, l.slot ≠ c.slot) → badShape (mmaPrep c op) = false →
    (op.part = true ∨ laneMask c.act = c.g.launch) →
    let m := mmaPrep c op
    let m' := { m with sRaw := resolveBytes c.b.task m.sRaw, dRaw := resolveBytes c.b.task m.dRaw,
                       cRaw := resolveBytes c.b.task m.cRaw }
    (m.k = 0 → m.noHandle = false →
      ∃ r, exec (.mma i op) s = .next r ∧ Moved c r c.next ∧ OnlyCores s r ∧ OnlyGroup s r i.core i.slot ∧
        (execOf r i.core).mmas = c.x.mmas) ∧
    (0 < m.k → ∀ (b tRaw : List Byte) (s1 s2 s3 : State) (ta tb : Word) (outl : List Nat) (run : MmaRun) (tile : Option Tile),
      (if m.d = 0 then s1 = issued s i c ∧ tRaw = List.replicate 128 0
        else uReg64 c op.tu % 128 = 0 ∧ tRaw = resolveBytes c.b.task b ∧
          descRead (issued s i c) c (uReg64 c op.tu) = (.ok b, s1)) →
      mmaScales s1 s2 c op m' tRaw ta tb outl → mmaPasses s1 s2 c op m' tRaw ta →
      mmaRead s2 c op m' (descOf tRaw) tRaw ta tb outl = (.ok (run, tile), s3) →
      (run.phase = .stream → polEnables c.b.task.policy (mmaPacking op) = true →
        opTriggers c.b.task.policy run.tile.op.qClip run.tile.op.qFlush (fullElems run) = (false, false)) →
      ∃ r, exec (.mma i op) s = .next r ∧ Moved c r c.next ∧ (c.seen r).g.srCount = c.g.srCount + b2n op.sr ∧
        r.mem.mem = s.mem.mem ∧ (execOf r i.core).mmas.map (·.id) = c.x.mmas.map (·.id) ++ [run.id] ∧
        (run.need = [] → (∀ q ∈ c.x.mmas, q.need = []) → (execOf r i.core).mmas = c.x.mmas ++ [run]) ∧
        (run.width, run.depth, run.len) = (m.n, m.d, m.k) ∧ run.op = op ∧ run.dst = m'.dRaw ∧ run.lanes = laneMask c.act ∧
        run.phase = (if op.esc = true ∧ m.d ≠ 0 then .stream else .drain))

/-- What a matrix instruction in the array reads its sources as: its group's block and its own task, lanes and pc. -/
def escCtx (s : State) (core : Nat) (m : MmaRun) : Ctx :=
  let g := alGet {} (execOf s core).groups m.slot
  { core := core, slot := m.slot, x := execOf s core, g := g, b := { alGet {} (execOf s core).blocks g.block with task := m.task },
    p := { lanes := m.lanes, pc := m.pc }, act := laneList m.lanes, next := m.pc }

/-- The three later points of a matrix instruction. A turn unit that is filled and re-blocked goes to its consumers, and
its slot is free once the last has taken it (R126 to R130). After the stream the full operand counts are tested: below
the thresholds the original execution is kept; above them it is only observed under OBSERVE, and otherwise every
operand narrower than its step-up target is converted from its source with a tensor scale of 1 and the stepped-up
execution is kept, for which a turned source is read through turn units first (R105 to R107, R132). At its last drain
write the oldest instruction leaves the array and its destination in shared local memory holds the rounded row (R49,
R83). A first parity detection in the array marks the instruction for re-execution with its operands unchanged, and
one in the re-execution faults with MEM_POISON at the instruction, which leaves the array (R475, Table 17.1). -/
def Obligations.MatrixInstructionsRunToTheirEnd : Prop :=
  ((∀ (cluster slot core id : Nat) (s s1 : State) (t : TurnSlot) (o : Operand) (q : List (Nat × Nat))
        (sq : List (List Nat)),
      alFind (clusterOf s cluster).turns slot = some t → t.ready = false → t.consumers = [(core, id)] →
      fillUnit s (turnCtx s t) t = (.ok (o, q, sq), s1) →
      (∀ x ∈ (execOf s core).mmas, if x.id = id then x.need = [{ k := t.key.k, v := t.key.v }] else x.need = []) →
      let t' := { t with data := o, quals := q, srcQuals := sq, ready := true }
      ∃ r, exec (.turnUnitReady cluster slot) s = .next r ∧
        (clusterOf r cluster).turns = alDel (alPut (clusterOf s1 cluster).turns slot t') slot ∧
        (execOf r core).mmas = (execOf s core).mmas.map (fun x => if x.id = id then takeUnit t' x else x) ∧
        ∀ x ∈ (execOf r core).mmas, x.need = []) ∧
    (∀ (core id : Nat) (s : State) (m : MmaRun), (execOf s core).mmas.find? (fun m => m.id == id) = some m →
      m.phase = .stream → m.need = [] → m.trigClip = false → m.trigFlush = false → m.op.esc = true →
      polEnables m.task.policy (mmaPacking m.op) = true →
      let clip := m.tile.op.qClip + m.strm.qClip
      let flush := m.tile.op.qFlush + m.strm.qFlush
      let e := m.tile.op.qElems + m.strm.qElems
      let hit := decide (bits m.task.policy 11 0 * e < clip * 65536) || decide (bits m.task.policy 23 12 * e < flush * 65536)
      (hit = false ∨ polObserve m.task.policy = true →
        ∃ r m', exec (.escalationEval core id) s = .next r ∧ (execOf r core).mmas.find? (fun m => m.id == id) = some m' ∧
          m'.phase = .drain ∧ m'.opClip = clip ∧ m'.opFlush = flush ∧ m'.eOp = e ∧ m'.tile = m.tile ∧ m'.strm = m.strm ∧
          m'.escState = if hit = true then 2 else m.escState) ∧
      (hit = true → polObserve m.task.policy = false → m.escSrc = none →
        ¬ ((descOf m.stDesc).turned = true ∧ narrower (mmaPacking m.op) m.op.tFmt (descOf m.stDesc).srcFmt = true) →
        ∀ (src str : List (List Nat)) (s1 s2 : State),
        let p := mmaPacking m.op
        let sd := descOf m.tDesc
        let td := descOf m.stDesc
        let sN := narrower p m.op.sFmt sd.srcFmt
        let tN := narrower p m.op.tFmt td.srcFmt
        (if sN = true then srcStationary (escCtx s core m) sd m.depth m.width s = (.ok src, s1) else s1 = s) →
        (if tN = true then srcStream (escCtx s core m) td (redOf m) m.len m.vorg m.korg m.lanes s1 = (.ok str, s2) else s2 = s1) →
        let out (stream : Bool) : List Nat := if m.op.outl && m.op.outlStream == stream then m.outl else []
        ∃ r m', exec (.escalationEval core id) s = .next r ∧ (execOf r core).mmas.find? (fun m => m.id == id) = some m' ∧
          m'.phase = .drain ∧ m'.escState = 1 ∧ m'.escWhen = 1 ∧
          m'.tile = (if sN = true then stepTile m.tile (stepTarget p sd.srcFmt) sd.srcFmt (out false) src else m.tile) ∧
          m'.tb = (if sN = true then 0x3F800000 else m.tb) ∧
          m'.strm.elems = (if tN = true then (stepStream (stepTarget p td.srcFmt) td.srcFmt (out true) str).elems else m.strm.elems) ∧
          m'.strm.scales = (if tN = true then (stepStream (stepTarget p td.srcFmt) td.srcFmt (out true) str).scales else m.strm.scales) ∧
          m'.ta = (if tN = true then 0x3F800000 else m.ta)) ∧
      (hit = true → polObserve m.task.policy = false → m.escSrc = none → (descOf m.stDesc).turned = true →
        narrower (mmaPacking m.op) m.op.tFmt (descOf m.stDesc).srcFmt = true →
        ∃ r m', exec (.escalationEval core id) s = .next r ∧ (execOf r core).mmas.find? (fun m => m.id == id) = some m' ∧
          m'.phase = .stream ∧ m'.escSrc.isSome = true ∧ m'.opClip = clip ∧ m'.opFlush = flush ∧ m'.eOp = e)) ∧
    (∀ (core id : Nat) (s : State) (m : MmaRun) (rest : List MmaRun), (execOf s core).mmas = m :: rest → m.id = id →
      m.phase = .drain → m.need = [] →
      (m.op.epi = false → (descOf m.dst).slm = false → (execOf s core).wb.length + ((liveRows m).map (fun v => (rowIns s m (v, outRow m v)).length)).sum ≤ 32 ∧
        ∀ v ∈ liveRows m, ∀ w ∈ rowIns s m (v, outRow m v), storeBusy (execOf s core) [w.target] = false) →
      ∃ r, exec (.mmaDrainWrite core id) s = .next r ∧ (∀ q ∈ (execOf r core).mmas, q.id ≠ id) ∧ r.mem.mem = s.mem.mem ∧
        ∀ g b, m.op.epi = false → (descOf m.dst).slm = true → alFind (execOf s core).groups m.slot = some g →
          alFind (execOf s core).blocks g.block = some b → m.len = 1 → m.lanes.getLsbD 0 = true →
          let bytes := packElems (elemBits m.op.oFmt) ((outRow m 0).map (·.2.bits))
          ∃ b', alFind (execOf r core).blocks g.block = some b' ∧ slmRead b' (descOf m.dst).base bytes.length = bytes ∧
            ∀ x, (x < (descOf m.dst).base ∨ (descOf m.dst).base + bytes.length ≤ x) → slmByte b' x = slmByte b x)) ∧
  (∀ (core id row : Nat) (s : State) (m : MmaRun), (execOf s core).mmas.find? (fun m => m.id == id) = some m →
      (m.reexec = false →
        ∃ r, exec (.arrayParityReexec core id row) s = .next r ∧ r.mem.mem = s.mem.mem ∧
          (execOf r core).mmas = (execOf s core).mmas.map (fun x => if x.id = id then { x with reexec := true } else x)) ∧
      (m.reexec = true → ∀ g b n, alFind (execOf s core).groups m.slot = some g → alFind (execOf s core).blocks g.block = some b →
        alFind s.fe.nodes b.task.node = some n → n.fail = none →
        ∃ r n', exec (.arrayParityReexec core id row) s = .next r ∧ (∀ q ∈ (execOf r core).mmas, q.id ≠ id) ∧
          (execOf r core).blocks = alDel (execOf s core).blocks g.block ∧
          alFind r.fe.nodes b.task.node = some n' ∧
          n'.fail = some { status := .fault, fault := .memPoison, loc := locOf core, pc := m.pc, lanes := m.lanes.toNat, node := n.idx }))

/-! ### The stash, the epilogue engine, the bench's translation, marks and breakpoints -/

/-- What a uniform operand reads. -/
def immUse : ImmU → List Opd
  | .u n => [.u n]
  | .imm _ => []

/-- The stash instructions complete (R136 to R139, R205). STASH.OPEN leaves an OPEN entry and true within the reservation and
the directory, and a REFUSED entry and false beyond them; STASH.ST writes an OPEN entry; STASH.SEAL seals it; STASH.LD of a
SEALED entry reads its bytes with true, and of any other leaves its registers and gives false; STASH.FREE frees the tag, and
an entry that a job references stays without it. -/
def Obligations.StashInstructionsComplete : Prop :=
  (∀ (i : Iss) (stat : Bool) (p : Nat) (tag lines : ImmU) (s : State) (c : Ctx), Issues s i c [] (immUse tag ++ immUse lines) [] →
    c.act ≠ [] →
    let reg := coreRegion i.core
    let part := c.b.task.part
    let s1 := stashDrop (issued s i c) reg part (immU c tag)
    let ok : Bool := decide (stashUse (regionOf s1 reg) part + stageUse s1 reg part + immU c lines ≤ stashRoom s part ∧
      regionStash s1 reg + immU c lines ≤ 131072 ∧
      (regionOf s1 reg).stash.length < 4096 ∧ 1 ≤ immU c lines ∧ immU c lines ≤ 131072 ∧ immU c tag ≠ 0xFFFF ∧ immU c tag < 65536)
    ∃ r, exec (.stashOpen i stat p tag lines) s = .next r ∧ Moved c r c.next ∧ r.mem.mem = s.mem.mem ∧
      (∀ l ∈ c.act, predOf (c.seen r).g p l = ok) ∧
      alFind (regionOf r reg).stash (alFresh (regionOf s1 reg).stash) =
        some { part := part, tenant := c.b.task.tenant, tag := immU c tag, stat := stat, lines := immU c lines,
               st := if ok = true then .opened else .refused }) ∧
  (∀ (i : Iss) (size : Nat) (tag : ImmU) (off v : Opd) (s : State) (c : Ctx) (k l : Nat) (e : StashEntry),
    Issues s i c [] (immUse tag ++ [off] ++ spanOpds v size) [] →
    stashOf s (coreRegion i.core) c.b.task.part (immU c tag) = some (k, e) → c.act = [l] →
    (opdLane c off l).toNat + size ≤ e.lines * 128 → (opdBytes c v size l).length = size →
    (e.st = .opened → ∃ r e', exec (.stashSt i size tag off v) s = .next r ∧ Moved c r c.next ∧ r.mem = s.mem ∧
      alFind (regionOf r (coreRegion i.core)).stash k = some e' ∧ e'.st = .opened ∧ e'.lines = e.lines ∧
      (List.range size).map (fun j => alGet 0 e'.data ((opdLane c off l).toNat + j)) = opdBytes c v size l ∧
      ∀ x, (x < (opdLane c off l).toNat ∨ (opdLane c off l).toNat + size ≤ x) → alFind e'.data x = alFind e.data x) ∧
    (e.st ≠ .opened → ∃ r, exec (.stashSt i size tag off v) s = .next r ∧ Moved c r c.next ∧
      OnlyCores s r ∧ OnlyGroup s r i.core i.slot)) ∧
  (∀ (i : Iss) (tag : ImmU) (s : State) (c : Ctx) (k : Nat) (e : StashEntry), Issues s i c [] (immUse tag) [] → c.act ≠ [] →
    stashOf s (coreRegion i.core) c.b.task.part (immU c tag) = some (k, e) →
    (e.st = .opened → ∃ r, exec (.stashSeal i tag) s = .next r ∧ Moved c r c.next ∧ r.mem = s.mem ∧
      alFind (regionOf r (coreRegion i.core)).stash k = some { e with st := .sealed }) ∧
    (∃ r, exec (.stashFree i tag) s = .next r ∧ Moved c r c.next ∧ r.mem = s.mem ∧
      (regionOf r (coreRegion i.core)).stash = if e.refs = 0 then alDel (regionOf s (coreRegion i.core)).stash k
        else alPut (regionOf s (coreRegion i.core)).stash k { e with replaced := true })) ∧
  (∀ (i : Iss) (size p v : Nat) (tag : ImmU) (off : Opd) (s : State) (c : Ctx),
    Issues s i c ((List.range (max 1 (size / 4))).map (v + ·)) (immUse tag ++ [off]) [] → size ∈ [4, 8, 16] →
    (∀ k e, stashOf s (coreRegion i.core) c.b.task.part (immU c tag) = some (k, e) → e.st = .sealed →
      (∀ l ∈ c.act, (opdLane c off l).toNat + size ≤ e.lines * 128 ∧ stashBad e (opdLane c off l).toNat size = false) →
      ∃ r, exec (.stashLd i size p v tag off) s = .next r ∧ Moved c r c.next ∧ OnlyCores s r ∧ OnlyGroup s r i.core i.slot ∧
        (∀ l ∈ c.act, predOf (c.seen r).g p l = true) ∧
        ∀ l ∈ c.act, regBytes (c.seen r) v l size =
          (List.range size).map (fun j => stashByte (Config.fresh s.freeCtr) e ((opdLane c off l).toNat + j))) ∧
    ((∀ k e, stashOf s (coreRegion i.core) c.b.task.part (immU c tag) = some (k, e) → e.st ≠ .sealed) →
      ∃ r, exec (.stashLd i size p v tag off) s = .next r ∧ Moved c r c.next ∧ OnlyCores s r ∧ OnlyGroup s r i.core i.slot ∧
        (∀ l ∈ c.act, predOf (c.seen r).g p l = false) ∧ (c.seen r).g.regs = c.g.regs))

/-- A descriptor address that is not a multiple of 128 raises DESC_INVALID when TILE.DESC, TILE.LD or TILE.ST reads it,
and a descriptor that is misaligned or holds a field outside its stated values raises the fault that Table 7.11 puts
first; TILE.BASE of a handle that was not written since the block started raises HANDLE_INVALID (R194, R196). N
outside 1 to 32, K above 4,096, D above 64, and D above 32 with a dense tile raise ARRAY_SHAPE at issue and write
nothing (R46). A STASH.ST or STASH.LD beyond the entry's length raises STASH_RANGE and writes nothing (R205). -/
def Obligations.MisusedDescriptorsFault : Prop :=
  ((∀ (i : Iss) (part : Bool) (t v n u : Nat) (row col : ImmU) (s : State) (c : Ctx), memReady c = true →
      uReg64 c u % 128 ≠ 0 →
      (Issues s i c [] [.u u, .u (u + 1)] [] → c.act ≠ [] →
        ∃ r, exec (.tileDesc i t u) s = .next r ∧ Faulted c s r .descInvalid) ∧
      (Issues s i c ((List.range n).map (v + ·)) [.u u, .u (u + 1)] [] →
        ∃ r, exec (.tileLd i part v n u row col) s = .next r ∧ Faulted c s r .descInvalid) ∧
      (Issues s i c [] ([.u u, .u (u + 1)] ++ (List.range n).map (fun k => .v (v + k))) [] →
        ∃ r, exec (.tileSt i part v n u row col) s = .next r ∧ Faulted c s r .descInvalid)) ∧
    (∀ (i : Iss) (part : Bool) (t v n u : Nat) (row col : ImmU) (s s1 : State) (c : Ctx) (b : List Byte) (f : DevFault),
      memReady c = true → uReg64 c u % 128 = 0 →
      descRead (issued s i c) c (uReg64 c u) = (.ok b, s1) →
      (Issues s i c [] [.u u, .u (u + 1)] [] → c.act ≠ [] → DescFaults false b f →
        ∃ r, exec (.tileDesc i t u) s = .next r ∧ Faulted c s r f) ∧
      (Issues s i c ((List.range n).map (v + ·)) [.u u, .u (u + 1)] [] → DescFaults true b f →
        ∃ r, exec (.tileLd i part v n u row col) s = .next r ∧ Faulted c s r f) ∧
      (Issues s i c [] ([.u u, .u (u + 1)] ++ (List.range n).map (fun k => .v (v + k))) [] → DescFaults true b f →
        ∃ r, exec (.tileSt i part v n u row col) s = .next r ∧ Faulted c s r f)) ∧
    (∀ (i : Iss) (t u : Nat) (s : State) (c : Ctx), Issues s i c [] [.u u, .u (u + 1), .t t] [] → c.act ≠ [] →
      alFind c.g.handles t = none →
      ∃ r, exec (.tileBase i t u) s = .next r ∧ Faulted c s r .handleInvalid)) ∧
  (∀ (i : Iss) (op : MmaOp) (s : State) (c : Ctx), ((op.sFmt ≠ 14 ∧ op.tFmt ≠ 14) ∨ f64Absent s = false) →
      Issues s i c [] (mmaUniforms op) [] →
      (∀ q ∈ c.x.mmas, q.phase = .drain) → (∀ l ∈ c.x.loads, l.slot ≠ c.slot) →
      ((immU c op.shape) / 2 ^ 20 % 64 = 0 ∨ 32 < (immU c op.shape) / 2 ^ 20 % 64 ∨ 64 < (immU c op.shape) / 2 ^ 13 % 128 ∨
        4096 < (immU c op.shape) % 2 ^ 13 ∨ (32 < (immU c op.shape) / 2 ^ 13 % 128 ∧ (mmaPrep c op).hasS = true ∧ (mmaPrep c op).sd.sparse = false)) →
      ∃ r, exec (.mma i op) s = .next r ∧ r.mem.mem = s.mem.mem ∧ Faulted c s r .arrayShape) ∧
  (∀ (i : Iss) (size p v : Nat) (tag : ImmU) (off w : Opd) (s : State) (c : Ctx) (k : Nat) (e : StashEntry),
      stashOf s (coreRegion i.core) c.b.task.part (immU c tag) = some (k, e) →
      (∃ l ∈ c.act, e.lines * 128 < (opdLane c off l).toNat + size) →
      (Issues s i c [] (immUse tag ++ [off] ++ spanOpds w size) [] →
        ∃ r, exec (.stashSt i size tag off w) s = .next r ∧ r.regions = s.regions ∧ Faulted c s r .stashRange) ∧
      (e.st = .sealed → Issues s i c ((List.range (max 1 (size / 4))).map (v + ·)) (immUse tag ++ [off]) [] →
        ∃ r, exec (.stashLd i size p v tag off) s = .next r ∧ r.regions = s.regions ∧ Faulted c s r .stashRange))

/-- Epilogue jobs: EPI.OPEN opens a job with true, declines one whose WIDTH exceeds 65,536, or on a part without engines, with
false, and faults on a misaligned or broken descriptor (R141, R142); a job that has closed writes its stage where that is not in the stash, its rows, and RESULT last, and its
context is free once its writes have been acknowledged (R138, R142, R145); EPI.WAIT then completes as a FENCE.LD of device scope, at
once and with the L1 empty where it covers nothing outstanding, and waits while the job is open (R235). -/
def Obligations.EpilogueJobsComplete : Prop :=
  (∀ (i : Iss) (job p u : Nat) (s s1 : State) (c : Ctx) (b : List Byte), Issues s i c [] [.u u, .u (u + 1)] [] → c.act ≠ [] →
    memReady c = true → uReg64 c u % 128 = 0 →
    descRead (issued s i c) c (uReg64 c u) = (.ok b, s1) →
    (epiBad b = false → fieldAt b 8 4 ≤ 65536 → s.units.testBit 0 = true → epiOf s c.core job = none →
      ∃ r x, exec (.epiOpen i job p u) s = .next r ∧ Moved c r c.next ∧ (∀ l ∈ c.act, predOf (c.seen r).g p l = true) ∧
        alFind (clusterOf r (coreCluster i.core)).epi x = some (epiJobOf s1 c job (uReg64 c u) s1.seqNo b)) ∧
    (epiBad b = false → (65536 < fieldAt b 8 4 ∨ s.units.testBit 0 = false) →
      ∃ r, exec (.epiOpen i job p u) s = .next r ∧ Moved c r c.next ∧ (∀ l ∈ c.act, predOf (c.seen r).g p l = false) ∧
        (clusterOf r (coreCluster i.core)).epi = (clusterOf s (coreCluster i.core)).epi) ∧
    (epiBad b = true → ∃ r, exec (.epiOpen i job p u) s = .next r ∧ Faulted c s r .epiDescriptor)) ∧
  (∀ (cluster ctx pa : Nat) (s s1 s2 s3 s4 : State) (j : EpiJob) (xs : List (List Byte)) (st : List (Option (XVal × XVal)))
      (g : List Byte), alFind (clusterOf s cluster).epi ctx = some j → j.closed = true → j.saved = false → j.phase = 0 → j.out = [] →
    let e : Issuer := { die := cluster / 24, node := j.task.node, id := j.eid }
    let j1 := { j with phase := 1, out := engineCuts (stageRows j) }
    (engineWrites (putEpi s cluster ctx j1) j.task e j1.out = ([], .ok (), s1)) →
    (epiSources { s1 with freeCtr := s1.freeCtr + 1 } (cluster / 6) { j1 with out := [] } (Config.fresh s1.freeCtr) =
      (.ok (xs, st, g), s2)) →
    let o := epiOutputs { j1 with out := [] } xs st g
    let j2 := { j1 with phase := 2, out := engineCuts o.1 }
    (engineWrites (putEpi (bump (bump s2 j.task.tenant 0x60138 o.2.1) j.task.tenant 0x60140 o.2.2) cluster ctx j2) j.task e j2.out =
      ([], .ok (), s3)) → engineOut s3 .engine j.eid = 0 →
    let result := (if j.statEntry.isSome then 1 else if j.statsAddr ≠ 0 then 2 else 0) + 4 * b2n (j.xEntry.isSome && !j.zDrain) +
      8 * b2n j.stageInStash + 16 * b2n j.bad
    let j3 := { j2 with phase := 3, out := [(j.desc + 80, leBytes 8 result)] }
    (engineWrites (putEpi s3 cluster ctx j3) j.task e j3.out = ([], .ok (), s4)) → engineOut s4 .engine j.eid = 0 →
    ∃ r, exec (.epiJobComplete cluster ctx) s = .next r ∧
      (clusterOf r cluster).epi = alDel (clusterOf s4 cluster).epi ctx ∧
      (j.desc % 128 = 0 → translate s3 j.task.tenant (j.desc + 80) .w = some (.loc (pa + 80)) → pa % 128 = 0 → Homed s3 pa →
        lineSlice (homeLine r pa) 80 8 = leBytes 8 result)) ∧
  (∀ (i : Iss) (job : Nat) (s : State) (c : Ctx), Issues s i c [] [] [] → c.act ≠ [] →
    (epiOf s c.core job = none →
      let f := fenceFor c s.seqNo .ld .device c.p.lanes
      ∃ r, exec (.epiWait i job) s = .next r ∧ r.mem = s.mem ∧
        (fenceDone c.x f = true → Moved c r c.next ∧ (execOf r i.core).l1 = []) ∧
        (fenceDone c.x f = false → (execOf r i.core).fences = c.x.fences ++ [f] ∧
          ∀ l ∈ laneList c.p.lanes, LaneAt (c.seen r).g l c.next c.p.bar (.fence s.seqNo))) ∧
    (epiOf s c.core job ≠ none → ∃ r, exec (.epiWait i job) s = .next r ∧ (c.seen r).g = c.g))

/-- BENCH.XLAT gives each lane the address of its token in the pool of the task's partition, and true, or 0 and false for
an empty slot and for a token beyond the sequence's pages (R424); TRACE.MARK completes, and where its type is traced
and its tenant is in the debug scope it adds one record to the trace source of its core (R517). BRK at level 2 within
the debug scope stops its group at its native instruction, and outside it raises MEM_ACCESS (R215, R512); the
sequencer's broadcast gives the line to every subscriber of its cluster and leaves the queue (R213). -/
def Obligations.BenchAddressesMarksAndBreakpoints : Prop :=
  ((∀ (i : Iss) (p d : Nat) (slot token : Opd) (s : State) (c : Ctx), Issues s i c [d, d + 1] [slot, token] [] →
      ∃ r, exec (.benchXlat i p (.v d) slot token) s = .next r ∧ Moved c r c.next ∧ r.mem = s.mem ∧ r.pools = s.pools ∧
        OnlyGroup s r i.core i.slot ∧
        ∀ l ∈ c.act,
          (∀ q k e, alFind s.pools c.b.task.part = some q → q.seqs.find? (fun e => e.2.slot == (opdLane c slot l).toNat) = some (k, e) →
            (opdLane c token l).toNat < e.pages.length * q.tpp →
            let t := (opdLane c token l).toNat
            let a := q.base + e.pages.getD (t / q.tpp) 0 * 65536 + t % q.tpp * (65536 / q.tpp)
            vReg (c.seen r) d l = BitVec.ofNat 32 a ∧ vReg (c.seen r) (d + 1) l = BitVec.ofNat 32 (a / 2 ^ 32) ∧
              predOf (c.seen r).g p l = true) ∧
          ((∀ q k e, alFind s.pools c.b.task.part = some q → q.seqs.find? (fun e => e.2.slot == (opdLane c slot l).toNat) = some (k, e) →
              e.pages.length * q.tpp ≤ (opdLane c token l).toNat) →
            vReg (c.seen r) d l = 0 ∧ vReg (c.seen r) (d + 1) l = 0 ∧ predOf (c.seen r).g p l = false)) ∧
    (∀ (i : Iss) (id : ImmU) (a : Opd) (s : State) (c : Ctx), Issues s i c [] (immUse id) [a] →
      ∃ r, exec (.traceMark i id a) s = .next r ∧ Moved c r c.next ∧ OnlyCores s r ∧ OnlyGroup s r i.core i.slot ∧
        (∀ l, c.act.head? = some l → traceOn s 5 = true → inScope s c.b.task.tenant = true →
          (alGet {} s.dbg.sources0 (locOf i.core)).dropped = 0 → (alGet {} s.dbg.sources0 (locOf i.core)).fifo.length < 64 →
          (alGet {} r.dbg.sources0 (locOf i.core)).fifo = (alGet {} s.dbg.sources0 (locOf i.core)).fifo ++
            [[5, 0, locOf i.core, c.b.task.tenant, 96 * s.time, (opdLane64 c a l).toNat,
              c.p.pc + immU c id % 65536 * 2 ^ 32 + c.slot * 2 ^ 48]]) ∧
        ((c.act = [] ∨ traceOn s 5 = false ∨ traceOn s 10 = false ∧ inScope s c.b.task.tenant = false) →
          r.dbg.sources0 = s.dbg.sources0))) ∧
  ((∀ (core slot npc : Nat) (s : State) (c : Ctx),
      issue s { core := core, slot := slot, guarded := false, negated := false, guard := 0, nx := 0 } = some c →
      npc ∈ nativeSpan c.b.task c.p.pc → isBrk c.x c.b.task.image npc = true →
      (c.b.task.image, c.b.task.variant, npc / 64) ∈ c.x.istore →
      (s.dbg.level = 2 ∧ inScope s c.b.task.tenant = true →
        ∃ r g, exec (.brk core slot npc) s = .next r ∧ alFind (execOf r core).groups slot = some g ∧ g.stop = .brk npc ∧
          g.paths = c.g.paths ∧ g.regs = c.g.regs ∧
          (bit s.dbg.brkHit 41 = true → r.dbg.brkHeld = s.dbg.brkHeld ++ [(core, slot, npc)])) ∧
      (¬ (s.dbg.level = 2 ∧ inScope s c.b.task.tenant = true) →
        ∃ r, exec (.brk core slot npc) s = .next r ∧ Faulted c s r .memAccess)) ∧
    (∀ (cluster core : Nat) (s : State) (l : Nat × Nat × Nat) (rest : List (Nat × Nat × Nat)),
      (clusterOf s cluster).requests = l :: rest → core / 8 = cluster →
      (∃ t ∈ (execOf s core).subs, t.1 = l.1 ∧ t.2.2 = l.2.1) →
      (clusterOf s cluster).power ≠ .retention → (clusterOf s cluster).wakeAt ≤ s.time →
      ∃ r, exec (.sequencerLineBroadcast cluster) s = .next r ∧ r.mem = s.mem ∧ l ∈ (execOf r core).istore ∧
        l ∉ (clusterOf r cluster).requests ∧ l ∈ (clusterOf r cluster).codeLines))

/-! ### Submission: doorbells, the fetcher, slots, jobs and graphs (R344 to R358, R368) -/

/-- A fetcher pass (R345, R346, R348). A wake-up reads TAIL. When TAIL - HEAD lies above the ring's size the fetcher
stops and RING_OVERRUN is raised; it then fetches nothing, whatever wakes it, until RING_CONFIG configures the ring
again. Otherwise the pass begins, and one whose entries are consumed writes HEAD, sleeps, and reads TAIL once more. A read of
TAIL that ends in a fault ends the pass (R579). -/
def Obligations.FetcherStopsOnOverrun : Prop :=
  (∀ (fn : Nat) (s s1 : State), fn < 1024 → (fnOf s fn).ring.configured = true → (fnOf s fn).ring.overrun = false →
    frontStopped s = false → fetchTurn s fn = true → (fnOf s fn).ring.faultDue = false → (fnOf s fn).ring.tailDue = false →
    (∀ x, (fnOf s fn).ring.awake = false → (fnOf s fn).ring.woken = true →
      readTail (modRing s fn (fun r => { r with awake := true, pend := false, woken := false, tail := none, tailDue := false })) fn
        (fnOf s fn).ring.ctrl = (x, s1) →
      ∃ r, exec (.fetcherPass fn) s = .next r ∧ r.mem = s.mem ∧ (fnOf r fn).ring.pend = false ∧
        (fnOf r fn).ring.head = (fnOf s fn).ring.head ∧
        (∀ t, x = .ok t → (fnOf r fn).ring.dbTime = none ∧ (fnOf r fn).ring.awake = true ∧
          if 2 ^ (fnOf s fn).ring.sizeLog2 < (t + 2 ^ 32 - (fnOf s fn).ring.head) % 2 ^ 32
          then (fnOf r fn).ring.overrun = true ∧ (fnOf r fn).ring.tail = none ∧ eventSet r fn gFE 6 = true
          else (fnOf r fn).ring.tail = some t) ∧
        (∀ e, x = .fault e → (writeHead s1 fn).1 ≠ .wait →
          (fnOf r fn).ring.awake = false ∧ (fnOf r fn).ring.tail = none ∧ eventSet r fn gFE 8 = true)) ∧
    (∀ x y s2, (fnOf s fn).ring.awake = true → (fnOf s fn).ring.tail = some (fnOf s fn).ring.head → (fnOf s fn).ring.pend = false →
      writeHead s fn = (y, s1) → y ≠ .wait →
      readTail (modRing s1 fn (fun r => { r with awake := false, tail := none, headDue := false, tailDue := true })) fn
        (fnOf s fn).ring.ctrl = (x, s2) →
      ∃ r, exec (.fetcherPass fn) s = .next r ∧ r.mem = s.mem ∧
        (x = .ok (fnOf s fn).ring.head →
          (fnOf r fn).ring.awake = false ∧ (fnOf r fn).ring.tail = none ∧ (fnOf r fn).ring.tailDue = false) ∧
        (∀ e, x = .fault e → (writeHead s2 fn).1 ≠ .wait →
          (fnOf r fn).ring.awake = false ∧ (fnOf r fn).ring.tail = none ∧ eventSet r fn gFE 8 = true))) ∧
  (∀ (fn : Nat) (s : State), (fnOf s fn).ring.overrun = true → (fnOf s fn).ring.tail = none →
    exec (.fetcherPass fn) s = .next s ∧ exec (.ringEntryAccept fn) s = .next s) ∧
  (∀ (f : Nat) (x : Acc Nat) (r : Req) (s s1 s2 : State), Carries s f 0x0100 r s1 → r.f 0 8 % 4096 = 0 → 6 ≤ r.f 8 1 →
    r.f 8 1 ≤ 16 → r.f 16 8 % 64 = 0 → readTail s1 f (r.f 16 8) = (x, s2) →
    ∃ t, exec .ringConfig s = .next t ∧
      if (match x with | .ok _ => true | _ => false) = true
      then (fnOf t f).ring.overrun = false ∧ (fnOf t f).ring.configured = true ∧ x = .ok (fnOf t f).ring.head
      else (fnOf t f).ring = (fnOf s f).ring)

/-- Doorbells and the consumer count: DB_RING sets pending, and wakes a sleeping fetcher; DB_COMPL and the 100 µs poll
make a queue that waits after a full ring read its consumer count and go on when it leaves room (R344, R345, R368).
The ring entry at HEAD is consumed: one that names an existing queue of its function with room joins that queue behind
its other entries, in the package's order of acceptance; a reserved entry is skipped with RING_ENTRY_INVALID; a NOP is
skipped; HEAD moves on by one (R347). A read of the host that ends in a fault puts the fetcher to sleep with
RING_ACCESS_FAULT (R579). -/
def Obligations.DoorbellsAndRingEntries : Prop :=
  ((∀ (fn : Nat) (posted : Posted) (s : State), HostMay s fn → fn < 1024 → (fnOf s fn).ring.configured = true →
      frontStopped s = false →
      ∃ t, exec (.dbRing fn posted) s = .next t ∧ t.mem = s.mem ∧ t.fe = s.fe ∧ t.cores = s.cores ∧
        (fnOf t fn).ring = { (fnOf s fn).ring with
          pend := true, woken := (fnOf s fn).ring.woken || !(fnOf s fn).ring.awake,
          dbTime := some ((fnOf s fn).ring.dbTime.getD s.time) } ∧
        ∀ k, k ≠ fn → fnOf t k = fnOf s k) ∧
    (∀ (fn qi : Nat) (posted : Posted) (s s1 : State) (q q1 : Queue), frontStopped s = false →
      alFind s.fe.queues qi = some q → q.reason = .ringFull → readConsumer (postHost s posted) qi q = (.ok (), s1) →
      alFind s1.fe.queues qi = some q1 →
      (HostMay s fn → fn < 1024 → s.fe.queues.filter (fun e => e.2.fn == fn) = [(qi, q)] →
        ∃ t, exec (.dbCompl fn posted) s = .next t ∧ t.mem.mem = s.mem.mem ∧
          alFind t.fe.queues qi = some (if ringRoom q1 = true then { q1 with reason := .none } else q1)) ∧
      (q.polled + 10000 ≤ s.time →
        ∃ t, exec (.consumerCountPoll qi posted) s = .next t ∧ t.mem.mem = s.mem.mem ∧
        alFind t.fe.queues qi = some (if ringRoom q1 = true then { q1 with reason := .none } else q1)))) ∧
  (∀ (fn t a : Nat) (x : Acc (List Byte)) (s s1 s2 : State), (fnOf s fn).ring.configured = true → (fnOf s fn).ring.awake = true →
      (fnOf s fn).ring.tail = some t → t ≠ (fnOf s fn).ring.head → (fnOf s fn).ring.headDue = false →
      (fnOf s fn).ring.faultDue = false → (fnOf s fn).ring.entry = none → fetchTurn s fn = true →
      hostXlat s fn none ((fnOf s fn).ring.base + 32 * ((fnOf s fn).ring.head % 2 ^ (fnOf s fn).ring.sizeLog2)) false = (.ok a, s1) →
      hostBytes s1 a 32 = (x, s2) →
      ∃ r, exec (.ringEntryAccept fn) s = .next r ∧ r.mem = s.mem ∧
        (∀ e, x = .fault e → (writeHead s2 fn).1 ≠ .wait →
          (fnOf r fn).ring.awake = false ∧ (fnOf r fn).ring.tail = none ∧ eventSet r fn gFE 8 = true ∧ r.fe = s.fe) ∧
        ∀ e, x = .ok e →
          (entryBad s fn e = true → r.fe = s.fe ∧ eventSet r fn gFE 7 = true ∧
            (fnOf r fn).ring.head = ((fnOf s fn).ring.head + 1) % 2 ^ 32) ∧
          (entryBad s fn e = false → fieldAt e 2 1 = 0 →
            r.fe = s.fe ∧ (fnOf r fn).ring.head = ((fnOf s fn).ring.head + 1) % 2 ^ 32) ∧
          (entryBad s fn e = false → fieldAt e 2 1 = 1 → ∀ q, alFind s.fe.queues (fieldAt e 0 2) = some q →
            q.entries.length < 64 → acceptedTotal s < 32768 →
            (fnOf r fn).ring.head = ((fnOf s fn).ring.head + 1) % 2 ^ 32 ∧ r.fe.nextOrder = s.fe.nextOrder + 1 ∧
            ∃ q', alFind r.fe.queues (fieldAt e 0 2) = some q' ∧
              q'.entries = q.entries ++ [{
                graphLen := fieldAt e 4 4, graphAddr := fieldAt e 8 8, jobTag := fieldAt e 16 8, irq := bit (fieldAt e 3 1) 0,
                time := s.time, order := s.fe.nextOrder, db := (fnOf s fn).ring.passDb.getD s.time }] ∧
              q'.st = (if q.st = .idle then .waitSlot else q.st) ∧ q'.prod = q.prod ∧ q'.log = q.log ∧ q'.job = q.job))

/-- Slots and jobs: the waiting queue that is next by class and age takes the slot of its class and becomes ACTIVE; the
next job of an ACTIVE queue starts with its oldest entry (R350 to R352). The parse of a started job whose graph is one
node without extension edges: the graph buffer is read once, the header's fields become the job's, and the node
becomes resident with its descriptor, failing at once when its descriptor is invalid, a flag is not granted or a unit
is absent (R353 to R359, R397). -/
def Obligations.SlotsJobsAndGraphs : Prop :=
  ((∀ (queue k : Nat) (s : State) (q : Queue), alFind s.fe.queues queue = some q → nextForSlot s = some queue →
      q.st = .waitSlot → frontStopped s = false → slotFor s q.cls = some k →
      ∃ t, exec (.slotAssign queue) s = .next t ∧ t.cores = s.cores ∧ t.mem = s.mem ∧
        alFind t.fe.queues queue = some { q with slot := some k, st := .active } ∧
        (∀ j, j ≠ queue → alFind t.fe.queues j = alFind s.fe.queues j) ∧ k < 128 ∧ ∀ e ∈ s.fe.queues, e.2.slot ≠ some k) ∧
    (∀ (queue part : Nat) (s : State) (q : Queue) (e : RingEntry) (rest : List RingEntry), alFind s.fe.queues queue = some q →
      q.st = .active → q.job = none → q.entries = e :: rest → frontStopped s = false → partOf s q.fn = some part →
      ∃ t, exec (.jobStart queue) s = .next t ∧ t.cores = s.cores ∧ t.mem = s.mem ∧
        alFind t.fe.queues queue = some { q with job := some s.fe.nextJob } ∧ t.fe.nextJob = s.fe.nextJob + 1 ∧
        alFind t.fe.jobs s.fe.nextJob = some {
          queue := queue, fn := q.fn, tenant := q.fn, part := part, entry := e, graphAddr := e.graphAddr, graphLen := e.graphLen, pre := prefetched q e,
          refOff := e.resumed || e.noRef, lateEarly := e.late })) ∧
  (∀ (queue k : Nat) (s s1 : State) (q : Queue) (j : Job) (b : List Byte) (shared : Bool),
      alFind s.fe.queues queue = some q → q.job = some k → alFind s.fe.jobs k = some j → j.fail = none → entryHeld s j = false →
      parseTurn s queue q = true → j.phase = .started → j.nextNode = 0 → j.doneNodes = [] → graphRefBad j.graphAddr j.graphLen = false →
      readGraph s j = (.ok b, s1) → headerBad (b.take 64) j.graphLen (q.cls == .rt) = false → fieldAt b 6 2 = 1 → 192 ≤ b.length →
      fieldAt b 72 2 = 0 → nodeRoom s k = some shared →
      ∃ t j' x, exec (.graphParse queue) s = .next t ∧ t.mem.mem = s.mem.mem ∧ alFind t.fe.jobs k = some j' ∧ j'.phase = .parsing ∧
        j'.nodes = 1 ∧ j'.nextNode = 1 ∧ j'.budgetUs = (if q.cls = .rt then fieldAt b 20 4 else 0) ∧
        alFind t.fe.nodes s.fe.nextNode = some x ∧ x.job = k ∧ x.queue = j.queue ∧ x.tenant = j.tenant ∧ x.part = j.part ∧
        x.idx = 0 ∧ x.desc = sliceBytes b 64 128 ∧ x.shared = shared ∧
        x.fail = parseFail s j.tenant (sliceBytes b 64 128) 0 [] (fieldAt b 16 4) ∧
        x.phase = (if x.fail = none then .parsed else .finished))

/-! ### Scheduling: placement, pre-emption, dispatch, completion (R364 to R374, R385 to R394) -/

/-- The placement of jobs: the first waiting job of a partition takes the lowest-indexed free ordinary cores of its tenant's
number, where no RT job can be placed (R387, R395); an RT job takes the reserve cores, and ordinary ones where they are too few, a free core at once and a core
that another job holds by pre-emption (R390). -/
def Obligations.JobsArePlaced : Prop :=
  (∀ (part k : Nat) (s : State) (j : Job) (tn : Tenant),
    firstJob s ((waitingJobs s part).filter (fun e => jobClass s e.2 != .rt)) = some (k, j) →
    alFind s.fe.jobs k = some j → alFind s.sched.tenants j.tenant = some tn → j.phase = .parsing →
    j.doneNodes.length < j.nodes → placeTurn s = true →
    let ord := ordinaryCores s part
    let n := min tn.coresMax ord.length
    let free := (ord.filter (coreFree s)).take n
    0 < n → free.length = n →
    ∃ t, exec (.jobPlace part) s = .next t ∧ t.mem = s.mem ∧ alFind t.fe.jobs k = some { j with phase := .placed, cores := free } ∧
      (∀ c ∈ free, (coreOf t c).owner = some k) ∧ ∀ c, c ∉ free → coreOf t c = coreOf s c) ∧
  (∀ (part k : Nat) (s s1 : State) (j : Job) (q : Queue),
    (∀ e ∈ s.fe.jobs, e.2.part = part → jobClass s e.2 = .rt → e.2.phase ≠ .placed) →
    firstJob s ((waitingJobs s part).filter (fun e => jobClass s e.2 == .rt)) = some (k, j) →
    alFind s.fe.jobs k = some j → alFind s.fe.queues j.queue = some q → j.phase = .parsing → checkSubst s k j = (false, s1) →
    let res := reserveCores s part
    let n := min q.rtCores (partCores s part).length
    let cs := if n ≤ res.length then res.take n else res ++ takeOrdinary s (ordinaryCores s part) (n - res.length)
    0 < n → n ≤ cs.length → cs.Nodup →
    ∃ t j', exec (.rtJobPlace part) s = .next t ∧ alFind t.fe.jobs k = some j' ∧ j'.phase = .placed ∧ j'.cores = cs ∧
      j'.fits = decide (n ≤ res.length) ∧ j'.preempted = (cs.filter (fun c => (coreOf s c).owner.isSome)).length ∧
      (j.budgetUs = 0 → ∀ c ∈ cs, (coreOf s c).hold = .free →
        if (coreOf s c).owner = none then (coreOf t c).owner = some k ∧ (coreOf t c).hold = .free
        else (coreOf t c).hold = .chosen k))

/-- In strict isolation mode the scrub for a new tenant marks the partition as served by it, and leaves none of the
partition's lines in its slices' ways, no side-buffer entry and no L1 line of its cores (R273). Pre-emption: a turn
hands chosen cores without resident blocks over at once and saves at most 16 others (R391); a save that completes,
once the array, the write buffer and the local accesses that a fence waits for have ended, lets the waiting fences end
(R244), keeps the context, parks the core's remote tags and lends the core (R392, R393); a parked tag's response goes
to the saved context; after the RT job's record the context goes back to its core (R394). A core reset ends when its
write buffer has drained, or after 10 µs: the core is clear, its task counts what was discarded, and the functions of
the discarded entries' tenants have WRITES_DISCARDED (R463). -/
def Obligations.CoresAreScrubbedSavedAndReset : Prop :=
  (∀ (part tenant : Nat) (s : State) (p : Partition), alFind s.sched.parts part = some p → s.sched.strict = true →
      p.served ≠ some tenant → partOf s tenant = some part →
      ∃ t, exec (.tenantSwitchScrub part tenant) s = .next t ∧ t.mem.mem = s.mem.mem ∧
        alFind t.sched.parts part = some { p with served := some tenant } ∧
        (∀ c ∈ partCores s part, (execOf t c).l1 = [] ∧ (execOf t c).dets = []) ∧
        (∀ r, ∀ e ∈ (regionOf t r).side, e.part ≠ part) ∧
        ∀ r ∈ partSlices s part, ∀ set w l, w < 16 → (waysOf s r part).getLsbD w = true →
          alFind (regionOf s r).lines (set * 16 + w) = some l → (∀ k, ((regionOf s r).lines.filter (fun e => e.1 == k)).length ≤ 1) →
          (partSlices s part).Nodup → alFind (regionOf t r).lines (set * 16 + w) = none) ∧
  ((∀ (region : Nat) (s : State), (regionOf s region).turn = 0 →
      ((regionCores s region).filter (fun c => (coreChosen s c).isSome)).Nodup →
      let cs := (regionCores s region).filter (fun c => (coreChosen s c).isSome)
      ∃ t, exec (.coreSaveTurn region) s = .next t ∧ t.mem = s.mem ∧ (regionOf t region).turn ≤ 16 ∧
        (regionOf t region).turn = min 16 (cs.filter (fun c => !(execOf s c).blocks.isEmpty)).length ∧
        (∀ c ∈ cs, (execOf s c).blocks = [] → (coreOf t c).hold = .lent ((coreChosen s c).getD 0)) ∧
        ∀ c ∈ (cs.filter (fun c => !(execOf s c).blocks.isEmpty)).take 16,
          (coreOf t c).hold = .saving ((coreChosen s c).getD 0)) ∧
    (∀ (core k : Nat) (s : State), (coreOf s core).hold = .saving k → saveReady (execOf s core) = true →
      (execOf s core).blocks ≠ [] →
      ∃ t x, exec (.coreSaveComplete core) s = .next t ∧ t.mem = s.mem ∧ (coreOf t core).hold = .lent k ∧
        (coreOf t core).owner = (coreOf s core).owner ∧ (execOf t core).groups = [] ∧ (execOf t core).blocks = [] ∧
        (execOf t core).wb = [] ∧ alFind t.saved core = some x ∧
        ((execOf s core).fences = [] → x.groups = (execOf s core).groups) ∧ x.fences = [] ∧
        x.blocks = (execOf s core).blocks ∧ x.loads = (execOf s core).loads.map (fun l => { l with nofill := true }) ∧
        x.wb = (execOf s core).wb ∧
        ∀ y ∈ t.links.txns, y.core = core → y.parked = true ∨ y.dead = true) ∧
    (∀ (die tag : Nat) (data : Line) (s : State) (y : Txn) (x : Exec), txnOf s die tag = some y → y.parked = true → y.dead = false →
      y.kind = .load → alFind s.saved y.core = some x →
      ∃ t x', exec (.parkedResponse die tag 0 false data) s = .next t ∧ t.mem = s.mem ∧ coreOf t y.core = coreOf s y.core ∧
        txnOf t die tag = none ∧ alFind t.saved y.core = some x' ∧ x'.groups = x.groups ∧
        x'.loads = x.loads.map (fun l => if l.id = y.id then { l with got := some (data, 0, 0) } else l)) ∧
    (∀ (core k : Nat) (s : State) (e : Exec), (coreOf s core).hold = .lent k → alFind s.fe.jobs k = none →
      (coreOf s core).draining = false → (execOf s core).blocks = [] → (execOf s core).wb = [] → (execOf s core).mmas = [] →
      alFind s.saved core = some e →
      ∃ t, exec (.coreRestore core) s = .next t ∧ t.mem = s.mem ∧ (coreOf t core).hold = .free ∧
        (coreOf t core).owner = (coreOf s core).owner ∧ t.saved = alDel s.saved core ∧
        (execOf t core).groups = e.groups ∧ (execOf t core).blocks = e.blocks ∧ (execOf t core).loads = e.loads ∧
        (execOf t core).atoms = e.atoms ∧ (execOf t core).fences = e.fences ∧
        (execOf t core).wb = e.wb.filter (fun w => w.failed.isNone))) ∧
  (∀ (core : Nat) (s : State), (coreOf s core).draining = true →
      ((∀ e ∈ (execOf s core).wb, e.sent = true) ∨ (coreOf s core).resetAt + 1000 ≤ s.time) →
      ∃ t, exec (.coreResetDrainEnd core) s = .next t ∧ t.mem = s.mem ∧ (coreOf t core).draining = false ∧
        (coreOf t core).halted = false ∧ (execOf t core).blocks = [] ∧ (execOf t core).groups = [] ∧ (execOf t core).wb = [] ∧
        (execOf t core).l1 = [] ∧
        (∀ e ∈ (execOf s core).wb, e.sent = false → eventSet t e.tenant gPM 3 = true) ∧
        ∀ k n, (coreOf s core).resetNode = some k → alFind s.fe.nodes k = some n →
          ∃ m, alFind t.fe.nodes k = some m ∧ m.aux1 = n.aux1 + ((execOf s core).wb.filter (fun e => !e.sent)).length)

/-- The node is ready to be dispatched, its job is placed, nothing holds it (R364), and no RT node goes first (R395). -/
def mayDispatch (s : State) (node : Nat) (n : Node) (j : Job) : Prop :=
  alFind s.fe.nodes node = some n ∧ alFind s.fe.jobs n.job = some j ∧ n.phase = .ready ∧ j.phase = .placed ∧ j.fail = none ∧
  j.substStop = false ∧ jobHalted s j = false ∧ (∀ c ∈ j.cores, (coreOf s c).halted = false) ∧ onHold s n = false ∧
  s.dbg.heldNode ≠ some node ∧ (∀ e ∈ s.dbg.breaks, e.2.en = false) ∧
  (s.sched.strict = true → ∃ p, alFind s.sched.parts n.part = some p ∧ p.served = some n.tenant) ∧ dispatchTurn s j = true

/-- A dispatch counts in its job, and by the node's kind: a NOP ends there, a KERNEL of the tenant's own loaded image that
can be placed runs with its policy captured, a range or copy operation joins its die's queue, and a bench step the
pool's (R121, R209, R269, R335, R364, R416). The next block of a running KERNEL node starts on the core with the
fewest resident blocks: the core holds one block more, with the kernel's groups at its entry under their launch masks,
and the node counts it (R156, R158, R159, R389). -/
def Obligations.NodesAreDispatchedAndPlaced : Prop :=
  (∀ (node : Nat) (s : State) (n : Node) (j : Job), mayDispatch s node n j →
      (jobClass s j ≠ .rt ∨ n.idx ≠ j.commit ∨ j.subst = true) →
      ∃ t j' n', exec (.nodeDispatch node) s = .next t ∧ t.mem = s.mem ∧ t.cores = s.cores ∧ alFind t.fe.jobs n.job = some j' ∧
        j'.dispatched = j.dispatched + 1 ∧ alFind t.fe.nodes node = some n' ∧ n'.desc = n.desc ∧ n'.idx = n.idx ∧
        (ndKind n.desc = 0 → n'.phase = .finished ∧ n'.fail = n.fail) ∧
        (∀ x, ndKind n.desc = 1 → kernelOf s n = some x → kThreads n.desc ≤ x.maxThreads → unplaceable n.desc x = false →
          vrefs n.desc = [] → n'.phase = .running ∧ n'.fail = n.fail ∧ n'.holds.length = 4 ∧
            n'.policy = (fnOf s n.tenant).policies.getD (kPolicy n.desc) 0) ∧
        (ndKind n.desc = 1 → kernelOf s n = none → n'.phase = .finished ∧
          n'.fail = some { status := .fault, fault := .imageInvalid, node := n.idx }) ∧
        (ndKind n.desc = 2 → rangeBad n.desc = false → n'.phase = .running ∧
          (dieOf t (engineDie s n.part)).ranges = (dieOf s (engineDie s n.part)).ranges ++
            [{ node := node, tenant := n.tenant, part := n.part, base := fieldAt n.desc 56 8, len := fieldAt n.desc 64 8,
               op := fieldAt n.desc 72 1 % 4 }]) ∧
        (ndKind n.desc = 3 → copyBad n.desc = false → n'.phase = .running ∧
          (dieOf t (engineDie s n.part)).copies = (dieOf s (engineDie s n.part)).copies ++
            [{ node := node, tenant := n.tenant, part := n.part, src := fieldAt n.desc 56 8, dst := fieldAt n.desc 64 8,
               len := fieldAt n.desc 72 8, hint := fieldAt n.desc 80 1 }]) ∧
        (∀ p, ndKind n.desc = 4 → alFind s.pools n.part = some p → p.owner = n.tenant → benchBodyBad n.desc = false →
          n'.phase = .running ∧ alFind t.pools n.part = some { p with waiting := p.waiting ++ [node] })) ∧
  (∀ (node core : Nat) (s : State) (n : Node) (k : Kernel), alFind s.fe.nodes node = some n → runKernel s n = some k →
      bestCore s n = some core → (∀ e ∈ nodesOf s n.job, nodeBefore e.2 n = true → bestCore s e.2 = none) →
      blockTurn s n = true → (coreOf s core).power ≠ .retention → (coreOf s core).wakeAt ≤ s.time →
      ∃ t n' x b, exec (.blockPlace node core) s = .next t ∧ t.mem = s.mem ∧ alFind t.fe.nodes node = some n' ∧
        n'.nextBlock = n.nextBlock + 1 ∧ n'.liveBlocks = n.liveBlocks + 1 ∧ n'.phase = n.phase ∧
        alFind (execOf t core).blocks x = some b ∧ b.index = n.nextBlock ∧ b.threads = kThreads n.desc ∧ b.task.node = node ∧
        b.task.tenant = n.tenant ∧ b.task.slmKib = k.slmKib ∧ b.slm = [] ∧
        (∀ i g, alFind (execOf s core).groups i = some g → alFind (execOf t core).groups i = some g) ∧
        (∀ i g, alFind (execOf s core).groups i = none → alFind (execOf t core).groups i = some g →
          g.block = x ∧ g.launch = launchMask (kThreads n.desc) g.index ∧ g.index < groupsOf (kThreads n.desc) ∧
            g.paths.map (fun p => (p.lanes, p.pc)) = [(g.launch, k.entry)] ∧ g.regs = [] ∧ g.preds = [] ∧ g.uregs = []) ∧
        ∀ c, c ≠ core → execOf t c = execOf s c)

/-- A node whose work has ended and whose accesses are performed completes: one that asks for it writes its record at its
queue's producer index, the node leaves residency, a granted flag takes its value, and the job counts it (R237, R365, R368).
Stated for the only resident node, on a package that is no twin, of a job that goes on. -/
def Obligations.NodesComplete : Prop :=
  ∀ (node : Nat) (s : State) (n : Node) (j : Job), s.fe.nodes = [(node, n)] → alFind s.fe.jobs n.job = some j →
    nodeEnded n = true → nodePerformed s node n = true → mirrors s = false → (∀ e ∈ s.clusters, e.2.epi = []) →
    n.fail = none → n.holds = [] → j.fail = none → j.doneNodes.length + 1 < j.nodes → (∀ e ∈ s.fe.jobs, e.2.commitDue = false) →
    (∀ j' : Job, j' = { j with doneNodes := n.idx :: j.doneNodes, okNodes := n.idx :: j.okNodes,
                                             escSum := j.escSum + n.esc, obsSum := j.obsSum + n.observed } →
      ndFlags n.desc = 0 ∨ ndFlags n.desc = 8 →
      ∃ t, exec (.nodeComplete node) s = .next t ∧ t.mem = s.mem ∧ t.cores = s.cores ∧ t.fe.nodes = [] ∧
        alFind t.fe.jobs n.job = some j' ∧
        (ndFlags n.desc = 8 → flagGranted s n.tenant (ndSetFlag n.desc) = true → fieldAt n.desc 48 8 ≠ 0 →
          flagOf t (ndSetFlag n.desc) = fieldAt n.desc 48 8)) ∧
    (∀ (q : Queue) (pa off : Nat), ndFlags n.desc = 1 → alFind s.fe.queues n.queue = some q → q.st ≠ .logging → q.log = [] →
      (q.prod + 2 ^ 64 - q.cons) % 2 ^ 64 < 2 ^ q.ringLog2 →
      translate s q.fn (q.ringBase + 64 * (q.prod % 2 ^ q.ringLog2)) .w = some (.loc (pa + off)) → pa % 128 = 0 →
      off + 64 ≤ 128 → Homed s pa → homeReady s pa ((partOf s q.fn).getD 0) (q.cls == .rt) = true →
      ∃ t q', exec (.nodeComplete node) s = .next t ∧ t.mem.mem = s.mem.mem ∧ t.fe.nodes = [] ∧
        alFind t.fe.queues n.queue = some q' ∧ q'.prod = (q.prod + 1) % 2 ^ 64 ∧
        lineSlice (homeLine t pa) off 64 = recBytes (nodeRec j n) ++
          leBytes 2 (q.prod % 2 ^ 15 + 2 ^ 15 * (q.prod / 2 ^ q.ringLog2 % 2)))

/-! ### Logs, clocks, the referee, the bench and the engines (R269 to R271, R335, R336, R374 to R379, R398 to R401, R416 to R421) -/

/-- The overflow log: once a queue's wait is over its logged record is written, the log is empty, and the queue is ACTIVE
again, or IDLE when it has no work (R374). The shot clock: when it reaches its period the job fails with TIMEOUT, its
running kernel is stopped with TIMEOUT and its cores are reset, and the event names the queue (R376, R377). The
referee's test of a placed RT job with a budget (R397 to R400): within its tail estimate of the deadline nothing
happens; past it the job is substituted when it has a substitute, and otherwise the referee turns off with its event.
A deadline that passes before the job record is counted once (R401). The substitute of a switched job starts when the
original's nodes have all completed: its header's fields become the job's, and its first node becomes resident within
the same job (R399, R400). Stated for a substitute of one node. -/
def Obligations.LogsClocksAndTheReferee : Prop :=
  ((∀ (queue : Nat) (s s1 : State) (q : Queue) (b : List Byte), alFind s.fe.queues queue = some q →
      q.st = .logging ∨ q.st = .halted → q.reason = .none → frontStopped s = false → q.log = [b] → ringRoom q = true →
      writeRecord s queue q b = (.ok (), s1) →
      ∃ t q', exec (.logDrain queue) s = .next t ∧ t.mem.mem = s.mem.mem ∧ alFind t.fe.queues queue = some q' ∧ q'.log = [] ∧
        q'.prod = (q.prod + 1) % 2 ^ 64 ∧ q'.entries = q.entries ∧
        q'.st = (if q.entries = [] ∧ q.job = none then .idle else .active)) ∧
    (∀ (queue k m : Nat) (s : State) (q : Queue) (j : Job) (n : Node), alFind s.fe.queues queue = some q → q.job = some k →
      alFind s.fe.jobs k = some j → shotRuns s q = true → 100 * q.shotT ≤ shotElapsed s q → j.fail = none →
      nodesOf s k = [(m, n)] → alFind s.fe.nodes m = some n → n.phase = .running → n.fail = none → ndKind n.desc = 1 →
      ∃ t j' n', exec (.shotClockExpire queue) s = .next t ∧ alFind t.fe.jobs k = some j' ∧ j'.expired = true ∧
        j'.fail = some { status := .timeout } ∧ alFind t.fe.nodes m = some n' ∧ n'.phase = .finished ∧ n'.stopping = true ∧
        n'.fail = some { status := .timeout, node := n.idx } ∧ eventSet t q.fn gFE 4 = true ∧
        ∀ c, (∃ e ∈ s.cores, e.1 = c ∧ e.2 = coreOf s c) → (∃ e ∈ (execOf s c).blocks, e.2.task.node = m ∧ e.2.task.job = k) →
          (coreOf t c).draining = true ∧ ((coreOf s c).draining = false → (execOf t c).blocks = []))) ∧
  (∀ (queue k d : Nat) (s : State) (q : Queue) (j : Job), alFind s.fe.queues queue = some q → q.job = some k →
      alFind s.fe.jobs k = some j → j.queue = queue → q.cls = .rt → deadlineOf j = some d →
      (s.time % 100 = 0 ∨ j.commitDue = true → (∀ c ∈ j.cores, (coreOf s c).halted = false) → j.refOff = false → j.subst = false →
        j.commitDone = false → j.fail = none → j.lateEarly = false → j.phase = .placed → nodesOf s k = [] →
        (s.time + tailEstimate q ≤ d →
          ∃ t, exec (.refereeTest queue) s = .next t ∧ t.mem = s.mem ∧ t.cores = s.cores ∧ t.fe.nodes = s.fe.nodes ∧
            alFind t.fe.jobs k = some { j with commitDue := false } ∧
            (q.prefetch = none → t.fe.queues = s.fe.queues ∧ t.host = s.host)) ∧
        (d < s.time + tailEstimate q → j.substAddr = 0 →
          ∃ t, exec (.refereeTest queue) s = .next t ∧ t.mem = s.mem ∧ t.cores = s.cores ∧
            alFind t.fe.jobs k = some { j with commitDue := false, refOff := true } ∧ eventSet t j.fn gQOS 1 = true) ∧
        (d < s.time + tailEstimate q → j.substAddr ≠ 0 →
          ∃ t, exec (.refereeTest queue) s = .next t ∧ t.mem = s.mem ∧ t.cores = s.cores ∧
            alFind t.fe.jobs k = some { j with commitDue := false, subst := true, substStop := true } ∧
            eventSet t j.fn gQOS 0 = true)) ∧
      (j.missed = false → d < s.time →
        ∃ t, exec (.deadlinePass queue) s = .next t ∧ t.mem = s.mem ∧ t.cores = s.cores ∧
          alFind t.fe.jobs k = some { j with missed := true } ∧ eventSet t j.fn gQOS 3 = true)) ∧
  (∀ (queue k : Nat) (s s1 : State) (q : Queue) (j : Job) (b : List Byte) (shared : Bool), alFind s.fe.queues queue = some q →
      q.job = some k → alFind s.fe.jobs k = some j → parseTurn s queue q = true → j.subst = true → j.substStop = true →
      j.fail = none → j.phase = .placed → nodesOf s k = [] →
      readGraph s { j with graphAddr := j.substAddr, graphLen := j.substLen, pre := j.substPre } = (.ok b, s1) →
      headerBad (b.take 64) j.substLen false = false → fieldAt b 6 2 = 1 → 192 ≤ b.length → fieldAt b 72 2 = 0 →
      nodeRoom s k = some shared →
      ∃ t j' x, exec (.substituteStart queue) s = .next t ∧ t.mem.mem = s.mem.mem ∧ alFind t.fe.jobs k = some j' ∧
        j'.substStop = false ∧ j'.subst = true ∧ j'.phase = .placed ∧ j'.nodes = 1 ∧ j'.nextNode = 1 ∧
        j'.graphAddr = j.substAddr ∧ j'.entry = j.entry ∧
        alFind t.fe.nodes s.fe.nextNode = some x ∧ x.job = k ∧ x.idx = 0 ∧ x.desc = sliceBytes b 64 128 ∧ x.subst = true ∧
        x.shared = shared)

/-- The bench has failed the step of node `k` with fault `f` and applied nothing: the step has left the pool, and its node is
finished, with the fault that came first. -/
def StepFailed (t : State) (part k : Nat) (p : Pool) (n : Node) (f : DevFault) : Prop :=
  alFind t.pools part = some { p with waiting := p.waiting.erase k } ∧
    ∃ n', alFind t.fe.nodes k = some n' ∧ n'.phase = .finished ∧ n'.fail = (match n.fail with
      | some y => some y
      | none => some { status := .fault, fault := f, node := n.idx })

/-- The next step of a bench pool: a valid one is applied whole, its result area is written and its node is done; where
the result area may not be written the node fails with MEM_ACCESS and nothing is applied, and while a write waits
nothing is applied; an invalid step changes nothing and its node fails with NODE_INVALID; an area that may not be read
fails it with MEM_ACCESS (R416 to R421). The engines take up and complete one operation at a time. A range operation
performs its lines, and its node's record gives the lines performed and skipped: CLEAN leaves a dirty line clean,
INVALIDATE discards it, FLUSH writes it back and drops it, ZERO leaves zeros (R269 to R271). A copy writes each source
line whole at its destination, and completes once its writes to other packages have been acknowledged (R335, R336). -/
def Obligations.BenchAndEnginesComplete : Prop :=
  (∀ (part k : Nat) (s : State) (p : Pool) (n : Node), alFind s.pools part = some p →
      nextStep s p = some k → alFind s.fe.nodes k = some n → (nodeIsRt s k = true ∨ rtElsewhere s part = false) →
      n.stopping = false → benchBodyBad n.desc = false → n.tenant = p.owner →
      (∀ f s1, agentRead s n.tenant n.part (fieldAt n.desc 56 8) 16 .plain (nodeIsRt s k) = (.fault f, s1) →
        ∃ t, exec (.benchStepApply part) s = .next t ∧ StepFailed t part k p n .memAccess) ∧
      (∀ h s1 b s2, agentRead s n.tenant n.part (fieldAt n.desc 56 8) 16 .plain (nodeIsRt s k) = (.ok h, s1) →
        agentRead s1 n.tenant n.part (fieldAt n.desc 56 8) (stepBytes (fieldAt h 0 2) (fieldAt h 2 2) (fieldAt h 4 2)) .plain
          (nodeIsRt s k) = (.ok b, s2) →
        (stepBad p (stepOf b) = true → ∃ t, exec (.benchStepApply part) s = .next t ∧ StepFailed t part k p n .nodeInvalid) ∧
        (stepBad p (stepOf b) = false → rangeOk s2 n.tenant (fieldAt n.desc 64 8) 49152 .w = false →
          ∃ t, exec (.benchStepApply part) s = .next t ∧ StepFailed t part k p n .memAccess) ∧
        (∀ p' ev st taken y s3, stepBad p (stepOf b) = false → rangeOk s2 n.tenant (fieldAt n.desc 64 8) 49152 .w = true →
          applyStep p (stepOf b) (bit (fieldAt n.desc 72 1) 0) = (p', ev, st, taken) →
          agentsReady s2 n.tenant n.part (fieldAt n.desc 64 8) k 0 (stepResult p' ev st) = (y, s3) →
          ∃ t, exec (.benchStepApply part) s = .next t ∧
            match y with
            | .wait => t.pools = s.pools
            | .fault _ => StepFailed t part k p n .memAccess
            | .ok _ => ∀ s4, agentWrites s3 n.tenant n.part (fieldAt n.desc 64 8) k (stepResult p' ev st) = (.ok (), s4) →
                alFind t.pools part = some { p' with waiting := p.waiting.erase k } ∧
                ∃ n', alFind t.fe.nodes k = some n' ∧ n'.phase = .finished ∧ n'.fail = n.fail))) ∧
  ((∀ (die : Nat) (s : State) (op : RangeOp) (r : List RangeOp), (dieOf s die).ranges = op :: r → op.started = false →
      ∃ t, exec (.rangeOpStart die) s = .next t ∧ t.mem = s.mem ∧ t.fe = s.fe ∧
        (dieOf t die).ranges = { op with started := true } :: r) ∧
    (∀ (die : Nat) (s : State) (op : RangeOp) (r : List RangeOp) (n : Node), (dieOf s die).ranges = op :: r → op.started = true →
      op.stopped = false → (op.op = 3 → ∀ p ∈ rangeParts s op.tenant op.base op.len, p.2.2 = true) →
      alFind s.fe.nodes op.node = some n →
      let lines := partLines (rangeParts s op.tenant op.base op.len)
      ∃ t n', exec (.rangeOpComplete die) s = .next t ∧ t.mem.mem = s.mem.mem ∧ (dieOf t die).ranges = r ∧
        alFind t.fe.nodes op.node = some n' ∧ n'.phase = .finished ∧ n'.aux0 = lines.length ∧
        n'.aux1 = op.len / 128 - lines.length ∧ n'.fail = n.fail ∧
        ∀ pa reg set tag w l, lines = [pa] → homeSlice s pa = some (reg, set, tag) →
          findWay (regionOf s reg) set tag = some (w, l) → l.dirty = true → l.pa = pa → sideOf (regionOf s reg) pa = none →
          (∀ k x, alFind (regionOf s reg).lines (set * 16 + k) = some x → x.tag = tag → k = w) →
          ((regionOf s reg).lines.filter (fun e => e.1 == set * 16 + w)).length = 1 →
          (op.op = 0 → homeLine t pa = l.data ∧ findWay (regionOf t reg) set tag = some (w, { l with dirty := false })) ∧
          (op.op = 1 → homeLine t pa = (memLine s pa).1) ∧
          (op.op = 2 → homeLine t pa = l.data ∧ findWay (regionOf t reg) set tag = none) ∧
          (op.op = 3 → homeLine t pa = 0)) ∧
    (∀ (die : Nat) (s : State) (op : CopyOp) (r : List CopyOp), (dieOf s die).copies = op :: r → op.started = false →
      ∃ t op', exec (.copyStart die) s = .next t ∧ t.mem = s.mem ∧ t.fe = s.fe ∧ (dieOf t die).copies = op' :: r ∧
        op' = { op with started := true, first := op'.first } ∧ (128 ≤ op.len → op'.first < op.len / 128)) ∧
    (∀ (die pa : Nat) (s s1 : State) (op : CopyOp) (r : List CopyOp) (n : Node) (b : List Byte),
      (dieOf s die).copies = op :: r → op.started = true → op.ended = false → op.stopped = false → op.failed = none → op.len = 128 →
      op.done = 0 → alFind s.fe.nodes op.node = some n → copyRoom s op die op.dst = true →
      (∀ y ∈ s1.links.txns, y.kind = .engine → y.node = op.node → y.dead = true) → agentRead s op.tenant op.part op.src 128 .plain (nodeIsRt s op.node) die = (.ok b, s1) →
      translate s1 op.tenant op.dst .w = some (.loc pa) → pa % 128 = 0 → Homed s1 pa →
      ∃ t n', exec (.copyComplete die) s = .next t ∧ t.mem.mem = s.mem.mem ∧ (dieOf t die).copies = r ∧
        homeLine t pa = linePlace 0 b ∧ alFind t.fe.nodes op.node = some n' ∧ n'.phase = .finished ∧ n'.aux0 = 1 ∧
        n'.fail = n.fail))

/-! ### Slices, offers and memory controllers (R254, R264 to R267, R277, R290 to R295, R301, R308, R407) -/

/-- Lines arrive at their home: what a demand's run read goes to the oldest load that waits for it and, where a way is
found, into the slice; of a read that a later write has overtaken it goes to the loads that had joined it, and nowhere
else (R293); a prefetched line enters the side buffer; an unused side-buffer entry is freed after 65,536 cycles (R254,
R264, R265). The oldest eviction offer of a core leaves its queue: a line that is present becomes young again, a stale
or streaming offer is declined, and any other takes the first eligible way that is invalid or old and clean (R266 to
R268). Every L1 line's residency count advances at its tick, to 3. -/
def Obligations.LinesArriveOffersAndResidency : Prop :=
  ((∀ (pa r set tag c h0 x : Nat) (s : State) (m : MemRead) (h : Hint) (l : Load), homeSlice s pa = some (r, set, tag) →
      homeOf s pa = some (h0, x) → sideOf (regionOf s r) pa = none → findWay (regionOf s r) set tag = none →
      doneRead s pa = some m → m.kind = .demand h → m.stale = false → oldestLoad s pa = some (c, l) →
      ∃ t st p, exec (.sliceFill pa) s = .next t ∧ t.mem.mem = s.mem.mem ∧
        (m.data = homeLine s pa → homeLine t pa = homeLine s pa) ∧
        (execOf t c).loads = (execOf s c).loads.map (fun k =>
          if k.id = l.id then { k with got := some (m.data, st, p) } else k) ∧ ∀ q ∈ (ctlOf t h0).reads, q.id ≠ m.id) ∧
    (∀ (pa r set tag h0 x : Nat) (s : State) (m : MemRead), homeSlice s pa = some (r, set, tag) → homeOf s pa = some (h0, x) →
      doneRead s pa = some m → m.stale = true →
      ∃ t, exec (.sliceFill pa) s = .next t ∧ t.mem.mem = s.mem.mem ∧ t.regions = s.regions ∧
        (∀ c, (execOf t c).loads = (execOf s c).loads.map (fun l =>
          if l.read = some m.id ∧ l.target = .loc pa ∧ l.got = none ∧ l.failed = none
          then { l with got := some (m.data, stampOf (regionOf s r) set, m.poison), nofill := true } else l)) ∧
        ∀ q ∈ (ctlOf t h0).reads, q.id ≠ m.id) ∧
    (∀ (pa r set tag : Nat) (s : State) (m : MemRead), homeSlice s pa = some (r, set, tag) →
      sideOf (regionOf s r) pa = none → findWay (regionOf s r) set tag = none → doneRead s pa = some m → m.kind = .prefetch →
      m.stale = false →
      let ways := match alFind s.sched.parts m.part with
        | some p => if p.ways = true then some m.part else none
        | none => none
      ((regionOf s r).side.filter (fun e => e.allot == ways)).length < allotMax s r ways →
      ∃ t, exec (.prefetchFill pa) s = .next t ∧ t.mem.mem = s.mem.mem ∧ homeLine t pa = m.data ∧
        (regionOf t r).side = (regionOf s r).side ++ [{ pa := pa, data := m.data, poison := m.poison,
                                                         part := m.part, tenant := m.tenant, allot := ways, since := s.time }]) ∧
    (∀ (region pa : Nat) (s : State) (e : SideEntry), sideOf (regionOf s region) pa = some e →
      65536 ≤ (s.time - e.since) * cyclesPerTick s (blkKey 1 region) →
      ∃ t, exec (.sideEntryExpire region pa) s = .next t ∧ t.mem = s.mem ∧ t.cores = s.cores ∧
        sideOf (regionOf t region) pa = none ∧ (regionOf t region).lines = (regionOf s region).lines)) ∧
  ((∀ (core r set tag : Nat) (s : State) (o : Offer) (rest : List Offer), (execOf s core).offers = o :: rest →
      homeSlice s o.target.addr = some (r, set, tag) →
      ∃ t, exec (.evictionOffer core) s = .next t ∧ t.mem.mem = s.mem.mem ∧ (execOf t core).offers = rest ∧
        (∀ w l, findWay (regionOf s r) set tag = some (w, l) →
          (regionOf t r).lines = alPut (regionOf s r).lines (set * 16 + w) (if l.keep = true then l else { l with age := 1 })) ∧
        (findWay (regionOf s r) set tag = none →
          (o.stream = true ∨ o.stamp ≠ stampOf (regionOf s r) set ∨ offerWay s r set o.part = none) →
          (regionOf t r).lines = (regionOf s r).lines) ∧
        (∀ w, findWay (regionOf s r) set tag = none → o.stream = false → o.stamp = stampOf (regionOf s r) set →
          offerWay s r set o.part = some w →
          (regionOf t r).lines = alPut (regionOf s r).lines (set * 16 + w)
            { tag := tag, data := o.data, age := 2, dirty := false, keep := false, part := o.part, poison := o.poison,
              pa := o.target.addr })) ∧
    (∀ s : State, s.time % 16384 = 0 →
      ∃ t, exec .residencyTick s = .next t ∧ t.mem = s.mem ∧ t.regions = s.regions ∧ ∀ c,
        (execOf t c).groups = (execOf s c).groups ∧
        (execOf t c).l1 = (execOf s c).l1.map (fun e => (e.1, { e.2 with residency := min 3 (e.2.residency + 1) }))))

/-- A run read whose sectors decode clean serves every queued read of its run with the data as they then stand, and leaves its
row open (R290, R291, R293, R294); a run write performs every queued write of its lines: stacked memory then holds what the
controller answered before, and the writes leave the queue (R292, R293). -/
def Obligations.ControllersPerformRuns : Prop :=
  (∀ (ctl id : Nat) (ecc : EccIn) (s : State) (m : MemRead) (pass : Bool),
    (readsLeft (ctlOf s ctl)).find? (fun m => m.id == id) = some m → ctlServes (ctlOf s ctl) = true →
    readTurn s ctl m = some pass → (∀ l ∈ ecc.errs, l = []) →
    (∀ h p, (erasedOf (ctlOf s h) p).length < 3) → 
    ∃ t, exec (.mcRunRead ctl id ecc) s = .next t ∧ t.mem.mem = s.mem.mem ∧ (ctlOf t ctl).writes = (ctlOf s ctl).writes ∧
      (ctlOf t ctl).reads = (ctlOf s ctl).reads.map (fun x => if runOf s x.pa = runOf s m.pa ∧ x.done = false
        then { x with done := true, data := (memLineFor s x.pa x.id).1, poison := (memLineFor s x.pa x.id).2 } else x) ∧
      rowOpen (ctlOf t ctl) (linePlaceOf s m.pa) = true) ∧
  (∀ (ctl q : Nat) (rest : List Nat) (ecc : EccIn) (s : State), writeRuns s ctl = q :: rest → ctlServes (ctlOf s ctl) = true →
    (runNeeded s ctl q = true ∨ (s.sched.strict = true ∧ ∀ x ∈ rest, runNeeded s ctl x = false)) →
    writeReady s ctl q = true → (∀ l ∈ ecc.errs, l = []) →
    (∀ h p, (erasedOf (ctlOf s h) p).length < 3) →
    (∀ w ∈ (ctlOf s ctl).writes, w.pa % 128 = 0) → s.memOk →
    ∃ t, exec (.mcRunWrite ctl 1 [ecc]) s = .next t ∧ ∀ l ∈ runLines s ctl q,
      (∀ w ∈ (ctlOf t ctl).writes, w.pa ≠ l.1) ∧ (memLine t l.1).1 = (memLine s l.1).1 ∧
      lineSlice (memLine s l.1).1 0 128 = (List.range 128).map (fun i => memByte t (l.1 + i)))

/-- The controllers' own events: per-bank refresh closes one row at most, in the time-partitioned form in window 15 only
(R277, R407); a regulator gains its rate up to its burst every 600 root cycles (R295); a window of the time-partitioned form
follows the one before every 1,200 (R407); patrol with no request of another waiting moves on by one run of four sectors
(R301); and a controller with nothing queued for 100 us enters self-refresh (R308). None but a window's end, which performs
the writes still queued, changes a byte of memory. -/
def Obligations.ControllersKeepTime : Prop :=
  (∀ (ctl pc : Nat) (s : State), ctlServes (ctlOf s ctl) = true → pc < 16 →
    (s.sched.strict = false ∨ sharedCtl s ctl = false ∨ (ctlOf s ctl).window = 15) →
    ∃ t bank, exec (.dramRefresh ctl pc) s = .next t ∧ bank < 64 ∧ t.mem.mem = s.mem.mem ∧
      (ctlOf t ctl).rows = alDel (ctlOf s ctl).rows (pc * 64 + bank) ∧ (ctlOf t ctl).reads = (ctlOf s ctl).reads) ∧
  (∀ (h part : Nat) (s : State) (c : Ctl) (p : Partition), s.sched.strict = false → 600 * (s.mem.refills + 1) ≤ rootCycles s →
    alFind s.mem.ctls h = some c → sharedCtl s h = true → alFind s.sched.parts part = some p → p.dedicated = false →
    (s.sched.parts.map (·.1)).Nodup →
    ∃ t, exec .regulatorRefill s = .next t ∧ t.mem.mem = s.mem.mem ∧ t.cores = s.cores ∧ t.mem.refills = s.mem.refills + 1 ∧
      creditOf (ctlOf t h) part false = min (p.burst : Int) (creditOf c part false + p.rate) ∧
      creditOf (ctlOf t h) part true = min (p.rtBurst : Int) (creditOf c part true + p.rtRate)) ∧
  (∀ (h : Nat) (s : State) (c : Ctl), s.sched.strict = true → 1200 * (s.mem.windows + 1) ≤ rootCycles s →
    alFind s.mem.ctls h = some c →
    ∃ t, exec .memoryWindowBoundary s = .next t ∧ t.mem.windows = s.mem.windows + 1 ∧
      (ctlOf t h).window = (c.window + 1) % 16 ∧ (ctlOf t h).windowRuns = [] ∧
      ((∀ e ∈ s.mem.ctls, e.2.writes = []) →
        t.mem.mem = s.mem.mem ∧ ctlOf t h = { c with window := (c.window + 1) % 16, windowRuns := [] })) ∧
  (∀ (ctl : Nat) (ecc : EccIn) (s : State), ctlServes (ctlOf s ctl) = true → readsLeft (ctlOf s ctl) = [] →
    (∀ w ∈ (ctlOf s ctl).writes, w.own = true) → (∀ l ∈ ecc.errs, l = []) → (∀ h p, (erasedOf (ctlOf s h) p).length < 3) →
    (s.sched.strict = false ∨ sharedCtl s ctl = false ∨ (ctlOf s ctl).window = 15) →
    ∃ t, exec (.patrolRead ctl ecc) s = .next t ∧ t.mem.mem = s.mem.mem ∧
      (ctlOf t ctl).patrol = ((ctlOf s ctl).patrol + 4) % 2 ^ 28 ∧ (ctlOf t ctl).writes = (ctlOf s ctl).writes) ∧
  (∀ (ctl : Nat) (s : State), ctlServes (ctlOf s ctl) = true → readsLeft (ctlOf s ctl) = [] → (ctlOf s ctl).writes = [] →
    (ctlOf s ctl).lastUse + 10000 ≤ s.time →
    ∃ t, exec (.mcRetentionEnter ctl) s = .next t ∧ t.mem.mem = s.mem.mem ∧
      ctlOf t ctl = { ctlOf s ctl with st := .retention, rows := [] })

/-! ### Reliability (chapter 17) -/

/-- Errors (R473, R474, R476 to R480). A corrected error changes no data: it raises ERR_CORRECTED in the physical and the
service function, and a parity error of an L1 line drops that line alone. An uncorrected error poisons what it lies in, a
register's word, a write-buffer entry, a slice's line or a sector of memory, and raises ERR_UNCORRECTED; in the tags, the
front end or the fabric's control it is fatal. A fatal error brings the package to FAILED: every core and job stops, FATAL
is raised in every function, and memory keeps its bytes. A leak lowers its bucket by what is due and no other bucket. -/
def Obligations.ErrorsAreHandled : Prop :=
  (∀ (site : ErrSite) (res : Option Resource) (s : State), s.pm.phase = .running → (∀ c x y, site ≠ .memory c x y) →
    ∃ t, exec (.correctedError site res) s = .next t ∧ t.mem.mem = s.mem.mem ∧ eventSet t pf gRAS 0 = true ∧
      eventSet t serviceFn gRAS 0 = true ∧
      (∀ core key, site = .l1 core key →
        (execOf t core).l1 = alDel (execOf s core).l1 key ∧ (execOf t core).groups = (execOf s core).groups) ∧
      ((∀ c k, site ≠ .l1 c k) → (∀ c i v l, site ≠ .istore c i v l) → ∀ c, execOf t c = execOf s c)) ∧
  (∀ (ctl sector pa m : Nat) (syms : List Nat) (res : Option Resource) (s : State), s.pm.phase = .running →
    lineAddr s ctl (sector / 2) = some pa → homeOf s pa = some (ctl, m) →
    s.mem.poisoned.contains (pa / 64 + sector % 2) = false →
    let o := eccOutcome (erasedOf (ctlOf s ctl) (placeOf m).pc) syms
    (o = .corrected → ∃ t, exec (.correctedError (.memory ctl sector syms) res) s = .next t ∧
      t.mem.mem = s.mem.mem ∧ t.mem.poisoned = s.mem.poisoned ∧ eventSet t pf gMEM 0 = true ∧
      eventSet t (tenantOf s pa) gMEM 0 = true ∧
      (∃ w ∈ (ctlOf t ctl).writes, w.pa = pa ∧ w.mask &&& sectorMask (sector % 2) ≠ 0)) ∧
    (o = .uncorrectable → ∃ t, exec (.uncorrectedError (.memory ctl sector syms) res) s = .next t ∧
      t.mem.mem = s.mem.mem ∧ t.mem.poisoned = s.mem.poisoned ++ [pa / 64 + sector % 2] ∧ eventSet t pf gMEM 1 = true ∧
      eventSet t pf gRAS 1 = true) ∧
    (o = .clean → exec (.correctedError (.memory ctl sector syms) res) s = .next s ∧
      exec (.uncorrectedError (.memory ctl sector syms) res) s = .next s)) ∧
  (∀ (res : Option Resource) (s : State), s.pm.phase = .running →
    (∀ core slot key g, alFind (execOf s core).groups slot = some g →
      ∃ t g', exec (.uncorrectedError (.word core slot 0 key) res) s = .next t ∧ t.mem.mem = s.mem.mem ∧
        alFind (execOf t core).groups slot = some g' ∧ g'.regPoison.contains key = true ∧ g'.regs = g.regs ∧
        eventSet t pf gRAS 1 = true) ∧
    (∀ core entry e, (execOf s core).wb.find? (fun w => w.id == entry) = some e →
      ∃ t, exec (.uncorrectedError (.wb core entry) res) s = .next t ∧ t.mem.mem = s.mem.mem ∧
        (execOf t core).wb = (execOf s core).wb.map (fun w => if w.id = entry then { w with poison := true } else w) ∧
        eventSet t pf gRAS 1 = true) ∧
    (∀ region key l, alFind (regionOf s region).lines key = some l →
      ∃ t, exec (.uncorrectedError (.slice region key) res) s = .next t ∧ t.mem.mem = s.mem.mem ∧
        (regionOf t region).lines = alPut (regionOf s region).lines key { l with poison := 3 } ∧ eventSet t pf gRAS 1 = true) ∧
    (∀ (site : ErrSite), s.ras.failed = false → (site = .front ∨ site = .fabricCtl ∨ ∃ r, site = .sliceTag r) →
      ∃ t, exec (.uncorrectedError site res) s = .next t ∧ t.mem.mem = s.mem.mem ∧ t.ras.failed = true ∧ t.fe.jobs = []) ∧
    (s.ras.failed = false → ∃ t, exec (.fatalError res) s = .next t ∧ t.mem.mem = s.mem.mem ∧ t.ras.failed = true ∧
      t.ras.fatalRes = res ∧ t.fe.jobs = [] ∧ t.fe.nodes = [] ∧ (∀ c, execOf t c = {}) ∧
      ∀ f ∈ liveFns s ++ [serviceFn], eventSet t f gRAS 7 = true)) ∧
  (∀ (r : Resource) (n w : Nat) (s : State), bucketLimit s r.kind = some (n, w) → resGet s.ras.leaks r < leaksDue s n w true →
    ∃ t, exec (.bucketLeak r) s = .next t ∧ t.mem = s.mem ∧ t.cores = s.cores ∧ t.fns = s.fns ∧
      resGet t.ras.buckets r = resGet s.ras.buckets r - (leaksDue s n w true - resGet s.ras.leaks r) ∧
      ∀ x, x ≠ r → resGet t.ras.buckets x = resGet s.ras.buckets x)

/-! ### Links (chapter 11, R312 to R334, R482) -/

/-- The bring-up of a port (R317, R325 to R327): detection with four lanes leads to TRAIN, a 10 ms timeout to DOWN; TRAIN
marks failing lanes; ALIGN maps the lanes to a width of 8 or 4 or ends in DOWN; EXCHANGE ends in UP, or in DOWN with
PORT_ID_CONFLICT or a twin mismatch. A flit replayed eight times makes the port retrain with its buffers kept; after three
attempts of 500 µs it is DEAD and leaves every route. -/
def Obligations.PortsTrainAndRetrain : Prop :=
  (∀ (port : Nat) (lanes : List Nat) (s : State), (portOf s port).st = .detect →
    (4 ≤ ((List.range 9).filter (fun l => lanes.contains l)).length →
      ∃ t, exec (.portDetectDone port lanes) s = .next t ∧ t.mem = s.mem ∧ portOf t port = { portOf s port with
        st := .train, failedLanes := (List.range 9).filter (fun l => !lanes.contains l) }) ∧
    ((portOf s port).since + 1000000 ≤ s.time → ∃ t, exec (.portDetectTimeout port) s = .next t ∧ t.mem = s.mem ∧
      (portOf t port).st = .down ∧ ∀ p, p ≠ port → portOf t p = portOf s p)) ∧
  (∀ (port : Nat) (failed : List Nat) (s : State), portStep (portOf s port) = .train →
    ∃ t, exec (.portTrainDone port failed) s = .next t ∧ t.mem = s.mem ∧ portStep (portOf t port) = .align ∧
      (portOf t port).retry = (portOf s port).retry ∧ ∀ l, l < 9 →
        ((portOf t port).failedLanes.contains l = ((portOf s port).failedLanes.contains l || failed.contains l))) ∧
  (∀ (port : Nat) (s : State), portStep (portOf s port) = .align →
    ∃ t, exec (.portAlignDone port) s = .next t ∧ t.mem = s.mem ∧
      (8 ≤ (usableLanes s port).length → portStep (portOf t port) = .exchange ∧ (portOf t port).width = 8) ∧
      (4 ≤ (usableLanes s port).length ∧ (usableLanes s port).length < 8 →
        portStep (portOf t port) = .exchange ∧ (portOf t port).width = 4 ∧ eventSet t pf gLNK 4 = true) ∧
      ((usableLanes s port).length < 4 → (portOf t port).st = .down)) ∧
  (∀ (port peer peerPort credit : Nat) (peerTwin : Option TwinInfo) (s : State), portStep (portOf s port) = .exchange →
    ∃ t, exec (.portExchangeDone port peer peerPort peerTwin credit) s = .next t ∧ t.mem = s.mem ∧
      (announcedId s = some peer → (portOf t port).st = .down ∧ eventSet t pf gLNK 5 = true ∧ t.selfId = s.selfId) ∧
      (announcedId s ≠ some peer → (portOf s port).twin ≠ peerTwin.isSome →
        (portOf t port).st = .down ∧ eventSet t pf gLNK 7 = true ∧ t.selfId = s.selfId) ∧
      (announcedId s ≠ some peer → (portOf s port).twin = false → peerTwin = none →
        (portOf t port).st = .up ∧ (portOf t port).peer = peer ∧ (portOf t port).peerPort = peerPort ∧
          t.selfId = announcedId s)) ∧
  (∀ (port : Nat) (s : State), (portOf s port).st = .up → (∃ f ∈ (portOf s port).retry, 8 ≤ f.replays) →
    ∃ t, exec (.portRetrainEnter port) s = .next t ∧ t.mem = s.mem ∧ (portOf t port).st = .retrain ∧
      (portOf t port).attempts = 1 ∧ eventSet t pf gLNK 3 = true ∧ (portOf t port).inbox = (portOf s port).inbox ∧
      (portOf t port).credit = (portOf s port).credit ∧
      (portOf t port).retry = (portOf s port).retry.map (fun f => { f with replays := 0 })) ∧
  (∀ (port : Nat) (s : State), (portOf s port).st = .retrain → (portOf s port).since + 50000 ≤ s.time →
    ∃ t, exec (.portRetrainTimeout port) s = .next t ∧ t.mem.mem = s.mem.mem ∧
      ((portOf s port).attempts < 3 → portOf t port = { portOf s port with
        sub := .train, attempts := (portOf s port).attempts + 1, since := s.time, failedLanes := [] }) ∧
      (3 ≤ (portOf s port).attempts → (portOf t port).st = .dead ∧ eventSet t pf gLNK 2 = true ∧
        ∀ d, bit (alGet 0 t.links.routes d) port = false))

/-- Die-to-die links (R313, R314, R482): a flit that arrives whole and in order is delivered, once; one that fails is
asked for again, once, with all that were sent after it, and after eight replays the link retrains; flits that arrive
meanwhile wait, in order, until it is back; three failed retrains within 1 ms are fatal. Flits (R318 to R323): one
that arrives whole and in order is delivered once, with its messages in order, its credits and its acknowledgement;
one that fails its check, that a codeword with more symbols in error than the code corrects carried, or that comes out
of order delivers nothing and asks for a replay; a flit that asks for one is noted, and then every unacknowledged flit
from the named one on is sent again, in order. -/
def Obligations.LinksDeliverInOrder : Prop :=
  ((∀ (link seq ack crc : Nat) (body : List Byte) (s : State) (x : D2dLink), d2dOf s link = x → x.inUse = true → body.length = 250 →
      seq < 1024 →
      let ok := crcHolds (rxFabric seq ack body crc)
      ∃ t, exec (.d2dFlitReceive link seq ack body crc) s = .next t ∧ t.mem.mem = s.mem.mem ∧
        (x.up = false → d2dOf t link = { x with wait := x.wait ++ [rxFabric seq ack body crc] }) ∧
        (x.up = true → ok = true → seq = x.rxSeq →
          (d2dOf t link).inbox = x.inbox ++ [body] ∧ (d2dOf t link).rxSeq = (x.rxSeq + 1) % 1024 ∧ (d2dOf t link).up = true ∧
            (d2dOf t link).rxAsked = false) ∧
        (x.up = true → ok = false → x.rxAsked = true → d2dOf t link = x) ∧
        (x.up = true → (ok = false ∨ seq ≠ x.rxSeq) → x.rxAsked = false → d2dReplays x < 8 →
          (d2dOf t link).inbox = x.inbox ∧ (d2dOf t link).rxSeq = x.rxSeq ∧ (d2dOf t link).rxAsked = true ∧
            (d2dOf t link).up = true ∧ (d2dOf t link).replayed = min (x.replayed + (d2dAgain x).length) (2 ^ 21 - 1)) ∧
        (x.up = true → (ok = false ∨ seq ≠ x.rxSeq) → x.rxAsked = false → 8 ≤ d2dReplays x →
          (d2dOf t link).inbox = x.inbox ∧ (d2dOf t link).up = false)) ∧
    (∀ (link : Nat) (s : State) (x : D2dLink), d2dOf s link = x → x.inUse = true → x.up = false →
      (∃ t, exec (.d2dRetrainDone link) s = .next t ∧ t.mem.mem = s.mem.mem ∧
        (x.wait = [] → t.cores = s.cores ∧ d2dOf t link = { x with up := true, rxAsked := false }) ∧
        (x.wait.length = 1 → let f := x.wait.headD []
          crcHolds f = true → fieldAt f 0 2 % 1024 = x.rxSeq →
          (d2dOf t link).up = true ∧ (d2dOf t link).wait = [] ∧ (d2dOf t link).inbox = x.inbox ++ [(f.drop 2).take 250] ∧
          (d2dOf t link).rxSeq = (x.rxSeq + 1) % 1024)) ∧
      ∃ t, exec (.d2dRetrainFail link) s = .next t ∧ t.mem.mem = s.mem.mem ∧
        ((x.fails.filter (fun f => decide (s.time < f + 100000))).length < 2 →
          t.ras = s.ras ∧ (d2dOf t link).fails = x.fails.filter (fun f => decide (s.time < f + 100000)) ++ [s.time]) ∧
        (2 ≤ (x.fails.filter (fun f => decide (s.time < f + 100000))).length → t.ras.failed = true))) ∧
  ((∀ (port seq ack kind : Nat) (rest : List Byte) (fec : List (List Nat)) (msgs : List LinkMsg) (credits : List (Nat × Nat))
      (s : State) (x : Port), portOf s port = x → x.st = .up →
      let ok := crcHolds (rxFlit seq ack kind rest)
      let lost := (takeFlit s port fec).1
      (x.rxBad = false → (∀ e ∈ fec, e.dedup.length ≤ 15) → lost = false) ∧
      ∃ t, exec (.flitReceive port seq ack kind rest fec msgs credits) s = .next t ∧ t.mem.mem = s.mem.mem ∧
        (portOf t port).st = .up ∧ (portOf t port).rxFlits = x.rxFlits + 1 ∧
        (ok = true → lost = false → (kind = 0 ∨ kind = 3) → seq = x.rxSeq →
          (portOf t port).inbox = x.inbox ++ msgs ∧ (portOf t port).rxSeq = (seq + 1) % 4096 ∧ (portOf t port).rxAsked = false ∧
          (x.wait = [] → (portOf t port).retry = (ackFlits x ack).retry ∧
            (portOf t port).credit = credits.foldl (fun m c => alPut m c.1 (alGet 0 m c.1 + c.2)) x.credit)) ∧
        (ok = false ∨ lost = true →
          (portOf t port).inbox = x.inbox ∧ (portOf t port).rxSeq = x.rxSeq ∧ (portOf t port).rxAsked = true ∧
          (portOf t port).retry = x.retry ∧ (portOf t port).credit = x.credit ∧
          (x.rxAsked = false → t.host.out.getLast? = some (.flit port (flitBytes x.txData x.rxSeq 2 [] []) [] []))) ∧
        (ok = true → lost = false → (kind = 0 ∨ kind = 3) → seq ≠ x.rxSeq →
          (portOf t port).inbox = x.inbox ∧ (portOf t port).rxSeq = x.rxSeq ∧ (portOf t port).rxAsked = true) ∧
        (ok = true → lost = false → kind = 1 → x.wait = [] →
          (portOf t port).inbox = x.inbox ∧ (portOf t port).retry = (ackFlits x ack).retry) ∧
        (ok = true → lost = false → kind = 2 →
          (portOf t port).inbox = x.inbox ∧ (portOf t port).rxSeq = x.rxSeq ∧ (portOf t port).retry = x.retry ∧
          (portOf t port).asked = some ack)) ∧
    (∀ (port seq : Nat) (s : State) (x : Port) (old again : List Flit) (f : Flit), portOf s port = x → x.st = .up →
      x.asked = some seq → x.retry = old ++ f :: again → f.seq = seq → (∀ g ∈ old, g.seq ≠ seq) → (∀ g ∈ f :: again, g.replays < 8) →
      ∃ t, exec (.replayRequestReceive port seq) s = .next t ∧ t.mem = s.mem ∧ t.cores = s.cores ∧ (portOf t port).asked = none ∧
        (x.wait = [] →
          (portOf t port).retry = old ++ (f :: again).map (fun g => { g with replays := g.replays + 1 }) ∧
          t.host.out.filter Out.isFlit = s.host.out.filter Out.isFlit ++
            (f :: again).map (fun g => .flit port (flitBytes g.seq (ackNow x) g.kind g.msgs g.credits) g.msgs g.credits))))

/-! ### Remote accesses and routes (R328 to R334) -/

/-- Requests of other packages (R330, R331): one for another package is forwarded with its hop counted; one that no export
entry allows is rejected with code 1 and performs nothing; a write that is allowed is performed at its line's home,
and a read answers the line as its home holds it. What comes back (R332, R333): a response gives its data to the load
that holds its tag and frees the tag; a rejection makes it REMOTE_ACCESS and raises REMOTE_FAULT; a request that has
waited for the timeout is REMOTE_TIMEOUT. No byte of memory changes. A written route table takes effect when none of
the package's own messages waits on a port that it removes (R328). -/
def Obligations.RemoteAccessesAreServedAndEnd : Prop :=
  (∀ (port : Nat) (s s1 : State) (m : LinkMsg), s.pm.phase = .running → takeMsg s port [1, 2, 3] = some (m, s1) →
      (∀ p, s.selfId ≠ some m.dst → m.hop < 2 → routePort s1 m.dst m.line = some p →
        ∃ t, exec (.remoteRequestReceive port) s = .next t ∧ t = sendOn s1 p { m with hop := m.hop + 1 }) ∧
      (s.selfId = some m.dst → exportOk s1 m = false →
        ∃ t, exec (.remoteRequestReceive port) s = .next t ∧ t = sendMsg s1
          { type := 0xB, vc := 1, src := m.dst, dst := m.src, err := 1, tag := m.tag, size := m.size, tenant := m.tenant,
            line := m.line, offset := m.offset }) ∧
      (∀ x r set tag, s.selfId = some m.dst → exportOk s1 m = true → setOf s (m.line * 128) = some x →
        (∀ k, x.owner ≠ .firmware k) → inCode s (m.line * 128) = false → homeSlice s (m.line * 128) = some (r, set, tag) →
        sideOf (regionOf s r) (m.line * 128) = none →
        (m.type = 2 ∧ maskFull m.mask = true ∧ homeAwake s1 (m.line * 128) = true) ∨
          homeReady s1 (m.line * 128) (ownerPart s1 (m.line * 128)) = true →
        (m.type = 2 → ∃ t, exec (.remoteRequestReceive port) s = .next t ∧ t.mem.mem = s.mem.mem ∧ t.cores = s.cores ∧
          homeLine t (m.line * 128) = lineMerge (homeLine s (m.line * 128)) m.data m.mask) ∧
        (m.type = 1 → ∃ t s2 b, exec (.remoteRequestReceive port) s = .next t ∧ s2.mem.mem = s.mem.mem ∧ s2.links = s1.links ∧
          t = sendMsg s2 { type := 0x8, vc := 1, src := m.dst, dst := m.src, poison := b, tag := m.tag, size := m.size,
                           tenant := m.tenant, line := m.line, offset := m.offset, data := homeLine s (m.line * 128) }))) ∧
  ((∀ (port die : Nat) (s s1 : State) (m : LinkMsg) (a : Txn), takeMsg s port [8, 9, 0xA, 0xB] = some (m, s1) →
      s.selfId = some m.dst → txnOf s die m.tag = some a → respFits m a = true → a.kind = .load → a.parked = false → a.dead = false →
      (m.type = 8 → m.poison = false → ∃ t, exec (.remoteResponseReceive port die) s = .next t ∧ t.mem = s.mem ∧
        txnOf t die m.tag = none ∧ (execOf t a.core).loads = (execOf s a.core).loads.map (fun l =>
          if l.id = a.id then { l with got := some (m.data, 0, 0) } else l)) ∧
      (m.type = 0xB → m.err < 5 → ∃ t, exec (.remoteResponseReceive port die) s = .next t ∧ t.mem = s.mem ∧
        txnOf t die m.tag = none ∧ eventSet t a.tenant gLNK 0 = true ∧
        (execOf t a.core).loads = (execOf s a.core).loads.map (fun l =>
          if l.id = a.id then { l with failed := some .remoteAccess } else l))) ∧
    (∀ (die tag pkg addr : Nat) (s : State) (a : Txn), txnOf s die tag = some a → a.target = .remote pkg addr →
      a.since + 100000 * s.links.timeoutMs ≤ s.time → a.kind = .load → a.parked = false → a.dead = false →
      ∃ t, exec (.remoteTimeout die tag) s = .next t ∧ t.mem = s.mem ∧ txnOf t die tag = none ∧
        eventSet t a.tenant gLNK 0 = true ∧ (execOf t a.core).loads = (execOf s a.core).loads.map (fun l =>
          if l.id = a.id then { l with failed := some .remoteTimeout } else l)) ∧
    (∀ (s : State) (tb : AL Nat), s.links.newRoutes = some tb →
      ∃ t, exec .routeTableApply s = .next t ∧ t.mem = s.mem ∧ t.cores = s.cores ∧ t.links.ports = s.links.ports ∧
        ((∀ p ∈ removedPorts s.links.routes tb, ∀ m ∈ (portOf s p).wait, ¬ (some m.src = s.selfId ∧ m.vc < 2)) →
          t.links.routes = tb ∧ t.links.newRoutes = none) ∧
        ((∃ p ∈ removedPorts s.links.routes tb, ∃ m ∈ (portOf s p).wait, some m.src = s.selfId ∧ m.vc < 2) → t = s)))

/-! ### The twin (R337, R338, R487 to R495) -/

/-- Mirror records: a secondary applies a record that is the next in sequence, here a flag; the pieces of a record are
kept until its last (log 34); an acknowledged record leaves the primary's list, and a reply that waited for it leaves;
a record that is not acknowledged for 1 ms, or the partner's notice, makes the pair DEGRADED (R337, R338, R490, R491).
The states of a pair (Table 17.6): an attach ends in SYNCED once the snapshot is acknowledged and both ports are up,
or in OFF after 10 s; a SYNCED secondary that receives FAILED takes over; the peer's detach ends the pair (R489, R492,
R493, R495). -/
def Obligations.TwinMirrorsAndTakesOver : Prop :=
  ((∀ (port seq f v : Nat) (s s1 : State) (b : List Byte), takePair s port [1, 2, 3, 4, 5, 8, 9, 10, 11] = some (b, s1) →
      fieldAt b 0 1 = 3 → s.twin.role = 1 → (s.twin.st = .attaching ∨ s.twin.st = .synced) → mirrorOf b = some (seq, .flagSet f v) →
      s.twin.store = [] → seq = s.twin.applySeq →
      ∃ t, exec (.mirrorRecordReceive port) s = .next t ∧ t.mem = s.mem ∧ t.cores = s.cores ∧
        t.fe.flags = alPut s.fe.flags f v ∧ t.twin.applySeq = seq + 1 ∧ t.twin.st = s.twin.st) ∧
    (∀ (port : Nat) (s s1 : State) (b : List Byte), takePair s port [1, 2, 3, 4, 5, 8, 9, 10, 11] = some (b, s1) →
      fieldAt b 0 1 = 10 →
      ∃ t, exec (.mirrorRecordReceive port) s = .next t ∧ t.mem = s.mem ∧ t.cores = s.cores ∧ t.fe = s.fe ∧ t.twin = s.twin ∧
        (portOf t port).parts = (portOf s1 port).parts ++ b.drop 1) ∧
    (∀ (port : Nat) (s s1 : State) (b : List Byte), takePair s port [1, 2, 3, 4, 5, 8, 9, 10, 11] = some (b, s1) → fieldAt b 0 1 = 9 →
      s.twin.st = .synced →
      ∃ t, exec (.mirrorRecordReceive port) s = .next t ∧ t.mem.mem = s.mem.mem ∧ t.twin.st = .degraded ∧ eventSet t pf gRAS 9 = true) ∧
    (∀ (port : Nat) (s s1 : State) (b : List Byte) (x : MirrorRec), takePair s port [0] = some (b, s1) →
      s.twin.sent.find? (fun y => y.seq == fieldAt b 1 8) = some x →
      (holdsBack s = false → ∃ t, exec (.mirrorAck port) s = .next t ∧ t.mem = s.mem ∧ t.fe = s.fe ∧ t.mgmt = s.mgmt ∧
        t.twin.sent = s.twin.sent.filter (fun y => y.seq != x.seq)) ∧
      (∀ f l d, holdsBack s = true → x.r = .mbSeq f l d → f < serviceFn → (mboxOf s f).respHeld = true →
        mboxHeld { s with twin.sent := s.twin.sent.filter (fun y => y.seq != x.seq) } f = false →
        ∃ t, exec (.mirrorAck port) s = .next t ∧ (mboxOf t f).respHeld = false ∧ (mboxOf t f).respValid = true ∧
          (mboxOf t f).resp = (mboxOf s f).resp ∧ eventSet t f gMB 0 = true)) ∧
    (∀ (s : State) (x : MirrorRec), holdsBack s = true → x ∈ s.twin.sent → x.time + 100000 ≤ s.time →
      ∃ t, exec .mirrorAckTimeout s = .next t ∧ t.mem.mem = s.mem.mem ∧ t.twin.st = .degraded ∧ t.twin.sent = [] ∧
        ∀ f ∈ liveFns s ++ [serviceFn], s.sched.strict = false ∨ f = pf ∨ f = serviceFn → eventSet t f gRAS 9 = true)) ∧
  ((∀ (s : State) (n : Nat), s.twin.st = .attaching → s.twin.snapEnd = some n → twinUp s = true →
      (if s.twin.role = 0 then s.twin.sent = [] else n ≤ s.twin.applySeq) →
      ∃ t, exec .twinSynced s = .next t ∧ t.mem.mem = s.mem.mem ∧ t.twin.st = .synced ∧ eventSet t pf gRAS 8 = true) ∧
    (∀ s : State, s.twin.st = .attaching → s.twin.since + 1000000000 ≤ s.time →
      ∃ t, exec .twinAttachTimeout s = .next t ∧ t.mem.mem = s.mem.mem ∧ t.twin.st = .off ∧ t.twin.sent = []) ∧
    (∀ (port : Nat) (s s1 : State) (b : List Byte), takePair s port [6] = some (b, s1) → s.twin.role = 1 → s.twin.st = .synced →
      s.ras.failed = false →
      ∃ t, exec (.twinFailedReceive port) s = .next t ∧ t.twin.st = .takenOver ∧ t.twin.store = [] ∧
        ∀ f ∈ liveFns s ++ [serviceFn], eventSet t f gRAS 10 = true) ∧
    (∀ (port : Nat) (s s1 : State) (b : List Byte), takePair s port [7] = some (b, s1) →
      (s.twin.st = .attaching ∨ s.twin.st = .synced ∨ s.twin.st = .degraded) →
      ∃ t, exec (.twinDetachNotice port) s = .next t ∧ t.twin.st = .off ∧ t.twin.sent = [] ∧
        ∀ p ∈ Config.twinPorts s.variant, (portOf t p).twin = false))

/-! ### Mailboxes (chapter 15) -/

/-- Opcode of a message of Tables 15.7, 15.9 and 15.10, and what carries it out. -/
def mailOf : Instr → Option (Nat × (State → Req → Done × State))
  | .ringConfig => some (0x0100, hRingConfig)
  | .queueCreate => some (0x0101, hQueueCreate)
  | .queueConfig => some (0x0102, hQueueConfig)
  | .queueDestroy => some (0x0103, hQueueDestroy)
  | .queueResume => some (0x0104, hQueueResume)
  | .remapDone => some (0x0105, hRemapDone)
  | .flagWrite => some (0x0106, hFlagWrite)
  | .flagRead => some (0x0107, hFlagRead)
  | .codeLoad => some (0x0110, hCodeLoad)
  | .codeUnload => some (0x0111, hCodeUnload)
  | .setPrecisionPolicy => some (0x0120, hSetPrecisionPolicy)
  | .vtensorRegister => some (0x0121, hVtensorRegister)
  | .vtensorUnregister => some (0x0122, hVtensorUnregister)
  | .benchPoolCreate => some (0x0130, hBenchPoolCreate)
  | .benchPoolDestroy => some (0x0131, hBenchPoolDestroy)
  | .benchSeqQuery => some (0x0132, hBenchSeqQuery)
  | .mapDevice => some (0x0140, hMapDevice)
  | .mapHost => some (0x0141, hMapHost)
  | .mapRemote => some (0x0142, hMapRemote)
  | .memUnmap => some (0x0143, hMemUnmap)
  | .mapQuery => some (0x0144, hMapQuery)
  | .partitionCreate => some (0x0200, hPartitionCreate)
  | .partitionDestroy => some (0x0201, hPartitionDestroy)
  | .tenantBind => some (0x0202, hTenantBind)
  | .tenantUnbind => some (0x0203, hTenantUnbind)
  | .qosSet => some (0x0204, hQosSet)
  | .rtReserveSet => some (0x0205, hRtReserveSet)
  | .flagGrant => some (0x0206, hFlagGrant)
  | .memScrubConfig => some (0x0207, hMemScrubConfig)
  | .setStashReserve => some (0x0208, hSetStashReserve)
  | .isolationSet => some (0x0209, hIsolationSet)
  | .linkConfig => some (0x0300, hLinkConfig)
  | .linkRetrain => some (0x0301, hLinkRetrain)
  | .linkRouteSet => some (0x0302, hLinkRouteSet)
  | .linkExportSet => some (0x0303, hLinkExportSet)
  | .linkTimeoutSet => some (0x0304, hLinkTimeoutSet)
  | .twinAttach => some (0x0310, hTwinAttach)
  | .twinDetach => some (0x0311, hTwinDetach)
  | .twinTakeover => some (0x0312, hTwinTakeover)
  | .faultListRead => some (0x0320, hFaultListRead)
  | .faultListEdit => some (0x0321, hFaultListEdit)
  | .keyChange => some (0x0400, hKeyChange)
  | .fwUpdate => some (0x0401, hFwUpdate)
  | .debugUnlock => some (0x0403, hDebugUnlock)
  | .debugLock => some (0x0404, hDebugLock)
  | .whistle => some (0x0405, hWhistle)
  | _ => none

/-- A message that is due, in sequence and passes the checks is consumed and answered (R432 to R436): its numbered reply
stands in the mailbox, D has advanced by one, L is the request's number, and beside mailbox traffic the message has
done what carries it out does and nothing more. A message out of sequence, or one that fails a check of R438, has no
effect but its reply: SEQ_ERROR unnumbered, with L and D as they were, or the check's status and reason, numbered
(R435, R438, Table 15.4). -/
def Obligations.MessagesAreAnsweredOrRefused : Prop :=
  (∀ (c : Instr) (op : Nat) (h : State → Req → Done × State) (f : Nat) (r : Req) (s s1 s2 : State) (rep : Rep),
      mailOf c = some (op, h) → Carries s f op r s1 → h s1 r = (.rep rep, s2) →
      ∃ t, exec c s = .next t ∧ Replied s2 t f r rep ∧ MailOnly s2 t) ∧
  (∀ (c : Instr) (op : Nat) (h : State → Req → Done × State) (f : Nat) (r : Req) (s : State), mailOf c = some (op, h) →
      (∀ s1 rep, Due s f op r → checkReq (Taken s f) r = (some rep, s1) → rep.status ≠ 0 ∧
        ∃ t, exec c s = .next t ∧ Replied s1 t f r rep ∧ MailOnly { s with mgmt := s1.mgmt } t) ∧
      (s.mgmt.retry = none → dueMbox s = some f → f < boardFn → r = reqOf f (mboxMsg s f) → r.op = op → fieldAt r.msg 8 4 ≠ nextSeqNo (mboxOf s f).l →
        fieldAt r.msg 8 4 ≠ (mboxOf s f).l →
        ∃ t, exec c s = .next t ∧ MailOnly s t ∧ (mboxOf t f).l = (mboxOf s f).l ∧ (mboxOf t f).d = (mboxOf s f).d ∧
          (mboxOf t f).resp = replyBytes r.msg (badRep rSeqError) (mboxOf s f).d (mboxOf s f).l true ∧
          (mboxOf t f).respValid = true))

/-- The session and discovery messages and attestation (Tables 15.7 and 15.11, R436, R437, R443 to R445): QUERY_CAPS gives
a section's bytes from its offset, SYNC the counts, unnumbered, REPLAY_GET a logged reply, FW_STATUS the banks; an
SPDM request of the table gets a response of version 1.3 with its code, and one that names another slot than 0 or a
measurement above 5 the error UnsupportedRequest (log 14). The mailbox windows (R430 to R432, R437): a submitted
message stands in the request buffer with REQ_PENDING set, unless one is pending already; an acknowledgement clears
RESP_VALID; a resynchronisation clears both and keeps the counts; a message on the board path waits behind the others;
after a failover the standby serves, and a request whose reply had not left is answered with FAILOVER. The dynamic
address on the board's bus is the one assigned (R556). -/
def Obligations.MailboxWindowsAndSessionsWork : Prop :=
  ((∀ (f k : Nat) (r : Req) (s s1 : State) (b : List Byte), Carries s f 0x0001 r s1 → r.f 0 1 = k → capSection s1 f k = some b →
      ∃ t, exec .queryCaps s = .next t ∧ MailOnly s1 t ∧
        Replied s1 t f r (okRep (leBytes 4 b.length ++ leBytes 4 ((b.drop (r.f 4 4)).take replyRoom).length ++
          (b.drop (r.f 4 4)).take replyRoom))) ∧
    (∀ (f : Nat) (r : Req) (s s1 : State), s.mgmt.retry = none → dueMbox s = some f → f < boardFn →
      r = reqOf f (mboxMsg s f) → r.op = 0x0002 →
      checkReq (takeRequest s f) r = (none, s1) →
      ∃ t, exec .sync s = .next t ∧ MailOnly s t ∧ (mboxOf t f).l = (mboxOf s f).l ∧ (mboxOf t f).d = (mboxOf s f).d ∧
        (mboxOf t f).resp = replyBytes r.msg (okRep (syncFields (mboxOf s f))) (mboxOf s f).d (mboxOf s f).l true) ∧
    (∀ (f : Nat) (r : Req) (s s1 : State) (e : List Byte), Carries s f 0x0003 r s1 →
      (mboxOf s f).log.find? (fun e => fieldAt e 8 4 == r.f 0 4) = some e →
      ∃ t, exec .replayGet s = .next t ∧ MailOnly s1 t ∧ Replied s1 t f r (okRep e)) ∧
    (∀ (f : Nat) (r : Req) (s s1 : State), Carries s f 0x0004 r s1 →
      ∃ t rest, exec .fwStatus s = .next t ∧ MailOnly s1 t ∧ Replied s1 t f r (okRep
        (leBytes 1 s.mgmt.activeBank ++ leBytes 1 (s.mgmt.pendingBank.getD 0xFF) ++ leBytes 2 0 ++ rest)) ∧ rest.length = 16) ∧
    (∀ (c : Instr) (code resp f : Nat) (r : Req) (s s1 : State),
      (c, code, resp) ∈ [(Instr.getVersion, 0x84, 0x04), (.getCapabilities, 0xE1, 0x61), (.negotiateAlgorithms, 0xE3, 0x63),
        (.getDigests, 0x81, 0x01), (.getCertificate, 0x82, 0x02), (.challenge, 0x83, 0x03), (.getMeasurements, 0xE0, 0x60)] →
      Carries s f 0x0402 r s1 → fieldAt r.msg 33 1 = code →
      ∃ t b, exec c s = .next t ∧ MailOnly s1 t ∧
        (spdmBeyond code r.pay = false → Replied s1 t f r (okRep ([0x13, BitVec.ofNat 8 resp] ++ b))) ∧
        (spdmBeyond code r.pay = true → Replied s1 t f r (okRep (spdmError code))))) ∧
  ((∀ (fn : Nat) (msg : List Byte) (posted : Posted) (s : State), HostMay s fn → fn ≤ serviceFn →
      ((mboxOf s fn).reqPending = true → ∃ t, exec (.mbSubmit fn msg posted) s = .next t ∧ t = postHost s posted) ∧
      ((mboxOf s fn).reqPending = false → msg.length ≤ 16384 →
        plainRequest (modMbox s fn (fun m => { m with req := msg ++ m.req.drop msg.length, reqPending := true })) fn = false →
        ∃ t, exec (.mbSubmit fn msg posted) s = .next t ∧ MailOnly s t ∧ (mboxOf t fn).reqPending = true ∧
          (mboxOf t fn).req = msg ++ (mboxOf s fn).req.drop msg.length ∧ (mboxOf t fn).l = (mboxOf s fn).l)) ∧
    (∀ (fn : Nat) (s : State), HostMay s fn → fn ≤ serviceFn →
      ((mboxOf s fn).reqPending = false → ∃ t, exec (.mbRespAck fn) s = .next t ∧ MailOnly s t ∧ (mboxOf t fn).respValid = false ∧
        (mboxOf t fn).l = (mboxOf s fn).l ∧ (mboxOf t fn).d = (mboxOf s fn).d) ∧
      ∃ t, exec (.mbResync fn) s = .next t ∧ MailOnly s t ∧ (mboxOf t fn).respValid = false ∧ (mboxOf t fn).reqPending = false ∧
        (mboxOf t fn).l = (mboxOf s fn).l ∧ (mboxOf t fn).d = (mboxOf s fn).d ∧ (mboxOf t fn).log = (mboxOf s fn).log) ∧
    (∀ s : State, s.pm.ready = true → s.mgmt.standby = false →
      ∃ t, exec .mgmtFailover s = .next t ∧ t.mem = s.mem ∧ t.cores = s.cores ∧ t.fe = s.fe ∧ t.mgmt.standby = true ∧
        (∀ f ∈ liveFns s ++ [serviceFn], eventSet t f gMB 3 = true) ∧
        ∀ f, (mboxOf t f).exec = false ∧ ((mboxOf s f).exec = true → f ≠ boardFn → ∃ d l,
          (mboxOf t f).resp = replyBytes (mboxOf s f).copy (badRep rFailover) d l false) ∧
          ((mboxOf s f).respHeld = true → (mboxOf s f).exec = false → f ≠ boardFn → ∃ d l,
            (mboxOf t f).resp = replyBytes (mboxOf s f).copy (badRep rFailover) d l false)) ∧
    (∀ (type : Nat) (msg : List Byte) (s : State), s.pm.ready = true → (type = 0x7E ∨ type = 0x05) →
      plainRequest { s with mgmt.mctp := s.mgmt.mctp ++ [(type, msg)] } boardFn = false →
      ∃ t, exec (.mctpMessageReceive type msg) s = .next t ∧ MailOnly s t ∧ t.mgmt.mctp = s.mgmt.mctp ++ [(type, msg)]) ∧
    (∀ (addr : Nat) (s : State), s.pm.ready = true →
      ∃ t, exec (.i3cEntdaa addr) s = .next t ∧ t = { s with mgmt.i3cAddr := some (addr % 128) }))

/-! ### What the tenant's messages do (Table 15.9) -/

/-- The host ring and queues (R341, R349, R368, R374, R378): RING_CONFIG takes HEAD from the TAIL in the control block,
QUEUE_CREATE makes an IDLE queue with its fields, QUEUE_CONFIG changes one that is IDLE and sets its counts to 0,
QUEUE_DESTROY removes it, QUEUE_RESUME lets a HALTED queue go on, REMAP_DONE ends the wait after a write fault. -/
def Obligations.QueueMessagesTakeEffect : Prop :=
  (∀ (f : Nat) (x : Acc Nat) (r : Req) (s s1 s2 : State), Carries s f 0x0100 r s1 → r.f 0 8 % 4096 = 0 → 6 ≤ r.f 8 1 →
    r.f 8 1 ≤ 16 → r.f 16 8 % 64 = 0 → readTail s1 f (r.f 16 8) = (x, s2) →
    ∃ t, exec .ringConfig s = .next t ∧ t.mem = s.mem ∧ t.cores = s.cores ∧ t.fe = s.fe ∧
      (∀ tl, x = .ok tl → Replied s1 t f r (okRep []) ∧
        (fnOf t f).ring = { configured := true, base := r.f 0 8, sizeLog2 := r.f 8 1, ctrl := r.f 16 8, head := tl }) ∧
      (∀ e, x = .fault e → Replied s1 t f r (badRep rState) ∧ (fnOf t f).ring = (fnOf s f).ring)) ∧
  (∀ (f : Nat) (r : Req) (s s1 : State), Carries s f 0x0101 r s1 → queueBad s r = false → alFind s.fe.queues (r.f 0 2) = none →
    pasidBad s r = false → roomFor { s with fe.queues := alPut s.fe.queues (r.f 0 2) (queueFields r) } f = true →
    ∃ t, exec .queueCreate s = .next t ∧ Replied s1 t f r (okRep []) ∧ t.mem = s.mem ∧ t.cores = s.cores ∧
      t.fe = { s.fe with queues := alPut s.fe.queues (r.f 0 2) (queueFields r) } ∧ (queueFields r).st = .idle) ∧
  (∀ (f : Nat) (r : Req) (s s1 : State) (q : Queue), Carries s f 0x0102 r s1 → queueBad s r = false → r.f 0 2 < 4096 →
    alFind s.fe.queues (r.f 0 2) = some q → q.fn = f → pasidBad s r = false → q.st = .idle →
    ∃ t q', exec .queueConfig s = .next t ∧ Replied s1 t f r (okRep []) ∧ t.mem = s.mem ∧ t.cores = s.cores ∧
      t.fe = { s.fe with queues := alPut s.fe.queues (r.f 0 2) q' } ∧ q'.prod = 0 ∧ q'.cons = 0 ∧ q'.tails = [] ∧
      q'.cls = classOf (r.f 2 1) ∧ q'.ringBase = r.f 8 8 ∧ q'.consAddr = r.f 24 8 ∧ q'.shotUs = r.f 4 4 ∧ q'.vector = r.f 18 2 ∧
      q'.entries = q.entries ∧ q'.st = .idle) ∧
  (∀ (f : Nat) (r : Req) (s s1 : State) (q : Queue), Carries s f 0x0102 r s1 → queueBad s r = false → r.f 0 2 < 4096 →
    alFind s.fe.queues (r.f 0 2) = some q → q.fn = f → pasidBad s r = false → q.st ≠ .idle → q.cls = classOf (r.f 2 1) →
    q.ringBase = r.f 8 8 → q.ringLog2 = r.f 16 1 → q.consAddr = r.f 24 8 → q.pasid = bit (r.f 3 1) 1 →
    ∃ t, exec .queueConfig s = .next t ∧ Replied s1 t f r (okRep []) ∧ t.mem = s.mem ∧ t.cores = s.cores ∧
      t.fe = { s.fe with queues := alPut s.fe.queues (r.f 0 2) { q with
        haltOnError := bit (r.f 3 1) 0, shotUs := r.f 4 4, vector := r.f 18 2, rtCores := r.f 20 2, tailUs := r.f 32 4, tails := [] } }) ∧
  (∀ (f : Nat) (r : Req) (s s1 : State) (q : Queue), Carries s f 0x0103 r s1 → r.f 0 2 < 4096 →
    alFind s.fe.queues (r.f 0 2) = some q → q.fn = f → q.st = .idle → q.job = none →
    ∃ t, exec .queueDestroy s = .next t ∧ Replied s1 t f r (okRep []) ∧ t.mem = s.mem ∧ t.cores = s.cores ∧
      t.fe = { s.fe with queues := alDel s.fe.queues (r.f 0 2) }) ∧
  (∀ (f : Nat) (r : Req) (s s1 : State) (q : Queue), Carries s f 0x0104 r s1 → r.f 0 2 < 4096 →
    alFind s.fe.queues (r.f 0 2) = some q → q.fn = f → q.st = .halted → q.reason = .error →
    ∃ t q', exec .queueResume s = .next t ∧ Replied s1 t f r (okRep []) ∧ t.mem = s.mem ∧ t.cores = s.cores ∧
      alFind t.fe.queues (r.f 0 2) = some q' ∧ q'.entries = q.entries ∧ q'.log = q.log ∧
      q'.reason = (if q.log = [] then .none else q.logReason) ∧ q'.logReason = .none ∧
      (q.log ≠ [] → q'.st = .logging) ∧ (q.log = [] → q.entries ≠ [] → q'.st = .active)) ∧
  (∀ (f : Nat) (r : Req) (s s1 : State) (q : Queue), Carries s f 0x0105 r s1 → r.f 0 2 < 4096 →
    alFind s.fe.queues (r.f 0 2) = some q → q.fn = f → q.reason = .writeFault →
    ∃ t, exec .remapDone s = .next t ∧ Replied s1 t f r (okRep []) ∧ t.mem = s.mem ∧ t.cores = s.cores ∧
      alFind t.fe.queues (r.f 0 2) = some { q with reason := .none }) ∧
  (∀ (f : Nat) (r : Req) (s s1 : State), Carries s f 0x0105 r s1 → r.f 0 2 = 0xFFFF →
    ∃ t, exec .remapDone s = .next t ∧ Replied s1 t f r (okRep []) ∧ t.mem = s.mem ∧ t.cores = s.cores ∧
      ∀ k q, alFind s.fe.queues k = some q → alFind t.fe.queues k = some (if q.fn = f then remapQueue q else q))

/-- Flags, images, policies, versioned tensors and the bench pool (R121, R151, R153, R206 to R211, R362, R411 to R413):
FLAG_WRITE stores or adds modulo 2^64 a granted flag and FLAG_READ reads it; CODE_LOAD enters an image that passes
verification under a new handle and answers another with the verdict; CODE_UNLOAD frees one at once, or, while a resident block runs it, answers when CODE_UNLOAD_EFFECT finds
that none does. -/
def Obligations.TenantMessagesTakeEffect : Prop :=
  (∀ (f : Nat) (r : Req) (s s1 : State), Carries s f 0x0106 r s1 → actorBad r = false → r.f 0 2 < 16384 → r.f 2 1 ≤ 1 →
    flagGranted s r.actor (r.f 0 2) = true → (s.fe.flags.map (·.1)).Nodup →
    ∃ t, exec .flagWrite s = .next t ∧ Replied s1 t f r (okRep []) ∧ (s.fe.jobs = [] → t.mem = s.mem ∧ t.cores = s.cores) ∧
      flagOf t (r.f 0 2) = (if r.f 2 1 = 0 then r.f 8 8 else (flagOf s (r.f 0 2) + r.f 8 8) % 2 ^ 64) ∧
      ∀ k, k ≠ r.f 0 2 → flagOf t k = flagOf s k) ∧
  (∀ (f : Nat) (r : Req) (s s1 : State), Carries s f 0x0107 r s1 → actorBad r = false → r.f 0 2 < 16384 → flagGranted s r.actor (r.f 0 2) = true →
    ∃ t, exec .flagRead s = .next t ∧ Replied s1 t f r (okRep (leBytes 8 (flagOf s (r.f 0 2)))) ∧ MailOnly s1 t) ∧
  (∀ (f : Nat) (r : Req) (s s1 s2 s3 s4 : State) (tn : Tenant) (im mp rs : List Byte) (gs : List Nat), Carries s f 0x0110 r s1 →
    alFind s.sched.tenants f = some tn →
    agentRead s1 f tn.part (r.f 0 8) (r.f 8 4) .plain = (.ok im, s2) →
    agentRead s2 f tn.part (r.f 16 8) (r.f 24 4) .plain = (.ok mp, s3) →
    agentRead s3 f tn.part (r.f 32 8) (r.f 40 4) .plain = (.ok rs, s4) →
    memUse s4 f + codeGranules (im.length + mp.length + rs.length) ≤ tn.memQuota →
    findGranules s4 (granSets s4 tn.part) (codeGranules (im.length + mp.length + rs.length)) = some gs →
    ∃ t, exec .codeLoad s = .next t ∧
      (∀ c, (execOf t c).groups = (execOf s c).groups ∧ (execOf t c).blocks = (execOf s c).blocks) ∧
      (∀ v, verdict s4 im mp rs = some v → t.cores = s.cores ∧ Replied s1 t f r (verifyRep v (Config.imageFault im mp rs v)) ∧
        t.images = s.images ∧ t.nextImage = s.nextImage) ∧
      (verdict s4 im mp rs = none → Replied s1 t f r (okRep (leBytes 8 s.nextImage)) ∧ t.nextImage = s.nextImage + 1 ∧
        ∃ x, t.images = alPut s.images s.nextImage x ∧ x.tenant = f ∧ x.bytes = im.length + mp.length + rs.length ∧
          x.region = gs ∧ x.unloading = false)) ∧
  (∀ (f : Nat) (r : Req) (s s1 : State) (i : Image), Carries s f 0x0111 r s1 → alFind s.images (r.f 0 8) = some i → i.tenant = f →
    (imageRuns s (r.f 0 8) = false → ∃ t, exec .codeUnload s = .next t ∧ Replied s1 t f r (okRep []) ∧
      t.mem.mem = s.mem.mem ∧ t.cores = s.cores ∧ t.images = alDel s.images (r.f 0 8)) ∧
    (imageRuns s (r.f 0 8) = true → ∃ t, exec .codeUnload s = .next t ∧ t.mem = s.mem ∧ t.cores = s.cores ∧
      (mboxOf t f).exec = true ∧ (mboxOf t f).d = (mboxOf s f).d ∧
      alFind t.images (r.f 0 8) = some { i with unloading := true, waiter := some f })) ∧
  (∀ (image f : Nat) (s : State) (i : Image), alFind s.images image = some i → i.unloading = true → imageRuns s image = false →
    i.waiter = some f → f < boardFn → (mboxOf s f).exec = true →
    ∃ t, exec (.codeUnloadEffect image) s = .next t ∧ t.mem.mem = s.mem.mem ∧ t.cores = s.cores ∧
      t.images = alDel s.images image ∧ (mboxOf t f).exec = false ∧
      (mboxOf t f).resp = replyBytes (mboxOf s f).copy (okRep []) (nextSeqNo (mboxOf s f).d) (mboxOf s f).l false) ∧
  (∀ (f : Nat) (r : Req) (s s1 : State), Carries s f 0x0120 r s1 → r.actor < 1024 → r.f 0 1 ≤ 7 →
    bits (r.f 8 8) 63 56 = 0 → bits (r.f 8 8) 50 48 = 0 →
    ∃ t, exec .setPrecisionPolicy s = .next t ∧ Replied s1 t f r (okRep []) ∧ t.mem = s.mem ∧ t.cores = s.cores ∧ t.fe = s.fe ∧
      t.sched = s.sched ∧ (fnOf t r.actor).policies = (fnOf s r.actor).policies.set (r.f 0 1) (r.f 8 8)) ∧
  (∀ (f k : Nat) (r : Req) (s s1 : State), Carries s f 0x0121 r s1 → 2 ≤ r.f 0 1 → r.f 0 1 ≤ 4 → r.f 8 8 % 128 = 0 →
    (∀ i, i < 4 → (if i < r.f 0 1 then r.f (16 + 8 * i) 8 % 128 = 0 else r.f (16 + 8 * i) 8 = 0)) → freeTensor s = some k →
    ∃ t, exec .vtensorRegister s = .next t ∧ Replied s1 t f r (okRep (leBytes 2 k)) ∧ t.mem = s.mem ∧ t.cores = s.cores ∧
      t.vtensors = alPut s.vtensors k
        { tenant := f, slotBytes := r.f 8 8, bases := (List.range (r.f 0 1)).map (fun i => r.f (16 + 8 * i) 8) }) ∧
  (∀ (f : Nat) (r : Req) (s s1 : State) (v : VTensor), Carries s f 0x0122 r s1 → r.f 0 2 < 4096 →
    alFind s.vtensors (r.f 0 2) = some v → v.tenant = f → tensorUsed s (r.f 0 2) = false →
    ∃ t, exec .vtensorUnregister s = .next t ∧ Replied s1 t f r (okRep []) ∧ t.mem = s.mem ∧ t.cores = s.cores ∧
      t.vtensors = alDel s.vtensors (r.f 0 2) ∧ ∀ c ∈ t.captures, c.2.tensor ≠ r.f 0 2) ∧
  (∀ (f : Nat) (r : Req) (s s1 : State) (tn : Tenant), Carries s f 0x0130 r s1 → alFind s.sched.tenants f = some tn →
    poolBad s r = false → alFind s.pools tn.part = none →
    let p0 : Pool := { owner := f, base := r.f 0 8, pages := r.f 8 4, tpp := r.f 12 2, maxSeq := r.f 16 4, maxPages := r.f 20 4, pageBytes := 65536 }
    let p : Pool := { p0 with area := areaPlace s f (poolBytes p0) }
    memUse { s with pools := alPut s.pools tn.part p } f ≤ tn.memQuota → roomFor { s with pools := alPut s.pools tn.part p } f = true →
    ∃ t, exec .benchPoolCreate s = .next t ∧ Replied s1 t f r (okRep []) ∧ t.mem = s.mem ∧ t.cores = s.cores ∧
      t.pools = alPut s.pools tn.part p) ∧
  (∀ (f part : Nat) (r : Req) (s s1 : State) (p : Pool), Carries s f 0x0131 r s1 → poolOf s f = some (part, p) →
    poolBusy s part = false →
    ∃ t, exec .benchPoolDestroy s = .next t ∧ Replied s1 t f r (okRep []) ∧ t.mem = s.mem ∧ t.cores = s.cores ∧
      t.pools = alDel s.pools part) ∧
  (∀ (f part : Nat) (r : Req) (s s1 : State) (p : Pool), Carries s f 0x0132 r s1 → poolOf s f = some (part, p) →
    r.f 0 2 < p.maxSeq →
    ∃ t, exec .benchSeqQuery s = .next t ∧ MailOnly s1 t ∧ Replied s1 t f r (okRep (seqFields (alFind p.seqs (r.f 0 2)))))

/-- Address spaces (R285, R287 to R289): a map places every node that the tenant's tree needs; MAP_DEVICE gives the pages of a range the lowest free granules of the partition's sets,
zeroed; MAP_HOST and MAP_REMOTE give them consecutive frames elsewhere; MEM_UNMAP removes every entry of the range; MAP_QUERY
answers an address's entry. -/
def Obligations.MappingMessagesTakeEffect : Prop :=
  (∀ (f : Nat) (r : Req) (s s1 : State) (gs : List Nat), Carries s f 0x0140 r s1 → mapCheck s r (r.f 8 8 / 65536) = none →
    findGranules s (granSets s ((partOf s r.actor).getD 0)) (r.f 8 8 / 65536) = some gs → gs.Nodup →
    let ps := (spanPages (r.f 0 8) (r.f 8 8)).zip gs
    roomFor (putPages (allocGranules s gs (.page r.actor)) r.actor (ps.map (fun e => (e.1, entryOf r .local 0 e.2)))) r.actor = true →
    s.memOk →
    ∃ t fields, exec .mapDevice s = .next t ∧ Replied s1 t f r (okRep fields) ∧ (∀ c, (execOf t c).groups = (execOf s c).groups ∧
        (execOf t c).blocks = (execOf s c).blocks ∧ (execOf t c).wb = (execOf s c).wb) ∧
      (∀ e ∈ ps, pageOf t r.actor (e.1 * 65536) = some (entryOf r .local 0 e.2)) ∧
      (treeSet s r.actor ≠ none → ∀ n ∈ nodesWanted t r.actor, (alFind t.mem.nodes (nodeKey r.actor n)).isSome = true) ∧
      (∀ g ∈ gs, alFind t.mem.grans g = some (.page r.actor) ∧ alFind s.mem.grans g = none ∧
        (∀ c, ∀ e ∈ (execOf t c).l1, ∀ i, i < 512 → e.2.target ≠ .loc (g * 65536 + 128 * i)) ∧
        ∀ a, g * 65536 ≤ a → a < g * 65536 + 65536 → memByte t a = 0) ∧
      ∀ a, (∀ g ∈ gs, a < g * 65536 ∨ g * 65536 + 65536 ≤ a) → memByte t a = memByte s a) ∧
  (∀ (f op package : Nat) (c : Instr) (k : PageKind) (r : Req) (s s1 : State),
    (c = .mapHost ∧ op = 0x0141 ∧ k = .host ∧ package = 0) ∨ (c = .mapRemote ∧ op = 0x0142 ∧ k = .remote ∧ package = r.f 17 1) →
    Carries s f op r s1 → mapCheck s r 0 = none → r.f 24 8 % 65536 = 0 → r.f 24 8 + r.f 8 8 ≤ 2 ^ 64 →
    let ps := (spanPages (r.f 0 8) (r.f 8 8)).zip (spanPages (r.f 24 8) (r.f 8 8))
    roomFor (putPages s r.actor (ps.map (fun e => (e.1, entryOf r k package e.2)))) r.actor = true →
    ∃ t, exec c s = .next t ∧ Replied s1 t f r (okRep []) ∧ t.cores = s.cores ∧ t.mem.mem = s.mem.mem ∧ t.mem.grans = s.mem.grans ∧
      (∀ e ∈ ps, pageOf t r.actor (e.1 * 65536) = some (entryOf r k package e.2)) ∧
      (treeSet s r.actor ≠ none → ∀ n ∈ nodesWanted t r.actor, (alFind t.mem.nodes (nodeKey r.actor n)).isSome = true) ∧
      ∀ tn va, va < 2 ^ 48 → (tn ≠ r.actor ∨ va / 65536 ∉ spanPages (r.f 0 8) (r.f 8 8)) → pageOf t tn va = pageOf s tn va) ∧
  (∀ (f : Nat) (r : Req) (s s1 : State), Carries s f 0x0143 r s1 → actorBad r = false → spanBad (r.f 0 8) (r.f 8 8) = false →
    ∃ t fields, exec .memUnmap s = .next t ∧ Replied s1 t f r (okRep fields) ∧ t.mem.mem = s.mem.mem ∧ t.fe = s.fe ∧
      (∀ va, r.f 0 8 ≤ va → va < r.f 0 8 + r.f 8 8 → pageOf t r.actor va = none) ∧
      (∀ c, (coreOf s c).exec.blocks.any (fun b => b.2.task.tenant == r.actor) = true → (execOf t c).l1 = [])) ∧
  (∀ (f : Nat) (r : Req) (s s1 : State), Carries s f 0x0144 r s1 → r.actor < 1024 →
    ∃ t, exec .mapQuery s = .next t ∧ MailOnly s1 t ∧
      Replied s1 t f r (okRep (leBytes 8 (((pageOf s r.actor (r.f 0 8)).map pageBits).getD 0))))

/-! ### What the administrator's messages do (Table 15.10) -/

/-- Partitions and tenants (R360, R382 to R385, R402 to R406, R134, R301): PARTITION_CREATE makes the partition with its fields
and powers on its cores; PARTITION_DESTROY removes one without tenants; TENANT_BIND binds a tenant with cleared counters and
the reset policies; TENANT_UNBIND removes the binding and every page of it; QOS_SET changes the selected fields;
FLAG_GRANT gives a free group to a tenant with its flags at 0, and takes it back. -/
def Obligations.PartitionMessagesTakeEffect : Prop :=
  (∀ (f : Nat) (r : Req) (s s1 s0 : State), Carries s f 0x0200 r s1 → partBad s r = false → r.f 1 1 ≤ 1 → r.f 2 1 ≤ 1 →
    setBits 64 (r.f 16 8) ≠ [] → (∀ g ∈ setBits 64 (r.f 16 8), g < Config.partitions s.variant) →
    (r.f 2 1 = 1 → r.f 4 2 % 65536 ≠ 0) → rateBad (r.f 8 2) (r.f 10 2) = false → rateBad (r.f 12 2) (r.f 14 2) = false →
    alFind s.sched.parts (r.f 0 1) = none →
    (∀ e ∈ s.sched.parts, ∀ g ∈ e.2.granules, g ∉ setBits 64 (r.f 16 8)) →
    (r.f 1 1 = 1 → mayDedicate s (setBits 64 (r.f 16 8)) = true ∧
      dedicateSets s1 (r.f 0 1) (setBits 64 (r.f 16 8)) = some s0) → (r.f 1 1 = 0 → s0 = s1) →
    let s' := { s0 with sched.parts := alPut s0.sched.parts (r.f 0 1) (newPart r (setBits 64 (r.f 16 8))) }
    strictFits s' = true → partsValid s' = true →
    ∃ t, exec .partitionCreate s = .next t ∧ Replied s1 t f r (okRep []) ∧ t.sched = s'.sched ∧ t.fe = s.fe ∧
      t.mem.sets = s0.mem.sets ∧ t.mem.mem = s0.mem.mem ∧
      ∀ c, (coreOf s c).present = true → coreGranule c ∈ setBits 64 (r.f 16 8) →
        coreOf t c = { coreOf s c with
          exec := {}, power := .active, owner := none, hold := .free, draining := false, resetNode := none, halted := false, wakeAt := 0 }) ∧
  (∀ (f : Nat) (r : Req) (s s1 : State) (p : Partition), Carries s f 0x0201 r s1 → partBad s r = false →
    alFind s.sched.parts (r.f 0 1) = some p → (∀ e ∈ s.sched.tenants, e.2.part ≠ r.f 0 1) →
    (∀ c ∈ partCores s (r.f 0 1), (coreOf s c).draining = false ∧ (execOf s c).wb = []) →
    ∃ t, exec .partitionDestroy s = .next t ∧ Replied s1 t f r (okRep []) ∧ t.fe = s.fe ∧
      t.sched.parts = alDel s.sched.parts (r.f 0 1) ∧ t.pools = alDel s.pools (r.f 0 1) ∧
      ∀ c, coreGranule c ∈ p.granules → (alFind s.cores c).isSome → coreOf t c = { coreOf s c with
        exec := {}, power := .off, owner := none, hold := .free, draining := false, resetNode := none, halted := false, wakeAt := 0 }) ∧
  (∀ (f : Nat) (r : Req) (s s1 : State) (p : Partition), Carries s f 0x0202 r s1 → partBad s r = false → r.actor < 1024 →
    alFind s.sched.parts (r.f 0 1) = some p → coresBad s (r.f 0 1) (r.f 2 2) = false →
    alFind s.sched.tenants r.actor = none → s.sched.strict = false →
    firmFits { s with sched.tenants := alPut s.sched.tenants r.actor (newTenant (r.f 0 1) (r.f 2 2) (r.f 8 8)) } r.actor = true →
    ∃ t b, exec .tenantBind s = .next t ∧ Replied s1 t f r (okRep []) ∧ t.mem.mem = s.mem.mem ∧ t.mem.pages = s.mem.pages ∧
      t.cores = s.cores ∧ (fnOf t r.actor).policies = List.replicate 8 policyReset ∧ (fnOf t r.actor).cnt = [] ∧
      t.sched.parts = s.sched.parts ∧ alFind t.sched.tenants r.actor = some { newTenant (r.f 0 1) (r.f 2 2) (r.f 8 8) with
        overQuota := b } ∧ (∀ k, k ≠ r.actor → alFind t.sched.tenants k = alFind s.sched.tenants k)) ∧
  (∀ (f : Nat) (r : Req) (s s1 : State) (tn : Tenant), Carries s f 0x0203 r s1 → r.actor < 1024 →
    alFind s.sched.tenants r.actor = some tn → (∀ e ∈ s.fe.queues, e.2.fn = r.actor → e.2.entries = [] ∧ e.2.job = none) →
    s.dbg.scope ≠ some r.actor →
    ∃ t, exec .tenantUnbind s = .next t ∧ Replied s1 t f r (okRep []) ∧ t.mem.mem = s.mem.mem ∧ t.fe = s.fe ∧
      t.sched.tenants = alDel s.sched.tenants r.actor ∧ (∀ va, pageOf t r.actor va = none) ∧
      (∀ i ∈ t.images, i.2.tenant ≠ r.actor) ∧ (∀ p ∈ t.pools, p.2.owner ≠ r.actor)) ∧
  (∀ (f : Nat) (r : Req) (s s1 : State) (p : Partition), Carries s f 0x0204 r s1 → qosBad s r = false →
    alFind s.sched.parts (r.f 0 1) = some p → bit (r.f 1 1) 4 = false → bit (r.f 1 1) 5 = false →
    let s' := { s with sched.parts := alPut s.sched.parts (r.f 0 1) (qosPart r p) }
    strictFits s' = true → partsValid s' = true →
    ∃ t, exec .qosSet s = .next t ∧ Replied s1 t f r (okRep []) ∧ t.mem.mem = s.mem.mem ∧ t.cores = s.cores ∧ t.sched = s'.sched ∧
      (bit (r.f 1 1) 1 = true → (qosPart r p).keep = r.f 3 1) ∧ (bit (r.f 1 1) 1 = false → (qosPart r p).keep = p.keep) ∧
      ∀ h c g, alFind s.mem.ctls h = some c → alFind c.regs (r.f 0 1) = some g →
        creditOf (ctlOf t h) (r.f 0 1) false = min g.credit (qosPart r p).burst) ∧
  (∀ (f : Nat) (r : Req) (s s1 : State) (p : Partition) (tn : Tenant), Carries s f 0x0204 r s1 → qosBad s r = false →
    alFind s.sched.parts (r.f 0 1) = some p → (bit (r.f 1 1) 4 = true ∨ bit (r.f 1 1) 5 = true) →
    strictFits { s with sched.parts := alPut s.sched.parts (r.f 0 1) (qosPart r p) } = true →
    partsValid { s with sched.parts := alPut s.sched.parts (r.f 0 1) (qosPart r p) } = true →
    alFind s.sched.tenants r.actor = some tn → tn.part = r.f 0 1 →
    ∃ t tn', exec .qosSet s = .next t ∧ Replied s1 t f r (okRep []) ∧ t.mem.mem = s.mem.mem ∧ t.cores = s.cores ∧
      t.sched.parts = alPut s.sched.parts (r.f 0 1) (qosPart r p) ∧ alFind t.sched.tenants r.actor = some tn' ∧
      tn'.coresMax = (if bit (r.f 1 1) 4 = true then r.f 16 2 else tn.coresMax) ∧
      tn'.memQuota = (if bit (r.f 1 1) 5 = true then r.f 24 8 else tn.memQuota) ∧ tn'.part = tn.part) ∧
  (∀ (f : Nat) (r : Req) (s s1 : State), Carries s f 0x0205 r s1 → r.f 0 1 ≤ 48 → r.f 1 1 ≤ 16 →
    ∃ t, exec .rtReserveSet s = .next t ∧ Replied s1 t f r (okRep []) ∧ t.mem = s.mem ∧ t.cores = s.cores ∧ t.fe = s.fe ∧
      t.sched = { s.sched with n := r.f 0 1, r := r.f 1 1 }) ∧
  (∀ (f : Nat) (r : Req) (s s1 : State), Carries s f 0x0206 r s1 → r.f 0 2 ≤ 255 → r.actor < 1024 →
    (r.f 2 1 = 1 → alFind s.fe.grants (r.f 0 2) = none →
      ∃ t, exec .flagGrant s = .next t ∧ Replied s1 t f r (okRep []) ∧ t.mem = s.mem ∧ t.cores = s.cores ∧
        t.fe.grants = alPut s.fe.grants (r.f 0 2) r.actor ∧ (∀ k, k / 64 = r.f 0 2 → flagOf t k = 0) ∧
        ∀ k, k / 64 ≠ r.f 0 2 → flagOf t k = flagOf s k) ∧
    (r.f 2 1 = 0 → alFind s.fe.grants (r.f 0 2) = some r.actor →
      ∃ t, exec .flagGrant s = .next t ∧ Replied s1 t f r (okRep []) ∧ t.mem = s.mem ∧ t.cores = s.cores ∧
        t.fe.grants = alDel s.fe.grants (r.f 0 2) ∧
        ∀ n ∈ t.fe.nodes, n.2.phase = .waiting → ndWaitFlag n.2.desc / 64 ≠ r.f 0 2)) ∧
  (∀ (f : Nat) (r : Req) (s s1 : State), Carries s f 0x0207 r s1 → 1 ≤ r.f 0 2 → r.f 0 2 ≤ 168 →
    ∃ t, exec .memScrubConfig s = .next t ∧ Replied s1 t f r (okRep []) ∧ MailOnly s1 t ∧ t.mgmt.scrubHours = r.f 0 2) ∧
  (∀ (f : Nat) (r : Req) (s s1 : State) (p : Partition), Carries s f 0x0208 r s1 → partBad s r = false →
    alFind s.sched.parts (r.f 0 1) = some p →
    partsValid { s with sched.parts := alPut s.sched.parts (r.f 0 1) { p with stashMib := r.f 1 1 } } = true →
    ∃ t, exec .setStashReserve s = .next t ∧ Replied s1 t f r (okRep []) ∧ t.mem = s.mem ∧ t.cores = s.cores ∧ t.regions = s.regions ∧
      t.sched = { s.sched with parts := alPut s.sched.parts (r.f 0 1) { p with stashMib := r.f 1 1 } }) ∧
  (∀ (f : Nat) (r : Req) (s s1 : State), Carries s f 0x0209 r s1 → r.f 0 1 ≤ 1 → s.sched.parts = [] →
    ∃ t, exec .isolationSet s = .next t ∧ Replied s1 t f r (okRep []) ∧ t.mem.mem = s.mem.mem ∧ t.mem.ctls = s.mem.ctls ∧
      t.sched.strict = (r.f 0 1 == 1) ∧
      t.dbg.level = 0)

/-- Links and the twin (R326, R328, R331, R333, R487 to R495): LINK_CONFIG starts the named ports that are DOWN and stops the
others, LINK_RETRAIN starts or retrains one; the route table, the export table and the timeout take what is written;
TWIN_ATTACH begins an attach, answered when it ends, TWIN_DETACH and TWIN_TAKEOVER change the pair's state. -/
def Obligations.LinkMessagesTakeEffect : Prop :=
  (∀ (f : Nat) (r : Req) (s s1 : State), Carries s f 0x0300 r s1 → r.f 8 8 < 2 ^ 40 →
    (∀ p ∈ setBits 40 (r.f 8 8), Config.portBonded s.variant p = true) →
    ∃ t, exec .linkConfig s = .next t ∧ MailOnly s1 t ∧
      ((∃ id, s.selfId = some id ∧ id ≠ r.f 0 1) → Replied s1 t f r (badRep rState) ∧
        t.links.newId = s.links.newId ∧ ∀ p, (portOf t p).st = (portOf s p).st) ∧
      (s.selfId = none ∨ s.selfId = some (r.f 0 1) → Replied s1 t f r (okRep []) ∧ t.links.newId = some (r.f 0 1) ∧
      ∀ p ∈ bondedPorts s.variant, (portOf s p).twin = false →
        (bit (r.f 8 8) p = true → (portOf t p).st = (if (portOf s p).st = .down then .detect else (portOf s p).st)) ∧
        (bit (r.f 8 8) p = false → (portOf t p).st = .down))) ∧
  (∀ (f : Nat) (r : Req) (s s1 : State), Carries s f 0x0301 r s1 → Config.portBonded s.variant (r.f 0 1) = true →
    ((portOf s (r.f 0 1)).st = .down → announcedId s ≠ none) →
    ∃ t, exec .linkRetrain s = .next t ∧ Replied s1 t f r (okRep []) ∧ t.mem = s.mem ∧ t.cores = s.cores ∧
      (((portOf s (r.f 0 1)).st = .down ∨ (portOf s (r.f 0 1)).st = .dead) → (portOf t (r.f 0 1)).st = .detect) ∧
      ((portOf s (r.f 0 1)).st = .up → (portOf t (r.f 0 1)).st = .retrain)) ∧
  (∀ (f : Nat) (r : Req) (s s1 : State), Carries s f 0x0302 r s1 →
    routeEntries r ≠ [] → (routeEntries r).length ≤ 256 → (∀ e ∈ routeEntries r, e < 2 ^ 48 ∧ ∀ p ∈ setBits 40 (e / 256), Config.portBonded s.variant p = true) →
    (∀ p, (portOf s p).wait = []) →
    ∃ t, exec .linkRouteSet s = .next t ∧ Replied s1 t f r (okRep []) ∧ t.mem = s.mem ∧ t.cores = s.cores ∧
      t.links.routes = (routeEntries r).foldl (fun m e => alPut m (e % 256) (e / 256)) (s.links.newRoutes.getD s.links.routes)) ∧
  (∀ (f : Nat) (r : Req) (s s1 : State), Carries s f 0x0303 r s1 → r.f 0 2 < 512 → r.f 3 1 ≤ 63 →
    (bit (r.f 3 1) 5 = true → (bit (r.f 3 1) 1 = true ∨ r.f 4 2 < 1024) ∧ r.f 8 8 % 2 ^ 30 = 0 ∧ r.f 16 8 % 2 ^ 30 = 0) →
    ∃ t, exec .linkExportSet s = .next t ∧ Replied s1 t f r (okRep []) ∧ t.mem = s.mem ∧ t.cores = s.cores ∧
      (bit (r.f 3 1) 5 = true → alFind t.links.exports (r.f 0 2) = some {
        src := if bit (r.f 3 1) 0 = true then none else some (r.f 2 1),
        tenant := if bit (r.f 3 1) 1 = true then none else some (r.f 4 2), base := r.f 8 8, len := r.f 16 8,
        rd := bit (r.f 3 1) 2, wr := bit (r.f 3 1) 3, atomic := bit (r.f 3 1) 4 }) ∧
      (bit (r.f 3 1) 5 = false → t.links.exports = alDel s.links.exports (r.f 0 2))) ∧
  (∀ (f : Nat) (r : Req) (s s1 : State), Carries s f 0x0304 r s1 → 1 ≤ r.f 0 4 → r.f 0 4 ≤ 1000 →
    ∃ t, exec .linkTimeoutSet s = .next t ∧ Replied s1 t f r (okRep []) ∧ MailOnly s1 t ∧ t.links.timeoutMs = r.f 0 4) ∧
  (∀ (f : Nat) (r : Req) (s s1 : State), Carries s f 0x0310 r s1 → r.f 0 1 ≤ 1 → s.twin.st = .off → announcedId s ≠ none →
    (r.f 0 1 = 1 → s.sched.parts = [] ∧ s.pools = [] ∧ ∀ e ∈ s.fns, e.2.ring.configured = false) →
    ∃ t, exec .twinAttach s = .next t ∧ t.mem = s.mem ∧ t.cores = s.cores ∧ t.twin.st = .attaching ∧ t.twin.role = r.f 0 1 ∧
      t.mgmt.busy = some f ∧ (mboxOf t f).exec = true ∧
      ∀ p ∈ Config.twinPorts s.variant, (portOf t p).st = .detect ∧ (portOf t p).twin = true) ∧
  (∀ (f : Nat) (r : Req) (s s1 : State), Carries s f 0x0311 r s1 →
    ∃ t, exec .twinDetach s = .next t ∧ t.twin.st = .off ∧ (s.twin.st = .off → Replied s1 t f r (okRep []) ∧ MailOnly s1 t) ∧
      (s.twin.st ≠ .off → t.twin.sent = [] ∧ ∀ p ∈ Config.twinPorts s.variant, (portOf t p).twin = false)) ∧
  (∀ (f : Nat) (r : Req) (s s1 : State), Carries s f 0x0312 r s1 → r.f 0 1 ≤ 1 → s.twin.role = 1 →
    (s.twin.st = .attaching ∨ s.twin.st = .synced ∨ s.twin.st = .degraded) → s.ras.failed = false →
    (r.f 0 1 = 0 → s.twin.deadSynced = true ∧ ∀ p ∈ Config.twinPorts s.variant, (portOf s p).st = .dead) →
    ∃ t, exec .twinTakeover s = .next t ∧ t.twin.st = .takenOver ∧ t.twin.store = [] ∧
      (∀ k ∈ liveFns s ++ [serviceFn], eventSet t k gRAS 10 = true) ∧
      (f ≠ boardFn → (mboxOf t f).exec = false ∧ ((mboxOf t f).respValid = true ∨ (mboxOf t f).respHeld = true)))

/-- The lasting-fault list, keys, firmware and debug (R439 to R445, R483 to R486, R505, R513): FAULT_LIST_READ answers the entries
from a position, FAULT_LIST_EDIT adds an entry of the host's with this boot's number or removes one; KEY_CHANGE stores the key
that slot 0 wraps, or one in clear while the device is unowned, or erases; FW_UPDATE writes a signed image of no
lower security version to the inactive bank and marks it pending; DEBUG_UNLOCK sets the level and scope, DEBUG_LOCK returns them, WHISTLE raises the whistle from the mailbox. -/
def Obligations.DeviceMessagesTakeEffect : Prop :=
  (∀ (f : Nat) (r : Req) (s s1 : State), Carries s f 0x0320 r s1 →
    let es := (s.mgmt.faults.drop (r.f 0 4)).take 1018
    ∃ t, exec .faultListRead s = .next t ∧ MailOnly s1 t ∧
      Replied s1 t f r (okRep (leBytes 4 s.mgmt.faults.length ++ leBytes 4 es.length ++ es.flatMap entryBytes))) ∧
  (∀ (f : Nat) (r : Req) (s s1 : State), Carries s f 0x0321 r s1 → r.f 0 1 = 0 → s.mgmt.faults.length < listMax →
    let e : FaultEnt := { kind := r.f 16 1, flags := r.f 17 1, place := r.f 18 2, detail := r.f 20 4,
                          boot := if r.f 16 1 = 15 then r.f 24 4 else s.mgmt.bootNo }
    entryValid s e = true →
    ∃ t fields, exec .faultListEdit s = .next t ∧ Replied s1 t f r (okRep fields) ∧ t.mem.mem = s.mem.mem ∧
      { e with flags := e.flags / 2 * 2 + 1 } ∈ t.mgmt.faults ∧
      (e.kind ≠ 15 → e.kind ≠ 5 → fields = leBytes 4 (s.mgmt.faults.length + 1) ∧ t.mem = s.mem ∧ t.cores = s.cores ∧
        t.mgmt.faults = s.mgmt.faults ++ [{ e with flags := e.flags / 2 * 2 + 1 }])) ∧
  (∀ (f : Nat) (r : Req) (s s1 : State) (e : FaultEnt), Carries s f 0x0321 r s1 → r.f 0 1 = 1 →
    s.mgmt.faults[r.f 4 4]? = some e →
    ∃ t fields, exec .faultListEdit s = .next t ∧ Replied s1 t f r (okRep fields) ∧ t.mem.mem = s.mem.mem ∧
      (e.kind ≠ 15 → fields = leBytes 4 (s.mgmt.faults.length - 1) ∧ t.mem = s.mem ∧ t.cores = s.cores ∧
        t.mgmt.faults = s.mgmt.faults.eraseIdx (r.f 4 4))) ∧
  (∀ (f : Nat) (r : Req) (s s1 : State), Carries s f 0x0400 r s1 → r.f 0 1 ≤ 7 → r.f 4 4 ≤ 127 → r.slot = 0 →
    (r.f 1 1 = 0 → (keySlot s1 0).key = none →
      ∃ t, exec .keyChange s = .next t ∧ Replied s1 t f r (okRep []) ∧ t.mem = s.mem ∧ t.cores = s.cores ∧
        keySlot t (r.f 0 1) = { keySlot s1 (r.f 0 1) with key := some ((r.pay.drop 8).take 32), mask := r.f 4 4 }) ∧
    (∀ k0, r.f 1 1 = 0 → (keySlot s1 0).key = some k0 →
      let w := aesUnwrap (k0.map BitVec.toNat) (((r.pay.drop 8).take 40).map BitVec.toNat)
      ∃ t, exec .keyChange s = .next t ∧ t.mem = s.mem ∧ t.cores = s.cores ∧
        (∀ b, w = some b → Replied s1 t f r (okRep []) ∧
          keySlot t (r.f 0 1) = { keySlot s1 (r.f 0 1) with key := some (b.map (BitVec.ofNat 8)), mask := r.f 4 4 }) ∧
        (w = none → Replied s1 t f r (badRep rBadField) ∧ keySlot t (r.f 0 1) = keySlot s1 (r.f 0 1))) ∧
    (r.f 1 1 = 1 → ∃ t, exec .keyChange s = .next t ∧ Replied s1 t f r (okRep []) ∧ t.mem = s.mem ∧ t.cores = s.cores ∧
      (keySlot t (r.f 0 1)).key = none ∧ (r.f 0 1 = 0 → ∀ k, (keySlot t k).key = none))) ∧
  (∀ (f : Nat) (r : Req) (s s1 s2 : State) (im : List Byte), Carries s f 0x0401 r s1 →
    ownRead (r.f 8 4 / 4096 + 2) s1 (if f = boardFn then pf else f) (r.f 0 8) (r.f 8 4) [] = (.ok im, s2) →
    s.mgmt.banks.length = 2 → s.mgmt.activeBank ≤ 1 →
    let svn := Config.firmwareSvn im % 2 ^ 32
    ∃ t, exec .fwUpdate s = .next t ∧ t.mem = s.mem ∧ t.cores = s.cores ∧ t.mgmt.activeBank = s.mgmt.activeBank ∧
      t.mgmt.banks[s.mgmt.activeBank]? = s.mgmt.banks[s.mgmt.activeBank]? ∧
      (Config.signatureOk im = true → s.mgmt.minSvn ≤ svn → t.mgmt.pendingBank = some (1 - s.mgmt.activeBank) ∧
        t.mgmt.banks[1 - s.mgmt.activeBank]? = some { svn := svn, image := im } ∧
        Replied s1 t f r (okRep (leBytes 4 svn ++ leBytes 1 (1 - s.mgmt.activeBank)))) ∧
      (Config.signatureOk im = false → t.mgmt.banks = s.mgmt.banks ∧ Replied s1 t f r (badRep rVerify)) ∧
      (Config.signatureOk im = true → svn < s.mgmt.minSvn → t.mgmt.banks = s.mgmt.banks ∧
        Replied s1 t f r (badRep rRollback))) ∧
  (∀ (f : Nat) (r : Req) (s s1 : State), Carries s f 0x0403 r s1 → 1 ≤ r.f 0 1 → r.f 0 1 ≤ 2 →
    (r.f 2 2 < 1024 ∨ r.f 2 2 = 0xFFFF ∧ s.sched.strict = false) →
    ∃ t, exec .debugUnlock s = .next t ∧ Replied s1 t f r (okRep []) ∧ MailOnly s1 t ∧ t.dbg.level = r.f 0 1 ∧
      t.dbg.scope = if r.f 2 2 = 0xFFFF then none else some (r.f 2 2)) ∧
  (∀ (f : Nat) (r : Req) (s s1 : State), Carries s f 0x0404 r s1 →
    ∃ t, exec .debugLock s = .next t ∧ Replied s1 t f r (okRep []) ∧ t.mem = s.mem ∧ t.fe.jobs = s.fe.jobs ∧ t.dbg.level = 0 ∧
      t.dbg.scope = none ∧ (∀ b ∈ t.dbg.breaks, b.2.en = false) ∧ (s.dbg.raised = true → s.dbg.brkHeld = [] → ∀ c ∈ t.cores, c.2.halted = false)) ∧
  (∀ (f : Nat) (r : Req) (s s1 : State), Carries s f 0x0405 r s1 →
    ∃ t, exec .whistle s = .next t ∧ Replied s1 t f r (okRep []) ∧ t.mem = s.mem ∧ t.dbg.raised = true ∧
      bit t.dbg.sources 4 = true ∧ (s.dbg.raised = false → t.dbg.first = 4 ∧ t.frozen ≠ none))

/-! ### Registers, event rings, counters and debug (chapters 18 and 19) -/

/-- Registers that the host writes (R12, R14, R528, R529, R535, R537, R540): FE_PASID keeps EN and 20 bits unless a queue
uses it; enabling the event ring empties and arms it, with a size of 64 to 4,096 entries alone; its consumer count is
taken when it lies between PROD and a ring behind it; a pending vector sends one message when it is unmasked; a write
of 1 to an event bit clears it; a written enable register reads back its legal bits; CAP_DBG and the policies read as
R520 and R121 say; an offset beyond the window, a size or an alignment that the window does not take changes nothing.
Counter blocks (R500 to R504, R514): a permitted SNAP copies every count with its stamp, a permitted CLEAR sets every
count and overflow bit to 0, a write without the right to the block changes nothing; a counter that has wrapped sets
its overflow bit once. -/
def Obligations.RegisterWritesAndCounters : Prop :=
  (∀ (fn : Nat) (s : State), HostMay s fn →
      (∀ v, fn ≠ serviceFn → (∀ q ∈ s.fe.queues, q.2.fn = fn → q.2.pasid = false) →
        ∃ t, exec (.fePasidWrite fn v) s = .next t ∧ t.mem = s.mem ∧ t.cores = s.cores ∧
          fnOf t fn = { fnOf s fn with pasid := b2n (bit v 31) * 2 ^ 31 + v % 2 ^ 20 } ∧ ∀ k, k ≠ fn → fnOf t k = fnOf s k) ∧
      (∀ v, (fnOf s fn).evr.en = false → bit v 31 = true →
        ∃ t, exec (.eventRingEnable fn v) s = .next t ∧ t.mem = s.mem ∧ t.host = s.host ∧
          (6 ≤ v % 32 ∧ v % 32 ≤ 12 → (fnOf t fn).evr = { (fnOf s fn).evr with
            sizeLog2 := v % 32, en := true, armed := true, prod := 0, cons := 0 }) ∧
          (v % 32 < 6 ∨ 12 < v % 32 → (fnOf t fn).evr.en = false)) ∧
      (∀ v, v < 2 ^ 32 →
        ∃ t, exec (.eventRingConsWrite fn v) s = .next t ∧ t.mem = s.mem ∧ t.cores = s.cores ∧
          (evSize (fnOf s fn).evr < ((fnOf s fn).evr.prod + 2 ^ 32 - v) % 2 ^ 32 → t = s) ∧
          (((fnOf s fn).evr.prod + 2 ^ 32 - v) % 2 ^ 32 ≤ evSize (fnOf s fn).evr → (fnOf t fn).evr.cons = v ∧
            ((fnOf s fn).evr.prod = v → (fnOf t fn).evr.armed = (fnOf s fn).evr.en))) ∧
      (∀ vec, vec < vectorsOf fn →
        let e := alGet {} (fnOf s fn).vecs vec
        ∃ t, exec (.msixUnmask fn vec) s = .next t ∧ t.mem = s.mem ∧ t.cores = s.cores ∧
          (alGet {} (fnOf t fn).vecs vec).masked = false ∧
          (e.pend = true ∧ (fnOf s fn).pcie.msixEn = true → t.host.out = s.host.out ++ [.msix fn vec e.addr e.data] ∧
            (alGet {} (fnOf t fn).vecs vec).pend = false) ∧
          (e.pend = false ∨ (fnOf s fn).pcie.msixEn = false → t.host.out = s.host.out)) ∧
      (∀ addr size v, (2 ^ 22 ≤ addr ∨ (size ≠ 4 ∧ size ≠ 8) ∨ addr % size ≠ 0) →
        ∃ t, exec (.registerWrite fn addr size v) s = .next t ∧ t = s) ∧
      (∀ addr g v, eventReg addr = some (g, false) → ¬ (fn = serviceFn ∧ g < 6) → v < 2 ^ 32 → addr % 4 = 0 →
        ∃ t, exec (.registerWrite fn addr 4 v) s = .next t ∧ t.mem = s.mem ∧ t.cores = s.cores ∧ t.host = s.host ∧
          ∀ b, eventSet t fn g b = (eventSet s fn g b && !(bit v b && decide (b < eventBits g) && bit (eventSeen fn g) b))) ∧
      (∀ addr g v, eventReg addr = some (g, true) → ¬ (fn = serviceFn ∧ g < 6) → v < 2 ^ 32 → addr % 4 = 0 →
        ∃ t, exec (.registerWrite fn addr 4 v) s = .next t ∧ t.mem = s.mem ∧ t.cores = s.cores ∧ t.host = s.host ∧
          ∀ b, bit (alGet 0 (fnOf t fn).en g) b = (bit v b && decide (b < eventBits g) && bit (eventSeen fn g) b) ∧
            bit (readReg t fn addr 4) b = (bit v b && decide (b < eventBits g) && bit (eventSeen fn g) b)) ∧
      readReg s fn 0x40 4 = 0x88444000 + (if bit s.units 4 = true then 0x820 else 0) ∧
      (fn ≠ serviceFn → ∀ k, k < 8 → k < (fnOf s fn).policies.length → (fnOf s fn).policies.getD k 0 < 2 ^ 64 →
        readReg s fn (0x60040 + 8 * k) 8 = (fnOf s fn).policies.getD k 0)) ∧
  ((∀ (fn k : Nat) (s : State), HostMay s fn →
      (blkWriter s fn k = false → (∃ t, exec (.counterSnap fn k) s = .next t ∧ t = s) ∧
        ∃ t, exec (.counterClear fn k) s = .next t ∧ t = s) ∧
      (blkWriter s fn k = true →
        (∃ t, exec (.counterSnap fn k) s = .next t ∧ t.mem = s.mem ∧ t.cores = s.cores ∧ t.fns = s.fns ∧
          (ctrOf t k).snap = (ctrOf s k).count ∧ (ctrOf t k).count = (ctrOf s k).count ∧ (ctrOf t k).snapStamp = 96 * s.time ∧
          (ctrOf t k).snapCause = 1 ∧ ∀ j, j ≠ k → alFind t.dbg.blocks j = alFind s.dbg.blocks j) ∧
        ∃ t, exec (.counterClear fn k) s = .next t ∧ t.mem = s.mem ∧ t.cores = s.cores ∧ t.fns = s.fns ∧
          ctrOf t k = { ctrOf s k with count := [], ovf := 0, wrapped := [] } ∧
          ∀ j, j ≠ k → alFind t.dbg.blocks j = alFind s.dbg.blocks j)) ∧
    (∀ (k n : Nat) (s : State), (ctrOf s k).wrapped.contains n = true →
      ∃ t, exec (.counterOverflow k n) s = .next t ∧ t.mem = s.mem ∧ bit (ctrOf t k).ovf n = true ∧
        (ctrOf t k).wrapped = (ctrOf s k).wrapped.erase n ∧ (ctrOf t k).count = (ctrOf s k).count ∧
        (bit (alGet 0 (ctrOf s k).evsel n) 30 = true → s.dbg.ovfEn = true → t.dbg.raised = true ∧ bit t.dbg.sources 3 = true)))

/-- The whistle, breaks, the access port and trace (R505 to R519, R555): the contact raises the whistle unless the device
drives it; the drive ends 1 µs after the raise; a release, which the physical function may always ask for, ends the freeze
and the halt; a break unit is armed with a cleared count at debug level 1; the access port reads and writes device memory
(a node of a page tree reads as its entries),
and writes nothing outside its level; a source with dropped records tells how many once it has room. -/
def Obligations.DebugFacilitiesWork : Prop :=
  (∀ s : State, s.pm.ready = true → s.dbg.pinEn = true → s.dbg.driving = false →
    ∃ t, exec .whistlePinEdge s = .next t ∧ t.mem = s.mem ∧ t.dbg.raised = true ∧ bit t.dbg.sources 0 = true ∧
      (s.dbg.raised = false → t.dbg.first = 0 ∧ t.dbg.stamp = 96 * s.time ∧
        t.frozen = some (if s.sched.strict = true then some (s.dbg.scope.getD 0x3FF) else none) ∧
        (s.dbg.action = true → s.dbg.level = 2 →
          ∀ c, (coreOf s c).present = true → scopeCore s c = true → (coreOf t c).halted = true))) ∧
  (∀ s : State, s.dbg.driving = true → s.dbg.stamp + 9600 ≤ 96 * s.time →
    ∃ t, exec .whistleDriveEnd s = .next t ∧
      t = { s with dbg.driving := false, host.out := s.host.out ++ [.pin 0 true] }) ∧
  (∀ (fn : Nat) (s : State), HostMay s fn → (fn = pf ∨ dbgAllowed s fn 1 = true) → s.dbg.raised = true → s.dbg.brkHeld = [] →
    ∃ t, exec (.whistleRelease fn) s = .next t ∧ t.mem = s.mem ∧ t.dbg.raised = false ∧ t.dbg.sources = 0 ∧ t.frozen = none ∧
      t.dbg.brkHit = 0 ∧ (∀ c ∈ t.cores, c.2.halted = false) ∧
      ∀ k b, alFind t.dbg.blocks k = some b → b.frozen = false) ∧
  (∀ (fn unit v : Nat) (s : State), HostMay s fn → unit < 4 → dbgAllowed s fn 1 = true →
    ∃ t, exec (.breakArm fn unit v) s = .next t ∧ t.mem = s.mem ∧ t.cores = s.cores ∧ t.fns = s.fns ∧
      alFind t.dbg.breaks unit = some { alGet {} s.dbg.breaks unit with
        en := true, mode := b2n (bit v 30), fired := (alGet {} s.dbg.breaks unit).fired && !bit v 29, queue := v % 4096, fn := fn,
        count := 0 }) ∧
  (∀ (fn v addr : Nat) (s : State), HostMay s fn →
    (dbgAllowed s fn 2 = false → ∃ t, exec (.accessPortGo fn v) s = .next t ∧ t = s) ∧
    (dbgAllowed s fn 2 = true → fn = pf → s.dbg.scope = none → bits v 26 24 = 1 → alGet 0 s.dbg.accAddr fn = addr →
      addr % 8 = 0 → (setOf s addr).isSome = true → nodeAt s addr = none → Homed s (addr / 128 * 128) →
      ∃ t, exec (.accessPortGo fn v) s = .next t ∧ t.mem.mem = s.mem.mem ∧ t.cores = s.cores ∧
        bits (alGet 0 t.dbg.accCtl fn) 31 28 = 0 ∧
        (bit v 27 = false → homeLine t (addr / 128 * 128) = homeLine s (addr / 128 * 128) ∧
          alGet 0 t.dbg.accData fn = leNat (lineSlice (homeLine s (addr / 128 * 128)) (addr % 128) 8)) ∧
        (bit v 27 = true → lineSlice (homeLine t (addr / 128 * 128)) (addr % 128) 8 = leBytes 8 (alGet 0 s.dbg.accData fn))) ∧
    (∀ tn n k, dbgAllowed s fn 2 = true → fn = pf → s.dbg.scope = none → bits v 26 24 = 1 → alGet 0 s.dbg.accAddr fn = addr →
      addr % 8 = 0 → (setOf s addr).isSome = true → nodeAt s addr = some (tn, n, k) → bit v 27 = false →
      ∃ t, exec (.accessPortGo fn v) s = .next t ∧ t.mem = s.mem ∧ t.cores = s.cores ∧ bits (alGet 0 t.dbg.accCtl fn) 31 28 = 0 ∧
        alGet 0 t.dbg.accData fn = nodeEntry s tn n k)) ∧
  (∀ (src : Nat) (s : State) (q : TraceSrc), alGet {} s.dbg.sources0 src = q → traceOn s 10 = true → q.dropped ≠ 0 →
    (src ≠ 0xFFFE → q.fifo.length < 64 → ∃ t, exec (.traceDropEmit src) s = .next t ∧ t.mem = s.mem ∧ t.cores = s.cores ∧
      alGet {} t.dbg.sources0 src =
        { fifo := q.fifo ++ [[10, 0, src, 0x3FF, 96 * s.time, q.dropped, q.firstStamp]] }) ∧
    (src = 0xFFFE → s.dbg.portFifo.length < 32768 → ∃ t, exec (.traceDropEmit src) s = .next t ∧ t.mem = s.mem ∧
      t.cores = s.cores ∧ t.dbg.portFifo = s.dbg.portFifo ++ [[10, 0, src, 0x3FF, 96 * s.time, q.dropped, q.firstStamp]] ∧
      (alGet {} t.dbg.sources0 src).dropped = 0)) ∧
  (∀ (up : Bool) (s : State), bit s.units 4 = true →
    ∃ t, exec (.tracePortUpChange up) s = .next t ∧ t = { s with dbg.portUp := up })

/-! ### The PCI Express side (chapter 19) -/

/-- Configuration and function states (R522 to R525, R534): a configuration request is answered with Request Retry Status
until initialisation ends and completed afterwards, a write taking its effect first; D3hot disables the physical
function's memory decode; clearing VF Enable resets and disables every virtual function. Translations (R530, R531): a
completion enters the translation in the cache, or a final fault where the right is lacking and no page request may be
sent; an invalidation removes the range and is completed; a page request's success asks for the translation again, a
failure makes the fault final and, as a Response Failure, stops page requests. Host reads (R532, R533): a completion
gives the bytes of the host's line to the load that holds its tag and frees the tag; Unsupported Request, or 50 ms
without a completion, makes it MEM_ACCESS, and poison MEM_POISON. A function-level reset clears the function's
registers, mailbox, queues and tensors, and no other function's (R465). -/
def Obligations.PcieSideWorks : Prop :=
  ((∀ (fn reg : Nat) (w : Option Nat) (s : State), s.pm.ready = false → s.pm.phase ≠ .off →
      ∃ t, exec (.configRequest fn reg w) s = .next t ∧ t = { s with host.out := s.host.out ++ [.pcie 4 fn reg] }) ∧
    (∀ (fn reg : Nat) (s : State), s.pm.ready = true → fnLive s fn = true →
      (∃ t, exec (.configRequest fn reg none) s = .next t ∧ t = { s with host.out := s.host.out ++ [.pcie 3 fn reg] }) ∧
      (∃ t, exec (.configRequest fn 4 (some 1)) s = .next t ∧ t.mem = s.mem ∧ t.cores = s.cores ∧
        t.host.out = s.host.out ++ [.pcie 3 fn 4] ∧ (fn ≠ serviceFn → fnOf t fn = { fnOf s fn with pcie := { (fnOf s fn).pcie with pasidEn := true } })) ∧
      (fn = pf → s.host.vfEnable = false → ∀ v, v ≤ 1023 → ∃ t, exec (.configRequest fn 7 (some v)) s = .next t ∧
        t = { s with host := { s.host with numVfs := v, out := s.host.out ++ [.pcie 3 fn 7] } })) ∧
    (∀ s : State, s.pm.ready = true → ∃ t, exec .d3hotEnter s = .next t ∧ t.mem = s.mem ∧ t.cores = s.cores ∧ t.fe = s.fe ∧
      fnOf t pf = { fnOf s pf with pcie := { (fnOf s pf).pcie with d3hot := true } } ∧ ∀ k, k ≠ pf → fnOf t k = fnOf s k) ∧
    (∀ s : State, s.pm.ready = true → s.host.numVfs ≤ 1023 →
      ∃ t, exec .vfDisable s = .next t ∧ t.mem.mem = s.mem.mem ∧ t.host.vfEnable = false ∧ ∀ f, 1 ≤ f → f ≤ 1023 → fnLive t f = false)) ∧
  ((∀ (fn page host : Nat) (pz : Option Nat) (r w : Bool) (s s1 : State) (q : XlatReq), takeXreq s fn pz page false = some (q, s1) →
      let c : Instr := .atsTranslationComplete fn pz page host r w
      let lacks := if q.write = true then !w else !r
      (q.dead = true → ∃ t, exec c s = .next t ∧ t = s1) ∧
      (q.dead = false → lacks = false → ∃ t, exec c s = .next t ∧ (s.twin.role = 0 → t.mem.mem = s.mem.mem) ∧
        alFind t.host.atc (atcKey fn pz (page * 4096)) = some { host := host, r := r, w := w, final := false }) ∧
      (q.dead = false → lacks = true → s.cores = [] → s.saved = [] → (fnOf s fn).evWait = [] → s.fe.jobs = [] → s.twin.role = 0 →
        (∀ f, mboxReady s f = false) →
        ∃ t e, exec c s = .next t ∧ t.mem = s.mem ∧ alFind t.host.atc (atcKey fn pz (page * 4096)) = some e ∧
          (e.final = true ↔ q.retried = true ∨ (fnOf s fn).pcie.pri = false ∨ (fnOf s fn).pcie.priStopped = true))) ∧
    (∀ (fn page pages : Nat) (pz : Option Nat) (s : State), s.pm.ready = true → fn ≠ serviceFn → fnLive s fn = true →
      ∃ t, exec (.atsInvalidateRequest fn pz page pages) s = .next t ∧ t.mem = s.mem ∧ t.cores = s.cores ∧ t.fns = s.fns ∧
        t.host.out = s.host.out ++ [.pcie 6 fn page] ∧ ∀ k, k < pages → ∀ e ∈ t.host.atc, e.1 ≠ atcKey fn pz ((page + k) * 4096)) ∧
    (∀ (fn page code : Nat) (pz : Option Nat) (s s1 : State) (q : XlatReq), takeXreq s fn pz page true = some (q, s1) →
      (code = 0 → q.dead = false → ∃ t rest, exec (.prgResponse fn pz page code) s = .next t ∧
        { q with prg := false, retried := true } ∈ t.host.xreqs ∧ t.host.out = s.host.out ++ [.pcie 1 fn page] ++ rest) ∧
      (code = 15 → ∃ t, exec (.prgResponse fn pz page code) s = .next t ∧ (fnOf t fn).pcie.priStopped = true) ∧
      ((code = 1 ∨ code = 15) → q.dead = false → s.cores = [] → s.saved = [] → (fnOf s fn).evWait = [] → s.fe.jobs = [] →
        s.twin.role = 0 → (∀ f, mboxReady s f = false) → ∃ t e, exec (.prgResponse fn pz page code) s = .next t ∧ t.mem = s.mem ∧
          alFind t.host.atc (atcKey fn pz (page * 4096)) = some e ∧ e.final = true))) ∧
  ((∀ (die tag ha : Nat) (s : State) (a : Txn), txnOf s die tag = some a → a.target = .host ha → a.kind = .load → a.parked = false →
      a.dead = false →
      (∀ ok poison, ∃ t, exec (.hostReadComplete die tag ok poison) s = .next t ∧ t.mem = s.mem ∧ txnOf t die tag = none ∧
        (execOf t a.core).loads = (execOf s a.core).loads.map (fun l => if l.id = a.id then
          (if ok = false then { l with failed := some .memAccess }
           else if poison = true then { l with failed := some .memPoison }
           else { l with got := some (linePlace 0 (cellGets s.host.mem ha 128), 0, 0) }) else l)) ∧
      (a.since + 5000000 ≤ s.time → ∃ t, exec (.hostCompletionTimeout die tag) s = .next t ∧ t.mem = s.mem ∧ txnOf t die tag = none ∧
        (execOf t a.core).loads = (execOf s a.core).loads.map (fun l =>
          if l.id = a.id then { l with failed := some .memAccess } else l))) ∧
    (∀ (fn : Nat) (s : State), s.pm.ready = true → fnLive s fn = true → fn ≠ pf → (s.fns.map (·.1)).Pairwise (· < ·) →
      (s.mgmt.mboxes.map (·.1)).Pairwise (· < ·) → (s.fe.queues.map (·.1)).Pairwise (· < ·) → (s.vtensors.map (·.1)).Pairwise (· < ·) →
      (∀ q ∈ s.fe.queues, q.2.fn = fn → q.2.job = none) → (∀ j ∈ s.fe.jobs, j.2.fn ≠ fn) →
      ∃ t, exec (.functionLevelReset fn) s = .next t ∧ t.mem.mem = s.mem.mem ∧ t.sched.parts = s.sched.parts ∧
        fnOf t fn = {} ∧ mboxOf t fn = {} ∧ (∀ q ∈ t.fe.queues, q.2.fn ≠ fn) ∧ (∀ v ∈ t.vtensors, v.2.tenant ≠ fn) ∧
        (∀ i ∈ t.images, i.2.tenant ≠ fn) ∧ ∀ e ∈ t.host.atc, e.1 / 2 ^ 80 ≠ fn))

/-! ### Power, clocks and resets (chapters 16 and 20) -/

/-- Cold resets (R462, R553, R559, R563): each cause of a cold reset takes the package down with its cause recorded and
its memory lost, the lasting-fault list and the firmware banks kept; THERMTRIP_N follows the thermal trip; from there
POWER_GOOD runs initialisation: the timebase starts at 0, the boot number advances, every core that the list does not
remove is present and powered off, and the device is ready. Warm resets (R462, R466 to R468, R554): each cause stops
all work and keeps memory's bytes, the interleave sets and the timebase, with its cause recorded; when the flush times
out, the lines still dirty are lost and counted; when the last cause is released, what is dirty has been written back
and the device is initialised again. Clocks, limits and sensors (R450 to R455, R277, R564): a block at 105 °C or more
takes one rung more, with an event, and one below 95 °C for 1 ms gives one back; the limiter's drop lasts at least 200
µs and is counted; a leak is reported and acts no further; a stack above 85 °C is refreshed at twice the rate. Power
states (R456 to R458, Table 16.3): a core, a region's slices or another block that has been idle for 64 cycles gates;
after 100 us without work a core enters retention with its L1 empty and its stores kept, a slice with its lines kept,
a controller with nothing queued enters self-refresh; a wake makes a gated or retained block active, from retention
after the wake time, and changes no value. -/
def Obligations.ResetsAndPowerFollow : Prop :=
  ((∀ (c : Instr) (cause : Nat) (s : State), s.pm.phase ≠ .off →
      (c, cause) ∈ [(Instr.inputUndervoltage, 1), (.refclkLoss, 2), (.thermalTrip, 3)] →
      ∃ t, exec c s = .next t ∧ t.pm.phase = .off ∧ t.pm.ready = false ∧ t.pm.cause = cause ∧ t.mem = {} ∧ t.cores = [] ∧
        t.sched = {} ∧ t.fe = {} ∧ t.fns = [] ∧ t.mgmt.faults = s.mgmt.faults ∧ t.mgmt.banks = s.mgmt.banks ∧
        t.mgmt.bootNo = s.mgmt.bootNo ∧ t.host.mem = s.host.mem ∧ (c = .thermalTrip → t.pm.thermTrip = true)) ∧
    (∀ s : State, s.pm.thermTrip = true → ∃ t, exec .thermalTripRecover s = .next t ∧
      t = { s with pm.thermTrip := false, host.out := s.host.out ++ [.pin 2 true] }) ∧
    (∀ (b : BootIn) (s : State), s.pm.phase = .off → s.pm.thermTrip = false → s.pm.mrstLow = false → s.pm.perstLow = false →
      s.mgmt.pendingBank = none →
      ∃ t, exec (.powerGood b) s = .next t ∧ t.pm.phase = .running ∧ t.pm.ready = true ∧ t.pm.pgood = true ∧ t.time = 0 ∧
        t.mgmt.bootNo = s.mgmt.bootNo + 1 ∧ (s.mem.mem = [] → t.mem.mem = []) ∧ t.mgmt.mboxes = s.mgmt.mboxes ∧
        t.cores.length = Config.cores s.variant ∧ ∀ c, c < Config.cores s.variant →
          (coreOf t c).power = .off ∧ execOf t c = {} ∧ ((coreOf t c).present = true ↔ coreOut (knownFaults t.mgmt.faults b) c = false))) ∧
  ((∀ (c : Instr) (cause : Nat) (s : State), s.pm.ready = true → s.pm.wflush = true →
      (c, cause) ∈ [(Instr.mrstNAssert, 4), (.perstAssert, 5), (.pcieHotReset, 6)] →
      ∃ t, exec c s = .next t ∧ t.pm.phase = .warm ∧ t.pm.ready = false ∧ t.pm.cause = cause ∧ t.pm.flushFrom = some s.time ∧
        t.time = s.time ∧ t.mem.mem = s.mem.mem ∧ t.mem.sets.map (·.base) = s.mem.sets.map (·.base) ∧ t.cores = [] ∧ t.fe = {} ∧
        t.fns = [] ∧ t.mgmt.keys = s.mgmt.keys ∧ t.mgmt.banks = s.mgmt.banks ∧ t.host.mem = s.host.mem ∧
        ∀ r, (regionOf t r).lines = (regionOf s r).lines) ∧
    (∀ (c : Instr) (s : State), s.pm.ready = false → (c = .perstRelease ∨ c = .perstAssert ∨ c = .mrstNAssert) →
      ∃ t, exec c s = .next t ∧ t = { s with pm := { s.pm with
        perstLow := if c = .perstRelease then false else if c = .perstAssert then true else s.pm.perstLow,
        mrstLow := if c = .mrstNAssert then true else s.pm.mrstLow } }) ∧
    (∀ (left : List (Nat × Nat)) (s : State) (from_ : Nat), s.pm.phase = .warm → s.pm.flushFrom = some from_ →
      from_ + 200000 ≤ s.time → ((dirtyLines s).filter (fun x => left.contains x)) ≠ [] →
      ∃ t, exec (.warmFlushTimeout left) s = .next t ∧ t.pm.flushFrom = none ∧ t.pm.flushIncomplete = true ∧ t.pm.phase = .warm ∧
        t.pm.lost = min ((dirtyLines s).filter (fun x => left.contains x)).length (2 ^ 24 - 1) ∧
        ∀ r, (regionOf t r).lines = []) ∧
    (∀ (b : BootIn) (s : State), s.pm.phase = .warm → s.mgmt.pendingBank = none →
      ∃ t, exec (.warmResetRelease b) s = .next t ∧ t.pm.phase = .running ∧ t.pm.ready = true ∧ t.pm.mrstLow = false ∧
        t.pm.perstLow = false ∧ t.time = s.time ∧ t.mgmt.bootNo = s.mgmt.bootNo + 1 ∧ (s.mem.stackOff = [] →
          (∀ e ∈ t.mgmt.faults, e.kind ≠ 7) → t.mem.sets = s.mem.sets) ∧ t.pm.flushFrom = none ∧ dirtyLines t = [] ∧ t.cores.length = Config.cores s.variant)) ∧
  ((∀ (b : PowerBlock) (temp last : Nat) (s : State), lastRung s b = some last → s.pm.phase = .running → 105 ≤ temp → temp < 120 →
      ∃ t, exec (.thermalStepCoarser b temp) s = .next t ∧ t.mem = s.mem ∧ t.cores = s.cores ∧
        (thermRung s b < last → thermRung t b = thermRung s b + 1 ∧ eventSet t pf gPM 1 = true) ∧
        (last ≤ thermRung s b → thermRung t b = thermRung s b ∧ t.fns = s.fns)) ∧
    (∀ (b : PowerBlock) (temp last : Nat) (s : State), lastRung s b = some last → s.pm.phase = .running → temp < 95 →
      0 < thermRung s b → (s.pm.rungs.map (·.1)).Nodup → alGet 0 s.pm.cool (blkKey b.kind b.ix) + 100000 ≤ s.time →
      ∃ t, exec (.thermalStepFiner b temp) s = .next t ∧ t.mem = s.mem ∧ t.cores = s.cores ∧
        thermRung t b = thermRung s b - 1 ∧ alGet 0 t.pm.cool (blkKey b.kind b.ix) = s.time) ∧
    (∀ (b : PowerBlock) (temp last : Nat) (s : State), lastRung s b = some last → s.pm.phase = .running → 95 ≤ temp →
      ∃ t, exec (.thermalStepFiner b temp) s = .next t ∧ t.mem = s.mem ∧ t.cores = s.cores ∧
        thermRung t b = thermRung s b ∧ alGet 0 t.pm.cool (blkKey b.kind b.ix) = s.time) ∧
    (∀ s : State, s.pm.phase = .running → ∃ t, exec .limiterTrip s = .next t ∧ t.mem = s.mem ∧ t.cores = s.cores ∧
      t.pm.drop = true ∧ t.pm.dropUntil = s.time + 20000 ∧ eventSet t pf gPM 0 = true ∧ eventSet t serviceFn gPM 0 = true) ∧
    (∀ s : State, s.pm.drop = true → s.pm.dropUntil ≤ s.time →
      ∃ t, exec .limiterRelease s = .next t ∧ t = { s with pm.drop := false }) ∧
    (∀ s : State, ∃ t, exec .leakDetect s = .next t ∧ t = { s with pm.leak := true, host.out := s.host.out ++ [.pin 3 false] }) ∧
    (∀ (stack temp : Nat) (s : State), s.pm.phase = .running → stack < Config.hbmStacks s.variant →
      ∃ t, exec (.stackTemperatureReadout stack temp) s = .next t ∧ t.mem.mem = s.mem.mem ∧ t.cores = s.cores ∧
        (stack ∈ t.mem.hot ↔ 85 < temp) ∧ ∀ k, k ≠ stack → (k ∈ t.mem.hot ↔ k ∈ s.mem.hot))) ∧
  ((∀ (ix : Nat) (s : State), s.pm.phase = .running →
      (idleFor s { kind := 0, ix := ix } = true → (coreOf s ix).power = .active →
        ∃ t, exec (.blockClockGate { kind := 0, ix := ix }) s = .next t ∧ t.mem = s.mem ∧
          coreOf t ix = { coreOf s ix with power := .gated } ∧ ∀ c, c ≠ ix → coreOf t c = coreOf s c) ∧
      (idleLong s { kind := 0, ix := ix } = true → ((coreOf s ix).power = .active ∨ (coreOf s ix).power = .gated) →
        ∃ t, exec (.blockRetentionEnter { kind := 0, ix := ix }) s = .next t ∧ t.mem = s.mem ∧ (coreOf t ix).power = .retention ∧
          (execOf t ix).l1 = [] ∧ (execOf t ix).istore = (execOf s ix).istore ∧ ∀ c, c ≠ ix → coreOf t c = coreOf s c)) ∧
    (∀ (ix : Nat) (s : State), s.pm.phase = .running → ix < Config.regions s.variant →
      (idleFor s { kind := 2, ix := ix } = true → (regionOf s ix).power = .active →
        ∃ t, exec (.blockClockGate { kind := 2, ix := ix }) s = .next t ∧ t.mem = s.mem ∧
          regionOf t ix = { regionOf s ix with power := .gated }) ∧
      (idleLong s { kind := 2, ix := ix } = true → ((regionOf s ix).power = .active ∨ (regionOf s ix).power = .gated) →
        ∃ t, exec (.blockRetentionEnter { kind := 2, ix := ix }) s = .next t ∧ t.mem = s.mem ∧
          regionOf t ix = { regionOf s ix with power := .retention, side := [] })) ∧
    (∀ (ix : Nat) (s : State), s.pm.phase = .running →
      (((coreOf s ix).power = .gated ∨ (coreOf s ix).power = .retention) →
        ∃ t, exec (.blockWake { kind := 0, ix := ix }) s = .next t ∧ t.mem = s.mem ∧
          coreOf t ix = { coreOf s ix with
            power := .active, wakeAt := if (coreOf s ix).power = .retention then s.time + 200 else (coreOf s ix).wakeAt } ∧
          ∀ c, c ≠ ix → coreOf t c = coreOf s c) ∧
      ((coreOf s ix).power = .off → ∃ t, exec (.blockWake { kind := 0, ix := ix }) s = .next t ∧ t = s) ∧
      (ix < Config.regions s.variant → ((regionOf s ix).power = .gated ∨ (regionOf s ix).power = .retention) →
        ∃ t, exec (.blockWake { kind := 2, ix := ix }) s = .next t ∧ t.mem = s.mem ∧
          regionOf t ix = { regionOf s ix with
            power := .active, wakeAt := if (regionOf s ix).power = .retention then s.time + 100 else (regionOf s ix).wakeAt })) ∧
    (∀ (ix : Nat) (s : State), s.pm.phase = .running →
      (idleFor s { kind := 1, ix := ix } = true → (clusterOf s ix).power = .active →
        ∃ t, exec (.blockClockGate { kind := 1, ix := ix }) s = .next t ∧ t.mem = s.mem ∧
          clusterOf t ix = { clusterOf s ix with power := .gated }) ∧
      (clusterIdle s ix = true → ((clusterOf s ix).power = .active ∨ (clusterOf s ix).power = .gated) →
        (∀ i, i < 8 → (coreOf s (8 * ix + i)).present = false ∨ (coreOf s (8 * ix + i)).power = .retention) →
        ∃ t, exec (.blockRetentionEnter { kind := 1, ix := ix }) s = .next t ∧ t.mem = s.mem ∧
          clusterOf t ix = { clusterOf s ix with power := .retention })) ∧
    (∀ (ix : Nat) (s : State), s.pm.phase = .running → ctlServes (ctlOf s ix) = true → (ctlOf s ix).reads = [] →
      (ctlOf s ix).writes = [] → (ctlOf s ix).lastUse + 10000 ≤ s.time →
      ∃ t, exec (.blockRetentionEnter { kind := 4, ix := ix }) s = .next t ∧ t.mem.mem = s.mem.mem ∧
        ctlOf t ix = { ctlOf s ix with st := .retention, rows := [] }) ∧
    (∀ (k ix : Nat) (s : State), s.pm.phase = .running → k = 3 ∨ k = 5 → blockPower s { kind := k, ix := ix } = .gated →
      ∃ t, exec (.blockWake { kind := k, ix := ix }) s = .next t ∧ t.mem = s.mem ∧ t.cores = s.cores ∧
        blockPower t { kind := k, ix := ix } = .active))
end

