-- ==== Sys2Proof/Laws/Aes.lean ====
section
/-! SUPPORT. The cipher of R439 keeps to bytes: round keys, blocks and message authentication codes are strings of sixteen
numbers below 256. -/

namespace Sys2Proof.Machine

/-- A block: sixteen bytes. -/
def Blk (n : Nat) (b : List Nat) : Prop := b.length = n ∧ ∀ x ∈ b, x < 256

theorem aesSub_lt : ∀ a < 256, aesSub a < 256 := by decide +kernel

theorem xor_lt {a b : Nat} (ha : a < 256) (hb : b < 256) : a ^^^ b < 256 := Nat.xor_lt_two_pow (n := 8) ha hb

theorem aesMulN_lt (n : Nat) : ∀ a b, a < 256 → aesMulN n a b < 256 := by
  induction n with
  | zero => intro a b _; simp [aesMulN]
  | succ n ih =>
    intro a b ha
    unfold aesMulN
    refine xor_lt (by split <;> omega) (ih _ _ ?_)
    unfold aesX; split
    · omega
    · exact xor_lt (Nat.mod_lt _ (by decide)) (by decide)

theorem xorBytes_blk {n : Nat} {a b : List Nat} (ha : Blk n a) (hb : Blk n b) : Blk n (xorBytes a b) := by
  refine ⟨by simp [xorBytes, ha.1, hb.1], fun x hx => ?_⟩
  unfold xorBytes at hx
  obtain ⟨i, hi, rfl⟩ := List.getElem_of_mem hx
  simp only [List.getElem_zipWith]
  exact xor_lt (ha.2 _ (List.getElem_mem _)) (hb.2 _ (List.getElem_mem _))

theorem map_blk {n : Nat} {a : List Nat} {f : Nat → Nat} (ha : Blk n a) (hf : ∀ x < 256, f x < 256) : Blk n (a.map f) :=
  ⟨by simp [ha.1], fun x hx => by obtain ⟨y, hy, rfl⟩ := List.mem_map.1 hx; exact hf _ (ha.2 _ hy)⟩

theorem getD_lt {n : Nat} {a : List Nat} (ha : Blk n a) (i : Nat) : a.getD i 0 < 256 := by
  by_cases h : i < a.length
  · rw [List.getD_eq_getElem _ _ h]; exact ha.2 _ (List.getElem_mem _)
  · rw [List.getD_eq_default _ _ (by omega)]; decide

theorem range_blk {f : Nat → Nat} (n : Nat) (hf : ∀ i, f i < 256) : Blk n ((List.range n).map f) :=
  ⟨by simp, fun x hx => by obtain ⟨y, -, rfl⟩ := List.mem_map.1 hx; exact hf _⟩

theorem aesShift_blk {k : Nat} {s : List Nat} (h : Blk 16 s) : Blk 16 (aesShift k s) := range_blk 16 (fun _ => getD_lt h _)

theorem aesMix_blk {row s : List Nat} (hr : ∀ x ∈ row, x < 256) : Blk 16 (aesMix row s) := by
  refine range_blk 16 (fun i => ?_)
  have g : ∀ j, row.getD j 0 < 256 := fun j => getD_lt (n := row.length) ⟨rfl, hr⟩ j
  simp only [List.range, List.range.loop, List.foldl]
  have m : ∀ j b, aesMul (row.getD j 0) b < 256 := fun j b => aesMulN_lt _ _ _ (g j)
  exact xor_lt (xor_lt (xor_lt (xor_lt (by decide) (m _ _)) (m _ _)) (m _ _)) (m _ _)

theorem aesRounds_blk (ks : List (List Nat)) : ∀ s, (∀ k ∈ ks, Blk 16 k) → Blk 16 s → Blk 16 (aesRounds ks s) := by
  induction ks with
  | nil => intro s _ h; exact h
  | cons k r ih =>
    intro s hk hs
    have hsub := aesShift_blk (k := 1) (map_blk hs aesSub_lt)
    cases r with
    | nil => exact xorBytes_blk hsub (hk _ (by simp))
    | cons k' r => exact ih _ (fun x hx => hk x (by simp [hx])) (xorBytes_blk (aesMix_blk (by decide)) (hk _ (by simp)))

theorem aesEncrypt_blk {key b : List Nat} (hk : ∀ k ∈ aesKeys key, Blk 16 k) (hb : Blk 16 b) :
    Blk 16 (aesEncrypt key b) := by
  unfold aesEncrypt
  split
  · exact hb
  · rename_i k r h
    exact aesRounds_blk r _ (fun x hx => hk x (by simp [h, hx])) (xorBytes_blk hb (hk _ (by simp [h])))

theorem aesX_lt {a : Nat} (h : a < 256) : aesX a < 256 := by
  unfold aesX; split
  · omega
  · exact xor_lt (Nat.mod_lt _ (by decide)) (by decide)

theorem aesExpand_blk (n : Nat) : ∀ i rc ws, rc < 256 → 8 ≤ ws.length → (∀ w ∈ ws, Blk 4 w) →
    (aesExpand n i rc ws).length = ws.length + n ∧ ∀ w ∈ aesExpand n i rc ws, Blk 4 w := by
  induction n with
  | zero => intro i rc ws _ _ h; exact ⟨rfl, h⟩
  | succ n ih =>
    intro i rc ws hr hl h
    have hw : Blk 4 (aesNextWord ws i rc) := by
      obtain ⟨w0, ws', rfl⟩ : ∃ a b, ws = a :: b := by cases ws with
        | nil => simp at hl
        | cons a b => exact ⟨a, b, rfl⟩
      have h0 := h w0 (by simp)
      have h7 : Blk 4 ((w0 :: ws').getD 7 []) := by
        rw [List.getD_eq_getElem _ _ (by omega)]; exact h _ (List.getElem_mem _)
      have hrot : Blk 4 (w0.drop 1 ++ w0.take 1) := by
        obtain ⟨hl0, hb0⟩ := h0
        refine ⟨by simp [hl0], fun x hx => ?_⟩
        rcases List.mem_append.1 hx with hx | hx
        · exact hb0 _ (List.mem_of_mem_drop hx)
        · exact hb0 _ (List.mem_of_mem_take hx)
      unfold aesNextWord
      simp only [List.headD_cons]
      refine xorBytes_blk h7 ?_
      split
      · exact xorBytes_blk (map_blk hrot aesSub_lt) ⟨rfl, by simpa using hr⟩
      · split
        · exact map_blk h0 aesSub_lt
        · exact h0
    have := ih (i + 1) (if i % 8 = 0 then aesX rc else rc) (aesNextWord ws i rc :: ws) (by split; exacts [aesX_lt hr, hr])
      (by simp; omega) (fun w hw' => by rcases List.mem_cons.1 hw' with rfl | hw'; exacts [hw, h _ hw'])
    exact ⟨by rw [aesExpand, this.1]; simp; omega, this.2⟩

theorem flatten_blk (ws : List (List Nat)) (h : ∀ w ∈ ws, Blk 4 w) : Blk (4 * ws.length) ws.flatten := by
  induction ws with
  | nil => exact ⟨rfl, by simp⟩
  | cons w r ih =>
    have hw := h w (by simp)
    have hr := ih (fun x hx => h x (by simp [hx]))
    refine ⟨by simp [hw.1, hr.1] ; have := hr.1; simp at this; omega, fun x hx => ?_⟩
    rw [List.flatten_cons] at hx
    rcases List.mem_append.1 hx with hx | hx
    · exact hw.2 _ hx
    · exact hr.2 _ hx

theorem aesKeys_blk {key : List Nat} (h : Blk 32 key) : ∀ k ∈ aesKeys key, Blk 16 k := by
  intro k hk
  unfold aesKeys at hk
  obtain ⟨r, hr, rfl⟩ := List.mem_map.1 hk
  have hr := List.mem_range.1 hr
  have e := aesExpand_blk 52 8 1 ((List.range 8).map (fun i => (key.drop (4 * i)).take 4)).reverse (by decide) (by simp) (by
    intro w hw
    obtain ⟨i, hi, rfl⟩ := List.mem_map.1 (List.mem_reverse.1 hw)
    have hi := List.mem_range.1 hi
    exact ⟨by simp [h.1]; omega, fun x hx => h.2 _ (List.mem_of_mem_drop (List.mem_of_mem_take hx))⟩)
  simp only [List.length_reverse, List.length_map, List.length_range] at e
  have g := flatten_blk ((((aesExpand 52 8 1 ((List.range 8).map (fun i => (key.drop (4 * i)).take 4)).reverse).reverse).drop
    (4 * r)).take 4) (fun w hw => e.2 w (List.mem_reverse.1 (List.mem_of_mem_drop (List.mem_of_mem_take hw))))
  have hl : ((((aesExpand 52 8 1 ((List.range 8).map (fun i => (key.drop (4 * i)).take 4)).reverse).reverse).drop
    (4 * r)).take 4).length = 4 := by simp [e.1]; omega
  rw [hl] at g
  exact g

theorem beBytes_blk (n x : Nat) : Blk n (beBytes n x) := range_blk n (fun _ => Nat.mod_lt _ (by decide))

theorem cmacChain_blk {key : List Nat} {k1 k2 : Nat} (hk : ∀ k ∈ aesKeys key, Blk 16 k) (fuel : Nat) :
    ∀ m c, (∀ x ∈ m, x < 256) → Blk 16 c → Blk 16 (cmacChain key k1 k2 fuel m c) := by
  induction fuel with
  | zero => intro m c _ h; exact h
  | succ n ih =>
    intro m c hm hc
    unfold cmacChain
    split
    · rename_i hl
      refine aesEncrypt_blk hk (xorBytes_blk hc ?_)
      split
      · exact xorBytes_blk ⟨by assumption, hm⟩ (beBytes_blk _ _)
      · refine xorBytes_blk ⟨by simp; omega, fun x hx => ?_⟩ (beBytes_blk _ _)
        simp only [List.append_assoc, List.mem_append, List.mem_singleton, List.mem_replicate] at hx
        rcases hx with hx | rfl | ⟨-, rfl⟩
        · exact hm _ hx
        · decide
        · decide
    · rename_i hl
      exact ih _ _ (fun x hx => hm _ (List.mem_of_mem_drop hx))
        (aesEncrypt_blk hk (xorBytes_blk hc ⟨by simp; omega, fun x hx => hm _ (List.mem_of_mem_take hx)⟩))

/-- A message authentication code is sixteen bytes. -/
theorem aesCmac_blk {key m : List Nat} (hk : Blk 32 key) (hm : ∀ x ∈ m, x < 256) : Blk 16 (aesCmac key m) := by
  unfold aesCmac
  exact cmacChain_blk (aesKeys_blk hk) _ _ _ hm ⟨rfl, by simp⟩

end Sys2Proof.Machine
end

