-- ==== Sys2Proof/Laws/Base.lean ====
section
/-! SUPPORT. Laws of association lists and of memory cells: a read after a write, writes that leave other places alone,
and the canonical form that every memory operation keeps. -/

namespace Sys2Proof.Machine

/-! ### Association lists -/

@[simp] theorem alFind_alPut_self {α : Type} (m : AL α) (k : Nat) (v : α) : alFind (alPut m k v) k = some v := by
  induction m with
  | nil => simp [alPut, alFind]
  | cons e r ih =>
    obtain ⟨k', v'⟩ := e
    simp only [alPut]
    split
    · simp [alFind]
    · split
      · simp [alFind]
      · simp [alFind, *]

theorem alFind_alPut_other {α : Type} (m : AL α) (k j : Nat) (v : α) (h : j ≠ k) :
    alFind (alPut m k v) j = alFind m j := by
  induction m with
  | nil => simp [alPut, alFind, h]
  | cons e r ih =>
    obtain ⟨k', v'⟩ := e
    simp only [alPut]
    split
    · simp [alFind, h]
    · split
      · rename_i _ hk
        subst hk
        simp [alFind, h]
      · simp [alFind, ih]

theorem alFind_alPut {α : Type} (m : AL α) (k j : Nat) (v : α) :
    alFind (alPut m k v) j = if j = k then some v else alFind m j := by
  split
  · subst j; simp
  · exact alFind_alPut_other m k j v ‹_›

@[simp] theorem alGet_alPut_self {α : Type} (d : α) (m : AL α) (k : Nat) (v : α) : alGet d (alPut m k v) k = v := by
  simp [alGet]

theorem alGet_alPut_other {α : Type} (d : α) (m : AL α) (k j : Nat) (v : α) (h : j ≠ k) :
    alGet d (alPut m k v) j = alGet d m j := by
  simp [alGet, alFind_alPut_other m k j v h]

theorem alGet_alPut {α : Type} (d : α) (m : AL α) (k j : Nat) (v : α) :
    alGet d (alPut m k v) j = if j = k then v else alGet d m j := by
  split
  · subst j; simp
  · exact alGet_alPut_other d m k j v ‹_›

@[simp] theorem alGet_alMod_self {α : Type} (d : α) (m : AL α) (k : Nat) (f : α → α) :
    alGet d (alMod d m k f) k = f (alGet d m k) := by simp [alMod]

theorem alGet_alMod_other {α : Type} (d : α) (m : AL α) (k j : Nat) (f : α → α) (h : j ≠ k) :
    alGet d (alMod d m k f) j = alGet d m j := by simp [alMod, alGet_alPut_other, h]

theorem alGet_of_alFind {α : Type} (d : α) (m : AL α) (k : Nat) (v : α) (h : alFind m k = some v) : alGet d m k = v := by
  simp [alGet, h]

/-! ### Memory cells -/

/-- Every listed address lies above `b`. -/
def cellsAbove (b : Nat) (m : List (Nat × BitVec 8)) : Prop := ∀ c ∈ m, b < c.1

theorem cellsWf_cons (a : Nat) (b : Byte) (r : List (Nat × BitVec 8)) :
    cellsWf ((a, b) :: r) = true ↔ b ≠ 0 ∧ cellsAbove a r ∧ cellsWf r = true := by
  induction r generalizing a b with
  | nil => simp [cellsWf, cellsAbove]
  | cons e r ih =>
    obtain ⟨a', b'⟩ := e
    have h := ih a' b'
    simp only [cellsWf, Bool.and_eq_true, decide_eq_true_eq, cellsAbove, List.mem_cons, forall_eq_or_imp] at h ⊢
    constructor
    · rintro ⟨⟨hb, ha⟩, hw⟩
      obtain ⟨-, h2, -⟩ := h.mp hw
      exact ⟨hb, ⟨ha, fun c hc => lt_trans ha (h2 c hc)⟩, hw⟩
    · rintro ⟨hb, ⟨ha, -⟩, hw⟩
      exact ⟨⟨hb, ha⟩, hw⟩

/-- A write lists no address that was neither listed nor written. -/
theorem mem_cellPut (m : List (Nat × BitVec 8)) (a : Nat) (b : Byte) (c : Nat × BitVec 8) (h : c ∈ cellPut m a b) :
    c.1 = a ∨ c ∈ m := by
  induction m with
  | nil => simp only [cellPut] at h; split at h <;> simp_all
  | cons e r ih =>
    obtain ⟨a', b'⟩ := e
    simp only [cellPut] at h
    split at h
    · split at h
      · exact .inr h
      · rcases List.mem_cons.mp h with h | h
        · exact .inl (by simp [h])
        · exact .inr h
    · split at h
      · split at h
        · exact .inr (List.mem_cons_of_mem _ h)
        · rcases List.mem_cons.mp h with h | h
          · exact .inl (by simp [h])
          · exact .inr (List.mem_cons_of_mem _ h)
      · rcases List.mem_cons.mp h with h | h
        · exact .inr (by simp [h])
        · rcases ih h with h | h
          · exact .inl h
          · exact .inr (List.mem_cons_of_mem _ h)

/-- A write of one byte keeps the canonical form. -/
theorem cellPut_wf (m : List (Nat × BitVec 8)) (a : Nat) (b : Byte) (h : cellsWf m = true) :
    cellsWf (cellPut m a b) = true := by
  induction m with
  | nil => simp only [cellPut]; split <;> simp_all [cellsWf]
  | cons e r ih =>
    obtain ⟨a', b'⟩ := e
    obtain ⟨hb, ha, hw⟩ := (cellsWf_cons a' b' r).mp h
    simp only [cellPut]
    split
    · split
      · exact h
      · rename_i hlt hne
        refine (cellsWf_cons _ _ _).mpr ⟨hne, ?_, h⟩
        intro c hc
        rcases List.mem_cons.mp hc with hc | hc
        · simp [hc, hlt]
        · exact lt_trans hlt (ha c hc)
    · split
      · rename_i hnlt heq
        subst heq
        split
        · exact hw
        · rename_i hne
          exact (cellsWf_cons _ _ _).mpr ⟨hne, ha, hw⟩
      · rename_i hnlt hneq
        refine (cellsWf_cons _ _ _).mpr ⟨hb, ?_, ih hw⟩
        intro c hc
        rcases mem_cellPut r a b c hc with hc | hc
        · omega
        · exact ha c hc

/-- Writes of consecutive bytes keep the canonical form. -/
theorem cellPuts_wf (bs : List Byte) : ∀ (m : List (Nat × BitVec 8)) (a : Nat), cellsWf m = true →
    cellsWf (cellPuts m a bs) = true := by
  induction bs with
  | nil => intro m a h; exact h
  | cons b bs ih => intro m a h; exact ih _ _ (cellPut_wf m a b h)

theorem cellsWf_filter (p : Nat × BitVec 8 → Bool) (m : List (Nat × BitVec 8)) (h : cellsWf m = true) :
    cellsWf (m.filter p) = true := by
  induction m with
  | nil => rfl
  | cons e r ih =>
    obtain ⟨a, b⟩ := e
    obtain ⟨hb, ha, hw⟩ := (cellsWf_cons a b r).mp h
    simp only [List.filter_cons]
    split
    · exact (cellsWf_cons _ _ _).mpr ⟨hb, fun c hc => ha c (List.mem_of_mem_filter hc), ih hw⟩
    · exact ih hw

/-- Zeroing a range keeps the canonical form. -/
theorem cellZero_wf (m : List (Nat × BitVec 8)) (a n : Nat) (h : cellsWf m = true) : cellsWf (cellZero m a n) = true :=
  cellsWf_filter _ m h

theorem cellGet_above (m : List (Nat × BitVec 8)) (a : Nat) (h : cellsAbove a m) : cellGet m a = 0 := by
  cases m with
  | nil => rfl
  | cons e r =>
    obtain ⟨a', b'⟩ := e
    have := h (a', b') (by simp)
    simp only [cellGet]
    rw [if_neg (by omega), if_pos this]

/-- A read after a write of one byte: the byte written at its address, and every other byte as before. -/
theorem cellGet_cellPut (m : List (Nat × BitVec 8)) (a j : Nat) (b : Byte) (h : cellsWf m = true) :
    cellGet (cellPut m a b) j = if j = a then b else cellGet m j := by
  induction m with
  | nil =>
    simp only [cellPut]
    split <;> split <;> simp_all [cellGet]
  | cons e r ih =>
    obtain ⟨a', b'⟩ := e
    obtain ⟨hb, ha, hw⟩ := (cellsWf_cons a' b' r).mp h
    simp only [cellPut]
    split
    · rename_i hlt
      split
      · split
        · subst j; simp only [cellGet]; rw [if_neg (by omega), if_pos hlt]; simp_all
        · rfl
      · split
        · simp_all [cellGet]
        · rename_i hne hj
          simp only [cellGet]
          rw [if_neg hj]
          split
          · rw [if_neg (by omega), if_pos (by omega)]
          · rfl
    · split
      · rename_i hnlt heq
        subst heq
        split
        · rename_i hz
          subst hz
          by_cases hj : j = a
          · subst hj; simp [cellGet_above r j ha]
          · simp only [cellGet, if_neg hj]
            split
            · rw [cellGet_above]
              intro c hc
              have := ha c hc
              omega
            · rfl
        · by_cases hj : j = a
          · simp [hj, cellGet]
          · simp [cellGet, hj]
      · rename_i hnlt hneq
        simp only [cellGet]
        rw [ih hw]
        by_cases hj : j = a'
        · rw [if_pos hj, if_pos hj, if_neg (by omega)]
        · rw [if_neg hj, if_neg hj]
          split
          · rw [if_neg (by omega)]
          · rfl

/-- A read after a write of consecutive bytes. -/
theorem cellGet_cellPuts (bs : List Byte) : ∀ (m : List (Nat × BitVec 8)) (a j : Nat), cellsWf m = true →
    cellGet (cellPuts m a bs) j = if a ≤ j ∧ j < a + bs.length then bs.getD (j - a) 0 else cellGet m j := by
  induction bs with
  | nil => intro m a j _; simp [cellPuts]
  | cons b bs ih =>
    intro m a j h
    simp only [cellPuts]
    rw [ih _ _ _ (cellPut_wf m a b h), cellGet_cellPut m a j b h]
    by_cases hj : j = a
    · subst hj; simp
    · by_cases h1 : a + 1 ≤ j ∧ j < a + 1 + bs.length
      · obtain ⟨k, rfl⟩ : ∃ k, j = a + 1 + k := ⟨j - (a + 1), by omega⟩
        rw [if_pos h1, if_pos (by simp only [List.length_cons]; omega)]
        have : a + 1 + k - a = k + 1 := by omega
        rw [this]
        simp
      · rw [if_neg h1, if_neg hj, if_neg (by simp only [List.length_cons]; omega)]

/-- A zeroed range reads as zero, and every other byte as before. -/
theorem cellGet_cellZero (m : List (Nat × BitVec 8)) (a n j : Nat) (h : cellsWf m = true) :
    cellGet (cellZero m a n) j = if a ≤ j ∧ j < a + n then 0 else cellGet m j := by
  induction m with
  | nil => simp [cellZero, cellGet]
  | cons e r ih =>
    obtain ⟨a', b'⟩ := e
    obtain ⟨hb, ha, hw⟩ := (cellsWf_cons a' b' r).mp h
    have ih := ih hw
    have hab : cellsAbove a' (cellZero r a n) := fun c hc => ha c (List.mem_of_mem_filter hc)
    by_cases hin : a' < a ∨ a + n ≤ a'
    · have : cellZero ((a', b') :: r) a n = (a', b') :: cellZero r a n := by simp [cellZero, hin]
      rw [this]
      simp only [cellGet]
      by_cases hj : j = a'
      · rw [if_pos hj, if_pos hj, if_neg (by omega)]
      · rw [if_neg hj, if_neg hj]
        split
        · simp
        · exact ih
    · have : cellZero ((a', b') :: r) a n = cellZero r a n := by simp [cellZero, hin]
      rw [this]
      simp only [cellGet]
      by_cases hj : j = a'
      · rw [if_pos hj, cellGet_above _ j (hj ▸ hab), if_pos (by omega)]
      · rw [if_neg hj, ih]
        by_cases hlt : j < a'
        · rw [if_pos hlt, cellGet_above r j (fun c hc => lt_trans hlt (ha c hc))]
        · simp [hlt]

end Sys2Proof.Machine
end

