-- ==== Sys2Proof/Laws/State.lean ====
section
/-! SUPPORT. One lemma per field per update of the state, true by rfl: what an update leaves is read off without unfolding
it. -/

namespace Sys2Proof.Machine

variable (s : State)

/-! ### setFn -/

@[simp] theorem setFn_pending (f : Nat) (x : Fn) : (setFn s f x).pending = s.pending := rfl
@[simp] theorem setFn_freeCtr (f : Nat) (x : Fn) : (setFn s f x).freeCtr = s.freeCtr := rfl
@[simp] theorem setFn_seqNo (f : Nat) (x : Fn) : (setFn s f x).seqNo = s.seqNo := rfl
@[simp] theorem setFn_variant (f : Nat) (x : Fn) : (setFn s f x).variant = s.variant := rfl
@[simp] theorem setFn_units (f : Nat) (x : Fn) : (setFn s f x).units = s.units := rfl
@[simp] theorem setFn_time (f : Nat) (x : Fn) : (setFn s f x).time = s.time := rfl
@[simp] theorem setFn_cores (f : Nat) (x : Fn) : (setFn s f x).cores = s.cores := rfl
@[simp] theorem setFn_clusters (f : Nat) (x : Fn) : (setFn s f x).clusters = s.clusters := rfl
@[simp] theorem setFn_regions (f : Nat) (x : Fn) : (setFn s f x).regions = s.regions := rfl
@[simp] theorem setFn_dies (f : Nat) (x : Fn) : (setFn s f x).dies = s.dies := rfl
@[simp] theorem setFn_mem (f : Nat) (x : Fn) : (setFn s f x).mem = s.mem := rfl
@[simp] theorem setFn_fns (f : Nat) (x : Fn) : (setFn s f x).fns = alPut s.fns f x := rfl
@[simp] theorem setFn_host (f : Nat) (x : Fn) : (setFn s f x).host = s.host := rfl
@[simp] theorem setFn_fe (f : Nat) (x : Fn) : (setFn s f x).fe = s.fe := rfl
@[simp] theorem setFn_sched (f : Nat) (x : Fn) : (setFn s f x).sched = s.sched := rfl
@[simp] theorem setFn_selfId (f : Nat) (x : Fn) : (setFn s f x).selfId = s.selfId := rfl
@[simp] theorem setFn_links (f : Nat) (x : Fn) : (setFn s f x).links = s.links := rfl
@[simp] theorem setFn_mgmt (f : Nat) (x : Fn) : (setFn s f x).mgmt = s.mgmt := rfl
@[simp] theorem setFn_twin (f : Nat) (x : Fn) : (setFn s f x).twin = s.twin := rfl
@[simp] theorem setFn_pm (f : Nat) (x : Fn) : (setFn s f x).pm = s.pm := rfl
@[simp] theorem setFn_ras (f : Nat) (x : Fn) : (setFn s f x).ras = s.ras := rfl
@[simp] theorem setFn_dbg (f : Nat) (x : Fn) : (setFn s f x).dbg = s.dbg := rfl
@[simp] theorem setFn_images (f : Nat) (x : Fn) : (setFn s f x).images = s.images := rfl
@[simp] theorem setFn_nextImage (f : Nat) (x : Fn) : (setFn s f x).nextImage = s.nextImage := rfl
@[simp] theorem setFn_vtensors (f : Nat) (x : Fn) : (setFn s f x).vtensors = s.vtensors := rfl
@[simp] theorem setFn_captures (f : Nat) (x : Fn) : (setFn s f x).captures = s.captures := rfl
@[simp] theorem setFn_nextCapture (f : Nat) (x : Fn) : (setFn s f x).nextCapture = s.nextCapture := rfl
@[simp] theorem setFn_pools (f : Nat) (x : Fn) : (setFn s f x).pools = s.pools := rfl
@[simp] theorem setFn_frozen (f : Nat) (x : Fn) : (setFn s f x).frozen = s.frozen := rfl
@[simp] theorem setFn_saved (f : Nat) (x : Fn) : (setFn s f x).saved = s.saved := rfl

/-! ### modFn -/

@[simp] theorem modFn_pending (f : Nat) (g : Fn → Fn) : (modFn s f g).pending = s.pending := rfl
@[simp] theorem modFn_freeCtr (f : Nat) (g : Fn → Fn) : (modFn s f g).freeCtr = s.freeCtr := rfl
@[simp] theorem modFn_seqNo (f : Nat) (g : Fn → Fn) : (modFn s f g).seqNo = s.seqNo := rfl
@[simp] theorem modFn_variant (f : Nat) (g : Fn → Fn) : (modFn s f g).variant = s.variant := rfl
@[simp] theorem modFn_units (f : Nat) (g : Fn → Fn) : (modFn s f g).units = s.units := rfl
@[simp] theorem modFn_time (f : Nat) (g : Fn → Fn) : (modFn s f g).time = s.time := rfl
@[simp] theorem modFn_cores (f : Nat) (g : Fn → Fn) : (modFn s f g).cores = s.cores := rfl
@[simp] theorem modFn_clusters (f : Nat) (g : Fn → Fn) : (modFn s f g).clusters = s.clusters := rfl
@[simp] theorem modFn_regions (f : Nat) (g : Fn → Fn) : (modFn s f g).regions = s.regions := rfl
@[simp] theorem modFn_dies (f : Nat) (g : Fn → Fn) : (modFn s f g).dies = s.dies := rfl
@[simp] theorem modFn_mem (f : Nat) (g : Fn → Fn) : (modFn s f g).mem = s.mem := rfl
@[simp] theorem modFn_fns (f : Nat) (g : Fn → Fn) : (modFn s f g).fns = alPut s.fns f (g (fnOf s f)) := rfl
@[simp] theorem modFn_host (f : Nat) (g : Fn → Fn) : (modFn s f g).host = s.host := rfl
@[simp] theorem modFn_fe (f : Nat) (g : Fn → Fn) : (modFn s f g).fe = s.fe := rfl
@[simp] theorem modFn_sched (f : Nat) (g : Fn → Fn) : (modFn s f g).sched = s.sched := rfl
@[simp] theorem modFn_selfId (f : Nat) (g : Fn → Fn) : (modFn s f g).selfId = s.selfId := rfl
@[simp] theorem modFn_links (f : Nat) (g : Fn → Fn) : (modFn s f g).links = s.links := rfl
@[simp] theorem modFn_mgmt (f : Nat) (g : Fn → Fn) : (modFn s f g).mgmt = s.mgmt := rfl
@[simp] theorem modFn_twin (f : Nat) (g : Fn → Fn) : (modFn s f g).twin = s.twin := rfl
@[simp] theorem modFn_pm (f : Nat) (g : Fn → Fn) : (modFn s f g).pm = s.pm := rfl
@[simp] theorem modFn_ras (f : Nat) (g : Fn → Fn) : (modFn s f g).ras = s.ras := rfl
@[simp] theorem modFn_dbg (f : Nat) (g : Fn → Fn) : (modFn s f g).dbg = s.dbg := rfl
@[simp] theorem modFn_images (f : Nat) (g : Fn → Fn) : (modFn s f g).images = s.images := rfl
@[simp] theorem modFn_nextImage (f : Nat) (g : Fn → Fn) : (modFn s f g).nextImage = s.nextImage := rfl
@[simp] theorem modFn_vtensors (f : Nat) (g : Fn → Fn) : (modFn s f g).vtensors = s.vtensors := rfl
@[simp] theorem modFn_captures (f : Nat) (g : Fn → Fn) : (modFn s f g).captures = s.captures := rfl
@[simp] theorem modFn_nextCapture (f : Nat) (g : Fn → Fn) : (modFn s f g).nextCapture = s.nextCapture := rfl
@[simp] theorem modFn_pools (f : Nat) (g : Fn → Fn) : (modFn s f g).pools = s.pools := rfl
@[simp] theorem modFn_frozen (f : Nat) (g : Fn → Fn) : (modFn s f g).frozen = s.frozen := rfl
@[simp] theorem modFn_saved (f : Nat) (g : Fn → Fn) : (modFn s f g).saved = s.saved := rfl

/-! ### emit -/

@[simp] theorem emit_pending (o : Out) : (emit s o).pending = s.pending := rfl
@[simp] theorem emit_freeCtr (o : Out) : (emit s o).freeCtr = s.freeCtr := rfl
@[simp] theorem emit_seqNo (o : Out) : (emit s o).seqNo = s.seqNo := rfl
@[simp] theorem emit_variant (o : Out) : (emit s o).variant = s.variant := rfl
@[simp] theorem emit_units (o : Out) : (emit s o).units = s.units := rfl
@[simp] theorem emit_time (o : Out) : (emit s o).time = s.time := rfl
@[simp] theorem emit_cores (o : Out) : (emit s o).cores = s.cores := rfl
@[simp] theorem emit_clusters (o : Out) : (emit s o).clusters = s.clusters := rfl
@[simp] theorem emit_regions (o : Out) : (emit s o).regions = s.regions := rfl
@[simp] theorem emit_dies (o : Out) : (emit s o).dies = s.dies := rfl
@[simp] theorem emit_mem (o : Out) : (emit s o).mem = s.mem := rfl
@[simp] theorem emit_fns (o : Out) : (emit s o).fns = s.fns := rfl
@[simp] theorem emit_host (o : Out) : (emit s o).host = { s.host with out := s.host.out ++ [o] } := rfl
@[simp] theorem emit_fe (o : Out) : (emit s o).fe = s.fe := rfl
@[simp] theorem emit_sched (o : Out) : (emit s o).sched = s.sched := rfl
@[simp] theorem emit_selfId (o : Out) : (emit s o).selfId = s.selfId := rfl
@[simp] theorem emit_links (o : Out) : (emit s o).links = s.links := rfl
@[simp] theorem emit_mgmt (o : Out) : (emit s o).mgmt = s.mgmt := rfl
@[simp] theorem emit_twin (o : Out) : (emit s o).twin = s.twin := rfl
@[simp] theorem emit_pm (o : Out) : (emit s o).pm = s.pm := rfl
@[simp] theorem emit_ras (o : Out) : (emit s o).ras = s.ras := rfl
@[simp] theorem emit_dbg (o : Out) : (emit s o).dbg = s.dbg := rfl
@[simp] theorem emit_images (o : Out) : (emit s o).images = s.images := rfl
@[simp] theorem emit_nextImage (o : Out) : (emit s o).nextImage = s.nextImage := rfl
@[simp] theorem emit_vtensors (o : Out) : (emit s o).vtensors = s.vtensors := rfl
@[simp] theorem emit_captures (o : Out) : (emit s o).captures = s.captures := rfl
@[simp] theorem emit_nextCapture (o : Out) : (emit s o).nextCapture = s.nextCapture := rfl
@[simp] theorem emit_pools (o : Out) : (emit s o).pools = s.pools := rfl
@[simp] theorem emit_frozen (o : Out) : (emit s o).frozen = s.frozen := rfl
@[simp] theorem emit_saved (o : Out) : (emit s o).saved = s.saved := rfl

/-! ### setCore -/

@[simp] theorem setCore_pending (c : Nat) (x : Core) : (setCore s c x).pending = s.pending := rfl
@[simp] theorem setCore_freeCtr (c : Nat) (x : Core) : (setCore s c x).freeCtr = s.freeCtr := rfl
@[simp] theorem setCore_seqNo (c : Nat) (x : Core) : (setCore s c x).seqNo = s.seqNo := rfl
@[simp] theorem setCore_variant (c : Nat) (x : Core) : (setCore s c x).variant = s.variant := rfl
@[simp] theorem setCore_units (c : Nat) (x : Core) : (setCore s c x).units = s.units := rfl
@[simp] theorem setCore_time (c : Nat) (x : Core) : (setCore s c x).time = s.time := rfl
@[simp] theorem setCore_cores (c : Nat) (x : Core) : (setCore s c x).cores = alPut s.cores c x := rfl
@[simp] theorem setCore_clusters (c : Nat) (x : Core) : (setCore s c x).clusters = s.clusters := rfl
@[simp] theorem setCore_regions (c : Nat) (x : Core) : (setCore s c x).regions = s.regions := rfl
@[simp] theorem setCore_dies (c : Nat) (x : Core) : (setCore s c x).dies = s.dies := rfl
@[simp] theorem setCore_mem (c : Nat) (x : Core) : (setCore s c x).mem = s.mem := rfl
@[simp] theorem setCore_fns (c : Nat) (x : Core) : (setCore s c x).fns = s.fns := rfl
@[simp] theorem setCore_host (c : Nat) (x : Core) : (setCore s c x).host = s.host := rfl
@[simp] theorem setCore_fe (c : Nat) (x : Core) : (setCore s c x).fe = s.fe := rfl
@[simp] theorem setCore_sched (c : Nat) (x : Core) : (setCore s c x).sched = s.sched := rfl
@[simp] theorem setCore_selfId (c : Nat) (x : Core) : (setCore s c x).selfId = s.selfId := rfl
@[simp] theorem setCore_links (c : Nat) (x : Core) : (setCore s c x).links = s.links := rfl
@[simp] theorem setCore_mgmt (c : Nat) (x : Core) : (setCore s c x).mgmt = s.mgmt := rfl
@[simp] theorem setCore_twin (c : Nat) (x : Core) : (setCore s c x).twin = s.twin := rfl
@[simp] theorem setCore_pm (c : Nat) (x : Core) : (setCore s c x).pm = s.pm := rfl
@[simp] theorem setCore_ras (c : Nat) (x : Core) : (setCore s c x).ras = s.ras := rfl
@[simp] theorem setCore_dbg (c : Nat) (x : Core) : (setCore s c x).dbg = s.dbg := rfl
@[simp] theorem setCore_images (c : Nat) (x : Core) : (setCore s c x).images = s.images := rfl
@[simp] theorem setCore_nextImage (c : Nat) (x : Core) : (setCore s c x).nextImage = s.nextImage := rfl
@[simp] theorem setCore_vtensors (c : Nat) (x : Core) : (setCore s c x).vtensors = s.vtensors := rfl
@[simp] theorem setCore_captures (c : Nat) (x : Core) : (setCore s c x).captures = s.captures := rfl
@[simp] theorem setCore_nextCapture (c : Nat) (x : Core) : (setCore s c x).nextCapture = s.nextCapture := rfl
@[simp] theorem setCore_pools (c : Nat) (x : Core) : (setCore s c x).pools = s.pools := rfl
@[simp] theorem setCore_frozen (c : Nat) (x : Core) : (setCore s c x).frozen = s.frozen := rfl
@[simp] theorem setCore_saved (c : Nat) (x : Core) : (setCore s c x).saved = s.saved := rfl

/-! ### modCore -/

@[simp] theorem modCore_pending (c : Nat) (g : Core → Core) : (modCore s c g).pending = s.pending := rfl
@[simp] theorem modCore_freeCtr (c : Nat) (g : Core → Core) : (modCore s c g).freeCtr = s.freeCtr := rfl
@[simp] theorem modCore_seqNo (c : Nat) (g : Core → Core) : (modCore s c g).seqNo = s.seqNo := rfl
@[simp] theorem modCore_variant (c : Nat) (g : Core → Core) : (modCore s c g).variant = s.variant := rfl
@[simp] theorem modCore_units (c : Nat) (g : Core → Core) : (modCore s c g).units = s.units := rfl
@[simp] theorem modCore_time (c : Nat) (g : Core → Core) : (modCore s c g).time = s.time := rfl
@[simp] theorem modCore_cores (c : Nat) (g : Core → Core) : (modCore s c g).cores = alPut s.cores c (g (coreOf s c)) := rfl
@[simp] theorem modCore_clusters (c : Nat) (g : Core → Core) : (modCore s c g).clusters = s.clusters := rfl
@[simp] theorem modCore_regions (c : Nat) (g : Core → Core) : (modCore s c g).regions = s.regions := rfl
@[simp] theorem modCore_dies (c : Nat) (g : Core → Core) : (modCore s c g).dies = s.dies := rfl
@[simp] theorem modCore_mem (c : Nat) (g : Core → Core) : (modCore s c g).mem = s.mem := rfl
@[simp] theorem modCore_fns (c : Nat) (g : Core → Core) : (modCore s c g).fns = s.fns := rfl
@[simp] theorem modCore_host (c : Nat) (g : Core → Core) : (modCore s c g).host = s.host := rfl
@[simp] theorem modCore_fe (c : Nat) (g : Core → Core) : (modCore s c g).fe = s.fe := rfl
@[simp] theorem modCore_sched (c : Nat) (g : Core → Core) : (modCore s c g).sched = s.sched := rfl
@[simp] theorem modCore_selfId (c : Nat) (g : Core → Core) : (modCore s c g).selfId = s.selfId := rfl
@[simp] theorem modCore_links (c : Nat) (g : Core → Core) : (modCore s c g).links = s.links := rfl
@[simp] theorem modCore_mgmt (c : Nat) (g : Core → Core) : (modCore s c g).mgmt = s.mgmt := rfl
@[simp] theorem modCore_twin (c : Nat) (g : Core → Core) : (modCore s c g).twin = s.twin := rfl
@[simp] theorem modCore_pm (c : Nat) (g : Core → Core) : (modCore s c g).pm = s.pm := rfl
@[simp] theorem modCore_ras (c : Nat) (g : Core → Core) : (modCore s c g).ras = s.ras := rfl
@[simp] theorem modCore_dbg (c : Nat) (g : Core → Core) : (modCore s c g).dbg = s.dbg := rfl
@[simp] theorem modCore_images (c : Nat) (g : Core → Core) : (modCore s c g).images = s.images := rfl
@[simp] theorem modCore_nextImage (c : Nat) (g : Core → Core) : (modCore s c g).nextImage = s.nextImage := rfl
@[simp] theorem modCore_vtensors (c : Nat) (g : Core → Core) : (modCore s c g).vtensors = s.vtensors := rfl
@[simp] theorem modCore_captures (c : Nat) (g : Core → Core) : (modCore s c g).captures = s.captures := rfl
@[simp] theorem modCore_nextCapture (c : Nat) (g : Core → Core) : (modCore s c g).nextCapture = s.nextCapture := rfl
@[simp] theorem modCore_pools (c : Nat) (g : Core → Core) : (modCore s c g).pools = s.pools := rfl
@[simp] theorem modCore_frozen (c : Nat) (g : Core → Core) : (modCore s c g).frozen = s.frozen := rfl
@[simp] theorem modCore_saved (c : Nat) (g : Core → Core) : (modCore s c g).saved = s.saved := rfl

/-! ### modExec -/

@[simp] theorem modExec_pending (c : Nat) (g : Exec → Exec) : (modExec s c g).pending = s.pending := rfl
@[simp] theorem modExec_freeCtr (c : Nat) (g : Exec → Exec) : (modExec s c g).freeCtr = s.freeCtr := rfl
@[simp] theorem modExec_seqNo (c : Nat) (g : Exec → Exec) : (modExec s c g).seqNo = s.seqNo := rfl
@[simp] theorem modExec_variant (c : Nat) (g : Exec → Exec) : (modExec s c g).variant = s.variant := rfl
@[simp] theorem modExec_units (c : Nat) (g : Exec → Exec) : (modExec s c g).units = s.units := rfl
@[simp] theorem modExec_time (c : Nat) (g : Exec → Exec) : (modExec s c g).time = s.time := rfl
@[simp] theorem modExec_cores (c : Nat) (g : Exec → Exec) : (modExec s c g).cores = alPut s.cores c { coreOf s c with exec := g (execOf s c) } := rfl
@[simp] theorem modExec_clusters (c : Nat) (g : Exec → Exec) : (modExec s c g).clusters = s.clusters := rfl
@[simp] theorem modExec_regions (c : Nat) (g : Exec → Exec) : (modExec s c g).regions = s.regions := rfl
@[simp] theorem modExec_dies (c : Nat) (g : Exec → Exec) : (modExec s c g).dies = s.dies := rfl
@[simp] theorem modExec_mem (c : Nat) (g : Exec → Exec) : (modExec s c g).mem = s.mem := rfl
@[simp] theorem modExec_fns (c : Nat) (g : Exec → Exec) : (modExec s c g).fns = s.fns := rfl
@[simp] theorem modExec_host (c : Nat) (g : Exec → Exec) : (modExec s c g).host = s.host := rfl
@[simp] theorem modExec_fe (c : Nat) (g : Exec → Exec) : (modExec s c g).fe = s.fe := rfl
@[simp] theorem modExec_sched (c : Nat) (g : Exec → Exec) : (modExec s c g).sched = s.sched := rfl
@[simp] theorem modExec_selfId (c : Nat) (g : Exec → Exec) : (modExec s c g).selfId = s.selfId := rfl
@[simp] theorem modExec_links (c : Nat) (g : Exec → Exec) : (modExec s c g).links = s.links := rfl
@[simp] theorem modExec_mgmt (c : Nat) (g : Exec → Exec) : (modExec s c g).mgmt = s.mgmt := rfl
@[simp] theorem modExec_twin (c : Nat) (g : Exec → Exec) : (modExec s c g).twin = s.twin := rfl
@[simp] theorem modExec_pm (c : Nat) (g : Exec → Exec) : (modExec s c g).pm = s.pm := rfl
@[simp] theorem modExec_ras (c : Nat) (g : Exec → Exec) : (modExec s c g).ras = s.ras := rfl
@[simp] theorem modExec_dbg (c : Nat) (g : Exec → Exec) : (modExec s c g).dbg = s.dbg := rfl
@[simp] theorem modExec_images (c : Nat) (g : Exec → Exec) : (modExec s c g).images = s.images := rfl
@[simp] theorem modExec_nextImage (c : Nat) (g : Exec → Exec) : (modExec s c g).nextImage = s.nextImage := rfl
@[simp] theorem modExec_vtensors (c : Nat) (g : Exec → Exec) : (modExec s c g).vtensors = s.vtensors := rfl
@[simp] theorem modExec_captures (c : Nat) (g : Exec → Exec) : (modExec s c g).captures = s.captures := rfl
@[simp] theorem modExec_nextCapture (c : Nat) (g : Exec → Exec) : (modExec s c g).nextCapture = s.nextCapture := rfl
@[simp] theorem modExec_pools (c : Nat) (g : Exec → Exec) : (modExec s c g).pools = s.pools := rfl
@[simp] theorem modExec_frozen (c : Nat) (g : Exec → Exec) : (modExec s c g).frozen = s.frozen := rfl
@[simp] theorem modExec_saved (c : Nat) (g : Exec → Exec) : (modExec s c g).saved = s.saved := rfl

/-! ### putGroup -/

@[simp] theorem putGroup_pending (c : Ctx) (g : Group) : (putGroup s c g).pending = s.pending := rfl
@[simp] theorem putGroup_freeCtr (c : Ctx) (g : Group) : (putGroup s c g).freeCtr = s.freeCtr := rfl
@[simp] theorem putGroup_seqNo (c : Ctx) (g : Group) : (putGroup s c g).seqNo = s.seqNo := rfl
@[simp] theorem putGroup_variant (c : Ctx) (g : Group) : (putGroup s c g).variant = s.variant := rfl
@[simp] theorem putGroup_units (c : Ctx) (g : Group) : (putGroup s c g).units = s.units := rfl
@[simp] theorem putGroup_time (c : Ctx) (g : Group) : (putGroup s c g).time = s.time := rfl
@[simp] theorem putGroup_cores (c : Ctx) (g : Group) : (putGroup s c g).cores = alPut s.cores c.core { coreOf s c.core with exec := { execOf s c.core with groups := alPut (execOf s c.core).groups c.slot g } } := rfl
@[simp] theorem putGroup_clusters (c : Ctx) (g : Group) : (putGroup s c g).clusters = s.clusters := rfl
@[simp] theorem putGroup_regions (c : Ctx) (g : Group) : (putGroup s c g).regions = s.regions := rfl
@[simp] theorem putGroup_dies (c : Ctx) (g : Group) : (putGroup s c g).dies = s.dies := rfl
@[simp] theorem putGroup_mem (c : Ctx) (g : Group) : (putGroup s c g).mem = s.mem := rfl
@[simp] theorem putGroup_fns (c : Ctx) (g : Group) : (putGroup s c g).fns = s.fns := rfl
@[simp] theorem putGroup_host (c : Ctx) (g : Group) : (putGroup s c g).host = s.host := rfl
@[simp] theorem putGroup_fe (c : Ctx) (g : Group) : (putGroup s c g).fe = s.fe := rfl
@[simp] theorem putGroup_sched (c : Ctx) (g : Group) : (putGroup s c g).sched = s.sched := rfl
@[simp] theorem putGroup_selfId (c : Ctx) (g : Group) : (putGroup s c g).selfId = s.selfId := rfl
@[simp] theorem putGroup_links (c : Ctx) (g : Group) : (putGroup s c g).links = s.links := rfl
@[simp] theorem putGroup_mgmt (c : Ctx) (g : Group) : (putGroup s c g).mgmt = s.mgmt := rfl
@[simp] theorem putGroup_twin (c : Ctx) (g : Group) : (putGroup s c g).twin = s.twin := rfl
@[simp] theorem putGroup_pm (c : Ctx) (g : Group) : (putGroup s c g).pm = s.pm := rfl
@[simp] theorem putGroup_ras (c : Ctx) (g : Group) : (putGroup s c g).ras = s.ras := rfl
@[simp] theorem putGroup_dbg (c : Ctx) (g : Group) : (putGroup s c g).dbg = s.dbg := rfl
@[simp] theorem putGroup_images (c : Ctx) (g : Group) : (putGroup s c g).images = s.images := rfl
@[simp] theorem putGroup_nextImage (c : Ctx) (g : Group) : (putGroup s c g).nextImage = s.nextImage := rfl
@[simp] theorem putGroup_vtensors (c : Ctx) (g : Group) : (putGroup s c g).vtensors = s.vtensors := rfl
@[simp] theorem putGroup_captures (c : Ctx) (g : Group) : (putGroup s c g).captures = s.captures := rfl
@[simp] theorem putGroup_nextCapture (c : Ctx) (g : Group) : (putGroup s c g).nextCapture = s.nextCapture := rfl
@[simp] theorem putGroup_pools (c : Ctx) (g : Group) : (putGroup s c g).pools = s.pools := rfl
@[simp] theorem putGroup_frozen (c : Ctx) (g : Group) : (putGroup s c g).frozen = s.frozen := rfl
@[simp] theorem putGroup_saved (c : Ctx) (g : Group) : (putGroup s c g).saved = s.saved := rfl

/-! ### modRegion -/

@[simp] theorem modRegion_pending (r : Nat) (g : Region → Region) : (modRegion s r g).pending = s.pending := rfl
@[simp] theorem modRegion_freeCtr (r : Nat) (g : Region → Region) : (modRegion s r g).freeCtr = s.freeCtr := rfl
@[simp] theorem modRegion_seqNo (r : Nat) (g : Region → Region) : (modRegion s r g).seqNo = s.seqNo := rfl
@[simp] theorem modRegion_variant (r : Nat) (g : Region → Region) : (modRegion s r g).variant = s.variant := rfl
@[simp] theorem modRegion_units (r : Nat) (g : Region → Region) : (modRegion s r g).units = s.units := rfl
@[simp] theorem modRegion_time (r : Nat) (g : Region → Region) : (modRegion s r g).time = s.time := rfl
@[simp] theorem modRegion_cores (r : Nat) (g : Region → Region) : (modRegion s r g).cores = s.cores := rfl
@[simp] theorem modRegion_clusters (r : Nat) (g : Region → Region) : (modRegion s r g).clusters = s.clusters := rfl
@[simp] theorem modRegion_regions (r : Nat) (g : Region → Region) : (modRegion s r g).regions = alMod {} s.regions r g := rfl
@[simp] theorem modRegion_dies (r : Nat) (g : Region → Region) : (modRegion s r g).dies = s.dies := rfl
@[simp] theorem modRegion_mem (r : Nat) (g : Region → Region) : (modRegion s r g).mem = s.mem := rfl
@[simp] theorem modRegion_fns (r : Nat) (g : Region → Region) : (modRegion s r g).fns = s.fns := rfl
@[simp] theorem modRegion_host (r : Nat) (g : Region → Region) : (modRegion s r g).host = s.host := rfl
@[simp] theorem modRegion_fe (r : Nat) (g : Region → Region) : (modRegion s r g).fe = s.fe := rfl
@[simp] theorem modRegion_sched (r : Nat) (g : Region → Region) : (modRegion s r g).sched = s.sched := rfl
@[simp] theorem modRegion_selfId (r : Nat) (g : Region → Region) : (modRegion s r g).selfId = s.selfId := rfl
@[simp] theorem modRegion_links (r : Nat) (g : Region → Region) : (modRegion s r g).links = s.links := rfl
@[simp] theorem modRegion_mgmt (r : Nat) (g : Region → Region) : (modRegion s r g).mgmt = s.mgmt := rfl
@[simp] theorem modRegion_twin (r : Nat) (g : Region → Region) : (modRegion s r g).twin = s.twin := rfl
@[simp] theorem modRegion_pm (r : Nat) (g : Region → Region) : (modRegion s r g).pm = s.pm := rfl
@[simp] theorem modRegion_ras (r : Nat) (g : Region → Region) : (modRegion s r g).ras = s.ras := rfl
@[simp] theorem modRegion_dbg (r : Nat) (g : Region → Region) : (modRegion s r g).dbg = s.dbg := rfl
@[simp] theorem modRegion_images (r : Nat) (g : Region → Region) : (modRegion s r g).images = s.images := rfl
@[simp] theorem modRegion_nextImage (r : Nat) (g : Region → Region) : (modRegion s r g).nextImage = s.nextImage := rfl
@[simp] theorem modRegion_vtensors (r : Nat) (g : Region → Region) : (modRegion s r g).vtensors = s.vtensors := rfl
@[simp] theorem modRegion_captures (r : Nat) (g : Region → Region) : (modRegion s r g).captures = s.captures := rfl
@[simp] theorem modRegion_nextCapture (r : Nat) (g : Region → Region) : (modRegion s r g).nextCapture = s.nextCapture := rfl
@[simp] theorem modRegion_pools (r : Nat) (g : Region → Region) : (modRegion s r g).pools = s.pools := rfl
@[simp] theorem modRegion_frozen (r : Nat) (g : Region → Region) : (modRegion s r g).frozen = s.frozen := rfl
@[simp] theorem modRegion_saved (r : Nat) (g : Region → Region) : (modRegion s r g).saved = s.saved := rfl

/-! ### modCluster -/

@[simp] theorem modCluster_pending (k : Nat) (g : Cluster → Cluster) : (modCluster s k g).pending = s.pending := rfl
@[simp] theorem modCluster_freeCtr (k : Nat) (g : Cluster → Cluster) : (modCluster s k g).freeCtr = s.freeCtr := rfl
@[simp] theorem modCluster_seqNo (k : Nat) (g : Cluster → Cluster) : (modCluster s k g).seqNo = s.seqNo := rfl
@[simp] theorem modCluster_variant (k : Nat) (g : Cluster → Cluster) : (modCluster s k g).variant = s.variant := rfl
@[simp] theorem modCluster_units (k : Nat) (g : Cluster → Cluster) : (modCluster s k g).units = s.units := rfl
@[simp] theorem modCluster_time (k : Nat) (g : Cluster → Cluster) : (modCluster s k g).time = s.time := rfl
@[simp] theorem modCluster_cores (k : Nat) (g : Cluster → Cluster) : (modCluster s k g).cores = s.cores := rfl
@[simp] theorem modCluster_clusters (k : Nat) (g : Cluster → Cluster) : (modCluster s k g).clusters = alMod {} s.clusters k g := rfl
@[simp] theorem modCluster_regions (k : Nat) (g : Cluster → Cluster) : (modCluster s k g).regions = s.regions := rfl
@[simp] theorem modCluster_dies (k : Nat) (g : Cluster → Cluster) : (modCluster s k g).dies = s.dies := rfl
@[simp] theorem modCluster_mem (k : Nat) (g : Cluster → Cluster) : (modCluster s k g).mem = s.mem := rfl
@[simp] theorem modCluster_fns (k : Nat) (g : Cluster → Cluster) : (modCluster s k g).fns = s.fns := rfl
@[simp] theorem modCluster_host (k : Nat) (g : Cluster → Cluster) : (modCluster s k g).host = s.host := rfl
@[simp] theorem modCluster_fe (k : Nat) (g : Cluster → Cluster) : (modCluster s k g).fe = s.fe := rfl
@[simp] theorem modCluster_sched (k : Nat) (g : Cluster → Cluster) : (modCluster s k g).sched = s.sched := rfl
@[simp] theorem modCluster_selfId (k : Nat) (g : Cluster → Cluster) : (modCluster s k g).selfId = s.selfId := rfl
@[simp] theorem modCluster_links (k : Nat) (g : Cluster → Cluster) : (modCluster s k g).links = s.links := rfl
@[simp] theorem modCluster_mgmt (k : Nat) (g : Cluster → Cluster) : (modCluster s k g).mgmt = s.mgmt := rfl
@[simp] theorem modCluster_twin (k : Nat) (g : Cluster → Cluster) : (modCluster s k g).twin = s.twin := rfl
@[simp] theorem modCluster_pm (k : Nat) (g : Cluster → Cluster) : (modCluster s k g).pm = s.pm := rfl
@[simp] theorem modCluster_ras (k : Nat) (g : Cluster → Cluster) : (modCluster s k g).ras = s.ras := rfl
@[simp] theorem modCluster_dbg (k : Nat) (g : Cluster → Cluster) : (modCluster s k g).dbg = s.dbg := rfl
@[simp] theorem modCluster_images (k : Nat) (g : Cluster → Cluster) : (modCluster s k g).images = s.images := rfl
@[simp] theorem modCluster_nextImage (k : Nat) (g : Cluster → Cluster) : (modCluster s k g).nextImage = s.nextImage := rfl
@[simp] theorem modCluster_vtensors (k : Nat) (g : Cluster → Cluster) : (modCluster s k g).vtensors = s.vtensors := rfl
@[simp] theorem modCluster_captures (k : Nat) (g : Cluster → Cluster) : (modCluster s k g).captures = s.captures := rfl
@[simp] theorem modCluster_nextCapture (k : Nat) (g : Cluster → Cluster) : (modCluster s k g).nextCapture = s.nextCapture := rfl
@[simp] theorem modCluster_pools (k : Nat) (g : Cluster → Cluster) : (modCluster s k g).pools = s.pools := rfl
@[simp] theorem modCluster_frozen (k : Nat) (g : Cluster → Cluster) : (modCluster s k g).frozen = s.frozen := rfl
@[simp] theorem modCluster_saved (k : Nat) (g : Cluster → Cluster) : (modCluster s k g).saved = s.saved := rfl

/-! ### modDie -/

@[simp] theorem modDie_pending (d : Nat) (g : Die → Die) : (modDie s d g).pending = s.pending := rfl
@[simp] theorem modDie_freeCtr (d : Nat) (g : Die → Die) : (modDie s d g).freeCtr = s.freeCtr := rfl
@[simp] theorem modDie_seqNo (d : Nat) (g : Die → Die) : (modDie s d g).seqNo = s.seqNo := rfl
@[simp] theorem modDie_variant (d : Nat) (g : Die → Die) : (modDie s d g).variant = s.variant := rfl
@[simp] theorem modDie_units (d : Nat) (g : Die → Die) : (modDie s d g).units = s.units := rfl
@[simp] theorem modDie_time (d : Nat) (g : Die → Die) : (modDie s d g).time = s.time := rfl
@[simp] theorem modDie_cores (d : Nat) (g : Die → Die) : (modDie s d g).cores = s.cores := rfl
@[simp] theorem modDie_clusters (d : Nat) (g : Die → Die) : (modDie s d g).clusters = s.clusters := rfl
@[simp] theorem modDie_regions (d : Nat) (g : Die → Die) : (modDie s d g).regions = s.regions := rfl
@[simp] theorem modDie_dies (d : Nat) (g : Die → Die) : (modDie s d g).dies = alMod {} s.dies d g := rfl
@[simp] theorem modDie_mem (d : Nat) (g : Die → Die) : (modDie s d g).mem = s.mem := rfl
@[simp] theorem modDie_fns (d : Nat) (g : Die → Die) : (modDie s d g).fns = s.fns := rfl
@[simp] theorem modDie_host (d : Nat) (g : Die → Die) : (modDie s d g).host = s.host := rfl
@[simp] theorem modDie_fe (d : Nat) (g : Die → Die) : (modDie s d g).fe = s.fe := rfl
@[simp] theorem modDie_sched (d : Nat) (g : Die → Die) : (modDie s d g).sched = s.sched := rfl
@[simp] theorem modDie_selfId (d : Nat) (g : Die → Die) : (modDie s d g).selfId = s.selfId := rfl
@[simp] theorem modDie_links (d : Nat) (g : Die → Die) : (modDie s d g).links = s.links := rfl
@[simp] theorem modDie_mgmt (d : Nat) (g : Die → Die) : (modDie s d g).mgmt = s.mgmt := rfl
@[simp] theorem modDie_twin (d : Nat) (g : Die → Die) : (modDie s d g).twin = s.twin := rfl
@[simp] theorem modDie_pm (d : Nat) (g : Die → Die) : (modDie s d g).pm = s.pm := rfl
@[simp] theorem modDie_ras (d : Nat) (g : Die → Die) : (modDie s d g).ras = s.ras := rfl
@[simp] theorem modDie_dbg (d : Nat) (g : Die → Die) : (modDie s d g).dbg = s.dbg := rfl
@[simp] theorem modDie_images (d : Nat) (g : Die → Die) : (modDie s d g).images = s.images := rfl
@[simp] theorem modDie_nextImage (d : Nat) (g : Die → Die) : (modDie s d g).nextImage = s.nextImage := rfl
@[simp] theorem modDie_vtensors (d : Nat) (g : Die → Die) : (modDie s d g).vtensors = s.vtensors := rfl
@[simp] theorem modDie_captures (d : Nat) (g : Die → Die) : (modDie s d g).captures = s.captures := rfl
@[simp] theorem modDie_nextCapture (d : Nat) (g : Die → Die) : (modDie s d g).nextCapture = s.nextCapture := rfl
@[simp] theorem modDie_pools (d : Nat) (g : Die → Die) : (modDie s d g).pools = s.pools := rfl
@[simp] theorem modDie_frozen (d : Nat) (g : Die → Die) : (modDie s d g).frozen = s.frozen := rfl
@[simp] theorem modDie_saved (d : Nat) (g : Die → Die) : (modDie s d g).saved = s.saved := rfl

/-! ### modCtl -/

@[simp] theorem modCtl_pending (h : Nat) (g : Ctl → Ctl) : (modCtl s h g).pending = s.pending := rfl
@[simp] theorem modCtl_freeCtr (h : Nat) (g : Ctl → Ctl) : (modCtl s h g).freeCtr = s.freeCtr := rfl
@[simp] theorem modCtl_seqNo (h : Nat) (g : Ctl → Ctl) : (modCtl s h g).seqNo = s.seqNo := rfl
@[simp] theorem modCtl_variant (h : Nat) (g : Ctl → Ctl) : (modCtl s h g).variant = s.variant := rfl
@[simp] theorem modCtl_units (h : Nat) (g : Ctl → Ctl) : (modCtl s h g).units = s.units := rfl
@[simp] theorem modCtl_time (h : Nat) (g : Ctl → Ctl) : (modCtl s h g).time = s.time := rfl
@[simp] theorem modCtl_cores (h : Nat) (g : Ctl → Ctl) : (modCtl s h g).cores = s.cores := rfl
@[simp] theorem modCtl_clusters (h : Nat) (g : Ctl → Ctl) : (modCtl s h g).clusters = s.clusters := rfl
@[simp] theorem modCtl_regions (h : Nat) (g : Ctl → Ctl) : (modCtl s h g).regions = s.regions := rfl
@[simp] theorem modCtl_dies (h : Nat) (g : Ctl → Ctl) : (modCtl s h g).dies = s.dies := rfl
@[simp] theorem modCtl_mem (h : Nat) (g : Ctl → Ctl) : (modCtl s h g).mem = { s.mem with ctls := alMod {} s.mem.ctls h g } := rfl
@[simp] theorem modCtl_fns (h : Nat) (g : Ctl → Ctl) : (modCtl s h g).fns = s.fns := rfl
@[simp] theorem modCtl_host (h : Nat) (g : Ctl → Ctl) : (modCtl s h g).host = s.host := rfl
@[simp] theorem modCtl_fe (h : Nat) (g : Ctl → Ctl) : (modCtl s h g).fe = s.fe := rfl
@[simp] theorem modCtl_sched (h : Nat) (g : Ctl → Ctl) : (modCtl s h g).sched = s.sched := rfl
@[simp] theorem modCtl_selfId (h : Nat) (g : Ctl → Ctl) : (modCtl s h g).selfId = s.selfId := rfl
@[simp] theorem modCtl_links (h : Nat) (g : Ctl → Ctl) : (modCtl s h g).links = s.links := rfl
@[simp] theorem modCtl_mgmt (h : Nat) (g : Ctl → Ctl) : (modCtl s h g).mgmt = s.mgmt := rfl
@[simp] theorem modCtl_twin (h : Nat) (g : Ctl → Ctl) : (modCtl s h g).twin = s.twin := rfl
@[simp] theorem modCtl_pm (h : Nat) (g : Ctl → Ctl) : (modCtl s h g).pm = s.pm := rfl
@[simp] theorem modCtl_ras (h : Nat) (g : Ctl → Ctl) : (modCtl s h g).ras = s.ras := rfl
@[simp] theorem modCtl_dbg (h : Nat) (g : Ctl → Ctl) : (modCtl s h g).dbg = s.dbg := rfl
@[simp] theorem modCtl_images (h : Nat) (g : Ctl → Ctl) : (modCtl s h g).images = s.images := rfl
@[simp] theorem modCtl_nextImage (h : Nat) (g : Ctl → Ctl) : (modCtl s h g).nextImage = s.nextImage := rfl
@[simp] theorem modCtl_vtensors (h : Nat) (g : Ctl → Ctl) : (modCtl s h g).vtensors = s.vtensors := rfl
@[simp] theorem modCtl_captures (h : Nat) (g : Ctl → Ctl) : (modCtl s h g).captures = s.captures := rfl
@[simp] theorem modCtl_nextCapture (h : Nat) (g : Ctl → Ctl) : (modCtl s h g).nextCapture = s.nextCapture := rfl
@[simp] theorem modCtl_pools (h : Nat) (g : Ctl → Ctl) : (modCtl s h g).pools = s.pools := rfl
@[simp] theorem modCtl_frozen (h : Nat) (g : Ctl → Ctl) : (modCtl s h g).frozen = s.frozen := rfl
@[simp] theorem modCtl_saved (h : Nat) (g : Ctl → Ctl) : (modCtl s h g).saved = s.saved := rfl

/-! ### modPort -/

@[simp] theorem modPort_pending (p : Nat) (g : Port → Port) : (modPort s p g).pending = s.pending := rfl
@[simp] theorem modPort_freeCtr (p : Nat) (g : Port → Port) : (modPort s p g).freeCtr = s.freeCtr := rfl
@[simp] theorem modPort_seqNo (p : Nat) (g : Port → Port) : (modPort s p g).seqNo = s.seqNo := rfl
@[simp] theorem modPort_variant (p : Nat) (g : Port → Port) : (modPort s p g).variant = s.variant := rfl
@[simp] theorem modPort_units (p : Nat) (g : Port → Port) : (modPort s p g).units = s.units := rfl
@[simp] theorem modPort_time (p : Nat) (g : Port → Port) : (modPort s p g).time = s.time := rfl
@[simp] theorem modPort_cores (p : Nat) (g : Port → Port) : (modPort s p g).cores = s.cores := rfl
@[simp] theorem modPort_clusters (p : Nat) (g : Port → Port) : (modPort s p g).clusters = s.clusters := rfl
@[simp] theorem modPort_regions (p : Nat) (g : Port → Port) : (modPort s p g).regions = s.regions := rfl
@[simp] theorem modPort_dies (p : Nat) (g : Port → Port) : (modPort s p g).dies = s.dies := rfl
@[simp] theorem modPort_mem (p : Nat) (g : Port → Port) : (modPort s p g).mem = s.mem := rfl
@[simp] theorem modPort_fns (p : Nat) (g : Port → Port) : (modPort s p g).fns = s.fns := rfl
@[simp] theorem modPort_host (p : Nat) (g : Port → Port) : (modPort s p g).host = s.host := rfl
@[simp] theorem modPort_fe (p : Nat) (g : Port → Port) : (modPort s p g).fe = s.fe := rfl
@[simp] theorem modPort_sched (p : Nat) (g : Port → Port) : (modPort s p g).sched = s.sched := rfl
@[simp] theorem modPort_selfId (p : Nat) (g : Port → Port) : (modPort s p g).selfId = s.selfId := rfl
@[simp] theorem modPort_links (p : Nat) (g : Port → Port) : (modPort s p g).links = { s.links with ports := alPut s.links.ports p (g (portOf s p)) } := rfl
@[simp] theorem modPort_mgmt (p : Nat) (g : Port → Port) : (modPort s p g).mgmt = s.mgmt := rfl
@[simp] theorem modPort_twin (p : Nat) (g : Port → Port) : (modPort s p g).twin = s.twin := rfl
@[simp] theorem modPort_pm (p : Nat) (g : Port → Port) : (modPort s p g).pm = s.pm := rfl
@[simp] theorem modPort_ras (p : Nat) (g : Port → Port) : (modPort s p g).ras = s.ras := rfl
@[simp] theorem modPort_dbg (p : Nat) (g : Port → Port) : (modPort s p g).dbg = s.dbg := rfl
@[simp] theorem modPort_images (p : Nat) (g : Port → Port) : (modPort s p g).images = s.images := rfl
@[simp] theorem modPort_nextImage (p : Nat) (g : Port → Port) : (modPort s p g).nextImage = s.nextImage := rfl
@[simp] theorem modPort_vtensors (p : Nat) (g : Port → Port) : (modPort s p g).vtensors = s.vtensors := rfl
@[simp] theorem modPort_captures (p : Nat) (g : Port → Port) : (modPort s p g).captures = s.captures := rfl
@[simp] theorem modPort_nextCapture (p : Nat) (g : Port → Port) : (modPort s p g).nextCapture = s.nextCapture := rfl
@[simp] theorem modPort_pools (p : Nat) (g : Port → Port) : (modPort s p g).pools = s.pools := rfl
@[simp] theorem modPort_frozen (p : Nat) (g : Port → Port) : (modPort s p g).frozen = s.frozen := rfl
@[simp] theorem modPort_saved (p : Nat) (g : Port → Port) : (modPort s p g).saved = s.saved := rfl

/-! ### modMbox -/

@[simp] theorem modMbox_pending (f : Nat) (g : Mbox → Mbox) : (modMbox s f g).pending = s.pending := rfl
@[simp] theorem modMbox_freeCtr (f : Nat) (g : Mbox → Mbox) : (modMbox s f g).freeCtr = s.freeCtr := rfl
@[simp] theorem modMbox_seqNo (f : Nat) (g : Mbox → Mbox) : (modMbox s f g).seqNo = s.seqNo := rfl
@[simp] theorem modMbox_variant (f : Nat) (g : Mbox → Mbox) : (modMbox s f g).variant = s.variant := rfl
@[simp] theorem modMbox_units (f : Nat) (g : Mbox → Mbox) : (modMbox s f g).units = s.units := rfl
@[simp] theorem modMbox_time (f : Nat) (g : Mbox → Mbox) : (modMbox s f g).time = s.time := rfl
@[simp] theorem modMbox_cores (f : Nat) (g : Mbox → Mbox) : (modMbox s f g).cores = s.cores := rfl
@[simp] theorem modMbox_clusters (f : Nat) (g : Mbox → Mbox) : (modMbox s f g).clusters = s.clusters := rfl
@[simp] theorem modMbox_regions (f : Nat) (g : Mbox → Mbox) : (modMbox s f g).regions = s.regions := rfl
@[simp] theorem modMbox_dies (f : Nat) (g : Mbox → Mbox) : (modMbox s f g).dies = s.dies := rfl
@[simp] theorem modMbox_mem (f : Nat) (g : Mbox → Mbox) : (modMbox s f g).mem = s.mem := rfl
@[simp] theorem modMbox_fns (f : Nat) (g : Mbox → Mbox) : (modMbox s f g).fns = s.fns := rfl
@[simp] theorem modMbox_host (f : Nat) (g : Mbox → Mbox) : (modMbox s f g).host = s.host := rfl
@[simp] theorem modMbox_fe (f : Nat) (g : Mbox → Mbox) : (modMbox s f g).fe = s.fe := rfl
@[simp] theorem modMbox_sched (f : Nat) (g : Mbox → Mbox) : (modMbox s f g).sched = s.sched := rfl
@[simp] theorem modMbox_selfId (f : Nat) (g : Mbox → Mbox) : (modMbox s f g).selfId = s.selfId := rfl
@[simp] theorem modMbox_links (f : Nat) (g : Mbox → Mbox) : (modMbox s f g).links = s.links := rfl
@[simp] theorem modMbox_mgmt (f : Nat) (g : Mbox → Mbox) : (modMbox s f g).mgmt = { s.mgmt with mboxes := alMod {} s.mgmt.mboxes f g } := rfl
@[simp] theorem modMbox_twin (f : Nat) (g : Mbox → Mbox) : (modMbox s f g).twin = s.twin := rfl
@[simp] theorem modMbox_pm (f : Nat) (g : Mbox → Mbox) : (modMbox s f g).pm = s.pm := rfl
@[simp] theorem modMbox_ras (f : Nat) (g : Mbox → Mbox) : (modMbox s f g).ras = s.ras := rfl
@[simp] theorem modMbox_dbg (f : Nat) (g : Mbox → Mbox) : (modMbox s f g).dbg = s.dbg := rfl
@[simp] theorem modMbox_images (f : Nat) (g : Mbox → Mbox) : (modMbox s f g).images = s.images := rfl
@[simp] theorem modMbox_nextImage (f : Nat) (g : Mbox → Mbox) : (modMbox s f g).nextImage = s.nextImage := rfl
@[simp] theorem modMbox_vtensors (f : Nat) (g : Mbox → Mbox) : (modMbox s f g).vtensors = s.vtensors := rfl
@[simp] theorem modMbox_captures (f : Nat) (g : Mbox → Mbox) : (modMbox s f g).captures = s.captures := rfl
@[simp] theorem modMbox_nextCapture (f : Nat) (g : Mbox → Mbox) : (modMbox s f g).nextCapture = s.nextCapture := rfl
@[simp] theorem modMbox_pools (f : Nat) (g : Mbox → Mbox) : (modMbox s f g).pools = s.pools := rfl
@[simp] theorem modMbox_frozen (f : Nat) (g : Mbox → Mbox) : (modMbox s f g).frozen = s.frozen := rfl
@[simp] theorem modMbox_saved (f : Nat) (g : Mbox → Mbox) : (modMbox s f g).saved = s.saved := rfl

/-! ### modCtr -/

@[simp] theorem modCtr_pending (k : Nat) (g : CtrBlock → CtrBlock) : (modCtr s k g).pending = s.pending := rfl
@[simp] theorem modCtr_freeCtr (k : Nat) (g : CtrBlock → CtrBlock) : (modCtr s k g).freeCtr = s.freeCtr := rfl
@[simp] theorem modCtr_seqNo (k : Nat) (g : CtrBlock → CtrBlock) : (modCtr s k g).seqNo = s.seqNo := rfl
@[simp] theorem modCtr_variant (k : Nat) (g : CtrBlock → CtrBlock) : (modCtr s k g).variant = s.variant := rfl
@[simp] theorem modCtr_units (k : Nat) (g : CtrBlock → CtrBlock) : (modCtr s k g).units = s.units := rfl
@[simp] theorem modCtr_time (k : Nat) (g : CtrBlock → CtrBlock) : (modCtr s k g).time = s.time := rfl
@[simp] theorem modCtr_cores (k : Nat) (g : CtrBlock → CtrBlock) : (modCtr s k g).cores = s.cores := rfl
@[simp] theorem modCtr_clusters (k : Nat) (g : CtrBlock → CtrBlock) : (modCtr s k g).clusters = s.clusters := rfl
@[simp] theorem modCtr_regions (k : Nat) (g : CtrBlock → CtrBlock) : (modCtr s k g).regions = s.regions := rfl
@[simp] theorem modCtr_dies (k : Nat) (g : CtrBlock → CtrBlock) : (modCtr s k g).dies = s.dies := rfl
@[simp] theorem modCtr_mem (k : Nat) (g : CtrBlock → CtrBlock) : (modCtr s k g).mem = s.mem := rfl
@[simp] theorem modCtr_fns (k : Nat) (g : CtrBlock → CtrBlock) : (modCtr s k g).fns = s.fns := rfl
@[simp] theorem modCtr_host (k : Nat) (g : CtrBlock → CtrBlock) : (modCtr s k g).host = s.host := rfl
@[simp] theorem modCtr_fe (k : Nat) (g : CtrBlock → CtrBlock) : (modCtr s k g).fe = s.fe := rfl
@[simp] theorem modCtr_sched (k : Nat) (g : CtrBlock → CtrBlock) : (modCtr s k g).sched = s.sched := rfl
@[simp] theorem modCtr_selfId (k : Nat) (g : CtrBlock → CtrBlock) : (modCtr s k g).selfId = s.selfId := rfl
@[simp] theorem modCtr_links (k : Nat) (g : CtrBlock → CtrBlock) : (modCtr s k g).links = s.links := rfl
@[simp] theorem modCtr_mgmt (k : Nat) (g : CtrBlock → CtrBlock) : (modCtr s k g).mgmt = s.mgmt := rfl
@[simp] theorem modCtr_twin (k : Nat) (g : CtrBlock → CtrBlock) : (modCtr s k g).twin = s.twin := rfl
@[simp] theorem modCtr_pm (k : Nat) (g : CtrBlock → CtrBlock) : (modCtr s k g).pm = s.pm := rfl
@[simp] theorem modCtr_ras (k : Nat) (g : CtrBlock → CtrBlock) : (modCtr s k g).ras = s.ras := rfl
@[simp] theorem modCtr_dbg (k : Nat) (g : CtrBlock → CtrBlock) : (modCtr s k g).dbg = { s.dbg with blocks := alPut s.dbg.blocks k (g (ctrOf s k)) } := rfl
@[simp] theorem modCtr_images (k : Nat) (g : CtrBlock → CtrBlock) : (modCtr s k g).images = s.images := rfl
@[simp] theorem modCtr_nextImage (k : Nat) (g : CtrBlock → CtrBlock) : (modCtr s k g).nextImage = s.nextImage := rfl
@[simp] theorem modCtr_vtensors (k : Nat) (g : CtrBlock → CtrBlock) : (modCtr s k g).vtensors = s.vtensors := rfl
@[simp] theorem modCtr_captures (k : Nat) (g : CtrBlock → CtrBlock) : (modCtr s k g).captures = s.captures := rfl
@[simp] theorem modCtr_nextCapture (k : Nat) (g : CtrBlock → CtrBlock) : (modCtr s k g).nextCapture = s.nextCapture := rfl
@[simp] theorem modCtr_pools (k : Nat) (g : CtrBlock → CtrBlock) : (modCtr s k g).pools = s.pools := rfl
@[simp] theorem modCtr_frozen (k : Nat) (g : CtrBlock → CtrBlock) : (modCtr s k g).frozen = s.frozen := rfl
@[simp] theorem modCtr_saved (k : Nat) (g : CtrBlock → CtrBlock) : (modCtr s k g).saved = s.saved := rfl

end Sys2Proof.Machine
end

