-- ==== Sys2Proof/Laws/Issue.lean ====
section
/-! SUPPORT. What the shared operations of an issuing instruction do: the issue itself, counting, writing a register and
moving the path on. -/

namespace Sys2Proof.Machine

/-! ### Accessors -/

@[simp] theorem coreOf_modExec (s : State) (c : Nat) (g : Exec → Exec) :
    coreOf (modExec s c g) c = { coreOf s c with exec := g (execOf s c) } := by simp [coreOf, execOf]

theorem coreOf_modExec_other (s : State) (c k : Nat) (g : Exec → Exec) (h : k ≠ c) :
    coreOf (modExec s c g) k = coreOf s k := by simp [coreOf, alGet_alPut_other _ _ _ _ _ h]

@[simp] theorem execOf_modExec (s : State) (c : Nat) (g : Exec → Exec) : execOf (modExec s c g) c = g (execOf s c) := by
  simp [execOf, coreOf]

/-! ### Counting -/

theorem ctrAdd_dbg (s : State) (k code n : Nat) (part : Option Nat) :
    ctrAdd s k code n part = { s with dbg := (ctrAdd s k code n part).dbg } := by
  unfold ctrAdd
  split <;> rfl

@[simp] theorem coreOf_ctrAdd (s : State) (k code n : Nat) (part : Option Nat) (c : Nat) :
    coreOf (ctrAdd s k code n part) c = coreOf s c := by rw [ctrAdd_dbg]; rfl

@[simp] theorem execOf_ctrAdd (s : State) (k code n : Nat) (part : Option Nat) (c : Nat) :
    execOf (ctrAdd s k code n part) c = execOf s c := by simp [execOf]

/-! ### Issue -/

/-- What a context holds when a group issues. -/
theorem issue_some {s : State} {i : Iss} {c : Ctx} (h : issue s i = some c) :
    c.core = i.core ∧ c.slot = i.slot ∧ c.x = execOf s i.core ∧ alFind (execOf s i.core).groups i.slot = some c.g ∧
      alFind (execOf s i.core).blocks c.g.block = some c.b ∧ currentPath c.g = some c.p ∧
      c.act = guardLanes i c.g c.p ∧ c.next = c.p.pc + 16 + 8 * i.nx := by
  simp only [issue] at h
  split at h
  · cases h
  · split at h
    · cases h
    · split at h
      · cases h
      · split at h
        · cases h
          exact ⟨rfl, rfl, rfl, ‹_›, ‹_›, ‹_›, rfl, rfl⟩
        · cases h

/-- The lanes that take part are lanes of the group. -/
theorem act_lt {s : State} {i : Iss} {c : Ctx} (h : issue s i = some c) : ∀ l ∈ c.act, l < 32 := by
  intro l hl
  obtain ⟨-, -, -, -, -, -, ha, -⟩ := issue_some h
  rw [ha] at hl
  have := List.mem_of_mem_filter hl
  exact List.mem_range.mp (List.mem_of_mem_filter this)

/-- An instruction that issues runs with the context of its group on the state that has fetched and counted it. -/
theorem issueWith_issues {s : State} {i : Iss} {c : Ctx} {dst : List Nat} {narrow wide : List Opd}
    (h : Issues s i c dst narrow wide) (k : State → Ctx → State) :
    issueWith s i dst narrow wide k = k (issued s i c) c := by
  obtain ⟨hi, ho, hp, hf⟩ := h
  unfold issueWith issued
  rw [hi]
  simp only [ho, hp, Bool.not_true, Bool.false_eq_true, if_false]
  have hn : (nativeLines c).find? (fun l => !c.x.istore.contains l) = none := by
    rw [List.find?_eq_none]
    intro l hl
    have := hf.1 l hl
    simpa using this
  simp only [hn, hf.2, Bool.false_eq_true, if_false]

/-- Fetching and counting change the order of the instruction store and debug counters alone. -/
theorem issued_cores (s : State) (i : Iss) (c : Ctx) :
    issued s i c = { s with cores := (issued s i c).cores, dbg := (issued s i c).dbg } := by
  unfold issued
  rw [ctrAdd_dbg]
  unfold touchLines
  split <;> rfl

@[simp] theorem issued_freeCtr (s : State) (i : Iss) (c : Ctx) : (issued s i c).freeCtr = s.freeCtr := by
  rw [issued_cores]

theorem coreOf_issued_other (s : State) (i : Iss) (c : Ctx) (k : Nat) (h : k ≠ i.core) :
    coreOf (issued s i c) k = coreOf s k := by
  unfold issued
  rw [coreOf_ctrAdd]
  unfold touchLines
  split
  · rfl
  · exact coreOf_modExec_other _ _ _ _ h

theorem coreOf_issued (s : State) (i : Iss) (c : Ctx) :
    ∃ st, coreOf (issued s i c) i.core = { coreOf s i.core with exec := { execOf s i.core with istore := st } } := by
  unfold issued
  rw [coreOf_ctrAdd]
  unfold touchLines
  split
  · exact ⟨(execOf s i.core).istore, rfl⟩
  · exact ⟨_, by rw [coreOf_modExec]⟩

@[simp] theorem groups_issued (s : State) (i : Iss) (c : Ctx) :
    (execOf (issued s i c) i.core).groups = (execOf s i.core).groups := by
  obtain ⟨st, h⟩ := coreOf_issued s i c
  simp [execOf, h]

/-! ### Moving on -/

/-- The group that `advance` leaves. -/
theorem seen_putGroup (s : State) (c : Ctx) (g : Group) : (c.seen (putGroup s c g)).g = g := by
  simp [Ctx.seen, execOf, coreOf]

@[simp] theorem seen_advance (s : State) (c : Ctx) (g : Group) : (c.seen (advance s c g)).g = movePath c g c.next := by
  simp [advance, seen_putGroup]

theorem setPaths_eq (recon : List Nat) (g : Group) (ps : List Path) :
    ∃ b r, setPaths recon g ps = { g with paths := holdPaths recon (mergePaths ps), branches := b, rotated := r } := by
  simp only [setPaths]
  split
  · exact ⟨g.branches, g.rotated, rfl⟩
  · exact ⟨0, none, rfl⟩

/-- Moving the path changes nothing of a group but its paths, its branch count and its rotation. -/
theorem movePath_eq (c : Ctx) (g : Group) (pc : Nat) :
    ∃ b r, movePath c g pc = { g with
      paths := holdPaths c.b.task.recon (mergePaths (g.paths.map (fun q => if q.lanes = c.p.lanes then { q with pc := pc, released := false } else q)))
      branches := b, rotated := r } := setPaths_eq _ _ _

/-! ### What moving a path leaves of its group -/

@[simp] theorem movePath_block (c : Ctx) (g : Group) (pc : Nat) : (movePath c g pc).block = g.block := by
  obtain ⟨b, r, h⟩ := movePath_eq c g pc
  rw [h]

@[simp] theorem movePath_index (c : Ctx) (g : Group) (pc : Nat) : (movePath c g pc).index = g.index := by
  obtain ⟨b, r, h⟩ := movePath_eq c g pc
  rw [h]

@[simp] theorem movePath_launch (c : Ctx) (g : Group) (pc : Nat) : (movePath c g pc).launch = g.launch := by
  obtain ⟨b, r, h⟩ := movePath_eq c g pc
  rw [h]

@[simp] theorem movePath_regs (c : Ctx) (g : Group) (pc : Nat) : (movePath c g pc).regs = g.regs := by
  obtain ⟨b, r, h⟩ := movePath_eq c g pc
  rw [h]

@[simp] theorem movePath_uregs (c : Ctx) (g : Group) (pc : Nat) : (movePath c g pc).uregs = g.uregs := by
  obtain ⟨b, r, h⟩ := movePath_eq c g pc
  rw [h]

@[simp] theorem movePath_preds (c : Ctx) (g : Group) (pc : Nat) : (movePath c g pc).preds = g.preds := by
  obtain ⟨b, r, h⟩ := movePath_eq c g pc
  rw [h]

@[simp] theorem movePath_handles (c : Ctx) (g : Group) (pc : Nat) : (movePath c g pc).handles = g.handles := by
  obtain ⟨b, r, h⟩ := movePath_eq c g pc
  rw [h]

@[simp] theorem movePath_calls (c : Ctx) (g : Group) (pc : Nat) : (movePath c g pc).calls = g.calls := by
  obtain ⟨b, r, h⟩ := movePath_eq c g pc
  rw [h]

@[simp] theorem movePath_loops (c : Ctx) (g : Group) (pc : Nat) : (movePath c g pc).loops = g.loops := by
  obtain ⟨b, r, h⟩ := movePath_eq c g pc
  rw [h]

@[simp] theorem movePath_srCount (c : Ctx) (g : Group) (pc : Nat) : (movePath c g pc).srCount = g.srCount := by
  obtain ⟨b, r, h⟩ := movePath_eq c g pc
  rw [h]

@[simp] theorem movePath_birth (c : Ctx) (g : Group) (pc : Nat) : (movePath c g pc).birth = g.birth := by
  obtain ⟨b, r, h⟩ := movePath_eq c g pc
  rw [h]

@[simp] theorem movePath_stop (c : Ctx) (g : Group) (pc : Nat) : (movePath c g pc).stop = g.stop := by
  obtain ⟨b, r, h⟩ := movePath_eq c g pc
  rw [h]

@[simp] theorem movePath_regPoison (c : Ctx) (g : Group) (pc : Nat) : (movePath c g pc).regPoison = g.regPoison := by
  obtain ⟨b, r, h⟩ := movePath_eq c g pc
  rw [h]

@[simp] theorem movePath_uregPoison (c : Ctx) (g : Group) (pc : Nat) : (movePath c g pc).uregPoison = g.uregPoison := by
  obtain ⟨b, r, h⟩ := movePath_eq c g pc
  rw [h]

@[simp] theorem movePath_predPoison (c : Ctx) (g : Group) (pc : Nat) : (movePath c g pc).predPoison = g.predPoison := by
  obtain ⟨b, r, h⟩ := movePath_eq c g pc
  rw [h]

@[simp] theorem movePath_handlePoison (c : Ctx) (g : Group) (pc : Nat) : (movePath c g pc).handlePoison = g.handlePoison := by
  obtain ⟨b, r, h⟩ := movePath_eq c g pc
  rw [h]

theorem movePath_paths (c : Ctx) (g : Group) (pc : Nat) :
    (movePath c g pc).paths = holdPaths c.b.task.recon (mergePaths
      (g.paths.map (fun q => if q.lanes = c.p.lanes then { q with pc := pc, released := false } else q))) := by
  obtain ⟨b, r, h⟩ := movePath_eq c g pc
  rw [h]

/-! ### Writing lanes -/

theorem find_map_lane {α : Type} (f : Nat → α) (l : Nat) (as : List Nat) (h : l ∈ as) :
    ((as.map (fun l => (l, f l))).find? (fun e => e.1 == l)).map (·.2) = some (f l) := by
  induction as with
  | nil => cases h
  | cons a as ih =>
    by_cases ha : a = l
    · subst ha; simp
    · have hb : (a == l) = false := by simp [ha]
      have : l ∈ as := by
        rcases List.mem_cons.mp h with h | h
        · exact absurd h.symm ha
        · exact h
      simp only [List.map_cons, List.find?_cons, hb]
      exact ih this

theorem find_map_lane_none {α : Type} (f : Nat → α) (l : Nat) (as : List Nat) (h : l ∉ as) :
    (as.map (fun l => (l, f l))).find? (fun e => e.1 == l) = none := by
  rw [List.find?_eq_none]
  simp only [List.mem_map, beq_iff_eq]
  rintro e ⟨a, ha, rfl⟩ rfl
  exact h ha

/-- Reading lane `l` of register `n` after values were written to register `n` of some lanes. -/
theorem alGet_foldl_lanes {α : Type} (n : Nat) (vals : List (Nat × α)) : ∀ (m : AL α) (d : α) (l : Nat),
    alGet d (vals.foldl (fun m e => alPut m (32 * n + e.1) e.2) m) (32 * n + l) =
      ((vals.reverse.find? (fun e => e.1 == l)).map (·.2)).getD (alGet d m (32 * n + l)) := by
  induction vals with
  | nil => intro m d l; rfl
  | cons e r ih =>
    intro m d l
    simp only [List.foldl_cons, ih, List.reverse_cons, List.find?_append, alGet_alPut]
    by_cases h : e.1 = l
    · subst h
      simp only [if_true]
      cases List.find? (fun e' => e'.1 == e.1) r.reverse <;> simp
    · have h1 : ¬ 32 * n + l = 32 * n + e.1 := by omega
      have h2 : (e.1 == l) = false := by simp [h]
      rw [if_neg h1]
      cases List.find? (fun e' => e'.1 == l) r.reverse <;> simp [List.find?_cons, h2]

/-- Reading any other key. -/
theorem alGet_foldl_lanes_other {α : Type} (n k : Nat) (vals : List (Nat × α)) (h : ∀ e ∈ vals, k ≠ 32 * n + e.1) :
    ∀ (m : AL α) (d : α), alGet d (vals.foldl (fun m e => alPut m (32 * n + e.1) e.2) m) k = alGet d m k := by
  induction vals with
  | nil => intro m d; rfl
  | cons e r ih =>
    intro m d
    rw [List.foldl_cons, ih (fun e he => h e (List.mem_cons_of_mem _ he)), alGet_alPut_other]
    exact h e (by simp)

theorem alGet_written {α : Type} (n : Nat) (act : List Nat) (f : Nat → α) (m : AL α) (d : α) (l : Nat) (h : l ∈ act) :
    alGet d ((act.map (fun l => (l, f l))).foldl (fun m e => alPut m (32 * n + e.1) e.2) m) (32 * n + l) = f l := by
  rw [alGet_foldl_lanes, ← List.map_reverse, find_map_lane f l _ (by simpa using h)]
  rfl

theorem uniformVal_const (x : DWord) (act : List Nat) (f : Nat → Word) (v : Word) (hne : act ≠ [])
    (h : ∀ l ∈ act, f l = v) : uniformVal x (act.map (fun l => (l, f l))) = some v := by
  cases act with
  | nil => exact absurd rfl hne
  | cons a as =>
    have ha := h a (by simp)
    simp only [List.map_cons, uniformVal, ha]
    rw [if_pos]
    simp only [List.all_eq_true, List.mem_map, beq_iff_eq]
    rintro e ⟨l, hl, rfl⟩
    exact h l (by simp [hl])

/-- A path that moves on after writing lane values to a destination has written them. -/
theorem wrote_advance (s s0 : State) (c : Ctx) (d : Opd) (f : Nat → Word) :
    Wrote c (advance s c (writeD s0 c.g d (c.act.map (fun l => (l, f l))))) d f := by
  unfold Wrote
  split
  · rename_i n
    intro l hl
    simp only [vReg, seen_advance, writeD, movePath_birth, movePath_regs]
    exact alGet_written n c.act f _ _ l hl
  · rename_i n
    intro l hl
    simp only [predOf, seen_advance, writeD, movePath_birth, movePath_preds, setP, List.map_map]
    exact alGet_written n c.act (fun l => (f l).getLsbD 0) _ _ l hl
  · rename_i n
    intro v hne hv
    simp only [uReg, seen_advance, writeD, uniformVal_const _ _ f v hne hv, movePath_birth, movePath_uregs, setU]
    simp
  · trivial

/-! ### The frame of an instruction that changes its group alone -/

theorem OnlyCores.issued (s : State) (i : Iss) (c : Ctx) : OnlyCores s (issued s i c) := by
  unfold OnlyCores
  rw [issued_cores]

theorem OnlyCores.putGroup {s t : State} (h : OnlyCores s t) (c : Ctx) (g : Group) : OnlyCores s (putGroup t c g) := by
  unfold OnlyCores at h ⊢
  rw [h]
  rfl

/-- Putting the issuing group back, whatever free values were used, changes that group of that core alone. -/
theorem onlyGroup_putGroup {s t : State} {i : Iss} {c : Ctx} (h : issue s i = some c)
    (ht : ∀ k, coreOf t k = coreOf (issued s i c) k) (g : Group) : OnlyGroup s (putGroup t c g) i.core i.slot := by
  obtain ⟨hc, hs, -⟩ := issue_some h
  have he : ∀ k, execOf t k = execOf (issued s i c) k := fun k => by simp [execOf, ht]
  refine ⟨?_, ?_, ?_⟩
  · intro k hk
    show coreOf (modExec _ _ _) _ = _
    rw [coreOf_modExec_other _ _ _ _ (by rw [hc]; exact hk), ht, coreOf_issued_other _ _ _ _ hk]
  · obtain ⟨st, hst⟩ := coreOf_issued s i c
    refine ⟨alPut (execOf s i.core).groups c.slot g, st, ?_⟩
    show coreOf (modExec _ _ _) _ = _
    have hx : execOf (issued s i c) i.core = { execOf s i.core with istore := st } := by simp [execOf, hst]
    rw [hc, coreOf_modExec, ht, he, hx, hst]
  · intro j hj
    show alFind (execOf (modExec _ _ _) _).groups j = _
    rw [hc, execOf_modExec, he]
    show alFind (alPut (execOf (issued s i c) i.core).groups c.slot _) j = _
    rw [groups_issued, alFind_alPut_other _ _ _ _ (by rw [hs]; exact hj)]

@[simp] theorem coreOf_usedFree (s : State) (d : Opd) (k : Nat) : coreOf (usedFree s d) k = coreOf s k := by
  unfold usedFree
  split <;> rfl

theorem OnlyCores.usedFree {s t : State} (h : OnlyCores s t) (d : Opd) : OnlyCores s (usedFree t d) := by
  unfold OnlyCores at h ⊢
  unfold Machine.usedFree
  rw [h]
  split <;> rfl

/-- The queue and the part stay out of what a frame speaks of. -/
theorem OnlyCores.completes {s t : State} (h : OnlyCores s t) : OnlyCores s { t with pending := s.pending, variant := s.variant } := by
  unfold OnlyCores at h ⊢
  rw [h]

/-! ### What writing a destination leaves of its group -/

@[simp] theorem writeD_block (s : State) (g : Group) (d : Opd) (vals : List (Nat × Word)) :
    (writeD s g d vals).block = g.block := by
  unfold writeD
  split <;> first | rfl | (split <;> rfl)

@[simp] theorem writeD_index (s : State) (g : Group) (d : Opd) (vals : List (Nat × Word)) :
    (writeD s g d vals).index = g.index := by
  unfold writeD
  split <;> first | rfl | (split <;> rfl)

@[simp] theorem writeD_launch (s : State) (g : Group) (d : Opd) (vals : List (Nat × Word)) :
    (writeD s g d vals).launch = g.launch := by
  unfold writeD
  split <;> first | rfl | (split <;> rfl)

@[simp] theorem writeD_paths (s : State) (g : Group) (d : Opd) (vals : List (Nat × Word)) :
    (writeD s g d vals).paths = g.paths := by
  unfold writeD
  split <;> first | rfl | (split <;> rfl)

@[simp] theorem writeD_rotated (s : State) (g : Group) (d : Opd) (vals : List (Nat × Word)) :
    (writeD s g d vals).rotated = g.rotated := by
  unfold writeD
  split <;> first | rfl | (split <;> rfl)

@[simp] theorem writeD_branches (s : State) (g : Group) (d : Opd) (vals : List (Nat × Word)) :
    (writeD s g d vals).branches = g.branches := by
  unfold writeD
  split <;> first | rfl | (split <;> rfl)

@[simp] theorem writeD_handles (s : State) (g : Group) (d : Opd) (vals : List (Nat × Word)) :
    (writeD s g d vals).handles = g.handles := by
  unfold writeD
  split <;> first | rfl | (split <;> rfl)

@[simp] theorem writeD_calls (s : State) (g : Group) (d : Opd) (vals : List (Nat × Word)) :
    (writeD s g d vals).calls = g.calls := by
  unfold writeD
  split <;> first | rfl | (split <;> rfl)

@[simp] theorem writeD_loops (s : State) (g : Group) (d : Opd) (vals : List (Nat × Word)) :
    (writeD s g d vals).loops = g.loops := by
  unfold writeD
  split <;> first | rfl | (split <;> rfl)

@[simp] theorem writeD_srCount (s : State) (g : Group) (d : Opd) (vals : List (Nat × Word)) :
    (writeD s g d vals).srCount = g.srCount := by
  unfold writeD
  split <;> first | rfl | (split <;> rfl)

@[simp] theorem writeD_birth (s : State) (g : Group) (d : Opd) (vals : List (Nat × Word)) :
    (writeD s g d vals).birth = g.birth := by
  unfold writeD
  split <;> first | rfl | (split <;> rfl)

@[simp] theorem writeD_stop (s : State) (g : Group) (d : Opd) (vals : List (Nat × Word)) :
    (writeD s g d vals).stop = g.stop := by
  unfold writeD
  split <;> first | rfl | (split <;> rfl)

@[simp] theorem writeD_handlePoison (s : State) (g : Group) (d : Opd) (vals : List (Nat × Word)) :
    (writeD s g d vals).handlePoison = g.handlePoison := by
  unfold writeD
  split <;> first | rfl | (split <;> rfl)

@[simp] theorem writeD64_block (s : State) (g : Group) (d : Opd) (vals : List (Nat × DWord)) :
    (writeD64 s g d vals).block = g.block := by
  unfold writeD64
  dsimp only
  split <;> first | rfl | (split <;> rfl)

@[simp] theorem writeD64_index (s : State) (g : Group) (d : Opd) (vals : List (Nat × DWord)) :
    (writeD64 s g d vals).index = g.index := by
  unfold writeD64
  dsimp only
  split <;> first | rfl | (split <;> rfl)

@[simp] theorem writeD64_launch (s : State) (g : Group) (d : Opd) (vals : List (Nat × DWord)) :
    (writeD64 s g d vals).launch = g.launch := by
  unfold writeD64
  dsimp only
  split <;> first | rfl | (split <;> rfl)

@[simp] theorem writeD64_paths (s : State) (g : Group) (d : Opd) (vals : List (Nat × DWord)) :
    (writeD64 s g d vals).paths = g.paths := by
  unfold writeD64
  dsimp only
  split <;> first | rfl | (split <;> rfl)

@[simp] theorem writeD64_rotated (s : State) (g : Group) (d : Opd) (vals : List (Nat × DWord)) :
    (writeD64 s g d vals).rotated = g.rotated := by
  unfold writeD64
  dsimp only
  split <;> first | rfl | (split <;> rfl)

@[simp] theorem writeD64_branches (s : State) (g : Group) (d : Opd) (vals : List (Nat × DWord)) :
    (writeD64 s g d vals).branches = g.branches := by
  unfold writeD64
  dsimp only
  split <;> first | rfl | (split <;> rfl)

@[simp] theorem writeD64_handles (s : State) (g : Group) (d : Opd) (vals : List (Nat × DWord)) :
    (writeD64 s g d vals).handles = g.handles := by
  unfold writeD64
  dsimp only
  split <;> first | rfl | (split <;> rfl)

@[simp] theorem writeD64_calls (s : State) (g : Group) (d : Opd) (vals : List (Nat × DWord)) :
    (writeD64 s g d vals).calls = g.calls := by
  unfold writeD64
  dsimp only
  split <;> first | rfl | (split <;> rfl)

@[simp] theorem writeD64_loops (s : State) (g : Group) (d : Opd) (vals : List (Nat × DWord)) :
    (writeD64 s g d vals).loops = g.loops := by
  unfold writeD64
  dsimp only
  split <;> first | rfl | (split <;> rfl)

@[simp] theorem writeD64_srCount (s : State) (g : Group) (d : Opd) (vals : List (Nat × DWord)) :
    (writeD64 s g d vals).srCount = g.srCount := by
  unfold writeD64
  dsimp only
  split <;> first | rfl | (split <;> rfl)

@[simp] theorem writeD64_birth (s : State) (g : Group) (d : Opd) (vals : List (Nat × DWord)) :
    (writeD64 s g d vals).birth = g.birth := by
  unfold writeD64
  dsimp only
  split <;> first | rfl | (split <;> rfl)

@[simp] theorem writeD64_stop (s : State) (g : Group) (d : Opd) (vals : List (Nat × DWord)) :
    (writeD64 s g d vals).stop = g.stop := by
  unfold writeD64
  dsimp only
  split <;> first | rfl | (split <;> rfl)

@[simp] theorem writeD64_handlePoison (s : State) (g : Group) (d : Opd) (vals : List (Nat × DWord)) :
    (writeD64 s g d vals).handlePoison = g.handlePoison := by
  unfold writeD64
  dsimp only
  split <;> first | rfl | (split <;> rfl)

/-- Reading a thread register that was not written. -/
theorem writeD_regs_other (s : State) (g : Group) (d : Opd) (act : List Nat) (f : Nat → Word) (n l : Nat) (x : Word) (hl : l < 32) (ha : ∀ l ∈ act, l < 32)
    (h : d ≠ .v n ∨ l ∉ act) : alGet x (writeD s g d (act.map (fun l => (l, f l)))).regs (32 * n + l) = alGet x g.regs (32 * n + l) := by
  cases d with
  | v k =>
    simp only [writeD, setV]
    rw [alGet_foldl_lanes_other]
    simp only [List.mem_map]
    rintro e ⟨q, hq, rfl⟩
    have := ha q hq
    rcases h with h | h
    · have : n ≠ k := by rintro rfl; exact h rfl
      simp only; omega
    · have : l ≠ q := by rintro rfl; exact h hq
      simp only; omega
  | u k => simp only [writeD]; split <;> rfl
  | _ => rfl

/-- Reading a predicate that was not written. -/
theorem writeD_preds_other (s : State) (g : Group) (d : Opd) (act : List Nat) (f : Nat → Word) (n l : Nat) (x : Bool) (hl : l < 32) (ha : ∀ l ∈ act, l < 32)
    (h : d ≠ .p n ∨ l ∉ act) : alGet x (writeD s g d (act.map (fun l => (l, f l)))).preds (32 * n + l) = alGet x g.preds (32 * n + l) := by
  cases d with
  | p k =>
    simp only [writeD, setP]
    rw [alGet_foldl_lanes_other]
    simp only [List.mem_map]
    rintro e ⟨_, ⟨q, hq, rfl⟩, rfl⟩
    have := ha q hq
    rcases h with h | h
    · have : n ≠ k := by rintro rfl; exact h rfl
      simp only; omega
    · have : l ≠ q := by rintro rfl; exact h hq
      simp only; omega
  | u k => simp only [writeD]; split <;> rfl
  | _ => rfl

/-- Reading a uniform register that was not written. -/
theorem writeD_uregs_other (s : State) (g : Group) (d : Opd) (vals : List (Nat × Word)) (n : Nat) (x : Word) (h : d ≠ .u n) : alGet x (writeD s g d vals).uregs n = alGet x g.uregs n := by
  cases d with
  | u k =>
    simp only [writeD]
    split
    · have : n ≠ k := by rintro rfl; exact h rfl
      simp only [setU]; rw [alGet_alPut_other _ _ _ _ _ this]
    · rfl
  | _ => rfl

/-! ### 64-bit destinations -/

/-- A path that moves on after writing 64-bit lane values to a destination has written them. -/
theorem wrote64_advance (s s0 : State) (c : Ctx) (d : Opd) (f : Nat → DWord) (hl : ∀ l ∈ c.act, l < 32) :
    Wrote64 c (advance s c (writeD64 s0 c.g d (c.act.map (fun l => (l, f l))))) d f := by
  unfold Wrote64
  split
  · rename_i n
    intro l ha
    have h32 := hl l ha
    simp only [vReg, seen_advance, movePath_birth, movePath_regs, writeD64_birth]
    simp only [writeD64, setV, List.map_map]
    constructor
    · rw [alGet_foldl_lanes_other]
      · exact alGet_written n c.act (fun l => BitVec.setWidth 32 (f l)) _ _ l ha
      · simp only [List.mem_map, Function.comp]
        rintro e ⟨q, hq, rfl⟩
        have := hl q hq
        simp only
        omega
    · exact alGet_written (n + 1) c.act (fun l => BitVec.extractLsb' 32 32 (f l)) _ _ l ha
  · rename_i n
    intro v hne hv
    simp only [uReg, seen_advance, movePath_birth, movePath_uregs, writeD64_birth]
    simp only [writeD64, List.map_map]
    have h1 := uniformVal_const (Config.fresh s0.freeCtr) c.act (fun l => BitVec.setWidth 32 (f l)) (BitVec.setWidth 32 v) hne
      (fun l h => by rw [hv l h])
    have h2 := uniformVal_const (Config.fresh (s0.freeCtr + 1)) c.act (fun l => BitVec.extractLsb' 32 32 (f l))
      (BitVec.extractLsb' 32 32 v) hne (fun l h => by rw [hv l h])
    have e1 : ((fun (e : Nat × DWord) => (e.1, BitVec.setWidth 32 e.2)) ∘ fun l => (l, f l)) =
      (fun l => (l, BitVec.setWidth 32 (f l))) := rfl
    have e2 : ((fun (e : Nat × DWord) => (e.1, BitVec.extractLsb' 32 32 e.2)) ∘ fun l => (l, f l)) =
      (fun l => (l, BitVec.extractLsb' 32 32 (f l))) := rfl
    rw [e1, e2, h1, h2]
    constructor
    · simp only [setU]
      rw [alGet_alPut_other _ _ _ _ _ (by omega)]
      simp
    · simp [setU]
  · rename_i n
    intro l ha
    simp only [predOf, seen_advance, movePath_birth, movePath_preds, writeD64_birth]
    simp only [writeD64, setP, List.map_map]
    exact alGet_written n c.act (fun l => (f l).getLsbD 0) _ _ l ha
  · trivial

/-! ### Lanes and their program counters -/

/-- A path holds lane `l` at `pc` with this barrier wait and stall. -/
def Path.holds (p : Path) (l pc : Nat) (bar : Option (Nat × BitVec 16)) (stall : Stall) : Prop :=
  p.lanes.getLsbD l = true ∧ p.pc = pc ∧ p.bar = bar ∧ p.stall = stall

theorem holds_mergePath_self (p : Path) (ps : List Path) (l pc : Nat) (bar : Option (Nat × BitVec 16)) (st : Stall)
    (h : p.holds l pc bar st) : ∃ q ∈ mergePath p ps, q.holds l pc bar st := by
  obtain ⟨h1, h2, h3, h4⟩ := h
  induction ps with
  | nil => exact ⟨p, by simp [mergePath], h1, h2, h3, h4⟩
  | cons q r ih =>
    simp only [mergePath]
    split
    · rename_i heq
      simp only [Bool.and_eq_true, beq_iff_eq] at heq
      obtain ⟨⟨⟨e1, e2⟩, e3⟩, -⟩ := heq
      exact ⟨_, List.mem_cons_self, by simp [h1], by simp [e1, h2], by simp [e2, h3], by simp [e3, h4]⟩
    · split
      · exact ⟨p, by simp, h1, h2, h3, h4⟩
      · obtain ⟨x, hx, hh⟩ := ih
        exact ⟨x, List.mem_cons_of_mem _ hx, hh⟩

theorem holds_mergePath (p : Path) (ps : List Path) (l pc : Nat) (bar : Option (Nat × BitVec 16)) (st : Stall)
    (h : ∃ q ∈ ps, q.holds l pc bar st) : ∃ q ∈ mergePath p ps, q.holds l pc bar st := by
  induction ps with
  | nil => obtain ⟨q, hq, -⟩ := h; cases hq
  | cons q r ih =>
    simp only [mergePath]
    obtain ⟨x, hx, h1, h2, h3, h4⟩ := h
    split
    · rcases List.mem_cons.mp hx with rfl | hx
      · exact ⟨_, List.mem_cons_self, by simp [h1], h2, h3, h4⟩
      · exact ⟨x, List.mem_cons_of_mem _ hx, h1, h2, h3, h4⟩
    · split
      · exact ⟨x, List.mem_cons_of_mem _ hx, h1, h2, h3, h4⟩
      · rcases List.mem_cons.mp hx with rfl | hx
        · exact ⟨x, List.mem_cons_self, h1, h2, h3, h4⟩
        · obtain ⟨y, hy, hh⟩ := ih ⟨x, hx, h1, h2, h3, h4⟩
          exact ⟨y, List.mem_cons_of_mem _ hy, hh⟩

theorem holds_mergePaths (ps : List Path) (l pc : Nat) (bar : Option (Nat × BitVec 16)) (st : Stall)
    (h : ∃ q ∈ ps, q.holds l pc bar st) : ∃ q ∈ mergePaths ps, q.holds l pc bar st := by
  have key : ∀ (ps acc : List Path), ((∃ q ∈ ps, q.holds l pc bar st) ∨ ∃ q ∈ acc, q.holds l pc bar st) →
      ∃ q ∈ ps.foldl (fun acc p => if p.lanes = 0 then acc else mergePath { p with held := false } acc) acc,
        q.holds l pc bar st := by
    intro ps
    induction ps with
    | nil =>
      rintro acc (⟨q, hq, -⟩ | h)
      · cases hq
      · exact h
    | cons p r ih =>
      intro acc h
      rw [List.foldl_cons]
      apply ih
      rcases h with ⟨q, hq, hh⟩ | h
      · rcases List.mem_cons.mp hq with rfl | hq
        · right
          have : q.lanes ≠ 0 := by
            intro h0
            have := hh.1
            rw [h0] at this
            simp at this
          rw [if_neg this]
          exact holds_mergePath_self _ _ _ _ _ _ hh
        · exact .inl ⟨q, hq, hh⟩
      · right
        split
        · exact h
        · exact holds_mergePath _ _ _ _ _ _ h
  exact key ps [] (.inl h)

/-- A lane is, after the path set has been formed again, where it was among the paths given. -/
theorem laneAt_setPaths (recon : List Nat) (g : Group) (ps : List Path) (l pc : Nat) (bar : Option (Nat × BitVec 16))
    (st : Stall) (h : ∃ q ∈ ps, q.holds l pc bar st) : LaneAt (setPaths recon g ps) l pc bar st := by
  obtain ⟨b, r, he⟩ := setPaths_eq recon g ps
  obtain ⟨q, hq, h1, h2, h3, h4⟩ := holds_mergePaths ps l pc bar st h
  unfold LaneAt
  rw [he]
  exact ⟨_, List.mem_map.mpr ⟨q, hq, rfl⟩, h1, h2, h3, h4⟩

/-- Splitting a path changes nothing of the group but its paths, its branch count and its rotation. -/
theorem splitPath_eq (c : Ctx) (g : Group) (ps : List Path) (back : Bool) :
    ∃ b r, splitPath c g ps back = { g with
      paths := holdPaths c.b.task.recon (mergePaths (g.paths.filter (fun q => q.lanes != c.p.lanes) ++ ps))
      branches := b, rotated := r } := by
  obtain ⟨b, r, he⟩ := setPaths_eq c.b.task.recon g (g.paths.filter (fun q => q.lanes != c.p.lanes) ++ ps)
  simp only [splitPath, he]
  split
  · exact ⟨b + 1, r, rfl⟩
  · exact ⟨b, r, rfl⟩

/-- Where the lanes of a split path go. -/
theorem laneAt_splitPath (c : Ctx) (g : Group) (ps : List Path) (back : Bool) (l pc : Nat)
    (bar : Option (Nat × BitVec 16)) (st : Stall) (h : ∃ q ∈ ps, q.holds l pc bar st) :
    LaneAt (splitPath c g ps back) l pc bar st := by
  obtain ⟨b, r, he⟩ := splitPath_eq c g ps back
  obtain ⟨q, hq, h1, h2, h3, h4⟩ := holds_mergePaths (g.paths.filter (fun q => q.lanes != c.p.lanes) ++ ps) l pc bar st
    (by obtain ⟨q, hq, hh⟩ := h; exact ⟨q, List.mem_append_right _ hq, hh⟩)
  unfold LaneAt
  rw [he]
  exact ⟨_, List.mem_map.mpr ⟨q, hq, rfl⟩, h1, h2, h3, h4⟩

theorem mem_laneList {m : Lanes} {l : Nat} (h : l ∈ laneList m) : l < 32 ∧ m.getLsbD l = true := by
  simp only [laneList, List.mem_filter, List.mem_range] at h
  exact h

/-- Lane `l` of a mask made of a list of lanes. -/
theorem getLsbD_laneMask (ls : List Nat) (l : Nat) (h : l < 32) : (laneMask ls).getLsbD l = decide (l ∈ ls) := by
  have key : ∀ (ls : List Nat) (m : Lanes),
      (ls.foldl (fun m i => m ||| BitVec.ofNat 32 (1 <<< i)) m).getLsbD l = (m.getLsbD l || decide (l ∈ ls)) := by
    intro ls
    induction ls with
    | nil => simp
    | cons a r ih =>
      intro m
      rw [List.foldl_cons, ih]
      have : (BitVec.ofNat 32 (1 <<< a)).getLsbD l = decide (l = a) := by
        rw [BitVec.getLsbD_ofNat, Nat.one_shiftLeft, Nat.testBit_two_pow]
        simp [h, eq_comm]
      simp only [BitVec.getLsbD_or, this, List.mem_cons, Bool.decide_or, Bool.or_assoc]
  simp [laneMask, key]

/-- A path made of a list of lanes holds each of them. -/
theorem pathAt_holds (ls : List Nat) (l pc : Nat) (h : l < 32) (hl : l ∈ ls) : (pathAt ls pc).holds l pc none .go :=
  ⟨by simp [pathAt, getLsbD_laneMask _ _ h, hl], rfl, rfl, rfl⟩

end Sys2Proof.Machine
end

