-- ==== Sys2Proof/Tests/Slice0.lean ====
section
/-! SUPPORT. Tests: ill-formed commands that `Instr.wf` refuses, small states that meet the hypotheses of the statements,
and single steps whose results the spec gives. -/

open Sys2Proof Sys2Proof.Machine

namespace Sys2Proof.Tests

set_option Elab.async false
/-! ### Small states -/

/-- The next state that an outcome answers; the state after reset for the others. -/
def nxt (o : Host.Outcome State Fault Refusal) : State :=
  match o with
  | .next t => t
  | _ => State.reset

/-- A running part of the largest variant. -/
def run0 : State := { pm := { phase := .running, ready := true, perstLow := false } }

/-- The context with which a group issues. -/
def ctxOf (s : State) (i : Iss) : Ctx :=
  (issue s i).getD { core := 0, slot := 0, x := {}, g := {}, b := {}, p := { lanes := 0, pc := 0 }, act := [], next := 0 }

theorem issue_of {s : State} {i : Iss} (h : (issue s i).isSome = true) : issue s i = some (ctxOf s i) := by
  obtain ⟨c, hc⟩ := Option.isSome_iff_exists.1 h
  simp [ctxOf, hc]

/-- What issues on core 0 from slot 0, unguarded. -/
def i0 : Iss := { core := 0, slot := 0, guarded := false, negated := false, guard := 0, nx := 0 }

/-- The conditions of `Issues` that a program can test. -/
def canIssue (s : State) (i : Iss) (dst : List Nat) (narrow wide : List Opd) : Bool :=
  (issue s i).isSome && opsReady (ctxOf s i) (dst ++ narrow.flatMap (vRegs false) ++ wide.flatMap (vRegs true)) &&
    !anyPoison (ctxOf s i) i narrow wide && (nativeLines (ctxOf s i)).all (fun l => (ctxOf s i).x.istore.contains l) &&
    !brkAhead (ctxOf s i)

theorem issues_of {s : State} {i : Iss} {dst : List Nat} {narrow wide : List Opd}
    (h : canIssue s i dst narrow wide = true) : Issues s i (ctxOf s i) dst narrow wide := by
  simp only [canIssue, Bool.and_eq_true, Bool.not_eq_true'] at h
  obtain ⟨⟨⟨⟨h1, h2⟩, h3⟩, h4⟩, h5⟩ := h
  refine ⟨?_, h2, h3, by simpa [List.all_eq_true] using h4, h5⟩
  obtain ⟨c, hc⟩ := Option.isSome_iff_exists.1 h1
  simp [ctxOf, hc]

/-- A running core that holds one block and one group. -/
def coreWith (g : Group) (b : Block) : Core := { present := true, power := .active, exec := { blocks := [(0, b)], groups := [(0, g)] } }

/-- A group of three lanes whose one path stands at 0. -/
def g3 : Group := { launch := 7, paths := [{ lanes := 7, pc := 0 }] }

/-- A block of three threads of task node 0. -/
def b3 : Block := { threads := 3, task := { slmKib := 1, nregs := 32 } }

/-- A part on which one group of core 0 runs. -/
def sGB (g : Group) (b : Block) : State := { run0 with cores := [(0, coreWith g b)] }

/-- What an access that answers `ok` answers. -/
def okOf {α : Type} [Inhabited α] (x : Acc α × State) : α :=
  match x.1 with
  | .ok a => a
  | _ => default

/-- Whether an access answers `ok`. -/
def isOk {α : Type} (x : Acc α × State) : Bool :=
  match x.1 with
  | .ok _ => true
  | _ => false

theorem acc_ok {α : Type} [Inhabited α] {x : Acc α × State} (h : isOk x = true) : x = (.ok (okOf x), x.2) := by
  obtain ⟨a, s⟩ := x
  cases a <;> simp_all [isOk, okOf]

/-- The value of an answer that is `ok`. -/
def accVal {α : Type} (a : Acc α) (h : (match a with | .ok _ => true | _ => false) = true) : α :=
  match a, h with
  | .ok v, _ => v

theorem accVal_eq {α : Type} (a : Acc α) (h : (match a with | .ok _ => true | _ => false) = true) : a = .ok (accVal a h) := by
  cases a with
  | ok v => rfl
  | fault f => cases h
  | wait => cases h

/-- What an access that answers `ok` answers. -/
def okVal {α : Type} (x : Acc α × State) (h : isOk x = true) : α := accVal x.1 h

theorem okVal_eq {α : Type} {x : Acc α × State} (h : isOk x = true) : x = (.ok (okVal x h), x.2) :=
  Prod.ext (accVal_eq x.1 h) rfl

theorem okPair_eq {α β : Type} {x : Acc (α × β) × State} (h : isOk x = true) :
    x = (.ok ((okVal x h).1, (okVal x h).2), x.2) := okVal_eq h

/-- Whether an access answers fault `f`. -/
def isFault {α : Type} (f : DevFault) (x : Acc α × State) : Bool :=
  match x.1 with
  | .fault g => g == f
  | _ => false

theorem acc_fault {α : Type} {f : DevFault} {x : Acc α × State} (h : isFault f x = true) : x = (.fault f, x.2) := by
  obtain ⟨a, s⟩ := x
  cases a <;> simp_all [isFault]

theorem not_wait {α : Type} {x : Acc α × State} (h : isOk x = true) : x.1 ≠ .wait := by
  intro e
  simp [isOk, e] at h

theorem acc_unit {x : Acc Unit × State} (h : isOk x = true) : x = (.ok (), x.2) := acc_ok h

/-- A queue of the physical function. -/
def q0 : Queue :=
  { fn := 0, cls := .normal, haltOnError := false, pasid := false, shotUs := 0, ringBase := 0x10000,
    ringLog2 := 6, vector := 0, rtCores := 0, consAddr := 0x20000, tailUs := 0 }

/-- A ring entry. -/
def re0 : RingEntry := { graphLen := 192, graphAddr := 0x1000, jobTag := 7, irq := false, time := 0, order := 0, db := 0 }

/-- The cells of memory that hold these bytes from an address on. -/
def cellsAt (a : Nat) (bs : List Byte) : List (Nat × Byte) :=
  (bs.zipIdx.filter (fun e => e.1 != 0)).map (fun e => (a + e.2, e.1))

/-- A job of queue 0. -/
def j0 : Job := { queue := 0, fn := 0, tenant := 0, part := 0, entry := re0 }

/-- A node of job 0. -/
def n0 : Node := { job := 0, queue := 0, tenant := 0, part := 0, idx := 0, subst := false, desc := [], preds := [] }

theorem nxt_of {o : Host.Outcome State Fault Refusal} (h : (match o with | .next _ => true | _ => false) = true) :
    o = .next (nxt o) := by
  cases o <;> simp_all [nxt]

/-- One interleave set of one controller from address 0 on, and four pages of tenant 0 mapped onto themselves. -/
def mem0 : MemSys :=
  { sets := [{ base := 0, size := 2 ^ 32, member := [0], mbase := [0], owner := .shared }]
    ctls := [(0, { present := true })]
    pages := (List.range 4).map (fun k => (k, { kind := .local, r := true, w := true, a := true, frame := k })) }

/-- As `sGB`, with memory. -/
def sM (g : Group) (b : Block) : State := { sGB g b with mem := mem0 }

/-- Core 0 of a state changed. -/
def onCore (s : State) (f : Exec → Exec) : State := modExec s 0 f

theorem homed_of {s : State} {pa : Nat}
    (h : (match homeSlice s pa with | some (r, _, _) => (sideOf (regionOf s r) pa).isNone | none => false) = true) :
    Homed s pa := by
  unfold Homed
  cases hs : homeSlice s pa with
  | none => simp [hs] at h
  | some x => obtain ⟨r, st, tg⟩ := x; simp only [hs, Option.isNone_iff_eq_none] at h; exact ⟨r, st, tg, rfl, h⟩

/-- Lane 2 alone, with addresses and values in its registers. -/
def g1 : Group := { launch := 4, paths := [{ lanes := 4, pc := 0 }],
                    regs := [(2, 1016), (34, 0xDEADBEEF), (66, 0x12345678), (98, 0x10080)] }
/-- A block with bytes in its shared local memory. -/
def b1 : Block := { b3 with slm := [(1016, 1), (1017, 2), (1023, 3)] }

/-- A request's bytes: opcode, TENANT, sequence number 1, payload. -/
def rqMsg (op tenant : Nat) (pay : List Byte) : List Byte :=
  leBytes 2 op ++ leBytes 2 pay.length ++ leBytes 2 tenant ++ leBytes 2 0 ++ leBytes 4 1 ++ leBytes 4 0 ++ List.replicate 16 0 ++ pay

/-- The request stands in the mailbox of a function. -/
def asks (s : State) (f op tenant : Nat) (pay : List Byte) : State :=
  { s with mgmt.mboxes := [(f, { req := rqMsg op tenant pay, reqPending := true })] }

/-- The request of a mailbox. -/
def rqOf (s : State) (f : Nat) : Req := reqOf f (mboxMsg s f)

/-- The state in which a checked request is carried out. -/
def carried (s : State) (f : Nat) : State := (checkReq (Taken s f) (rqOf s f)).2

/-- The conditions of `Due` that a program can test, for a mailbox that is not the board path. -/
def isDue (s : State) (f op : Nat) : Bool :=
  s.mgmt.retry == none && dueMbox s == some f && f != boardFn && (rqOf s f).op == op && fieldAt (rqOf s f).msg 8 4 == nextSeqNo (mboxOf s f).l

theorem due_of {s : State} {f op : Nat} (h : isDue s f op = true) : Due s f op (rqOf s f) := by
  simp only [isDue, Bool.and_eq_true, beq_iff_eq, bne_iff_ne, ne_eq] at h
  exact ⟨h.1.1.1.1, h.1.1.1.2, fun hb => absurd hb h.1.1.2, rfl, h.1.2, h.2⟩

theorem carries_of {s : State} {f op : Nat} (h : (isDue s f op && (checkReq (Taken s f) (rqOf s f)).1.isNone) = true) :
    Carries s f op (rqOf s f) (carried s f) := by
  simp only [Bool.and_eq_true, Option.isNone_iff_eq_none] at h
  exact ⟨due_of h.1, Prod.ext h.2 rfl⟩

namespace W01
def s01 : State := { run0 with pending := [.leakDetect, .limiterTrip], mem := { mem0 with mem := [(4, 9)] }, host.mem := [(7, 1)] }
def off01 : State := State.reset
def d3 : State := { run0 with fns := [(0, { pcie.d3hot := true })] }
/-- The hypotheses of `Obligations.IdleStepIsOneTick` can be met. -/
theorem witness_IdleStepIsOneTick :
    ∃ s : State, (s.pending = []) := by
  exact ⟨run0, by decide +kernel⟩

/-- The hypotheses of `Obligations.StepKeepsPartAndWaitingCommands` can be met. -/
theorem witness_StepKeepsPartAndWaitingCommands :
    (∃ s : State, ∃ t : State, (step s = .next t)) ∧
    (∃ s : State, ∃ t : State, (step s = .next t)) ∧
    (∃ s : State, ∃ t : State, ((∀ c ∈ s.pending, c.wf = true)) ∧ ((step s = .next t))) := by
  refine ⟨?_, ?_, ?_⟩
  · exact ⟨s01, nxt (step s01), nxt_of (by decide +kernel)⟩
  · exact ⟨s01, nxt (step s01), nxt_of (by decide +kernel)⟩
  · exact ⟨s01, nxt (step s01), by decide +kernel, nxt_of (by decide +kernel)⟩

/-- The hypotheses of `Obligations.StepKeepsMemoryCanonical` can be met. -/
theorem witness_StepKeepsMemoryCanonical :
    ∃ s : State, ∃ t : State, (s.memOk) ∧ ((step s = .next t)) := by
  exact ⟨s01, nxt (step s01), by unfold State.memOk; decide +kernel, nxt_of (by decide +kernel)⟩

/-- The hypotheses of `Obligations.OnlyEarlyBarAccessStops` can be met. -/
theorem witness_OnlyEarlyBarAccessStops :
    (∃ c : Instr, ∃ f : Nat, ∃ s : State, (hostFn c = some f) ∧ ((s.pm.ready = false))) ∧
    (∃ c : Instr, ∃ f : Nat, ∃ s : State, (hostFn c = some f) ∧ ((s.pm.ready = true) ∧ (((fnLive s f = false ∨ (fnOf s f).pcie.d3hot = true))))) ∧
    (∃ c : Instr, ∃ s : State, ((hostFn c = none ∨ s.pm.ready = true))) := by
  refine ⟨?_, ?_, ?_⟩
  · refine ⟨.msixUnmask 0 3, 0, off01, ?_, ?_⟩ <;> decide +kernel
  · refine ⟨.msixUnmask 0 3, 0, d3, ?_, ?_, ?_⟩ <;> decide +kernel
  · exact ⟨.leakDetect, off01, by decide +kernel⟩

end W01

namespace W02
/-- Values in %v 0 to 2 of three lanes. -/
def gVals : Group := { g3 with
  regs := [(0, 1), (1, 0x7FFFFFFF), (2, 0x3F800000), (32, 32), (33, 0xFFFFFFFF), (34, 0x40000000), (64, 5), (65, 6), (66, 7)] }

def sVals : State := sGB gVals b3
/-- The hypotheses of `Obligations.LaneInstructionsCompleteWithTheirResults` can be met. -/
theorem witness_LaneInstructionsCompleteWithTheirResults :
    ∃ ins : Instr, ∃ m : LaneSem, ∃ s : State, ∃ c : Ctx, (laneSem ins = some m) ∧ ((Issues s m.i c (vRegs false m.d) [m.a, m.b, m.c] [])) := by
  exact ⟨.shl i0 (.v 5) (.v 0) (.v 1), ⟨i0, .v 5, .v 0, .v 1, .none, fun x y _ => if y.toNat < 32 then x <<< y.toNat else Config.wideShift x y⟩, sVals, ctxOf sVals i0, rfl, issues_of (by decide +kernel)⟩

/-- The hypotheses of `Obligations.LaneInstructionsLeaveEverythingElse` can be met. -/
theorem witness_LaneInstructionsLeaveEverythingElse :
    (∃ ins : Instr, ∃ m : LaneSem, ∃ s : State, ∃ t : State, ∃ c : Ctx, (laneSem ins = some m) ∧ ((Issues s m.i c (vRegs false m.d) [m.a, m.b, m.c] []) ∧ ((exec ins s = .next t) ∧ (∃ n, ∃ l, (l < 32) ∧ (((m.d ≠ .v n ∨ l ∉ c.act))))))) ∧
    (∃ ins : Instr, ∃ m : LaneSem, ∃ s : State, ∃ t : State, ∃ c : Ctx, (laneSem ins = some m) ∧ ((Issues s m.i c (vRegs false m.d) [m.a, m.b, m.c] []) ∧ ((exec ins s = .next t) ∧ (∃ n, ∃ l, (l < 32) ∧ (((m.d ≠ .p n ∨ l ∉ c.act))))))) ∧
    (∃ ins : Instr, ∃ m : LaneSem, ∃ s : State, ∃ t : State, ∃ c : Ctx, (laneSem ins = some m) ∧ ((Issues s m.i c (vRegs false m.d) [m.a, m.b, m.c] []) ∧ ((exec ins s = .next t) ∧ (∃ n, (m.d ≠ .u n))))) := by
  refine ⟨?_, ?_, ?_⟩
  · refine ⟨.xor i0 (.v 5) (.v 0) (.v 0), ⟨i0, .v 5, .v 0, .v 0, .none, fun x y _ => x ^^^ y⟩, sVals, nxt (exec (.xor i0 (.v 5) (.v 0) (.v 0)) sVals), ctxOf sVals i0, rfl, issues_of (by decide +kernel), nxt_of (by decide +kernel), 5, 31, ?_, ?_⟩ <;> decide +kernel
  · refine ⟨.xor i0 (.v 5) (.v 0) (.v 0), ⟨i0, .v 5, .v 0, .v 0, .none, fun x y _ => x ^^^ y⟩, sVals, nxt (exec (.xor i0 (.v 5) (.v 0) (.v 0)) sVals), ctxOf sVals i0, rfl, issues_of (by decide +kernel), nxt_of (by decide +kernel), 2, 0, ?_, ?_⟩ <;> decide +kernel
  · exact ⟨.xor i0 (.u 5) (.v 0) (.v 0), ⟨i0, .u 5, .v 0, .v 0, .none, fun x y _ => x ^^^ y⟩, sVals, nxt (exec (.xor i0 (.u 5) (.v 0) (.v 0)) sVals), ctxOf sVals i0, rfl, issues_of (by decide +kernel), nxt_of (by decide +kernel), 4, by decide +kernel⟩

/-- The hypotheses of `Obligations.WideLaneInstructionsComplete` can be met. -/
theorem witness_WideLaneInstructionsComplete :
    (∃ i : Iss, ∃ dty : CvtTy, ∃ sty : CvtTy, ∃ d : Opd, ∃ a : Opd, ∃ s : State, ∃ c : Ctx, (((dty = .f64 ∨ sty = .f64) → s.units.testBit 2 = true)) ∧ ((Issues s i c (vRegs (cvtIsWide dty) d) (if cvtIsWide sty then [] else [a]) (if cvtIsWide sty then [a] else [])))) ∧
    (∃ i : Iss, ∃ d : Opd, ∃ z : Special, ∃ s : State, ∃ c : Ctx, (Issues s i c (vRegs (specialWide z) d) [] [])) ∧
    (∃ i : Iss, ∃ d : Opd, ∃ a : Opd, ∃ b : Opd, ∃ e : Opd, ∃ s : State, ∃ c : Ctx, (s.units.testBit 2 = true) ∧ ((Issues s i c (vRegs true d) [] [a, b, e]))) := by
  refine ⟨?_, ?_, ?_⟩
  · exact ⟨i0, .f64, .f32, .v 6, .v 2, { sVals with units := 4 }, ctxOf { sVals with units := 4 } i0, by decide +kernel, issues_of (by decide +kernel)⟩
  · exact ⟨i0, .v 30, .vrefRd 15, sVals, ctxOf sVals i0, issues_of (by decide +kernel)⟩
  · exact ⟨i0, .v 30, .v 0, .v 0, .imm 0x3FF0000000000000, { sVals with units := 4 }, ctxOf { sVals with units := 4 } i0, by decide +kernel, issues_of (by decide +kernel)⟩

/-- The hypotheses of `Obligations.Fp64WithoutLanesEndsTheTask` can be met. -/
theorem witness_Fp64WithoutLanesEndsTheTask :
    ∃ ins : Instr, ∃ i : Iss, ∃ s : State, ∃ c : Ctx, ∃ n : Node, (s.units.testBit 2 = false) ∧ ((issue s i = some c) ∧ ((((∃ op r d a b e, ins = .f64Op i op r d a b e) ∨ (∃ dty sty r sm d a, (dty = .f64 ∨ sty = .f64) ∧ ins = .cvt i dty sty r sm d a) ∨ (∃ op, (op.sFmt = 14 ∨ op.tFmt = 14) ∧ ins = .mma i op))) ∧ ((alFind s.fe.nodes c.b.task.node = some n) ∧ ((n.fail = none))))) := by
  refine ⟨.f64Op i0 .add .rne (.v 30) (.v 0) (.v 0) .none, i0, { sVals with fe.nodes := [(0, n0)] }, ctxOf { sVals with fe.nodes := [(0, n0)] } i0, n0, ?_, rfl, Or.inl ⟨_, _, _, _, _, _, rfl⟩, by decide +kernel, ?_⟩ <;> decide +kernel

end W02

namespace W03
def gVals : Group := { g3 with
  regs := [(0, 1), (1, 0x7FFFFFFF), (2, 0x3F800000), (32, 32), (33, 0xFFFFFFFF), (34, 0x40000000), (64, 5), (65, 6), (66, 7)],
  preds := [(0, true)] }
def sVals : State := sGB gVals b3
/-- The group's lanes have split: lanes 0 and 1 stand at 0, lane 2 at 64. -/
def gSplit : Group := { g3 with regs := [(0, 0), (1, 3), (2, 0)], paths := [{ lanes := 3, pc := 0 }, { lanes := 4, pc := 64 }] }
def sSplit : State := { sGB gSplit b3 with fe.nodes := [(0, n0)] }
/-- Four open loops in lane 0, one in lane 1. -/
def gLoops : Group := { gVals with loops := [(0, List.replicate 4 ⟨16, 2, 96⟩), (1, [⟨16, 0, 96⟩])] }
def sLoops : State := { sGB gLoops b3 with fe.nodes := [(0, n0)] }
/-- The hypotheses of `Obligations.CollectivesCompleteOrDiverge` can be met. -/
theorem witness_CollectivesCompleteOrDiverge :
    (∃ ins : Instr, ∃ m : GredSem, ∃ s : State, ∃ c : Ctx, (gredSem ins = some m) ∧ ((Issues s m.i c (vRegs false m.d) [m.a] []) ∧ (((m.part = true ∨ laneMask c.act = c.g.launch))))) ∧
    (∃ i : Iss, ∃ part : Bool, ∃ d : Opd, ∃ a : Opd, ∃ b : Opd, ∃ s : State, ∃ c : Ctx, (Issues s i c (vRegs false d) [a, b] []) ∧ (((part = true ∨ laneMask c.act = c.g.launch)))) ∧
    (∃ ins : Instr, ∃ m : GredSem, ∃ s : State, ∃ c : Ctx, (gredSem ins = some m) ∧ ((m.part = false) ∧ ((Issues s m.i c (vRegs false m.d) [m.a] []) ∧ ((laneMask c.act ≠ c.g.launch))))) ∧
    (∃ i : Iss, ∃ d : Opd, ∃ a : Opd, ∃ b : Opd, ∃ s : State, ∃ c : Ctx, (Issues s i c (vRegs false d) [a, b] []) ∧ ((laneMask c.act ≠ c.g.launch))) := by
  refine ⟨?_, ?_, ?_, ?_⟩
  · exact ⟨.gredMin i0 .s32 true true (.v 5) (.v 0), ⟨i0, .v 5, .v 0, true, true, fun xs => xs.foldl (fun x y => if x.toInt < y.toInt then x else y) 0x7FFFFFFF⟩, sVals, ctxOf sVals i0, rfl, issues_of (by decide +kernel), by decide +kernel⟩
  · exact ⟨i0, false, .v 5, .v 0, .v 1, sVals, ctxOf sVals i0, issues_of (by decide +kernel), by decide +kernel⟩
  · refine ⟨.gredOr i0 false false (.v 5) (.v 0), ⟨i0, .v 5, .v 0, false, false, fun xs => xs.foldl (fun x y => x ||| y) 0⟩, sSplit, ctxOf sSplit i0, rfl, ?_, issues_of (by decide +kernel), ?_⟩ <;> decide +kernel
  · exact ⟨i0, .v 5, .v 0, .imm 31, sSplit, ctxOf sSplit i0, issues_of (by decide +kernel), by decide +kernel⟩

/-- The hypotheses of `Obligations.ControlFlowSendsEachLane` can be met. -/
theorem witness_ControlFlowSendsEachLane :
    (∃ i : Iss, ∃ p : Option (Bool × Nat), ∃ s : State, ∃ c : Ctx, (Issues s i c [] (match p with | some (_, n) => [.p n] | none => []) [])) ∧
    (∃ i : Iss, ∃ s : State, ∃ c : Ctx, (Issues s i c [] [] [])) ∧
    (∃ i : Iss, ∃ s : State, ∃ c : Ctx, (Issues s i c [] [] [])) := by
  refine ⟨?_, ?_, ?_⟩
  · exact ⟨i0, some (true, 0), sVals, ctxOf sVals i0, issues_of (by decide +kernel)⟩
  · exact ⟨i0, sVals, ctxOf sVals i0, issues_of (by decide +kernel)⟩
  · exact ⟨i0, sGB { gVals with calls := [(0, [320, 16]), (2, [640])] } b3, ctxOf (sGB { gVals with calls := [(0, [320, 16]), (2, [640])] } b3) i0, issues_of (by decide +kernel)⟩

/-- The hypotheses of `Obligations.LoopsRunTheirCount` can be met. -/
theorem witness_LoopsRunTheirCount :
    (∃ i : Iss, ∃ count : Opd, ∃ s : State, ∃ c : Ctx, (Issues s i c [] [count] []) ∧ (((∀ l ∈ c.act, (loopsOf c.g l).length < 4)))) ∧
    (∃ i : Iss, ∃ s : State, ∃ c : Ctx, (Issues s i c [] [] [])) ∧
    (∃ i : Iss, ∃ s : State, ∃ c : Ctx, (Issues s i c [] [] [])) ∧
    (∃ i : Iss, ∃ count : Opd, ∃ s : State, ∃ c : Ctx, (Issues s i c [] [count] []) ∧ (((∃ l ∈ c.act, 4 ≤ (loopsOf c.g l).length)))) := by
  refine ⟨?_, ?_, ?_, ?_⟩
  · exact ⟨i0, .v 0, sGB { gSplit with loops := [(1, List.replicate 3 ⟨16, 2, 96⟩)] } b3, ctxOf (sGB { gSplit with loops := [(1, List.replicate 3 ⟨16, 2, 96⟩)] } b3) i0, issues_of (by decide +kernel), by decide +kernel⟩
  · exact ⟨i0, sLoops, ctxOf sLoops i0, issues_of (by decide +kernel)⟩
  · exact ⟨i0, sLoops, ctxOf sLoops i0, issues_of (by decide +kernel)⟩
  · exact ⟨i0, .imm 1, sLoops, ctxOf sLoops i0, issues_of (by decide +kernel), by decide +kernel⟩

/-- The hypotheses of `Obligations.ExitAndRotationComplete` can be met. -/
theorem witness_ExitAndRotationComplete :
    (∃ i : Iss, ∃ s : State, ∃ c : Ctx, (Issues s i c [] [] []) ∧ ((c.act ≠ []) ∧ ((mayFault c.x c.slot s.seqNo = false) ∧ ((threadsLeft c (restLanes c c.act) = []))))) ∧
    (∃ i : Iss, ∃ s : State, ∃ c : Ctx, (Issues s i c [] [] []) ∧ ((c.act ≠ []) ∧ ((mayFault c.x c.slot s.seqNo = false) ∧ ((threadsLeft c (restLanes c c.act) ≠ []))))) ∧
    (∃ i : Iss, ∃ s : State, ∃ c : Ctx, (Issues s i c [] [] [])) ∧
    (∃ core : Nat, ∃ slot : Nat, ∃ s : State, ∃ g : Group, (alFind (execOf s core).groups slot = some g)) ∧
    (∃ i : Iss, ∃ s : State, ∃ c : Ctx, (Issues s i c [] [] []) ∧ ((c.act = []))) := by
  refine ⟨?_, ?_, ?_, ?_, ?_⟩
  · refine ⟨i0, { sVals with fe.nodes := [(0, n0)] }, ctxOf { sVals with fe.nodes := [(0, n0)] } i0, issues_of (by decide +kernel), ?_, ?_, ?_⟩ <;> decide +kernel
  · refine ⟨{ i0 with guarded := true, guard := 0 }, sVals, ctxOf sVals { i0 with guarded := true, guard := 0 }, issues_of (by decide +kernel), ?_, ?_, ?_⟩ <;> decide +kernel
  · exact ⟨i0, sSplit, ctxOf sSplit i0, issues_of (by decide +kernel)⟩
  · exact ⟨0, 0, sGB { gSplit with branches := 64 } b3, { gSplit with branches := 64 }, by decide +kernel⟩
  · exact ⟨{ i0 with guarded := true, guard := 1 }, sVals, ctxOf sVals { i0 with guarded := true, guard := 1 }, issues_of (by decide +kernel), by decide +kernel⟩

/-- The hypotheses of `Obligations.BarriersCountArrivals` can be met. -/
theorem witness_BarriersCountArrivals :
    (∃ i : Iss, ∃ id : ImmU, ∃ count : Option Opd, ∃ s : State, ∃ c : Ctx, (Issues s i c [] (match count with | some q => [q] | none => []) []) ∧ ((c.act ≠ []) ∧ ((arriveReady c = true) ∧ ((GoodArrival c (immU c id) count))))) ∧
    (∃ i : Iss, ∃ id : ImmU, ∃ d : Opd, ∃ count : Option Opd, ∃ s : State, ∃ c : Ctx, (Issues s i c (vRegs false d) (match count with | some q => [q] | none => []) []) ∧ ((c.act ≠ []) ∧ ((arriveReady c = true) ∧ ((GoodArrival c (immU c id) count))))) ∧
    (∃ i : Iss, ∃ id : ImmU, ∃ a : Opd, ∃ s : State, ∃ c : Ctx, (Issues s i c [] [a] []) ∧ ((c.act ≠ []) ∧ ((barReady c = true) ∧ ((immU c id < 4))))) ∧
    (∃ i : Iss, ∃ count : Option Opd, ∃ s : State, ∃ c : Ctx, (Issues s i c [] (match count with | some q => [q] | none => []) []) ∧ ((c.act = []))) ∧
    (∃ i : Iss, ∃ d : Opd, ∃ count : Option Opd, ∃ s : State, ∃ c : Ctx, (Issues s i c (vRegs false d) (match count with | some q => [q] | none => []) []) ∧ ((c.act = []))) ∧
    (∃ i : Iss, ∃ a : Opd, ∃ s : State, ∃ c : Ctx, (Issues s i c [] [a] []) ∧ ((c.act = []))) ∧
    (∃ i : Iss, ∃ id : ImmU, ∃ count : Option Opd, ∃ s : State, ∃ c : Ctx, (arriveReady c = true) ∧ ((c.act ≠ []) ∧ ((¬ GoodArrival c (immU c id) count) ∧ ((Issues s i c [] (match count with | some q => [q] | none => []) []))))) ∧
    (∃ i : Iss, ∃ id : ImmU, ∃ d : Opd, ∃ count : Option Opd, ∃ s : State, ∃ c : Ctx, (arriveReady c = true) ∧ ((c.act ≠ []) ∧ ((¬ GoodArrival c (immU c id) count) ∧ ((Issues s i c (vRegs false d) (match count with | some q => [q] | none => []) []))))) ∧
    (∃ i : Iss, ∃ id : ImmU, ∃ a : Opd, ∃ s : State, ∃ c : Ctx, (Issues s i c [] [a] []) ∧ ((c.act ≠ []) ∧ ((barReady c = true) ∧ ((3 < immU c id))))) := by
  refine ⟨?_, ?_, ?_, ?_, ?_, ?_, ?_, ?_, ?_⟩
  · refine ⟨i0, .imm 3, some (.imm 4), sGB g3 { b3 with threads := 4 }, ctxOf (sGB g3 { b3 with threads := 4 }) i0, issues_of (by decide +kernel), ?_, ?_, by unfold GoodArrival; decide +kernel⟩ <;> decide +kernel
  · refine ⟨i0, .imm 0, .v 7, none, sVals, ctxOf sVals i0, issues_of (by decide +kernel), ?_, by decide +kernel, by unfold GoodArrival; decide +kernel⟩ <;> decide +kernel
  · refine ⟨i0, .imm 3, .v 0, sVals, ctxOf sVals i0, issues_of (by decide +kernel), ?_, ?_, by decide +kernel⟩ <;> decide +kernel
  · exact ⟨{ i0 with guarded := true, guard := 1 }, none, sVals, ctxOf sVals { i0 with guarded := true, guard := 1 }, issues_of (by decide +kernel), by decide +kernel⟩
  · exact ⟨{ i0 with guarded := true, guard := 1 }, .v 3, none, sVals, ctxOf sVals { i0 with guarded := true, guard := 1 }, issues_of (by decide +kernel), by decide +kernel⟩
  · exact ⟨{ i0 with guarded := true, guard := 1 }, .v 0, sVals, ctxOf sVals { i0 with guarded := true, guard := 1 }, issues_of (by decide +kernel), by decide +kernel⟩
  · refine ⟨i0, .imm 4, none, { sVals with fe.nodes := [(0, n0)] }, ctxOf { sVals with fe.nodes := [(0, n0)] } i0, ?_, ?_, fun h => absurd h.1 (by decide), issues_of (by decide +kernel)⟩ <;> decide +kernel
  · refine ⟨i0, .imm 3, .v 3, some (.imm 4), { sVals with fe.nodes := [(0, n0)] }, ctxOf { sVals with fe.nodes := [(0, n0)] } i0, ?_, ?_, by unfold GoodArrival; decide +kernel, issues_of (by decide +kernel)⟩ <;> decide +kernel
  · refine ⟨i0, .imm 4, .v 0, { sVals with fe.nodes := [(0, n0)] }, ctxOf { sVals with fe.nodes := [(0, n0)] } i0, issues_of (by decide +kernel), ?_, ?_, by decide +kernel⟩ <;> decide +kernel

end W03

namespace W04
def qs : MemQ := { size := 3, slm := true, hint := .plain, scope := .group, order := .none, op := .add }
def qd : MemQ := { size := 3, slm := false, hint := .plain, scope := .group, order := .none, op := .cas }
def sS : State := { sGB g1 b1 with fe.nodes := [(0, n0)] }
def sD : State := { sM g1 b1 with fe.nodes := [(0, n0)] }
/-- Line 0x10080 in the L1, and newer bytes of it in the write buffer. -/
def sHit : State := onCore sD (fun x => { x with
  l1 := [(2389, { target := .loc 0x10080, data := 0x1122334455667788, age := 1, stream := false, stamp := 0 })]
  wb := [{ id := 3, target := .loc 0x10080, tenant := 0, part := 0, mask := 0xF0, data := 0xAABBCCDD00000000 }] })
def sl : SliceLine :=
  { tag := 0, data := 0xFF00, age := 1, dirty := false, keep := false, part := 0, poison := 0, pa := 0x10080 }
def hs (s : State) (pa : Nat) : Nat × Nat × Nat := (homeSlice s pa).getD (0, 0, 0)
/-- Line 0x10080 in its slice. -/
def sSl : State := { sD with regions := [(0, { lines := [((hs sD 0x10080).2.1 * 16 + 3, { sl with tag := (hs sD 0x10080).2.2 })] })] }
def ld0 : Load :=
  { id := 8, slot := 0, pc := 16, dst := 4, size := 16, hint := .plain, target := .loc 0x10080, tenant := 0, part := 0,
    lanes := [{ lane := 2, off := 0, n := 16, pos := 112 }], got := some (0x77 <<< 896, 0, 0), fwdMask := 1 <<< 112, fwd := 0x99 <<< 896 }
def sLoad : State := onCore sD (fun x => { x with loads := [ld0] })
def wb0 : WbEntry := { id := 3, target := .loc 0x10080, tenant := 0, part := 0, mask := 0xF0, data := 0xAABBCCDD00000000 }
def sWb : State := onCore sSl (fun x => { x with wb := [wb0] })
def at0 : Atomic :=
  { id := 9, slot := 0, pc := 16, dst := some 4, size := 8, op := .add, order := .none, scope := .device, target := .loc 0x10080, tenant := 0,
    part := 0, lanes := [{ lane := 2, pos := 120, b := 5, c := 0 }] }
def sAt : State := onCore sSl (fun x => { x with atoms := [at0] })
def fw : FenceWait := { id := 4, slot := 0, lanes := 4, kind := .full, scope := .system, covers := [3], loads := [], atoms := [] }
def sFw : State := onCore (sGB { g1 with paths := [{ lanes := 4, pc := 16, stall := .fence 4 }] } b1) (fun x => { x with
  fences := [fw]
  l1 := [(2389, { target := .loc 0x10080, data := 1, age := 1, stream := false, stamp := 0 })] })
/-- The hypotheses of `Obligations.SharedLocalMemoryCompletes` can be met. -/
theorem witness_SharedLocalMemoryCompletes :
    (∃ i : Iss, ∃ q : MemQ, ∃ d : Nat, ∃ a : Opd, ∃ s : State, ∃ c : Ctx, (q.slm = true) ∧ ((q.size ≤ 4) ∧ ((Issues s i c ((spanOpds (.v d) (accBytes q)).flatMap (vRegs false)) [a] []) ∧ ((mmaClash c.x c.slot true (c.act.map (fun l => (addrOf c q a l, accBytes q))) = false) ∧ ((slmFault c q a = none) ∧ ((c.act.any (fun l => slmBad c.b (addrOf c q a l) (accBytes q)) = false))))))) ∧
    (∃ i : Iss, ∃ q : MemQ, ∃ a : Opd, ∃ b : Opd, ∃ s : State, ∃ c : Ctx, (q.slm = true) ∧ ((q.size ≤ 4) ∧ ((Issues s i c [] ([a] ++ spanOpds b (accBytes q)) []) ∧ ((mmaClash c.x c.slot true (c.act.map (fun l => (addrOf c q a l, accBytes q))) = false) ∧ ((readAhead c.x c.slot true (c.act.map (fun l => (addrOf c q a l, accBytes q))) = false) ∧ ((slmFault c q a = none) ∧ (((∀ l ∈ c.act, (opdBytes c b (accBytes q) l).length = accBytes q))))))))) ∧
    (∃ i : Iss, ∃ q : MemQ, ∃ d : Nat, ∃ a : Opd, ∃ b : Opd, ∃ e : Opd, ∃ s : State, ∃ c : Ctx, ∃ l : Nat, (q.slm = true) ∧ ((q.size ≤ 3) ∧ ((q.order = .none) ∧ ((c.act = [l]) ∧ ((Issues s i c ((spanOpds (.v d) (accBytes q)).flatMap (vRegs false)) ([a] ++ spanOpds b (min 8 (accBytes q)) ++ spanOpds e (min 8 (accBytes q))) []) ∧ ((mmaClash c.x c.slot true [(addrOf c q a l, accBytes q)] = false) ∧ ((readAhead c.x c.slot true [(addrOf c q a l, accBytes q)] = false) ∧ ((slmFault c q a = none) ∧ ((slmBad c.b (addrOf c q a l) (accBytes q) = false)))))))))) := by
  refine ⟨?_, ?_, ?_⟩
  · refine ⟨i0, qs, 10, .v 0, sS, ctxOf sS i0, ?_, ?_, issues_of (by decide +kernel), ?_, ?_, ?_⟩ <;> decide +kernel
  · refine ⟨i0, qs, .v 0, .v 1, sS, ctxOf sS i0, ?_, ?_, issues_of (by decide +kernel), ?_, ?_, ?_, ?_⟩ <;> decide +kernel
  · refine ⟨i0, qs, 10, .v 0, .v 1, .none, sS, ctxOf sS i0, 2, ?_, ?_, ?_, ?_, issues_of (by decide +kernel), ?_, ?_, ?_, by decide +kernel⟩ <;> decide +kernel

/-- The hypotheses of `Obligations.DeviceAccessesIssue` can be met. -/
theorem witness_DeviceAccessesIssue :
    (∃ i : Iss, ∃ q : MemQ, ∃ a : Opd, ∃ s : State, ∃ c : Ctx, ∃ l : Nat, ∃ pa : Nat, ∃ off : Nat, (q.slm = false) ∧ ((q.size ≤ 4) ∧ ((q.hint = .plain) ∧ ((c.act = [l]) ∧ ((pa % 128 = 0) ∧ ((off + accBytes q ≤ 128) ∧ ((mmaClash c.x c.slot false [(addrOf c q a l, accBytes q)] = false) ∧ ((addrOf c q a l % accBytes q = 0) ∧ ((addrOf c q a l % 128 = off) ∧ (∃ d, ∃ line, ∃ k, (Issues s i c ((spanOpds (.v d) (accBytes q)).flatMap (vRegs false)) [] [a]) ∧ ((translate s c.b.task.tenant (addrOf c q a l) .r = some (.loc (pa + off))) ∧ ((atomBusy c.x [{ lane := l, off := 0, n := accBytes q, t := .loc (pa + off) }] = false) ∧ ((l1Find c.x (.loc pa) = some (k, line)) ∧ ((line.poison = 0) ∧ ((c.x.loads.any (fun m => m.target == .loc pa) = false) ∧ (((∀ e ∈ c.x.wb, e.poison = false)))))))))))))))))) ∧
    (∃ i : Iss, ∃ q : MemQ, ∃ a : Opd, ∃ s : State, ∃ c : Ctx, ∃ l : Nat, ∃ pa : Nat, ∃ off : Nat, (q.slm = false) ∧ ((q.size ≤ 4) ∧ ((q.hint = .plain) ∧ ((c.act = [l]) ∧ ((pa % 128 = 0) ∧ ((off + accBytes q ≤ 128) ∧ ((mmaClash c.x c.slot false [(addrOf c q a l, accBytes q)] = false) ∧ ((addrOf c q a l % accBytes q = 0) ∧ ((addrOf c q a l % 128 = off) ∧ (∃ d, (Issues s i c ((spanOpds (.v d) (accBytes q)).flatMap (vRegs false)) [] [a]) ∧ ((translate s c.b.task.tenant (addrOf c q a l) .r = some (.loc (pa + off))) ∧ ((atomBusy c.x [{ lane := l, off := 0, n := accBytes q, t := .loc (pa + off) }] = false) ∧ ((l1Find c.x (.loc pa) = none) ∧ (((∀ e ∈ c.x.wb, e.poison = false)))))))))))))))) ∧
    (∃ i : Iss, ∃ q : MemQ, ∃ a : Opd, ∃ s : State, ∃ c : Ctx, ∃ l : Nat, ∃ pa : Nat, ∃ off : Nat, (q.slm = false) ∧ ((q.size ≤ 4) ∧ ((q.hint = .plain) ∧ ((c.act = [l]) ∧ ((pa % 128 = 0) ∧ ((off + accBytes q ≤ 128) ∧ ((mmaClash c.x c.slot false [(addrOf c q a l, accBytes q)] = false) ∧ ((addrOf c q a l % accBytes q = 0) ∧ ((addrOf c q a l % 128 = off) ∧ (∃ b, (Issues s i c [] (spanOpds b (accBytes q)) [a]) ∧ ((translate s c.b.task.tenant (addrOf c q a l) .w = some (.loc (pa + off))) ∧ ((c.x.wb.length < 32) ∧ ((c.x.atoms.any (fun m => m.target.line == .loc pa) = false) ∧ (((opdBytes c b (accBytes q) l).length = accBytes q) ∧ ((readAhead c.x c.slot false [(addrOf c q a l, accBytes q)] = false)))))))))))))))) ∧
    (∃ i : Iss, ∃ q : MemQ, ∃ a : Opd, ∃ s : State, ∃ c : Ctx, ∃ l : Nat, ∃ pa : Nat, ∃ off : Nat, (q.slm = false) ∧ ((q.size ≤ 4) ∧ ((q.hint = .plain) ∧ ((c.act = [l]) ∧ ((pa % 128 = 0) ∧ ((off + accBytes q ≤ 128) ∧ ((mmaClash c.x c.slot false [(addrOf c q a l, accBytes q)] = false) ∧ ((addrOf c q a l % accBytes q = 0) ∧ ((addrOf c q a l % 128 = off) ∧ (∃ d, ∃ b, ∃ e, (Issues s i c ((spanOpds d (accBytes q)).flatMap (vRegs false)) (spanOpds b (min 8 (accBytes q)) ++ spanOpds e (min 8 (accBytes q))) [a]) ∧ ((translate s c.b.task.tenant (addrOf c q a l) .a = some (.loc (pa + off))) ∧ ((q.order = .none) ∧ ((readAhead c.x c.slot false [(addrOf c q a l, accBytes q)] = false)))))))))))))) := by
  refine ⟨?_, ?_, ?_, ?_⟩
  · refine ⟨i0, qd, .imm 0x100F8, sHit, ctxOf sHit i0, 2, 0x10080, 120, by decide +kernel, ?_, ?_, ?_, ?_, ?_, ?_, ?_, ?_, 10, { target := .loc 0x10080, data := 0x1122334455667788, age := 1, stream := false, stamp := 0 }, 2389, issues_of (by decide +kernel), ?_, ?_, ?_, ?_, ?_, by decide +kernel⟩ <;> decide +kernel
  · refine ⟨i0, qd, .imm 0x10088, sD, ctxOf sD i0, 2, 0x10080, 8, by decide +kernel, ?_, ?_, ?_, ?_, ?_, ?_, ?_, ?_, 10, issues_of (by decide +kernel), ?_, ?_, ?_, ?_⟩ <;> decide +kernel
  · refine ⟨i0, qd, .imm 0x100F8, sHit, ctxOf sHit i0, 2, 0x10080, 120, by decide +kernel, ?_, ?_, ?_, ?_, ?_, ?_, ?_, ?_, .v 1, issues_of (by decide +kernel), ?_, ?_, ?_, ?_, ?_⟩ <;> decide +kernel
  · refine ⟨i0, qd, .imm 0x10080, sHit, ctxOf sHit i0, 2, 0x10080, 0, by decide +kernel, ?_, ?_, ?_, ?_, ?_, ?_, ?_, ?_, .v 8, .v 1, .v 1, issues_of (by decide +kernel), ?_, ?_, ?_⟩ <;> decide +kernel

/-- The hypotheses of `Obligations.MemoryAccessesFault` can be met. -/
theorem witness_MemoryAccessesFault :
    (∃ i : Iss, ∃ q : MemQ, ∃ d : Opd, ∃ a : Opd, ∃ s : State, ∃ c : Ctx, ∃ f : DevFault, (q.slm = true) ∧ ((mmaClash c.x c.slot true (c.act.map (fun l => (addrOf c q a l, accBytes q))) = false) ∧ ((((∃ l ∈ c.act, addrOf c q a l % accBytes q ≠ 0) ∧ f = .slmAlign ∨ (∀ l ∈ c.act, addrOf c q a l % accBytes q = 0) ∧ (∃ l ∈ c.act, c.b.task.slmKib * 1024 < addrOf c q a l + accBytes q) ∧ f = .slmRange)) ∧ ((Issues s i c ((spanOpds d (accBytes q)).flatMap (vRegs false)) [a] []))))) ∧
    (∃ i : Iss, ∃ q : MemQ, ∃ a : Opd, ∃ b : Opd, ∃ s : State, ∃ c : Ctx, ∃ f : DevFault, (q.slm = true) ∧ ((mmaClash c.x c.slot true (c.act.map (fun l => (addrOf c q a l, accBytes q))) = false) ∧ ((((∃ l ∈ c.act, addrOf c q a l % accBytes q ≠ 0) ∧ f = .slmAlign ∨ (∀ l ∈ c.act, addrOf c q a l % accBytes q = 0) ∧ (∃ l ∈ c.act, c.b.task.slmKib * 1024 < addrOf c q a l + accBytes q) ∧ f = .slmRange)) ∧ ((Issues s i c [] ([a] ++ spanOpds b (accBytes q)) []) ∧ ((readAhead c.x c.slot true (c.act.map (fun l => (addrOf c q a l, accBytes q))) = false)))))) ∧
    (∃ i : Iss, ∃ q : MemQ, ∃ d : Opd, ∃ a : Opd, ∃ s : State, ∃ c : Ctx, (q.slm = false) ∧ ((q.size ≤ 4) ∧ ((mmaClash c.x c.slot false (c.act.map (fun l => (addrOf c q a l, accBytes q))) = false) ∧ (((∃ l ∈ c.act, translate s c.b.task.tenant (addrOf c q a l) .r = none)) ∧ ((Issues s i c ((spanOpds d (accBytes q)).flatMap (vRegs false)) [] [a])))))) ∧
    (∃ i : Iss, ∃ q : MemQ, ∃ a : Opd, ∃ b : Opd, ∃ s : State, ∃ c : Ctx, (q.slm = false) ∧ ((q.size ≤ 4) ∧ ((mmaClash c.x c.slot false (c.act.map (fun l => (addrOf c q a l, accBytes q))) = false) ∧ (((∃ l ∈ c.act, translate s c.b.task.tenant (addrOf c q a l) .w = none)) ∧ ((Issues s i c [] (spanOpds b (accBytes q)) [a]) ∧ ((readAhead c.x c.slot false (c.act.map (fun l => (addrOf c q a l, accBytes q))) = false))))))) ∧
    (∃ i : Iss, ∃ q : MemQ, ∃ d : Opd, ∃ a : Opd, ∃ b : Opd, ∃ e : Opd, ∃ s : State, ∃ c : Ctx, (q.slm = false) ∧ ((q.size ≤ 4) ∧ ((mmaClash c.x c.slot false (c.act.map (fun l => (addrOf c q a l, accBytes q))) = false) ∧ ((((∃ l ∈ c.act, addrOf c q a l % accBytes q ≠ 0) ∨ (∃ l ∈ c.act, translate s c.b.task.tenant (addrOf c q a l) .a = none))) ∧ ((Issues s i c ((spanOpds d (accBytes q)).flatMap (vRegs false)) (spanOpds b (min 8 (accBytes q)) ++ spanOpds e (min 8 (accBytes q))) [a]) ∧ ((readAhead c.x c.slot false (c.act.map (fun l => (addrOf c q a l, accBytes q))) = false))))))) := by
  refine ⟨?_, ?_, ?_, ?_, ?_⟩
  · refine ⟨i0, qs, .v 4, .imm 1017, sS, ctxOf sS i0, .slmAlign, ?_, by decide +kernel, ?_, issues_of (by decide +kernel)⟩ <;> decide +kernel
  · refine ⟨i0, qs, .imm 1024, .v 1, sS, ctxOf sS i0, .slmRange, ?_, by decide +kernel, ?_, issues_of (by decide +kernel), ?_⟩ <;> decide +kernel
  · refine ⟨i0, qd, .v 6, .imm 0x40000, sD, ctxOf sD i0, ?_, ?_, by decide +kernel, ?_, issues_of (by decide +kernel)⟩ <;> decide +kernel
  · refine ⟨i0, qd, .imm 0x40000, .v 1, sD, ctxOf sD i0, ?_, ?_, by decide +kernel, ?_, issues_of (by decide +kernel), ?_⟩ <;> decide +kernel
  · refine ⟨i0, qd, .v 6, .imm 0x10084, .v 1, .v 1, sD, ctxOf sD i0, by decide +kernel, ?_, ?_, ?_, issues_of (by decide +kernel), ?_⟩ <;> decide +kernel

/-- The hypotheses of `Obligations.HomeHoldsWhatWasWritten` can be met. -/
theorem witness_HomeHoldsWhatWasWritten :
    ∃ s : State, ∃ pa : Nat, ∃ r : Nat, ∃ set : Nat, ∃ tag : Nat, (homeSlice s pa = some (r, set, tag)) ∧ ((sideOf (regionOf s r) pa = none)) := by
  refine ⟨sSl, 0x10080, (hs sSl 0x10080).1, (hs sSl 0x10080).2.1, (hs sSl 0x10080).2.2, ?_, ?_⟩ <;> decide +kernel

/-- The hypotheses of `Obligations.DeviceAccessesEnd` can be met. -/
theorem witness_DeviceAccessesEnd :
    (∃ core : Nat, ∃ id : Nat, ∃ s : State, ∃ m : Load, ∃ g : Group, ∃ d : Line, ∃ st : BitVec 24, ∃ e : LoadLane, ((execOf s core).loads.find? (fun l => l.id == id) = some m) ∧ (((∀ l ∈ (execOf s core).loads, l.target = m.target → m.id ≤ l.id)) ∧ ((m.failed = none) ∧ ((m.got = some (d, st, 0)) ∧ ((m.fwdPoison = false) ∧ ((m.lanes = [e]) ∧ ((e.off = 0) ∧ ((e.n = m.size) ∧ ((e.pos + e.n ≤ 128) ∧ ((m.size ∈ [1, 2, 4, 8, 16]) ∧ ((e.lane < 32) ∧ ((alFind (execOf s core).groups m.slot = some g))))))))))))) ∧
    (∃ core : Nat, ∃ entry : Nat, ∃ s : State, ∃ e : WbEntry, ∃ pa : Nat, ∃ r : Nat, ∃ set : Nat, ∃ tag : Nat, ((execOf s core).wb.find? (fun w => w.id == entry) = some e) ∧ ((e.sent = false) ∧ ((heldBack (execOf s core) e = false) ∧ (((∀ w ∈ (execOf s core).wb, w.target = e.target → e.id ≤ w.id)) ∧ ((e.target = .loc pa) ∧ ((homeSlice s pa = some (r, set, tag)) ∧ ((sideOf (regionOf s r) pa = none) ∧ ((sliceAwake s r = true) ∧ (((maskFull e.mask = true ∨ homeReady s pa e.part (nodeIsRt s (e.nodes.headD noNode)) = true))))))))))) ∧
    (∃ core : Nat, ∃ id : Nat, ∃ s : State, ∃ a : Atomic, ∃ g : Group, ∃ pa : Nat, ∃ r : Nat, ∃ set : Nat, ∃ tag : Nat, ∃ e : AtomLane, ∃ d : Nat, ∃ w : Nat, ∃ line : SliceLine, ((execOf s core).atoms.find? (fun x => x.id == id) = some a) ∧ ((a.failed = none) ∧ ((a.after = none) ∧ ((a.sent = false) ∧ ((a.target = .loc pa) ∧ ((a.lanes = [e]) ∧ ((a.dst = some d) ∧ ((a.size ∈ [4, 8]) ∧ ((a.order = .none) ∧ ((e.pos + a.size ≤ 128) ∧ ((a.op ≠ .cas) ∧ ((e.lane < 32) ∧ ((atomHeld (execOf s core) a = false) ∧ ((sliceAwake s r = true) ∧ ((storeAhead (execOf s core) (.loc pa) = false) ∧ ((homeSlice s pa = some (r, set, tag)) ∧ ((findWay (regionOf s r) set tag = some (w, line)) ∧ ((line.poison = 0) ∧ ((sideOf (regionOf s r) pa = none) ∧ ((alFind (execOf s core).groups a.slot = some g))))))))))))))))))))) := by
  refine ⟨?_, ?_, ?_⟩
  · refine ⟨0, 8, sLoad, ld0, g1, 0x77 <<< 896, 0, { lane := 2, off := 0, n := 16, pos := 112 }, by decide +kernel, ?_, ?_, ?_, ?_, ?_, ?_, ?_, ?_, by decide +kernel, ?_, ?_⟩ <;> decide +kernel
  · refine ⟨0, 3, sWb, wb0, 0x10080, (hs sSl 0x10080).1, (hs sSl 0x10080).2.1, (hs sSl 0x10080).2.2, by decide +kernel, ?_, ?_, ?_, ?_, ?_, ?_, ?_, ?_⟩ <;> decide +kernel
  · refine ⟨0, 9, sAt, at0, g1, 0x10080, (hs sSl 0x10080).1, (hs sSl 0x10080).2.1, (hs sSl 0x10080).2.2, { lane := 2, pos := 120, b := 5, c := 0 }, 4, 3, { sl with tag := (hs sD 0x10080).2.2 }, ?_, ?_, ?_, ?_, by decide +kernel, ?_, ?_, ?_, ?_, ?_, ?_, ?_, ?_, by decide +kernel, ?_, ?_, ?_, ?_, ?_, ?_⟩ <;> decide +kernel

/-- The hypotheses of `Obligations.FencesWaitAndRelease` can be met. -/
theorem witness_FencesWaitAndRelease :
    (∃ i : Iss, ∃ kind : FenceKind, ∃ sc : Scope, ∃ s : State, ∃ c : Ctx, ∃ ins : Instr, (ins = (match kind with | .ld => Instr.fenceLd i sc | .st => Instr.fenceSt i sc | .full => Instr.fenceFull i sc)) ∧ ((Issues s i c [] [] []) ∧ ((c.act ≠ [])))) ∧
    (∃ core : Nat, ∃ id : Nat, ∃ s : State, ∃ f : FenceWait, ∃ g : Group, ∃ p : Path, ∃ l : Nat, ((execOf s core).fences.find? (fun x => x.id == id) = some f) ∧ ((fenceDone (execOf s core) f = true) ∧ ((f.hostRead ≠ 1) ∧ ((f.hostRead ≠ 2) ∧ ((alFind (execOf s core).groups f.slot = some g) ∧ ((p ∈ g.paths) ∧ ((p.stall = .fence id) ∧ ((p.lanes.getLsbD l = true))))))))) := by
  refine ⟨?_, ?_⟩
  · exact ⟨i0, .full, .system, sHit, ctxOf sHit i0, .fenceFull i0 .system, rfl, issues_of (by decide +kernel), by decide +kernel⟩
  · refine ⟨0, 4, sFw, fw, { g1 with paths := [{ lanes := 4, pc := 16, stall := .fence 4 }] }, { lanes := 4, pc := 16, stall := .fence 4 }, 2, ?_, by decide +kernel, ?_, ?_, ?_, ?_, ?_, ?_⟩ <;> decide +kernel

end W04

namespace W05
/-- A descriptor's 128 bytes. -/
def dB (base scale qual record stride sstride : Nat) (t : Nat) (fmt mode : Byte) : List Byte :=
  leBytes 8 base ++ leBytes 8 scale ++ leBytes 8 qual ++ leBytes 8 0 ++ leBytes 8 record ++ leBytes 8 0 ++ leBytes 4 stride ++
    leBytes 4 sstride ++ leBytes 4 0 ++ leBytes 4 t ++ [fmt, mode] ++ List.replicate 62 0
/-- A scaling record's 128 bytes. -/
def rB (flags state n idx : Byte) (scale pending : Nat) (outl clips : List Nat) (hist : List Nat) : List Byte :=
  leBytes 8 0x20000 ++ leBytes 4 1 ++ [0, 3, 4, flags, state, n, idx, 0] ++ leBytes 4 scale ++ leBytes 4 pending ++ leBytes 4 41 ++
    outl.flatMap (leBytes 2) ++ clips.flatMap (leBytes 2) ++ hist.flatMap (leBytes 4)
def rec0 (state : Byte) : List Byte :=
  rB 0x81 state 2 1 0x3F000000 0x40A00000 [1, 0xFFFF, 0xFFFF, 0xFFFF, 0xFFFF, 0xFFFF, 0xFFFF, 0xFFFF]
    [2, 9, 0xFFFF, 0xFFFF, 0xFFFF, 0xFFFF, 0xFFFF, 0xFFFF] ([0x3F800000, 0x40000000] ++ List.replicate 14 0)
def recE : List Byte := rB 0 0 0 0 0 0xBF800000 (List.replicate 8 0xFFFF) (List.replicate 8 0xFFFF) (List.replicate 16 0)
/-- A group whose %u 2 and 3 hold a descriptor's address and %u 4 and 5 another. -/
def gT (a b : Nat) : Group :=
  { g1 with
    uregs := [(2, BitVec.ofNat 32 a), (4, BitVec.ofNat 32 b)]
    srCount := 6
    handles := [(1, { bytes := dB 1 2 3 4 16 1 0 5 0, version := 3 })]
    regs := [(2, 0x3F800000), (34, 0xC0400000), (66, 7)] }
def withBytes (s : State) (a : Nat) (bs : List Byte) : State := { s with mem.mem := cellsAt a bs }
def dT : List Byte := dB 0x80 0 0 0 16 0 0x3F800000 0x0A 16
def sT : State := { withBytes (sM (gT 0x1000 0x10000) b1) 0x1000 dT with fe.nodes := [(0, n0)] }
def sTu : State := { withBytes (sM (gT 0x1004 0x10000) b1) 0x1000 dT with fe.nodes := [(0, n0)] }
def sTb : State := { withBytes (sM (gT 0x1000 0x10000) b1) 0x1000 (dB 0x80 0 0 0 15 0 0x3F800000 0x0A 16) with fe.nodes := [(0, n0)] }
def sTf : State := { withBytes (sM (gT 0x1000 0x10000) b1) 0x1000 (dB 0x80 0 0 0 16 0 0x3F800000 15 16) with fe.nodes := [(0, n0)] }
def sTa : State := { withBytes (sM (gT 0x1000 0x10000) b1) 0x1000 (dB 0x84 0x100 0 0 16 0 0x3F800000 5 16) with fe.nodes := [(0, n0)] }
def rdT (s : State) : Acc (List Byte) × State := readDesc (issued s i0 (ctxOf s i0)) (ctxOf s i0) 2
def rdL (s : State) : Acc (List Byte) × State := readDesc (issued s i0 (ctxOf s i0)) (ctxOf s i0) 2 true
def paT (s : State) : Acc (List Byte) × State := let c := ctxOf s i0; pathRead (issued s i0 (ctxOf s i0)) 0 c.b.task.part c.b.task.tenant (uReg64 c 2) 128
def rowsT : Acc (List (Nat × List Nat)) × State :=
  let c := ctxOf sT i0
  tileRowsRead c (resolveDesc c.b.task (descOf (okOf (rdL sT)))) 53 8 3 c.act (rdL sT).2
/-- Block conversions: MXFP8 into shared local memory, into device memory, with a record. -/
def wC : CvtBlk := { fmt := 5, attr := 0, src := 0, sr := true, sat := .nosat, q := false, ds := false, v := 0, du := 2, blk := .imm 0 }
def dC : List Byte := dB 0x100 0x20010 0x20020 0x3000 0 0 0x3F800000 5 16
def sC : State := { withBytes (sM (gT 0x1000 0) b1) 0x1000 dC with fe.nodes := [(0, n0)] }
def wP : CvtBlk := { wC with fmt := 3, ds := true, q := true, sr := false }
def dP : List Byte := dB 0x20100 0 0x20020 0x3000 0 0 0x3F800000 3 0
def sP (r : List Byte) : State :=
  let s := sM (gT 0x1000 0) b1
  { s with mem.mem := cellsAt 0x1000 dP ++ cellsAt 0x3000 r
           fe.nodes := [(0, n0)] }
def rcT (s : State) : Acc (List Byte) × State :=
  let t := (ctxOf s i0).b.task
  recAtIssue (paT s).2 t.tenant t.part (resolveDesc t (descOf (okOf (paT s)))).record
def exT (s : State) : Acc (List Byte) × State :=
  let t := (ctxOf s i0).b.task
  agentRead (rcT s).2 t.tenant t.part (recSrc (okOf (rcT s))).1 ((recSrc (okOf (rcT s))).2.1 * 128) .stream (nodeIsRt (rcT s).2 t.node) (coreDie i0.core)
def rwT (s : State) : Acc Unit × State :=
  let t := (ctxOf s i0).b.task
  recWrite (exT s).2 t.tenant t.part (resolveDesc t (descOf (okOf (paT s)))).record 16 [1]
    { die := coreDie i0.core, node := t.node }
/-- A committing group: %u 2 holds the record's address. -/
def sK (state : Byte) : State := { withBytes (sM (gT 0x3000 0) b1) 0x3000 (rec0 state) with fe.nodes := [(0, n0)] }
def rrK (s : State) : Acc (List Byte) × State :=
  let c := ctxOf s i0
  recRead (issued s i0 c) c.b.task.tenant c.b.task.part (uReg64 c 2) .a
def up0 : AmaxUpd := { tenant := 0, part := 0, node := 0, record := 0x3000, value := some 0x41000000, clips := [4, 2, 70000] }
def sU : State := { sK 2 with regions := [(0, { amax := [up0, up0] })] }
def pp0 : PrePass := { tenant := 0, part := 0, record := 0x3000, core := 0, slot := 0, scale := 0x3E800000 }
def sPP : State :=
  let s := sM (gT 0x1000 0) b1
  { s with mem.mem := cellsAt 0x3000 recE ++ cellsAt 0x20000 ((List.range 32).flatMap (fun k => leBytes 4 (0x40000000 + k * 65536)))
           regions := [(0, { prepass := [pp0] })]
           fe.nodes := [(0, n0)] }
def rdPP : Acc (List Byte) × State := recRead sPP 0 pp0.part 0x3000 .r
/-- The hypotheses of `Obligations.TileInstructionsComplete` can be met. -/
theorem witness_TileInstructionsComplete :
    (∃ i : Iss, ∃ u : Nat, ∃ s : State, ∃ s1 : State, ∃ c : Ctx, ∃ b : List Byte, (Issues s i c [] [.u u, .u (u + 1)] []) ∧ ((memReady c = true) ∧ ((c.act ≠ []) ∧ ((readDesc (issued s i c) c u = (.ok b, s1)))))) ∧
    (∃ i : Iss, ∃ t : Nat, ∃ u : Nat, ∃ s : State, ∃ c : Ctx, ∃ h : Handle, (Issues s i c [] [.u u, .u (u + 1), .t t] []) ∧ ((c.act ≠ []) ∧ ((alFind c.g.handles t = some h)))) ∧
    (∃ i : Iss, ∃ part : Bool, ∃ v : Nat, ∃ n : Nat, ∃ u : Nat, ∃ row : ImmU, ∃ col : ImmU, ∃ s : State, ∃ s1 : State, ∃ s2 : State, ∃ c : Ctx, ∃ b : List Byte, ∃ rows : List (Nat × List Nat), (Issues s i c ((List.range n).map (v + ·)) [.u u, .u (u + 1)] []) ∧ ((memReady c = true) ∧ ((readDesc (issued s i c) c u true = (.ok b, s1)) ∧ (
    let d := resolveDesc c.b.task (descOf b)
    
    let rs := c.act.flatMap (fun l => (tileRanges d (immU c row + l) (immU c col) n).map (fun r => (r.1, r.2.1)))
    ((d.fmt = 14 → s.units.testBit 2 = true)) ∧ ((slmOdd d.slm (elemBits d.fmt) (rs.map (·.1)) = false) ∧ ((mmaClash c.x c.slot d.slm rs = false) ∧ ((tileRowsRead c d (immU c row) (immU c col) n c.act s1 = (.ok rows, s2)) ∧ (((part = true ∨ laneMask c.act = c.g.launch)))))))))) ∧
    (∃ i : Iss, ∃ part : Bool, ∃ v : Nat, ∃ n : Nat, ∃ u : Nat, ∃ l : Nat, ∃ row : ImmU, ∃ col : ImmU, ∃ s : State, ∃ s1 : State, ∃ c : Ctx, ∃ b : List Byte, (Issues s i c [] ([.u u, .u (u + 1)] ++ (List.range n).map (fun k => .v (v + k))) []) ∧ ((memReady c = true) ∧ ((readDesc (issued s i c) c u true = (.ok b, s1)) ∧ ((c.act = [l]) ∧ (((part = true ∨ laneMask c.act = c.g.launch)) ∧ (
    let d := resolveDesc c.b.task (descOf b)
    
    let w := elemBits d.fmt
    
    let a := d.base + (immU c row + l) * d.stride + immU c col * w / 8
    ((d.fmt = 14 → s.units.testBit 2 = true)) ∧ ((d.slm = true) ∧ ((d.colMajor = false) ∧ ((8 ≤ w) ∧ ((w % 8 = 0) ∧ ((a % (w / 8) = 0) ∧ ((mmaClash c.x c.slot true [(a, n * w / 8)] = false) ∧ ((a + n * w / 8 ≤ c.b.task.slmKib * 1024)))))))))))))) := by
  refine ⟨?_, ?_, ?_, ?_⟩
  · refine ⟨i0, 2, sT, (rdT sT).2, ctxOf sT i0, okOf (rdT sT), issues_of (by decide +kernel), ?_, by decide +kernel, acc_ok (by decide +kernel)⟩ <;> decide +kernel
  · refine ⟨i0, 1, 4, sT, ctxOf sT i0, { bytes := dB 1 2 3 4 16 1 0 5 0, version := 3 }, issues_of (by decide +kernel), ?_, by decide +kernel⟩ <;> decide +kernel
  · refine ⟨i0, true, 4, 3, 2, .imm 53, .imm 8, sT, (rdL sT).2, rowsT.2, ctxOf sT i0, okOf (rdL sT), okOf rowsT, issues_of (by decide +kernel), ?_, acc_ok (by decide +kernel), ?_, by decide +kernel, ?_, acc_ok (by decide +kernel), ?_⟩ <;> decide +kernel
  · refine ⟨i0, false, 0, 3, 2, 2, .imm 2, .imm 4, sT, (rdL sT).2, ctxOf sT i0, okOf (rdL sT), issues_of (by decide +kernel), ?_, acc_ok (by decide +kernel), ?_, ?_, by decide +kernel, ?_, ?_, ?_, ?_, ?_, ?_, ?_⟩ <;> decide +kernel

/-- The hypotheses of `Obligations.BlockConversionCompletes` can be met. -/
theorem witness_BlockConversionCompletes :
    (∃ i : Iss, ∃ w : CvtBlk, ∃ s : State, ∃ s1 : State, ∃ c : Ctx, ∃ b : List Byte, (Issues s i c [] ([.u w.du, .u (w.du + 1), .v w.v] ++ (match w.blk with | .u n => [.u n] | _ => [])) []) ∧ ((c.act ≠ []) ∧ ((memReady c = true) ∧ ((uReg64 c w.du % 128 = 0) ∧ ((descRead (issued s i c) c (uReg64 c w.du) = (.ok b, s1)) ∧ (
    let d := resolveDesc c.b.task (descOf b)
    (cvtFits w b d) ∧ (∃ t, ((if w.ds = true then ∃ r s2, recAtIssue s1 c.b.task.tenant c.b.task.part d.record = (.ok r, s2) ∧ recState r = 2 ∧ cvtStores s2 c w d (recScale r) (recOutl r) ∧ t = recScale r else cvtStores s1 c w d d.tscale [] ∧ t = d.tscale))))))))) ∧
    (∃ i : Iss, ∃ w : CvtBlk, ∃ s : State, ∃ s1 : State, ∃ c : Ctx, ∃ b : List Byte, (Issues s i c [] ([.u w.du, .u (w.du + 1), .v w.v] ++ (match w.blk with | .u n => [.u n] | _ => [])) []) ∧ ((c.act ≠ []) ∧ ((memReady c = true) ∧ ((uReg64 c w.du % 128 = 0) ∧ ((descRead (issued s i c) c (uReg64 c w.du) = (.ok b, s1)) ∧ (
    let d := resolveDesc c.b.task (descOf b)
    (cvtFits w b d) ∧ (∃ rc, ∃ s2, (w.ds = true) ∧ ((recAtIssue s1 c.b.task.tenant c.b.task.part d.record = (.ok rc, s2)) ∧ ((recState rc = 2) ∧ ((cvtStores s2 c w d (recScale rc) (recOutl rc)))))))))))) ∧
    (∃ i : Iss, ∃ w : CvtBlk, ∃ s : State, ∃ s1 : State, ∃ c : Ctx, ∃ b : List Byte, (Issues s i c [] ([.u w.du, .u (w.du + 1), .v w.v] ++ (match w.blk with | .u n => [.u n] | _ => [])) []) ∧ ((c.act ≠ []) ∧ ((memReady c = true) ∧ ((uReg64 c w.du % 128 = 0) ∧ ((descRead (issued s i c) c (uReg64 c w.du) = (.ok b, s1)) ∧ (
    let d := resolveDesc c.b.task (descOf b)
    (cvtFits w b d) ∧ (∃ rc, ∃ s2, ∃ s3, ∃ s4, ∃ bs, (w.ds = true) ∧ ((recAtIssue s1 c.b.task.tenant c.b.task.part d.record = (.ok rc, s2)) ∧ ((recState rc = 0) ∧ ((agentRead s2 c.b.task.tenant c.b.task.part (recSrc rc).1 ((recSrc rc).2.1 * 128) .stream (nodeIsRt s2 c.b.task.node) (coreDie i.core) = (.ok bs, s3)) ∧ ((recWrite s3 c.b.task.tenant c.b.task.part d.record 16 [1] { die := coreDie i.core, node := c.b.task.node } = (.ok (), s4))))))))))))) := by
  refine ⟨?_, ?_, ?_⟩
  · refine ⟨i0, wC, sC, (paT sC).2, ctxOf sC i0, okOf (paT sC), issues_of (by decide +kernel), ?_, by decide +kernel, ?_, acc_ok (by decide +kernel), by unfold cvtFits; decide +kernel, 0x3F800000, by simp only [wC, Bool.false_eq_true, if_false]; unfold cvtStores; decide +kernel⟩ <;> decide +kernel
  · refine ⟨i0, wP, sP (rec0 2), (paT (sP (rec0 2))).2, ctxOf (sP (rec0 2)) i0, okOf (paT (sP (rec0 2))), issues_of (by decide +kernel), ?_, by decide +kernel, ?_, acc_ok (by decide +kernel), by unfold cvtFits; decide +kernel, okOf (rcT (sP (rec0 2))), (rcT (sP (rec0 2))).2, ?_, acc_ok (by decide +kernel), ?_, by unfold cvtStores; decide +kernel⟩ <;> decide +kernel
  · refine ⟨i0, wP, sP recE, (paT (sP recE)).2, ctxOf (sP recE) i0, okOf (paT (sP recE)), issues_of (by decide +kernel), ?_, by decide +kernel, ?_, acc_ok (by decide +kernel), by unfold cvtFits; decide +kernel, okOf (rcT (sP recE)), (rcT (sP recE)).2, (exT (sP recE)).2, (rwT (sP recE)).2, okOf (exT (sP recE)), by decide +kernel, acc_ok (by decide +kernel), ?_, acc_ok (by decide +kernel), acc_unit (by decide +kernel)⟩ <;> decide +kernel

/-- The hypotheses of `Obligations.AmaxCommitUpdatesTheRecord` can be met. -/
theorem witness_AmaxCommitUpdatesTheRecord :
    (∃ i : Iss, ∃ u : Nat, ∃ s : State, ∃ s1 : State, ∃ c : Ctx, ∃ b : List Byte, ∃ pa : Nat, (Issues s i c [] [.u u, .u (u + 1)] []) ∧ ((c.act ≠ []) ∧ ((memReady c = true) ∧ (((c.p.released = true ∨ fenceFree c .st .device = true)) ∧ ((uReg64 c u % 128 = 0) ∧ ((recRead (if c.p.released then issued s i c else markFence (issued s i c) c .device) c.b.task.tenant c.b.task.part (uReg64 c u) .a (nodeIsRt s c.b.task.node) = (.ok b, s1)) ∧ ((recBad b = false) ∧ ((recState b ≠ 1) ∧ ((translate s1 c.b.task.tenant (uReg64 c u) .a = some (.loc pa)) ∧ ((Homed s1 pa))))))))))) ∧
    (∃ i : Iss, ∃ u : Nat, ∃ s : State, ∃ s1 : State, ∃ c : Ctx, ∃ b : List Byte, (Issues s i c [] [.u u, .u (u + 1)] []) ∧ ((c.act ≠ []) ∧ ((memReady c = true) ∧ (((c.p.released = true ∨ fenceFree c .st .device = true)) ∧ ((uReg64 c u % 128 = 0) ∧ ((recRead (if c.p.released then issued s i c else markFence (issued s i c) c .device) c.b.task.tenant c.b.task.part (uReg64 c u) .a (nodeIsRt s c.b.task.node) = (.ok b, s1)) ∧ ((recBad b = false) ∧ ((recState b = 1))))))))) ∧
    (∃ b : List Byte, (b.length = 128) ∧ ((recBad b = false))) := by
  refine ⟨?_, ?_, ?_⟩
  · refine ⟨i0, 2, sK 2, (rrK (sK 2)).2, ctxOf (sK 2) i0, okOf (rrK (sK 2)), 0x3000, issues_of (by decide +kernel), by decide +kernel, ?_, ?_, ?_, acc_ok (by decide +kernel), ?_, ?_, ?_, homed_of (by decide +kernel)⟩ <;> decide +kernel
  · refine ⟨i0, 2, sK 1, (rrK (sK 1)).2, ctxOf (sK 1) i0, okOf (rrK (sK 1)), issues_of (by decide +kernel), ?_, by decide +kernel, ?_, ?_, acc_ok (by decide +kernel), ?_, ?_⟩ <;> decide +kernel
  · refine ⟨rec0 2, ?_, ?_⟩ <;> decide +kernel

/-- The hypotheses of `Obligations.AggregatorUpdatesRecords` can be met. -/
theorem witness_AggregatorUpdatesRecords :
    (∃ region : Nat, ∃ index : Nat, ∃ s : State, ∃ s1 : State, ∃ u : AmaxUpd, ∃ b : List Byte, ∃ pa : Nat, ((regionOf s region).amax[index]? = some u) ∧ ((recRead s u.tenant u.part u.record .a (nodeIsRt s u.node) = (.ok b, s1)) ∧ ((u.record % 128 = 0) ∧ ((translate s1 u.tenant u.record .a = some (.loc pa)) ∧ ((Homed s1 pa)))))) ∧
    (∃ region : Nat, ∃ tenant : Nat, ∃ record : Nat, ∃ s : State, ∃ s1 : State, ∃ p : PrePass, ∃ b : List Byte, ∃ pa : Nat, ((regionOf s region).prepass.find? (fun p => p.tenant == tenant && p.record == record) = some p) ∧ ((p.bad = none) ∧ ((recRead s tenant p.part record .r (nodeIsRt s p.node) = (.ok b, s1)) ∧ ((record % 128 = 0) ∧ ((translate s1 tenant record .a = some (.loc pa)) ∧ ((Homed s1 pa) ∧ ((homeReady s1 pa p.part (nodeIsRt s1 p.node) = true)))))))) := by
  refine ⟨?_, ?_⟩
  · refine ⟨0, 1, sU, (recRead sU 0 0 0x3000 .a).2, up0, okOf (recRead sU 0 0 0x3000 .a), 0x3000, ?_, acc_ok (by decide +kernel), ?_, ?_, homed_of (by decide +kernel)⟩ <;> decide +kernel
  · refine ⟨0, 0, 0x3000, sPP, rdPP.2, pp0, okOf rdPP, 0x3000, by decide +kernel, ?_, acc_ok (by decide +kernel), ?_, ?_, homed_of (by decide +kernel), ?_⟩ <;> decide +kernel

/-- The hypotheses of `Obligations.MisusedDescriptorsFault` can be met. -/
theorem witness_MisusedDescriptorsFault :
    (∃ i : Iss, ∃ u : Nat, ∃ s : State, ∃ c : Ctx, (memReady c = true) ∧ ((uReg64 c u % 128 ≠ 0) ∧ ((Issues s i c [] [.u u, .u (u + 1)] []) ∧ ((c.act ≠ []))))) ∧
    (∃ i : Iss, ∃ v : Nat, ∃ n : Nat, ∃ u : Nat, ∃ s : State, ∃ c : Ctx, (memReady c = true) ∧ ((uReg64 c u % 128 ≠ 0) ∧ ((Issues s i c ((List.range n).map (v + ·)) [.u u, .u (u + 1)] [])))) ∧
    (∃ i : Iss, ∃ v : Nat, ∃ n : Nat, ∃ u : Nat, ∃ s : State, ∃ c : Ctx, (memReady c = true) ∧ ((uReg64 c u % 128 ≠ 0) ∧ ((Issues s i c [] ([.u u, .u (u + 1)] ++ (List.range n).map (fun k => .v (v + k))) [])))) ∧
    (∃ i : Iss, ∃ u : Nat, ∃ s : State, ∃ s1 : State, ∃ c : Ctx, ∃ b : List Byte, ∃ f : DevFault, (memReady c = true) ∧ ((uReg64 c u % 128 = 0) ∧ ((descRead (issued s i c) c (uReg64 c u) = (.ok b, s1)) ∧ ((Issues s i c [] [.u u, .u (u + 1)] []) ∧ ((c.act ≠ []) ∧ ((DescFaults false b f))))))) ∧
    (∃ i : Iss, ∃ v : Nat, ∃ n : Nat, ∃ u : Nat, ∃ s : State, ∃ s1 : State, ∃ c : Ctx, ∃ b : List Byte, ∃ f : DevFault, (memReady c = true) ∧ ((uReg64 c u % 128 = 0) ∧ ((descRead (issued s i c) c (uReg64 c u) = (.ok b, s1)) ∧ ((Issues s i c ((List.range n).map (v + ·)) [.u u, .u (u + 1)] []) ∧ ((DescFaults true b f)))))) ∧
    (∃ i : Iss, ∃ v : Nat, ∃ n : Nat, ∃ u : Nat, ∃ s : State, ∃ s1 : State, ∃ c : Ctx, ∃ b : List Byte, ∃ f : DevFault, (memReady c = true) ∧ ((uReg64 c u % 128 = 0) ∧ ((descRead (issued s i c) c (uReg64 c u) = (.ok b, s1)) ∧ ((Issues s i c [] ([.u u, .u (u + 1)] ++ (List.range n).map (fun k => .v (v + k))) []) ∧ ((DescFaults true b f)))))) ∧
    (∃ i : Iss, ∃ t : Nat, ∃ u : Nat, ∃ s : State, ∃ c : Ctx, (Issues s i c [] [.u u, .u (u + 1), .t t] []) ∧ ((c.act ≠ []) ∧ ((alFind c.g.handles t = none)))) := by
  refine ⟨?_, ?_, ?_, ?_, ?_, ?_, ?_⟩
  · refine ⟨i0, 2, sTu, ctxOf sTu i0, ?_, ?_, issues_of (by decide +kernel), ?_⟩ <;> decide +kernel
  · refine ⟨i0, 4, 2, 2, sTu, ctxOf sTu i0, ?_, ?_, issues_of (by decide +kernel)⟩ <;> decide +kernel
  · refine ⟨i0, 4, 2, 2, sTu, ctxOf sTu i0, ?_, ?_, issues_of (by decide +kernel)⟩ <;> decide +kernel
  · refine ⟨i0, 2, sTb, (paT sTb).2, ctxOf sTb i0, okOf (paT sTb), .descInvalid, ?_, by decide +kernel, acc_ok (by decide +kernel), issues_of (by decide +kernel), ?_, by unfold DescFaults; decide +kernel⟩ <;> decide +kernel
  · refine ⟨i0, 4, 2, 2, sTf, (paT sTf).2, ctxOf sTf i0, okOf (paT sTf), .formatReserved, ?_, ?_, acc_ok (by decide +kernel), issues_of (by decide +kernel), by unfold DescFaults; decide +kernel⟩ <;> decide +kernel
  · refine ⟨i0, 4, 2, 2, sTa, (paT sTa).2, ctxOf sTa i0, okOf (paT sTa), .operandAlign, ?_, ?_, acc_ok (by decide +kernel), issues_of (by decide +kernel), by unfold DescFaults; decide +kernel⟩ <;> decide +kernel
  · refine ⟨i0, 7, 2, sT, ctxOf sT i0, issues_of (by decide +kernel), ?_, ?_⟩ <;> decide +kernel

end W05

namespace W06
def slmDesc (base stride : Nat) (fmt mode : Byte) : List Byte :=
  leBytes 8 base ++ List.replicate 40 0 ++ leBytes 4 stride ++ List.replicate 8 0 ++ leBytes 4 0x3F800000 ++ [fmt, mode] ++ List.replicate 62 0
def opM : MmaOp :=
  { dt := 1, st := 2, tu := 2, ct := none, sFmt := 3, tFmt := 3, oFmt := 0, sAttr := 0, tAttr := 0, transposed := false,
    sr := false, sat := .default, part := false, esc := false, outl := false, outlStream := false, amax := false, epi := false,
    epiJob := 0, epiZ := false, epiFr := false, shape := .imm (2 * 2 ^ 20 + 2 * 2 ^ 13 + 3), vorg := .imm 0, korg := 0,
    beta := .imm 0, k0 := 0, featOrg := 0, rowOrg := 0 }
def gM : Group :=
  { g1 with
    uregs := [(2, 0x1000)]
    handles := [(1, { bytes := slmDesc 0x100 16 0 16, version := 3 }), (2, { bytes := slmDesc 0x40 16 3 16, version := 4 })] }
def bM : Block := { b1 with slm := [(0x20, 0x38), (0x21, 0x38), (0x40, 0x38), (0x41, 0x40), (0x50, 0x44), (0x51, 0x48)] }
def sMm : State :=
  let s := sM gM bM
  { s with mem.mem := cellsAt 0x1000 (slmDesc 0 16 3 16)
           fe.nodes := [(0, n0)] }
def cM : Ctx := ctxOf sMm i0
def dM : Acc (List Byte) × State := pathRead (issued sMm i0 cM) cM.core cM.b.task.part cM.b.task.tenant (uReg64 cM opM.tu) 128
def tM : List Byte := resolveBytes cM.b.task (okOf dM)
def pM (op : MmaOp) : MmaPrep :=
  let m := mmaPrep cM op
  { m with sRaw := resolveBytes cM.b.task m.sRaw, dRaw := resolveBytes cM.b.task m.dRaw, cRaw := resolveBytes cM.b.task m.cRaw }
def rdM : Acc (MmaRun × Option Tile) × State := mmaRead dM.2 cM opM (pM opM) (descOf tM) tM 0x3F800000 0x3F800000 []
theorem rdM_ok : isOk rdM = true := by decide +kernel
def runM : MmaRun := (okVal rdM rdM_ok).1
def bad0 : MmaOp := { opM with shape := .imm (33 * 2 ^ 20 + 2 * 2 ^ 13 + 3) }
def op0 : MmaOp := { opM with shape := .imm (2 * 2 ^ 20 + 2 * 2 ^ 13) }
/-- An instruction in the array of core 0. -/
def inArray (m : MmaRun) : State := onCore sMm (fun x => { x with mmas := [m] })
def mTurn : MmaRun := { runM with id := 5, need := [{ k := 0, v := 0 }], stDesc := slmDesc 0 128 3 17 }
def turn0 : TurnSlot :=
  { key := { src := 0, stride := 128, k := 0, v := 0, fmt := 3, attr := 0, reblock := false, t := 0, depth := 2, tenant := 0, slm := some (0, 0) }
    desc := slmDesc 0 128 3 17
    task := bM.task
    core := 0
    slot := 0
    block := 0
    data := { fmt := 3, attr := 0, elems := [], scales := [] }
    begun := 1
    consumers := [(0, 5)] }
def sTurn : State := { inArray mTurn with clusters := [(0, { turns := [(1, turn0)] })] }
def fillT : Acc (Operand × List (Nat × Nat) × List (List Nat)) × State := fillUnit sTurn (turnCtx sTurn turn0) turn0
theorem fillT_ok : isOk fillT = true := by decide +kernel
/-- Under evaluation: policy, counts and sources. -/
def mEsc (policy : Nat) : MmaRun :=
  { runM with
    op := { opM with esc := true }
    phase := .stream
    task := { bM.task with policy := policy }
    tDesc := slmDesc 0x40 16 3 16
    stDesc := slmDesc 0x40 16 3 16
    tile := { runM.tile with op := { runM.tile.op with qClip := 3, qElems := 64 } } }
def srcT (m : MmaRun) : Acc (List (List Nat)) × State :=
  srcStationary (escCtx (inArray m) 0 m) (descOf m.tDesc) m.depth m.width (inArray m)
def srcU (m : MmaRun) : Acc (List (List Nat)) × State :=
  srcStream (escCtx (inArray m) 0 m) (descOf m.stDesc) (redOf m) m.len m.vorg m.korg m.lanes (srcT m).2
def mOne : MmaRun := { runM with len := 1, lanes := 1 }
/-- The hypotheses of `Obligations.MatrixInstructionsEnterTheArray` can be met. -/
theorem witness_MatrixInstructionsEnterTheArray :
    (∃ i : Iss, ∃ op : MmaOp, ∃ s : State, ∃ c : Ctx, (((op.sFmt ≠ 14 ∧ op.tFmt ≠ 14) ∨ f64Absent s = false)) ∧ ((Issues s i c [] (mmaUniforms op) []) ∧ (((∀ q ∈ c.x.mmas, q.phase = .drain)) ∧ (((∀ l ∈ c.x.loads, l.slot ≠ c.slot)) ∧ ((badShape (mmaPrep c op) = false) ∧ (((op.part = true ∨ laneMask c.act = c.g.launch)) ∧ (
    let m := mmaPrep c op
    
    let m' := { m with sRaw := resolveBytes c.b.task m.sRaw, dRaw := resolveBytes c.b.task m.dRaw,
                       cRaw := resolveBytes c.b.task m.cRaw }
    (m.k = 0) ∧ ((m.noHandle = false))))))))) ∧
    (∃ i : Iss, ∃ op : MmaOp, ∃ s : State, ∃ c : Ctx, (((op.sFmt ≠ 14 ∧ op.tFmt ≠ 14) ∨ f64Absent s = false)) ∧ ((Issues s i c [] (mmaUniforms op) []) ∧ (((∀ q ∈ c.x.mmas, q.phase = .drain)) ∧ (((∀ l ∈ c.x.loads, l.slot ≠ c.slot)) ∧ ((badShape (mmaPrep c op) = false) ∧ (((op.part = true ∨ laneMask c.act = c.g.launch)) ∧ (
    let m := mmaPrep c op
    
    let m' := { m with sRaw := resolveBytes c.b.task m.sRaw, dRaw := resolveBytes c.b.task m.dRaw,
                       cRaw := resolveBytes c.b.task m.cRaw }
    (0 < m.k) ∧ (∃ b : List Byte, ∃ tRaw : List Byte, ∃ s1 : State, ∃ s2 : State, ∃ s3 : State, ∃ ta : Word, ∃ tb : Word, ∃ outl : List Nat, ∃ run : MmaRun, ∃ tile : Option Tile, ((if m.d = 0 then s1 = issued s i c ∧ tRaw = List.replicate 128 0 else uReg64 c op.tu % 128 = 0 ∧ tRaw = resolveBytes c.b.task b ∧ descRead (issued s i c) c (uReg64 c op.tu) = (.ok b, s1))) ∧ ((mmaScales s1 s2 c op m' tRaw ta tb outl) ∧ ((mmaPasses s1 s2 c op m' tRaw ta) ∧ ((mmaRead s2 c op m' (descOf tRaw) tRaw ta tb outl = (.ok (run, tile), s3)) ∧ (((run.phase = .stream → polEnables c.b.task.policy (mmaPacking op) = true → opTriggers c.b.task.policy run.tile.op.qClip run.tile.op.qFlush (fullElems run) = (false, false))))))))))))))) := by
  refine ⟨?_, ?_⟩
  · refine ⟨i0, op0, sMm, cM, ?_, issues_of (by decide +kernel), ?_, ?_, by decide +kernel, ?_, ?_, ?_⟩ <;> decide +kernel
  · refine ⟨i0, opM, sMm, cM, ?_, issues_of (by decide +kernel), ?_, ?_, by decide +kernel, ?_, ?_, okOf dM, tM, dM.2, dM.2, rdM.2, 0x3F800000, 0x3F800000, [], (okVal rdM rdM_ok).1, (okVal rdM rdM_ok).2, by rw [if_neg (by decide +kernel)]; exact ⟨by decide +kernel, rfl, acc_ok (by decide +kernel)⟩, by unfold mmaScales; refine ⟨dM.2, by rw [if_neg (by decide +kernel)], ?_⟩; rw [if_neg (by decide +kernel)]; exact ⟨_, _, rfl, rfl, rfl⟩, by refine ⟨?_, ?_, ?_, ?_, ?_, ?_, ?_, ?_, ?_, fun h => absurd h (by decide), ?_, ?_, ?_, ?_⟩ <;> decide +kernel, okPair_eq rdM_ok, ?_⟩ <;> decide +kernel

/-- The hypotheses of `Obligations.MatrixInstructionsRunToTheirEnd` can be met. -/
theorem witness_MatrixInstructionsRunToTheirEnd :
    (∃ cluster : Nat, ∃ slot : Nat, ∃ core : Nat, ∃ id : Nat, ∃ s : State, ∃ s1 : State, ∃ t : TurnSlot, ∃ o : Operand, ∃ q : List (Nat × Nat), ∃ sq : List (List Nat), (alFind (clusterOf s cluster).turns slot = some t) ∧ ((t.ready = false) ∧ ((t.consumers = [(core, id)]) ∧ ((fillUnit s (turnCtx s t) t = (.ok (o, q, sq), s1)) ∧ (((∀ x ∈ (execOf s core).mmas, if x.id = id then x.need = [{ k := t.key.k, v := t.key.v }] else x.need = []))))))) ∧
    (∃ core : Nat, ∃ id : Nat, ∃ s : State, ∃ m : MmaRun, ((execOf s core).mmas.find? (fun m => m.id == id) = some m) ∧ ((m.phase = .stream) ∧ ((m.need = []) ∧ ((m.trigClip = false) ∧ ((m.trigFlush = false) ∧ ((m.op.esc = true) ∧ ((polEnables m.task.policy (mmaPacking m.op) = true) ∧ (
    let clip := m.tile.op.qClip + m.strm.qClip
    
    let flush := m.tile.op.qFlush + m.strm.qFlush
    
    let e := m.tile.op.qElems + m.strm.qElems
    
    let hit := decide (bits m.task.policy 11 0 * e < clip * 65536) || decide (bits m.task.policy 23 12 * e < flush * 65536)
    (hit = false ∨ polObserve m.task.policy = true))))))))) ∧
    (∃ core : Nat, ∃ id : Nat, ∃ s : State, ∃ m : MmaRun, ((execOf s core).mmas.find? (fun m => m.id == id) = some m) ∧ ((m.phase = .stream) ∧ ((m.need = []) ∧ ((m.trigClip = false) ∧ ((m.trigFlush = false) ∧ ((m.op.esc = true) ∧ ((polEnables m.task.policy (mmaPacking m.op) = true) ∧ (
    let clip := m.tile.op.qClip + m.strm.qClip
    
    let flush := m.tile.op.qFlush + m.strm.qFlush
    
    let e := m.tile.op.qElems + m.strm.qElems
    
    let hit := decide (bits m.task.policy 11 0 * e < clip * 65536) || decide (bits m.task.policy 23 12 * e < flush * 65536)
    (hit = true) ∧ ((polObserve m.task.policy = false) ∧ ((m.escSrc = none) ∧ ((¬ ((descOf m.stDesc).turned = true ∧ narrower (mmaPacking m.op) m.op.tFmt (descOf m.stDesc).srcFmt = true)) ∧ (∃ src : List (List Nat), ∃ str : List (List Nat), ∃ s1 : State, ∃ s2 : State, 
    let p := mmaPacking m.op
    
    let sd := descOf m.tDesc
    
    let td := descOf m.stDesc
    
    let sN := narrower p m.op.sFmt sd.srcFmt
    
    let tN := narrower p m.op.tFmt td.srcFmt
    ((if sN = true then srcStationary (escCtx s core m) sd m.depth m.width s = (.ok src, s1) else s1 = s)) ∧ (((if tN = true then srcStream (escCtx s core m) td (redOf m) m.len m.vorg m.korg m.lanes s1 = (.ok str, s2) else s2 = s1))))))))))))))) ∧
    (∃ core : Nat, ∃ id : Nat, ∃ s : State, ∃ m : MmaRun, ((execOf s core).mmas.find? (fun m => m.id == id) = some m) ∧ ((m.phase = .stream) ∧ ((m.need = []) ∧ ((m.trigClip = false) ∧ ((m.trigFlush = false) ∧ ((m.op.esc = true) ∧ ((polEnables m.task.policy (mmaPacking m.op) = true) ∧ (
    let clip := m.tile.op.qClip + m.strm.qClip
    
    let flush := m.tile.op.qFlush + m.strm.qFlush
    
    let e := m.tile.op.qElems + m.strm.qElems
    
    let hit := decide (bits m.task.policy 11 0 * e < clip * 65536) || decide (bits m.task.policy 23 12 * e < flush * 65536)
    (hit = true) ∧ ((polObserve m.task.policy = false) ∧ ((m.escSrc = none) ∧ (((descOf m.stDesc).turned = true) ∧ ((narrower (mmaPacking m.op) m.op.tFmt (descOf m.stDesc).srcFmt = true))))))))))))) ∧
    (∃ core : Nat, ∃ id : Nat, ∃ s : State, ∃ m : MmaRun, ∃ rest : List MmaRun, ((execOf s core).mmas = m :: rest) ∧ ((m.id = id) ∧ ((m.phase = .drain) ∧ ((m.need = []) ∧ (((m.op.epi = false → (descOf m.dst).slm = false → (execOf s core).wb.length + ((liveRows m).map (fun v => (rowIns s m (v, outRow m v)).length)).sum ≤ 32 ∧ ∀ v ∈ liveRows m, ∀ w ∈ rowIns s m (v, outRow m v), storeBusy (execOf s core) [w.target] = false))))))) ∧
    (∃ core : Nat, ∃ id : Nat, ∃ s : State, ∃ m : MmaRun, ((execOf s core).mmas.find? (fun m => m.id == id) = some m) ∧ ((m.reexec = false))) ∧
    (∃ core : Nat, ∃ id : Nat, ∃ s : State, ∃ m : MmaRun, ((execOf s core).mmas.find? (fun m => m.id == id) = some m) ∧ ((m.reexec = true) ∧ (∃ g, ∃ b, ∃ n, (alFind (execOf s core).groups m.slot = some g) ∧ ((alFind (execOf s core).blocks g.block = some b) ∧ ((alFind s.fe.nodes b.task.node = some n) ∧ ((n.fail = none))))))) := by
  refine ⟨?_, ?_, ?_, ?_, ?_, ?_, ?_⟩
  · refine ⟨0, 1, 0, 5, sTurn, fillT.2, turn0, (okVal fillT fillT_ok).1, (okVal fillT fillT_ok).2.1, (okVal fillT fillT_ok).2.2, ?_, ?_, ?_, okPair_eq fillT_ok, ?_⟩ <;> decide +kernel
  · refine ⟨0, runM.id, inArray (mEsc (2 ^ 52 + 2 ^ 55 + 10)), mEsc (2 ^ 52 + 2 ^ 55 + 10), ?_, ?_, ?_, ?_, by decide +kernel, ?_, ?_, ?_⟩ <;> decide +kernel
  · refine ⟨0, runM.id, inArray (mEsc (2 ^ 52 + 10)), mEsc (2 ^ 52 + 10), ?_, ?_, ?_, ?_, by decide +kernel, ?_, ?_, ?_, ?_, ?_, ?_, okOf (srcT (mEsc (2 ^ 52 + 10))), okOf (srcU (mEsc (2 ^ 52 + 10))), (srcT (mEsc (2 ^ 52 + 10))).2, (srcU (mEsc (2 ^ 52 + 10))).2, by rw [if_pos (by decide +kernel)]; exact acc_ok (by decide +kernel), by rw [if_pos (by decide +kernel)]; exact acc_ok (by decide +kernel)⟩ <;> decide +kernel
  · refine ⟨0, runM.id, inArray { mEsc (2 ^ 52 + 10) with stDesc := slmDesc 0 128 3 17 }, { mEsc (2 ^ 52 + 10) with stDesc := slmDesc 0 128 3 17 }, ?_, ?_, ?_, ?_, by decide +kernel, ?_, ?_, ?_, ?_, ?_, ?_, ?_⟩ <;> decide +kernel
  · refine ⟨0, runM.id, inArray mOne, mOne, [], ?_, ?_, ?_, by decide +kernel, ?_⟩ <;> decide +kernel
  · refine ⟨0, runM.id, inArray runM, runM, ?_, ?_⟩ <;> decide +kernel
  · refine ⟨0, runM.id, inArray { runM with reexec := true }, { runM with reexec := true }, ?_, ?_, gM, bM, n0, ?_, ?_, ?_, ?_⟩ <;> decide +kernel

/-- The hypotheses of `Obligations.MisusedDescriptorsFault` can be met. -/
theorem witness_MisusedDescriptorsFault :
    ∃ i : Iss, ∃ op : MmaOp, ∃ s : State, ∃ c : Ctx, (((op.sFmt ≠ 14 ∧ op.tFmt ≠ 14) ∨ f64Absent s = false)) ∧ ((Issues s i c [] (mmaUniforms op) []) ∧ (((∀ q ∈ c.x.mmas, q.phase = .drain)) ∧ (((∀ l ∈ c.x.loads, l.slot ≠ c.slot)) ∧ ((((immU c op.shape) / 2 ^ 20 % 64 = 0 ∨ 32 < (immU c op.shape) / 2 ^ 20 % 64 ∨ 64 < (immU c op.shape) / 2 ^ 13 % 128 ∨ 4096 < (immU c op.shape) % 2 ^ 13 ∨ (32 < (immU c op.shape) / 2 ^ 13 % 128 ∧ (mmaPrep c op).hasS = true ∧ (mmaPrep c op).sd.sparse = false))))))) := by
  refine ⟨i0, bad0, sMm, cM, ?_, issues_of (by decide +kernel), ?_, ?_, by decide +kernel⟩ <;> decide +kernel

end W06

namespace W07
def ent (st : StashState) : StashEntry :=
  { part := 0, tenant := 0, tag := 5, stat := false, lines := 2, st := st, data := [(248, 7), (250, 9), (100, 3)] }
def part0 : Partition :=
  { granules := [0], dedicated := false, ways := false, mask := 0, keep := 0, stashMib := 1, rate := 0, burst := 0, rtRate := 0, rtBurst := 0 }
def sSt (e : StashEntry) : State :=
  { sGB { g1 with regs := [(2, 248), (34, 0xDEADBEEF), (66, 0x12345678)], uregs := [(2, 5)] } b1 with
    regions := [(0, { stash := [(3, ent .refused |> fun e => { e with tag := 4 }), (6, e)] })]
    sched := { parts := [(0, part0)] }
    fe.nodes := [(0, n0)] }
/-- An epilogue descriptor: RMS, one row of two features, statistics supplied. -/
def dE (mode width : Nat) : List Byte :=
  [BitVec.ofNat 8 mode, 0, 0, 0] ++ leBytes 2 1 ++ [0, 0] ++ leBytes 4 width ++ leBytes 4 0x3727C5AC ++ leBytes 8 0x4000 ++ leBytes 4 16 ++
    leBytes 2 0xFFFF ++ leBytes 2 0xFFFF ++ leBytes 8 0x5000 ++ leBytes 8 0x6000 ++ leBytes 8 0x7000 ++ leBytes 4 16 ++ leBytes 4 0 ++
    leBytes 8 0 ++ leBytes 8 0x20000 ++ List.replicate 48 0
def sE (mode width : Nat) : State :=
  let s := sM { g1 with uregs := [(2, 0x1000)] } b1
  { s with mem.mem := cellsAt 0x1000 (dE mode width) ++ cellsAt 0x4000 (leBytes 4 0x3F800000 ++ leBytes 4 0x40000000) ++
             cellsAt 0x5000 (leBytes 4 0x3F000000) ++ cellsAt 0x6000 (leBytes 4 0x3F800000 ++ leBytes 4 0x3F800000)
           units := 31
           fe.nodes := [(0, n0)] }
def rdE (s : State) : Acc (List Byte) × State :=
  let c := ctxOf s i0
  pathRead (issued s i0 c) c.core c.b.task.part c.b.task.tenant (uReg64 c 2) 128
def jobE : EpiJob :=
  { epiJobOf (sE 2 2) (ctxOf (sE 2 2) i0) 4 0x1000 9 (dE 2 2) with
    dy := [(0, 0x3F800000), (1, 0x40000000)], closed := true, stageInStash := false }
def sJ (j : EpiJob) : State := { sE 2 2 with clusters := [(0, { epi := [(2, j)] })] }
def isE : Issuer := { die := 0 / 24, node := jobE.task.node, id := jobE.eid }
abbrev EW := List (Nat × List Byte) × Acc Unit × State
def ewOk (x : EW) : Bool := x.1.isEmpty && (match x.2.1 with | .ok _ => true | _ => false)
theorem ew_ok {x : EW} (h : ewOk x = true) : x = ([], .ok (), x.2.2) := by
  obtain ⟨a, b, s⟩ := x
  cases a <;> cases b <;> simp_all [ewOk]
def jE1 : EpiJob := { jobE with phase := 1, out := engineCuts (stageRows jobE) }
def w1 : EW := engineWrites (putEpi (sJ jobE) 0 2 jE1) jobE.task isE jE1.out
def srcE : Acc (List (List Byte) × List (Option (XVal × XVal)) × List Byte) × State :=
  epiSources { w1.2.2 with freeCtr := w1.2.2.freeCtr + 1 } (0 / 6) { jE1 with out := [] } (Config.fresh w1.2.2.freeCtr)
theorem srcE_ok : isOk srcE = true := by decide +kernel
theorem srcE_eq : srcE = (.ok ((okVal srcE srcE_ok).1, (okVal srcE srcE_ok).2.1, (okVal srcE srcE_ok).2.2), srcE.2) := okVal_eq srcE_ok
def oE : List (Nat × List Byte) × Nat × Nat :=
  epiOutputs { jE1 with out := [] } (okVal srcE srcE_ok).1 (okVal srcE srcE_ok).2.1 (okVal srcE srcE_ok).2.2
def jE2 : EpiJob := { jE1 with phase := 2, out := engineCuts oE.1 }
def w2 : EW :=
  engineWrites (putEpi (bump (bump srcE.2 jobE.task.tenant 0x60138 oE.2.1) jobE.task.tenant 0x60140 oE.2.2) 0 2 jE2) jobE.task isE jE2.out
def jE3 : EpiJob := { jE2 with phase := 3, out := [(jobE.desc + 80, leBytes 8 (if jobE.statsAddr ≠ 0 then 2 else 0))] }
def w3 : EW := engineWrites (putEpi w2.2.2 0 2 jE3) jobE.task isE jE3.out
def pool0 : Pool :=
  { owner := 0, base := 0x100000, pages := 8, tpp := 16, maxSeq := 4, maxPages := 4, pageBytes := 65536,
    seqs := [(9, { len := 20, prio := 0, stamp := 0, slot := 1, pages := [5, 3] })] }
def sX : State :=
  { sGB { g3 with regs := [(0, 1), (1, 1), (2, 2), (32, 0), (33, 19), (34, 0)] } b3 with pools := [(0, pool0)] }
def sTr : State :=
  { sGB { g3 with regs := [(0, 1), (1, 1), (32, 7)] } b3 with
    units := 31
    dbg := { level := 2, traceCtl := 2 ^ 31 + 2 ^ 24 } }
/-- A core whose instruction store holds BRK at native offset 64. -/
def sBk (lv : Nat) : State :=
  let s := sGB g3 { b3 with task := { b3.task with image := 3, lines := [(0, 64), (16, 72)] } }
  { onCore s (fun x => { x with
      code := [(3, 1, List.replicate 16 0xFF)]
      istore := [(3, 66, 1)] }) with
    dbg := { level := lv, brkHit := 2 ^ 41 }
    fe.nodes := [(0, n0)] }
def sSq : State :=
  { onCore (sGB g3 b3) (fun x => { x with subs := [(3, 1, 66)] }) with clusters := [(0, { requests := [(3, 66, 1), (3, 66, 2)] })] }
/-- The hypotheses of `Obligations.StashInstructionsComplete` can be met. -/
theorem witness_StashInstructionsComplete :
    (∃ i : Iss, ∃ tag : ImmU, ∃ lines : ImmU, ∃ s : State, ∃ c : Ctx, (Issues s i c [] (immUse tag ++ immUse lines) []) ∧ ((c.act ≠ []))) ∧
    (∃ i : Iss, ∃ size : Nat, ∃ tag : ImmU, ∃ off : Opd, ∃ v : Opd, ∃ s : State, ∃ c : Ctx, ∃ k : Nat, ∃ l : Nat, ∃ e : StashEntry, (Issues s i c [] (immUse tag ++ [off] ++ spanOpds v size) []) ∧ ((stashOf s (coreRegion i.core) c.b.task.part (immU c tag) = some (k, e)) ∧ ((c.act = [l]) ∧ (((opdLane c off l).toNat + size ≤ e.lines * 128) ∧ (((opdBytes c v size l).length = size) ∧ ((e.st = .opened))))))) ∧
    (∃ i : Iss, ∃ size : Nat, ∃ tag : ImmU, ∃ off : Opd, ∃ v : Opd, ∃ s : State, ∃ c : Ctx, ∃ k : Nat, ∃ l : Nat, ∃ e : StashEntry, (Issues s i c [] (immUse tag ++ [off] ++ spanOpds v size) []) ∧ ((stashOf s (coreRegion i.core) c.b.task.part (immU c tag) = some (k, e)) ∧ ((c.act = [l]) ∧ (((opdLane c off l).toNat + size ≤ e.lines * 128) ∧ (((opdBytes c v size l).length = size) ∧ ((e.st ≠ .opened))))))) ∧
    (∃ i : Iss, ∃ tag : ImmU, ∃ s : State, ∃ c : Ctx, ∃ k : Nat, ∃ e : StashEntry, (Issues s i c [] (immUse tag) []) ∧ ((c.act ≠ []) ∧ ((stashOf s (coreRegion i.core) c.b.task.part (immU c tag) = some (k, e)) ∧ ((e.st = .opened))))) ∧
    (∃ i : Iss, ∃ tag : ImmU, ∃ s : State, ∃ c : Ctx, ∃ k : Nat, ∃ e : StashEntry, (Issues s i c [] (immUse tag) []) ∧ ((c.act ≠ []) ∧ ((stashOf s (coreRegion i.core) c.b.task.part (immU c tag) = some (k, e))))) ∧
    (∃ i : Iss, ∃ size : Nat, ∃ v : Nat, ∃ tag : ImmU, ∃ off : Opd, ∃ s : State, ∃ c : Ctx, (Issues s i c ((List.range (max 1 (size / 4))).map (v + ·)) (immUse tag ++ [off]) []) ∧ ((size ∈ [4, 8, 16]) ∧ (∃ k, ∃ e, (stashOf s (coreRegion i.core) c.b.task.part (immU c tag) = some (k, e)) ∧ ((e.st = .sealed) ∧ (((∀ l ∈ c.act, (opdLane c off l).toNat + size ≤ e.lines * 128 ∧ stashBad e (opdLane c off l).toNat size = false))))))) ∧
    (∃ i : Iss, ∃ size : Nat, ∃ v : Nat, ∃ tag : ImmU, ∃ off : Opd, ∃ s : State, ∃ c : Ctx, (Issues s i c ((List.range (max 1 (size / 4))).map (v + ·)) (immUse tag ++ [off]) []) ∧ ((size ∈ [4, 8, 16]) ∧ (((∀ k e, stashOf s (coreRegion i.core) c.b.task.part (immU c tag) = some (k, e) → e.st ≠ .sealed))))) := by
  refine ⟨?_, ?_, ?_, ?_, ?_, ?_, ?_⟩
  · exact ⟨i0, .imm 5, .imm 8192, sSt (ent .opened), ctxOf (sSt (ent .opened)) i0, issues_of (by decide +kernel), by decide +kernel⟩
  · refine ⟨i0, 8, .u 2, .v 0, .v 1, sSt (ent .opened), ctxOf (sSt (ent .opened)) i0, 6, 2, ent .opened, issues_of (by decide +kernel), ?_, ?_, ?_, ?_, ?_⟩ <;> decide +kernel
  · refine ⟨i0, 8, .u 2, .v 0, .v 1, sSt (ent .refused), ctxOf (sSt (ent .refused)) i0, 6, 2, ent .refused, issues_of (by decide +kernel), ?_, ?_, ?_, ?_, ?_⟩ <;> decide +kernel
  · refine ⟨i0, .imm 5, sSt (ent .opened), ctxOf (sSt (ent .opened)) i0, 6, ent .opened, issues_of (by decide +kernel), ?_, by decide +kernel, ?_⟩ <;> decide +kernel
  · refine ⟨i0, .imm 5, sSt { ent .sealed with refs := 1 }, ctxOf (sSt { ent .sealed with refs := 1 }) i0, 6, { ent .sealed with refs := 1 }, issues_of (by decide +kernel), ?_, by decide +kernel⟩ <;> decide +kernel
  · refine ⟨i0, 4, 3, .imm 5, .imm 248, sSt (ent .sealed), ctxOf (sSt (ent .sealed)) i0, issues_of (by decide +kernel), by decide +kernel, 6, ent .sealed, ?_, ?_, ?_⟩ <;> decide +kernel
  · exact ⟨i0, 16, 3, .imm 5, .imm 248, sSt (ent .opened), ctxOf (sSt (ent .opened)) i0, issues_of (by decide +kernel), by decide +kernel, (by intro k e h; rw [show stashOf (sSt (ent .opened)) (coreRegion i0.core) (ctxOf (sSt (ent .opened)) i0).b.task.part (immU (ctxOf (sSt (ent .opened)) i0) (.imm 5)) = some (6, ent .opened) from (by decide +kernel)] at h; cases h; decide)⟩

/-- The hypotheses of `Obligations.MisusedDescriptorsFault` can be met. -/
theorem witness_MisusedDescriptorsFault :
    (∃ i : Iss, ∃ size : Nat, ∃ tag : ImmU, ∃ off : Opd, ∃ w : Opd, ∃ s : State, ∃ c : Ctx, ∃ k : Nat, ∃ e : StashEntry, (stashOf s (coreRegion i.core) c.b.task.part (immU c tag) = some (k, e)) ∧ (((∃ l ∈ c.act, e.lines * 128 < (opdLane c off l).toNat + size)) ∧ ((Issues s i c [] (immUse tag ++ [off] ++ spanOpds w size) [])))) ∧
    (∃ i : Iss, ∃ size : Nat, ∃ v : Nat, ∃ tag : ImmU, ∃ off : Opd, ∃ s : State, ∃ c : Ctx, ∃ k : Nat, ∃ e : StashEntry, (stashOf s (coreRegion i.core) c.b.task.part (immU c tag) = some (k, e)) ∧ (((∃ l ∈ c.act, e.lines * 128 < (opdLane c off l).toNat + size)) ∧ ((e.st = .sealed) ∧ ((Issues s i c ((List.range (max 1 (size / 4))).map (v + ·)) (immUse tag ++ [off]) []))))) := by
  refine ⟨?_, ?_⟩
  · refine ⟨i0, 8, .imm 5, .imm 249, .v 1, sSt (ent .opened), ctxOf (sSt (ent .opened)) i0, 6, ent .opened, ?_, ?_, issues_of (by decide +kernel)⟩ <;> decide +kernel
  · refine ⟨i0, 8, 3, .imm 5, .imm 249, sSt (ent .sealed), ctxOf (sSt (ent .sealed)) i0, 6, ent .sealed, ?_, ?_, ?_, issues_of (by decide +kernel)⟩ <;> decide +kernel

/-- The hypotheses of `Obligations.EpilogueJobsComplete` can be met. -/
theorem witness_EpilogueJobsComplete :
    (∃ i : Iss, ∃ job : Nat, ∃ u : Nat, ∃ s : State, ∃ s1 : State, ∃ c : Ctx, ∃ b : List Byte, (Issues s i c [] [.u u, .u (u + 1)] []) ∧ ((c.act ≠ []) ∧ ((memReady c = true) ∧ ((uReg64 c u % 128 = 0) ∧ ((descRead (issued s i c) c (uReg64 c u) = (.ok b, s1)) ∧ ((epiBad b = false) ∧ ((fieldAt b 8 4 ≤ 65536) ∧ ((s.units.testBit 0 = true) ∧ ((epiOf s c.core job = none)))))))))) ∧
    (∃ i : Iss, ∃ u : Nat, ∃ s : State, ∃ s1 : State, ∃ c : Ctx, ∃ b : List Byte, (Issues s i c [] [.u u, .u (u + 1)] []) ∧ ((c.act ≠ []) ∧ ((memReady c = true) ∧ ((uReg64 c u % 128 = 0) ∧ ((descRead (issued s i c) c (uReg64 c u) = (.ok b, s1)) ∧ ((epiBad b = false) ∧ (((65536 < fieldAt b 8 4 ∨ s.units.testBit 0 = false))))))))) ∧
    (∃ i : Iss, ∃ u : Nat, ∃ s : State, ∃ s1 : State, ∃ c : Ctx, ∃ b : List Byte, (Issues s i c [] [.u u, .u (u + 1)] []) ∧ ((c.act ≠ []) ∧ ((memReady c = true) ∧ ((uReg64 c u % 128 = 0) ∧ ((descRead (issued s i c) c (uReg64 c u) = (.ok b, s1)) ∧ ((epiBad b = true))))))) ∧
    (∃ cluster : Nat, ∃ ctx : Nat, ∃ s : State, ∃ s1 : State, ∃ s2 : State, ∃ s3 : State, ∃ s4 : State, ∃ j : EpiJob, ∃ xs : List (List Byte), ∃ st : List (Option (XVal × XVal)), ∃ g : List Byte, (alFind (clusterOf s cluster).epi ctx = some j) ∧ ((j.closed = true) ∧ ((j.saved = false) ∧ ((j.phase = 0) ∧ ((j.out = []) ∧ (
    let e : Issuer := { die := cluster / 24, node := j.task.node, id := j.eid }
    
    let j1 := { j with phase := 1, out := engineCuts (stageRows j) }
    ((engineWrites (putEpi s cluster ctx j1) j.task e j1.out = ([], .ok (), s1))) ∧ (((epiSources { s1 with freeCtr := s1.freeCtr + 1 } (cluster / 6) { j1 with out := [] } (Config.fresh s1.freeCtr) = (.ok (xs, st, g), s2))) ∧ (
    let o := epiOutputs { j1 with out := [] } xs st g
    
    let j2 := { j1 with phase := 2, out := engineCuts o.1 }
    ((engineWrites (putEpi (bump (bump s2 j.task.tenant 0x60138 o.2.1) j.task.tenant 0x60140 o.2.2) cluster ctx j2) j.task e j2.out = ([], .ok (), s3))) ∧ ((engineOut s3 .engine j.eid = 0) ∧ (
    let result := (if j.statEntry.isSome then 1 else if j.statsAddr ≠ 0 then 2 else 0) + 4 * b2n (j.xEntry.isSome && !j.zDrain) +
      8 * b2n j.stageInStash + 16 * b2n j.bad
    
    let j3 := { j2 with phase := 3, out := [(j.desc + 80, leBytes 8 result)] }
    ((engineWrites (putEpi s3 cluster ctx j3) j.task e j3.out = ([], .ok (), s4))) ∧ ((engineOut s4 .engine j.eid = 0)))))))))))) ∧
    (∃ i : Iss, ∃ job : Nat, ∃ s : State, ∃ c : Ctx, (Issues s i c [] [] []) ∧ ((c.act ≠ []) ∧ ((epiOf s c.core job = none)))) ∧
    (∃ i : Iss, ∃ job : Nat, ∃ s : State, ∃ c : Ctx, (Issues s i c [] [] []) ∧ ((c.act ≠ []) ∧ ((epiOf s c.core job ≠ none)))) := by
  refine ⟨?_, ?_, ?_, ?_, ?_, ?_⟩
  · refine ⟨i0, 4, 2, sE 2 65536, (rdE (sE 2 65536)).2, ctxOf (sE 2 65536) i0, okOf (rdE (sE 2 65536)), issues_of (by decide +kernel), by decide +kernel, ?_, ?_, acc_ok (by decide +kernel), ?_, ?_, ?_, ?_⟩ <;> decide +kernel
  · refine ⟨i0, 2, sE 2 65537, (rdE (sE 2 65537)).2, ctxOf (sE 2 65537) i0, okOf (rdE (sE 2 65537)), issues_of (by decide +kernel), ?_, by decide +kernel, ?_, acc_ok (by decide +kernel), ?_, ?_⟩ <;> decide +kernel
  · refine ⟨i0, 2, sE 0 5, (rdE (sE 0 5)).2, ctxOf (sE 0 5) i0, okOf (rdE (sE 0 5)), issues_of (by decide +kernel), ?_, by decide +kernel, ?_, acc_ok (by decide +kernel), ?_⟩ <;> decide +kernel
  · refine ⟨0, 2, sJ jobE, w1.2.2, srcE.2, w2.2.2, w3.2.2, jobE, (okVal srcE srcE_ok).1, (okVal srcE srcE_ok).2.1, (okVal srcE srcE_ok).2.2, ?_, ?_, ?_, ?_, ?_, ew_ok (x := w1) (by decide +kernel), srcE_eq, ew_ok (x := w2) (by decide +kernel), ?_, ew_ok (x := w3) (by decide +kernel), ?_⟩ <;> decide +kernel
  · refine ⟨i0, 4, sE 2 2, ctxOf (sE 2 2) i0, issues_of (by decide +kernel), ?_, ?_⟩ <;> decide +kernel
  · refine ⟨i0, 4, sJ jobE, ctxOf (sJ jobE) i0, issues_of (by decide +kernel), ?_, ?_⟩ <;> decide +kernel

/-- The hypotheses of `Obligations.BenchAddressesMarksAndBreakpoints` can be met. -/
theorem witness_BenchAddressesMarksAndBreakpoints :
    (∃ i : Iss, ∃ d : Nat, ∃ slot : Opd, ∃ token : Opd, ∃ s : State, ∃ c : Ctx, (Issues s i c [d, d + 1] [slot, token] [])) ∧
    (∃ i : Iss, ∃ id : ImmU, ∃ a : Opd, ∃ s : State, ∃ c : Ctx, (Issues s i c [] (immUse id) [a])) ∧
    (∃ core : Nat, ∃ slot : Nat, ∃ npc : Nat, ∃ s : State, ∃ c : Ctx, (issue s { core := core, slot := slot, guarded := false, negated := false, guard := 0, nx := 0 } = some c) ∧ ((npc ∈ nativeSpan c.b.task c.p.pc) ∧ ((isBrk c.x c.b.task.image npc = true) ∧ (((c.b.task.image, c.b.task.variant, npc / 64) ∈ c.x.istore) ∧ ((s.dbg.level = 2 ∧ inScope s c.b.task.tenant = true)))))) ∧
    (∃ core : Nat, ∃ slot : Nat, ∃ npc : Nat, ∃ s : State, ∃ c : Ctx, (issue s { core := core, slot := slot, guarded := false, negated := false, guard := 0, nx := 0 } = some c) ∧ ((npc ∈ nativeSpan c.b.task c.p.pc) ∧ ((isBrk c.x c.b.task.image npc = true) ∧ (((c.b.task.image, c.b.task.variant, npc / 64) ∈ c.x.istore) ∧ ((¬ (s.dbg.level = 2 ∧ inScope s c.b.task.tenant = true))))))) ∧
    (∃ cluster : Nat, ∃ core : Nat, ∃ s : State, ∃ l : Nat × Nat × Nat, ∃ rest : List (Nat × Nat × Nat), ((clusterOf s cluster).requests = l :: rest) ∧ ((core / 8 = cluster) ∧ (((∃ t ∈ (execOf s core).subs, t.1 = l.1 ∧ t.2.2 = l.2.1)) ∧ (((clusterOf s cluster).power ≠ .retention) ∧ (((clusterOf s cluster).wakeAt ≤ s.time)))))) := by
  refine ⟨?_, ?_, ?_, ?_, ?_⟩
  · exact ⟨i0, 4, .v 0, .v 1, sX, ctxOf sX i0, issues_of (by decide +kernel)⟩
  · exact ⟨i0, .imm 3, .v 0, sTr, ctxOf sTr i0, issues_of (by decide +kernel)⟩
  · refine ⟨0, 0, 64, sBk 2, ctxOf (sBk 2) i0, issue_of (i := i0) (by decide +kernel), ?_, ?_, by decide +kernel, ?_⟩ <;> decide +kernel
  · refine ⟨0, 0, 64, sBk 1, ctxOf (sBk 1) i0, issue_of (i := i0) (by decide +kernel), ?_, ?_, by decide +kernel, ?_⟩ <;> decide +kernel
  · refine ⟨0, 0, sSq, (3, 66, 1), [(3, 66, 2)], ?_, ?_, ?_, by decide +kernel, ?_⟩ <;> decide +kernel

end W07

namespace W08
/-- The ring of function 0, and host memory. -/
def sRing (r : Ring) (hm : List (Nat × Byte)) (qs : AL Queue) : State :=
  { run0 with
    fns := [(0, { ring := r })]
    host := { mem := hm }
    mem := mem0
    fe.queues := qs
    sched.tenants := [(0, { part := 0, coresMax := 4, memQuota := 0 })] }
def ring0 : Ring := { configured := true, base := 0x8000, sizeLog2 := 6, ctrl := 0x9000, head := 15 }
def entB (q : Nat) (kind flags : Byte) : List Byte :=
  leBytes 2 q ++ [kind, flags] ++ leBytes 4 192 ++ leBytes 8 0x1000 ++ leBytes 8 77 ++ List.replicate 8 0
def ringA : Ring := { ring0 with awake := true, tail := some 17, passDb := some 3 }
def sEnt (b : List Byte) : State := sRing ringA (cellsAt 0x81E0 b) [(5, { q0 with st := .idle })]
/-- A queue that waits after a full ring; its consumer count stands in device memory. -/
def qFull : Queue := { q0 with st := .logging, reason := .ringFull, prod := 64, cons := 0 }
def sFull : State :=
  let s := sRing ring0 [] [(5, qFull)]
  { s with mem.mem := [(0x20000, 9)], time := 20000 }
def rcF : Acc Unit × State := readConsumer (postHost sFull [(0x9000, 1)]) 5 qFull
def sWake (tail : Nat) : State := sRing { ring0 with woken := true, dbTime := some 4 } (cellsAt 0x9000 (leBytes 4 tail)) []
def rtW (tail : Nat) : Acc Nat × State :=
  readTail (modRing (sWake tail) 0 (fun r => { r with awake := true, pend := false, woken := false, tail := none, tailDue := false })) 0 (fnOf (sWake tail) 0).ring.ctrl
def sEnd : State := sRing { ring0 with awake := true, tail := some 15 } (cellsAt 0x9000 (leBytes 4 15)) []
def whE : Acc Unit × State := writeHead sEnd 0
def rtE : Acc Nat × State :=
  readTail (modRing whE.2 0 (fun r => { r with awake := false, tail := none, headDue := false, tailDue := true })) 0 0x9000
def sOver : State := sRing { ring0 with overrun := true } [] []
def sCfg : State :=
  asks (sRing { ring0 with overrun := true } (cellsAt 0x9000 (leBytes 4 80)) []) 0 0x0100 0
    (leBytes 8 0xA000 ++ [7] ++ List.replicate 7 0 ++ leBytes 8 0x9000)
def rtC : Acc Nat × State := readTail (carried sCfg 0) 0 ((rqOf sCfg 0).f 16 8)
def sSlots : State :=
  sRing ring0 [] [(5, { q0 with st := .waitSlot, entries := [{ re0 with order := 4 }] }), (6, { q0 with st := .active, slot := some 0 }),
    (7, { q0 with st := .waitSlot, entries := [{ re0 with order := 3 }] })]
def sJob : State := sRing ring0 [] [(5, { q0 with st := .active, slot := some 0, entries := [re0] })]
def gHdr : List Byte :=
  leBytes 4 0x48505247 ++ leBytes 2 1 ++ leBytes 2 1 ++ leBytes 4 192 ++ List.replicate 52 0
def jG : Job := { queue := 5, fn := 0, tenant := 0, part := 0, entry := re0, graphAddr := 0x1000, graphLen := 192 }
def qG : Queue := { q0 with st := .active, slot := some 0, entries := [re0], job := some 2 }
def sG (kind : Byte) : State :=
  let s := sRing ring0 [] [(5, qG)]
  { s with
    mem.mem := cellsAt 0x1000 (gHdr ++ [kind] ++ List.replicate 127 0)
    fe.jobs := [(2, jG)]
    fe.nextNode := 9 }
def rgG (kind : Byte) : Acc (List Byte) × State := readGraph (sG kind) jG
/-- The hypotheses of `Obligations.FetcherStopsOnOverrun` can be met. -/
theorem witness_FetcherStopsOnOverrun :
    (∃ fn : Nat, ∃ s : State, ∃ s1 : State, (fn < 1024) ∧ (((fnOf s fn).ring.configured = true) ∧ (((fnOf s fn).ring.overrun = false) ∧ ((frontStopped s = false) ∧ ((fetchTurn s fn = true) ∧ (((fnOf s fn).ring.faultDue = false) ∧ (((fnOf s fn).ring.tailDue = false) ∧ (∃ x, ((fnOf s fn).ring.awake = false) ∧ (((fnOf s fn).ring.woken = true) ∧ ((readTail (modRing s fn (fun r => { r with awake := true, pend := false, woken := false, tail := none, tailDue := false })) fn (fnOf s fn).ring.ctrl = (x, s1)))))))))))) ∧
    (∃ fn : Nat, ∃ s : State, ∃ s1 : State, (fn < 1024) ∧ (((fnOf s fn).ring.configured = true) ∧ (((fnOf s fn).ring.overrun = false) ∧ ((frontStopped s = false) ∧ ((fetchTurn s fn = true) ∧ (((fnOf s fn).ring.faultDue = false) ∧ (((fnOf s fn).ring.tailDue = false) ∧ (∃ x, ∃ y, ∃ s2, ((fnOf s fn).ring.awake = true) ∧ (((fnOf s fn).ring.tail = some (fnOf s fn).ring.head) ∧ (((fnOf s fn).ring.pend = false) ∧ ((writeHead s fn = (y, s1)) ∧ ((y ≠ .wait) ∧ ((readTail (modRing s1 fn (fun r => { r with awake := false, tail := none, headDue := false, tailDue := true })) fn (fnOf s fn).ring.ctrl = (x, s2))))))))))))))) ∧
    (∃ fn : Nat, ∃ s : State, ((fnOf s fn).ring.overrun = true) ∧ (((fnOf s fn).ring.tail = none))) ∧
    (∃ fn : Nat, ∃ s : State, ((fnOf s fn).ring.overrun = true) ∧ (((fnOf s fn).ring.tail = none))) ∧
    (∃ f : Nat, ∃ x : Acc Nat, ∃ r : Req, ∃ s : State, ∃ s1 : State, ∃ s2 : State, (Carries s f 0x0100 r s1) ∧ ((r.f 0 8 % 4096 = 0) ∧ ((6 ≤ r.f 8 1) ∧ ((r.f 8 1 ≤ 16) ∧ ((r.f 16 8 % 64 = 0) ∧ ((readTail s1 f (r.f 16 8) = (x, s2)))))))) := by
  refine ⟨?_, ?_, ?_, ?_, ?_⟩
  · refine ⟨0, sWake 80, (rtW 80).2, ?_, ?_, ?_, ?_, ?_, by decide +kernel, ?_, (rtW 80).1, ?_, ?_, rfl⟩ <;> decide +kernel
  · refine ⟨0, sEnd, whE.2, ?_, ?_, ?_, ?_, ?_, by decide +kernel, ?_, rtE.1, whE.1, rtE.2, ?_, ?_, ?_, rfl, not_wait (x := whE) (by decide +kernel), rfl⟩ <;> decide +kernel
  · refine ⟨0, sOver, ?_, ?_⟩ <;> decide +kernel
  · refine ⟨0, sOver, ?_, ?_⟩ <;> decide +kernel
  · refine ⟨0, rtC.1, rqOf sCfg 0, sCfg, carried sCfg 0, rtC.2, carries_of (by decide +kernel), ?_, by decide +kernel, ?_, ?_, rfl⟩ <;> decide +kernel

/-- The hypotheses of `Obligations.DoorbellsAndRingEntries` can be met. -/
theorem witness_DoorbellsAndRingEntries :
    (∃ fn : Nat, ∃ s : State, (HostMay s fn) ∧ ((fn < 1024) ∧ (((fnOf s fn).ring.configured = true) ∧ ((frontStopped s = false))))) ∧
    (∃ fn : Nat, ∃ qi : Nat, ∃ posted : Posted, ∃ s : State, ∃ s1 : State, ∃ q : Queue, ∃ q1 : Queue, (frontStopped s = false) ∧ ((alFind s.fe.queues qi = some q) ∧ ((q.reason = .ringFull) ∧ ((readConsumer (postHost s posted) qi q = (.ok (), s1)) ∧ ((alFind s1.fe.queues qi = some q1) ∧ ((HostMay s fn) ∧ ((fn < 1024) ∧ ((s.fe.queues.filter (fun e => e.2.fn == fn) = [(qi, q)]))))))))) ∧
    (∃ qi : Nat, ∃ posted : Posted, ∃ s : State, ∃ s1 : State, ∃ q : Queue, ∃ q1 : Queue, (frontStopped s = false) ∧ ((alFind s.fe.queues qi = some q) ∧ ((q.reason = .ringFull) ∧ ((readConsumer (postHost s posted) qi q = (.ok (), s1)) ∧ ((alFind s1.fe.queues qi = some q1) ∧ ((q.polled + 10000 ≤ s.time))))))) ∧
    (∃ fn : Nat, ∃ t : Nat, ∃ a : Nat, ∃ x : Acc (List Byte), ∃ s : State, ∃ s1 : State, ∃ s2 : State, ((fnOf s fn).ring.configured = true) ∧ (((fnOf s fn).ring.awake = true) ∧ (((fnOf s fn).ring.tail = some t) ∧ ((t ≠ (fnOf s fn).ring.head) ∧ (((fnOf s fn).ring.headDue = false) ∧ (((fnOf s fn).ring.faultDue = false) ∧ (((fnOf s fn).ring.entry = none) ∧ ((fetchTurn s fn = true) ∧ ((hostXlat s fn none ((fnOf s fn).ring.base + 32 * ((fnOf s fn).ring.head % 2 ^ (fnOf s fn).ring.sizeLog2)) false = (.ok a, s1)) ∧ ((hostBytes s1 a 32 = (x, s2)))))))))))) := by
  refine ⟨?_, ?_, ?_, ?_⟩
  · refine ⟨0, sRing ring0 [] [], by unfold HostMay; decide +kernel, ?_, ?_, ?_⟩ <;> decide +kernel
  · refine ⟨0, 5, [(0x9000, 1)], sFull, rcF.2, qFull, (alFind rcF.2.fe.queues 5).getD qFull, ?_, by decide +kernel, ?_, acc_unit (by decide +kernel), ?_, by unfold HostMay; decide +kernel, ?_, ?_⟩ <;> decide +kernel
  · refine ⟨5, [(0x9000, 1)], sFull, rcF.2, qFull, (alFind rcF.2.fe.queues 5).getD qFull, ?_, ?_, by decide +kernel, acc_unit (by decide +kernel), ?_, ?_⟩ <;> decide +kernel
  · refine ⟨0, 17, 0x81E0, (hostBytes (sEnt (entB 5 1 1)) 0x81E0 32).1, sEnt (entB 5 1 1), sEnt (entB 5 1 1), (hostBytes (sEnt (entB 5 1 1)) 0x81E0 32).2, ?_, by decide +kernel, ?_, ?_, ?_, ?_, ?_, ?_, by rfl, rfl⟩ <;> decide +kernel

/-- The hypotheses of `Obligations.SlotsJobsAndGraphs` can be met. -/
theorem witness_SlotsJobsAndGraphs :
    (∃ queue : Nat, ∃ k : Nat, ∃ s : State, ∃ q : Queue, (alFind s.fe.queues queue = some q) ∧ ((nextForSlot s = some queue) ∧ ((q.st = .waitSlot) ∧ ((frontStopped s = false) ∧ ((slotFor s q.cls = some k)))))) ∧
    (∃ queue : Nat, ∃ part : Nat, ∃ s : State, ∃ q : Queue, ∃ e : RingEntry, ∃ rest : List RingEntry, (alFind s.fe.queues queue = some q) ∧ ((q.st = .active) ∧ ((q.job = none) ∧ ((q.entries = e :: rest) ∧ ((frontStopped s = false) ∧ ((partOf s q.fn = some part))))))) ∧
    (∃ queue : Nat, ∃ k : Nat, ∃ s : State, ∃ s1 : State, ∃ q : Queue, ∃ j : Job, ∃ b : List Byte, ∃ shared : Bool, (alFind s.fe.queues queue = some q) ∧ ((q.job = some k) ∧ ((alFind s.fe.jobs k = some j) ∧ ((j.fail = none) ∧ ((entryHeld s j = false) ∧ ((parseTurn s queue q = true) ∧ ((j.phase = .started) ∧ ((j.nextNode = 0) ∧ ((j.doneNodes = []) ∧ ((graphRefBad j.graphAddr j.graphLen = false) ∧ ((readGraph s j = (.ok b, s1)) ∧ ((headerBad (b.take 64) j.graphLen (q.cls == .rt) = false) ∧ ((fieldAt b 6 2 = 1) ∧ ((192 ≤ b.length) ∧ ((fieldAt b 72 2 = 0) ∧ ((nodeRoom s k = some shared))))))))))))))))) := by
  refine ⟨?_, ?_, ?_⟩
  · refine ⟨7, 4, sSlots, { q0 with st := .waitSlot, entries := [{ re0 with order := 3 }] }, ?_, ?_, ?_, ?_, by decide +kernel⟩ <;> decide +kernel
  · refine ⟨5, 0, sJob, { q0 with st := .active, slot := some 0, entries := [re0] }, re0, [], ?_, ?_, by decide +kernel, ?_, ?_, ?_⟩ <;> decide +kernel
  · refine ⟨5, 2, sG 0, (rgG 0).2, qG, jG, okOf (rgG 0), false, by decide +kernel, ?_, ?_, ?_, ?_, ?_, ?_, ?_, ?_, by decide +kernel, acc_ok (by decide +kernel), ?_, ?_, ?_, ?_, ?_⟩ <;> decide +kernel

end W08

namespace W09
def part9 : Partition :=
  { granules := [0, 1], dedicated := false, ways := true, mask := 0xF, keep := 0, stashMib := 1, rate := 0, burst := 0, rtRate := 0,
    rtBurst := 0, served := some 1 }
def core9 : Core := { present := true, power := .active }
def ten9 : Tenant := { part := 0, coresMax := 2, memQuota := 0 }
/-- Cores 0, 1, 2 and the reserve core 7 in one partition. -/
def s9 : State :=
  { run0 with
    cores := [(0, core9), (1, core9), (2, core9), (7, core9)]
    sched := { parts := [(0, part9)], tenants := [(0, ten9)], n := 1 }
    mem := mem0 }
def jP : Job := { j0 with queue := 5, phase := .parsing, nodes := 2 }
def sPl (cls : QClass) : State :=
  { s9 with
    cores := [(0, { core9 with owner := some 8 }), (1, core9), (2, core9), (7, core9)]
    fe := { queues := [(5, { q0 with cls := cls, st := .active, rtCores := 3 })], jobs := [(2, jP)] } }
def sSw : State :=
  { s9 with
    cores := [(0, { core9 with exec := { l1 := [(3, { target := .loc 0x10080, data := 1, age := 1, stream := false, stamp := 0 })] } })]
    sched := { parts := [(0, part9)], tenants := [(0, ten9)], strict := true }
    regions := [(0, { lines := [(16, { tag := 0, data := 0xFF00, age := 1, dirty := true, keep := false, part := 0, poison := 0, pa := 0x10080 })] })] }
def sTurn9 : State :=
  { s9 with cores := [(0, { core9 with owner := some 1, hold := .chosen 4, exec := { blocks := [(0, b3)], groups := [(0, g3)] } }),
      (1, { core9 with owner := some 1, hold := .chosen 4 })] }
def wSent : WbEntry := { id := 3, target := .loc 0x10080, tenant := 0, part := 0, mask := 0xF0, data := 0xAA00000000, sent := true }
def ldR : Load :=
  { id := 8, slot := 0, pc := 16, dst := 4, size := 16, hint := .plain, target := .remote 3 0x80, tenant := 0, part := 0,
    lanes := [{ lane := 2, off := 0, n := 16, pos := 112 }] }
def txn9 (parked : Bool) : Txn :=
  { die := 0, tag := 9, core := 0, kind := .load, id := 8, tenant := 0, node := 0, target := .remote 3 0x80, since := 0, parked := parked }
def x9 : Exec := { blocks := [(0, b3)], groups := [(0, g3)], loads := [ldR], wb := [wSent] }
def sSave : State :=
  { s9 with
    cores := [(0, { core9 with owner := some 1, hold := .saving 4, exec := x9 })]
    regions := [(0, { turn := 1 })]
    links.txns := [txn9 false]
    fe.nodes := [(0, n0)] }
def sPark : State := { s9 with cores := [(0, { core9 with hold := .lent 4 })], saved := [(0, x9)], links.txns := [txn9 true] }
def sRest : State := { s9 with cores := [(0, { core9 with owner := some 1, hold := .lent 4 })], saved := [(0, x9)] }
def sRst : State :=
  { s9 with
    time := 500
    cores := [(0, { core9 with draining := true, resetNode := some 0, resetAt := 0, exec := { x9 with wb := [wSent, { wSent with id := 4 }] } })]
    fe.nodes := [(0, { n0 with aux1 := 6 })] }
def jD : Job := { j0 with queue := 5, phase := .placed, nodes := 2, cores := [0, 1] }
def ker9 : Kernel := { nregs := 32, slmKib := 4, maxThreads := 256, entry := 64, recon := [], lines := [(64, 128)] }
/-- A node's descriptor: kind, flags, and 8 bytes at 56. -/
def nd (kind flags : Byte) (rest : List Byte) : List Byte :=
  [kind, flags] ++ List.replicate 54 0 ++ rest ++ List.replicate (72 - rest.length) 0
def dKer : List Byte := nd 1 0 (leBytes 8 3 ++ leBytes 4 0 ++ leBytes 4 2 ++ leBytes 2 40 ++ [1])
def dRng : List Byte := nd 2 0 (leBytes 8 0x10000 ++ leBytes 8 256 ++ [1])
def dCpy : List Byte := nd 3 0 (leBytes 8 0x10000 ++ leBytes 8 0x20000 ++ leBytes 8 256)
def sDsp (d : List Byte) (ph : NodePhase) : State :=
  { s9 with
    cores := [(0, { core9 with owner := some 2 }), (1, { core9 with owner := some 2 })]
    images := [(3, { tenant := 0, kernels := [ker9], bytes := 100, region := [0] })]
    fe := { queues := [(5, { q0 with st := .active })], jobs := [(2, jD)],
            nodes := [(4, { n0 with job := 2, queue := 5, phase := ph, desc := d })] } }
def nD (d : List Byte) (ph : NodePhase) : Node := { n0 with job := 2, queue := 5, phase := ph, desc := d }
def nF (flags : Byte) : Node :=
  { n0 with job := 2, queue := 5, phase := .finished, desc := [0, flags] ++ List.replicate 32 0 ++ leBytes 2 70 ++ List.replicate 12 0 ++ leBytes 8 77 ++ List.replicate 72 0 }
def qF : Queue := { q0 with st := .active, prod := 65, cons := 3 }
def sFin (flags : Byte) : State :=
  { s9 with
    mem.ctls := [(0, { present := true, regs := [(0, { credit := 8, rtCredit := 8 })] })]
    fe := { queues := [(5, qF)], jobs := [(2, jD)], nodes := [(4, nF flags)], grants := [(1, 0)] } }
/-- The hypotheses of `Obligations.JobsArePlaced` can be met. -/
theorem witness_JobsArePlaced :
    (∃ part : Nat, ∃ k : Nat, ∃ s : State, ∃ j : Job, ∃ tn : Tenant, (firstJob s ((waitingJobs s part).filter (fun e => jobClass s e.2 != .rt)) = some (k, j)) ∧ ((alFind s.fe.jobs k = some j) ∧ ((alFind s.sched.tenants j.tenant = some tn) ∧ ((j.phase = .parsing) ∧ ((j.doneNodes.length < j.nodes) ∧ ((placeTurn s = true) ∧ (
    let ord := ordinaryCores s part
    
    let n := min tn.coresMax ord.length
    
    let free := (ord.filter (coreFree s)).take n
    (0 < n) ∧ ((free.length = n))))))))) ∧
    (∃ part : Nat, ∃ k : Nat, ∃ s : State, ∃ s1 : State, ∃ j : Job, ∃ q : Queue, ((∀ e ∈ s.fe.jobs, e.2.part = part → jobClass s e.2 = .rt → e.2.phase ≠ .placed)) ∧ ((firstJob s ((waitingJobs s part).filter (fun e => jobClass s e.2 == .rt)) = some (k, j)) ∧ ((alFind s.fe.jobs k = some j) ∧ ((alFind s.fe.queues j.queue = some q) ∧ ((j.phase = .parsing) ∧ ((checkSubst s k j = (false, s1)) ∧ (
    let res := reserveCores s part
    
    let n := min q.rtCores (partCores s part).length
    
    let cs := if n ≤ res.length then res.take n else res ++ takeOrdinary s (ordinaryCores s part) (n - res.length)
    (0 < n) ∧ ((n ≤ cs.length) ∧ ((cs.Nodup)))))))))) := by
  refine ⟨?_, ?_⟩
  · refine ⟨0, 2, sPl .normal, jP, ten9, ?_, ?_, ?_, by decide +kernel, ?_, ?_, ?_, ?_⟩ <;> decide +kernel
  · refine ⟨0, 2, sPl .rt, sPl .rt, jP, { q0 with cls := .rt, st := .active, rtCores := 3 }, ?_, ?_, by decide +kernel, ?_, ?_, rfl, ?_, ?_, ?_⟩ <;> decide +kernel

/-- The hypotheses of `Obligations.CoresAreScrubbedSavedAndReset` can be met. -/
theorem witness_CoresAreScrubbedSavedAndReset :
    (∃ part : Nat, ∃ tenant : Nat, ∃ s : State, ∃ p : Partition, (alFind s.sched.parts part = some p) ∧ ((s.sched.strict = true) ∧ ((p.served ≠ some tenant) ∧ ((partOf s tenant = some part))))) ∧
    (∃ region : Nat, ∃ s : State, ((regionOf s region).turn = 0) ∧ ((((regionCores s region).filter (fun c => (coreChosen s c).isSome)).Nodup))) ∧
    (∃ core : Nat, ∃ k : Nat, ∃ s : State, ((coreOf s core).hold = .saving k) ∧ ((saveReady (execOf s core) = true) ∧ (((execOf s core).blocks ≠ [])))) ∧
    (∃ die : Nat, ∃ tag : Nat, ∃ s : State, ∃ y : Txn, ∃ x : Exec, (txnOf s die tag = some y) ∧ ((y.parked = true) ∧ ((y.dead = false) ∧ ((y.kind = .load) ∧ ((alFind s.saved y.core = some x)))))) ∧
    (∃ core : Nat, ∃ k : Nat, ∃ s : State, ∃ e : Exec, ((coreOf s core).hold = .lent k) ∧ ((alFind s.fe.jobs k = none) ∧ (((coreOf s core).draining = false) ∧ (((execOf s core).blocks = []) ∧ (((execOf s core).wb = []) ∧ (((execOf s core).mmas = []) ∧ ((alFind s.saved core = some e)))))))) ∧
    (∃ core : Nat, ∃ s : State, ((coreOf s core).draining = true) ∧ ((((∀ e ∈ (execOf s core).wb, e.sent = true) ∨ (coreOf s core).resetAt + 1000 ≤ s.time)))) := by
  refine ⟨?_, ?_, ?_, ?_, ?_, ?_⟩
  · refine ⟨0, 0, sSw, part9, ?_, ?_, ?_, ?_⟩ <;> decide +kernel
  · refine ⟨0, sTurn9, ?_, ?_⟩ <;> decide +kernel
  · refine ⟨0, 4, sSave, ?_, ?_, ?_⟩ <;> decide +kernel
  · refine ⟨0, 9, sPark, txn9 true, x9, ?_, ?_, ?_, by decide +kernel, ?_⟩ <;> decide +kernel
  · refine ⟨0, 4, sRest, x9, ?_, ?_, ?_, ?_, by decide +kernel, ?_, ?_⟩ <;> decide +kernel
  · exact ⟨0, sRst, by decide +kernel, Or.inl (by decide +kernel)⟩

/-- The hypotheses of `Obligations.NodesAreDispatchedAndPlaced` can be met. -/
theorem witness_NodesAreDispatchedAndPlaced :
    (∃ node : Nat, ∃ s : State, ∃ n : Node, ∃ j : Job, (mayDispatch s node n j) ∧ (((jobClass s j ≠ .rt ∨ n.idx ≠ j.commit ∨ j.subst = true)))) ∧
    (∃ node : Nat, ∃ core : Nat, ∃ s : State, ∃ n : Node, ∃ k : Kernel, (alFind s.fe.nodes node = some n) ∧ ((runKernel s n = some k) ∧ ((bestCore s n = some core) ∧ (((∀ e ∈ nodesOf s n.job, nodeBefore e.2 n = true → bestCore s e.2 = none)) ∧ ((blockTurn s n = true) ∧ (((coreOf s core).power ≠ .retention) ∧ (((coreOf s core).wakeAt ≤ s.time)))))))) := by
  refine ⟨?_, ?_⟩
  · exact ⟨4, sDsp dKer .ready, nD dKer .ready, jD, by refine ⟨?_, ?_, ?_, ?_, ?_, ?_, ?_, ?_, ?_, ?_, ?_, fun h => absurd h (by decide +kernel), ?_⟩ <;> decide +kernel, by decide +kernel⟩
  · refine ⟨4, 0, sDsp dKer .running, nD dKer .running, ker9, ?_, ?_, ?_, by decide +kernel, ?_, ?_, ?_⟩ <;> decide +kernel

/-- The hypotheses of `Obligations.NodesComplete` can be met. -/
theorem witness_NodesComplete :
    (∃ node : Nat, ∃ s : State, ∃ n : Node, ∃ j : Job, (s.fe.nodes = [(node, n)]) ∧ ((alFind s.fe.jobs n.job = some j) ∧ ((nodeEnded n = true) ∧ ((nodePerformed s node n = true) ∧ ((mirrors s = false) ∧ (((∀ e ∈ s.clusters, e.2.epi = [])) ∧ ((n.fail = none) ∧ ((n.holds = []) ∧ ((j.fail = none) ∧ ((j.doneNodes.length + 1 < j.nodes) ∧ (((∀ e ∈ s.fe.jobs, e.2.commitDue = false)) ∧ (∃ j' : Job, (j' = { j with doneNodes := n.idx :: j.doneNodes, okNodes := n.idx :: j.okNodes, escSum := j.escSum + n.esc, obsSum := j.obsSum + n.observed }) ∧ ((ndFlags n.desc = 0 ∨ ndFlags n.desc = 8)))))))))))))) ∧
    (∃ node : Nat, ∃ s : State, ∃ n : Node, ∃ j : Job, (s.fe.nodes = [(node, n)]) ∧ ((alFind s.fe.jobs n.job = some j) ∧ ((nodeEnded n = true) ∧ ((nodePerformed s node n = true) ∧ ((mirrors s = false) ∧ (((∀ e ∈ s.clusters, e.2.epi = [])) ∧ ((n.fail = none) ∧ ((n.holds = []) ∧ ((j.fail = none) ∧ ((j.doneNodes.length + 1 < j.nodes) ∧ (((∀ e ∈ s.fe.jobs, e.2.commitDue = false)) ∧ (∃ q : Queue, ∃ pa : Nat, ∃ off : Nat, (ndFlags n.desc = 1) ∧ ((alFind s.fe.queues n.queue = some q) ∧ ((q.st ≠ .logging) ∧ ((q.log = []) ∧ (((q.prod + 2 ^ 64 - q.cons) % 2 ^ 64 < 2 ^ q.ringLog2) ∧ ((translate s q.fn (q.ringBase + 64 * (q.prod % 2 ^ q.ringLog2)) .w = some (.loc (pa + off))) ∧ ((pa % 128 = 0) ∧ ((off + 64 ≤ 128) ∧ ((Homed s pa) ∧ ((homeReady s pa ((partOf s q.fn).getD 0) (q.cls == .rt) = true)))))))))))))))))))))) := by
  refine ⟨?_, ?_⟩
  · refine ⟨4, sFin 8, nF 8, jD, ?_, ?_, ?_, ?_, by decide +kernel, ?_, ?_, ?_, ?_, ?_, ?_, { jD with doneNodes := 0 :: jD.doneNodes, okNodes := 0 :: jD.okNodes, escSum := 0, obsSum := 0 }, ?_, by decide +kernel⟩ <;> decide +kernel
  · refine ⟨4, sFin 1, nF 1, jD, ?_, ?_, ?_, ?_, by decide +kernel, ?_, ?_, ?_, ?_, ?_, ?_, qF, 0x10000, 64, ?_, ?_, ?_, ?_, ?_, ?_, ?_, ?_, homed_of (by decide +kernel), ?_⟩ <;> decide +kernel

end W09

namespace W10
def run10 : State := { run0 with time := 10000, mem := mem0 }
def qL : Queue := { q0 with st := .logging, log := [List.replicate 64 7], prod := 63, cons := 5 }
def sLog : State := { run10 with fe.queues := [(3, qL)] }
def jS : Job := { j0 with queue := 5, phase := .placed, nodes := 2, cores := [0] }
def nS : Node := { n0 with job := 2, queue := 5, phase := .running, idx := 1, desc := [1] ++ List.replicate 127 0 }
def qS : Queue := { q0 with cls := .rt, st := .active, job := some 2, shotUs := 5, shotT := 5, shotFrom := some 9000, tailUs := 3 }
def sShot : State :=
  { run10 with
    cores := [(0, { present := true, power := .active, exec := { blocks := [(0, { b3 with task.node := 4, task.job := 2 })], groups := [(0, g3)] } })]
    fe := { queues := [(5, qS)], jobs := [(2, jS)], nodes := [(4, nS)] } }
def jR (b time subst : Nat) : Job := { jS with budgetUs := b, substAddr := subst, entry := { re0 with time := time } }
def sRef (b time subst : Nat) : State := { sShot with fe := { queues := [(5, qS)], jobs := [(2, jR b time subst)] } }
def jSub : Job := { jS with subst := true, substStop := true, substAddr := 0x10000, substLen := 192, graphAddr := 0x2000, nextNode := 9 }
def dSub : List Byte := [2, 0] ++ List.replicate 54 0 ++ leBytes 8 0x20000 ++ leBytes 8 256 ++ [1] ++ List.replicate 55 0
def gSub : List Byte :=
  leBytes 4 0x48505247 ++ leBytes 2 1 ++ leBytes 2 1 ++ leBytes 4 192 ++ List.replicate 52 0 ++ dSub
def sSub : State := { sShot with mem := { mem0 with mem := cellsAt 0x10000 gSub }, fe := { queues := [(5, qS)], jobs := [(2, jSub)] } }
def aSub : Acc (List Byte) × State := readGraph sSub { jSub with graphAddr := jSub.substAddr, graphLen := jSub.substLen, pre := jSub.substPre }
def bSub : List Byte := okOf aSub
def pl : Pool := { owner := 0, base := 0, pages := 16, tpp := 4, maxSeq := 8, maxPages := 4, pageBytes := 256,
                   seqs := [(2, { len := 3, prio := 1, stamp := 0, slot := 0, pages := [0] })], waiting := [4, 6] }
def nB : Node := { n0 with phase := .running, desc := List.replicate 56 0 ++ leBytes 8 0x10000 ++ leBytes 8 0x20000 ++ List.replicate 56 0 }
/-- A step whose result area is not mapped. -/
def nBad : Node := { nB with desc := List.replicate 56 0 ++ leBytes 8 0x10000 ++ leBytes 8 0x100000 ++ List.replicate 56 0 }
/-- One sequence joins, and sequence `q` grows by 2. -/
def stp (q : Nat) : List Byte :=
  leBytes 2 0 ++ leBytes 2 1 ++ leBytes 2 1 ++ List.replicate 10 0 ++ leBytes 2 5 ++ [3, 0] ++ leBytes 4 6 ++ leBytes 2 q ++ leBytes 2 2
def sBen (q : Nat) : State :=
  { run10 with mem := { mem0 with mem := cellsAt 0x10000 (stp q) }, pools := [(0, pl)], fe.nodes := [(4, nB)] }
def rB (q : Nat) : Acc (List Byte) × State := agentRead (sBen q) nB.tenant nB.part (fieldAt nB.desc 56 8) 16 .plain (nodeIsRt (sBen q) 4)
def hB (q : Nat) : List Byte := okOf (rB q)
def rC (q : Nat) : Acc (List Byte) × State :=
  agentRead (rB q).2 nB.tenant nB.part (fieldAt nB.desc 56 8) (stepBytes (fieldAt (hB q) 0 2) (fieldAt (hB q) 2 2) (fieldAt (hB q) 4 2)) .plain
    (nodeIsRt (sBen q) 4)
def bB (q : Nat) : List Byte := okOf (rC q)
def apB : Pool × List Nat × List Bool × Nat := applyStep pl (stepOf (bB 2)) (bit (fieldAt nB.desc 72 1) 0)
theorem quad10 {α β γ δ : Type} (x : α × β × γ × δ) : x = (x.1, x.2.1, x.2.2.1, x.2.2.2) := rfl
def yB : Acc Unit × State := agentsReady (rC 2).2 nB.tenant nB.part (fieldAt nB.desc 64 8) 4 0 (stepResult apB.1 apB.2.1 apB.2.2.1)
def wB : Acc Unit × State := agentWrites yB.2 nB.tenant nB.part (fieldAt nB.desc 64 8) 4 (stepResult apB.1 apB.2.1 apB.2.2.1)
/-- No page is mapped. -/
def sUn : State := { sBen 2 with mem.pages := [] }
def rBad : Acc (List Byte) × State := agentRead { sBen 2 with fe.nodes := [(4, nBad)] } 0 0 (fieldAt nBad.desc 56 8) 16 .plain
def rCad : Acc (List Byte) × State :=
  agentRead rBad.2 0 0 (fieldAt nBad.desc 56 8) (stepBytes (fieldAt (okOf rBad) 0 2) (fieldAt (okOf rBad) 2 2) (fieldAt (okOf rBad) 4 2)) .plain
def rng (op : Nat) (st : Bool) : RangeOp := { node := 4, tenant := 0, part := 0, base := 0x10080, len := 128, op := op, started := st }
def cpy (st : Bool) (n : Nat) : CopyOp := { node := 4, tenant := 0, part := 0, src := 0x10080, dst := 0x20100, len := n, started := st }
def lnE : SliceLine := { tag := 0, data := 0xFF00, age := 1, dirty := true, keep := false, part := 0, poison := 0, pa := 0x10080 }
def sEng (r : RangeOp) (c : CopyOp) : State :=
  { run10 with dies := [(0, { ranges := [r], copies := [c] })], fe.nodes := [(4, { n0 with phase := .running })],
               regions := [(0, { lines := [(1026 * 16, lnE)] })], mem := { mem0 with mem := [(0x10080, 9), (0x10081, 7)] } }
def aCpy : Acc (List Byte) × State := agentRead (sEng (rng 0 false) (cpy true 128)) (cpy true 128).tenant (cpy true 128).part (cpy true 128).src 128 .plain
  (nodeIsRt (sEng (rng 0 false) (cpy true 128)) 4) 0
/-- The hypotheses of `Obligations.LogsClocksAndTheReferee` can be met. -/
theorem witness_LogsClocksAndTheReferee :
    (∃ queue : Nat, ∃ s : State, ∃ s1 : State, ∃ q : Queue, ∃ b : List Byte, (alFind s.fe.queues queue = some q) ∧ ((q.st = .logging ∨ q.st = .halted) ∧ ((q.reason = .none) ∧ ((frontStopped s = false) ∧ ((q.log = [b]) ∧ ((ringRoom q = true) ∧ ((writeRecord s queue q b = (.ok (), s1))))))))) ∧
    (∃ queue : Nat, ∃ k : Nat, ∃ m : Nat, ∃ s : State, ∃ q : Queue, ∃ j : Job, ∃ n : Node, (alFind s.fe.queues queue = some q) ∧ ((q.job = some k) ∧ ((alFind s.fe.jobs k = some j) ∧ ((shotRuns s q = true) ∧ ((100 * q.shotT ≤ shotElapsed s q) ∧ ((j.fail = none) ∧ ((nodesOf s k = [(m, n)]) ∧ ((alFind s.fe.nodes m = some n) ∧ ((n.phase = .running) ∧ ((n.fail = none) ∧ ((ndKind n.desc = 1)))))))))))) ∧
    (∃ queue : Nat, ∃ k : Nat, ∃ d : Nat, ∃ s : State, ∃ q : Queue, ∃ j : Job, (alFind s.fe.queues queue = some q) ∧ ((q.job = some k) ∧ ((alFind s.fe.jobs k = some j) ∧ ((j.queue = queue) ∧ ((q.cls = .rt) ∧ ((deadlineOf j = some d) ∧ ((s.time % 100 = 0 ∨ j.commitDue = true) ∧ (((∀ c ∈ j.cores, (coreOf s c).halted = false)) ∧ ((j.refOff = false) ∧ ((j.subst = false) ∧ ((j.commitDone = false) ∧ ((j.fail = none) ∧ ((j.lateEarly = false) ∧ ((j.phase = .placed) ∧ ((nodesOf s k = []) ∧ ((s.time + tailEstimate q ≤ d))))))))))))))))) ∧
    (∃ queue : Nat, ∃ k : Nat, ∃ d : Nat, ∃ s : State, ∃ q : Queue, ∃ j : Job, (alFind s.fe.queues queue = some q) ∧ ((q.job = some k) ∧ ((alFind s.fe.jobs k = some j) ∧ ((j.queue = queue) ∧ ((q.cls = .rt) ∧ ((deadlineOf j = some d) ∧ ((s.time % 100 = 0 ∨ j.commitDue = true) ∧ (((∀ c ∈ j.cores, (coreOf s c).halted = false)) ∧ ((j.refOff = false) ∧ ((j.subst = false) ∧ ((j.commitDone = false) ∧ ((j.fail = none) ∧ ((j.lateEarly = false) ∧ ((j.phase = .placed) ∧ ((nodesOf s k = []) ∧ ((d < s.time + tailEstimate q) ∧ ((j.substAddr = 0)))))))))))))))))) ∧
    (∃ queue : Nat, ∃ k : Nat, ∃ d : Nat, ∃ s : State, ∃ q : Queue, ∃ j : Job, (alFind s.fe.queues queue = some q) ∧ ((q.job = some k) ∧ ((alFind s.fe.jobs k = some j) ∧ ((j.queue = queue) ∧ ((q.cls = .rt) ∧ ((deadlineOf j = some d) ∧ ((s.time % 100 = 0 ∨ j.commitDue = true) ∧ (((∀ c ∈ j.cores, (coreOf s c).halted = false)) ∧ ((j.refOff = false) ∧ ((j.subst = false) ∧ ((j.commitDone = false) ∧ ((j.fail = none) ∧ ((j.lateEarly = false) ∧ ((j.phase = .placed) ∧ ((nodesOf s k = []) ∧ ((d < s.time + tailEstimate q) ∧ ((j.substAddr ≠ 0)))))))))))))))))) ∧
    (∃ queue : Nat, ∃ k : Nat, ∃ d : Nat, ∃ s : State, ∃ q : Queue, ∃ j : Job, (alFind s.fe.queues queue = some q) ∧ ((q.job = some k) ∧ ((alFind s.fe.jobs k = some j) ∧ ((j.queue = queue) ∧ ((q.cls = .rt) ∧ ((deadlineOf j = some d) ∧ ((j.missed = false) ∧ ((d < s.time))))))))) ∧
    (∃ queue : Nat, ∃ k : Nat, ∃ s : State, ∃ s1 : State, ∃ q : Queue, ∃ j : Job, ∃ b : List Byte, ∃ shared : Bool, (alFind s.fe.queues queue = some q) ∧ ((q.job = some k) ∧ ((alFind s.fe.jobs k = some j) ∧ ((parseTurn s queue q = true) ∧ ((j.subst = true) ∧ ((j.substStop = true) ∧ ((j.fail = none) ∧ ((j.phase = .placed) ∧ ((nodesOf s k = []) ∧ ((readGraph s { j with graphAddr := j.substAddr, graphLen := j.substLen, pre := j.substPre } = (.ok b, s1)) ∧ ((headerBad (b.take 64) j.substLen false = false) ∧ ((fieldAt b 6 2 = 1) ∧ ((192 ≤ b.length) ∧ ((fieldAt b 72 2 = 0) ∧ ((nodeRoom s k = some shared)))))))))))))))) := by
  refine ⟨?_, ?_, ?_, ?_, ?_, ?_, ?_⟩
  · refine ⟨3, sLog, (writeRecord sLog 3 qL (List.replicate 64 7)).2, qL, List.replicate 64 7, ?_, ?_, ?_, by decide +kernel, ?_, ?_, acc_unit (by decide +kernel)⟩ <;> decide +kernel
  · refine ⟨5, 2, 4, sShot, qS, jS, nS, ?_, by decide +kernel, ?_, ?_, ?_, ?_, ?_, ?_, ?_, ?_, by decide +kernel⟩ <;> decide +kernel
  · refine ⟨5, 2, 10300, sRef 2 10100 0, qS, jR 2 10100 0, ?_, ?_, by decide +kernel, ?_, ?_, ?_, ?_, ?_, ?_, ?_, ?_, by decide +kernel, ?_, ?_, ?_, ?_⟩ <;> decide +kernel
  · refine ⟨5, 2, 10299, sRef 1 10199 0, qS, jR 1 10199 0, ?_, ?_, by decide +kernel, ?_, ?_, ?_, ?_, ?_, ?_, ?_, ?_, by decide +kernel, ?_, ?_, ?_, ?_, ?_⟩ <;> decide +kernel
  · refine ⟨5, 2, 10299, sRef 1 10199 0x10000, qS, jR 1 10199 0x10000, ?_, ?_, by decide +kernel, ?_, ?_, ?_, ?_, ?_, ?_, ?_, ?_, by decide +kernel, ?_, ?_, ?_, ?_, ?_⟩ <;> decide +kernel
  · refine ⟨5, 2, 9999, sRef 1 9899 0, qS, jR 1 9899 0, ?_, ?_, by decide +kernel, ?_, ?_, ?_, ?_, ?_⟩ <;> decide +kernel
  · refine ⟨5, 2, sSub, aSub.2, qS, jSub, bSub, false, by decide +kernel, ?_, ?_, ?_, ?_, ?_, ?_, ?_, ?_, acc_ok (by decide +kernel), ?_, ?_, ?_, ?_, ?_⟩ <;> decide +kernel

/-- The hypotheses of `Obligations.BenchAndEnginesComplete` can be met. -/
theorem witness_BenchAndEnginesComplete :
    (∃ part : Nat, ∃ k : Nat, ∃ s : State, ∃ p : Pool, ∃ n : Node, (alFind s.pools part = some p) ∧ ((nextStep s p = some k) ∧ ((alFind s.fe.nodes k = some n) ∧ (((nodeIsRt s k = true ∨ rtElsewhere s part = false)) ∧ ((n.stopping = false) ∧ ((benchBodyBad n.desc = false) ∧ ((n.tenant = p.owner) ∧ (∃ f, ∃ s1, (agentRead s n.tenant n.part (fieldAt n.desc 56 8) 16 .plain (nodeIsRt s k) = (.fault f, s1)))))))))) ∧
    (∃ part : Nat, ∃ k : Nat, ∃ s : State, ∃ p : Pool, ∃ n : Node, (alFind s.pools part = some p) ∧ ((nextStep s p = some k) ∧ ((alFind s.fe.nodes k = some n) ∧ (((nodeIsRt s k = true ∨ rtElsewhere s part = false)) ∧ ((n.stopping = false) ∧ ((benchBodyBad n.desc = false) ∧ ((n.tenant = p.owner) ∧ (∃ h, ∃ s1, ∃ b, ∃ s2, (agentRead s n.tenant n.part (fieldAt n.desc 56 8) 16 .plain (nodeIsRt s k) = (.ok h, s1)) ∧ ((agentRead s1 n.tenant n.part (fieldAt n.desc 56 8) (stepBytes (fieldAt h 0 2) (fieldAt h 2 2) (fieldAt h 4 2)) .plain (nodeIsRt s k) = (.ok b, s2)) ∧ ((stepBad p (stepOf b) = true))))))))))) ∧
    (∃ part : Nat, ∃ k : Nat, ∃ s : State, ∃ p : Pool, ∃ n : Node, (alFind s.pools part = some p) ∧ ((nextStep s p = some k) ∧ ((alFind s.fe.nodes k = some n) ∧ (((nodeIsRt s k = true ∨ rtElsewhere s part = false)) ∧ ((n.stopping = false) ∧ ((benchBodyBad n.desc = false) ∧ ((n.tenant = p.owner) ∧ (∃ h, ∃ s1, ∃ b, ∃ s2, (agentRead s n.tenant n.part (fieldAt n.desc 56 8) 16 .plain (nodeIsRt s k) = (.ok h, s1)) ∧ ((agentRead s1 n.tenant n.part (fieldAt n.desc 56 8) (stepBytes (fieldAt h 0 2) (fieldAt h 2 2) (fieldAt h 4 2)) .plain (nodeIsRt s k) = (.ok b, s2)) ∧ ((stepBad p (stepOf b) = false) ∧ ((rangeOk s2 n.tenant (fieldAt n.desc 64 8) 49152 .w = false)))))))))))) ∧
    (∃ part : Nat, ∃ k : Nat, ∃ s : State, ∃ p : Pool, ∃ n : Node, (alFind s.pools part = some p) ∧ ((nextStep s p = some k) ∧ ((alFind s.fe.nodes k = some n) ∧ (((nodeIsRt s k = true ∨ rtElsewhere s part = false)) ∧ ((n.stopping = false) ∧ ((benchBodyBad n.desc = false) ∧ ((n.tenant = p.owner) ∧ (∃ h, ∃ s1, ∃ b, ∃ s2, (agentRead s n.tenant n.part (fieldAt n.desc 56 8) 16 .plain (nodeIsRt s k) = (.ok h, s1)) ∧ ((agentRead s1 n.tenant n.part (fieldAt n.desc 56 8) (stepBytes (fieldAt h 0 2) (fieldAt h 2 2) (fieldAt h 4 2)) .plain (nodeIsRt s k) = (.ok b, s2)) ∧ (∃ p', ∃ ev, ∃ st, ∃ taken, ∃ y, ∃ s3, (stepBad p (stepOf b) = false) ∧ ((rangeOk s2 n.tenant (fieldAt n.desc 64 8) 49152 .w = true) ∧ ((applyStep p (stepOf b) (bit (fieldAt n.desc 72 1) 0) = (p', ev, st, taken)) ∧ ((agentsReady s2 n.tenant n.part (fieldAt n.desc 64 8) k 0 (stepResult p' ev st) = (y, s3))))))))))))))) ∧
    (∃ die : Nat, ∃ s : State, ∃ op : RangeOp, ∃ r : List RangeOp, ((dieOf s die).ranges = op :: r) ∧ ((op.started = false))) ∧
    (∃ die : Nat, ∃ s : State, ∃ op : RangeOp, ∃ r : List RangeOp, ∃ n : Node, ((dieOf s die).ranges = op :: r) ∧ ((op.started = true) ∧ ((op.stopped = false) ∧ (((op.op = 3 → ∀ p ∈ rangeParts s op.tenant op.base op.len, p.2.2 = true)) ∧ ((alFind s.fe.nodes op.node = some n)))))) ∧
    (∃ die : Nat, ∃ s : State, ∃ op : CopyOp, ∃ r : List CopyOp, ((dieOf s die).copies = op :: r) ∧ ((op.started = false))) ∧
    (∃ die : Nat, ∃ pa : Nat, ∃ s : State, ∃ s1 : State, ∃ op : CopyOp, ∃ r : List CopyOp, ∃ n : Node, ∃ b : List Byte, ((dieOf s die).copies = op :: r) ∧ ((op.started = true) ∧ ((op.ended = false) ∧ ((op.stopped = false) ∧ ((op.failed = none) ∧ ((op.len = 128) ∧ ((op.done = 0) ∧ ((alFind s.fe.nodes op.node = some n) ∧ ((copyRoom s op die op.dst = true) ∧ (((∀ y ∈ s1.links.txns, y.kind = .engine → y.node = op.node → y.dead = true)) ∧ ((agentRead s op.tenant op.part op.src 128 .plain (nodeIsRt s op.node) die = (.ok b, s1)) ∧ ((translate s1 op.tenant op.dst .w = some (.loc pa)) ∧ ((pa % 128 = 0) ∧ ((Homed s1 pa))))))))))))))) := by
  refine ⟨?_, ?_, ?_, ?_, ?_, ?_, ?_, ?_⟩
  · refine ⟨0, 4, sUn, pl, nB, ?_, ?_, ?_, by decide +kernel, ?_, ?_, ?_, .memAccess, (agentRead sUn 0 0 (fieldAt nB.desc 56 8) 16 .plain).2, acc_fault (by decide +kernel)⟩ <;> decide +kernel
  · refine ⟨0, 4, sBen 3, pl, nB, ?_, ?_, ?_, by decide +kernel, ?_, ?_, ?_, hB 3, (rB 3).2, bB 3, (rC 3).2, acc_ok (by decide +kernel), acc_ok (by decide +kernel), ?_⟩ <;> decide +kernel
  · refine ⟨0, 4, { sBen 2 with fe.nodes := [(4, nBad)] }, pl, nBad, ?_, ?_, ?_, by decide +kernel, ?_, ?_, ?_, okOf rBad, (rBad).2, okOf rCad, (rCad).2, acc_ok (by decide +kernel), acc_ok (by decide +kernel), ?_, ?_⟩ <;> decide +kernel
  · refine ⟨0, 4, sBen 2, pl, nB, ?_, ?_, ?_, by decide +kernel, ?_, ?_, ?_, hB 2, (rB 2).2, bB 2, (rC 2).2, acc_ok (by decide +kernel), acc_ok (by decide +kernel), apB.1, apB.2.1, apB.2.2.1, apB.2.2.2, yB.1, yB.2, ?_, ?_, quad10 apB, (Prod.eta yB).symm⟩ <;> decide +kernel
  · refine ⟨0, sEng (rng 3 false) (cpy false 128), rng 3 false, [], ?_, ?_⟩ <;> decide +kernel
  · refine ⟨0, sEng (rng 3 true) (cpy false 128), rng 3 true, [], { n0 with phase := .running }, ?_, ?_, ?_, by decide +kernel, ?_⟩ <;> decide +kernel
  · refine ⟨0, sEng (rng 3 true) (cpy false 384), cpy false 384, [], ?_, ?_⟩ <;> decide +kernel
  · refine ⟨0, 0x20100, sEng (rng 0 false) (cpy true 128), aCpy.2, cpy true 128, [], { n0 with phase := .running }, okOf aCpy, by decide +kernel, ?_, ?_, ?_, ?_, ?_, ?_, ?_, ?_, by decide +kernel, acc_ok (by decide +kernel), ?_, ?_, homed_of (by decide +kernel)⟩ <;> decide +kernel

end W10

namespace W11
def ld11 (id : Nat) : Load :=
  { id := id, slot := 0, pc := 16, dst := 4, size := 16, hint := .plain, target := .loc 0x10080, tenant := 0, part := 0,
    lanes := [{ lane := 2, off := 0, n := 16, pos := 112 }] }
def rd11 (k : ReadKind) (done : Bool) : MemRead := { id := 6, pa := 0x10080, part := 0, tenant := 0, rt := false, kind := k, done := done }
def mem11 (c : Ctl) : MemSys := { mem0 with mem := [(0x10080, 9), (0x10084, 7)], ctls := [(0, c)] }
def s11 (c : Ctl) : State :=
  { run0 with time := 16384 * 4, mem := mem11 c, cores := [(3, { present := true, exec := { loads := [ld11 9, ld11 8] } })] }
def cRd (k : ReadKind) (done : Bool) : Ctl := { present := true, reads := [rd11 k done] }
def se11 : SideEntry := { pa := 0x10080, data := 5, poison := 0, part := 0, tenant := 0, allot := none, since := 10 }
def sSide : State := { s11 { present := true } with regions := [(0, { side := [{ se11 with pa := 0 }, se11] })] }
def of11 (st : Bool) : Offer := { target := .loc 0x10080, data := 77, stamp := 0, stream := st, part := 0, tenant := 0, poison := 0 }
def ln11 : SliceLine := { tag := 0, data := 0xFF00, age := 3, dirty := true, keep := false, part := 0, poison := 0, pa := 0x10080 }
def l1a : L1Line := { target := .loc 0x10080, data := 1, age := 1, stream := false, stamp := 0, residency := 3 }
def x11 (st : Bool) : Exec := { offers := [of11 st, of11 st], l1 := [(3, l1a), (4, { l1a with residency := 1 })] }
def sOff (st : Bool) (ls : List (Nat × SliceLine)) : State :=
  { s11 { present := true } with cores := [(3, { present := true, exec := x11 st })], regions := [(0, { lines := ls })] }
def cWr : Ctl :=
  { present := true, regs := [(2, { credit := 5, rtCredit := 4 })]
    reads := [rd11 (.demand .plain) false]
    writes := [{ pa := 0x10080, mask := 0xF, data := 0xAABBCCDD, poison := 0, part := 0 }, { pa := 0x10080, mask := 1, data := 5, poison := 0, part := 0 },
               { pa := 0x20000, mask := 1, data := 5, poison := 0, part := 0 }] }
def p11 : Partition :=
  { granules := [0, 1], dedicated := false, ways := true, mask := 0xF, keep := 0, stashMib := 1, rate := 3, burst := 6, rtRate := 1, rtBurst := 9 }
def sPt (strict : Bool) (w : Nat) : State :=
  { s11 { cWr with reads := [], window := w, rows := [(70, 4), (71, 4)] } with sched := { parts := [(1, p11), (2, p11)], strict := strict } }
theorem alFind_erased : ∀ (m : AL Ctl) (k : Nat), m.all (fun c => c.2.erased.isEmpty) = true → ((alFind m k).getD {}).erased = []
  | [], _, _ => rfl
  | (a, c) :: r, k, h => by
    simp only [List.all_cons, Bool.and_eq_true, List.isEmpty_iff] at h
    unfold alFind
    split
    · exact h.1
    · exact alFind_erased r k h.2
theorem noErased {s : State} (h : s.mem.ctls.all (fun c => c.2.erased.isEmpty) = true) :
    ∀ k p, (erasedOf (ctlOf s k) p).length < 3 := by
  intro k p
  have e : (ctlOf s k).erased = [] := alFind_erased _ _ h
  simp [erasedOf, e, alGet, alFind]
def sPat : State := { s11 { cWr with reads := [], writes := cWr.writes.map (fun w => { w with part := 64, own := true }), window := 15 } with sched.strict := true }
/-- The hypotheses of `Obligations.LinesArriveOffersAndResidency` can be met. -/
theorem witness_LinesArriveOffersAndResidency :
    (∃ pa : Nat, ∃ r : Nat, ∃ set : Nat, ∃ tag : Nat, ∃ c : Nat, ∃ h0 : Nat, ∃ x : Nat, ∃ s : State, ∃ m : MemRead, ∃ h : Hint, ∃ l : Load, (homeSlice s pa = some (r, set, tag)) ∧ ((homeOf s pa = some (h0, x)) ∧ ((sideOf (regionOf s r) pa = none) ∧ ((findWay (regionOf s r) set tag = none) ∧ ((doneRead s pa = some m) ∧ ((m.kind = .demand h) ∧ ((m.stale = false) ∧ ((oldestLoad s pa = some (c, l)))))))))) ∧
    (∃ pa : Nat, ∃ r : Nat, ∃ set : Nat, ∃ tag : Nat, ∃ h0 : Nat, ∃ x : Nat, ∃ s : State, ∃ m : MemRead, (homeSlice s pa = some (r, set, tag)) ∧ ((homeOf s pa = some (h0, x)) ∧ ((doneRead s pa = some m) ∧ ((m.stale = true))))) ∧
    (∃ pa : Nat, ∃ r : Nat, ∃ set : Nat, ∃ tag : Nat, ∃ s : State, ∃ m : MemRead, (homeSlice s pa = some (r, set, tag)) ∧ ((sideOf (regionOf s r) pa = none) ∧ ((findWay (regionOf s r) set tag = none) ∧ ((doneRead s pa = some m) ∧ ((m.kind = .prefetch) ∧ ((m.stale = false) ∧ (
    let ways := match alFind s.sched.parts m.part with
        | some p => if p.ways = true then some m.part else none
        | none => none
    (((regionOf s r).side.filter (fun e => e.allot == ways)).length < allotMax s r ways)))))))) ∧
    (∃ region : Nat, ∃ pa : Nat, ∃ s : State, ∃ e : SideEntry, (sideOf (regionOf s region) pa = some e) ∧ ((65536 ≤ (s.time - e.since) * cyclesPerTick s (blkKey 1 region)))) ∧
    (∃ core : Nat, ∃ r : Nat, ∃ set : Nat, ∃ tag : Nat, ∃ s : State, ∃ o : Offer, ∃ rest : List Offer, ((execOf s core).offers = o :: rest) ∧ ((homeSlice s o.target.addr = some (r, set, tag)))) ∧
    (∃ s : State, (s.time % 16384 = 0)) := by
  refine ⟨?_, ?_, ?_, ?_, ?_, ?_⟩
  · refine ⟨0x10080, 0, 1026, 0, 3, 0, 513, s11 (cRd (.demand .plain) true), rd11 (.demand .plain) true, .plain, ld11 8, ?_, ?_, ?_, ?_, ?_, ?_, by decide +kernel, ?_⟩ <;> decide +kernel
  · refine ⟨0x10080, 0, 1026, 0, 0, 513, s11 { present := true, reads := [{ rd11 (.demand .plain) true with stale := true }] }, { rd11 (.demand .plain) true with stale := true }, by decide +kernel, ?_, ?_, ?_⟩ <;> decide +kernel
  · refine ⟨0x10080, 0, 1026, 0, s11 (cRd .prefetch true), rd11 .prefetch true, ?_, ?_, by decide +kernel, ?_, ?_, ?_, ?_⟩ <;> decide +kernel
  · refine ⟨0, 0x10080, sSide, se11, ?_, ?_⟩ <;> decide +kernel
  · refine ⟨3, 0, 1026, 0, sOff false [(1026 * 16 + 2, ln11)], of11 false, [of11 false], ?_, by decide +kernel⟩ <;> decide +kernel
  · exact ⟨sOff false [], by decide +kernel⟩

/-- The hypotheses of `Obligations.ControllersPerformRuns` can be met. -/
theorem witness_ControllersPerformRuns :
    (∃ ctl : Nat, ∃ id : Nat, ∃ ecc : EccIn, ∃ s : State, ∃ m : MemRead, ∃ pass : Bool, ((readsLeft (ctlOf s ctl)).find? (fun m => m.id == id) = some m) ∧ ((ctlServes (ctlOf s ctl) = true) ∧ ((readTurn s ctl m = some pass) ∧ (((∀ l ∈ ecc.errs, l = [])) ∧ (((∀ h p, (erasedOf (ctlOf s h) p).length < 3))))))) ∧
    (∃ ctl : Nat, ∃ q : Nat, ∃ rest : List Nat, ∃ ecc : EccIn, ∃ s : State, (writeRuns s ctl = q :: rest) ∧ ((ctlServes (ctlOf s ctl) = true) ∧ (((runNeeded s ctl q = true ∨ (s.sched.strict = true ∧ ∀ x ∈ rest, runNeeded s ctl x = false))) ∧ ((writeReady s ctl q = true) ∧ (((∀ l ∈ ecc.errs, l = [])) ∧ (((∀ h p, (erasedOf (ctlOf s h) p).length < 3)) ∧ (((∀ w ∈ (ctlOf s ctl).writes, w.pa % 128 = 0)) ∧ ((s.memOk))))))))) := by
  refine ⟨?_, ?_⟩
  · refine ⟨0, 6, {}, s11 (cRd (.demand .plain) false), rd11 (.demand .plain) false, false, ?_, ?_, by decide +kernel, ?_, noErased (by decide +kernel)⟩ <;> decide +kernel
  · refine ⟨0, 0x10080 / 256, [0x20000 / 256], {}, s11 cWr, ?_, ?_, ?_, by decide +kernel, ?_, noErased (by decide +kernel), ?_, by unfold State.memOk; decide +kernel⟩ <;> decide +kernel

/-- The hypotheses of `Obligations.ControllersKeepTime` can be met. -/
theorem witness_ControllersKeepTime :
    (∃ ctl : Nat, ∃ pc : Nat, ∃ s : State, (ctlServes (ctlOf s ctl) = true) ∧ ((pc < 16) ∧ (((s.sched.strict = false ∨ sharedCtl s ctl = false ∨ (ctlOf s ctl).window = 15))))) ∧
    (∃ h : Nat, ∃ part : Nat, ∃ s : State, ∃ c : Ctl, ∃ p : Partition, (s.sched.strict = false) ∧ ((600 * (s.mem.refills + 1) ≤ rootCycles s) ∧ ((alFind s.mem.ctls h = some c) ∧ ((sharedCtl s h = true) ∧ ((alFind s.sched.parts part = some p) ∧ ((p.dedicated = false) ∧ (((s.sched.parts.map (·.1)).Nodup)))))))) ∧
    (∃ h : Nat, ∃ s : State, ∃ c : Ctl, (s.sched.strict = true) ∧ ((1200 * (s.mem.windows + 1) ≤ rootCycles s) ∧ ((alFind s.mem.ctls h = some c)))) ∧
    (∃ ctl : Nat, ∃ ecc : EccIn, ∃ s : State, (ctlServes (ctlOf s ctl) = true) ∧ ((readsLeft (ctlOf s ctl) = []) ∧ (((∀ w ∈ (ctlOf s ctl).writes, w.own = true)) ∧ (((∀ l ∈ ecc.errs, l = [])) ∧ (((∀ h p, (erasedOf (ctlOf s h) p).length < 3)) ∧ (((s.sched.strict = false ∨ sharedCtl s ctl = false ∨ (ctlOf s ctl).window = 15)))))))) ∧
    (∃ ctl : Nat, ∃ s : State, (ctlServes (ctlOf s ctl) = true) ∧ ((readsLeft (ctlOf s ctl) = []) ∧ (((ctlOf s ctl).writes = []) ∧ (((ctlOf s ctl).lastUse + 10000 ≤ s.time))))) := by
  refine ⟨?_, ?_, ?_, ?_, ?_⟩
  · refine ⟨0, 1, sPt false 0, ?_, ?_, ?_⟩ <;> decide +kernel
  · refine ⟨0, 2, sPt false 0, (ctlOf (sPt false 0) 0), p11, ?_, ?_, ?_, by decide +kernel, ?_, ?_, ?_⟩ <;> decide +kernel
  · refine ⟨0, sPt true 15, (ctlOf (sPt true 15) 0), ?_, ?_, ?_⟩ <;> decide +kernel
  · refine ⟨0, { errs := [[], []] }, sPat, ?_, ?_, ?_, ?_, noErased (by decide +kernel), by decide +kernel⟩ <;> decide +kernel
  · refine ⟨0, s11 { cWr with reads := [], writes := [], rows := [(4, 4)] }, ?_, ?_, ?_, ?_⟩ <;> decide +kernel

end W11

namespace W12
def x12 : Exec :=
  { blocks := [(0, b3)], groups := [(0, { g3 with regs := [(34, 7)] })], wb := [{ id := 3, target := .loc 0x10080, tenant := 0, part := 0, mask := 0xF0, data := 5 }]
    l1 := [(3, { target := .loc 0x10080, data := 1, age := 1, stream := false, stamp := 0 })] }
def sl12 : SliceLine := { tag := 0, data := 0xFF00, age := 3, dirty := true, keep := false, part := 0, poison := 0, pa := 0x10080 }
def s12 : State :=
  { run0 with
    time := 400000000
    cores := [(2, { present := true, exec := x12 })], regions := [(0, { lines := [(16, sl12)] })], mem := { mem0 with mem := [(0x10080, 9)] }
    ras := { buckets := [({ kind := 8, place := 1, detail := 2 }, 9), ({ kind := 3, place := 1, detail := 2 }, 5)], leaks := [] }
    fe := { jobs := [(2, j0)], nodes := [(4, n0)] } }
/-- The hypotheses of `Obligations.ErrorsAreHandled` can be met. -/
theorem witness_ErrorsAreHandled :
    (∃ site : ErrSite, ∃ s : State, (s.pm.phase = .running) ∧ (((∀ c x y, site ≠ .memory c x y)))) ∧
    (∃ ctl : Nat, ∃ sector : Nat, ∃ pa : Nat, ∃ m : Nat, ∃ syms : List Nat, ∃ s : State, (s.pm.phase = .running) ∧ ((lineAddr s ctl (sector / 2) = some pa) ∧ ((homeOf s pa = some (ctl, m)) ∧ ((s.mem.poisoned.contains (pa / 64 + sector % 2) = false) ∧ (
    let o := eccOutcome (erasedOf (ctlOf s ctl) (placeOf m).pc) syms
    (o = .corrected)))))) ∧
    (∃ ctl : Nat, ∃ sector : Nat, ∃ pa : Nat, ∃ m : Nat, ∃ syms : List Nat, ∃ s : State, (s.pm.phase = .running) ∧ ((lineAddr s ctl (sector / 2) = some pa) ∧ ((homeOf s pa = some (ctl, m)) ∧ ((s.mem.poisoned.contains (pa / 64 + sector % 2) = false) ∧ (
    let o := eccOutcome (erasedOf (ctlOf s ctl) (placeOf m).pc) syms
    (o = .uncorrectable)))))) ∧
    (∃ ctl : Nat, ∃ sector : Nat, ∃ pa : Nat, ∃ m : Nat, ∃ syms : List Nat, ∃ s : State, (s.pm.phase = .running) ∧ ((lineAddr s ctl (sector / 2) = some pa) ∧ ((homeOf s pa = some (ctl, m)) ∧ ((s.mem.poisoned.contains (pa / 64 + sector % 2) = false) ∧ (
    let o := eccOutcome (erasedOf (ctlOf s ctl) (placeOf m).pc) syms
    (o = .clean)))))) ∧
    (∃ ctl : Nat, ∃ sector : Nat, ∃ pa : Nat, ∃ m : Nat, ∃ syms : List Nat, ∃ s : State, (s.pm.phase = .running) ∧ ((lineAddr s ctl (sector / 2) = some pa) ∧ ((homeOf s pa = some (ctl, m)) ∧ ((s.mem.poisoned.contains (pa / 64 + sector % 2) = false) ∧ (
    let o := eccOutcome (erasedOf (ctlOf s ctl) (placeOf m).pc) syms
    (o = .clean)))))) ∧
    (∃ s : State, (s.pm.phase = .running) ∧ (∃ core, ∃ slot, ∃ g, (alFind (execOf s core).groups slot = some g))) ∧
    (∃ s : State, (s.pm.phase = .running) ∧ (∃ core, ∃ entry, ∃ e, ((execOf s core).wb.find? (fun w => w.id == entry) = some e))) ∧
    (∃ s : State, (s.pm.phase = .running) ∧ (∃ region, ∃ key, ∃ l, (alFind (regionOf s region).lines key = some l))) ∧
    (∃ s : State, (s.pm.phase = .running) ∧ (∃ site : ErrSite, (s.ras.failed = false) ∧ (((site = .front ∨ site = .fabricCtl ∨ ∃ r, site = .sliceTag r))))) ∧
    (∃ s : State, (s.pm.phase = .running) ∧ ((s.ras.failed = false))) ∧
    (∃ r : Resource, ∃ n : Nat, ∃ w : Nat, ∃ s : State, (bucketLimit s r.kind = some (n, w)) ∧ ((resGet s.ras.leaks r < leaksDue s n w true))) := by
  refine ⟨?_, ?_, ?_, ?_, ?_, ?_, ?_, ?_, ⟨?_, ?_, ?_⟩⟩
  · exact ⟨.l1 2 3, s12, by decide +kernel, fun c x y h => ErrSite.noConfusion h⟩
  · refine ⟨0, 0x10080 / 64 + 1, 0x10080, 0x10080 / 128, [5, 71], s12, ?_, ?_, by decide +kernel, ?_, ?_⟩ <;> decide +kernel
  · refine ⟨0, 0x10080 / 64 + 1, 0x10080, 0x10080 / 128, [5, 70, 9], s12, ?_, ?_, by decide +kernel, ?_, ?_⟩ <;> decide +kernel
  · refine ⟨0, 0x10080 / 64 + 1, 0x10080, 0x10080 / 128, [], s12, ?_, ?_, by decide +kernel, ?_, ?_⟩ <;> decide +kernel
  · refine ⟨0, 0x10080 / 64 + 1, 0x10080, 0x10080 / 128, [], s12, ?_, ?_, by decide +kernel, ?_, ?_⟩ <;> decide +kernel
  · refine ⟨s12, ?_, 2, 0, { g3 with regs := [(34, 7)] }, ?_⟩ <;> decide +kernel
  · refine ⟨s12, ?_, 2, 3, { id := 3, target := .loc 0x10080, tenant := 0, part := 0, mask := 0xF0, data := 5 }, ?_⟩ <;> decide +kernel
  · refine ⟨s12, ?_, 0, 16, sl12, ?_⟩ <;> decide +kernel
  · refine ⟨s12, ?_, .sliceTag 1, ?_, Or.inr (Or.inr ⟨1, rfl⟩)⟩ <;> decide +kernel
  · refine ⟨s12, ?_, ?_⟩ <;> decide +kernel
  · refine ⟨{ kind := 8, place := 1, detail := 2 }, 1024, 1, s12, ?_, ?_⟩ <;> decide +kernel

end W12

namespace W13
def sPt (x : Port) : State :=
  { run0 with time := 2000000, selfId := some 5, links := { ports := [(3, { st := .up, width := 8 }), (4, x)], routes := [(9, 0x18), (2, 0x10)] } }
def m13 : LinkMsg := { type := 3, src := 9, dst := 5, tag := 1, tenant := 0, line := 4, offset := 0 }
def fl13 (n r : Nat) : Flit := { seq := n, kind := 0, msgs := [{ m13 with tag := n }], replays := r }
def upP : Port :=
  { st := .up, width := 8, retry := [fl13 6 1, fl13 7 3, fl13 8 0], rxSeq := 11, txSeq := 9, credit := [(0, 5)], inbox := [m13] }
def dl : D2dLink := { lo := 0, portLo := 1, hi := 2, rxSeq := 1023, retry := [(1023, [], 7)], fails := [5, 1950000], inbox := [[1]], wait := [[2], [3]] }
def sDl (up : Bool) : State := { run0 with time := 2000000, links.d2d := [(1, { dl with up := up })], mem := mem0 }
/-- The hypotheses of `Obligations.PortsTrainAndRetrain` can be met. -/
theorem witness_PortsTrainAndRetrain :
    (∃ port : Nat, ∃ lanes : List Nat, ∃ s : State, ((portOf s port).st = .detect) ∧ ((4 ≤ ((List.range 9).filter (fun l => lanes.contains l)).length))) ∧
    (∃ port : Nat, ∃ s : State, ((portOf s port).st = .detect) ∧ (((portOf s port).since + 1000000 ≤ s.time))) ∧
    (∃ port : Nat, ∃ s : State, (portStep (portOf s port) = .train)) ∧
    (∃ port : Nat, ∃ s : State, (portStep (portOf s port) = .align)) ∧
    (∃ port : Nat, ∃ s : State, (portStep (portOf s port) = .exchange)) ∧
    (∃ port : Nat, ∃ s : State, ((portOf s port).st = .up) ∧ (((∃ f ∈ (portOf s port).retry, 8 ≤ f.replays)))) ∧
    (∃ port : Nat, ∃ s : State, ((portOf s port).st = .retrain) ∧ (((portOf s port).since + 50000 ≤ s.time))) := by
  refine ⟨?_, ?_, ?_, ?_, ?_, ?_, ?_⟩
  · refine ⟨4, [0, 3, 7, 8, 9], sPt { st := .detect }, ?_, ?_⟩ <;> decide +kernel
  · refine ⟨4, sPt { st := .detect, since := 1000000 }, ?_, ?_⟩ <;> decide +kernel
  · exact ⟨4, sPt { upP with st := .retrain, failedLanes := [1] }, by decide +kernel⟩
  · exact ⟨4, sPt { upP with st := .align, failedLanes := [1, 5] }, by decide +kernel⟩
  · exact ⟨4, sPt { upP with st := .exchange, wait := [m13] }, by decide +kernel⟩
  · refine ⟨4, sPt { upP with retry := [fl13 6 8, fl13 7 8] }, ?_, ?_⟩ <;> decide +kernel
  · refine ⟨4, sPt { upP with st := .retrain, attempts := 3, wait := [m13] }, ?_, ?_⟩ <;> decide +kernel

/-- The hypotheses of `Obligations.LinksDeliverInOrder` can be met. -/
theorem witness_LinksDeliverInOrder :
    (∃ link : Nat, ∃ seq : Nat, ∃ body : List Byte, ∃ s : State, ∃ x : D2dLink, (d2dOf s link = x) ∧ ((x.inUse = true) ∧ ((body.length = 250) ∧ ((seq < 1024))))) ∧
    (∃ link : Nat, ∃ s : State, ∃ x : D2dLink, (d2dOf s link = x) ∧ ((x.inUse = true) ∧ ((x.up = false)))) ∧
    (∃ link : Nat, ∃ s : State, ∃ x : D2dLink, (d2dOf s link = x) ∧ ((x.inUse = true) ∧ ((x.up = false)))) ∧
    (∃ port : Nat, ∃ seq : Nat, ∃ ack : Nat, ∃ kind : Nat, ∃ rest : List Byte, ∃ fec : List (List Nat), ∃ s : State, ∃ x : Port, (portOf s port = x) ∧ ((x.st = .up) ∧ (
    let ok := crcHolds (rxFlit seq ack kind rest)
    
    let lost := (takeFlit s port fec).1
    (x.rxBad = false) ∧ (((∀ e ∈ fec, e.dedup.length ≤ 15)))))) ∧
    (∃ port : Nat, ∃ s : State, ∃ x : Port, (portOf s port = x) ∧ ((x.st = .up))) ∧
    (∃ port : Nat, ∃ seq : Nat, ∃ s : State, ∃ x : Port, ∃ old : List Flit, ∃ again : List Flit, ∃ f : Flit, (portOf s port = x) ∧ ((x.st = .up) ∧ ((x.asked = some seq) ∧ ((x.retry = old ++ f :: again) ∧ ((f.seq = seq) ∧ (((∀ g ∈ old, g.seq ≠ seq)) ∧ (((∀ g ∈ f :: again, g.replays < 8))))))))) := by
  refine ⟨?_, ?_, ?_, ?_, ?_, ?_⟩
  · refine ⟨1, 1023, List.replicate 250 3, sDl true, { dl with up := true }, ?_, ?_, ?_, by decide +kernel⟩ <;> decide +kernel
  · refine ⟨1, sDl false, { dl with up := false }, ?_, ?_, ?_⟩ <;> decide +kernel
  · refine ⟨1, sDl false, { dl with up := false }, ?_, ?_, ?_⟩ <;> decide +kernel
  · refine ⟨4, 11, 7, 3, (linkFlit (flitHead 11 7 3) (List.replicate 248 9)).drop 4, [[0, 3, 9], List.replicate 40 2], sPt upP, upP, by decide +kernel, ?_, ?_, ?_⟩ <;> decide +kernel
  · refine ⟨4, sPt upP, upP, ?_, ?_⟩ <;> decide +kernel
  · refine ⟨4, 7, sPt { upP with asked := some 7 }, { upP with asked := some 7 }, [fl13 6 1], [fl13 8 0], fl13 7 3, ?_, by decide +kernel, ?_, ?_, ?_, ?_, ?_⟩ <;> decide +kernel

end W13

namespace W14
def rq14 (ty dst line : Nat) : LinkMsg := { type := ty, src := 9, dst := dst, tag := 1, tenant := 0, line := line, offset := 0, mask := 0xF, data := 0xAABBCCDD }
def sRq (m : LinkMsg) : State :=
  { run0 with
    time := 20000000, selfId := some 5
    mem := { mem0 with mem := [(0x10080, 9)] }
    links := { ports := [(3, { st := .up, width := 8, credit := [(0, 50), (1, 50), (3, 50)] }), (4, { st := .up, inbox := [{ m with type := 9 }, m] })]
               routes := [(9, 8), (2, 8)], exports := [(0, { src := some 9, tenant := none, base := 0x10000, len := 0x1000, rd := true, wr := true, atomic := false })] }
    regions := [(0, { lines := [(1026 * 16 + 3, { tag := 0, data := 0xFF00, age := 1, dirty := true, keep := false, part := 0, poison := 0, pa := 0x10080 })] })] }
def afterTake (s : State) (port : Nat) (m : LinkMsg) : State :=
  returnCredit (modPort s port (fun x => { x with inbox := x.inbox.erase m })) port m
def ld14 (id : Nat) : Load :=
  { id := id, slot := 0, pc := 16, dst := 4, size := 16, hint := .plain, target := .remote 9 0x10080, tenant := 0, part := 0,
    lanes := [{ lane := 2, off := 0, n := 16, pos := 112 }] }
def tx14 : Txn := { die := 0, tag := 1, core := 0, kind := .load, id := 8, tenant := 0, node := 0, target := .remote 9 0x10080, since := 40 }
def rs14 (ty err : Nat) : LinkMsg := { type := ty, vc := 1, src := 9, dst := 5, tag := 1, err := err, line := 0x201, data := 0x1234 }
def sRs (ty err : Nat) : State :=
  { sRq (rq14 2 5 0x201) with
    cores := [(0, { present := true, exec := { loads := [ld14 7, ld14 8] } })]
    links := { ports := [(4, { st := .up, inbox := [rs14 ty err] })], txns := [{ tx14 with die := 1 }, tx14] } }
def sRt : State := { run0 with links := { ports := [(3, { st := .up, wait := [{ type := 1, src := 7 }] })], routes := [(9, 8), (2, 8)], newRoutes := some [(9, 16)] }, selfId := some 5 }
def pm14 (b : List Byte) : LinkMsg := { type := 0xC, vc := 2, body := b }
def sTw (b : List Byte) (tw : Twin) : State :=
  { run0 with
    time := 2000000000, selfId := some 5, mem := mem0, twin := tw
    links := { ports := (Config.twinPorts .gbl8).map (fun p => (p, { st := .up, twin := true, inbox := [pm14 [0xFF], pm14 b] })) }
    mgmt.mboxes := [(0, { respHeld := true, resp := [1, 2] })] }
def p14 : Nat := (Config.twinPorts .gbl8).headD 0
def s14 (b : List Byte) (tw : Twin) : State :=
  returnCredit (modPort (sTw b tw) p14 (fun x => { x with inbox := x.inbox.erase (pm14 b) })) p14 (pm14 b)
def mr14 (n : Nat) (r : Mirror) : MirrorRec := { seq := n, time := 1000, r := r }
/-- The hypotheses of `Obligations.RemoteAccessesAreServedAndEnd` can be met. -/
theorem witness_RemoteAccessesAreServedAndEnd :
    (∃ port : Nat, ∃ s : State, ∃ s1 : State, ∃ m : LinkMsg, (s.pm.phase = .running) ∧ ((takeMsg s port [1, 2, 3] = some (m, s1)) ∧ (∃ p, (s.selfId ≠ some m.dst) ∧ ((m.hop < 2) ∧ ((routePort s1 m.dst m.line = some p)))))) ∧
    (∃ port : Nat, ∃ s : State, ∃ s1 : State, ∃ m : LinkMsg, (s.pm.phase = .running) ∧ ((takeMsg s port [1, 2, 3] = some (m, s1)) ∧ ((s.selfId = some m.dst) ∧ ((exportOk s1 m = false))))) ∧
    (∃ port : Nat, ∃ s : State, ∃ s1 : State, ∃ m : LinkMsg, (s.pm.phase = .running) ∧ ((takeMsg s port [1, 2, 3] = some (m, s1)) ∧ (∃ x, ∃ r, ∃ set, ∃ tag, (s.selfId = some m.dst) ∧ ((exportOk s1 m = true) ∧ ((setOf s (m.line * 128) = some x) ∧ (((∀ k, x.owner ≠ .firmware k)) ∧ ((inCode s (m.line * 128) = false) ∧ ((homeSlice s (m.line * 128) = some (r, set, tag)) ∧ ((sideOf (regionOf s r) (m.line * 128) = none) ∧ (((m.type = 2 ∧ maskFull m.mask = true ∧ homeAwake s1 (m.line * 128) = true) ∨ homeReady s1 (m.line * 128) (ownerPart s1 (m.line * 128)) = true) ∧ ((m.type = 2)))))))))))) ∧
    (∃ port : Nat, ∃ s : State, ∃ s1 : State, ∃ m : LinkMsg, (s.pm.phase = .running) ∧ ((takeMsg s port [1, 2, 3] = some (m, s1)) ∧ (∃ x, ∃ r, ∃ set, ∃ tag, (s.selfId = some m.dst) ∧ ((exportOk s1 m = true) ∧ ((setOf s (m.line * 128) = some x) ∧ (((∀ k, x.owner ≠ .firmware k)) ∧ ((inCode s (m.line * 128) = false) ∧ ((homeSlice s (m.line * 128) = some (r, set, tag)) ∧ ((sideOf (regionOf s r) (m.line * 128) = none) ∧ (((m.type = 2 ∧ maskFull m.mask = true ∧ homeAwake s1 (m.line * 128) = true) ∨ homeReady s1 (m.line * 128) (ownerPart s1 (m.line * 128)) = true) ∧ ((m.type = 1)))))))))))) ∧
    (∃ port : Nat, ∃ die : Nat, ∃ s : State, ∃ s1 : State, ∃ m : LinkMsg, ∃ a : Txn, (takeMsg s port [8, 9, 0xA, 0xB] = some (m, s1)) ∧ ((s.selfId = some m.dst) ∧ ((txnOf s die m.tag = some a) ∧ ((respFits m a = true) ∧ ((a.kind = .load) ∧ ((a.parked = false) ∧ ((a.dead = false) ∧ ((m.type = 8) ∧ ((m.poison = false)))))))))) ∧
    (∃ port : Nat, ∃ die : Nat, ∃ s : State, ∃ s1 : State, ∃ m : LinkMsg, ∃ a : Txn, (takeMsg s port [8, 9, 0xA, 0xB] = some (m, s1)) ∧ ((s.selfId = some m.dst) ∧ ((txnOf s die m.tag = some a) ∧ ((respFits m a = true) ∧ ((a.kind = .load) ∧ ((a.parked = false) ∧ ((a.dead = false) ∧ ((m.type = 0xB) ∧ ((m.err < 5)))))))))) ∧
    (∃ die : Nat, ∃ tag : Nat, ∃ pkg : Nat, ∃ addr : Nat, ∃ s : State, ∃ a : Txn, (txnOf s die tag = some a) ∧ ((a.target = .remote pkg addr) ∧ ((a.since + 100000 * s.links.timeoutMs ≤ s.time) ∧ ((a.kind = .load) ∧ ((a.parked = false) ∧ ((a.dead = false))))))) ∧
    (∃ s : State, ∃ tb : AL Nat, (s.links.newRoutes = some tb)) := by
  refine ⟨?_, ?_, ?_, ?_, ?_, ?_, ?_, ?_⟩
  · refine ⟨4, sRq (rq14 1 2 5), afterTake (sRq (rq14 1 2 5)) 4 (rq14 1 2 5), rq14 1 2 5, ?_, by rfl, 3, ?_, by decide +kernel, ?_⟩ <;> decide +kernel
  · refine ⟨4, sRq (rq14 3 5 0x201), afterTake (sRq (rq14 3 5 0x201)) 4 (rq14 3 5 0x201), rq14 3 5 0x201, ?_, by rfl, ?_, ?_⟩ <;> decide +kernel
  · refine ⟨4, sRq (rq14 2 5 0x201), afterTake (sRq (rq14 2 5 0x201)) 4 (rq14 2 5 0x201), rq14 2 5 0x201, ?_, by rfl, { base := 0, size := 2 ^ 32, member := [0], mbase := [0], owner := .shared }, 0, 1026, 0, ?_, ?_, ?_, fun k h => SetOwner.noConfusion h, ?_, ?_, ?_, by decide +kernel, ?_⟩ <;> decide +kernel
  · refine ⟨4, sRq (rq14 1 5 0x201), afterTake (sRq (rq14 1 5 0x201)) 4 (rq14 1 5 0x201), rq14 1 5 0x201, ?_, by rfl, { base := 0, size := 2 ^ 32, member := [0], mbase := [0], owner := .shared }, 0, 1026, 0, ?_, ?_, ?_, fun k h => SetOwner.noConfusion h, ?_, ?_, ?_, by decide +kernel, ?_⟩ <;> decide +kernel
  · refine ⟨4, 0, sRs 8 0, afterTake (sRs 8 0) 4 (rs14 8 0), rs14 8 0, tx14, by rfl, ?_, by decide +kernel, ?_, ?_, ?_, ?_, ?_, ?_⟩ <;> decide +kernel
  · refine ⟨4, 0, sRs 0xB 4, afterTake (sRs 0xB 4) 4 (rs14 0xB 4), rs14 0xB 4, tx14, by rfl, ?_, by decide +kernel, ?_, ?_, ?_, ?_, ?_, ?_⟩ <;> decide +kernel
  · refine ⟨0, 1, 9, 0x10080, sRs 0xB 4, tx14, ?_, ?_, by decide +kernel, ?_, ?_, ?_⟩ <;> decide +kernel
  · exact ⟨sRt, [(9, 16)], by decide +kernel⟩

/-- The hypotheses of `Obligations.TwinMirrorsAndTakesOver` can be met. -/
theorem witness_TwinMirrorsAndTakesOver :
    (∃ port : Nat, ∃ seq : Nat, ∃ f : Nat, ∃ v : Nat, ∃ s : State, ∃ s1 : State, ∃ b : List Byte, (takePair s port [1, 2, 3, 4, 5, 8, 9, 10, 11] = some (b, s1)) ∧ ((fieldAt b 0 1 = 3) ∧ ((s.twin.role = 1) ∧ (((s.twin.st = .attaching ∨ s.twin.st = .synced)) ∧ ((mirrorOf b = some (seq, .flagSet f v)) ∧ ((s.twin.store = []) ∧ ((seq = s.twin.applySeq)))))))) ∧
    (∃ port : Nat, ∃ s : State, ∃ s1 : State, ∃ b : List Byte, (takePair s port [1, 2, 3, 4, 5, 8, 9, 10, 11] = some (b, s1)) ∧ ((fieldAt b 0 1 = 10))) ∧
    (∃ port : Nat, ∃ s : State, ∃ s1 : State, ∃ b : List Byte, (takePair s port [1, 2, 3, 4, 5, 8, 9, 10, 11] = some (b, s1)) ∧ ((fieldAt b 0 1 = 9) ∧ ((s.twin.st = .synced)))) ∧
    (∃ port : Nat, ∃ s : State, ∃ s1 : State, ∃ b : List Byte, ∃ x : MirrorRec, (takePair s port [0] = some (b, s1)) ∧ ((s.twin.sent.find? (fun y => y.seq == fieldAt b 1 8) = some x) ∧ ((holdsBack s = false)))) ∧
    (∃ port : Nat, ∃ s : State, ∃ s1 : State, ∃ b : List Byte, ∃ x : MirrorRec, (takePair s port [0] = some (b, s1)) ∧ ((s.twin.sent.find? (fun y => y.seq == fieldAt b 1 8) = some x) ∧ (∃ f, ∃ l, ∃ d, (holdsBack s = true) ∧ ((x.r = .mbSeq f l d) ∧ ((f < serviceFn) ∧ (((mboxOf s f).respHeld = true) ∧ ((mboxHeld { s with twin.sent := s.twin.sent.filter (fun y => y.seq != x.seq) } f = false)))))))) ∧
    (∃ s : State, ∃ x : MirrorRec, (holdsBack s = true) ∧ ((x ∈ s.twin.sent) ∧ ((x.time + 100000 ≤ s.time)))) ∧
    (∃ s : State, ∃ n : Nat, (s.twin.st = .attaching) ∧ ((s.twin.snapEnd = some n) ∧ ((twinUp s = true) ∧ (((if s.twin.role = 0 then s.twin.sent = [] else n ≤ s.twin.applySeq)))))) ∧
    (∃ s : State, (s.twin.st = .attaching) ∧ ((s.twin.since + 1000000000 ≤ s.time))) ∧
    (∃ port : Nat, ∃ s : State, ∃ s1 : State, ∃ b : List Byte, (takePair s port [6] = some (b, s1)) ∧ ((s.twin.role = 1) ∧ ((s.twin.st = .synced) ∧ ((s.ras.failed = false))))) ∧
    (∃ port : Nat, ∃ s : State, ∃ s1 : State, ∃ b : List Byte, (takePair s port [7] = some (b, s1)) ∧ (((s.twin.st = .attaching ∨ s.twin.st = .synced ∨ s.twin.st = .degraded)))) := by
  refine ⟨?_, ?_, ?_, ?_, ?_, ?_, ?_, ?_, ⟨?_, ?_⟩⟩
  · refine ⟨p14, 6, 3, 77, sTw (mirrorBytes 6 (.flagSet 3 77)) { st := .synced, role := 1, applySeq := 6 }, s14 (mirrorBytes 6 (.flagSet 3 77)) { st := .synced, role := 1, applySeq := 6 }, mirrorBytes 6 (.flagSet 3 77), by rfl, by decide +kernel, ?_, ?_, ?_, ?_, ?_⟩ <;> decide +kernel
  · exact ⟨p14, sTw [10, 4, 5] { st := .synced, role := 1, applySeq := 6 }, s14 [10, 4, 5] { st := .synced, role := 1, applySeq := 6 }, [10, 4, 5], by rfl, by decide +kernel⟩
  · refine ⟨p14, sTw degradedBytes { st := .synced, role := 1, applySeq := 6 }, s14 degradedBytes { st := .synced, role := 1, applySeq := 6 }, degradedBytes, by rfl, ?_, ?_⟩ <;> decide +kernel
  · refine ⟨p14, sTw (ackBytes 6) { st := .attaching, sent := [mr14 5 (.flagSet 3 1), mr14 6 (.flagSet 3 2)] }, s14 (ackBytes 6) { st := .attaching, sent := [mr14 5 (.flagSet 3 1), mr14 6 (.flagSet 3 2)] }, ackBytes 6, mr14 6 (.flagSet 3 2), by rfl, ?_, ?_⟩ <;> decide +kernel
  · refine ⟨p14, sTw (ackBytes 6) { st := .synced, sent := [mr14 5 (.flagSet 3 1), mr14 6 (.mbSeq 0 2 3)] }, s14 (ackBytes 6) { st := .synced, sent := [mr14 5 (.flagSet 3 1), mr14 6 (.mbSeq 0 2 3)] }, ackBytes 6, mr14 6 (.mbSeq 0 2 3), by rfl, ?_, 0, 2, 3, ?_, ?_, ?_, ?_, ?_⟩ <;> decide +kernel
  · refine ⟨sTw (ackBytes 6) { st := .synced, sent := [mr14 5 (.flagSet 3 1), mr14 6 (.mbSeq 0 2 3)] }, mr14 6 (.mbSeq 0 2 3), ?_, ?_, ?_⟩ <;> decide +kernel
  · refine ⟨sTw (ackBytes 6) { st := .attaching, snapEnd := some 4, role := 1, applySeq := 4 }, 4, ?_, ?_, ?_, ?_⟩ <;> decide +kernel
  · refine ⟨sTw (ackBytes 6) { st := .attaching, snapEnd := some 4, role := 0, applySeq := 4, sent := [mr14 6 (.flagSet 3 2)] }, ?_, ?_⟩ <;> decide +kernel
  · refine ⟨p14, sTw failedBytes { st := .synced, role := 1, applySeq := 4, store := [mr14 6 (.flagSet 3 2)] }, s14 failedBytes { st := .synced, role := 1, applySeq := 4, store := [mr14 6 (.flagSet 3 2)] }, failedBytes, by rfl, ?_, ?_, ?_⟩ <;> decide +kernel
  · exact ⟨p14, sTw detachBytes { st := .attaching, role := 1, applySeq := 4, store := [mr14 6 (.flagSet 3 2)] }, s14 detachBytes { st := .attaching, role := 1, applySeq := 4, store := [mr14 6 (.flagSet 3 2)] }, detachBytes, by rfl, by decide +kernel⟩

end W14

namespace W15
/-- A request in mailbox 1 behind one in mailbox 5, whose turn comes later. -/
def sMb (op : Nat) (pay : List Byte) : State :=
  { run0 with
    time := 5000
    host := { vfEnable := true, numVfs := 8 }
    sched := { tenants := [(1, { part := 0, coresMax := 2, memQuota := 0 })] }
    mgmt := { lastServed := 0, mboxes := [(1, { req := rqMsg op 1 pay, reqPending := true, log := [leBytes 8 7 ++ leBytes 4 9 ++ List.replicate 80 1] }),
                                          (5, { req := rqMsg 0x7777 5 [], reqPending := true })] }
    fe := { grants := [(0, 1)], flags := [(3, 0x55)] } }
def pFlag : List Byte := leBytes 2 3 ++ List.replicate 6 0
/-- A request of the physical function, numbered `n`. -/
def sPf (op : Nat) (pay : List Byte) (l : Nat) : State :=
  { sMb op pay with mgmt := { lastServed := 9, mboxes := [(0, { req := rqMsg op 0 pay, reqPending := true, l := l, d := 4, exec := false })] } }
def c15 (s : State) (f : Nat) : State := (checkReq (Taken s f) (rqOf s f)).2
def sWin (pend : Bool) : State := { run0 with mgmt.mboxes := [(0, { req := [1, 2, 3, 4], reqPending := pend, respValid := true, l := 4, log := [[1]] }), (7, { exec := true, copy := [9] })] }
theorem hostMay0 (s : State) (h : (s.pm.ready && fnLive s 0 && !(fnOf s 0).pcie.d3hot) = true) : HostMay s 0 := by
  simp only [Bool.and_eq_true, Bool.not_eq_true'] at h
  exact ⟨h.1.1, h.1.2, h.2⟩
/-- The hypotheses of `Obligations.MessagesAreAnsweredOrRefused` can be met. -/
theorem witness_MessagesAreAnsweredOrRefused :
    (∃ c : Instr, ∃ op : Nat, ∃ h : State → Req → Done × State, ∃ f : Nat, ∃ r : Req, ∃ s : State, ∃ s1 : State, ∃ s2 : State, ∃ rep : Rep, (mailOf c = some (op, h)) ∧ ((Carries s f op r s1) ∧ ((h s1 r = (.rep rep, s2))))) ∧
    (∃ c : Instr, ∃ op : Nat, ∃ h : State → Req → Done × State, ∃ f : Nat, ∃ r : Req, ∃ s : State, (mailOf c = some (op, h)) ∧ (∃ s1, ∃ rep, (Due s f op r) ∧ ((checkReq (Taken s f) r = (some rep, s1))))) ∧
    (∃ c : Instr, ∃ op : Nat, ∃ h : State → Req → Done × State, ∃ f : Nat, ∃ r : Req, ∃ s : State, (mailOf c = some (op, h)) ∧ (∃ s1, ∃ rep, (Due s f op r) ∧ ((checkReq (Taken s f) r = (some rep, s1))))) ∧
    (∃ c : Instr, ∃ op : Nat, ∃ h : State → Req → Done × State, ∃ f : Nat, ∃ r : Req, ∃ s : State, (mailOf c = some (op, h)) ∧ ((s.mgmt.retry = none) ∧ ((dueMbox s = some f) ∧ ((f < boardFn) ∧ ((r = reqOf f (mboxMsg s f)) ∧ ((r.op = op) ∧ ((fieldAt r.msg 8 4 ≠ nextSeqNo (mboxOf s f).l) ∧ ((fieldAt r.msg 8 4 ≠ (mboxOf s f).l))))))))) := by
  refine ⟨?_, ?_, ?_, ?_⟩
  · exact ⟨.flagRead, 0x0107, hFlagRead, 1, rqOf (sMb 0x0107 pFlag) 1, sMb 0x0107 pFlag, carried (sMb 0x0107 pFlag) 1, (hFlagRead (carried (sMb 0x0107 pFlag) 1) (rqOf (sMb 0x0107 pFlag) 1)).2, okRep (leBytes 8 0x55), rfl, carries_of (by decide +kernel), Prod.ext (by decide +kernel) rfl⟩
  · exact ⟨.flagRead, 0x0107, hFlagRead, 1, rqOf (sMb 0x0107 [1]) 1, sMb 0x0107 [1], rfl, c15 (sMb 0x0107 [1]) 1, badRep rBadLength, due_of (by decide +kernel), Prod.ext (by decide +kernel) rfl⟩
  · exact ⟨.flagRead, 0x0107, hFlagRead, 1, rqOf (sMb 0x0107 [1]) 1, sMb 0x0107 [1], rfl, c15 (sMb 0x0107 [1]) 1, badRep rBadLength, due_of (by decide +kernel), Prod.ext (by decide +kernel) rfl⟩
  · refine ⟨.flagRead, 0x0107, hFlagRead, 0, rqOf (sPf 0x0107 pFlag 3) 0, sPf 0x0107 pFlag 3, rfl, ?_, by decide +kernel, ?_, rfl, ?_, ?_, ?_⟩ <;> decide +kernel

/-- The hypotheses of `Obligations.MailboxWindowsAndSessionsWork` can be met. -/
theorem witness_MailboxWindowsAndSessionsWork :
    (∃ f : Nat, ∃ k : Nat, ∃ r : Req, ∃ s : State, ∃ s1 : State, ∃ b : List Byte, (Carries s f 0x0001 r s1) ∧ ((r.f 0 1 = k) ∧ ((capSection s1 f k = some b)))) ∧
    (∃ f : Nat, ∃ r : Req, ∃ s : State, ∃ s1 : State, (s.mgmt.retry = none) ∧ ((dueMbox s = some f) ∧ ((f < boardFn) ∧ ((r = reqOf f (mboxMsg s f)) ∧ ((r.op = 0x0002) ∧ ((checkReq (takeRequest s f) r = (none, s1)))))))) ∧
    (∃ f : Nat, ∃ r : Req, ∃ s : State, ∃ s1 : State, ∃ e : List Byte, (Carries s f 0x0003 r s1) ∧ (((mboxOf s f).log.find? (fun e => fieldAt e 8 4 == r.f 0 4) = some e))) ∧
    (∃ f : Nat, ∃ r : Req, ∃ s : State, ∃ s1 : State, (Carries s f 0x0004 r s1)) ∧
    (∃ c : Instr, ∃ code : Nat, ∃ resp : Nat, ∃ f : Nat, ∃ r : Req, ∃ s : State, ∃ s1 : State, ((c, code, resp) ∈ [(Instr.getVersion, 0x84, 0x04), (.getCapabilities, 0xE1, 0x61), (.negotiateAlgorithms, 0xE3, 0x63), (.getDigests, 0x81, 0x01), (.getCertificate, 0x82, 0x02), (.challenge, 0x83, 0x03), (.getMeasurements, 0xE0, 0x60)]) ∧ ((Carries s f 0x0402 r s1) ∧ ((fieldAt r.msg 33 1 = code)))) ∧
    (∃ fn : Nat, ∃ s : State, (HostMay s fn) ∧ ((fn ≤ serviceFn) ∧ (((mboxOf s fn).reqPending = true)))) ∧
    (∃ fn : Nat, ∃ msg : List Byte, ∃ s : State, (HostMay s fn) ∧ ((fn ≤ serviceFn) ∧ (((mboxOf s fn).reqPending = false) ∧ ((msg.length ≤ 16384) ∧ ((plainRequest (modMbox s fn (fun m => { m with req := msg ++ m.req.drop msg.length, reqPending := true })) fn = false)))))) ∧
    (∃ fn : Nat, ∃ s : State, (HostMay s fn) ∧ ((fn ≤ serviceFn) ∧ (((mboxOf s fn).reqPending = false)))) ∧
    (∃ fn : Nat, ∃ s : State, (HostMay s fn) ∧ ((fn ≤ serviceFn))) ∧
    (∃ s : State, (s.pm.ready = true) ∧ ((s.mgmt.standby = false))) ∧
    (∃ type : Nat, ∃ msg : List Byte, ∃ s : State, (s.pm.ready = true) ∧ (((type = 0x7E ∨ type = 0x05)) ∧ ((plainRequest { s with mgmt.mctp := s.mgmt.mctp ++ [(type, msg)] } boardFn = false)))) ∧
    (∃ s : State, (s.pm.ready = true)) := by
  refine ⟨?_, ?_, ?_, ?_, ?_, ?_, ?_, ?_, ⟨?_, ?_, ?_, ?_⟩⟩
  · refine ⟨0, 2, rqOf (sPf 0x0001 ([2, 0, 0, 0] ++ leBytes 4 1) 0) 0, sPf 0x0001 ([2, 0, 0, 0] ++ leBytes 4 1) 0, carried (sPf 0x0001 ([2, 0, 0, 0] ++ leBytes 4 1) 0) 0, [0], carries_of (by decide +kernel), ?_, by decide +kernel⟩ <;> decide +kernel
  · refine ⟨0, rqOf (sPf 0x0002 [] 3) 0, sPf 0x0002 [] 3, (checkReq (takeRequest (sPf 0x0002 [] 3) 0) (rqOf (sPf 0x0002 [] 3) 0)).2, ?_, ?_, ?_, rfl, by decide +kernel, Prod.ext (by decide +kernel) rfl⟩ <;> decide +kernel
  · exact ⟨1, rqOf (sMb 0x0003 (leBytes 4 9 ++ leBytes 4 0)) 1, sMb 0x0003 (leBytes 4 9 ++ leBytes 4 0), carried (sMb 0x0003 (leBytes 4 9 ++ leBytes 4 0)) 1, leBytes 8 7 ++ leBytes 4 9 ++ List.replicate 80 1, carries_of (by decide +kernel), by decide +kernel⟩
  · exact ⟨0, rqOf (sPf 0x0004 [] 0) 0, sPf 0x0004 [] 0, carried (sPf 0x0004 [] 0) 0, carries_of (by decide +kernel)⟩
  · refine ⟨.getMeasurements, 0xE0, 0x60, 0, rqOf (sPf 0x0402 [0x13, 0xE0, 0, 0xFF] 0) 0, sPf 0x0402 [0x13, 0xE0, 0, 0xFF] 0, carried (sPf 0x0402 [0x13, 0xE0, 0, 0xFF] 0) 0, ?_, carries_of (by decide +kernel), ?_⟩ <;> decide +kernel
  · refine ⟨0, sWin true, hostMay0 _ (by decide +kernel), ?_, ?_⟩ <;> decide +kernel
  · refine ⟨0, rqMsg 0x0107 0 pFlag, sWin false, hostMay0 _ (by decide +kernel), ?_, ?_, ?_, ?_⟩ <;> decide +kernel
  · refine ⟨0, sWin false, hostMay0 _ (by decide +kernel), ?_, ?_⟩ <;> decide +kernel
  · exact ⟨0, sWin true, hostMay0 _ (by decide +kernel), by decide +kernel⟩
  · refine ⟨sWin true, ?_, ?_⟩ <;> decide +kernel
  · refine ⟨0x05, [0x13, 0x84], sWin true, ?_, ?_, ?_⟩ <;> decide +kernel
  · exact ⟨sWin true, by decide +kernel⟩

end W15

namespace W16
def fw16 : ISet := { base := 2 ^ 40, size := 2 ^ 30, member := [1], mbase := [0], owner := .firmware 0 }
def pt16 : Partition :=
  { granules := [0], dedicated := false, ways := false, mask := 0, keep := 0, stashMib := 1, rate := 0, burst := 0, rtRate := 0, rtBurst := 0 }
/-- Tenants 0 and 1 on partition 0, with a firmware set in region 0. -/
def s16 : State :=
  { run0 with
    units := 31
    mem := { mem0 with sets := mem0.sets ++ [fw16], ctls := [(0, { present := true, regs := [(0, { credit := 9 })] }), (1, { present := true })] }
    sched := { parts := [(0, pt16)], tenants := [(0, { part := 0, coresMax := 4, memQuota := 1000 }), (1, { part := 0, coresMax := 4, memQuota := 1000 })] }
    host := { vfEnable := true, numVfs := 8 } }
def fe16 (s : State) (qs : AL Queue) : State := { s with fe.queues := qs }
def z (n : Nat) : List Byte := List.replicate n 0
def ringS : State :=
  asks { s16 with fns := [(0, { ring := { configured := true, base := 0x8000, sizeLog2 := 6, ctrl := 0x9000, head := 15, overrun := true } })],
                  host.mem := cellsAt 0x9000 (leBytes 4 80) } 0 0x0100 0 (leBytes 8 0xA000 ++ [7] ++ z 7 ++ leBytes 8 0x9040)
def rt16 : Acc Nat × State := readTail (carried ringS 0) 0 ((rqOf ringS 0).f 16 8)
/-- QUEUE_CREATE's and QUEUE_CONFIG's payload for queue 9: class, flags, vector. -/
def pQ (cls flags : Byte) (vec : Nat) : List Byte :=
  leBytes 2 9 ++ [cls, flags] ++ leBytes 4 70 ++ leBytes 8 0x10000 ++ [6, 0] ++ leBytes 2 vec ++ leBytes 2 0 ++ leBytes 2 0 ++ leBytes 8 0x20000 ++
    leBytes 4 0 ++ z 4
def q16 (st : QState) : Queue := { q0 with st := st, prod := 7, cons := 3, log := [], reason := if st = .halted then .error else .none }
def fl16 : State := { s16 with fe := { grants := [(0, 0)], flags := [(3, 2 ^ 64 - 2)] } }
def cd16 : State :=
  asks { s16 with mem.mem := cellsAt 0x1000 [1, 2, 3, 4, 5, 6, 7, 8], nextImage := 4 } 0 0x0110 0
    (leBytes 8 0x1000 ++ leBytes 4 8 ++ z 4 ++ leBytes 8 0x1004 ++ leBytes 4 4 ++ z 4 ++ leBytes 8 0x1008 ++ leBytes 4 0 ++ z 4)
def cdA : Acc (List Byte) × State := agentRead (carried cd16 0) 0 0 0x1000 8 .plain
def cdB : Acc (List Byte) × State := agentRead cdA.2 0 0 0x1004 4 .plain
def cdC : Acc (List Byte) × State := agentRead cdB.2 0 0 0x1008 0 .plain
def im16 : Image := { tenant := 0, kernels := [], bytes := 12, region := [2] }
def un16 (runs : Bool) : State :=
  { s16 with images := [(7, im16)], mem.grans := [(2, .code 0 7)]
             cores := [(0, coreWith g3 { b3 with task := { b3.task with image := if runs then 7 else 6 } })] }
def vt16 : VTensor := { tenant := 0, slotBytes := 256, bases := [0, 512] }
def pl16 : Pool := { owner := 0, base := 0x10000, pages := 2, tpp := 16, maxSeq := 4, maxPages := 2, pageBytes := 65536,
                     seqs := [(2, { len := 20, prio := 1, stamp := 0, slot := 1, pages := [1, 0] })] }
/-- The hypotheses of `Obligations.QueueMessagesTakeEffect` can be met. -/
theorem witness_QueueMessagesTakeEffect :
    (∃ f : Nat, ∃ x : Acc Nat, ∃ r : Req, ∃ s : State, ∃ s1 : State, ∃ s2 : State, (Carries s f 0x0100 r s1) ∧ ((r.f 0 8 % 4096 = 0) ∧ ((6 ≤ r.f 8 1) ∧ ((r.f 8 1 ≤ 16) ∧ ((r.f 16 8 % 64 = 0) ∧ ((readTail s1 f (r.f 16 8) = (x, s2)))))))) ∧
    (∃ f : Nat, ∃ r : Req, ∃ s : State, ∃ s1 : State, (Carries s f 0x0101 r s1) ∧ ((queueBad s r = false) ∧ ((alFind s.fe.queues (r.f 0 2) = none) ∧ ((pasidBad s r = false) ∧ ((roomFor { s with fe.queues := alPut s.fe.queues (r.f 0 2) (queueFields r) } f = true)))))) ∧
    (∃ f : Nat, ∃ r : Req, ∃ s : State, ∃ s1 : State, ∃ q : Queue, (Carries s f 0x0102 r s1) ∧ ((queueBad s r = false) ∧ ((r.f 0 2 < 4096) ∧ ((alFind s.fe.queues (r.f 0 2) = some q) ∧ ((q.fn = f) ∧ ((pasidBad s r = false) ∧ ((q.st = .idle)))))))) ∧
    (∃ f : Nat, ∃ r : Req, ∃ s : State, ∃ s1 : State, ∃ q : Queue, (Carries s f 0x0102 r s1) ∧ ((queueBad s r = false) ∧ ((r.f 0 2 < 4096) ∧ ((alFind s.fe.queues (r.f 0 2) = some q) ∧ ((q.fn = f) ∧ ((pasidBad s r = false) ∧ ((q.st ≠ .idle) ∧ ((q.cls = classOf (r.f 2 1)) ∧ ((q.ringBase = r.f 8 8) ∧ ((q.ringLog2 = r.f 16 1) ∧ ((q.consAddr = r.f 24 8) ∧ ((q.pasid = bit (r.f 3 1) 1))))))))))))) ∧
    (∃ f : Nat, ∃ r : Req, ∃ s : State, ∃ s1 : State, ∃ q : Queue, (Carries s f 0x0103 r s1) ∧ ((r.f 0 2 < 4096) ∧ ((alFind s.fe.queues (r.f 0 2) = some q) ∧ ((q.fn = f) ∧ ((q.st = .idle) ∧ ((q.job = none))))))) ∧
    (∃ f : Nat, ∃ r : Req, ∃ s : State, ∃ s1 : State, ∃ q : Queue, (Carries s f 0x0104 r s1) ∧ ((r.f 0 2 < 4096) ∧ ((alFind s.fe.queues (r.f 0 2) = some q) ∧ ((q.fn = f) ∧ ((q.st = .halted) ∧ ((q.reason = .error))))))) ∧
    (∃ f : Nat, ∃ r : Req, ∃ s : State, ∃ s1 : State, ∃ q : Queue, (Carries s f 0x0105 r s1) ∧ ((r.f 0 2 < 4096) ∧ ((alFind s.fe.queues (r.f 0 2) = some q) ∧ ((q.fn = f) ∧ ((q.reason = .writeFault)))))) ∧
    (∃ f : Nat, ∃ r : Req, ∃ s : State, ∃ s1 : State, (Carries s f 0x0105 r s1) ∧ ((r.f 0 2 = 0xFFFF))) := by
  refine ⟨?_, ?_, ?_, ?_, ?_, ?_, ?_, ?_⟩
  · refine ⟨0, rt16.1, (rqOf (ringS) 0), (ringS), (carried (ringS) 0), rt16.2, carries_of (by decide +kernel), ?_, by decide +kernel, ?_, ?_, rfl⟩ <;> decide +kernel
  · refine ⟨0, (rqOf (asks s16 0 0x0101 0 (pQ 2 1 0xFFFF)) 0), (asks s16 0 0x0101 0 (pQ 2 1 0xFFFF)), (carried (asks s16 0 0x0101 0 (pQ 2 1 0xFFFF)) 0), carries_of (by decide +kernel), ?_, ?_, ?_, by decide +kernel⟩ <;> decide +kernel
  · refine ⟨0, (rqOf (asks (fe16 s16 [(9, q16 .idle)]) 0 0x0102 0 (pQ 2 1 5)) 0), (asks (fe16 s16 [(9, q16 .idle)]) 0 0x0102 0 (pQ 2 1 5)), (carried (asks (fe16 s16 [(9, q16 .idle)]) 0 0x0102 0 (pQ 2 1 5)) 0), q16 .idle, carries_of (by decide +kernel), ?_, ?_, by decide +kernel, ?_, ?_, ?_⟩ <;> decide +kernel
  · refine ⟨0, (rqOf (asks (fe16 s16 [(9, q16 .active)]) 0 0x0102 0 (pQ 2 1 5)) 0), (asks (fe16 s16 [(9, q16 .active)]) 0 0x0102 0 (pQ 2 1 5)), (carried (asks (fe16 s16 [(9, q16 .active)]) 0 0x0102 0 (pQ 2 1 5)) 0), q16 .active, carries_of (by decide +kernel), ?_, ?_, by decide +kernel, ?_, ?_, ?_, ?_, ?_, ?_, ?_, ?_⟩ <;> decide +kernel
  · refine ⟨0, (rqOf (asks (fe16 s16 [(8, q16 .active), (9, q16 .idle)]) 0 0x0103 0 (leBytes 2 9 ++ z 6)) 0), (asks (fe16 s16 [(8, q16 .active), (9, q16 .idle)]) 0 0x0103 0 (leBytes 2 9 ++ z 6)), (carried (asks (fe16 s16 [(8, q16 .active), (9, q16 .idle)]) 0 0x0103 0 (leBytes 2 9 ++ z 6)) 0), q16 .idle, carries_of (by decide +kernel), ?_, ?_, by decide +kernel, ?_, ?_⟩ <;> decide +kernel
  · refine ⟨0, (rqOf (asks (fe16 s16 [(9, { q16 .halted with log := [[1], [2]] })]) 0 0x0104 0 (leBytes 2 9 ++ z 6)) 0), (asks (fe16 s16 [(9, { q16 .halted with log := [[1], [2]] })]) 0 0x0104 0 (leBytes 2 9 ++ z 6)), (carried (asks (fe16 s16 [(9, { q16 .halted with log := [[1], [2]] })]) 0 0x0104 0 (leBytes 2 9 ++ z 6)) 0), { q16 .halted with log := [[1], [2]] }, carries_of (by decide +kernel), ?_, ?_, by decide +kernel, ?_, ?_⟩ <;> decide +kernel
  · refine ⟨0, (rqOf (asks (fe16 s16 [(9, { q16 .idle with reason := .writeFault })]) 0 0x0105 0 (leBytes 2 9 ++ z 6)) 0), (asks (fe16 s16 [(9, { q16 .idle with reason := .writeFault })]) 0 0x0105 0 (leBytes 2 9 ++ z 6)), (carried (asks (fe16 s16 [(9, { q16 .idle with reason := .writeFault })]) 0 0x0105 0 (leBytes 2 9 ++ z 6)) 0), { q16 .idle with reason := .writeFault }, carries_of (by decide +kernel), ?_, ?_, by decide +kernel, ?_⟩ <;> decide +kernel
  · exact ⟨0, (rqOf (asks (fe16 s16 [(9, { q16 .idle with reason := .writeFault }), (12, { q16 .idle with fn := 1, reason := .writeFault })]) 0 0x0105 0 (leBytes 2 0xFFFF ++ z 6)) 0), (asks (fe16 s16 [(9, { q16 .idle with reason := .writeFault }), (12, { q16 .idle with fn := 1, reason := .writeFault })]) 0 0x0105 0 (leBytes 2 0xFFFF ++ z 6)), (carried (asks (fe16 s16 [(9, { q16 .idle with reason := .writeFault }), (12, { q16 .idle with fn := 1, reason := .writeFault })]) 0 0x0105 0 (leBytes 2 0xFFFF ++ z 6)) 0), carries_of (by decide +kernel), by decide +kernel⟩

/-- The hypotheses of `Obligations.TenantMessagesTakeEffect` can be met. -/
theorem witness_TenantMessagesTakeEffect :
    (∃ f : Nat, ∃ r : Req, ∃ s : State, ∃ s1 : State, (Carries s f 0x0106 r s1) ∧ ((actorBad r = false) ∧ ((r.f 0 2 < 16384) ∧ ((r.f 2 1 ≤ 1) ∧ ((flagGranted s r.actor (r.f 0 2) = true) ∧ (((s.fe.flags.map (·.1)).Nodup))))))) ∧
    (∃ f : Nat, ∃ r : Req, ∃ s : State, ∃ s1 : State, (Carries s f 0x0107 r s1) ∧ ((actorBad r = false) ∧ ((r.f 0 2 < 16384) ∧ ((flagGranted s r.actor (r.f 0 2) = true))))) ∧
    (∃ f : Nat, ∃ r : Req, ∃ s : State, ∃ s1 : State, ∃ s2 : State, ∃ s3 : State, ∃ s4 : State, ∃ tn : Tenant, ∃ im : List Byte, ∃ mp : List Byte, ∃ rs : List Byte, ∃ gs : List Nat, (Carries s f 0x0110 r s1) ∧ ((alFind s.sched.tenants f = some tn) ∧ ((agentRead s1 f tn.part (r.f 0 8) (r.f 8 4) .plain = (.ok im, s2)) ∧ ((agentRead s2 f tn.part (r.f 16 8) (r.f 24 4) .plain = (.ok mp, s3)) ∧ ((agentRead s3 f tn.part (r.f 32 8) (r.f 40 4) .plain = (.ok rs, s4)) ∧ ((memUse s4 f + codeGranules (im.length + mp.length + rs.length) ≤ tn.memQuota) ∧ ((findGranules s4 (granSets s4 tn.part) (codeGranules (im.length + mp.length + rs.length)) = some gs)))))))) ∧
    (∃ f : Nat, ∃ r : Req, ∃ s : State, ∃ s1 : State, ∃ i : Image, (Carries s f 0x0111 r s1) ∧ ((alFind s.images (r.f 0 8) = some i) ∧ ((i.tenant = f) ∧ ((imageRuns s (r.f 0 8) = false))))) ∧
    (∃ f : Nat, ∃ r : Req, ∃ s : State, ∃ s1 : State, ∃ i : Image, (Carries s f 0x0111 r s1) ∧ ((alFind s.images (r.f 0 8) = some i) ∧ ((i.tenant = f) ∧ ((imageRuns s (r.f 0 8) = true))))) ∧
    (∃ image : Nat, ∃ f : Nat, ∃ s : State, ∃ i : Image, (alFind s.images image = some i) ∧ ((i.unloading = true) ∧ ((imageRuns s image = false) ∧ ((i.waiter = some f) ∧ ((f < boardFn) ∧ (((mboxOf s f).exec = true))))))) ∧
    (∃ f : Nat, ∃ r : Req, ∃ s : State, ∃ s1 : State, (Carries s f 0x0120 r s1) ∧ ((r.actor < 1024) ∧ ((r.f 0 1 ≤ 7) ∧ ((bits (r.f 8 8) 63 56 = 0) ∧ ((bits (r.f 8 8) 50 48 = 0)))))) ∧
    (∃ f : Nat, ∃ k : Nat, ∃ r : Req, ∃ s : State, ∃ s1 : State, (Carries s f 0x0121 r s1) ∧ ((2 ≤ r.f 0 1) ∧ ((r.f 0 1 ≤ 4) ∧ ((r.f 8 8 % 128 = 0) ∧ (((∀ i, i < 4 → (if i < r.f 0 1 then r.f (16 + 8 * i) 8 % 128 = 0 else r.f (16 + 8 * i) 8 = 0))) ∧ ((freeTensor s = some k))))))) ∧
    (∃ f : Nat, ∃ r : Req, ∃ s : State, ∃ s1 : State, ∃ v : VTensor, (Carries s f 0x0122 r s1) ∧ ((r.f 0 2 < 4096) ∧ ((alFind s.vtensors (r.f 0 2) = some v) ∧ ((v.tenant = f) ∧ ((tensorUsed s (r.f 0 2) = false)))))) ∧
    (∃ f : Nat, ∃ r : Req, ∃ s : State, ∃ s1 : State, ∃ tn : Tenant, (Carries s f 0x0130 r s1) ∧ ((alFind s.sched.tenants f = some tn) ∧ ((poolBad s r = false) ∧ ((alFind s.pools tn.part = none) ∧ (
    let p0 : Pool := { owner := f, base := r.f 0 8, pages := r.f 8 4, tpp := r.f 12 2, maxSeq := r.f 16 4, maxPages := r.f 20 4, pageBytes := 65536 }
    
    let p : Pool := { p0 with area := areaPlace s f (poolBytes p0) }
    (memUse { s with pools := alPut s.pools tn.part p } f ≤ tn.memQuota) ∧ ((roomFor { s with pools := alPut s.pools tn.part p } f = true))))))) ∧
    (∃ f : Nat, ∃ part : Nat, ∃ r : Req, ∃ s : State, ∃ s1 : State, ∃ p : Pool, (Carries s f 0x0131 r s1) ∧ ((poolOf s f = some (part, p)) ∧ ((poolBusy s part = false)))) ∧
    (∃ f : Nat, ∃ part : Nat, ∃ r : Req, ∃ s : State, ∃ s1 : State, ∃ p : Pool, (Carries s f 0x0132 r s1) ∧ ((poolOf s f = some (part, p)) ∧ ((r.f 0 2 < p.maxSeq)))) := by
  refine ⟨?_, ?_, ?_, ?_, ?_, ?_, ?_, ?_, ⟨?_, ?_, ?_, ?_⟩⟩
  · refine ⟨0, (rqOf (asks fl16 0 0x0106 0 (leBytes 2 3 ++ [1] ++ z 5 ++ leBytes 8 5)) 0), (asks fl16 0 0x0106 0 (leBytes 2 3 ++ [1] ++ z 5 ++ leBytes 8 5)), (carried (asks fl16 0 0x0106 0 (leBytes 2 3 ++ [1] ++ z 5 ++ leBytes 8 5)) 0), carries_of (by decide +kernel), ?_, ?_, ?_, by decide +kernel, ?_⟩ <;> decide +kernel
  · refine ⟨0, (rqOf (asks fl16 0 0x0107 0 (leBytes 2 3 ++ z 6)) 0), (asks fl16 0 0x0107 0 (leBytes 2 3 ++ z 6)), (carried (asks fl16 0 0x0107 0 (leBytes 2 3 ++ z 6)) 0), carries_of (by decide +kernel), ?_, ?_, ?_⟩ <;> decide +kernel
  · refine ⟨0, (rqOf (cd16) 0), (cd16), (carried (cd16) 0), cdA.2, cdB.2, cdC.2, { part := 0, coresMax := 4, memQuota := 1000 }, okOf cdA, okOf cdB, okOf cdC, [0], carries_of (by decide +kernel), ?_, acc_ok (by decide +kernel), acc_ok (by decide +kernel), acc_ok (by decide +kernel), by decide +kernel, ?_⟩ <;> decide +kernel
  · refine ⟨0, (rqOf (asks (un16 false) 0 0x0111 0 (leBytes 8 7)) 0), (asks (un16 false) 0 0x0111 0 (leBytes 8 7)), (carried (asks (un16 false) 0 0x0111 0 (leBytes 8 7)) 0), im16, carries_of (by decide +kernel), ?_, ?_, by decide +kernel⟩ <;> decide +kernel
  · refine ⟨0, (rqOf (asks (un16 true) 0 0x0111 0 (leBytes 8 7)) 0), (asks (un16 true) 0 0x0111 0 (leBytes 8 7)), (carried (asks (un16 true) 0 0x0111 0 (leBytes 8 7)) 0), im16, carries_of (by decide +kernel), ?_, ?_, by decide +kernel⟩ <;> decide +kernel
  · refine ⟨7, 0, { un16 false with images := [(7, { im16 with unloading := true, waiter := some 0 })], mgmt.mboxes := [(0, { exec := true, copy := rqMsg 0x0111 0 (leBytes 8 7) })] }, { im16 with unloading := true, waiter := some 0 }, ?_, ?_, ?_, ?_, by decide +kernel, ?_⟩ <;> decide +kernel
  · refine ⟨0, (rqOf (asks s16 0 0x0120 1 ([3] ++ z 7 ++ leBytes 8 (2 ^ 52 + 5))) 0), (asks s16 0 0x0120 1 ([3] ++ z 7 ++ leBytes 8 (2 ^ 52 + 5))), (carried (asks s16 0 0x0120 1 ([3] ++ z 7 ++ leBytes 8 (2 ^ 52 + 5))) 0), carries_of (by decide +kernel), ?_, ?_, ?_, by decide +kernel⟩ <;> decide +kernel
  · refine ⟨0, 1, (rqOf (asks { s16 with vtensors := [(0, vt16)] } 0 0x0121 0 ([2] ++ z 7 ++ leBytes 8 256 ++ leBytes 8 128 ++ leBytes 8 384 ++ z 16)) 0), (asks { s16 with vtensors := [(0, vt16)] } 0 0x0121 0 ([2] ++ z 7 ++ leBytes 8 256 ++ leBytes 8 128 ++ leBytes 8 384 ++ z 16)), (carried (asks { s16 with vtensors := [(0, vt16)] } 0 0x0121 0 ([2] ++ z 7 ++ leBytes 8 256 ++ leBytes 8 128 ++ leBytes 8 384 ++ z 16)) 0), carries_of (by decide +kernel), ?_, ?_, by decide +kernel, ?_, ?_⟩ <;> decide +kernel
  · refine ⟨0, (rqOf (asks { s16 with vtensors := [(0, vt16), (5, vt16)] } 0 0x0122 0 (leBytes 2 5 ++ z 6)) 0), (asks { s16 with vtensors := [(0, vt16), (5, vt16)] } 0 0x0122 0 (leBytes 2 5 ++ z 6)), (carried (asks { s16 with vtensors := [(0, vt16), (5, vt16)] } 0 0x0122 0 (leBytes 2 5 ++ z 6)) 0), vt16, carries_of (by decide +kernel), ?_, ?_, by decide +kernel, ?_⟩ <;> decide +kernel
  · refine ⟨0, (rqOf (asks s16 0 0x0130 0 (leBytes 8 0x10000 ++ leBytes 4 2 ++ leBytes 2 16 ++ z 2 ++ leBytes 4 4 ++ leBytes 4 2)) 0), (asks s16 0 0x0130 0 (leBytes 8 0x10000 ++ leBytes 4 2 ++ leBytes 2 16 ++ z 2 ++ leBytes 4 4 ++ leBytes 4 2)), (carried (asks s16 0 0x0130 0 (leBytes 8 0x10000 ++ leBytes 4 2 ++ leBytes 2 16 ++ z 2 ++ leBytes 4 4 ++ leBytes 4 2)) 0), { part := 0, coresMax := 4, memQuota := 1000 }, carries_of (by decide +kernel), ?_, ?_, by decide +kernel, ?_, ?_⟩ <;> decide +kernel
  · refine ⟨0, 0, (rqOf (asks { s16 with pools := [(0, pl16)] } 0 0x0131 0 []) 0), (asks { s16 with pools := [(0, pl16)] } 0 0x0131 0 []), (carried (asks { s16 with pools := [(0, pl16)] } 0 0x0131 0 []) 0), pl16, carries_of (by decide +kernel), ?_, by decide +kernel⟩ <;> decide +kernel
  · refine ⟨0, 0, (rqOf (asks { s16 with pools := [(0, pl16)] } 0 0x0132 0 (leBytes 2 2 ++ z 6)) 0), (asks { s16 with pools := [(0, pl16)] } 0 0x0132 0 (leBytes 2 2 ++ z 6)), (carried (asks { s16 with pools := [(0, pl16)] } 0 0x0132 0 (leBytes 2 2 ++ z 6)) 0), pl16, carries_of (by decide +kernel), ?_, by decide +kernel⟩ <;> decide +kernel

/-- The hypotheses of `Obligations.MappingMessagesTakeEffect` can be met. -/
theorem witness_MappingMessagesTakeEffect :
    (∃ f : Nat, ∃ r : Req, ∃ s : State, ∃ s1 : State, ∃ gs : List Nat, (Carries s f 0x0140 r s1) ∧ ((mapCheck s r (r.f 8 8 / 65536) = none) ∧ ((findGranules s (granSets s ((partOf s r.actor).getD 0)) (r.f 8 8 / 65536) = some gs) ∧ ((gs.Nodup) ∧ (
    let ps := (spanPages (r.f 0 8) (r.f 8 8)).zip gs
    (roomFor (putPages (allocGranules s gs (.page r.actor)) r.actor (ps.map (fun e => (e.1, entryOf r .local 0 e.2)))) r.actor = true) ∧ ((s.memOk))))))) ∧
    (∃ f : Nat, ∃ op : Nat, ∃ package : Nat, ∃ c : Instr, ∃ k : PageKind, ∃ r : Req, ∃ s : State, ∃ s1 : State, ((c = .mapHost ∧ op = 0x0141 ∧ k = .host ∧ package = 0) ∨ (c = .mapRemote ∧ op = 0x0142 ∧ k = .remote ∧ package = r.f 17 1)) ∧ ((Carries s f op r s1) ∧ ((mapCheck s r 0 = none) ∧ ((r.f 24 8 % 65536 = 0) ∧ ((r.f 24 8 + r.f 8 8 ≤ 2 ^ 64) ∧ (
    let ps := (spanPages (r.f 0 8) (r.f 8 8)).zip (spanPages (r.f 24 8) (r.f 8 8))
    (roomFor (putPages s r.actor (ps.map (fun e => (e.1, entryOf r k package e.2)))) r.actor = true))))))) ∧
    (∃ f : Nat, ∃ r : Req, ∃ s : State, ∃ s1 : State, (Carries s f 0x0143 r s1) ∧ ((actorBad r = false) ∧ ((spanBad (r.f 0 8) (r.f 8 8) = false)))) ∧
    (∃ f : Nat, ∃ r : Req, ∃ s : State, ∃ s1 : State, (Carries s f 0x0144 r s1) ∧ ((r.actor < 1024))) := by
  refine ⟨?_, ?_, ?_, ?_⟩
  · refine ⟨0, (rqOf (asks { s16 with mem.mem := [(0x80, 7), (0x30000, 9)] } 0 0x0140 1 (leBytes 8 0x2000000000 ++ leBytes 8 0x20000 ++ [5] ++ z 7)) 0), (asks { s16 with mem.mem := [(0x80, 7), (0x30000, 9)] } 0 0x0140 1 (leBytes 8 0x2000000000 ++ leBytes 8 0x20000 ++ [5] ++ z 7)), (carried (asks { s16 with mem.mem := [(0x80, 7), (0x30000, 9)] } 0 0x0140 1 (leBytes 8 0x2000000000 ++ leBytes 8 0x20000 ++ [5] ++ z 7)) 0), [0, 1], carries_of (by decide +kernel), ?_, ?_, by decide +kernel, ?_, by unfold State.memOk; decide +kernel⟩ <;> decide +kernel
  · refine ⟨0, 0x0142, 9, .mapRemote, .remote, (rqOf (asks s16 0 0x0142 1 (leBytes 8 0x2000000000 ++ leBytes 8 0x20000 ++ [3, 9] ++ z 6 ++ leBytes 8 0x50000)) 0), (asks s16 0 0x0142 1 (leBytes 8 0x2000000000 ++ leBytes 8 0x20000 ++ [3, 9] ++ z 6 ++ leBytes 8 0x50000)), (carried (asks s16 0 0x0142 1 (leBytes 8 0x2000000000 ++ leBytes 8 0x20000 ++ [3, 9] ++ z 6 ++ leBytes 8 0x50000)) 0), by decide +kernel, carries_of (by decide +kernel), ?_, ?_, ?_, ?_⟩ <;> decide +kernel
  · refine ⟨0, (rqOf (asks { s16 with cores := [(0, coreWith g3 b3)] } 0 0x0143 0 (leBytes 8 0x10000 ++ leBytes 8 0x20000)) 0), (asks { s16 with cores := [(0, coreWith g3 b3)] } 0 0x0143 0 (leBytes 8 0x10000 ++ leBytes 8 0x20000)), (carried (asks { s16 with cores := [(0, coreWith g3 b3)] } 0 0x0143 0 (leBytes 8 0x10000 ++ leBytes 8 0x20000)) 0), carries_of (by decide +kernel), ?_, ?_⟩ <;> decide +kernel
  · exact ⟨0, (rqOf (asks s16 0 0x0144 0 (leBytes 8 0x12345)) 0), (asks s16 0 0x0144 0 (leBytes 8 0x12345)), (carried (asks s16 0 0x0144 0 (leBytes 8 0x12345)) 0), carries_of (by decide +kernel), by decide +kernel⟩

end W16

namespace W17
def z17 (n : Nat) : List Byte := List.replicate n 0
def pt17 (g : Nat) : Partition :=
  { granules := [g], dedicated := false, ways := true, mask := 0xF, keep := 2, stashMib := 1, rate := 3, burst := 9, rtRate := 2, rtBurst := 8 }
/-- Partitions 0 and 3, and tenants 0 and 1 of partition 0, with a firmware set in region 0. -/
def s17 : State :=
  { run0 with
    units := 31
    cores := (List.range 8).map (fun c => (c, { present := true, power := .active }))
    mem := { mem0 with
      sets := mem0.sets ++ [{ base := 2 ^ 40, size := 2 ^ 30, member := [1], mbase := [0], owner := .firmware 0 }]
      ctls := [(0, { present := true, regs := [(0, { credit := 20 })] }), (1, { present := true })] }
    sched := { parts := [(0, pt17 0), (3, pt17 5)], tenants := [(0, { part := 0, coresMax := 4, memQuota := 1000 }), (1, { part := 0, coresMax := 2, memQuota := 5 })] }
    host := { vfEnable := true, numVfs := 8 } }
def crit17 (op slot : Nat) (pay : List Byte) (count : Nat) : List Byte :=
  leBytes 2 op ++ leBytes 2 pay.length ++ leBytes 2 0 ++ leBytes 2 (1 + 2 * slot) ++ leBytes 4 1 ++ z17 20 ++ pay ++
    leBytes 8 count
/-- The key 00112233…0F wrapped by the key 000102…1F (RFC 3394, 4.6). -/
def wrap17 : List Byte :=
  leBytes 8 0xF410B8C404F4C928 ++ leBytes 8 0x26F887FB5CB3CCCB ++ leBytes 8 0x26D30ED8E286573F ++
    leBytes 8 0x3BF4991AE7F0C7CB ++ leBytes 8 0x21DD027A9B8B98FB
def u17 : State := { s17 with selfId := some 5, links := { ports := [(3, { st := .up, width := 8 }), (4, {}), (6, { st := .dead })] } }
theorem noWait {s : State} (h : s.links.ports.all (fun e => e.2.wait.isEmpty) = true) : ∀ p, (portOf s p).wait = [] := by
  intro p
  have f : ∀ (m : AL Port), m.all (fun e => e.2.wait.isEmpty) = true → ((alFind m p).getD {}).wait = [] := by
    intro m
    induction m with
    | nil => intro _; rfl
    | cons e r ih =>
      obtain ⟨a, c⟩ := e
      intro h
      simp only [List.all_cons, Bool.and_eq_true, List.isEmpty_iff] at h
      unfold alFind
      split
      · exact h.1
      · exact ih h.2
  exact f _ h
def kc17 : List Byte := [3, 0, 0, 0] ++ leBytes 4 5 ++ wrap17
/-- What a critical request of slot 0 must meet beside its authentication code. -/
def preAuth (s : State) (r : Req) (i : OpInfo) : Bool :=
  !(s.ras.failed && !failedOps.contains r.op) && !lengthBad r i && senderOk r.fn i.who && !reservedSet r i &&
    i.unit.isNone && r.critical && decide (r.slot = 0) && !(keySlot s 0).locked &&
    decide ((keySlot s 0).counter < fieldAt r.msg (32 + r.pay.length) 8)
theorem check_auth {s : State} {r : Req} {i : OpInfo} {key : List Byte} (hi : opInfo r.op = some i)
    (h : preAuth s r i = true) (hk : (keySlot s 0).key = some key)
    (hm : aesCmac (key.map BitVec.toNat) ((r.msg.take (32 + r.pay.length + 8)).map BitVec.toNat) =
      ((r.msg.drop (32 + r.pay.length + 16)).take 16).map BitVec.toNat) :
    (checkReq s r).1 = none  ∧
    (keySlot (checkReq s r).2 0).key = some key := by
  unfold preAuth at h
  simp only [Bool.and_eq_true, Bool.not_eq_true', decide_eq_true_eq, Option.isNone_iff_eq_none] at h
  obtain ⟨⟨⟨⟨⟨⟨⟨⟨h1, h2⟩, h3⟩, h4⟩, h5⟩, h6⟩, h7⟩, h8⟩, h9⟩ := h
  unfold checkReq
  cases hp : i.perm with
  | none => simp only [hi, h1, h2, h3, h4, h5, hp]; exact ⟨rfl, hk⟩
  | some p =>
    have hu : unowned s = false := by simp [unowned, hk]
    have ha : authCheck s r p = (none, { s with mgmt := { s.mgmt with keys := (alPut s.mgmt.keys 0
        ({ keySlot s 0 with counter := fieldAt r.msg (32 + r.pay.length) 8 })) } }) := by
      unfold authCheck
      simp [hu, h6, h7, h8, hk, Nat.not_le.2 h9, -List.map_take, -List.map_drop, hm]
    simp only [hi, h1, h2, h3, h4, h5, hp, ha]
    exact ⟨rfl, (congrArg KeySlot.key (alGet_alPut_self ({} : KeySlot) _ 0 _)).trans hk⟩
def key17 : List Byte := (List.range 32).map (BitVec.ofNat 8)
def mac17 (body : List Byte) : List Byte := (aesCmac (key17.map BitVec.toNat) (body.map BitVec.toNat)).map (BitVec.ofNat 8)
theorem mac17_len (b : List Byte) : (mac17 b).length = 16 := by
  have := aesCmac_blk (key := key17.map BitVec.toNat) (m := b.map BitVec.toNat) (by unfold Blk; decide +kernel)
    (fun x hx => by obtain ⟨y, -, rfl⟩ := List.mem_map.1 hx; exact y.isLt)
  simp [mac17, this.1]
theorem mac17_back (b : List Byte) :
    (mac17 b).map BitVec.toNat = aesCmac (key17.map BitVec.toNat) (b.map BitVec.toNat) := by
  have := aesCmac_blk (key := key17.map BitVec.toNat) (m := b.map BitVec.toNat) (by unfold Blk; decide +kernel)
    (fun x hx => by obtain ⟨y, -, rfl⟩ := List.mem_map.1 hx; exact y.isLt)
  unfold mac17
  rw [List.map_map]
  conv => rhs; rw [← List.map_id (aesCmac _ _)]
  exact List.map_congr_left (fun x hx => by simpa using Nat.mod_eq_of_lt (this.2 x hx))
/-- A critical request signed with that key: `n` is its length without the padding and the code. -/
def signed17 (op : Nat) (pay : List Byte) : State :=
  let b := crit17 op 0 pay 7
  { s17 with mgmt := { s17.mgmt with
      mboxes := [(0, { req := b ++ z17 8 ++ mac17 b, reqPending := true })], keys := [(0, { key := some key17, mask := 127 })] } }
theorem carries_signed {op : Nat} {pay : List Byte} {i : OpInfo} (h : isDue (signed17 op pay) 0 op = true)
    (hi : opInfo op = some i) (hp : preAuth (Taken (signed17 op pay) 0) (rqOf (signed17 op pay) 0) i = true)
    (hl : 32 + (rqOf (signed17 op pay) 0).pay.length + 8 = (crit17 op 0 pay 7).length)
    (ho : (rqOf (signed17 op pay) 0).op = op)
    (hk : (keySlot (Taken (signed17 op pay) 0) 0).key = some key17) :
    Carries (signed17 op pay) 0 op (rqOf (signed17 op pay) 0) (carried (signed17 op pay) 0) ∧
      (keySlot (carried (signed17 op pay) 0) 0).key = some key17 := by
  suffices hc : _ from have c := check_auth (by rw [ho]; exact hi) hp hk hc; ⟨⟨due_of h, Prod.ext c.1 rfl⟩, c.2⟩
  have hl2 : 32 + (rqOf (signed17 op pay) 0).pay.length + 16 = (crit17 op 0 pay 7 ++ z17 8).length := by
    rw [List.length_append, ← hl]; simp [z17]
  obtain ⟨rest, hm⟩ : ∃ rest, (rqOf (signed17 op pay) 0).msg =
      crit17 op 0 pay 7 ++ z17 8 ++ mac17 (crit17 op 0 pay 7) ++ rest := ⟨_, rfl⟩
  rw [hl, hl2, hm]
  have e1 : (crit17 op 0 pay 7 ++ z17 8 ++ mac17 (crit17 op 0 pay 7) ++ rest).take (crit17 op 0 pay 7).length =
      crit17 op 0 pay 7 := by rw [List.append_assoc, List.append_assoc]; exact List.take_left
  have e2 : ((crit17 op 0 pay 7 ++ z17 8 ++ mac17 (crit17 op 0 pay 7) ++ rest).drop (crit17 op 0 pay 7 ++ z17 8).length).take 16 =
      mac17 (crit17 op 0 pay 7) := by
    rw [List.append_assoc, List.drop_left, ← mac17_len (crit17 op 0 pay 7)]; exact List.take_left
  rw [e1, e2, mac17_back]
def unl17 : List Byte := [2, 0] ++ leBytes 2 1 ++ z17 4
def fl17 (n : Nat) : List FaultEnt := (List.range n).map (fun k => { kind := 3, flags := 1, place := k, detail := 0, boot := 1 })
def withF (s : State) (n : Nat) : State := { s with mgmt := { s.mgmt with faults := fl17 n, bootNo := 6 } }
def fw17 : State :=
  { asks { s17 with host.mem := [] } 0 0x0401 0 (leBytes 8 0xA000 ++ leBytes 4 0 ++ z17 4) with
    mgmt := { mboxes := [(0, { req := rqMsg 0x0401 0 (leBytes 8 0xA000 ++ leBytes 4 0 ++ z17 4), reqPending := true })], banks := [{}, {}] } }
def rd17 : Acc (List Byte) × State := ownRead (0 / 4096 + 2) (carried fw17 0) 0 0xA000 0 []
/-- The hypotheses of `Obligations.PartitionMessagesTakeEffect` can be met. -/
theorem witness_PartitionMessagesTakeEffect :
    (∃ f : Nat, ∃ r : Req, ∃ s : State, ∃ s1 : State, ∃ s0 : State, (Carries s f 0x0200 r s1) ∧ ((partBad s r = false) ∧ ((r.f 1 1 ≤ 1) ∧ ((r.f 2 1 ≤ 1) ∧ ((setBits 64 (r.f 16 8) ≠ []) ∧ (((∀ g ∈ setBits 64 (r.f 16 8), g < Config.partitions s.variant)) ∧ (((r.f 2 1 = 1 → r.f 4 2 % 65536 ≠ 0)) ∧ ((rateBad (r.f 8 2) (r.f 10 2) = false) ∧ ((rateBad (r.f 12 2) (r.f 14 2) = false) ∧ ((alFind s.sched.parts (r.f 0 1) = none) ∧ (((∀ e ∈ s.sched.parts, ∀ g ∈ e.2.granules, g ∉ setBits 64 (r.f 16 8))) ∧ (((r.f 1 1 = 1 → mayDedicate s (setBits 64 (r.f 16 8)) = true ∧ dedicateSets s1 (r.f 0 1) (setBits 64 (r.f 16 8)) = some s0)) ∧ (((r.f 1 1 = 0 → s0 = s1)) ∧ (
    let s' := { s0 with sched.parts := alPut s0.sched.parts (r.f 0 1) (newPart r (setBits 64 (r.f 16 8))) }
    (strictFits s' = true) ∧ ((partsValid s' = true)))))))))))))))) ∧
    (∃ f : Nat, ∃ r : Req, ∃ s : State, ∃ s1 : State, ∃ p : Partition, (Carries s f 0x0201 r s1) ∧ ((partBad s r = false) ∧ ((alFind s.sched.parts (r.f 0 1) = some p) ∧ (((∀ e ∈ s.sched.tenants, e.2.part ≠ r.f 0 1)) ∧ (((∀ c ∈ partCores s (r.f 0 1), (coreOf s c).draining = false ∧ (execOf s c).wb = []))))))) ∧
    (∃ f : Nat, ∃ r : Req, ∃ s : State, ∃ s1 : State, ∃ p : Partition, (Carries s f 0x0202 r s1) ∧ ((partBad s r = false) ∧ ((r.actor < 1024) ∧ ((alFind s.sched.parts (r.f 0 1) = some p) ∧ ((coresBad s (r.f 0 1) (r.f 2 2) = false) ∧ ((alFind s.sched.tenants r.actor = none) ∧ ((s.sched.strict = false) ∧ ((firmFits { s with sched.tenants := alPut s.sched.tenants r.actor (newTenant (r.f 0 1) (r.f 2 2) (r.f 8 8)) } r.actor = true))))))))) ∧
    (∃ f : Nat, ∃ r : Req, ∃ s : State, ∃ s1 : State, ∃ tn : Tenant, (Carries s f 0x0203 r s1) ∧ ((r.actor < 1024) ∧ ((alFind s.sched.tenants r.actor = some tn) ∧ (((∀ e ∈ s.fe.queues, e.2.fn = r.actor → e.2.entries = [] ∧ e.2.job = none)) ∧ ((s.dbg.scope ≠ some r.actor)))))) ∧
    (∃ f : Nat, ∃ r : Req, ∃ s : State, ∃ s1 : State, ∃ p : Partition, (Carries s f 0x0204 r s1) ∧ ((qosBad s r = false) ∧ ((alFind s.sched.parts (r.f 0 1) = some p) ∧ ((bit (r.f 1 1) 4 = false) ∧ ((bit (r.f 1 1) 5 = false) ∧ (
    let s' := { s with sched.parts := alPut s.sched.parts (r.f 0 1) (qosPart r p) }
    (strictFits s' = true) ∧ ((partsValid s' = true)))))))) ∧
    (∃ f : Nat, ∃ r : Req, ∃ s : State, ∃ s1 : State, ∃ p : Partition, ∃ tn : Tenant, (Carries s f 0x0204 r s1) ∧ ((qosBad s r = false) ∧ ((alFind s.sched.parts (r.f 0 1) = some p) ∧ (((bit (r.f 1 1) 4 = true ∨ bit (r.f 1 1) 5 = true)) ∧ ((strictFits { s with sched.parts := alPut s.sched.parts (r.f 0 1) (qosPart r p) } = true) ∧ ((partsValid { s with sched.parts := alPut s.sched.parts (r.f 0 1) (qosPart r p) } = true) ∧ ((alFind s.sched.tenants r.actor = some tn) ∧ ((tn.part = r.f 0 1))))))))) ∧
    (∃ f : Nat, ∃ r : Req, ∃ s : State, ∃ s1 : State, (Carries s f 0x0205 r s1) ∧ ((r.f 0 1 ≤ 48) ∧ ((r.f 1 1 ≤ 16)))) ∧
    (∃ f : Nat, ∃ r : Req, ∃ s : State, ∃ s1 : State, (Carries s f 0x0206 r s1) ∧ ((r.f 0 2 ≤ 255) ∧ ((r.actor < 1024) ∧ ((r.f 2 1 = 1) ∧ ((alFind s.fe.grants (r.f 0 2) = none)))))) ∧
    (∃ f : Nat, ∃ r : Req, ∃ s : State, ∃ s1 : State, (Carries s f 0x0206 r s1) ∧ ((r.f 0 2 ≤ 255) ∧ ((r.actor < 1024) ∧ ((r.f 2 1 = 0) ∧ ((alFind s.fe.grants (r.f 0 2) = some r.actor)))))) ∧
    (∃ f : Nat, ∃ r : Req, ∃ s : State, ∃ s1 : State, (Carries s f 0x0207 r s1) ∧ ((1 ≤ r.f 0 2) ∧ ((r.f 0 2 ≤ 168)))) ∧
    (∃ f : Nat, ∃ r : Req, ∃ s : State, ∃ s1 : State, ∃ p : Partition, (Carries s f 0x0208 r s1) ∧ ((partBad s r = false) ∧ ((alFind s.sched.parts (r.f 0 1) = some p) ∧ ((partsValid { s with sched.parts := alPut s.sched.parts (r.f 0 1) { p with stashMib := r.f 1 1 } } = true))))) ∧
    (∃ f : Nat, ∃ r : Req, ∃ s : State, ∃ s1 : State, (Carries s f 0x0209 r s1) ∧ ((r.f 0 1 ≤ 1) ∧ ((s.sched.parts = [])))) := by
  refine ⟨?_, ?_, ?_, ?_, ?_, ?_, ?_, ?_, ⟨?_, ?_, ?_, ?_⟩⟩
  · refine ⟨0, (rqOf (asks s17 0 0x0200 0 ([4, 0, 1, 2] ++ leBytes 2 0xF0 ++ [1, 0] ++ leBytes 2 3 ++ leBytes 2 8 ++ leBytes 2 1 ++ leBytes 2 5 ++ leBytes 8 6)) 0), (asks s17 0 0x0200 0 ([4, 0, 1, 2] ++ leBytes 2 0xF0 ++ [1, 0] ++ leBytes 2 3 ++ leBytes 2 8 ++ leBytes 2 1 ++ leBytes 2 5 ++ leBytes 8 6)), (carried (asks s17 0 0x0200 0 ([4, 0, 1, 2] ++ leBytes 2 0xF0 ++ [1, 0] ++ leBytes 2 3 ++ leBytes 2 8 ++ leBytes 2 1 ++ leBytes 2 5 ++ leBytes 8 6)) 0), carried (asks s17 0 0x0200 0 ([4, 0, 1, 2] ++ leBytes 2 0xF0 ++ [1, 0] ++ leBytes 2 3 ++ leBytes 2 8 ++ leBytes 2 1 ++ leBytes 2 5 ++ leBytes 8 6)) 0, carries_of (by decide +kernel), ?_, ?_, by decide +kernel, ?_, ?_, ?_, ?_, ?_, ?_, ?_, ?_, fun _ => rfl, ?_, ?_⟩ <;> decide +kernel
  · refine ⟨0, (rqOf (asks s17 0 0x0201 0 ([3] ++ z17 7)) 0), (asks s17 0 0x0201 0 ([3] ++ z17 7)), (carried (asks s17 0 0x0201 0 ([3] ++ z17 7)) 0), pt17 5, carries_of (by decide +kernel), ?_, ?_, by decide +kernel, ?_⟩ <;> decide +kernel
  · refine ⟨0, (rqOf (asks { s17 with sched.tenants := [(0, { part := 0, coresMax := 4, memQuota := 1000 })] } 0 0x0202 1 ([0, 0] ++ leBytes 2 3 ++ z17 4 ++ leBytes 8 7)) 0), (asks { s17 with sched.tenants := [(0, { part := 0, coresMax := 4, memQuota := 1000 })] } 0 0x0202 1 ([0, 0] ++ leBytes 2 3 ++ z17 4 ++ leBytes 8 7)), (carried (asks { s17 with sched.tenants := [(0, { part := 0, coresMax := 4, memQuota := 1000 })] } 0 0x0202 1 ([0, 0] ++ leBytes 2 3 ++ z17 4 ++ leBytes 8 7)) 0), pt17 0, carries_of (by decide +kernel), ?_, ?_, by decide +kernel, ?_, ?_, ?_, ?_⟩ <;> decide +kernel
  · refine ⟨0, (rqOf (asks s17 0 0x0203 1 []) 0), (asks s17 0 0x0203 1 []), (carried (asks s17 0 0x0203 1 []) 0), { part := 0, coresMax := 2, memQuota := 5 }, carries_of (by decide +kernel), ?_, ?_, by decide +kernel, ?_⟩ <;> decide +kernel
  · refine ⟨0, (rqOf (asks s17 0 0x0204 0 ([0, 15, 1, 1] ++ leBytes 2 0xF00 ++ z17 2 ++ leBytes 2 4 ++ leBytes 2 11 ++ leBytes 2 1 ++ leBytes 2 5 ++ z17 16)) 0), (asks s17 0 0x0204 0 ([0, 15, 1, 1] ++ leBytes 2 0xF00 ++ z17 2 ++ leBytes 2 4 ++ leBytes 2 11 ++ leBytes 2 1 ++ leBytes 2 5 ++ z17 16)), (carried (asks s17 0 0x0204 0 ([0, 15, 1, 1] ++ leBytes 2 0xF00 ++ z17 2 ++ leBytes 2 4 ++ leBytes 2 11 ++ leBytes 2 1 ++ leBytes 2 5 ++ z17 16)) 0), pt17 0, carries_of (by decide +kernel), ?_, ?_, by decide +kernel, ?_, ?_, ?_⟩ <;> decide +kernel
  · refine ⟨0, (rqOf (asks s17 0 0x0204 1 ([0, 48, 0, 0] ++ z17 12 ++ leBytes 2 3 ++ z17 6 ++ leBytes 8 9)) 0), (asks s17 0 0x0204 1 ([0, 48, 0, 0] ++ z17 12 ++ leBytes 2 3 ++ z17 6 ++ leBytes 8 9)), (carried (asks s17 0 0x0204 1 ([0, 48, 0, 0] ++ z17 12 ++ leBytes 2 3 ++ z17 6 ++ leBytes 8 9)) 0), pt17 0, { part := 0, coresMax := 2, memQuota := 5 }, carries_of (by decide +kernel), ?_, by decide +kernel, ?_, ?_, ?_, ?_, ?_⟩ <;> decide +kernel
  · refine ⟨0, (rqOf (asks s17 0 0x0205 0 ([5, 6] ++ z17 6)) 0), (asks s17 0 0x0205 0 ([5, 6] ++ z17 6)), (carried (asks s17 0 0x0205 0 ([5, 6] ++ z17 6)) 0), carries_of (by decide +kernel), ?_, ?_⟩ <;> decide +kernel
  · refine ⟨0, (rqOf (asks { s17 with fe := { grants := [(4, 1)], flags := [(65, 7), (256, 9)] } } 0 0x0206 1 ([1, 0, 1] ++ z17 5)) 0), (asks { s17 with fe := { grants := [(4, 1)], flags := [(65, 7), (256, 9)] } } 0 0x0206 1 ([1, 0, 1] ++ z17 5)), (carried (asks { s17 with fe := { grants := [(4, 1)], flags := [(65, 7), (256, 9)] } } 0 0x0206 1 ([1, 0, 1] ++ z17 5)) 0), carries_of (by decide +kernel), ?_, ?_, ?_, by decide +kernel⟩ <;> decide +kernel
  · refine ⟨0, (rqOf (asks { s17 with fe := { grants := [(4, 1)], flags := [(65, 7), (256, 9)] } } 0 0x0206 1 ([4, 0, 0] ++ z17 5)) 0), (asks { s17 with fe := { grants := [(4, 1)], flags := [(65, 7), (256, 9)] } } 0 0x0206 1 ([4, 0, 0] ++ z17 5)), (carried (asks { s17 with fe := { grants := [(4, 1)], flags := [(65, 7), (256, 9)] } } 0 0x0206 1 ([4, 0, 0] ++ z17 5)) 0), carries_of (by decide +kernel), ?_, ?_, ?_, by decide +kernel⟩ <;> decide +kernel
  · refine ⟨0, (rqOf (asks s17 0 0x0207 0 ([168, 0] ++ z17 6)) 0), (asks s17 0 0x0207 0 ([168, 0] ++ z17 6)), (carried (asks s17 0 0x0207 0 ([168, 0] ++ z17 6)) 0), carries_of (by decide +kernel), ?_, ?_⟩ <;> decide +kernel
  · refine ⟨0, (rqOf (asks s17 0 0x0208 0 ([0, 2] ++ z17 6)) 0), (asks s17 0 0x0208 0 ([0, 2] ++ z17 6)), (carried (asks s17 0 0x0208 0 ([0, 2] ++ z17 6)) 0), pt17 0, carries_of (by decide +kernel), ?_, ?_, by decide +kernel⟩ <;> decide +kernel
  · refine ⟨0, (rqOf (asks { s17 with sched := {} } 0 0x0209 0 ([1] ++ z17 7)) 0), (asks { s17 with sched := {} } 0 0x0209 0 ([1] ++ z17 7)), (carried (asks { s17 with sched := {} } 0 0x0209 0 ([1] ++ z17 7)) 0), carries_of (by decide +kernel), ?_, ?_⟩ <;> decide +kernel

/-- The hypotheses of `Obligations.LinkMessagesTakeEffect` can be met. -/
theorem witness_LinkMessagesTakeEffect :
    (∃ f : Nat, ∃ r : Req, ∃ s : State, ∃ s1 : State, (Carries s f 0x0300 r s1) ∧ ((r.f 8 8 < 2 ^ 40) ∧ (((∀ p ∈ setBits 40 (r.f 8 8), Config.portBonded s.variant p = true))))) ∧
    (∃ f : Nat, ∃ r : Req, ∃ s : State, ∃ s1 : State, (Carries s f 0x0301 r s1) ∧ ((Config.portBonded s.variant (r.f 0 1) = true) ∧ ((((portOf s (r.f 0 1)).st = .down → announcedId s ≠ none))))) ∧
    (∃ f : Nat, ∃ r : Req, ∃ s : State, ∃ s1 : State, (Carries s f 0x0302 r s1) ∧ ((routeEntries r ≠ []) ∧ (((routeEntries r).length ≤ 256) ∧ (((∀ e ∈ routeEntries r, e < 2 ^ 48 ∧ ∀ p ∈ setBits 40 (e / 256), Config.portBonded s.variant p = true)) ∧ (((∀ p, (portOf s p).wait = []))))))) ∧
    (∃ f : Nat, ∃ r : Req, ∃ s : State, ∃ s1 : State, (Carries s f 0x0303 r s1) ∧ ((r.f 0 2 < 512) ∧ ((r.f 3 1 ≤ 63) ∧ (((bit (r.f 3 1) 5 = true → (bit (r.f 3 1) 1 = true ∨ r.f 4 2 < 1024) ∧ r.f 8 8 % 2 ^ 30 = 0 ∧ r.f 16 8 % 2 ^ 30 = 0)))))) ∧
    (∃ f : Nat, ∃ r : Req, ∃ s : State, ∃ s1 : State, (Carries s f 0x0304 r s1) ∧ ((1 ≤ r.f 0 4) ∧ ((r.f 0 4 ≤ 1000)))) ∧
    (∃ f : Nat, ∃ r : Req, ∃ s : State, ∃ s1 : State, (Carries s f 0x0310 r s1) ∧ ((r.f 0 1 ≤ 1) ∧ ((s.twin.st = .off) ∧ ((announcedId s ≠ none) ∧ (((r.f 0 1 = 1 → s.sched.parts = [] ∧ s.pools = [] ∧ ∀ e ∈ s.fns, e.2.ring.configured = false))))))) ∧
    (∃ f : Nat, ∃ r : Req, ∃ s : State, ∃ s1 : State, (Carries s f 0x0311 r s1)) ∧
    (∃ f : Nat, ∃ r : Req, ∃ s : State, ∃ s1 : State, (Carries s f 0x0312 r s1) ∧ ((r.f 0 1 ≤ 1) ∧ ((s.twin.role = 1) ∧ (((s.twin.st = .attaching ∨ s.twin.st = .synced ∨ s.twin.st = .degraded)) ∧ ((s.ras.failed = false) ∧ (((r.f 0 1 = 0 → s.twin.deadSynced = true ∧ ∀ p ∈ Config.twinPorts s.variant, (portOf s p).st = .dead)))))))) := by
  refine ⟨?_, ?_, ?_, ?_, ?_, ?_, ?_, ?_⟩
  · refine ⟨0, (rqOf (asks u17 0 0x0300 0 ([5] ++ z17 7 ++ leBytes 8 0x50)) 0), (asks u17 0 0x0300 0 ([5] ++ z17 7 ++ leBytes 8 0x50)), (carried (asks u17 0 0x0300 0 ([5] ++ z17 7 ++ leBytes 8 0x50)) 0), carries_of (by decide +kernel), ?_, ?_⟩ <;> decide +kernel
  · refine ⟨0, (rqOf (asks u17 0 0x0301 0 ([4] ++ z17 7)) 0), (asks u17 0 0x0301 0 ([4] ++ z17 7)), (carried (asks u17 0 0x0301 0 ([4] ++ z17 7)) 0), carries_of (by decide +kernel), ?_, ?_⟩ <;> decide +kernel
  · refine ⟨0, (rqOf (asks u17 0 0x0302 0 ([2] ++ z17 7 ++ leBytes 8 0x5009 ++ leBytes 8 0x1002)) 0), (asks u17 0 0x0302 0 ([2] ++ z17 7 ++ leBytes 8 0x5009 ++ leBytes 8 0x1002)), (carried (asks u17 0 0x0302 0 ([2] ++ z17 7 ++ leBytes 8 0x5009 ++ leBytes 8 0x1002)) 0), carries_of (by decide +kernel), ?_, ?_, ?_, noWait (by decide +kernel)⟩ <;> decide +kernel
  · refine ⟨0, (rqOf (asks u17 0 0x0303 0 ([1, 1, 9, 0x2C, 1, 0, 0, 0] ++ leBytes 8 (2 ^ 30) ++ leBytes 8 (2 ^ 31))) 0), (asks u17 0 0x0303 0 ([1, 1, 9, 0x2C, 1, 0, 0, 0] ++ leBytes 8 (2 ^ 30) ++ leBytes 8 (2 ^ 31))), (carried (asks u17 0 0x0303 0 ([1, 1, 9, 0x2C, 1, 0, 0, 0] ++ leBytes 8 (2 ^ 30) ++ leBytes 8 (2 ^ 31))) 0), carries_of (by decide +kernel), ?_, ?_, ?_⟩ <;> decide +kernel
  · refine ⟨0, (rqOf (asks u17 0 0x0304 0 (leBytes 4 1000 ++ z17 4)) 0), (asks u17 0 0x0304 0 (leBytes 4 1000 ++ z17 4)), (carried (asks u17 0 0x0304 0 (leBytes 4 1000 ++ z17 4)) 0), carries_of (by decide +kernel), ?_, ?_⟩ <;> decide +kernel
  · refine ⟨0, (rqOf (asks { u17 with sched := {} } 0 0x0310 0 ([1] ++ z17 7)) 0), (asks { u17 with sched := {} } 0 0x0310 0 ([1] ++ z17 7)), (carried (asks { u17 with sched := {} } 0 0x0310 0 ([1] ++ z17 7)) 0), carries_of (by decide +kernel), ?_, ?_, ?_, by decide +kernel⟩ <;> decide +kernel
  · exact ⟨0, (rqOf (asks { u17 with twin.st := .degraded } 0 0x0311 0 []) 0), (asks { u17 with twin.st := .degraded } 0 0x0311 0 []), (carried (asks { u17 with twin.st := .degraded } 0 0x0311 0 []) 0), carries_of (by decide +kernel)⟩
  · refine ⟨0, (rqOf (asks { u17 with twin := { st := .synced, role := 1, deadSynced := true }, links.ports := (Config.twinPorts .gbl8).map (fun p => (p, { st := .dead })) } 0 0x0312 0 ([0] ++ z17 7)) 0), (asks { u17 with twin := { st := .synced, role := 1, deadSynced := true }, links.ports := (Config.twinPorts .gbl8).map (fun p => (p, { st := .dead })) } 0 0x0312 0 ([0] ++ z17 7)), (carried (asks { u17 with twin := { st := .synced, role := 1, deadSynced := true }, links.ports := (Config.twinPorts .gbl8).map (fun p => (p, { st := .dead })) } 0 0x0312 0 ([0] ++ z17 7)) 0), carries_of (by decide +kernel), ?_, ?_, ?_, by decide +kernel, ?_⟩ <;> decide +kernel

/-- The hypotheses of `Obligations.DeviceMessagesTakeEffect` can be met. -/
theorem witness_DeviceMessagesTakeEffect :
    (∃ f : Nat, ∃ r : Req, ∃ s : State, ∃ s1 : State, (Carries s f 0x0320 r s1)) ∧
    (∃ f : Nat, ∃ r : Req, ∃ s : State, ∃ s1 : State, (Carries s f 0x0321 r s1) ∧ ((r.f 0 1 = 0) ∧ ((s.mgmt.faults.length < listMax) ∧ (
    let e : FaultEnt := { kind := r.f 16 1, flags := r.f 17 1, place := r.f 18 2, detail := r.f 20 4,
                          boot := if r.f 16 1 = 15 then r.f 24 4 else s.mgmt.bootNo }
    (entryValid s e = true))))) ∧
    (∃ f : Nat, ∃ r : Req, ∃ s : State, ∃ s1 : State, ∃ e : FaultEnt, (Carries s f 0x0321 r s1) ∧ ((r.f 0 1 = 1) ∧ ((s.mgmt.faults[r.f 4 4]? = some e)))) ∧
    (∃ f : Nat, ∃ r : Req, ∃ s : State, ∃ s1 : State, (Carries s f 0x0400 r s1) ∧ ((r.f 0 1 ≤ 7) ∧ ((r.f 4 4 ≤ 127) ∧ ((r.slot = 0) ∧ ((r.f 1 1 = 0) ∧ (((keySlot s1 0).key = none))))))) ∧
    (∃ f : Nat, ∃ r : Req, ∃ s : State, ∃ s1 : State, (Carries s f 0x0400 r s1) ∧ ((r.f 0 1 ≤ 7) ∧ ((r.f 4 4 ≤ 127) ∧ ((r.slot = 0) ∧ (∃ k0, (r.f 1 1 = 0) ∧ (((keySlot s1 0).key = some k0))))))) ∧
    (∃ f : Nat, ∃ r : Req, ∃ s : State, ∃ s1 : State, (Carries s f 0x0400 r s1) ∧ ((r.f 0 1 ≤ 7) ∧ ((r.f 4 4 ≤ 127) ∧ ((r.slot = 0) ∧ ((r.f 1 1 = 1)))))) ∧
    (∃ f : Nat, ∃ r : Req, ∃ s : State, ∃ s1 : State, ∃ s2 : State, ∃ im : List Byte, (Carries s f 0x0401 r s1) ∧ ((ownRead (r.f 8 4 / 4096 + 2) s1 (if f = boardFn then pf else f) (r.f 0 8) (r.f 8 4) [] = (.ok im, s2)) ∧ ((s.mgmt.banks.length = 2) ∧ ((s.mgmt.activeBank ≤ 1))))) ∧
    (∃ f : Nat, ∃ r : Req, ∃ s : State, ∃ s1 : State, (Carries s f 0x0403 r s1) ∧ ((1 ≤ r.f 0 1) ∧ ((r.f 0 1 ≤ 2) ∧ (((r.f 2 2 < 1024 ∨ r.f 2 2 = 0xFFFF ∧ s.sched.strict = false)))))) ∧
    (∃ f : Nat, ∃ r : Req, ∃ s : State, ∃ s1 : State, (Carries s f 0x0404 r s1)) ∧
    (∃ f : Nat, ∃ r : Req, ∃ s : State, ∃ s1 : State, (Carries s f 0x0405 r s1)) := by
  refine ⟨?_, ?_, ?_, ?_, ?_, ?_, ?_, ?_, ⟨?_, ?_⟩⟩
  · exact ⟨0, (rqOf (withF (asks s17 0 0x0320 0 (leBytes 4 1 ++ z17 4)) 3) 0), (withF (asks s17 0 0x0320 0 (leBytes 4 1 ++ z17 4)) 3), (carried (withF (asks s17 0 0x0320 0 (leBytes 4 1 ++ z17 4)) 3) 0), carries_of (by decide +kernel)⟩
  · refine ⟨0, (rqOf (withF (asks s17 0 0x0321 0 (z17 16 ++ [2, 2] ++ leBytes 2 1 ++ leBytes 4 4 ++ z17 8)) 3) 0), (withF (asks s17 0 0x0321 0 (z17 16 ++ [2, 2] ++ leBytes 2 1 ++ leBytes 4 4 ++ z17 8)) 3), (carried (withF (asks s17 0 0x0321 0 (z17 16 ++ [2, 2] ++ leBytes 2 1 ++ leBytes 4 4 ++ z17 8)) 3) 0), carries_of (by decide +kernel), ?_, ?_, ?_⟩ <;> decide +kernel
  · refine ⟨0, (rqOf (withF (asks s17 0 0x0321 0 ([1, 0, 0, 0] ++ leBytes 4 1 ++ z17 24)) 3) 0), (withF (asks s17 0 0x0321 0 ([1, 0, 0, 0] ++ leBytes 4 1 ++ z17 24)) 3), (carried (withF (asks s17 0 0x0321 0 ([1, 0, 0, 0] ++ leBytes 4 1 ++ z17 24)) 3) 0), { kind := 3, flags := 1, place := 1, detail := 0, boot := 1 }, carries_of (by decide +kernel), ?_, ?_⟩ <;> decide +kernel
  · refine ⟨0, (rqOf (asks s17 0 0x0400 0 ([3, 0, 0, 0] ++ leBytes 4 5 ++ key17 ++ z17 8)) 0), (asks s17 0 0x0400 0 ([3, 0, 0, 0] ++ leBytes 4 5 ++ key17 ++ z17 8)), (carried (asks s17 0 0x0400 0 ([3, 0, 0, 0] ++ leBytes 4 5 ++ key17 ++ z17 8)) 0), carries_of (by decide +kernel), ?_, ?_, ?_, by decide +kernel, ?_⟩ <;> decide +kernel
  · refine ⟨0, (rqOf (signed17 0x0400 kc17) 0), (signed17 0x0400 kc17), (carried (signed17 0x0400 kc17) 0), (carries_signed (by decide +kernel) rfl (by decide +kernel) (by decide +kernel) (by decide +kernel) (by decide +kernel)).1, ?_, ?_, ?_, key17, ?_, (carries_signed (by decide +kernel) rfl (by decide +kernel) (by decide +kernel) (by decide +kernel) (by decide +kernel)).2⟩ <;> decide +kernel
  · refine ⟨0, (rqOf (asks s17 0 0x0400 0 ([0, 1, 0, 0] ++ z17 44)) 0), (asks s17 0 0x0400 0 ([0, 1, 0, 0] ++ z17 44)), (carried (asks s17 0 0x0400 0 ([0, 1, 0, 0] ++ z17 44)) 0), carries_of (by decide +kernel), ?_, ?_, ?_, by decide +kernel⟩ <;> decide +kernel
  · refine ⟨0, (rqOf (fw17) 0), (fw17), (carried (fw17) 0), rd17.2, okOf rd17, carries_of (by decide +kernel), acc_ok (x := rd17) (by decide +kernel), by decide +kernel, ?_⟩ <;> decide +kernel
  · refine ⟨0, (rqOf (signed17 0x0403 unl17) 0), (signed17 0x0403 unl17), (carried (signed17 0x0403 unl17) 0), (carries_signed (by decide +kernel) rfl (by decide +kernel) (by decide +kernel) (by decide +kernel) (by decide +kernel)).1, ?_, ?_, ?_⟩ <;> decide +kernel
  · exact ⟨0, (rqOf (asks { s17 with dbg := { level := 2, scope := some 1, breaks := [(1, { en := true })], raised := true }, frozen := some none } 0 0x0404 0 []) 0), (asks { s17 with dbg := { level := 2, scope := some 1, breaks := [(1, { en := true })], raised := true }, frozen := some none } 0 0x0404 0 []), (carried (asks { s17 with dbg := { level := 2, scope := some 1, breaks := [(1, { en := true })], raised := true }, frozen := some none } 0 0x0404 0 []) 0), carries_of (by decide +kernel)⟩
  · exact ⟨0, (rqOf (asks s17 0 0x0405 0 []) 0), (asks s17 0 0x0405 0 []), (carried (asks s17 0 0x0405 0 []) 0), carries_of (by decide +kernel)⟩

end W17

namespace W18
def c18 : CtrBlock := { ovf := 8, evsel := [(2, 2 ^ 30)], count := [(0, 5), (2, 9)], wrapped := [2, 0] }
/-- Counters, events and vectors in use, at debug level 2 over all tenants. -/
def s18 : State :=
  { sM g3 b3 with
    units := 31
    host := { vfEnable := true, numVfs := 8 }
    time := 500
    mem := { mem0 with nodes := [(nodeKey 0 { level := 0, index := 0 }, 0x20000), (nodeKey 0 { level := 1, index := 0 }, 0x40000)],
                       mem := cellsAt 0x10040 [1, 2, 3] }
    fns := [(0, { pcie.msixEn := true, evr := { prod := 5, cons := 3, sizeLog2 := 6 }, ev := [(2, 0x13)],
                  policies := [1, 2, 0xFFFF, 4],
                  vecs := [(3, { addr := 0xFEE00000, data := 77, masked := true, pend := true })] }), (1, {})]
    dbg := { level := 2, action := true, blocks := [(0, c18), (65536, { frozen := true })],
             breaks := [(1, { fired := true, count := 4 })], traceCtl := 0xA0000000
             sources0 := [(7, { fifo := [[1]], dropped := 3, firstStamp := 8 }), (0xFFFE, { dropped := 2, firstStamp := 9 })] } }
def acc18 (a : Nat) : State := { s18 with dbg.accAddr := [(0, a)], dbg.accData := [(0, 0x1122334455667788)] }
/-- The hypotheses of `Obligations.RegisterWritesAndCounters` can be met. -/
theorem witness_RegisterWritesAndCounters :
    (∃ fn : Nat, ∃ s : State, (HostMay s fn) ∧ ((fn ≠ serviceFn) ∧ (((∀ q ∈ s.fe.queues, q.2.fn = fn → q.2.pasid = false))))) ∧
    (∃ fn : Nat, ∃ s : State, (HostMay s fn) ∧ (∃ v, ((fnOf s fn).evr.en = false) ∧ ((bit v 31 = true)))) ∧
    (∃ fn : Nat, ∃ s : State, (HostMay s fn) ∧ (∃ v, (v < 2 ^ 32))) ∧
    (∃ fn : Nat, ∃ s : State, (HostMay s fn) ∧ (∃ vec, (vec < vectorsOf fn))) ∧
    (∃ fn : Nat, ∃ s : State, (HostMay s fn) ∧ (∃ addr, ∃ size, ((2 ^ 22 ≤ addr ∨ (size ≠ 4 ∧ size ≠ 8) ∨ addr % size ≠ 0)))) ∧
    (∃ fn : Nat, ∃ s : State, (HostMay s fn) ∧ (∃ addr, ∃ g, ∃ v, (eventReg addr = some (g, false)) ∧ ((¬ (fn = serviceFn ∧ g < 6)) ∧ ((v < 2 ^ 32) ∧ ((addr % 4 = 0)))))) ∧
    (∃ fn : Nat, ∃ s : State, (HostMay s fn) ∧ (∃ addr, ∃ g, ∃ v, (eventReg addr = some (g, true)) ∧ ((¬ (fn = serviceFn ∧ g < 6)) ∧ ((v < 2 ^ 32) ∧ ((addr % 4 = 0)))))) ∧
    (∃ fn : Nat, ∃ s : State, (HostMay s fn)) ∧
    (∃ fn : Nat, ∃ s : State, (HostMay s fn) ∧ ((fn ≠ serviceFn) ∧ (∃ k, (k < 8) ∧ ((k < (fnOf s fn).policies.length) ∧ (((fnOf s fn).policies.getD k 0 < 2 ^ 64)))))) ∧
    (∃ fn : Nat, ∃ k : Nat, ∃ s : State, (HostMay s fn) ∧ ((blkWriter s fn k = false))) ∧
    (∃ fn : Nat, ∃ k : Nat, ∃ s : State, (HostMay s fn) ∧ ((blkWriter s fn k = false))) ∧
    (∃ fn : Nat, ∃ k : Nat, ∃ s : State, (HostMay s fn) ∧ ((blkWriter s fn k = true))) ∧
    (∃ fn : Nat, ∃ k : Nat, ∃ s : State, (HostMay s fn) ∧ ((blkWriter s fn k = true))) ∧
    (∃ k : Nat, ∃ n : Nat, ∃ s : State, ((ctrOf s k).wrapped.contains n = true)) := by
  refine ⟨?_, ?_, ?_, ?_, ?_, ?_, ?_, ?_, ⟨?_, ?_, ?_, ?_, ?_, ?_⟩⟩
  · refine ⟨0, s18, by unfold HostMay; decide +kernel, ?_, ?_⟩ <;> decide +kernel
  · refine ⟨0, s18, by unfold HostMay; decide +kernel, 0x80000007, ?_, ?_⟩ <;> decide +kernel
  · exact ⟨0, s18, by unfold HostMay; decide +kernel, 5, by decide +kernel⟩
  · exact ⟨0, s18, by unfold HostMay; decide +kernel, 3, by decide +kernel⟩
  · exact ⟨0, s18, by unfold HostMay; decide +kernel, 0x10002, 4, by decide +kernel⟩
  · refine ⟨0, s18, by unfold HostMay; decide +kernel, 0x30008, 2, 0xFFFF0003, ?_, ?_, by decide +kernel, ?_⟩ <;> decide +kernel
  · refine ⟨0, s18, by unfold HostMay; decide +kernel, 0x3000C, 2, 0xFFFF0003, ?_, ?_, by decide +kernel, ?_⟩ <;> decide +kernel
  · exact ⟨0, s18, by unfold HostMay; decide +kernel⟩
  · refine ⟨0, s18, by unfold HostMay; decide +kernel, ?_, 2, ?_, ?_, ?_⟩ <;> decide +kernel
  · exact ⟨1, 65536, s18, by unfold HostMay; decide +kernel, by decide +kernel⟩
  · exact ⟨0, 7, s18, by unfold HostMay; decide +kernel, by decide +kernel⟩
  · exact ⟨0, 0, s18, by unfold HostMay; decide +kernel, by decide +kernel⟩
  · exact ⟨0, 0, s18, by unfold HostMay; decide +kernel, by decide +kernel⟩
  · exact ⟨0, 2, s18, by decide +kernel⟩

/-- The hypotheses of `Obligations.DebugFacilitiesWork` can be met. -/
theorem witness_DebugFacilitiesWork :
    (∃ s : State, (s.pm.ready = true) ∧ ((s.dbg.pinEn = true) ∧ ((s.dbg.driving = false)))) ∧
    (∃ s : State, (s.dbg.driving = true) ∧ ((s.dbg.stamp + 9600 ≤ 96 * s.time))) ∧
    (∃ fn : Nat, ∃ s : State, (HostMay s fn) ∧ (((fn = pf ∨ dbgAllowed s fn 1 = true)) ∧ ((s.dbg.raised = true) ∧ ((s.dbg.brkHeld = []))))) ∧
    (∃ fn : Nat, ∃ unit : Nat, ∃ s : State, (HostMay s fn) ∧ ((unit < 4) ∧ ((dbgAllowed s fn 1 = true)))) ∧
    (∃ fn : Nat, ∃ s : State, (HostMay s fn) ∧ ((dbgAllowed s fn 2 = false))) ∧
    (∃ fn : Nat, ∃ v : Nat, ∃ addr : Nat, ∃ s : State, (HostMay s fn) ∧ ((dbgAllowed s fn 2 = true) ∧ ((fn = pf) ∧ ((s.dbg.scope = none) ∧ ((bits v 26 24 = 1) ∧ ((alGet 0 s.dbg.accAddr fn = addr) ∧ ((addr % 8 = 0) ∧ (((setOf s addr).isSome = true) ∧ ((nodeAt s addr = none) ∧ ((Homed s (addr / 128 * 128)))))))))))) ∧
    (∃ fn : Nat, ∃ v : Nat, ∃ addr : Nat, ∃ s : State, (HostMay s fn) ∧ (∃ tn, ∃ n, ∃ k, (dbgAllowed s fn 2 = true) ∧ ((fn = pf) ∧ ((s.dbg.scope = none) ∧ ((bits v 26 24 = 1) ∧ ((alGet 0 s.dbg.accAddr fn = addr) ∧ ((addr % 8 = 0) ∧ (((setOf s addr).isSome = true) ∧ ((nodeAt s addr = some (tn, n, k)) ∧ ((bit v 27 = false))))))))))) ∧
    (∃ src : Nat, ∃ s : State, ∃ q : TraceSrc, (alGet {} s.dbg.sources0 src = q) ∧ ((traceOn s 10 = true) ∧ ((q.dropped ≠ 0) ∧ ((src ≠ 0xFFFE) ∧ ((q.fifo.length < 64)))))) ∧
    (∃ src : Nat, ∃ s : State, ∃ q : TraceSrc, (alGet {} s.dbg.sources0 src = q) ∧ ((traceOn s 10 = true) ∧ ((q.dropped ≠ 0) ∧ ((src = 0xFFFE) ∧ ((s.dbg.portFifo.length < 32768)))))) ∧
    (∃ s : State, (bit s.units 4 = true)) := by
  refine ⟨?_, ?_, ?_, ?_, ?_, ?_, ?_, ?_, ⟨?_, ?_⟩⟩
  · refine ⟨s18, ?_, ?_, ?_⟩ <;> decide +kernel
  · refine ⟨{ s18 with dbg.driving := true, dbg.stamp := 100 }, ?_, ?_⟩ <;> decide +kernel
  · refine ⟨0, { s18 with dbg.raised := true, dbg.sources := 5, frozen := some none, cores := [(0, { coreWith g3 b3 with halted := true })] }, by unfold HostMay; decide +kernel, ?_, ?_, ?_⟩ <;> decide +kernel
  · refine ⟨0, 1, s18, by unfold HostMay; decide +kernel, ?_, ?_⟩ <;> decide +kernel
  · exact ⟨0, { s18 with dbg.level := 1 }, by unfold HostMay; decide +kernel, by decide +kernel⟩
  · refine ⟨0, 0x89000000, 0x10040, acc18 0x10040, by unfold HostMay; decide +kernel, ?_, ?_, ?_, by decide +kernel, ?_, ?_, ?_, ?_, homed_of (by decide +kernel)⟩ <;> decide +kernel
  · refine ⟨0, 0x81000000, 0x20008, acc18 0x20008, by unfold HostMay; decide +kernel, 0, { level := 0, index := 0 }, 1, by decide +kernel, ?_, ?_, ?_, ?_, ?_, ?_, ?_, ?_⟩ <;> decide +kernel
  · refine ⟨7, s18, { fifo := [[1]], dropped := 3, firstStamp := 8 }, ?_, ?_, ?_, ?_, ?_⟩ <;> decide +kernel
  · refine ⟨0xFFFE, s18, { dropped := 2, firstStamp := 9 }, ?_, ?_, ?_, ?_, ?_⟩ <;> decide +kernel
  · exact ⟨s18, by decide +kernel⟩

end W18

namespace W19
/-- Functions 0 and 2 in use, on a part whose host has configured virtual functions. -/
def s19 : State :=
  { run0 with
    mem := mem0
    cores := [(0, { present := true, power := .active })]
    host := { vfEnable := true, numVfs := 8, atc := [(atcKey 2 none 0x5000, { host := 1, r := true, w := true, final := false })],
              xreqs := [] }
    fns := [(0, { pcie := { msixEn := true } }), (2, { pcie := { msixEn := true, ats := true, pri := true, priAlloc := 4 }, pasid := 9 })]
    fe := { queues := [(3, { q0 with fn := 2 }), (4, { q0 with fn := 1 })] }
    mgmt.mboxes := [(0, {}), (2, { resp := [1] })]
    vtensors := [(0, { tenant := 2, slotBytes := 0, bases := [] }), (1, { tenant := 1, slotBytes := 0, bases := [] })] }
def xr (dead prg : Bool) : XlatReq := { fn := 2, pasid := none, page := 5, write := false, prg := prg, dead := dead }
def xs19 (q : XlatReq) : State := { s19 with host := { s19.host with xreqs := [{ q with page := 6 }, q] } }
def xs19' (q : XlatReq) : State := { s19 with host := { s19.host with xreqs := [{ q with page := 6 }] } }
def bare (s : State) : State := { s with cores := [], mgmt.mboxes := [] }
theorem noMbox {s : State} (h : s.mgmt.mboxes = []) (hm : s.mgmt.mctp = []) : ∀ f, mboxReady s f = false := by
  intro f
  unfold mboxReady
  split
  · simp [hm]
  · simp [mboxOf, alGet, alFind, h]
def ld19 (id : Nat) : Load :=
  { id := id, slot := 0, pc := 16, dst := 4, size := 16, hint := .plain, target := .host 0x9000, tenant := 0, part := 0,
    lanes := [{ lane := 2, off := 0, n := 16, pos := 112 }] }
def tx19 : Txn := { die := 0, tag := 1, core := 0, kind := .load, id := 8, tenant := 0, node := 0, target := .host 0x9000, since := 40 }
def sHr : State :=
  { s19 with
    time := 6000000
    cores := [(0, { present := true, exec := { loads := [ld19 7, ld19 8] } })]
    links := { txns := [{ tx19 with die := 1 }, tx19] } }
/-- The hypotheses of `Obligations.PcieSideWorks` can be met. -/
theorem witness_PcieSideWorks :
    (∃ s : State, (s.pm.ready = false) ∧ ((s.pm.phase ≠ .off))) ∧
    (∃ fn : Nat, ∃ s : State, (s.pm.ready = true) ∧ ((fnLive s fn = true))) ∧
    (∃ fn : Nat, ∃ s : State, (s.pm.ready = true) ∧ ((fnLive s fn = true))) ∧
    (∃ fn : Nat, ∃ s : State, (s.pm.ready = true) ∧ ((fnLive s fn = true) ∧ ((fn = pf) ∧ ((s.host.vfEnable = false) ∧ (∃ v, (v ≤ 1023)))))) ∧
    (∃ s : State, (s.pm.ready = true)) ∧
    (∃ s : State, (s.pm.ready = true) ∧ ((s.host.numVfs ≤ 1023))) ∧
    (∃ fn : Nat, ∃ page : Nat, ∃ host : Nat, ∃ pz : Option Nat, ∃ r : Bool, ∃ w : Bool, ∃ s : State, ∃ s1 : State, ∃ q : XlatReq, (takeXreq s fn pz page false = some (q, s1)) ∧ (
    let c : Instr := .atsTranslationComplete fn pz page host r w
    
    let lacks := if q.write = true then !w else !r
    (q.dead = true))) ∧
    (∃ fn : Nat, ∃ page : Nat, ∃ host : Nat, ∃ pz : Option Nat, ∃ r : Bool, ∃ w : Bool, ∃ s : State, ∃ s1 : State, ∃ q : XlatReq, (takeXreq s fn pz page false = some (q, s1)) ∧ (
    let c : Instr := .atsTranslationComplete fn pz page host r w
    
    let lacks := if q.write = true then !w else !r
    (q.dead = false) ∧ ((lacks = false)))) ∧
    (∃ fn : Nat, ∃ page : Nat, ∃ host : Nat, ∃ pz : Option Nat, ∃ r : Bool, ∃ w : Bool, ∃ s : State, ∃ s1 : State, ∃ q : XlatReq, (takeXreq s fn pz page false = some (q, s1)) ∧ (
    let c : Instr := .atsTranslationComplete fn pz page host r w
    
    let lacks := if q.write = true then !w else !r
    (q.dead = false) ∧ ((lacks = true) ∧ ((s.cores = []) ∧ ((s.saved = []) ∧ (((fnOf s fn).evWait = []) ∧ ((s.fe.jobs = []) ∧ ((s.twin.role = 0) ∧ (((∀ f, mboxReady s f = false))))))))))) ∧
    (∃ fn : Nat, ∃ s : State, (s.pm.ready = true) ∧ ((fn ≠ serviceFn) ∧ ((fnLive s fn = true)))) ∧
    (∃ fn : Nat, ∃ page : Nat, ∃ code : Nat, ∃ pz : Option Nat, ∃ s : State, ∃ s1 : State, ∃ q : XlatReq, (takeXreq s fn pz page true = some (q, s1)) ∧ ((code = 0) ∧ ((q.dead = false)))) ∧
    (∃ fn : Nat, ∃ page : Nat, ∃ code : Nat, ∃ pz : Option Nat, ∃ s : State, ∃ s1 : State, ∃ q : XlatReq, (takeXreq s fn pz page true = some (q, s1)) ∧ ((code = 15))) ∧
    (∃ fn : Nat, ∃ page : Nat, ∃ code : Nat, ∃ pz : Option Nat, ∃ s : State, ∃ s1 : State, ∃ q : XlatReq, (takeXreq s fn pz page true = some (q, s1)) ∧ (((code = 1 ∨ code = 15)) ∧ ((q.dead = false) ∧ ((s.cores = []) ∧ ((s.saved = []) ∧ (((fnOf s fn).evWait = []) ∧ ((s.fe.jobs = []) ∧ ((s.twin.role = 0) ∧ (((∀ f, mboxReady s f = false))))))))))) ∧
    (∃ die : Nat, ∃ tag : Nat, ∃ ha : Nat, ∃ s : State, ∃ a : Txn, (txnOf s die tag = some a) ∧ ((a.target = .host ha) ∧ ((a.kind = .load) ∧ ((a.parked = false) ∧ ((a.dead = false)))))) ∧
    (∃ die : Nat, ∃ tag : Nat, ∃ ha : Nat, ∃ s : State, ∃ a : Txn, (txnOf s die tag = some a) ∧ ((a.target = .host ha) ∧ ((a.kind = .load) ∧ ((a.parked = false) ∧ ((a.dead = false) ∧ ((a.since + 5000000 ≤ s.time))))))) ∧
    (∃ fn : Nat, ∃ s : State, (s.pm.ready = true) ∧ ((fnLive s fn = true) ∧ ((fn ≠ pf) ∧ (((s.fns.map (·.1)).Pairwise (· < ·)) ∧ (((s.mgmt.mboxes.map (·.1)).Pairwise (· < ·)) ∧ (((s.fe.queues.map (·.1)).Pairwise (· < ·)) ∧ (((s.vtensors.map (·.1)).Pairwise (· < ·)) ∧ (((∀ q ∈ s.fe.queues, q.2.fn = fn → q.2.job = none)) ∧ (((∀ j ∈ s.fe.jobs, j.2.fn ≠ fn))))))))))) := by
  refine ⟨?_, ?_, ?_, ?_, ?_, ?_, ?_, ?_, ⟨?_, ?_, ?_, ?_, ?_, ?_, ?_, ?_⟩⟩
  · refine ⟨{ s19 with pm := { phase := .running, ready := false, perstLow := false } }, ?_, ?_⟩ <;> decide +kernel
  · refine ⟨2, s19, ?_, ?_⟩ <;> decide +kernel
  · refine ⟨2, s19, ?_, ?_⟩ <;> decide +kernel
  · refine ⟨0, { s19 with host.vfEnable := false }, ?_, ?_, ?_, ?_, 1023, ?_⟩ <;> decide +kernel
  · exact ⟨s19, by decide +kernel⟩
  · refine ⟨s19, ?_, ?_⟩ <;> decide +kernel
  · exact ⟨2, 5, 77, none, true, false, xs19 (xr true false), xs19' (xr true false), xr true false, rfl, by decide +kernel⟩
  · refine ⟨2, 5, 77, none, true, false, xs19 (xr false false), xs19' (xr false false), xr false false, rfl, ?_, ?_⟩ <;> decide +kernel
  · refine ⟨2, 5, 77, none, false, true, bare (xs19 (xr false false)), bare (xs19' (xr false false)), xr false false, rfl, ?_, ?_, ?_, ?_, ?_, ?_, ?_, noMbox rfl rfl⟩ <;> decide +kernel
  · refine ⟨2, s19, ?_, ?_, ?_⟩ <;> decide +kernel
  · refine ⟨2, 5, 0, none, xs19 (xr false true), xs19' (xr false true), xr false true, rfl, by decide +kernel, ?_⟩ <;> decide +kernel
  · exact ⟨2, 5, 15, none, xs19 (xr false true), xs19' (xr false true), xr false true, rfl, by decide +kernel⟩
  · refine ⟨2, 5, 1, none, bare (xs19 (xr false true)), bare (xs19' (xr false true)), xr false true, rfl, by decide +kernel, ?_, ?_, ?_, ?_, ?_, ?_, noMbox rfl rfl⟩ <;> decide +kernel
  · refine ⟨0, 1, 0x9000, sHr, tx19, ?_, ?_, ?_, by decide +kernel, ?_⟩ <;> decide +kernel
  · refine ⟨0, 1, 0x9000, sHr, tx19, ?_, ?_, ?_, by decide +kernel, ?_, ?_⟩ <;> decide +kernel
  · refine ⟨2, s19, ?_, ?_, ?_, ?_, ?_, ?_, by decide +kernel, ?_, ?_⟩ <;> decide +kernel

end W19

namespace W20
def fl20 : List FaultEnt := [{ kind := 2, flags := 1, place := 5, detail := 0, boot := 3 }]
/-- A running part with a core, a region, a cluster and a controller in use. -/
def s20 : State :=
  { run0 with
    time := 700000
    mem := { mem0 with mem := cellsAt 0x10040 [1, 2, 3], hot := [2] }
    cores := [(0, { present := true, power := .active, exec := { l1 := [(3, { target := .loc 0x10080, data := 1, age := 1, stream := false, stamp := 0 })], istore := [4] } }),
      (1, { present := true, power := .retention }), (2, { present := true, power := .off })]
    regions := [(0, { lines := [(16, { tag := 0, data := 0xFF00, age := 1, dirty := true, keep := false, part := 0, poison := 0, pa := 0x10080 })] }),
      (1, { power := .retention })]
    clusters := [(0, { power := .gated }), (1, { power := .active })]
    mgmt := { faults := fl20, banks := [{}, {}], bootNo := 4 }
    pm := { run0.pm with rungs := [(0, 1), (blkKey 2 0, 2)], blocks := [(blkKey 3 0, .gated), (blkKey 5 1, .gated)] } }
def off20 : State := { mgmt := s20.mgmt }
def warm20 : State := { s20 with cores := [], pm := { s20.pm with phase := .warm, ready := false, flushFrom := some 1000 } }
/-- The hypotheses of `Obligations.ResetsAndPowerFollow` can be met. -/
theorem witness_ResetsAndPowerFollow :
    (∃ c : Instr, ∃ cause : Nat, ∃ s : State, (s.pm.phase ≠ .off) ∧ (((c, cause) ∈ [(Instr.inputUndervoltage, 1), (.refclkLoss, 2), (.thermalTrip, 3)]))) ∧
    (∃ s : State, (s.pm.thermTrip = true)) ∧
    (∃ s : State, (s.pm.phase = .off) ∧ ((s.pm.thermTrip = false) ∧ ((s.pm.mrstLow = false) ∧ ((s.pm.perstLow = false) ∧ ((s.mgmt.pendingBank = none)))))) ∧
    (∃ c : Instr, ∃ cause : Nat, ∃ s : State, (s.pm.ready = true) ∧ ((s.pm.wflush = true) ∧ (((c, cause) ∈ [(Instr.mrstNAssert, 4), (.perstAssert, 5), (.pcieHotReset, 6)])))) ∧
    (∃ c : Instr, ∃ s : State, (s.pm.ready = false) ∧ (((c = .perstRelease ∨ c = .perstAssert ∨ c = .mrstNAssert)))) ∧
    (∃ left : List (Nat × Nat), ∃ s : State, ∃ from_ : Nat, (s.pm.phase = .warm) ∧ ((s.pm.flushFrom = some from_) ∧ ((from_ + 200000 ≤ s.time) ∧ ((((dirtyLines s).filter (fun x => left.contains x)) ≠ []))))) ∧
    (∃ s : State, (s.pm.phase = .warm) ∧ ((s.mgmt.pendingBank = none))) ∧
    (∃ b : PowerBlock, ∃ temp : Nat, ∃ last : Nat, ∃ s : State, (lastRung s b = some last) ∧ ((s.pm.phase = .running) ∧ ((105 ≤ temp) ∧ ((temp < 120))))) ∧
    (∃ b : PowerBlock, ∃ temp : Nat, ∃ last : Nat, ∃ s : State, (lastRung s b = some last) ∧ ((s.pm.phase = .running) ∧ ((temp < 95) ∧ ((0 < thermRung s b) ∧ (((s.pm.rungs.map (·.1)).Nodup) ∧ ((alGet 0 s.pm.cool (blkKey b.kind b.ix) + 100000 ≤ s.time))))))) ∧
    (∃ b : PowerBlock, ∃ temp : Nat, ∃ last : Nat, ∃ s : State, (lastRung s b = some last) ∧ ((s.pm.phase = .running) ∧ ((95 ≤ temp)))) ∧
    (∃ s : State, (s.pm.phase = .running)) ∧
    (∃ s : State, (s.pm.drop = true) ∧ ((s.pm.dropUntil ≤ s.time))) ∧
    (∃ stack : Nat, ∃ s : State, (s.pm.phase = .running) ∧ ((stack < Config.hbmStacks s.variant))) ∧
    (∃ ix : Nat, ∃ s : State, (s.pm.phase = .running) ∧ ((idleFor s { kind := 0, ix := ix } = true) ∧ (((coreOf s ix).power = .active)))) ∧
    (∃ ix : Nat, ∃ s : State, (s.pm.phase = .running) ∧ ((idleLong s { kind := 0, ix := ix } = true) ∧ ((((coreOf s ix).power = .active ∨ (coreOf s ix).power = .gated))))) ∧
    (∃ ix : Nat, ∃ s : State, (s.pm.phase = .running) ∧ ((ix < Config.regions s.variant) ∧ ((idleFor s { kind := 2, ix := ix } = true) ∧ (((regionOf s ix).power = .active))))) ∧
    (∃ ix : Nat, ∃ s : State, (s.pm.phase = .running) ∧ ((ix < Config.regions s.variant) ∧ ((idleLong s { kind := 2, ix := ix } = true) ∧ ((((regionOf s ix).power = .active ∨ (regionOf s ix).power = .gated)))))) ∧
    (∃ ix : Nat, ∃ s : State, (s.pm.phase = .running) ∧ ((((coreOf s ix).power = .gated ∨ (coreOf s ix).power = .retention)))) ∧
    (∃ ix : Nat, ∃ s : State, (s.pm.phase = .running) ∧ (((coreOf s ix).power = .off))) ∧
    (∃ ix : Nat, ∃ s : State, (s.pm.phase = .running) ∧ ((ix < Config.regions s.variant) ∧ ((((regionOf s ix).power = .gated ∨ (regionOf s ix).power = .retention))))) ∧
    (∃ ix : Nat, ∃ s : State, (s.pm.phase = .running) ∧ ((idleFor s { kind := 1, ix := ix } = true) ∧ (((clusterOf s ix).power = .active)))) ∧
    (∃ ix : Nat, ∃ s : State, (s.pm.phase = .running) ∧ ((clusterIdle s ix = true) ∧ ((((clusterOf s ix).power = .active ∨ (clusterOf s ix).power = .gated)) ∧ (((∀ i, i < 8 → (coreOf s (8 * ix + i)).present = false ∨ (coreOf s (8 * ix + i)).power = .retention)))))) ∧
    (∃ ix : Nat, ∃ s : State, (s.pm.phase = .running) ∧ ((ctlServes (ctlOf s ix) = true) ∧ (((ctlOf s ix).reads = []) ∧ (((ctlOf s ix).writes = []) ∧ (((ctlOf s ix).lastUse + 10000 ≤ s.time)))))) ∧
    (∃ k : Nat, ∃ ix : Nat, ∃ s : State, (s.pm.phase = .running) ∧ ((k = 3 ∨ k = 5) ∧ ((blockPower s { kind := k, ix := ix } = .gated)))) := by
  refine ⟨?_, ?_, ?_, ?_, ?_, ?_, ?_, ?_, ⟨?_, ?_, ?_, ?_, ?_, ?_, ?_, ?_, ⟨?_, ?_, ?_, ?_, ?_, ?_, ?_, ?_⟩⟩⟩
  · refine ⟨.thermalTrip, 3, s20, ?_, ?_⟩ <;> decide +kernel
  · exact ⟨{ s20 with pm.thermTrip := true }, by decide +kernel⟩
  · refine ⟨{ off20 with pm.perstLow := false }, ?_, ?_, ?_, ?_, ?_⟩ <;> decide +kernel
  · refine ⟨.perstAssert, 5, s20, ?_, ?_, ?_⟩ <;> decide +kernel
  · refine ⟨.mrstNAssert, State.reset, ?_, ?_⟩ <;> decide +kernel
  · refine ⟨[(0, 16)], warm20, 1000, ?_, ?_, ?_, ?_⟩ <;> decide +kernel
  · refine ⟨warm20, ?_, ?_⟩ <;> decide +kernel
  · refine ⟨{ kind := 0, ix := 0 }, 105, 2, s20, ?_, ?_, ?_, ?_⟩ <;> decide +kernel
  · refine ⟨{ kind := 2, ix := 0 }, 94, 2, s20, ?_, ?_, ?_, ?_, by decide +kernel, ?_⟩ <;> decide +kernel
  · refine ⟨{ kind := 2, ix := 0 }, 95, 2, s20, ?_, ?_, ?_⟩ <;> decide +kernel
  · exact ⟨s20, by decide +kernel⟩
  · refine ⟨{ s20 with pm.drop := true, pm.dropUntil := 700000 }, ?_, ?_⟩ <;> decide +kernel
  · refine ⟨1, s20, ?_, ?_⟩ <;> decide +kernel
  · refine ⟨0, s20, ?_, ?_, ?_⟩ <;> decide +kernel
  · refine ⟨0, s20, ?_, ?_, ?_⟩ <;> decide +kernel
  · refine ⟨0, s20, ?_, ?_, ?_, ?_⟩ <;> decide +kernel
  · refine ⟨0, s20, ?_, ?_, ?_, ?_⟩ <;> decide +kernel
  · refine ⟨1, s20, ?_, ?_⟩ <;> decide +kernel
  · refine ⟨2, s20, ?_, ?_⟩ <;> decide +kernel
  · refine ⟨1, s20, ?_, ?_, ?_⟩ <;> decide +kernel
  · refine ⟨1, s20, ?_, ?_, ?_⟩ <;> decide +kernel
  · refine ⟨0, { s20 with cores := [(1, { present := true, power := .retention })] }, ?_, ?_, ?_, ?_⟩ <;> decide +kernel
  · refine ⟨0, s20, ?_, ?_, ?_, ?_, ?_⟩ <;> decide +kernel
  · refine ⟨3, 0, s20, ?_, ?_, ?_⟩ <;> decide +kernel

end W20

/-! ### Well-formedness -/

/-- An issue whose residency slot no core has. -/
def iB : Iss := { i0 with slot := 48 }
def mq0 : MemQ := { size := 2, slm := true, hint := .plain, scope := .group, order := .none, op := .add }
def cb0 : CvtBlk :=
  { fmt := 9, attr := 0, src := 0, sr := false, sat := .default, q := false, ds := false, v := 4, du := 2, blk := .imm 0 }
/-- MMA as in Table 7.8: SV4 operands, .ESC, a C tile, and three extension words. -/
def mm0 : MmaOp :=
  { dt := 3, st := 1, tu := 0x0C, ct := some 3, sFmt := 9, tFmt := 9, oFmt := 0, sAttr := 0, tAttr := 0, transposed := false
    sr := false, sat := .default, part := false, esc := true, outl := false, outlStream := false, amax := false, epi := false, epiJob := 0
    epiZ := false, epiFr := false, shape := .imm 0x020400C8, vorg := .imm 400, korg := 0, beta := .imm 0x3F800000, k0 := 0
    featOrg := 0, rowOrg := 0 }
def i0mma : Iss := { i0 with nx := 3 }

/-- Commands within the numbers and widths of their fields are well formed. -/
theorem test_wf_accepts_1 : ([
    .add i0 .s32 .rne (.v 2) (.v 2) (.v 2), .sub i0 .s32 .rne (.v 2) (.v 2) (.v 2),
    .mul i0 .s32 .rne (.v 2) (.v 2) (.v 2), .fma i0 .rne (.v 2) (.v 2) (.v 2) (.v 2),
    .madS32 i0 (.v 2) (.v 2) (.v 2) (.v 2), .min i0 .s32 (.v 2) (.v 2) (.v 2), .max i0 .s32 (.v 2) (.v 2) (.v 2),
    .setp i0 .s32 .eq (.v 2) (.v 2) (.v 2), .and i0 (.v 2) (.v 2) (.v 2), .or i0 (.v 2) (.v 2) (.v 2),
    .xor i0 (.v 2) (.v 2) (.v 2), .shl i0 (.v 2) (.v 2) (.v 2), .shr i0 .s32 (.v 2) (.v 2) (.v 2),
    .cvt i0 .f32 .f32 .rne .default (.v 2) (.v 2), .mov i0 (.v 2) (.opd (.v 1)), .sel i0 (.v 2) (.v 2) (.v 2) (.p 0),
    .f64Op i0 .add .rne (.v 2) (.v 2) (.v 2) (.v 2), .expF32 i0 (.v 2) (.v 2), .exp2F32 i0 (.v 2) (.v 2),
    .log2F32 i0 (.v 2) (.v 2), .rcpF32 i0 (.v 2) (.v 2), .rsqF32 i0 (.v 2) (.v 2), .sqrtF32 i0 (.v 2) (.v 2),
    .cvtBlk i0 cb0, .prepassComplete 0 0 0, .ld i0 mq0 (.v 2) (.v 2), .loadReturn 0 0, .st i0 mq0 (.v 2) (.v 2),
    .atom i0 mq0 (.v 2) (.v 2) (.v 2) (.v 2), .atomicPerform 0 0, .writeBufferDrain 0 0, .fenceLd i0 .group,
    .fenceSt i0 .group, .fenceFull i0 .group, .fenceRelease 0 0, .gredAdd i0 .s32 false false (.v 2) (.v 2),
    .gredOr i0 false false (.v 2) (.v 2), .gredXor i0 false false (.v 2) (.v 2),
    .gredAnd i0 false false (.v 2) (.v 2), .gredMin i0 .s32 false false (.v 2) (.v 2),
    .gredMax i0 .s32 false false (.v 2) (.v 2), .shfl i0 false (.v 2) (.v 2) (.v 2), .tileDesc i0 0 0,
    .tileBase i0 0 0, .tileLd i0 false 0 1 0 (.imm 0) (.imm 0), .tileSt i0 false 0 1 0 (.imm 0) (.imm 0),
    .mma i0mma mm0, .turnUnitReady 0 0, .escalationEval 0 0, .mmaDrainWrite 0 0, .arrayParityReexec 0 0 0,
    .amaxContribution 0 0, .amaxCommit i0 0, .stashOpen i0 false 0 (.imm 0) (.imm 0),
    .stashSt i0 4 (.imm 0) (.v 2) (.v 2), .stashSeal i0 (.imm 0), .stashLd i0 4 0 0 (.imm 0) (.v 2),
    .stashFree i0 (.imm 0), .epiOpen i0 0 0 0, .epiJobComplete 0 0 ] : List Instr).all
      (fun c => c.wf) = true := by decide +kernel

/-- Commands within the numbers and widths of their fields are well formed. -/
theorem test_wf_accepts_2 : ([
    .epiWait i0 0, .benchXlat i0 0 (.v 2) (.v 2) (.v 2), .traceMark i0 (.imm 0) (.v 2), .bra i0 (some (true, 0)) 0,
    .call i0 0, .ret i0, .exit i0, .loop i0 (.v 2) 0, .endloop i0, .loopBreak i0, .yield i0, .groupRotate 0 0,
    .barSync i0 (.imm 0) none, .barPost i0 (.imm 0) (.v 2) none, .barWait i0 (.imm 0) (.v 2), .brk 0 0 0,
    .sequencerLineBroadcast 0, .dbRing 0 [], .dbCompl 0 [], .fetcherPass 0, .ringEntryAccept 0, .slotAssign 0,
    .jobStart 0, .graphParse 0, .jobPlace 0, .tenantSwitchScrub 0 0, .rtJobPlace 0, .coreSaveTurn 0,
    .coreSaveComplete 0, .parkedResponse 0 0 0 false 0, .coreRestore 0, .blockPlace 0 0, .consumerCountPoll 0 [],
    .logDrain 0, .shotClockExpire 0, .coreResetDrainEnd 0, .refereeTest 0, .substituteStart 0, .deadlinePass 0,
    .rangeOpStart 0, .rangeOpComplete 0, .copyStart 0, .copyComplete 0, .benchStepApply 0, .sliceFill 0,
    .prefetchFill 0, .sideEntryExpire 0 0, .evictionOffer 0, .mcRunRead 0 0 {}, .mcRunWrite 0 0 [], .dramRefresh 0 0,
    .patrolRead 0 {}, .mcRetentionEnter 0, .correctedError .front none, .bucketLeak ⟨1, 0, 0⟩,
    .uncorrectedError .front none, .fatalError none, .d2dFlitReceive 0 0 0 (List.replicate 250 0) 0,
    .d2dRetrainFail 0, .portDetectDone 0 [] ] : List Instr).all
      (fun c => c.wf) = true := by decide +kernel

/-- Commands within the numbers and widths of their fields are well formed. -/
theorem test_wf_accepts_3 : ([
    .portDetectTimeout 0, .portTrainDone 0 [], .portAlignDone 0, .portExchangeDone 0 0 0 none 0, .portRetrainEnter 0,
    .portRetrainTimeout 0, .flitReceive 0 0 0 0 (List.replicate 252 0) [] [] [], .replayRequestReceive 0 0,
    .remoteRequestReceive 0, .remoteResponseReceive 0 0, .remoteTimeout 0 0, .mirrorRecordReceive 0, .mirrorAck 0,
    .twinFailedReceive 0, .mbSubmit 0 [] [], .mbRespAck 0, .mbResync 0, .fePasidWrite 0 0, .eventRingEnable 0 0,
    .eventRingConsWrite 0 0, .msixUnmask 0 0, .counterSnap 0 0, .counterClear 0 0, .whistleRelease 0, .breakArm 0 0 0,
    .accessPortGo 0 0, .traceDropEmit 0, .registerWrite 0 0 4 0, .configRequest 0 0 none,
    .atsTranslationComplete 0 none 0 0 false false, .atsInvalidateRequest 0 none 0 0, .prgResponse 0 none 0 0,
    .hostReadComplete 0 0 false false, .hostCompletionTimeout 0 0, .functionLevelReset 0, .powerGood {},
    .warmResetRelease {}, .thermalStepCoarser ⟨0, 0⟩ 0, .thermalStepFiner ⟨0, 0⟩ 0,
    .blockClockGate ⟨0, 0⟩, .blockRetentionEnter ⟨0, 0⟩, .blockWake ⟨0, 0⟩, .d2dRetrainDone 0,
    .mctpMessageReceive 0 [], .i3cEntdaa 0, .stackTemperatureReadout 0 0, .twinDetachNotice 0 ] : List Instr).all
      (fun c => c.wf) = true := by decide +kernel

/-- One field at a time out of its range: every check of `Instr.wf` refuses its command. -/
theorem test_wf_refuses_1 : ([
    .add iB .s32 .rne (.v 2) (.v 2) (.v 2), .add i0 .s32 .sr (.v 2) (.v 2) (.v 2),
    .add i0 .s32 .rne (.imm 1) (.v 2) (.v 2), .add i0 .s32 .rne (.v 2) (.v 255) (.v 2),
    .add i0 .s32 .rne (.v 2) (.v 2) (.v 255), .sub iB .s32 .rne (.v 2) (.v 2) (.v 2),
    .sub i0 .s32 .sr (.v 2) (.v 2) (.v 2), .sub i0 .s32 .rne (.imm 1) (.v 2) (.v 2),
    .sub i0 .s32 .rne (.v 2) (.v 255) (.v 2), .sub i0 .s32 .rne (.v 2) (.v 2) (.v 255),
    .mul iB .s32 .rne (.v 2) (.v 2) (.v 2), .mul i0 .s32 .sr (.v 2) (.v 2) (.v 2),
    .mul i0 .s32 .rne (.imm 1) (.v 2) (.v 2), .mul i0 .s32 .rne (.v 2) (.v 255) (.v 2),
    .mul i0 .s32 .rne (.v 2) (.v 2) (.v 255), .fma iB .rne (.v 2) (.v 2) (.v 2) (.v 2),
    .fma i0 .sr (.v 2) (.v 2) (.v 2) (.v 2), .fma i0 .rne (.imm 1) (.v 2) (.v 2) (.v 2),
    .fma i0 .rne (.v 2) (.v 255) (.v 2) (.v 2), .fma i0 .rne (.v 2) (.v 2) (.v 255) (.v 2),
    .fma i0 .rne (.v 2) (.v 2) (.v 2) (.v 255), .madS32 iB (.v 2) (.v 2) (.v 2) (.v 2),
    .madS32 i0 (.imm 1) (.v 2) (.v 2) (.v 2), .madS32 i0 (.v 2) (.v 255) (.v 2) (.v 2),
    .madS32 i0 (.v 2) (.v 2) (.v 255) (.v 2), .madS32 i0 (.v 2) (.v 2) (.v 2) (.v 255),
    .min iB .s32 (.v 2) (.v 2) (.v 2), .min i0 .s32 (.imm 1) (.v 2) (.v 2), .min i0 .s32 (.v 2) (.v 255) (.v 2),
    .min i0 .s32 (.v 2) (.v 2) (.v 255), .max iB .s32 (.v 2) (.v 2) (.v 2), .max i0 .s32 (.imm 1) (.v 2) (.v 2),
    .max i0 .s32 (.v 2) (.v 255) (.v 2), .max i0 .s32 (.v 2) (.v 2) (.v 255), .setp iB .s32 .eq (.v 2) (.v 2) (.v 2),
    .setp i0 .s32 .eq (.imm 1) (.v 2) (.v 2), .setp i0 .s32 .eq (.v 2) (.v 255) (.v 2),
    .setp i0 .s32 .eq (.v 2) (.v 2) (.v 255), .and iB (.v 2) (.v 2) (.v 2), .and i0 (.imm 1) (.v 2) (.v 2),
    .and i0 (.v 2) (.v 255) (.v 2), .and i0 (.v 2) (.v 2) (.v 255), .or iB (.v 2) (.v 2) (.v 2),
    .or i0 (.imm 1) (.v 2) (.v 2), .or i0 (.v 2) (.v 255) (.v 2), .or i0 (.v 2) (.v 2) (.v 255),
    .xor iB (.v 2) (.v 2) (.v 2), .xor i0 (.imm 1) (.v 2) (.v 2), .xor i0 (.v 2) (.v 255) (.v 2),
    .xor i0 (.v 2) (.v 2) (.v 255), .shl iB (.v 2) (.v 2) (.v 2), .shl i0 (.imm 1) (.v 2) (.v 2),
    .shl i0 (.v 2) (.v 255) (.v 2), .shl i0 (.v 2) (.v 2) (.v 255), .shr iB .s32 (.v 2) (.v 2) (.v 2),
    .shr i0 .s32 (.imm 1) (.v 2) (.v 2), .shr i0 .s32 (.v 2) (.v 255) (.v 2), .shr i0 .s32 (.v 2) (.v 2) (.v 255),
    .cvt iB .f32 .f32 .rne .default (.v 2) (.v 2), .cvt i0 .int8 .f32 .rne .nosat (.v 2) (.v 2) ] : List Instr).all
      (fun c => !c.wf) = true := by decide +kernel

/-- One field at a time out of its range: every check of `Instr.wf` refuses its command. -/
theorem test_wf_refuses_2 : ([
    .cvt i0 .f32 .f32 .rne .default (.imm 1) (.v 2), .cvt i0 .f64 .f32 .rne .default (.v 3) (.v 2),
    .cvt i0 .f32 .f32 .rne .default (.v 2) (.v 255), .cvt i0 .f32 .f64 .rne .default (.v 2) (.v 3),
    .mov iB (.v 2) (.opd (.v 1)), .mov i0 (.imm 1) (.opd (.v 1)), .mov i0 (.v 2) (.special (.vrefWr 4)),
    .sel iB (.v 2) (.v 2) (.v 2) (.p 0), .sel i0 (.imm 1) (.v 2) (.v 2) (.p 0), .sel i0 (.v 2) (.v 255) (.v 2) (.p 0),
    .sel i0 (.v 2) (.v 2) (.v 255) (.p 0), .sel i0 (.v 2) (.v 2) (.v 2) (.v 1),
    .f64Op iB .add .rne (.v 2) (.v 2) (.v 2) (.v 2), .f64Op i0 .add .sr (.v 2) (.v 2) (.v 2) (.v 2),
    .f64Op i0 .add .rne (.imm 1) (.v 2) (.v 2) (.v 2), .f64Op i0 .add .rne (.v 3) (.v 2) (.v 2) (.v 2),
    .f64Op i0 .add .rne (.v 2) (.v 255) (.v 2) (.v 2), .f64Op i0 .add .rne (.v 2) (.v 3) (.v 2) (.v 2),
    .f64Op i0 .add .rne (.v 2) (.v 2) (.v 255) (.v 2), .f64Op i0 .add .rne (.v 2) (.v 2) (.v 3) (.v 2),
    .f64Op i0 .add .rne (.v 2) (.v 2) (.v 2) (.v 255), .f64Op i0 .add .rne (.v 2) (.v 2) (.v 2) (.v 3),
    .expF32 iB (.v 2) (.v 2), .expF32 i0 (.imm 1) (.v 2), .expF32 i0 (.v 2) (.v 255), .exp2F32 iB (.v 2) (.v 2),
    .exp2F32 i0 (.imm 1) (.v 2), .exp2F32 i0 (.v 2) (.v 255), .log2F32 iB (.v 2) (.v 2), .log2F32 i0 (.imm 1) (.v 2),
    .log2F32 i0 (.v 2) (.v 255), .rcpF32 iB (.v 2) (.v 2), .rcpF32 i0 (.imm 1) (.v 2), .rcpF32 i0 (.v 2) (.v 255),
    .rsqF32 iB (.v 2) (.v 2), .rsqF32 i0 (.imm 1) (.v 2), .rsqF32 i0 (.v 2) (.v 255), .sqrtF32 iB (.v 2) (.v 2),
    .sqrtF32 i0 (.imm 1) (.v 2), .sqrtF32 i0 (.v 2) (.v 255), .cvtBlk iB cb0, .cvtBlk i0 { cb0 with src := 3 },
    .prepassComplete 32 0 0, .prepassComplete 0 1024 0, .ld iB mq0 (.v 2) (.v 2),
    .ld i0 { mq0 with size := 5 } (.v 2) (.v 2), .ld i0 mq0 (.imm 1) (.v 2), .ld i0 mq0 (.v 2) (.v 255),
    .ld i0 { mq0 with slm := false } (.v 2) (.u 3), .loadReturn 1536 0, .st iB mq0 (.v 2) (.v 2),
    .st i0 { mq0 with size := 5 } (.v 2) (.v 2), .st i0 mq0 (.v 255) (.v 2),
    .st i0 { mq0 with slm := false } (.u 3) (.v 2), .st i0 mq0 (.v 2) (.v 255),
    .atom iB mq0 (.v 2) (.v 2) (.v 2) (.v 2), .atom i0 { mq0 with size := 5 } (.v 2) (.v 2) (.v 2) (.v 2),
    .atom i0 mq0 (.u 1) (.v 2) (.v 2) (.v 2), .atom i0 mq0 (.v 2) (.v 255) (.v 2) (.v 2),
    .atom i0 { mq0 with slm := false } (.v 2) (.u 3) (.v 2) (.v 2) ] : List Instr).all
      (fun c => !c.wf) = true := by decide +kernel

/-- One field at a time out of its range: every check of `Instr.wf` refuses its command. -/
theorem test_wf_refuses_3 : ([
    .atom i0 mq0 (.v 2) (.v 2) (.v 255) (.v 2), .atom i0 mq0 (.v 2) (.v 2) (.v 2) (.v 255), .atomicPerform 1536 0,
    .writeBufferDrain 1536 0, .fenceLd iB .group, .fenceSt iB .group, .fenceFull iB .group, .fenceRelease 1536 0,
    .gredAdd iB .s32 false false (.v 2) (.v 2), .gredAdd i0 .s32 false false (.imm 1) (.v 2),
    .gredAdd i0 .s32 false false (.v 2) (.v 255), .gredOr iB false false (.v 2) (.v 2),
    .gredOr i0 false false (.imm 1) (.v 2), .gredOr i0 false false (.v 2) (.v 255),
    .gredXor iB false false (.v 2) (.v 2), .gredXor i0 false false (.imm 1) (.v 2),
    .gredXor i0 false false (.v 2) (.v 255), .gredAnd iB false false (.v 2) (.v 2),
    .gredAnd i0 false false (.imm 1) (.v 2), .gredAnd i0 false false (.v 2) (.v 255),
    .gredMin iB .s32 false false (.v 2) (.v 2), .gredMin i0 .s32 false false (.imm 1) (.v 2),
    .gredMin i0 .s32 false false (.v 2) (.v 255), .gredMax iB .s32 false false (.v 2) (.v 2),
    .gredMax i0 .s32 false false (.imm 1) (.v 2), .gredMax i0 .s32 false false (.v 2) (.v 255),
    .shfl iB false (.v 2) (.v 2) (.v 2), .shfl i0 false (.imm 1) (.v 2) (.v 2), .shfl i0 false (.v 2) (.v 255) (.v 2),
    .shfl i0 false (.v 2) (.v 2) (.v 255), .tileDesc iB 0 0, .tileDesc i0 8 0, .tileDesc i0 0 64, .tileDesc i0 0 3,
    .tileBase iB 0 0, .tileBase i0 8 0, .tileBase i0 0 64, .tileBase i0 0 3, .tileLd iB false 0 1 0 (.imm 0) (.imm 0),
    .tileLd i0 false 255 1 0 (.imm 0) (.imm 0), .tileLd i0 false 0 0 0 (.imm 0) (.imm 0),
    .tileLd i0 false 230 32 0 (.imm 0) (.imm 0), .tileLd i0 false 0 1 64 (.imm 0) (.imm 0),
    .tileLd i0 false 0 1 3 (.imm 0) (.imm 0), .tileLd i0 false 0 1 0 (.u 64) (.imm 0),
    .tileLd i0 false 0 1 0 (.imm 0) (.u 64), .tileSt iB false 0 1 0 (.imm 0) (.imm 0),
    .tileSt i0 false 255 1 0 (.imm 0) (.imm 0), .tileSt i0 false 0 0 0 (.imm 0) (.imm 0),
    .tileSt i0 false 230 32 0 (.imm 0) (.imm 0), .tileSt i0 false 0 1 64 (.imm 0) (.imm 0),
    .tileSt i0 false 0 1 3 (.imm 0) (.imm 0), .tileSt i0 false 0 1 0 (.u 64) (.imm 0),
    .tileSt i0 false 0 1 0 (.imm 0) (.u 64), .mma iB mm0, .mma i0mma { mm0 with dt := 8 }, .mma i0 mm0,
    .turnUnitReady 192 0, .turnUnitReady 0 16, .escalationEval 1536 0 ] : List Instr).all
      (fun c => !c.wf) = true := by decide +kernel

/-- One field at a time out of its range: every check of `Instr.wf` refuses its command. -/
theorem test_wf_refuses_4 : ([
    .mmaDrainWrite 1536 0, .arrayParityReexec 1536 0 0, .arrayParityReexec 0 0 33, .amaxContribution 32 0,
    .amaxCommit iB 0, .amaxCommit i0 64, .amaxCommit i0 3, .stashOpen iB false 0 (.imm 0) (.imm 0),
    .stashOpen i0 false 8 (.imm 0) (.imm 0), .stashOpen i0 false 0 (.u 64) (.imm 0),
    .stashOpen i0 false 0 (.imm 0) (.u 64), .stashSt iB 4 (.imm 0) (.v 2) (.v 2),
    .stashSt i0 2 (.imm 0) (.v 2) (.v 2), .stashSt i0 4 (.u 64) (.v 2) (.v 2), .stashSt i0 4 (.imm 0) (.v 255) (.v 2),
    .stashSt i0 4 (.imm 0) (.v 2) (.v 255), .stashSeal iB (.imm 0), .stashSeal i0 (.u 64),
    .stashLd iB 4 0 0 (.imm 0) (.v 2), .stashLd i0 2 0 0 (.imm 0) (.v 2), .stashLd i0 4 8 0 (.imm 0) (.v 2),
    .stashLd i0 4 0 255 (.imm 0) (.v 2), .stashLd i0 4 0 0 (.u 64) (.v 2), .stashLd i0 4 0 0 (.imm 0) (.v 255),
    .stashFree iB (.imm 0), .stashFree i0 (.u 64), .epiOpen iB 0 0 0, .epiOpen i0 2 0 0, .epiOpen i0 0 8 0,
    .epiOpen i0 0 0 64, .epiOpen i0 0 0 3, .epiJobComplete 192 0, .epiJobComplete 0 192, .epiWait iB 0, .epiWait i0 2,
    .benchXlat iB 0 (.v 2) (.v 2) (.v 2), .benchXlat i0 8 (.v 2) (.v 2) (.v 2),
    .benchXlat i0 0 (.imm 1) (.v 2) (.v 2), .benchXlat i0 0 (.v 3) (.v 2) (.v 2),
    .benchXlat i0 0 (.v 2) (.imm 1) (.v 2), .benchXlat i0 0 (.v 2) (.v 2) (.imm 1), .traceMark iB (.imm 0) (.v 2),
    .traceMark i0 (.u 64) (.v 2), .traceMark i0 (.imm 0) (.v 255), .bra iB (some (true, 0)) 0,
    .bra i0 (some (true, 8)) 0, .call iB 0, .ret iB, .exit iB, .loop iB (.v 2) 0, .loop i0 (.v 255) 0, .endloop iB,
    .loopBreak iB, .yield iB, .groupRotate 1536 0, .groupRotate 0 48, .barSync iB (.imm 0) none,
    .barSync i0 (.u 64) none, .barSync i0 (.imm 0) (some (.u 64)), .barPost iB (.imm 0) (.v 2) none ] : List Instr).all
      (fun c => !c.wf) = true := by decide +kernel

/-- One field at a time out of its range: every check of `Instr.wf` refuses its command. -/
theorem test_wf_refuses_5 : ([
    .barPost i0 (.u 64) (.v 2) none, .barPost i0 (.imm 0) (.imm 1) none, .barPost i0 (.imm 0) (.v 2) (some (.u 64)),
    .barWait iB (.imm 0) (.v 2), .barWait i0 (.u 64) (.v 2), .barWait i0 (.imm 0) (.v 255), .brk 1536 0 0,
    .brk 0 48 0, .sequencerLineBroadcast 192, .dbRing 1026 [], .dbRing 0 [(2 ^ 64, 0)], .dbCompl 1026 [],
    .dbCompl 0 [(2 ^ 64, 0)], .fetcherPass 1026, .ringEntryAccept 1026, .slotAssign 4096, .jobStart 4096,
    .graphParse 4096, .jobPlace 64, .tenantSwitchScrub 64 0, .tenantSwitchScrub 0 1024, .rtJobPlace 64,
    .coreSaveTurn 32, .coreSaveComplete 1536, .parkedResponse 8 0 0 false 0, .parkedResponse 0 4096 0 false 0,
    .parkedResponse 0 0 16 false 0, .coreRestore 1536, .blockPlace 0 1536, .consumerCountPoll 4096 [],
    .consumerCountPoll 0 [(2 ^ 64, 0)], .logDrain 4096, .shotClockExpire 4096, .coreResetDrainEnd 1536,
    .refereeTest 4096, .substituteStart 4096, .deadlinePass 4096, .rangeOpStart 8, .rangeOpComplete 8, .copyStart 8,
    .copyComplete 8, .benchStepApply 64, .sliceFill (2 ^ 48), .prefetchFill (2 ^ 48), .sideEntryExpire 32 0,
    .sideEntryExpire 0 (2 ^ 48), .evictionOffer 1536, .mcRunRead 64 0 {}, .mcRunRead 0 0 { errs := [[72]] },
    .mcRunWrite 64 0 [], .mcRunWrite 0 0 [{ errs := [[72]] }], .dramRefresh 64 0, .dramRefresh 0 16,
    .patrolRead 64 {}, .patrolRead 0 { errs := [[72]] }, .mcRetentionEnter 64, .correctedError (.l1 1536 0) none,
    .correctedError .front (some ⟨16, 0, 0⟩), .bucketLeak ⟨16, 0, 0⟩, .uncorrectedError (.l1 1536 0) none ] : List Instr).all
      (fun c => !c.wf) = true := by decide +kernel

/-- One field at a time out of its range: every check of `Instr.wf` refuses its command. -/
theorem test_wf_refuses_6 : ([
    .uncorrectedError .front (some ⟨16, 0, 0⟩), .fatalError (some ⟨16, 0, 0⟩),
    .d2dFlitReceive 16 0 0 (List.replicate 250 0) 0, .d2dFlitReceive 0 1024 0 (List.replicate 250 0) 0,
    .d2dFlitReceive 0 0 64 (List.replicate 250 0) 0, .d2dFlitReceive 0 0 0 [] 0,
    .d2dFlitReceive 0 0 0 (List.replicate 250 0) (2 ^ 32), .d2dRetrainFail 16, .portDetectDone 40 [],
    .portDetectTimeout 40, .portTrainDone 40 [], .portAlignDone 40, .portExchangeDone 40 0 0 none 0,
    .portExchangeDone 0 256 0 none 0, .portExchangeDone 0 0 40 none 0,
    .portExchangeDone 0 0 0 (some ⟨2 ^ 32, 0⟩) 0, .portExchangeDone 0 0 0 (some ⟨0, 1024⟩) 0,
    .portRetrainEnter 40, .portRetrainTimeout 40, .flitReceive 0 0 0 0 (List.replicate 252 0) [[544]] [] [],
    .flitReceive 40 0 0 0 (List.replicate 252 0) [] [] [], .flitReceive 0 4096 0 0 (List.replicate 252 0) [] [] [],
    .flitReceive 0 0 4096 0 (List.replicate 252 0) [] [] [], .flitReceive 0 0 0 4 (List.replicate 252 0) [] [] [],
    .flitReceive 0 0 0 0 [] [] [] [], .flitReceive 0 0 0 0 (List.replicate 252 0) [] [{ type := 1, tag := 4096 }] [],
    .replayRequestReceive 40 0, .replayRequestReceive 0 4096, .remoteRequestReceive 40, .remoteResponseReceive 40 0,
    .remoteResponseReceive 0 8, .remoteTimeout 8 0, .remoteTimeout 0 4096, .mirrorRecordReceive 40, .mirrorAck 40,
    .twinFailedReceive 40, .mbSubmit 1026 [] [], .mbSubmit 0 [] [(2 ^ 64, 0)], .mbRespAck 1026, .mbResync 1026,
    .fePasidWrite 1026 0, .fePasidWrite 0 (2 ^ 64), .eventRingEnable 1026 0, .eventRingEnable 0 (2 ^ 64),
    .eventRingConsWrite 1026 0, .eventRingConsWrite 0 (2 ^ 64), .msixUnmask 1026 0, .msixUnmask 0 2048,
    .counterSnap 1026 0, .counterClear 1026 0, .whistleRelease 1026, .breakArm 1026 0 0, .breakArm 0 4 0,
    .breakArm 0 0 (2 ^ 64), .accessPortGo 1026 0, .accessPortGo 0 (2 ^ 64), .traceDropEmit 65536,
    .registerWrite 1026 0 4 0, .registerWrite 0 (2 ^ 22) 4 0, .registerWrite 0 0 2 0 ] : List Instr).all
      (fun c => !c.wf) = true := by decide +kernel

/-- One field at a time out of its range: every check of `Instr.wf` refuses its command. -/
theorem test_wf_refuses_7 : ([
    .registerWrite 0 0 4 (2 ^ 64), .configRequest 1026 0 none, .configRequest 0 11 none,
    .atsTranslationComplete 1026 none 0 0 false false, .atsTranslationComplete 0 (some (2 ^ 20)) 0 0 false false,
    .atsTranslationComplete 0 none (2 ^ 52) 0 false false, .atsTranslationComplete 0 none 0 (2 ^ 52) false false,
    .atsInvalidateRequest 1026 none 0 0, .atsInvalidateRequest 0 (some (2 ^ 20)) 0 0,
    .atsInvalidateRequest 0 none (2 ^ 52) 0, .prgResponse 1026 none 0 0, .prgResponse 0 (some (2 ^ 20)) 0 0,
    .prgResponse 0 none (2 ^ 52) 0, .prgResponse 0 none 0 16, .hostReadComplete 8 0 false false,
    .hostReadComplete 0 4096 false false, .hostCompletionTimeout 8 0, .hostCompletionTimeout 0 4096,
    .functionLevelReset 1026, .powerGood { stackBad := [16] }, .warmResetRelease { stackBad := [16] },
    .thermalStepCoarser ⟨6, 0⟩ 0, .thermalStepFiner ⟨6, 0⟩ 0, .blockClockGate ⟨6, 0⟩,
    .blockRetentionEnter ⟨6, 0⟩, .blockWake ⟨6, 0⟩, .d2dRetrainDone 16, .mctpMessageReceive 128 [],
    .i3cEntdaa 128, .stackTemperatureReadout 16 0, .twinDetachNotice 40 ] : List Instr).all
      (fun c => !c.wf) = true := by decide +kernel

/-- The checks of the qualifier words, one field at a time: MMA (Table 7.6, R104), CVT.BLK (R204) and memory (R199). -/
theorem test_wf_qualifiers :
    ([{ mm0 with st := 8 }, { mm0 with tu := 64 }, { mm0 with tu := 13 }, { mm0 with ct := some 8 }, { mm0 with sFmt := 16 },
      { mm0 with tFmt := 16 }, { mm0 with oFmt := 5 }, { mm0 with sAttr := 2 }, { mm0 with tAttr := 2 },
      { mm0 with epiJob := 2 }, { mm0 with shape := .u 64 }, { mm0 with vorg := .u 64 }, { mm0 with beta := .u 64 }, { mm0 with korg := 31 },
      { mm0 with k0 := 2 ^ 16 }, { mm0 with featOrg := 2 ^ 16 }, { mm0 with rowOrg := 32 }, { mm0 with sFmt := 0 },
      { mm0 with tFmt := 0xA }] : List MmaOp).all (fun m => !m.wf) = true ∧
    ([{ cb0 with fmt := 16 }, { cb0 with attr := 2 }, { cb0 with sat := .nosat }, { cb0 with v := 255 }, { cb0 with du := 3 },
      { cb0 with du := 64 }, { cb0 with blk := .u 64 }] : List CvtBlk).all (fun w => !w.wf) = true ∧
    MemQ.wf { mq0 with hint := .keep } = false := by decide +kernel

/-- Operands, link messages, error sites and blocks that the part does not have. -/
theorem test_wf_operands :
    ([.v 255, .u 64, .p 8, .t 8] : List Opd).all (fun o => !o.wf) = true ∧ Opd.evenPair (.v 254) = false ∧
    ([{ type := 1, src := 256 }, { type := 1, dst := 256 }, { type := 1, err := 16 }, { type := 1, size := 129 }] : List LinkMsg).all
      (fun m => !m.wf) = true ∧
    ([.word 1536 0 0 0, .word 0 48 0 0, .word 0 0 4 0, .slm 1536 0 0, .slm 0 16 0, .wb 1536 0, .istore 1536 0 0 0, .turn 192 0,
      .turn 0 16, .epi 192 0, .slice 32 0, .stash 32 0 0, .sliceTag 32, .side 32 0, .parking 8, .saveArea 1536, .memory 64 0 [],
      .memory 0 0 [72], .lane 40 0, .lane 0 9, .d2d 16, .array 1536 0, .pin 64 0 0, .pin 0 16 0, .pin 0 0 36] : List ErrSite).all
      (fun e => !e.wf) = true ∧
    ([⟨0, 1536⟩, ⟨1, 192⟩, ⟨2, 32⟩, ⟨3, 8⟩, ⟨4, 64⟩, ⟨5, 32⟩] : List PowerBlock).all (fun b => !b.wf) = true ∧
    EccIn.wf { errs := [[], [], [], [], []] } = false ∧ BootIn.wf { d2dFailed := [16] } = false ∧
    BootIn.wf { laneSpared := [(64, 0, 0)] } = false ∧ BootIn.wf { laneSpared := [(0, 16, 0)] } = false := by decide +kernel
/-! ### The spec's worked examples -/

/-- R34's example: core 1,091 has location code 0x05A3. -/
theorem test_location_code : locOf 1091 = 0x05A3 := by decide +kernel

/-- Table 7.8: the words of the worked MMA decode to it, as words and as one number. -/
theorem test_decode_mma :
    decodeLysril 0 0 [0x400300A603010C03, 0x9900110000000000, 0x020400C8, 0x190, 0x3F800000] = some (.mma i0mma mm0) ∧
    decodeTableWord 320 (0x400300A603010C03 + 0x9900110000000000 * 2 ^ 64 + 0x020400C8 * 2 ^ 128 + 0x190 * 2 ^ 192 +
      0x3F800000 * 2 ^ 256) = some (.mma i0mma mm0) := by decide +kernel

/-- The same with one word too few, a reserved bit of word 0 or of word 1 set, or an opcode outside Table 7.5 spells nothing. -/
theorem test_decode_refuses :
    decodeLysril 0 0 [0x400300A603010C03, 0x9900110000000000, 0x020400C8, 0x190] = none ∧
    decodeLysril 0 0 [0x400304A603010C03, 0x9900110000000000, 0x020400C8, 0x190, 0x3F800000] = none ∧
    decodeLysril 0 0 [0x400300A603010C03, 0x9900110000000001, 0x020400C8, 0x190, 0x3F800000] = none ∧
    decodeLysril 0 0 [0x700300A603010C03, 0x9900110000000000, 0x020400C8, 0x190, 0x3F800000] = none := by decide +kernel

/-- TRACE.MARK with identifier %u3 and value %v5, guarded by not %p2: opcode 0x610 (Table 7.5), NX 0, GE, GN, GP 2, KINDS D none,
A thread register, B uniform register, C none. -/
theorem test_decode_trace_mark :
    decodeLysril 0 0 [0x6100D004FF0503FF, 0] =
      some (.traceMark { i0 with guarded := true, negated := true, guard := 2 } (.u 3) (.v 5)) := by decide +kernel

/-- BENCH.XLAT into %v8 and %v9 with success in %p1, from %v2 and %v3: opcode 0x600, KINDS D class 2. -/
theorem test_decode_bench_xlat :
    decodeLysril 0 0 [0x6000008001080203, 0] = some (.benchXlat i0 1 (.v 8) (.v 2) (.v 3)) := by decide +kernel

/-- The default set of a GBL-8 (Table 10.3). -/
def sMap : State :=
  { run0 with mem.sets := [{ base := 0, size := 2 ^ 41, member := List.range 64, mbase := List.replicate 64 0, owner := .shared }] }

/-- Table 10.3: the decode of 0xB7_D3E2_9180, and the home slice, set and tag of its line. -/
theorem test_decode_address :
    homeOf sMap 0xB7D3E29180 = some (36, 96378645) ∧ placeOf 96378645 = ⟨10, 10, 11764, 0⟩ ∧
      homeSlice sMap 0xB7D3E29180 = some (18, 7722, 7843) := by decide +kernel

/-- The example of R251: line 1,000,003 of controller 45. -/
theorem test_home_slice : sliceOf 45 1000003 = (22, 9351, 81) := by decide +kernel

/-- A block with the worked values of Table 3.8, zeros elsewhere. -/
def blk38 : List XVal :=
  [xOf (29 / 10)] ++ List.replicate 7 xZero ++ [xOf (7 / 10), xOf (-3 / 10)] ++ List.replicate 6 xZero ++
    [xOf (9 / 100), xOf (1 / 100)] ++ List.replicate 14 xZero

/-- Table 3.8 in SV4: scale entry 0xF870, the elements, and one flushed element. -/
theorem test_convert_sv4 :
    let r := convertSv4 xOne (fun _ => .rne) blk38
    r.scale = 0xF870 ∧ [0, 8, 9, 16, 17].map (fun k => r.elems.getD k 0) = [7, 7, 12, 3, 0] ∧ r.clipped = 0 ∧ r.flushed = 1 := by
  decide +kernel

/-- Table 3.8 in MXFP4: scale 0x7E and two flushed elements. -/
theorem test_convert_mxfp4 :
    let r := convertMx 8 0 (fun _ => .rne) blk38
    r.scale = 0x7E ∧ [0, 16, 17].map (fun k => r.elems.getD k 0) = [7, 0, 0] ∧ r.flushed = 2 := by decide +kernel

/-- The worked conversions to E4M3: 0.3, 500 with and without saturation, 0.0009. -/
theorem test_convert_e4m3 :
    fmtE4M3.convert .rne true (xOf (3 / 10)) = ⟨0x2A, false, false⟩ ∧ fmtE4M3.convert .rne true (xOf 500) = ⟨0x7E, true, false⟩ ∧
    fmtE4M3.convert .rne false (xOf 500) = ⟨0x7F, true, false⟩ ∧
    fmtE4M3.convert .rne true (xOf (9 / 10000)) = ⟨0, false, true⟩ := by decide +kernel

/-! ### Single steps -/

/-- The value of %v n of a lane of the group on core 0 after the front command has run. -/
def stepV (c : Instr) (g : Group) (n lane : Nat) : Word :=
  match step { sGB g b3 with pending := [c] } with
  | .next t => vReg { ctxOf (sGB g b3) i0 with g := ((alFind (execOf t 0).groups 0).getD {}) } n lane
  | _ => 0xBAD

/-- ADD.S32 wraps (R99's integer types are 32 bits wide). -/
theorem test_add_wraps :
    stepV (.add i0 .s32 .rne (.v 3) (.v 0) (.v 1)) { g3 with regs := [(0, 0x7FFFFFFF), (32, 1)] } 3 0 = 0x80000000 := by
  decide +kernel

/-- MIN.F32 returns the number when one operand is NaN (R99). -/
theorem test_min_nan :
    stepV (.min i0 .f32 (.v 3) (.v 0) (.v 1)) { g3 with regs := [(0, 0x7FC00000), (32, 0x40000000)] } 3 0 = 0x40000000 := by
  decide +kernel

/-- SHR.S32 keeps the sign, SHR.U32 does not. -/
theorem test_shift_right :
    stepV (.shr i0 .s32 (.v 3) (.v 0) (.imm 4)) { g3 with regs := [(0, 0x80000000)] } 3 0 = 0xF8000000 ∧
    stepV (.shr i0 .u32 (.v 3) (.v 0) (.imm 4)) { g3 with regs := [(0, 0x80000000)] } 3 0 = 0x08000000 := by decide +kernel

/-- GRED.ADD.S32 gives every lane the sum over the lanes that take part. -/
theorem test_gred_add :
    stepV (.gredAdd i0 .s32 false false (.v 3) (.v 0)) { g3 with regs := [(0, 5), (1, 6), (2, 7)] } 3 1 = 18 := by decide +kernel

/-- A sector's 72 symbols: the stored word leaves no remainder, and a poisoned sector is recognised (R297, R300). -/
theorem test_sector_code :
    let data := (List.range 64).map (fun k => (37 * k + 5) % 256)
    rsCheck 8 sectorPoly 8 ((storedWord data false).reverse) = List.replicate 8 0 ∧
    isPoisonWord (storedWord data true) = true ∧ isPoisonWord (storedWord data false) = false := by decide +kernel

/-- CRC-32 of "123456789", the standard's check value, and the header of the READ of Table 11.8 (Table 11.5). -/
theorem test_link_bytes :
    crc32 [0x31, 0x32, 0x33, 0x34, 0x35, 0x36, 0x37, 0x38, 0x39] = 0xCBF43926 ∧
    msgHeader { type := 1, src := 17, dst := 203, tag := 5, tenant := 3, line := 0x2468ACF1 } =
      [1, 17, 203, 0, 5, 0, 3, 0, 0xF1, 0xAC, 0x68, 0x24, 0, 0, 0, 0] := by decide +kernel

end Sys2Proof.Tests
end

section
/-! What a command can come to: it completes, or it is a host access to a BAR. Nothing else is an outcome of `exec`, and
both leave the waiting commands and the variant alone. -/

namespace Sys2Proof.Machine

/-- A command that is no host access to a BAR completes. -/
theorem exec_completes {c : Instr} (s : State) (h : hostFn c = none) : ∃ t, exec c s = completes s t := by
  cases c with
  | dbRing | dbCompl | mbSubmit | mbRespAck | mbResync | fePasidWrite | eventRingEnable | eventRingConsWrite | msixUnmask
  | counterSnap | counterClear | whistleRelease | breakArm | accessPortGo | registerWrite => cases h
  | _ => exact ⟨_, rfl⟩

/-- A host access to a BAR runs as one, after the bytes that the host posted before it (R239). -/
theorem exec_hostAccess {c : Instr} {f : Nat} (s : State) (h : hostFn c = some f) :
    ∃ k, exec c s = hostAccess (postHost s (hostPosted c)) f k := by
  cases c with
  | dbRing | dbCompl | mbSubmit | mbRespAck | mbResync | fePasidWrite | eventRingEnable | eventRingConsWrite | msixUnmask
  | counterSnap | counterClear | whistleRelease | breakArm | accessPortGo | registerWrite => cases h; exact ⟨_, rfl⟩
  | _ => cases h

/-- A host access faults, takes effect, or changes nothing. -/
theorem hostAccess_ends (s : State) (f : Nat) (k : State) :
    hostAccess s f k = .fault .barBeforeReady ∨ hostAccess s f k = completes s k ∨ hostAccess s f k = completes s s := by
  unfold hostAccess
  split
  · exact .inl rfl
  · split
    · exact .inr (.inl rfl)
    · exact .inr (.inr rfl)

/-- A command that has completed has left the variant and the queue as they were. -/
theorem completes_keeps {s t u : State} (h : completes s t = .next u) :
    u.variant = s.variant ∧ u.pending = s.pending := by
  cases h
  exact ⟨rfl, rfl⟩

/-- No command changes the variant or the queue behind it. -/
theorem exec_keeps {c : Instr} {s t : State} (h : exec c s = .next t) :
    t.variant = s.variant ∧ t.pending = s.pending := by
  cases hf : hostFn c with
  | none =>
    obtain ⟨u, hu⟩ := exec_completes s hf
    exact completes_keeps (hu.symm.trans h)
  | some f =>
    obtain ⟨k, hk⟩ := exec_hostAccess s hf
    rw [hk] at h
    rcases hostAccess_ends (postHost s (hostPosted c)) f k with hr | hr | hr <;> rw [hr] at h
    · cases h
    · exact completes_keeps h
    · exact completes_keeps h

/-- A step leaves the variant and takes the front command, if one waits. -/
theorem step_keeps {s t : State} (h : step s = .next t) :
    t.variant = s.variant ∧ t.pending = s.pending.drop 1 := by
  unfold step at h
  split at h
  next hp =>
    obtain ⟨hv, hq⟩ := completes_keeps h
    exact ⟨hv, by rw [hq, hp]; rfl⟩
  next c rest hp =>
    obtain ⟨hv, hq⟩ := exec_keeps h
    exact ⟨hv, by rw [hq, hp]; rfl⟩

/-- Settles O3: a step takes the front command off and adds none (`step_keeps`), so that what waits after it waited before. -/
theorem stepKeepsPartAndWaitingCommands : Obligations.StepKeepsPartAndWaitingCommands := by
  refine ⟨fun s t h => step_keeps h, fun s t hwf h c hc => ?_⟩
  obtain ⟨-, hq⟩ := step_keeps h
  exact hwf c (List.mem_of_mem_drop (hq ▸ hc))

end Sys2Proof.Machine
end
section
/-! An instruction of an absent unit (R7): what the failure of a node and the end of a block leave. -/

namespace Sys2Proof.Machine

/-! ### Changes of a node -/

@[simp] theorem modNode_cores (s : State) (n : Nat) (g : Node → Node) : (modNode s n g).cores = s.cores := by
  unfold modNode
  split <;> rfl

@[simp] theorem execOf_modNode (s : State) (n : Nat) (g : Node → Node) (c : Nat) : execOf (modNode s n g) c = execOf s c := by
  simp [execOf, coreOf]

/-- A changed node is found as changed. -/
theorem alFind_modNode {s : State} {n : Nat} {x : Node} (g : Node → Node) (h : alFind s.fe.nodes n = some x) :
    alFind (modNode s n g).fe.nodes n = some (g x) := by
  simp [modNode, h]

@[simp] theorem execOf_failNode (s : State) (n : Nat) (f : FailInfo) (c : Nat) : execOf (failNode s n f) c = execOf s c :=
  execOf_modNode s n _ c

/-- The first failure of a node is recorded under the node's index (R187). -/
theorem alFind_failNode {s : State} {n : Nat} {x : Node} (f : FailInfo) (h : alFind s.fe.nodes n = some x)
    (hx : x.fail = none) : alFind (failNode s n f).fe.nodes n = some { x with fail := some { f with node := x.idx } } := by
  simp [failNode, alFind_modNode _ h, hx]

/-! ### The end of a block -/

/-- The groups and blocks that the end of block `k` leaves on its core. -/
theorem execOf_endBlock {s : State} {core k : Nat} {b : Block} (h : alFind (execOf s core).blocks k = some b) :
    (execOf (endBlock s core k) core).groups = (execOf s core).groups.filter (fun e => e.2.block != k) ∧
      (execOf (endBlock s core k) core).blocks = alDel (execOf s core).blocks k := by
  simp [endBlock, h, alFilter]

/-- A block that ends counts as done at its node. -/
theorem alFind_endBlock {s : State} {core k : Nat} {b : Block} {x : Node} (hb : alFind (execOf s core).blocks k = some b)
    (hx : alFind s.fe.nodes b.task.node = some x) :
    alFind (endBlock s core k).fe.nodes b.task.node =
      some { x with liveBlocks := x.liveBlocks - 1, doneBlocks := x.doneBlocks + 1 } := by
  simp only [endBlock, hb]
  exact alFind_modNode _ hx

/-- A block that ends with its task's first failure `f`: its groups and itself are gone, and the node holds `f` and one more
done block. -/
theorem endBlock_failNode {s : State} {core k : Nat} {b : Block} {n : Node} (f : FailInfo)
    (hb : alFind (execOf s core).blocks k = some b) (hn : alFind s.fe.nodes b.task.node = some n) (hf : n.fail = none) :
    let t := endBlock (failNode s b.task.node f) core k
    (execOf t core).groups = (execOf s core).groups.filter (fun e => e.2.block != k) ∧
      (execOf t core).blocks = alDel (execOf s core).blocks k ∧
      ∃ m, alFind t.fe.nodes b.task.node = some m ∧ m.fail = some { f with node := n.idx } ∧ m.doneBlocks = n.doneBlocks + 1 := by
  have hb' : alFind (execOf (failNode s b.task.node f) core).blocks k = some b := by simpa using hb
  obtain ⟨hg, hbs⟩ := execOf_endBlock hb'
  exact ⟨by simpa using hg, by simpa using hbs, _, alFind_endBlock hb' (alFind_failNode f hn hf), rfl, rfl⟩

/-! ### The absent unit -/

/-- An issue to an absent unit ends the group's block with UNIT_ABSENT. -/
theorem absentUnit_of_issue {s : State} {i : Iss} {c : Ctx} (hi : issue s i = some c) :
    absentUnit s i = endBlock (failNode s c.b.task.node
      { status := .unitAbsent, loc := locOf i.core, pc := c.p.pc, lanes := c.p.lanes.toNat }) i.core c.g.block := by
  obtain ⟨hcore, -⟩ := issue_some hi
  simp only [absentUnit, hi, hcore]

/-- The instructions that name FP64 go to the absent unit on a part without its lanes (R166). -/
theorem exec_fp64_absent {ins : Instr} {i : Iss} {s : State} (hu : s.units.testBit 2 = false)
    (h : (∃ op r d a b e, ins = .f64Op i op r d a b e) ∨
      (∃ dty sty r sm d a, (dty = .f64 ∨ sty = .f64) ∧ ins = .cvt i dty sty r sm d a) ∨
      (∃ op, (op.sFmt = 14 ∨ op.tFmt = 14) ∧ ins = .mma i op)) :
    exec ins s = completes s (absentUnit s i) := by
  have ha : f64Absent s = true := by simp [f64Absent, hu]
  rcases h with ⟨op, r, d, a, b, e, rfl⟩ | ⟨dty, sty, r, sm, d, a, hty, rfl⟩ | ⟨op, hfmt, rfl⟩
  · simp [exec, execF64Op, ha]
  · simp [exec, execCvt, ha, hty]
  · simp [exec, execMma, ha, hfmt]

/-- Settles O10: such an instruction is handled as an absent unit (`exec_fp64_absent`), which ends its block
with UNIT_ABSENT (`endBlock_failNode`). -/
theorem fp64WithoutLanesEndsTheTask : Obligations.Fp64WithoutLanesEndsTheTask := by
  intro ins i s c n hu hi hins hn hf
  obtain ⟨-, -, -, -, hb, -⟩ := issue_some hi
  obtain ⟨hgroups, hblocks, m, hm, hfail, hdone⟩ := endBlock_failNode _ hb hn hf
  rw [exec_fp64_absent hu hins, absentUnit_of_issue hi]
  exact ⟨_, m, rfl, hgroups, hblocks, hm, hfail, hdone⟩

end Sys2Proof.Machine
end

section
/-! What a host's access does to the registers of a function: the access itself, one function's registers after a change, and
what signals and events leave alone. -/

namespace Sys2Proof.Machine

/-! ### The access -/

/-- An access that may take effect does (R524, R525). -/
theorem hostAccess_of_may {s : State} {f : Nat} (h : HostMay s f) (k : State) : hostAccess s f k = completes s k := by
  obtain ⟨hready, hlive, hd3⟩ := h
  simp [hostAccess, hready, hlive, hd3]

/-! ### The registers of one function -/

@[simp] theorem fnOf_setFn_self (s : State) (f : Nat) (x : Fn) : fnOf (setFn s f x) f = x := by simp [fnOf]

@[simp] theorem fnOf_modFn_self (s : State) (f : Nat) (g : Fn → Fn) : fnOf (modFn s f g) f = g (fnOf s f) := by simp [fnOf]

theorem fnOf_modFn_other (s : State) {f k : Nat} (g : Fn → Fn) (h : k ≠ f) : fnOf (modFn s f g) k = fnOf s k := by
  simp [fnOf, alGet_alPut_other _ _ _ _ _ h]

@[simp] theorem fnOf_emit (s : State) (o : Out) (f : Nat) : fnOf (emit s o) f = fnOf s f := rfl

/-! ### Signals and events -/

/-- `t` is `s` but for the functions' registers and the host's side. -/
def OnlyHostSide (s t : State) : Prop := ∃ fns host, t = { s with fns := fns, host := host }

theorem OnlyHostSide.refl (s : State) : OnlyHostSide s s := ⟨_, _, rfl⟩

theorem OnlyHostSide.trans {s t u : State} (h : OnlyHostSide s t) (h' : OnlyHostSide t u) : OnlyHostSide s u := by
  obtain ⟨_, _, rfl⟩ := h
  obtain ⟨_, _, rfl⟩ := h'
  exact ⟨_, _, rfl⟩

/-- A change that is made on a condition. -/
theorem OnlyHostSide.ite {c : Prop} [Decidable c] {s t : State} (h : OnlyHostSide s t) : OnlyHostSide s (if c then t else s) := by
  split
  · exact h
  · exact .refl s

section
variable {s t : State} (h : OnlyHostSide s t)
include h

theorem OnlyHostSide.mem : t.mem = s.mem := by obtain ⟨_, _, rfl⟩ := h; rfl
theorem OnlyHostSide.cores : t.cores = s.cores := by obtain ⟨_, _, rfl⟩ := h; rfl

/-- An access that changes the host's side alone ends in the state it makes. -/
theorem OnlyHostSide.hostAccess {f : Nat} (hm : HostMay s f) : hostAccess s f t = .next t := by
  obtain ⟨_, _, rfl⟩ := h
  exact hostAccess_of_may hm _

end

theorem onlyHostSide_modFn (s : State) (f : Nat) (g : Fn → Fn) : OnlyHostSide s (modFn s f g) := ⟨_, _, rfl⟩

theorem onlyHostSide_hostWrite (s : State) (addr : Nat) (bytes : List Byte) (ro : Bool) :
    OnlyHostSide s (hostWrite s addr bytes ro) := ⟨_, _, rfl⟩

theorem onlyHostSide_signalVec (s : State) (f v : Nat) : OnlyHostSide s (signalVec s f v) := by
  simp only [signalVec]
  split <;> exact ⟨_, _, rfl⟩

/-- Signalling a vector leaves the event ring. -/
@[simp] theorem signalVec_evr (s : State) (f v : Nat) : (fnOf (signalVec s f v) f).evr = (fnOf s f).evr := by
  simp only [signalVec]
  split <;> simp

theorem onlyHostSide_evSignal (s : State) (f : Nat) : OnlyHostSide s (evSignal s f) := by
  exact .ite (.trans ⟨_, _, rfl⟩ (onlyHostSide_signalVec _ _ _))

/-- The event vector's signal leaves the consumer count. -/
theorem evSignal_cons (s : State) (f : Nat) : (fnOf (evSignal s f) f).evr.cons = (fnOf s f).evr.cons := by
  simp only [evSignal]
  split <;> simp

theorem onlyHostSide_hostXlat (s : State) (fn : Nat) (pasid : Option Nat) (addr : Nat) (write : Bool) :
    OnlyHostSide s (hostXlat s fn pasid addr write).2 := by
  simp only [hostXlat]
  repeat' split
  all_goals exact ⟨_, _, rfl⟩

theorem onlyHostSide_evWrite (s : State) (f grp b detail time : Nat) : OnlyHostSide s (evWrite s f grp b detail time) := by
  simp only [evWrite]
  split
  · exact onlyHostSide_modFn _ _ _
  · have hx := onlyHostSide_hostXlat s f none
      ((fnOf s f).evr.base + 32 * ((fnOf s f).evr.prod % evSize (fnOf s f).evr)) true
    split
    next s1 he => exact (he ▸ hx).trans (onlyHostSide_modFn _ _ _)
    next s1 he => exact (he ▸ hx).trans (onlyHostSide_modFn _ _ _)
    next a s1 he =>
      have h1 : OnlyHostSide s s1 := by simpa [he] using hx
      have hend (t : State) (h : OnlyHostSide s t) : OnlyHostSide s (if grp = 6 then t else evSignal t f) := by
        split
        · exact h
        · exact h.trans (onlyHostSide_evSignal _ _)
      exact hend _ (((h1.trans (onlyHostSide_hostWrite _ _ _ _)).trans (onlyHostSide_hostWrite _ _ _ _)).trans
        (onlyHostSide_modFn _ _ _))

theorem onlyHostSide_occur (s : State) (f grp b detail : Nat) : OnlyHostSide s (occur s f grp b detail) := by
  refine .trans ?_ (.ite (onlyHostSide_signalVec _ _ _))
  split
  · split
    · exact onlyHostSide_evWrite _ _ _ _ _ _
    · exact onlyHostSide_modFn _ _ _
  · split
    · exact .refl s
    · exact onlyHostSide_signalVec _ _ _

end Sys2Proof.Machine
end
section
/-! The registers that a host writes and reads (R12, R14, R520, R528, R529, R535, R537, R540). -/

namespace Sys2Proof.Machine

variable {s : State} {fn : Nat}

/-! ### FE_PASID -/

theorem onlyHostSide_writePasid (s : State) (fn v : Nat) : OnlyHostSide s (writePasid s fn v) := by
  unfold writePasid
  split
  · exact .refl s
  · exact onlyHostSide_modFn _ _ _

/-- FE_PASID takes EN and 20 bits where no queue uses it (R529). -/
theorem writePasid_of_unused (v : Nat) (hfn : fn ≠ serviceFn)
    (hq : ∀ q ∈ s.fe.queues, q.2.fn = fn → q.2.pasid = false) :
    writePasid s fn v = modFn s fn (fun x => { x with pasid := b2n (bit v 31) * 2 ^ 31 + v % 2 ^ 20 }) := by
  have hany : s.fe.queues.any (fun q => q.2.fn == fn && q.2.pasid) = false := by
    simpa [List.any_eq_false] using hq
  simp [writePasid, hfn, hany]

theorem fePasidWrite_takes (h : HostMay s fn) (v : Nat) (hfn : fn ≠ serviceFn)
    (hq : ∀ q ∈ s.fe.queues, q.2.fn = fn → q.2.pasid = false) :
    ∃ t, exec (.fePasidWrite fn v) s = .next t ∧ t.mem = s.mem ∧ t.cores = s.cores ∧
      fnOf t fn = { fnOf s fn with pasid := b2n (bit v 31) * 2 ^ 31 + v % 2 ^ 20 } ∧ ∀ k, k ≠ fn → fnOf t k = fnOf s k := by
  have ho := onlyHostSide_writePasid s fn v
  refine ⟨_, ho.hostAccess h, ho.mem, ho.cores, ?_⟩
  rw [writePasid_of_unused v hfn hq]
  exact ⟨fnOf_modFn_self s fn _, fun k hk => fnOf_modFn_other s _ hk⟩

/-! ### The event ring -/

/-- Opening a closed event ring: SIZE_LOG2 is taken, and an allowed size empties and arms the ring (R537). -/
theorem writeEvrCtl_closed (v : Nat) (hen : (fnOf s fn).evr.en = false) (hv : bit v 31 = true) :
    writeEvrCtl s fn v = setFn s fn { fnOf s fn with evr :=
      if 6 ≤ v % 32 ∧ v % 32 ≤ 12 then
        { (fnOf s fn).evr with sizeLog2 := v % 32, en := true, armed := true, prod := 0, cons := 0 }
      else { (fnOf s fn).evr with sizeLog2 := v % 32 } } := by
  simp [writeEvrCtl, hen, hv]

theorem eventRingEnable_takes (h : HostMay s fn) (v : Nat) (hen : (fnOf s fn).evr.en = false) (hv : bit v 31 = true) :
    ∃ t, exec (.eventRingEnable fn v) s = .next t ∧ t.mem = s.mem ∧ t.host = s.host ∧
      (6 ≤ v % 32 ∧ v % 32 ≤ 12 → (fnOf t fn).evr = { (fnOf s fn).evr with
        sizeLog2 := v % 32, en := true, armed := true, prod := 0, cons := 0 }) ∧
      (v % 32 < 6 ∨ 12 < v % 32 → (fnOf t fn).evr.en = false) := by
  have hw := writeEvrCtl_closed v hen hv
  have ho : OnlyHostSide s (writeEvrCtl s fn v) := hw ▸ ⟨_, _, rfl⟩
  refine ⟨_, ho.hostAccess h, ho.mem, by rw [hw]; rfl, fun hsize => ?_, fun hsize => ?_⟩ <;> rw [hw, fnOf_setFn_self]
  · simp [hsize]
  · rw [if_neg (by omega)]
    exact hen

/-- A consumer count between PROD and a ring behind it is taken, and arms the vector; with entries left it signals at once
(R540). -/
theorem writeEvrCons_of_lt {v : Nat} (hv : v < 2 ^ 32) : writeEvrCons s fn v =
    if evSize (fnOf s fn).evr < ((fnOf s fn).evr.prod + 2 ^ 32 - v) % 2 ^ 32 then s
    else
      let t := setFn s fn { fnOf s fn with evr := { (fnOf s fn).evr with cons := v, armed := (fnOf s fn).evr.en } }
      if (fnOf s fn).evr.prod = v then t else evSignal t fn := by
  simp only [writeEvrCons, Nat.mod_eq_of_lt hv]

theorem onlyHostSide_writeEvrCons (s : State) (fn v : Nat) : OnlyHostSide s (writeEvrCons s fn v) := by
  simp only [writeEvrCons]
  split
  · exact .refl s
  · split
    · exact ⟨_, _, rfl⟩
    · exact .trans ⟨_, _, rfl⟩ (onlyHostSide_evSignal _ _)

theorem eventRingConsWrite_takes (h : HostMay s fn) (v : Nat) (hv : v < 2 ^ 32) :
    ∃ t, exec (.eventRingConsWrite fn v) s = .next t ∧ t.mem = s.mem ∧ t.cores = s.cores ∧
      (evSize (fnOf s fn).evr < ((fnOf s fn).evr.prod + 2 ^ 32 - v) % 2 ^ 32 → t = s) ∧
      (((fnOf s fn).evr.prod + 2 ^ 32 - v) % 2 ^ 32 ≤ evSize (fnOf s fn).evr → (fnOf t fn).evr.cons = v ∧
        ((fnOf s fn).evr.prod = v → (fnOf t fn).evr.armed = (fnOf s fn).evr.en)) := by
  have ho := onlyHostSide_writeEvrCons s fn v
  refine ⟨_, ho.hostAccess h, ho.mem, ho.cores, fun hahead => ?_, fun hin => ?_⟩ <;> rw [writeEvrCons_of_lt hv]
  · rw [if_pos hahead]
  · rw [if_neg (not_lt.mpr hin)]
    by_cases hp : (fnOf s fn).evr.prod = v
    · simp [hp]
    · simp [hp, evSignal_cons]

/-! ### Vectors -/

theorem onlyHostSide_flushVec (s : State) (fn vec : Nat) : OnlyHostSide s (flushVec s fn vec) := by
  exact .ite ⟨_, _, rfl⟩

theorem onlyHostSide_writeVec (s : State) (fn vec : Nat) (g : Vec → Vec) : OnlyHostSide s (writeVec s fn vec g) := by
  unfold writeVec
  split
  · exact .refl s
  · exact (onlyHostSide_modFn _ _ _).trans (onlyHostSide_flushVec _ _ _)

/-- An unmasked vector's pending message is sent where MSI-X is enabled, and only there (R535). -/
theorem flushVec_of_unmasked {vec : Nat} (hm : (alGet {} (fnOf s fn).vecs vec).masked = false) :
    let e := alGet {} (fnOf s fn).vecs vec
    flushVec s fn vec =
      if e.pend = true ∧ (fnOf s fn).pcie.msixEn = true then
        emit (setFn s fn { fnOf s fn with vecs := alPut (fnOf s fn).vecs vec { e with pend := false } })
          (.msix fn vec e.addr e.data)
      else s := by
  simp only [flushVec, hm, Bool.not_false, Bool.and_true, Bool.and_eq_true]

theorem msixUnmask_takes (h : HostMay s fn) (vec : Nat) (hvec : vec < vectorsOf fn) :
    let e := alGet {} (fnOf s fn).vecs vec
    ∃ t, exec (.msixUnmask fn vec) s = .next t ∧ t.mem = s.mem ∧ t.cores = s.cores ∧
      (alGet {} (fnOf t fn).vecs vec).masked = false ∧
      (e.pend = true ∧ (fnOf s fn).pcie.msixEn = true → t.host.out = s.host.out ++ [.msix fn vec e.addr e.data] ∧
        (alGet {} (fnOf t fn).vecs vec).pend = false) ∧
      (e.pend = false ∨ (fnOf s fn).pcie.msixEn = false → t.host.out = s.host.out) := by
  intro e
  have ho := onlyHostSide_writeVec s fn vec (fun e => { e with masked := false })
  refine ⟨_, ho.hostAccess h, ho.mem, ho.cores, ?_⟩
  rw [writeVec, if_neg (not_le.mpr hvec), flushVec_of_unmasked (by simp)]
  simp only [fnOf_modFn_self, alGet_alPut_self]
  by_cases hsend : e.pend = true ∧ (fnOf s fn).pcie.msixEn = true
  · rw [if_pos hsend]
    have hno : ¬(e.pend = false ∨ (fnOf s fn).pcie.msixEn = false) := by simp [hsend]
    exact ⟨by simp, fun _ => ⟨rfl, by simp⟩, fun h => absurd h hno⟩
  · rw [if_neg hsend]
    exact ⟨by simp, fun h => absurd h hsend, fun _ => rfl⟩

/-! ### Event registers -/

/-- An event register stands in the window. -/
theorem eventReg_lt {addr g : Nat} {en : Bool} (h : eventReg addr = some (g, en)) : addr < 2 ^ 22 := by
  unfold eventReg at h
  split at h <;> cases h <;> norm_num

/-- The bits of a written value that an event group takes. -/
def eventMask (fn g v : Nat) : Nat := v % 2 ^ eventBits g &&& eventSeen fn g

theorem bit_eventMask (fn g v b : Nat) :
    bit (eventMask fn g v) b = (bit v b && decide (b < eventBits g) && bit (eventSeen fn g) b) := by
  simp only [bit, eventMask, Nat.testBit_and, Nat.testBit_mod_two_pow, Bool.and_comm (decide _)]

theorem eventMask_lt {v : Nat} (fn g : Nat) (hv : v < 2 ^ 32) : eventMask fn g v < 2 ^ 32 :=
  lt_of_le_of_lt (Nat.and_le_left.trans (Nat.mod_le _ _)) hv

/-- Taking out of `x` what it shares with `m` clears the bits of `m`. -/
theorem bit_sub_and (x m b : Nat) : bit (x - (x &&& m)) b = (bit x b && !bit m b) := by
  unfold bit
  induction b generalizing x m with
  | zero =>
    have hmod : (x &&& m) % 2 = (x % 2) &&& (m % 2) := Nat.and_mod_two_pow (n := 1)
    have hle : x &&& m ≤ x := Nat.and_le_left
    simp only [Nat.testBit_zero]
    generalize x &&& m = y at hmod hle
    rcases Nat.mod_two_eq_zero_or_one m with hm | hm <;> simp [hm] at hmod ⊢ <;> omega
  | succ b ih =>
    have hdiv : (x - (x &&& m)) / 2 = x / 2 - (x / 2 &&& m / 2) := by
      have hmod : (x &&& m) % 2 = (x % 2) &&& (m % 2) := Nat.and_mod_two_pow (n := 1)
      have hle : (x &&& m) % 2 ≤ x % 2 := hmod.trans_le Nat.and_le_left
      rw [← Nat.and_div_two]
      generalize x &&& m = y at hle
      omega
    rw [Nat.testBit_succ, Nat.testBit_succ, Nat.testBit_succ, hdiv]
    exact ih _ _

theorem onlyHostSide_writeEvent (s : State) (fn g : Nat) (en : Bool) (v : Nat) : OnlyHostSide s (writeEvent s fn g en v) := by
  unfold writeEvent
  split
  · exact .refl s
  · exact onlyHostSide_modFn _ _ _

/-- A 4-byte write to an event or enable register goes to its group. -/
theorem exec_registerWrite_event {addr g v : Nat} {en : Bool} (h : HostMay s fn) (ha : eventReg addr = some (g, en))
    (hv : v < 2 ^ 32) (hal : addr % 4 = 0) : exec (.registerWrite fn addr 4 v) s = .next (writeEvent s fn g en v) := by
  have hw : exec (.registerWrite fn addr 4 v) s = hostAccess s fn (writeEvent s fn g en v) := by
    have hlt := not_le.mpr (eventReg_lt ha)
    simp only [exec, execRegisterWrite, writeReg, ha, hal, hlt, Nat.mod_eq_of_lt hv]
    rfl
  rw [hw]
  exact (onlyHostSide_writeEvent _ _ _ _ _).hostAccess h

/-- A write to an event register clears the bits written 1 (R12). -/
theorem registerWrite_event_clears (h : HostMay s fn) (addr g v : Nat) (ha : eventReg addr = some (g, false))
    (hg : ¬ (fn = serviceFn ∧ g < 6)) (hv : v < 2 ^ 32) (hal : addr % 4 = 0) :
    ∃ t, exec (.registerWrite fn addr 4 v) s = .next t ∧ t.mem = s.mem ∧ t.cores = s.cores ∧ t.host = s.host ∧
      ∀ b, eventSet t fn g b = (eventSet s fn g b && !(bit v b && decide (b < eventBits g) && bit (eventSeen fn g) b)) := by
  have ho := onlyHostSide_writeEvent s fn g false v
  refine ⟨_, exec_registerWrite_event h ha hv hal, ho.mem, ho.cores, ?_⟩
  rw [writeEvent, if_neg (by simpa using hg)]
  refine ⟨rfl, fun b => ?_⟩
  simp only [eventSet, fnOf_modFn_self, Bool.false_eq_true, if_false, alGet_alPut_self]
  rw [← eventMask, bit_sub_and, bit_eventMask]

/-- A written enable register holds, and reads back, its legal bits (R12). -/
theorem registerWrite_enable_takes (h : HostMay s fn) (addr g v : Nat) (ha : eventReg addr = some (g, true))
    (hg : ¬ (fn = serviceFn ∧ g < 6)) (hv : v < 2 ^ 32) (hal : addr % 4 = 0) :
    ∃ t, exec (.registerWrite fn addr 4 v) s = .next t ∧ t.mem = s.mem ∧ t.cores = s.cores ∧ t.host = s.host ∧
      ∀ b, bit (alGet 0 (fnOf t fn).en g) b = (bit v b && decide (b < eventBits g) && bit (eventSeen fn g) b) ∧
        bit (readReg t fn addr 4) b = (bit v b && decide (b < eventBits g) && bit (eventSeen fn g) b) := by
  have ho := onlyHostSide_writeEvent s fn g true v
  refine ⟨_, exec_registerWrite_event h ha hv hal, ho.mem, ho.cores, ?_⟩
  have hen : alGet 0 (fnOf (writeEvent s fn g true v) fn).en g = eventMask fn g v := by
    rw [writeEvent, if_neg (by simpa using hg)]
    simp [eventMask]
  have hread : readReg (writeEvent s fn g true v) fn addr 4 = eventMask fn g v := by
    have hlt := not_le.mpr (eventReg_lt ha)
    have hreg : regAt (writeEvent s fn g true v) fn addr = r32 (eventMask fn g v) := by
      simp [regAt, ha, hg, hen]
    simp only [readReg, hlt, hal, readWord, hreg, r32, Nat.mod_eq_of_lt (eventMask_lt fn g hv)]
    rfl
  rw [hen, hread]
  refine ⟨?_, fun b => ⟨bit_eventMask fn g v b, bit_eventMask fn g v b⟩⟩
  rw [writeEvent, if_neg (by simpa using hg)]
  rfl

/-! ### Writes without effect, and values that a read gives -/

/-- Beyond the window, and at a size or an alignment that it does not take, a write changes nothing (R14, R528). -/
theorem registerWrite_ignored (h : HostMay s fn) (addr size v : Nat)
    (hbad : 2 ^ 22 ≤ addr ∨ (size ≠ 4 ∧ size ≠ 8) ∨ addr % size ≠ 0) :
    ∃ t, exec (.registerWrite fn addr size v) s = .next t ∧ t = s := by
  have hw : exec (.registerWrite fn addr size v) s = hostAccess s fn s := by
    simp only [exec, execRegisterWrite]
    congr 1
    split
    · rfl
    · rw [if_neg, if_neg] <;> (simp only [Bool.and_eq_true, decide_eq_true_eq]; rintro ⟨rfl, hal⟩; omega)
  exact ⟨s, hw.trans ((OnlyHostSide.refl s).hostAccess h), rfl⟩

/-- CAP_DBG (R520). -/
theorem readReg_capDbg (s : State) (fn : Nat) :
    readReg s fn 0x40 4 = 0x88444000 + (if bit s.units 4 = true then 0x820 else 0) := by
  have hreg : regAt s fn 0x40 = r32 (capDbg s) := rfl
  simp only [readReg, readWord, hreg, r32, capDbg]
  cases bit s.units 4 <;> rfl

/-- An 8-byte read of a 64-bit register gives its value, half by half (R528). -/
theorem readReg_r64 {addr v : Nat} (hlt : addr < 2 ^ 22) (hal : addr % 8 = 0) (hlow : regAt s fn addr = r64 v)
    (hhigh : regAt s fn (addr + 4) = none) (hv : v < 2 ^ 64) : readReg s fn addr 8 = v := by
  have h4 : (addr + 4) % 8 = 4 := by omega
  have hlo : readWord s fn addr = v % 2 ^ 32 := by simp only [readWord, hlow, r64, Nat.mod_eq_of_lt hv]
  have hhi : readWord s fn (addr + 4) = v / 2 ^ 32 % 2 ^ 32 := by
    simp only [readWord, hhigh, h4, if_true, Nat.add_sub_cancel, hlow, r64, Nat.mod_eq_of_lt hv]
  have hread : readReg s fn addr 8 = readWord s fn addr + 2 ^ 32 * readWord s fn (addr + 4) := by
    simp only [readReg, not_le.mpr hlt, hal]
    rfl
  rw [hread, hlo, hhi]
  omega

/-- A policy register reads as its policy (R121): a 64-bit register in two halves. -/
theorem readReg_policy (hfn : fn ≠ serviceFn) (k : Nat) (hk : k < 8) (hp : (fnOf s fn).policies.getD k 0 < 2 ^ 64) :
    readReg s fn (0x60040 + 8 * k) 8 = (fnOf s fn).policies.getD k 0 := by
  have hlow : regAt s fn (0x60040 + 8 * k) = r64 ((fnOf s fn).policies.getD k 0) := by
    interval_cases k <;> simp [regAt, eventReg, svReg, hfn]
  have hhigh : regAt s fn (0x60040 + 8 * k + 4) = none := by
    interval_cases k <;> simp [regAt, eventReg, svReg, cntIn, hfn]
  exact readReg_r64 (by omega) (by omega) hlow hhigh hp

end Sys2Proof.Machine
end

section
/-! Counter blocks, trace and the whistle (R500 to R510): what a trace record, a capture and the raise of the whistle leave
alone. -/

namespace Sys2Proof.Machine

/-! ### Relations kept along a fold -/

/-- A fold whose every step is related to its start by a reflexive and transitive relation is so itself. -/
theorem foldl_related {α β : Type} {R : β → β → Prop} (hrefl : ∀ b, R b b) (htrans : ∀ {a b c}, R a b → R b c → R a c)
    {f : β → α → β} (hf : ∀ b a, R b (f b a)) (l : List α) (b : β) : R b (l.foldl f b) :=
  List.foldlRecOn l f (hrefl b) (fun _ h a _ => htrans h (hf _ a))

/-! ### Trace -/

/-- `t` is `s` but for the records of the trace sources. -/
def OnlyTrace (s t : State) : Prop := ∃ src drop, t = { s with dbg.sources0 := src, dbg.traceDrop := drop }

theorem OnlyTrace.refl (s : State) : OnlyTrace s s := ⟨_, _, rfl⟩

theorem OnlyTrace.trans {s t u : State} (h : OnlyTrace s t) (h' : OnlyTrace t u) : OnlyTrace s u := by
  obtain ⟨_, _, rfl⟩ := h
  obtain ⟨_, _, rfl⟩ := h'
  exact ⟨_, _, rfl⟩

theorem onlyTrace_traceDropRec (s : State) (src : Nat) : OnlyTrace s (traceDropRec s src) := by
  simp only [traceDropRec]
  split
  · exact .refl s
  · exact ⟨_, _, rfl⟩

theorem onlyTrace_traceEmit (s : State) (type flags src : Nat) (tenant : Option Nat) (p0 p1 : Nat) :
    OnlyTrace s (traceEmit s type flags src tenant p0 p1) := by
  have hdrop : OnlyTrace s (if traceOn s type then traceDropRec s src else s) := by
    split
    · exact onlyTrace_traceDropRec s src
    · exact .refl s
  simp only [traceEmit]
  generalize (if traceOn s type then traceDropRec s src else s) = s1 at hdrop ⊢
  refine hdrop.trans ?_
  repeat' split
  all_goals exact ⟨_, _, rfl⟩

theorem onlyTrace_whistleRecords (s : State) : OnlyTrace s (whistleRecords s) := by
  simp only [whistleRecords]
  split
  · exact .refl s
  · exact foldl_related OnlyTrace.refl OnlyTrace.trans (fun s src => onlyTrace_traceEmit s _ _ src _ _ _) _ s

/-! ### Counter blocks -/

/-- A listed counter block is the block. -/
theorem ctrOf_of_alFind {s : State} {k : Nat} {b : CtrBlock} (h : alFind s.dbg.blocks k = some b) : ctrOf s k = b := by
  simp [ctrOf, h]

/-- A block after a capture of its counts (R502). -/
def captured (b : CtrBlock) (now cause tag : Nat) : CtrBlock :=
  { b with snap := b.count, snapStamp := now, snapCause := cause, snapTag := tag }

/-- A capture changes its block and, with SNAP_TRACE, emits records. -/
theorem onlyTrace_capture (s : State) (k cause : Nat) (tag : Option Nat) :
    OnlyTrace (modCtr s k (fun b => captured b (stampNow s) cause (tag.getD 0))) (capture s k cause tag) := by
  simp only [capture]
  split
  · exact foldl_related OnlyTrace.refl OnlyTrace.trans (fun s n => onlyTrace_traceEmit s _ n _ _ _ _) _ _
  · exact .refl _

variable {s : State} {fn k : Nat}

/-- Without the right to the block, SNAP and CLEAR change nothing (R514). -/
theorem counterWrite_ignored (h : HostMay s fn) (hw : blkWriter s fn k = false) :
    (∃ t, exec (.counterSnap fn k) s = .next t ∧ t = s) ∧ ∃ t, exec (.counterClear fn k) s = .next t ∧ t = s := by
  have hself := (OnlyHostSide.refl s).hostAccess h
  constructor <;> refine ⟨s, ?_, rfl⟩
  · simpa [exec, execCounterSnap, hw] using hself
  · simpa [exec, execCounterClear, hw] using hself

/-- A permitted SNAP copies every count (R502). -/
theorem counterSnap_takes (h : HostMay s fn) (hw : blkWriter s fn k = true) :
    ∃ t, exec (.counterSnap fn k) s = .next t ∧ t.mem = s.mem ∧ t.cores = s.cores ∧ t.fns = s.fns ∧
      (ctrOf t k).snap = (ctrOf s k).count ∧ (ctrOf t k).count = (ctrOf s k).count ∧ (ctrOf t k).snapStamp = 96 * s.time ∧
      (ctrOf t k).snapCause = 1 ∧ ∀ j, j ≠ k → alFind t.dbg.blocks j = alFind s.dbg.blocks j := by
  obtain ⟨src, drop, hc⟩ := onlyTrace_capture s k 1 (ctrOf s k).tag
  have he : exec (.counterSnap fn k) s = completes s (capture s k 1 (ctrOf s k).tag) := by
    simp only [exec, execCounterSnap, hw, if_true, hostAccess_of_may h]
  rw [he, hc]
  refine ⟨_, rfl, rfl, rfl, rfl, ?_⟩
  rw [ctrOf_of_alFind (b := captured (ctrOf s k) (stampNow s) 1 ((ctrOf s k).tag.getD 0)) (alFind_alPut_self _ _ _)]
  exact ⟨rfl, rfl, rfl, rfl, fun j hj => alFind_alPut_other _ _ _ _ hj⟩

/-- A permitted CLEAR sets every count and overflow bit to 0 (R504). -/
theorem counterClear_takes (h : HostMay s fn) (hw : blkWriter s fn k = true) :
    ∃ t, exec (.counterClear fn k) s = .next t ∧ t.mem = s.mem ∧ t.cores = s.cores ∧ t.fns = s.fns ∧
      ctrOf t k = { ctrOf s k with count := [], ovf := 0, wrapped := [] } ∧
      ∀ j, j ≠ k → alFind t.dbg.blocks j = alFind s.dbg.blocks j := by
  have he : exec (.counterClear fn k) s =
      completes s (modCtr s k (fun b => { b with count := [], ovf := 0, wrapped := [] })) := by
    simp only [exec, execCounterClear, hw, if_true, hostAccess_of_may h]
  rw [he]
  exact ⟨_, rfl, rfl, rfl, rfl, ctrOf_of_alFind (alFind_alPut_self _ _ _), fun j hj => alFind_alPut_other _ _ _ _ hj⟩

/-! ### The whistle -/

/-- A shot clock is the queues' alone. -/
theorem syncShots_fe (s : State) : ∃ fe, syncShots s = { s with fe := fe } := by
  refine foldl_related (R := fun s t => ∃ fe, t = { s with fe := fe }) (fun _ => ⟨_, rfl⟩) ?_ (fun s e => ?_) _ s
  · rintro _ _ _ ⟨_, rfl⟩ ⟨_, rfl⟩
    exact ⟨_, rfl⟩
  · simp only [syncShot, modQueue]
    repeat' split
    all_goals exact ⟨_, rfl⟩

/-- A halt stops cores and shot clocks (R508). -/
theorem haltCores_cores_fe (s : State) : ∃ cores fe, haltCores s = { s with cores := cores, fe := fe } := by
  obtain ⟨fe, h⟩ := syncShots_fe (mapCores s (fun i c => if c.present && scopeCore s i then { c with halted := true } else c))
  exact ⟨_, fe, h⟩

/-- The first raise by source `code`, and how far its freeze reaches (R505, R506, R510). -/
def whistleStart (s : State) (code : Nat) : State :=
  { s with dbg.first := code, dbg.sources := setBitN 0 code, dbg.stamp := stampNow s
           frozen := some (if s.sched.strict then some (s.dbg.scope.getD 0x3FF) else none) }

/-- `t` is `s` but for what a raise changes beside the freeze: cores and shot clocks, functions, the host's side, the drive of
the contact and the trace records. -/
def OnlyRaise (s t : State) : Prop :=
  ∃ cores fe fns host drv src drop, t = { s with
    cores := cores, fe := fe, fns := fns, host := host, dbg.driving := drv, dbg.sources0 := src, dbg.traceDrop := drop }

theorem OnlyRaise.refl (s : State) : OnlyRaise s s := ⟨_, _, _, _, _, _, _, rfl⟩

theorem OnlyRaise.trans {s t u : State} (h : OnlyRaise s t) (h' : OnlyRaise t u) : OnlyRaise s u := by
  obtain ⟨_, _, _, _, _, _, _, rfl⟩ := h
  obtain ⟨_, _, _, _, _, _, _, rfl⟩ := h'
  exact ⟨_, _, _, _, _, _, _, rfl⟩

/-- A part of the raise that a setting asks for. -/
theorem OnlyRaise.ite {c : Prop} [Decidable c] {s t : State} (h : OnlyRaise s t) : OnlyRaise s (if c then t else s) := by
  split
  · exact h
  · exact .refl s

theorem OnlyHostSide.onlyRaise {s t : State} (h : OnlyHostSide s t) : OnlyRaise s t := by
  obtain ⟨_, _, rfl⟩ := h
  exact ⟨_, _, _, _, _, _, _, rfl⟩

theorem onlyRaise_haltCores (s : State) : OnlyRaise s (haltCores s) := by
  obtain ⟨_, _, h⟩ := haltCores_cores_fe s
  exact ⟨_, _, _, _, _, _, _, h⟩

/-- A fold of events, one for each of a list of functions. -/
theorem onlyHostSide_foldl_occur (grp b : Nat) (detail : State → Nat) (l : List Nat) (s : State) :
    OnlyHostSide s (l.foldl (fun s f => occur s f grp b (detail s)) s) :=
  foldl_related OnlyHostSide.refl OnlyHostSide.trans (fun s f => onlyHostSide_occur s f grp b (detail s)) l s

/-- The first raise freezes the blocks it reaches and is visible. -/
theorem raiseWhistle_of_quiet {s : State} (code : Nat) (h : s.dbg.raised = false) :
    OnlyRaise { freezeBlocks (whistleStart s code) with dbg.raised := true } (raiseWhistle s code) := by
  have hfreeze : OnlyRaise { freezeBlocks (whistleStart s code) with dbg.raised := true }
      { freezeBlocks (whistleRecords (whistleStart s code)) with dbg.raised := true } := by
    obtain ⟨_, _, hrec⟩ := onlyTrace_whistleRecords (whistleStart s code)
    rw [hrec]
    exact ⟨_, _, _, _, _, _, _, rfl⟩
  have hdrive (t : State) : OnlyRaise t (emit { t with dbg.driving := true } (.pin 0 false)) := ⟨_, _, _, _, _, _, _, rfl⟩
  rw [raiseWhistle, if_neg (by simp [h])]
  have hreach : some (if s.sched.strict then some (s.dbg.scope.getD 0x3FF) else none) =
      if s.sched.strict then some (some (s.dbg.scope.getD 0x3FF)) else some none := by split <;> rfl
  simp only [whistleStart, hreach] at hfreeze ⊢
  exact ((hfreeze.trans (.ite (onlyRaise_haltCores _))).trans (.ite (hdrive _))).trans
    (.ite (onlyHostSide_foldl_occur 9 0 whistleStatus _ _).onlyRaise)

/-- A raise while the whistle is raised adds its source. -/
theorem raiseWhistle_of_raised {s : State} (code : Nat) (h : s.dbg.raised = true) :
    raiseWhistle s code = { s with dbg.sources := setBitN s.dbg.sources code } := if_pos h

theorem bit_setBitN_self (x i : Nat) : bit (setBitN x i) i = true := by
  simp [bit, setBitN, Nat.one_shiftLeft]

theorem raiseWhistle_mem (s : State) (code : Nat) : (raiseWhistle s code).mem = s.mem := by
  cases h : s.dbg.raised with
  | true => rw [raiseWhistle_of_raised code h]
  | false =>
    obtain ⟨_, _, _, _, _, _, _, he⟩ := raiseWhistle_of_quiet code h
    rw [he]
    rfl

/-- After a raise the whistle is raised, with its source named (R505). -/
theorem raiseWhistle_raised (s : State) (code : Nat) :
    (raiseWhistle s code).dbg.raised = true ∧ bit (raiseWhistle s code).dbg.sources code = true := by
  cases h : s.dbg.raised with
  | true =>
    rw [raiseWhistle_of_raised code h]
    exact ⟨h, bit_setBitN_self _ _⟩
  | false =>
    obtain ⟨_, _, _, _, _, _, _, he⟩ := raiseWhistle_of_quiet code h
    rw [he]
    exact ⟨rfl, bit_setBitN_self 0 code⟩

/-! ### Counter blocks under the whistle -/

/-- The entry that a map of values under their keys leaves at a key. -/
theorem alFind_map_value {α : Type} (f : Nat × α → Nat × α) (hf : ∀ e, (f e).1 = e.1) (m : AL α) (k : Nat) :
    alFind (m.map f) k = (alFind m k).map (fun v => (f (k, v)).2) := by
  induction m with
  | nil => rfl
  | cons e m ih =>
    obtain ⟨k', v⟩ := e
    have hk : f (k', v) = (k', (f (k', v)).2) := Prod.ext (hf _) rfl
    rw [List.map_cons, hk, alFind, alFind]
    split
    · subst k'; rfl
    · exact ih

/-- Every listed counter block of `s` has its counts and its overflow and wrap bits in `t`. -/
def BlocksCount (s t : State) : Prop :=
  ∀ k b, alFind s.dbg.blocks k = some b →
    ∃ b', alFind t.dbg.blocks k = some b' ∧ b'.count = b.count ∧ b'.ovf = b.ovf ∧ b'.wrapped = b.wrapped

theorem BlocksCount.of_blocks_eq {s t : State} (h : t.dbg.blocks = s.dbg.blocks) : BlocksCount s t :=
  fun _ b hb => ⟨b, h ▸ hb, rfl, rfl, rfl⟩

theorem blocksCount_freezeBlocks (s : State) : BlocksCount s (freezeBlocks s) := by
  intro k b hb
  simp only [freezeBlocks]
  rw [alFind_map_value _ (fun e => by split <;> rfl), hb]
  refine ⟨_, rfl, ?_⟩
  dsimp only
  split <;> exact ⟨rfl, rfl, rfl⟩

/-- A freeze stops the counters and keeps what they hold (R506). -/
theorem blocksCount_raiseWhistle (s : State) (code : Nat) : BlocksCount s (raiseWhistle s code) := by
  cases h : s.dbg.raised with
  | true => exact .of_blocks_eq (by rw [raiseWhistle_of_raised code h])
  | false =>
    obtain ⟨_, _, _, _, _, _, _, he⟩ := raiseWhistle_of_quiet code h
    rw [he]
    exact blocksCount_freezeBlocks (whistleStart s code)

/-! ### Overflows -/

/-- A block after the overflow of counter `n` has been noted (R500). -/
def overflowed (n : Nat) (b : CtrBlock) : CtrBlock := { b with wrapped := b.wrapped.erase n, ovf := setBitN b.ovf n }

/-- What a raise on a condition keeps, and what it brings about where the condition holds. -/
theorem raiseWhistle_if {c : Bool} {s t : State} {code : Nat} (ht : (if c then raiseWhistle s code else s) = t) :
    t.mem = s.mem ∧ BlocksCount s t ∧ (c = true → t.dbg.raised = true ∧ bit t.dbg.sources code = true) := by
  subst t
  cases c with
  | true => exact ⟨raiseWhistle_mem s code, blocksCount_raiseWhistle s code, fun _ => raiseWhistle_raised s code⟩
  | false => exact ⟨rfl, .of_blocks_eq rfl, nofun⟩

/-- A wrapped counter sets its overflow bit, once, and raises the whistle where its EVSEL and OVF_EN ask for it (R500). -/
theorem counterOverflow_sets {k n : Nat} {s : State} (hw : (ctrOf s k).wrapped.contains n = true) :
    ∃ t, exec (.counterOverflow k n) s = .next t ∧ t.mem = s.mem ∧ bit (ctrOf t k).ovf n = true ∧
      (ctrOf t k).wrapped = (ctrOf s k).wrapped.erase n ∧ (ctrOf t k).count = (ctrOf s k).count ∧
      (bit (alGet 0 (ctrOf s k).evsel n) 30 = true → s.dbg.ovfEn = true → t.dbg.raised = true ∧ bit t.dbg.sources 3 = true) := by
  obtain ⟨t, ht⟩ : ∃ t, (if bit (alGet 0 (ctrOf s k).evsel n) 30 && s.dbg.ovfEn then raiseWhistle (modCtr s k (overflowed n)) 3
    else modCtr s k (overflowed n)) = t := ⟨_, rfl⟩
  obtain ⟨hmem, hcount, hraised⟩ := raiseWhistle_if ht
  have hirq : OnlyHostSide t (if bit (alGet 0 (ctrOf s k).evsel n) 29 then
      (blkReaders t k).foldl (fun s f => occur s f 0xA 0 (blkOffset k + n * 2 ^ 32)) t else t) :=
    .ite (onlyHostSide_foldl_occur _ _ (fun _ => blkOffset k + n * 2 ^ 32) _ t)
  obtain ⟨fns, host, hlast⟩ := hirq
  have he : exec (.counterOverflow k n) s = completes s { t with fns := fns, host := host } := by
    simp only [exec, execCounterOverflow, hw, Bool.not_true, Bool.false_eq_true, if_false]
    rw [← hlast, ← ht]
    rfl
  obtain ⟨b, hb, hbcount, hbovf, hbwrapped⟩ := hcount k _ (alFind_alPut_self _ _ _)
  rw [he]
  refine ⟨_, rfl, hmem, ?_⟩
  rw [ctrOf_of_alFind (b := b)]
  · refine ⟨hbovf ▸ bit_setBitN_self _ _, hbwrapped, hbcount, fun h30 hen => hraised ?_⟩
    rw [h30, hen]
    rfl
  · exact hb

/-- Settles O57, clause by clause. -/
theorem registerWritesAndCounters : Obligations.RegisterWritesAndCounters := by
  refine ⟨fun fn s h => ⟨fePasidWrite_takes h, eventRingEnable_takes h, eventRingConsWrite_takes h, msixUnmask_takes h,
    registerWrite_ignored h, registerWrite_event_clears h, registerWrite_enable_takes h, readReg_capDbg s fn, ?_⟩,
    fun fn k s h => ⟨counterWrite_ignored h, fun hw => ⟨counterSnap_takes h hw, counterClear_takes h hw⟩⟩,
    fun k n s hw => counterOverflow_sets hw⟩
  exact fun hfn k hk _ hp => readReg_policy hfn k hk hp

end Sys2Proof.Machine
end

section
/-! What events, counts, recorded errors and reads leave alone: the work of every core, the front end, and the cells of device
memory. -/

namespace Sys2Proof.Machine

/-! ### Events and counters of functions -/

theorem onlyHostSide_setFn (s : State) (f : Nat) (x : Fn) : OnlyHostSide s (setFn s f x) := ⟨_, _, rfl⟩

theorem onlyHostSide_raiseEv (s : State) (f grp b : Nat) (last : Option Nat) : OnlyHostSide s (raiseEv s f grp b last) :=
  (onlyHostSide_setFn _ _ _).trans (.ite (onlyHostSide_occur _ _ _ _ _))

theorem onlyHostSide_raiseEach (s : State) (f grp b : Nat) (each : Bool) (last : Option Nat) :
    OnlyHostSide s (raiseEach s f grp b each last) :=
  (onlyHostSide_raiseEv s f grp b last).trans (.ite (onlyHostSide_occur _ _ _ _ _))

theorem onlyHostSide_bump (s : State) (t off n : Nat) : OnlyHostSide s (bump s t off n) := by
  simp only [bump]
  split
  · exact .refl s
  · exact onlyHostSide_modFn _ _ _

theorem onlyHostSide_memBump (s : State) (t off n : Nat) : OnlyHostSide s (memBump s t off n) := by
  simp only [memBump]
  split
  · exact onlyHostSide_bump _ _ _ _
  · exact (onlyHostSide_bump _ _ _ _).trans (onlyHostSide_bump _ _ _ _)

theorem onlyHostSide_memRaise (s : State) (t b : Nat) (last : Option Nat) : OnlyHostSide s (memRaise s t b last) := by
  simp only [memRaise]
  split
  · exact onlyHostSide_raiseEv _ _ _ _ _
  · exact (onlyHostSide_raiseEv _ _ _ _ _).trans (onlyHostSide_raiseEv _ _ _ _ _)

theorem onlyHostSide_poisonConsumed (s : State) (t : Nat) : OnlyHostSide s (poisonConsumed s t) :=
  (onlyHostSide_memBump _ _ _ _).trans (onlyHostSide_memRaise _ _ _ _)

theorem onlyHostSide_raisePfSf (s : State) (grp b : Nat) (last : Option Nat) : OnlyHostSide s (raisePfSf s grp b last) :=
  (onlyHostSide_raiseEv _ _ _ _ _).trans (onlyHostSide_raiseEv _ _ _ _ _)

theorem onlyHostSide_memLast (s : State) (t v : Nat) : OnlyHostSide s (memLast s t v) := by
  simp only [memLast]
  split
  · exact onlyHostSide_modFn _ _ _
  · exact (onlyHostSide_modFn _ _ _).trans (onlyHostSide_modFn _ _ _)

/-! ### The work of the cores -/

/-- Every core of `t` holds what it holds in `s` but for its L1, the lines that it offers, and its loads' marks. -/
def SameExec (s t : State) : Prop :=
  ∀ k, ∃ l1 offers loads, execOf t k = { execOf s k with l1 := l1, offers := offers, loads := loads }

theorem SameExec.of_execOf {s t : State} (h : ∀ k, execOf t k = execOf s k) : SameExec s t := fun k => ⟨_, _, _, h k⟩

theorem SameExec.of_cores {s t : State} (h : t.cores = s.cores) : SameExec s t :=
  .of_execOf fun k => by simp only [execOf, coreOf, h]

theorem SameExec.trans {s t u : State} (h : SameExec s t) (h' : SameExec t u) : SameExec s u := fun k => by
  obtain ⟨_, _, _, e⟩ := h k
  obtain ⟨_, _, _, e'⟩ := h' k
  exact ⟨_, _, _, by rw [e', e]⟩

/-- A change of one core's L1, offers and loads. -/
theorem sameExec_modExec {s : State} {c : Nat} {g : Exec → Exec}
    (h : ∃ l1 offers loads, g (execOf s c) = { execOf s c with l1 := l1, offers := offers, loads := loads }) :
    SameExec s (modExec s c g) := fun k => by
  by_cases hk : k = c
  · subst k
    simpa using h
  · exact ⟨_, _, _, by rw [execOf, coreOf_modExec_other _ _ _ _ hk]; rfl⟩

section
variable {s t : State} (h : SameExec s t) (k : Nat)
include h

theorem SameExec.groups : (execOf t k).groups = (execOf s k).groups := by obtain ⟨_, _, _, e⟩ := h k; rw [e]
theorem SameExec.blocks : (execOf t k).blocks = (execOf s k).blocks := by obtain ⟨_, _, _, e⟩ := h k; rw [e]
theorem SameExec.mmas : (execOf t k).mmas = (execOf s k).mmas := by obtain ⟨_, _, _, e⟩ := h k; rw [e]
theorem SameExec.wb : (execOf t k).wb = (execOf s k).wb := by obtain ⟨_, _, _, e⟩ := h k; rw [e]
theorem SameExec.atoms : (execOf t k).atoms = (execOf s k).atoms := by obtain ⟨_, _, _, e⟩ := h k; rw [e]

end

/-- `t` keeps the work of the cores of `s` (`SameExec`), its front end and the cells of its device memory. -/
structure KeepsWork (s t : State) : Prop where
  exec : SameExec s t
  fe : t.fe = s.fe
  cells : t.mem.mem = s.mem.mem

namespace KeepsWork

theorem of_eq {s t : State} (hc : t.cores = s.cores) (hf : t.fe = s.fe) (hm : t.mem.mem = s.mem.mem) : KeepsWork s t :=
  ⟨.of_cores hc, hf, hm⟩

theorem refl (s : State) : KeepsWork s s := .of_eq rfl rfl rfl

theorem trans {s t u : State} (h : KeepsWork s t) (h' : KeepsWork t u) : KeepsWork s u :=
  ⟨h.exec.trans h'.exec, h'.fe.trans h.fe, h'.cells.trans h.cells⟩

/-- One of two ways on, each of which keeps it. -/
theorem ite {c : Prop} [Decidable c] {s t u : State} (ht : KeepsWork s t) (hu : KeepsWork s u) :
    KeepsWork s (if c then t else u) := by
  split
  · exact ht
  · exact hu

theorem foldl {α : Type} {f : State → α → State} (hf : ∀ s a, KeepsWork s (f s a)) (l : List α) (s : State) :
    KeepsWork s (l.foldl f s) := foldl_related refl trans hf l s

end KeepsWork

theorem OnlyHostSide.keepsWork {s t : State} (h : OnlyHostSide s t) : KeepsWork s t := by
  obtain ⟨_, _, rfl⟩ := h
  exact .of_eq rfl rfl rfl

theorem OnlyTrace.keepsWork {s t : State} (h : OnlyTrace s t) : KeepsWork s t := by
  obtain ⟨_, _, rfl⟩ := h
  exact .of_eq rfl rfl rfl

theorem keepsWork_ctrAdd (s : State) (k code n : Nat) (part : Option Nat) : KeepsWork s (ctrAdd s k code n part) := by
  rw [ctrAdd_dbg]
  exact .of_eq rfl rfl rfl

theorem keepsWork_modRegion (s : State) (r : Nat) (g : Region → Region) : KeepsWork s (modRegion s r g) := .of_eq rfl rfl rfl

theorem keepsWork_modCtl (s : State) (h : Nat) (g : Ctl → Ctl) : KeepsWork s (modCtl s h g) := .of_eq rfl rfl rfl

theorem keepsWork_modPort (s : State) (p : Nat) (g : Port → Port) : KeepsWork s (modPort s p g) := .of_eq rfl rfl rfl

/-! ### Errors and lasting faults (R476 to R482) -/

theorem keepsWork_raiseEv (s : State) (f grp b : Nat) (last : Option Nat) : KeepsWork s (raiseEv s f grp b last) :=
  (onlyHostSide_raiseEv s f grp b last).keepsWork

theorem keepsWork_raisePfSf (s : State) (grp b : Nat) (last : Option Nat) : KeepsWork s (raisePfSf s grp b last) :=
  (onlyHostSide_raisePfSf s grp b last).keepsWork

theorem keepsWork_bump (s : State) (t off n : Nat) : KeepsWork s (bump s t off n) := (onlyHostSide_bump s t off n).keepsWork

theorem keepsWork_recordFault (s : State) (r : Resource) (uc : Bool) : KeepsWork s (recordFault s r uc) :=
  .ite (keepsWork_raisePfSf _ _ _ _) (.of_eq rfl rfl rfl)

/-- A fenced core keeps what it runs (R482). -/
theorem keepsWork_fenceCore (s : State) (c : Nat) : KeepsWork s (fenceCore s c) := by
  have hfence : KeepsWork s { setCore s c { coreOf s c with fenced := true } with ras.fenced := s.ras.fenced + 1 } := by
    refine ⟨.of_execOf fun k => ?_, rfl, rfl⟩
    by_cases hk : k = c
    · subst k; simp [execOf, coreOf]
    · simp [execOf, coreOf, alGet_alPut_other _ _ _ _ _ hk]
  simp only [fenceCore]
  refine .ite (.refl s) (.trans (hfence.trans (keepsWork_raisePfSf _ _ _ _)) (.foldl (fun s t => ?_) _ _))
  exact keepsWork_raiseEv _ _ _ _ _

theorem keepsWork_retired (s : State) (x : AL GranFault) : KeepsWork s { s with mem.retired := x } := .of_eq rfl rfl rfl

theorem keepsWork_markPending (s : State) (g : Nat) : KeepsWork s (markPending s g) := .of_eq rfl rfl rfl

theorem keepsWork_retireNow (s : State) (g ctl : Nat) : KeepsWork s (retireNow s g ctl) := by
  simp only [retireNow]
  refine .trans ?_ (keepsWork_raiseEv _ _ _ _ _)
  exact .ite (keepsWork_retired _ _) ((keepsWork_retired _ _).trans (keepsWork_recordFault _ _ _))

theorem keepsWork_retireGranule (s : State) (g ctl : Nat) : KeepsWork s (retireGranule s g ctl) := by
  simp only [retireGranule]
  refine .ite (.refl s) ?_
  split
  · exact keepsWork_retireNow _ _ _
  · have hpend := ((keepsWork_retired s (alPut s.mem.retired g { pending := true, ctl := ctl })).trans
      (keepsWork_markPending _ g)).trans (keepsWork_raiseEv _ pf gMEM 3 none)
    exact .ite hpend (hpend.trans (keepsWork_raiseEv _ _ _ _ _))

theorem keepsWork_eraseLane (s : State) (h pc pin : Nat) : KeepsWork s (eraseLane s h pc pin) :=
  .ite (.refl s) ((keepsWork_modCtl _ _ _).trans (keepsWork_raiseEv _ _ _ _ _))

theorem keepsWork_retireAll (s : State) (h : Nat) (gs : List Nat) : KeepsWork s (retireAll s h gs) :=
  .ite (keepsWork_raiseEv _ _ _ _ _) (.foldl (fun _ _ => keepsWork_retireGranule _ _ _) _ _)

theorem keepsWork_onlineAction (s : State) (r : Resource) : KeepsWork s (onlineAction s r) :=
  .ite (keepsWork_fenceCore _ _) <| .ite
    (.ite (keepsWork_fenceCore _ _) (.ite (.foldl (fun _ _ => keepsWork_fenceCore _ _) _ _) (.refl s))) <|
    .ite (keepsWork_retireAll _ _ _) (.ite (keepsWork_eraseLane _ _ _ _) (.refl s))

theorem keepsWork_lastingFault (s : State) (r : Resource) (uc : Bool) : KeepsWork s (lastingFault s r uc) :=
  .ite (.ite (keepsWork_onlineAction _ _) (.refl s)) <|
    (keepsWork_recordFault s r uc).trans <| (keepsWork_bump _ _ _ _).trans <| (keepsWork_bump _ _ _ _).trans <|
      (keepsWork_raisePfSf _ _ _ _).trans (keepsWork_onlineAction _ _)

theorem keepsWork_applyLeaks (s : State) (r : Resource) (incl : Bool) : KeepsWork s (applyLeaks s r incl) := by
  simp only [applyLeaks]
  split
  · exact .refl s
  · exact .ite (.refl s) (.of_eq rfl rfl rfl)

theorem keepsWork_chargeBucket (s : State) (r : Resource) (k : Nat) : KeepsWork s (chargeBucket s r k) := by
  have hleak := keepsWork_applyLeaks s r false
  simp only [chargeBucket]
  generalize applyLeaks s r false = s1 at hleak ⊢
  refine hleak.trans ?_
  split
  · exact .refl s1
  · refine .ite (.trans ?_ (keepsWork_lastingFault _ _ _)) ?_ <;> exact .of_eq rfl rfl rfl

theorem keepsWork_correctedErr (s : State) (res : Option Resource) (k : Nat) : KeepsWork s (correctedErr s res k) := by
  have hnote : KeepsWork s (raisePfSf (bump (bump s pf 0x90120 1) serviceFn 0x90120 1) gRAS 0 (some (rasLast res 0))) :=
    ((keepsWork_bump _ _ _ _).trans (keepsWork_bump _ _ _ _)).trans (keepsWork_raisePfSf _ _ _ _)
  cases res with
  | none => exact hnote
  | some r => exact hnote.trans (keepsWork_chargeBucket _ _ _)

theorem keepsWork_uncorrectedErr (s : State) (res : Option Resource) (tenants : List Nat) :
    KeepsWork s (uncorrectedErr s res tenants) := by
  have hev : KeepsWork s (([pf, serviceFn] ++ (tenants.filter (fun t => t != pf)).dedup).foldl
      (fun s f => raiseEv (bump s f 0x90128 1) f gRAS 1 (some (rasLast res 1))) s) :=
    .foldl (fun _ _ => (keepsWork_bump _ _ _ _).trans (keepsWork_raiseEv _ _ _ _ _)) _ _
  cases res with
  | none => exact hev
  | some r => exact hev.trans (keepsWork_lastingFault _ _ _)

/-! ### Runs that a controller reads (R290, R298 to R300) -/

theorem keepsWork_sectorPoisoned (s : State) (h : Nat) (p : Place) (t sec at64 : Nat) (scrub : Bool) :
    KeepsWork s (sectorPoisoned s h p t sec at64 scrub) := by
  simp only [sectorPoisoned]
  refine .trans (.trans (.trans ?_ (onlyHostSide_memBump _ _ _ _).keepsWork) (onlyHostSide_memRaise _ _ _ _).keepsWork)
    (keepsWork_uncorrectedErr _ _ _)
  exact .of_eq rfl rfl rfl

/-- Decoding without errors of its own finds a sector clean, or uncorrectable where too many lanes are erased. -/
theorem eccOutcome_nil (er : List Nat) : eccOutcome er [] = if 3 ≤ er.length then .uncorrectable else .clean := by
  simp [eccOutcome]

theorem keepsWork_eccSector_nil (s : State) (pa k : Nat) (scrub : Bool) : KeepsWork s (eccSector s pa k [] scrub) := by
  simp only [eccSector]
  split
  · exact .refl s
  next h m _ =>
    refine .ite (onlyHostSide_memLast _ _ _).keepsWork ?_
    rw [eccOutcome_nil]
    by_cases her : 3 ≤ (erasedOf (ctlOf s h) (placeOf m).pc).length
    · simp only [if_pos her]
      exact keepsWork_sectorPoisoned _ _ _ _ _ _ _
    · simp only [if_neg her]
      exact .refl s

theorem keepsWork_eccRun_clean (s : State) (pa : Nat) (scrub : Bool) : KeepsWork s (eccRun s pa {} scrub) :=
  .foldl (fun _ _ => keepsWork_eccSector_nil _ _ _ _) _ _

theorem keepsWork_openRow (s : State) (h : Nat) (p : Place) (part : Nat) : KeepsWork s (openRow s h p part) :=
  .ite (.refl s) ((keepsWork_modCtl _ _ _).trans (keepsWork_ctrAdd _ _ _ _ _))

theorem keepsWork_chargeRuns (s : State) (h pc part n : Nat) (rt : Bool) : KeepsWork s (chargeRuns s h pc part n rt) :=
  .ite (.refl s) (.ite (keepsWork_modCtl _ _ _) (keepsWork_modCtl _ _ _))

theorem keepsWork_directRun (s : State) (pa part tenant : Nat) (rt : Bool) : KeepsWork s (directRun s pa part tenant rt) := by
  simp only [directRun]
  split
  · exact .refl s
  · exact (keepsWork_modCtl _ _ _).trans <| (keepsWork_openRow _ _ _ _).trans <| (keepsWork_chargeRuns _ _ _ _ _ _).trans <|
      (keepsWork_eccRun_clean _ _ _).trans <| (onlyHostSide_memBump _ _ _ _).keepsWork.trans (keepsWork_ctrAdd _ _ _ _ _)

/-! ### Reads at the home of a line (R255, R265) -/

theorem keepsWork_ctlWrite (s : State) (w : MemWrite) : KeepsWork s (ctlWrite s w) := by
  simp only [ctlWrite]
  split
  · exact .refl s
  · exact keepsWork_modCtl _ _ _

theorem keepsWork_ccBump (s : State) (r part tenant off n : Nat) : KeepsWork s (ccBump s r part tenant off n) :=
  (keepsWork_modRegion s r _).trans <| .trans (.ite (.refl _) (keepsWork_ctrAdd _ _ _ _ _)) (keepsWork_bump _ _ _ _)

theorem keepsWork_writeBack (s : State) (tenant : Nat) (l : SliceLine) : KeepsWork s (writeBack s tenant l) :=
  .ite ((keepsWork_ctlWrite _ _).trans (keepsWork_ccBump _ _ _ _ _ _)) (.refl s)

theorem keepsWork_insertLine (s : State) (r set tag pa part tenant : Nat) (h : Hint) (age : Nat) (dirty : Bool) (data : Line)
    (poison : BitVec 2) : KeepsWork s (insertLine s r set tag pa part tenant h age dirty data poison).2 := by
  simp only [insertLine]
  generalize trimKeepWays (keepQuota s part) part set _ (regionOf s r) 0 = trimmed
  have htrim : KeepsWork s (ccBump (modRegion s r (fun _ => trimmed.1)) r part tenant ccKeepLost trimmed.2) :=
    (keepsWork_modRegion _ _ _).trans (keepsWork_ccBump _ _ _ _ _ _)
  generalize ccBump (modRegion s r (fun _ => trimmed.1)) r part tenant ccKeepLost trimmed.2 = s1 at htrim ⊢
  split
  · exact .trans (.trans (.ite (htrim.trans (keepsWork_ctrAdd _ _ _ _ _)) htrim) (keepsWork_modRegion _ _ _))
      (keepsWork_ccBump _ _ _ _ _ _)
  · refine .trans (.trans ?_ (keepsWork_ctrAdd _ _ _ _ _)) (keepsWork_modRegion _ _ _)
    split
    · exact .trans (.ite (htrim.trans (keepsWork_ctrAdd _ _ _ _ _)) htrim) (keepsWork_writeBack _ _ _)
    · exact .ite (htrim.trans (keepsWork_ctrAdd _ _ _ _ _)) htrim

theorem keepsWork_homeFill (s : State) (r set tag pa part tenant : Nat) (h : Hint) (d : Line) (p : BitVec 2) :
    KeepsWork s (homeFill s r set tag pa part tenant h d p).2.2.2 :=
  .ite (.refl s) (keepsWork_insertLine _ _ _ _ _ _ _ _ _ _ _ _)

theorem keepsWork_homeRead (s : State) (pa part tenant : Nat) (h : Hint) (rt : Bool) :
    KeepsWork s (homeRead s pa part tenant h rt).2.2.2 := by
  simp only [homeRead]
  split
  · exact .refl s
  next r set tag _ =>
    have hlook := keepsWork_ccBump s r part tenant ccLookup 1
    generalize ccBump s r part tenant ccLookup 1 = s1 at hlook ⊢
    split
    next w l _ =>
      have hhit := hlook.trans (keepsWork_ccBump s1 r part tenant ccHit 1)
      generalize ccBump s1 r part tenant ccHit 1 = s2 at hhit ⊢
      split
      · exact .trans (.ite (hhit.trans (keepsWork_ccBump _ _ _ _ _ _)) hhit) (keepsWork_modRegion _ _ _)
      · exact hhit.trans (keepsWork_modRegion _ _ _)
    · refine .trans ?_ (keepsWork_homeFill _ _ _ _ _ _ _ _ _ _)
      split
      · exact (hlook.trans (keepsWork_modRegion _ _ _)).trans (keepsWork_ccBump _ _ _ _ _ _)
      · exact hlook.trans (keepsWork_directRun _ _ _ _ _)

/-! ### Reads of the host and of other packages (R330 to R334, R530) -/

theorem keepsWork_hostXlat (s : State) (fn : Nat) (pasid : Option Nat) (addr : Nat) (write : Bool) :
    KeepsWork s (hostXlat s fn pasid addr write).2 := (onlyHostSide_hostXlat s fn pasid addr write).keepsWork

theorem keepsWork_hostBytes (s : State) (ha n : Nat) : KeepsWork s (hostBytes s ha n).2 := by
  simp only [hostBytes]
  split <;> exact .of_eq rfl rfl rfl

theorem keepsWork_emit (s : State) (o : Out) : KeepsWork s (emit s o) := .of_eq rfl rfl rfl

theorem keepsWork_sendWord (s : State) (p : Nat) (cw : List Nat) : KeepsWork s (sendWord s p cw) := keepsWork_emit _ _

theorem keepsWork_sendBits (s : State) (p : Nat) (bs : List Byte) : KeepsWork s (sendBits s p bs) := by
  simp only [sendBits]
  refine .ite (keepsWork_modPort _ _ _) (.ite (.trans ?_ (keepsWork_sendWord _ _ _)) ?_) <;>
    exact (keepsWork_modPort _ _ _).trans (keepsWork_sendWord _ _ _)

theorem keepsWork_sendFlit (s : State) (p kind : Nat) (msgs : List LinkMsg) : KeepsWork s (sendFlit s p kind msgs) :=
  .trans (.trans ((keepsWork_modPort _ _ _).trans (keepsWork_sendBits _ _ _)) (keepsWork_emit _ _)) (keepsWork_ctrAdd _ _ _ _ _)

theorem keepsWork_pump (fuel : Nat) (s : State) (p : Nat) : KeepsWork s (pump fuel s p) := by
  induction fuel generalizing s with
  | zero => exact .refl s
  | succ fuel ih =>
    simp only [pump]
    refine .ite (.refl s) ?_
    split
    · exact .refl s
    · exact ((keepsWork_modPort _ _ _).trans (keepsWork_sendFlit _ _ _ _)).trans (ih _)

theorem keepsWork_sendMsg (s : State) (m : LinkMsg) : KeepsWork s (sendMsg s m) := by
  simp only [sendMsg]
  split
  · exact (keepsWork_modPort _ _ _).trans (keepsWork_pump _ _ _)
  · exact .refl s

theorem keepsWork_fetchLine (s : State) (die tenant pk line : Nat) : KeepsWork s (fetchLine s die tenant pk line) := by
  simp only [fetchLine]
  refine .ite (.refl s) (.trans (.trans ?_ (keepsWork_sendMsg _ _)) (keepsWork_bump _ _ _ _))
  exact .of_eq rfl rfl rfl

theorem keepsWork_lnkErr (s : State) (tenant b pkg kind line : Nat) : KeepsWork s (lnkErr s tenant b pkg kind line) :=
  keepsWork_raiseEv _ _ _ _ _

theorem keepsWork_remoteBytes (s : State) (die tenant pk a n : Nat) : KeepsWork s (remoteBytes s die tenant pk a n).2 := by
  simp only [remoteBytes]
  split
  · exact keepsWork_lnkErr _ _ _ _ _ _
  · split
    · exact .foldl (fun _ _ => keepsWork_fetchLine _ _ _ _ _) _ _
    · split <;> exact .of_eq rfl rfl rfl

/-! ### Reads of agents (R286, R300) -/

theorem keepsWork_readLines (part tenant : Nat) (h : Hint) (rt : Bool) (ls : List (Nat × Nat × Nat)) (s : State)
    (acc : List Byte) (bad : Bool) : KeepsWork s (readLines part tenant h rt ls s acc bad).2 := by
  induction ls generalizing s acc bad with
  | nil => exact .refl s
  | cons c r ih =>
    obtain ⟨pa, off, n⟩ := c
    simp only [readLines]
    split
    · exact .refl s
    · exact (keepsWork_homeRead s pa part tenant h rt).trans (ih _ _ _)

/-- A read continues in a state that keeps the work. -/
theorem keepsWork_accBind {α β : Type} {s : State} {r : Acc α × State} {k : α → State → Acc β × State} (hr : KeepsWork s r.2)
    (hk : ∀ a t, KeepsWork t (k a t).2) : KeepsWork s (accBind r k).2 := by
  obtain ⟨a, t⟩ := r
  cases a with
  | ok a => exact hr.trans (hk a t)
  | fault f => exact hr
  | wait => exact hr

theorem keepsWork_agentReadPages (fuel : Nat) (s : State) (tenant part va n : Nat) (h : Hint) (rt : Bool) (die : Nat)
    (acc : List Byte) : KeepsWork s (agentReadPages fuel s tenant part va n h rt die acc).2 := by
  induction fuel generalizing s va n acc with
  | zero => exact .refl s
  | succ fuel ih =>
    simp only [agentReadPages]
    split
    · exact .refl s
    · split
      · exact .refl s
      next pa _ =>
        have hl := keepsWork_readLines part tenant h rt (chunksOf pa (min n (65536 - va % 65536))) s [] false
        split <;> rename_i he <;> rw [he] at hl
        · exact hl
        · exact hl
        · exact hl.trans (ih _ _ _ _)
      next a _ =>
        split
        · exact .refl s
        next pz _ =>
          have hx := keepsWork_hostXlat s tenant pz a false
          split <;> rename_i he <;> rw [he] at hx
          · exact hx
          · exact hx
          next ha t =>
            have hb := hx.trans (keepsWork_hostBytes t ha (min n (65536 - va % 65536)))
            split <;> rename_i he <;> rw [he] at hb
            · exact hb.trans (ih _ _ _ _)
            · exact hb
            · exact hb
      next pk a _ =>
        have hb := keepsWork_remoteBytes s die tenant pk a (min n (65536 - va % 65536))
        split <;> rename_i he <;> rw [he] at hb
        · exact hb.trans (ih _ _ _ _)
        · exact hb
        · exact hb

theorem keepsWork_agentRead (s : State) (tenant part va n : Nat) (h : Hint) (rt : Bool) (die : Nat) :
    KeepsWork s (agentRead s tenant part va n h rt die).2 := keepsWork_agentReadPages _ _ _ _ _ _ _ _ _ _

/-! ### Reads of the issuing path (Table 8.5) -/

theorem keepsWork_modExec {s : State} {c : Nat} {g : Exec → Exec}
    (h : ∃ l1 offers loads, g (execOf s c) = { execOf s c with l1 := l1, offers := offers, loads := loads }) :
    KeepsWork s (modExec s c g) := ⟨sameExec_modExec h, rfl, rfl⟩

/-- Ageing a set changes the L1 alone. -/
theorem l1Victim_l1 (x : Exec) (b : Nat) : ∃ l1, (l1Victim x b).2 = { x with l1 := l1 } := by
  simp only [l1Victim]
  split
  · exact ⟨_, rfl⟩
  · refine foldl_related (R := fun x y => ∃ l1, y = { x with l1 := l1 }) (fun _ => ⟨_, rfl⟩) ?_ (fun x k => ?_) _ x
    · rintro _ _ _ ⟨_, rfl⟩ ⟨_, rfl⟩
      exact ⟨_, rfl⟩
    · split <;> exact ⟨_, rfl⟩

theorem keepsWork_l1Fill (s : State) (c part tenant : Nat) (t : Target) (h : Hint) (d : Line) (st : BitVec 24) (p : BitVec 2) :
    KeepsWork s (l1Fill s c part tenant t h d st p) := by
  simp only [l1Fill]
  refine .ite (.refl s) ?_
  split
  · exact keepsWork_modExec ⟨_, _, _, rfl⟩
  · obtain ⟨l1, hx⟩ := l1Victim_l1 (execOf s c) (l1Base (execOf s c) t)
    rw [hx]
    split
    · exact keepsWork_modExec ⟨_, _, _, rfl⟩
    · refine .ite (keepsWork_modExec ⟨_, _, _, rfl⟩) (.ite (keepsWork_modExec ⟨_, _, _, rfl⟩) ?_)
      exact (keepsWork_modExec ⟨_, _, _, rfl⟩).trans (keepsWork_ccBump _ _ _ _ _ _)

theorem keepsWork_pathLine (s : State) (c part tenant : Nat) (t : Target) (h : Hint) :
    KeepsWork s (pathLine s c part tenant t h).2 := by
  simp only [pathLine]
  split
  · exact .refl s
  split
  · dsimp only
    exact keepsWork_modExec ⟨_, _, _, rfl⟩
  cases t with
  | loc pa =>
    dsimp only
    split
    · exact .refl s
    · exact (keepsWork_homeRead _ _ _ _ _ _).trans (keepsWork_l1Fill _ _ _ _ _ _ _ _ _)
  | host a =>
    dsimp only
    split
    · exact .refl s
    next pz _ =>
      have hx := keepsWork_hostXlat s tenant pz a false
      split <;> rename_i he <;> rw [he] at hx
      · exact hx
      · exact hx
      next ha u =>
        have hb := hx.trans (keepsWork_hostBytes u ha 128)
        split <;> rename_i he <;> rw [he] at hb
        · exact hb.trans (keepsWork_l1Fill _ _ _ _ _ _ _ _ _)
        · exact hb
        · exact hb
  | remote pk a =>
    have hb := keepsWork_remoteBytes s (c / 192) tenant pk a 128
    dsimp only
    split <;> rename_i he <;> rw [he] at hb
    · exact hb.trans (keepsWork_l1Fill _ _ _ _ _ _ _ _ _)
    · exact hb
    · exact hb

theorem keepsWork_pathReadChunks (c part tenant : Nat) (h : Hint) (ls : List (Nat × Nat × Nat)) (s : State) (acc : List Byte) :
    KeepsWork s (pathReadChunks c part tenant h ls s acc).2 := by
  induction ls generalizing s acc with
  | nil => exact .refl s
  | cons l r ih =>
    obtain ⟨va, off, n⟩ := l
    simp only [pathReadChunks]
    split
    · exact .refl s
    next t _ =>
      have hl := keepsWork_pathLine s c part tenant t.line h
      split <;> rename_i he <;> rw [he] at hl
      · split
        · exact hl
        · exact hl.trans (ih _ _)
      · exact hl
      · exact hl

theorem keepsWork_pathRead (s : State) (c part tenant va n : Nat) : KeepsWork s (pathRead s c part tenant va n).2 :=
  keepsWork_pathReadChunks _ _ _ _ _ _ _

theorem keepsWork_descRead (s : State) (c : Ctx) (a : Nat) : KeepsWork s (descRead s c a).2 := by
  simp only [descRead]
  split
  · exact .refl s
  · exact keepsWork_pathRead _ _ _ _ _ _

theorem keepsWork_opRead (s : State) (c : Ctx) (slm : Bool) (a n : Nat) : KeepsWork s (opRead s c slm a n).2 := by
  simp only [opRead]
  split
  · exact .refl s
  split
  · split
    · exact .refl s
    · split <;> exact .refl s
  · exact keepsWork_pathRead _ _ _ _ _ _

theorem keepsWork_opReads (c : Ctx) (slm : Bool) (rs : List (Nat × Nat)) (s : State) : KeepsWork s (opReads c slm rs s).2 := by
  induction rs generalizing s with
  | nil => exact .refl s
  | cons r rs ih =>
    obtain ⟨a, n⟩ := r
    have hr := keepsWork_opRead s c slm a n
    simp only [opReads]
    split <;> rename_i he <;> rw [he] at hr
    next b t =>
      have hrs := hr.trans (ih t)
      split <;> rename_i he <;> rw [he] at hrs <;> exact hrs
    · exact hr
    · exact hr

/-! ### Reads of the matrix array -/

theorem keepsWork_srcStationary (c : Ctx) (d : Desc) (depth n : Nat) (s : State) : KeepsWork s (srcStationary c d depth n s).2 :=
  keepsWork_accBind (keepsWork_opReads _ _ _ _) (fun _ t => .refl t)

theorem keepsWork_srcStream (c : Ctx) (d : Desc) (red k vorg korg : Nat) (lanes : Lanes) (s : State) :
    KeepsWork s (srcStream c d red k vorg korg lanes s).2 :=
  keepsWork_accBind (keepsWork_opReads _ _ _ _) (fun _ t => .refl t)

theorem keepsWork_turnReads (c : Ctx) (slm : Bool) (rs : List (Nat × Nat)) (s : State) : KeepsWork s (turnReads c slm rs s).2 := by
  induction rs generalizing s with
  | nil => exact .refl s
  | cons r rs ih =>
    obtain ⟨a, n⟩ := r
    refine keepsWork_accBind ?_ (fun _ t => keepsWork_accBind (ih t) (fun _ t => .refl t))
    split
    · exact keepsWork_opRead _ _ _ _ _
    · exact keepsWork_agentRead _ _ _ _ _ _ _ _

theorem keepsWork_fillUnit (s : State) (c : Ctx) (t : TurnSlot) : KeepsWork s (fillUnit s c t).2 := by
  refine keepsWork_accBind (keepsWork_turnReads _ _ _ _) (fun _ s1 => ?_)
  refine keepsWork_accBind (keepsWork_turnReads _ _ _ _) (fun _ s2 => ?_)
  refine keepsWork_accBind ?_ (fun _ s3 => ?_)
  · split
    · exact .refl s2
    · exact keepsWork_turnReads _ _ _ _
  · dsimp only
    split <;> exact .refl s3

end Sys2Proof.Machine
end

section
/-! Precise faults of an issuing instruction (R187), and the descriptors, shapes and stash accesses that raise them. -/

namespace Sys2Proof.Machine

/-! ### What a fault changes -/

/-- `t` is `s` but for what a fault may change: cores, the front end, the functions' registers, the host's side and the debug
state. -/
def OnlyFault (s t : State) : Prop :=
  ∃ cores fe fns host dbg, t = { s with cores := cores, fe := fe, fns := fns, host := host, dbg := dbg }

theorem OnlyFault.trans {s t u : State} (h : OnlyFault s t) (h' : OnlyFault t u) : OnlyFault s u := by
  obtain ⟨_, _, _, _, _, rfl⟩ := h
  obtain ⟨_, _, _, _, _, rfl⟩ := h'
  exact ⟨_, _, _, _, _, rfl⟩

theorem OnlyFault.mem {s t : State} (h : OnlyFault s t) : t.mem = s.mem := by obtain ⟨_, _, _, _, _, rfl⟩ := h; rfl
theorem OnlyFault.regions {s t : State} (h : OnlyFault s t) : t.regions = s.regions := by obtain ⟨_, _, _, _, _, rfl⟩ := h; rfl

theorem OnlyHostSide.onlyFault {s t : State} (h : OnlyHostSide s t) : OnlyFault s t := by
  obtain ⟨_, _, rfl⟩ := h
  exact ⟨_, _, _, _, _, rfl⟩

theorem OnlyTrace.onlyFault {s t : State} (h : OnlyTrace s t) : OnlyFault s t := by
  obtain ⟨_, _, rfl⟩ := h
  exact ⟨_, _, _, _, _, rfl⟩

theorem onlyFault_modNode (s : State) (n : Nat) (g : Node → Node) : OnlyFault s (modNode s n g) := by
  unfold modNode
  split <;> exact ⟨_, _, _, _, _, rfl⟩

theorem onlyFault_endBlock (s : State) (core k : Nat) : OnlyFault s (endBlock s core k) := by
  unfold endBlock
  split
  · exact ⟨_, _, _, _, _, rfl⟩
  · exact .trans ⟨_, _, _, _, _, rfl⟩ (onlyFault_modNode _ _ _)

/-- What a fault reports before its block ends: the events of poison and of a scaling record, and a trace record. -/
def faultNoted (s : State) (core pc tenant tag : Nat) (f : DevFault) : State :=
  let s := if f = .memPoison then poisonConsumed s tenant else s
  let s := if f = .scaleRecord then raiseEv s tenant gSV 4 none else s
  traceEmit s 8 0 (locOf core) (some tenant) tag (faultCode f + 2 ^ 16 * pc)

/-- Reports change the functions' registers, the host's side and the trace. -/
theorem faultNoted_host_trace (s : State) (core pc tenant tag : Nat) (f : DevFault) :
    ∃ u, OnlyHostSide s u ∧ OnlyTrace u (faultNoted s core pc tenant tag f) := by
  simp only [faultNoted]
  refine ⟨_, ?_, onlyTrace_traceEmit _ _ _ _ _ _ _⟩
  exact (OnlyHostSide.ite (onlyHostSide_poisonConsumed _ _)).trans (.ite (onlyHostSide_raiseEv _ _ _ _ _))

theorem keepsWork_faultNoted (s : State) (core pc tenant tag : Nat) (f : DevFault) :
    KeepsWork s (faultNoted s core pc tenant tag f) := by
  obtain ⟨u, hu, ht⟩ := faultNoted_host_trace s core pc tenant tag f
  exact hu.keepsWork.trans ht.keepsWork

/-- What a node's failure names for fault `f` of these lanes. -/
def faultInfo (core pc : Nat) (lanes : Lanes) (f : DevFault) : FailInfo :=
  { status := .fault, fault := f, loc := locOf core, pc := pc, lanes := lanes.toNat }

/-- A fault of a group with its block on the core: it is reported, recorded as its node's failure, and the block ends. -/
theorem raiseFaultAt_of_group {s : State} {core slot : Nat} {g : Group} {b : Block} (pc : Nat) (lanes : Lanes) (f : DevFault)
    (hg : alFind (execOf s core).groups slot = some g) (hb : alFind (execOf s core).blocks g.block = some b) :
    raiseFaultAt s core slot pc lanes f =
      endBlock (failNode (faultNoted s core pc b.task.tenant b.task.tag f) b.task.node (faultInfo core pc lanes f)) core
        g.block := by
  simp only [raiseFaultAt, hg, hb]
  rfl

theorem onlyFault_raiseFaultAt (s : State) (core slot pc : Nat) (lanes : Lanes) (f : DevFault) :
    OnlyFault s (raiseFaultAt s core slot pc lanes f) := by
  cases hg : alFind (execOf s core).groups slot with
  | none => simpa only [raiseFaultAt, hg] using ⟨_, _, _, _, _, rfl⟩
  | some g =>
    cases hb : alFind (execOf s core).blocks g.block with
    | none => simpa only [raiseFaultAt, hg, hb] using ⟨_, _, _, _, _, rfl⟩
    | some b =>
      rw [raiseFaultAt_of_group pc lanes f hg hb]
      obtain ⟨u, hu, ht⟩ := faultNoted_host_trace s core pc b.task.tenant b.task.tag f
      exact ((hu.onlyFault.trans ht.onlyFault).trans (onlyFault_modNode _ _ _)).trans (onlyFault_endBlock _ _ _)

/-! ### Faults of an issuing instruction -/

@[simp] theorem blocks_issued (s : State) (i : Iss) (c : Ctx) :
    (execOf (issued s i c) i.core).blocks = (execOf s i.core).blocks := by
  obtain ⟨st, h⟩ := coreOf_issued s i c
  simp [execOf, h]

@[simp] theorem issued_fe (s : State) (i : Iss) (c : Ctx) : (issued s i c).fe = s.fe := by rw [issued_cores]
@[simp] theorem issued_mem (s : State) (i : Iss) (c : Ctx) : (issued s i c).mem = s.mem := by rw [issued_cores]
@[simp] theorem issued_regions (s : State) (i : Iss) (c : Ctx) : (issued s i c).regions = s.regions := by rw [issued_cores]

section
variable {s t : State} {i : Iss} {c : Ctx} (hi : issue s i = some c) (hk : KeepsWork (issued s i c) t)
include hi hk

/-- A fault that is raised in a state which has only read since the issue is a precise fault of the instruction (R187). -/
theorem faulted_raiseFault (f : DevFault) : Faulted c s (raiseFault t c f) f := by
  obtain ⟨hcore, hslot, -, hg, hb, -⟩ := issue_some hi
  have hgs : (execOf t i.core).groups = (execOf s i.core).groups := (hk.exec.groups i.core).trans (groups_issued s i c)
  have hbs : (execOf t i.core).blocks = (execOf s i.core).blocks := (hk.exec.blocks i.core).trans (blocks_issued s i c)
  rw [raiseFault, hcore, hslot, raiseFaultAt_of_group c.p.pc c.p.lanes f (hgs ▸ hg) (hbs ▸ hb)]
  have hn := keepsWork_faultNoted t i.core c.p.pc c.b.task.tenant c.b.task.tag f
  generalize faultNoted t i.core c.p.pc c.b.task.tenant c.b.task.tag f = u at hn ⊢
  have hug : (execOf u i.core).groups = (execOf s i.core).groups := (hn.exec.groups i.core).trans hgs
  have hub : (execOf u i.core).blocks = (execOf s i.core).blocks := (hn.exec.blocks i.core).trans hbs
  have hub' : alFind (execOf (failNode u c.b.task.node (faultInfo i.core c.p.pc c.p.lanes f)) i.core).blocks c.g.block =
      some c.b := by rw [execOf_failNode, hub, hb]
  obtain ⟨heg, heb⟩ := execOf_endBlock hub'
  refine ⟨?_, ?_, fun n hnode hfail => ?_⟩
  · rw [hcore, heg, execOf_failNode, hug]
  · rw [hcore, heb, execOf_failNode, hub]
  · have hfe : u.fe = s.fe := hn.fe.trans (hk.fe.trans (issued_fe s i c))
    obtain ⟨-, -, m, hm, hmf, hmd⟩ := endBlock_failNode (faultInfo i.core c.p.pc c.p.lanes f) (hub ▸ hb) (hfe ▸ hnode) hfail
    exact ⟨m, hm, by rw [hmf, hcore, faultInfo], hmd⟩

/-- The step ends in that fault, and keeps device memory and the regions as the reads left them. -/
theorem completes_raiseFault (f : DevFault) :
    ∃ r, completes s (raiseFault t c f) = .next r ∧ Faulted c s r f ∧ r.mem = t.mem ∧ r.regions = t.regions := by
  have ho := onlyFault_raiseFaultAt t c.core c.slot c.p.pc c.p.lanes f
  exact ⟨_, rfl, faulted_raiseFault hi hk f, ho.mem, ho.regions⟩

end

/-! ### Descriptors (R194, R196) -/

/-- The fault that Table 7.11 puts first is the one that reading the descriptor finds. -/
theorem descFault_of_descFaults {fmt : Bool} {b : List Byte} {f : DevFault} (h : DescFaults fmt b f) :
    descFault fmt b = some f := by
  simp only [DescFaults] at h
  rcases h with ⟨hodd, rfl⟩ | ⟨hodd, hbad, rfl⟩ | ⟨hodd, hbad, hrec, rfl⟩ | ⟨hodd, hbad, hrec, hinv, rfl⟩
  · simp [descFault, hodd]
  · simp only [descFault, hodd, hbad]
    rfl
  · simp [descFault, hodd, hbad, hrec]
  · have hinv' : (descBad b || (fmt && scaleStray (descOf b).fmt (descOf b).attr (descOf b))) = true := by
      simpa using hinv
    simp [descFault, hodd, hbad, hrec, hinv']

theorem readDesc_misaligned {c : Ctx} {u : Nat} (s : State) (fmt : Bool) (h : uReg64 c u % 128 ≠ 0) :
    readDesc s c u fmt = (.fault .descInvalid, s) := by simp [readDesc, h]

theorem readDesc_of_descFaults {s s1 : State} {c : Ctx} {u : Nat} {fmt : Bool} {b : List Byte} {f : DevFault}
    (ha : uReg64 c u % 128 = 0) (hr : descRead s c (uReg64 c u) = (.ok b, s1)) (hf : DescFaults fmt b f) :
    readDesc s c u fmt = (.fault f, s1) := by simp [readDesc, ha, hr, descFault_of_descFaults hf]

theorem keepsWork_readDesc (s : State) (c : Ctx) (u : Nat) (fmt : Bool) : KeepsWork s (readDesc s c u fmt).2 := by
  have hr := keepsWork_descRead s c (uReg64 c u)
  simp only [readDesc]
  split
  · exact .refl s
  · split
    next b t he =>
      rw [he] at hr
      split <;> exact hr
    · exact hr

section
variable {s s1 : State} {i : Iss} {c : Ctx} {u : Nat} {f : DevFault}

/-- The fault of the descriptor that an instruction reads first is the instruction's. -/
theorem faults_of_readDesc {fmt : Bool} (hi : issue s i = some c) (hr : readDesc (issued s i c) c u fmt = (.fault f, s1)) :
    ∃ r, completes s (raiseFault s1 c f) = .next r ∧ Faulted c s r f := by
  have hk := keepsWork_readDesc (issued s i c) c u fmt
  rw [hr] at hk
  obtain ⟨r, he, hf, -⟩ := completes_raiseFault hi hk f
  exact ⟨r, he, hf⟩

theorem tileDesc_faults (t : Nat) (h : Issues s i c [] [.u u, .u (u + 1)] []) (hm : memReady c = true) (ha : c.act ≠ [])
    (hr : readDesc (issued s i c) c u = (.fault f, s1)) : ∃ r, exec (.tileDesc i t u) s = .next r ∧ Faulted c s r f := by
  have he : exec (.tileDesc i t u) s = completes s (raiseFault s1 c f) := by
    simp [exec, execTileDesc, issueWith_issues h, hm, ha, hr]
  rw [he]
  exact faults_of_readDesc h.1 hr

theorem tileLd_faults (part : Bool) (v n : Nat) (row col : ImmU)
    (h : Issues s i c ((List.range n).map (v + ·)) [.u u, .u (u + 1)] []) (hm : memReady c = true)
    (hr : readDesc (issued s i c) c u true = (.fault f, s1)) :
    ∃ r, exec (.tileLd i part v n u row col) s = .next r ∧ Faulted c s r f := by
  have he : exec (.tileLd i part v n u row col) s = completes s (raiseFault s1 c f) := by
    simp [exec, execTileLd, issueWith_issues h, hm, hr]
  rw [he]
  exact faults_of_readDesc h.1 hr

theorem tileSt_faults (part : Bool) (v n : Nat) (row col : ImmU)
    (h : Issues s i c [] ([.u u, .u (u + 1)] ++ (List.range n).map (fun k => .v (v + k))) []) (hm : memReady c = true)
    (hr : readDesc (issued s i c) c u true = (.fault f, s1)) :
    ∃ r, exec (.tileSt i part v n u row col) s = .next r ∧ Faulted c s r f := by
  have he : exec (.tileSt i part v n u row col) s = completes s (raiseFault s1 c f) := by
    simp only [exec, execTileSt, issueWith_issues h, hm, hr]
    rfl
  rw [he]
  exact faults_of_readDesc h.1 hr

end

/-- TILE.BASE of a handle that was not written (R194). -/
theorem tileBase_faults {s : State} {i : Iss} {c : Ctx} {t u : Nat} (h : Issues s i c [] [.u u, .u (u + 1), .t t] [])
    (ha : c.act ≠ []) (ht : alFind c.g.handles t = none) :
    ∃ r, exec (.tileBase i t u) s = .next r ∧ Faulted c s r .handleInvalid := by
  have he : exec (.tileBase i t u) s = completes s (raiseFault (issued s i c) c .handleInvalid) := by
    simp [exec, execTileBase, issueWith_issues h, ha, ht]
  obtain ⟨r, hr, hf, -⟩ := completes_raiseFault h.1 (.refl _) .handleInvalid
  exact ⟨r, he.trans hr, hf⟩

/-! ### Shapes of matrix instructions (R46) -/

/-- SHAPE's fields that no matrix instruction may have. -/
theorem badShape_of_fields {c : Ctx} {op : MmaOp}
    (h : (immU c op.shape) / 2 ^ 20 % 64 = 0 ∨ 32 < (immU c op.shape) / 2 ^ 20 % 64 ∨ 64 < (immU c op.shape) / 2 ^ 13 % 128 ∨
        4096 < (immU c op.shape) % 2 ^ 13 ∨
        (32 < (immU c op.shape) / 2 ^ 13 % 128 ∧ (mmaPrep c op).hasS = true ∧ (mmaPrep c op).sd.sparse = false)) :
    badShape (mmaPrep c op) = true := by
  have hn : (mmaPrep c op).n = immU c op.shape / 2 ^ 20 % 64 := by
    simp only [mmaPrep, shapeOf, bits, Nat.shiftRight_eq_div_pow]
    rfl
  have hd : (mmaPrep c op).d = immU c op.shape / 2 ^ 13 % 128 := by
    simp only [mmaPrep, shapeOf, bits, Nat.shiftRight_eq_div_pow]
    rfl
  have hk : (mmaPrep c op).k = immU c op.shape % 2 ^ 13 := by
    simp only [mmaPrep, shapeOf, bits, Nat.shiftRight_zero]
  rw [← hn, ← hd, ← hk] at h
  simp only [badShape, Bool.or_eq_true, Bool.and_eq_true, decide_eq_true_eq, Bool.not_eq_true', Nat.lt_one_iff]
  tauto

/-- The instructions that need the FP64 lanes have them. -/
theorem fp64_present {s : State} {op : MmaOp} (h : (op.sFmt ≠ 14 ∧ op.tFmt ≠ 14) ∨ f64Absent s = false) :
    ((op.sFmt == 14 || op.tFmt == 14) && f64Absent s) = false := by
  rcases h with ⟨hs, ht⟩ | h
  · simp [hs, ht]
  · simp [h]

/-- The array takes a matrix instruction of a group: none waits for its evaluation, and the group has no load outstanding. -/
theorem arrayTakes {c : Ctx} (hq : ∀ q ∈ c.x.mmas, q.phase = .drain) (hl : ∀ l ∈ c.x.loads, l.slot ≠ c.slot) :
    (c.x.mmas.any (fun q => q.phase == .stream) || c.x.loads.any (fun l => l.slot == c.slot)) = false := by
  simp only [Bool.or_eq_false_iff, List.any_eq_false, beq_iff_eq]
  exact ⟨fun q hm => by simp [hq q hm], hl⟩

theorem mma_badShape_faults {s : State} {i : Iss} {op : MmaOp} {c : Ctx}
    (hf : (op.sFmt ≠ 14 ∧ op.tFmt ≠ 14) ∨ f64Absent s = false) (h : Issues s i c [] (mmaUniforms op) [])
    (hq : ∀ q ∈ c.x.mmas, q.phase = .drain) (hl : ∀ l ∈ c.x.loads, l.slot ≠ c.slot) (hs : badShape (mmaPrep c op) = true) :
    ∃ r, exec (.mma i op) s = .next r ∧ r.mem.mem = s.mem.mem ∧ Faulted c s r .arrayShape := by
  have he : exec (.mma i op) s = completes s (raiseFault (issued s i c) c .arrayShape) := by
    simp only [exec, execMma, fp64_present hf, Bool.false_eq_true, if_false]
    refine congrArg (completes s) ((issueWith_issues h _).trans ?_)
    simp only [arrayTakes hq hl, hs, Bool.false_eq_true, if_false, if_true]
  obtain ⟨r, hr, hfault, hmem, -⟩ := completes_raiseFault h.1 (.refl _) .arrayShape
  exact ⟨r, he.trans hr, by rw [hmem, issued_mem], hfault⟩

/-! ### Stash accesses beyond the entry (R205) -/

section
variable {s : State} {i : Iss} {c : Ctx} {size k : Nat} {tag : ImmU} {off : Opd} {e : StashEntry}

/-- Some lane's access ends beyond the entry. -/
theorem stashOffs_beyond (h : ∃ l ∈ c.act, e.lines * 128 < (opdLane c off l).toNat + size) :
    (stashOffs c off).any (fun o => decide (e.lines * 128 < o.2 + size)) = true := by
  obtain ⟨l, hl, hb⟩ := h
  simp only [stashOffs, List.any_map, List.any_eq_true]
  exact ⟨l, hl, by simpa using hb⟩

theorem stashOf_issued (hi : issue s i = some c) (hs : stashOf s (coreRegion i.core) c.b.task.part (immU c tag) = some (k, e)) :
    stashOf (issued s i c) (stashHome c).1 (stashHome c).2 (immU c tag) = some (k, e) := by
  obtain ⟨hcore, -⟩ := issue_some hi
  simpa only [stashOf, regionOf, issued_regions, stashHome, hcore] using hs

variable (hs : stashOf s (coreRegion i.core) c.b.task.part (immU c tag) = some (k, e))
  (hb : ∃ l ∈ c.act, e.lines * 128 < (opdLane c off l).toNat + size)
include hs hb

theorem stashSt_beyond_faults {w : Opd} (h : Issues s i c [] (immUse tag ++ [off] ++ spanOpds w size) []) :
    ∃ r, exec (.stashSt i size tag off w) s = .next r ∧ r.regions = s.regions ∧ Faulted c s r .stashRange := by
  have he : exec (.stashSt i size tag off w) s = completes s (raiseFault (issued s i c) c .stashRange) := by
    cases tag <;> refine congrArg (completes s) ((issueWith_issues h _).trans ?_) <;>
      simp only [stashOf_issued h.1 hs, stashOffs_beyond hb, if_true]
  obtain ⟨r, hr, hfault, -, hreg⟩ := completes_raiseFault h.1 (.refl _) .stashRange
  exact ⟨r, he.trans hr, by rw [hreg, issued_regions], hfault⟩

theorem stashLd_beyond_faults {p v : Nat} (hsealed : e.st = .sealed)
    (h : Issues s i c ((List.range (max 1 (size / 4))).map (v + ·)) (immUse tag ++ [off]) []) :
    ∃ r, exec (.stashLd i size p v tag off) s = .next r ∧ r.regions = s.regions ∧ Faulted c s r .stashRange := by
  have he : exec (.stashLd i size p v tag off) s = completes s (raiseFault (issued s i c) c .stashRange) := by
    cases tag <;> refine congrArg (completes s) ((issueWith_issues h _).trans ?_) <;>
      simp only [stashOf_issued h.1 hs, stashOffs_beyond hb, hsealed, bne_self_eq_false, Bool.false_eq_true, if_false, if_true]
  obtain ⟨r, hr, hfault, -, hreg⟩ := completes_raiseFault h.1 (.refl _) .stashRange
  exact ⟨r, he.trans hr, by rw [hreg, issued_regions], hfault⟩

end

/-- Settles O29: each misuse is found at the issue, where the instruction has at most read its descriptor (`keepsWork_readDesc`),
so that its fault is precise (`faulted_raiseFault`). -/
theorem misusedDescriptorsFault : Obligations.MisusedDescriptorsFault := by
  refine ⟨⟨?_, ?_, fun i t u s c h ha ht => tileBase_faults h ha ht⟩,
    fun i op s c hf h hq hl hs => mma_badShape_faults hf h hq hl (badShape_of_fields hs),
    fun i size p v tag off w s c k e hs hb => ⟨stashSt_beyond_faults hs hb, stashLd_beyond_faults hs hb⟩⟩
  · intro i part t v n u row col s c hm ha
    exact ⟨fun h hact => tileDesc_faults t h hm hact (readDesc_misaligned _ false ha),
      fun h => tileLd_faults part v n row col h hm (readDesc_misaligned _ true ha),
      fun h => tileSt_faults part v n row col h hm (readDesc_misaligned _ true ha)⟩
  · intro i part t v n u row col s s1 c b f hm ha hr
    exact ⟨fun h hact hd => tileDesc_faults t h hm hact (readDesc_of_descFaults ha hr hd),
      fun h hd => tileLd_faults part v n row col h hm (readDesc_of_descFaults ha hr hd),
      fun h hd => tileSt_faults part v n row col h hm (readDesc_of_descFaults ha hr hd)⟩

end Sys2Proof.Machine
end

section
/-! Turn units (R125 to R131): what the requests and the deliveries of units change, and the fill that ends. -/

namespace Sys2Proof.Machine

/-! ### Instructions of the array -/

@[simp] theorem execOf_modCluster (s : State) (k : Nat) (g : Cluster → Cluster) (c : Nat) :
    execOf (modCluster s k g) c = execOf s c := rfl

@[simp] theorem clusterOf_modCluster (s : State) (k : Nat) (g : Cluster → Cluster) :
    clusterOf (modCluster s k g) k = g (clusterOf s k) := by simp [clusterOf]

@[simp] theorem clusterOf_modMma (s : State) (core id : Nat) (f : MmaRun → MmaRun) (k : Nat) :
    clusterOf (modMma s core id f) k = clusterOf s k := rfl

@[simp] theorem modMma_mem (s : State) (core id : Nat) (f : MmaRun → MmaRun) : (modMma s core id f).mem = s.mem := rfl

@[simp] theorem execOf_modMma (s : State) (core id : Nat) (f : MmaRun → MmaRun) :
    execOf (modMma s core id f) core =
      { execOf s core with mmas := (execOf s core).mmas.map (fun m => if m.id = id then f m else m) } := by simp [modMma]

/-- An instruction that is replaced by one of its number is found as replaced. -/
theorem find_modMma {s : State} {core id : Nat} {m m' : MmaRun}
    (h : (execOf s core).mmas.find? (fun q => q.id == id) = some m) (hid : m'.id = id) :
    (execOf (modMma s core id (fun _ => m')) core).mmas.find? (fun q => q.id == id) = some m' := by
  have hm : m.id = id := by simpa using List.find?_some h
  have hp : ((fun q : MmaRun => q.id == id) ∘ fun q => if q.id = id then m' else q) = fun q => q.id == id := by
    funext q
    by_cases hq : q.id = id <;> simp [hq, hid]
  rw [execOf_modMma, List.find?_map, hp, h]
  simp [hm]

/-! ### Units that reach an instruction -/

/-- What an instruction keeps while units reach it: its number, its phase and its counts; and it goes on collecting the source
of its escalation. -/
structure Served (m m' : MmaRun) : Prop where
  id : m'.id = m.id
  phase : m'.phase = m.phase
  opClip : m'.opClip = m.opClip
  opFlush : m'.opFlush = m.opFlush
  eOp : m'.eOp = m.eOp
  escSrc : m.escSrc.isSome = true → m'.escSrc.isSome = true

theorem Served.refl (m : MmaRun) : Served m m := ⟨rfl, rfl, rfl, rfl, rfl, fun h => h⟩

theorem Served.trans {m m' m'' : MmaRun} (h : Served m m') (h' : Served m' m'') : Served m m'' :=
  ⟨h'.id.trans h.id, h'.phase.trans h.phase, h'.opClip.trans h.opClip, h'.opFlush.trans h.opFlush, h'.eOp.trans h.eOp,
    fun hs => h'.escSrc (h.escSrc hs)⟩

theorem served_takeUnit (t : TurnSlot) (m : MmaRun) : Served m (takeUnit t m) := by
  simp only [takeUnit]
  split
  · exact ⟨rfl, rfl, rfl, rfl, rfl, fun _ => rfl⟩
  · exact ⟨rfl, rfl, rfl, rfl, rfl, fun h => h⟩

/-- A unit that is taken is no longer needed. -/
theorem takeUnit_need (t : TurnSlot) (m : MmaRun) :
    (takeUnit t m).need = m.need.filter (fun n => !(n.k == t.key.k && n.v == t.key.v)) := by
  simp only [takeUnit]
  split <;> rfl

@[simp] theorem takeUnit_id (t : TurnSlot) (m : MmaRun) : (takeUnit t m).id = m.id := (served_takeUnit t m).id

/-- `t` is `s` but for turn slots, the order of events, and units that have reached instructions of `core`. -/
structure OnlyUnits (core : Nat) (s t : State) : Prop where
  mem : t.mem = s.mem
  exec : ∃ f, (∀ m, Served m (f m)) ∧ execOf t core = { execOf s core with mmas := (execOf s core).mmas.map f }

namespace OnlyUnits
variable {core : Nat} {s t u : State}

theorem of_exec (hm : t.mem = s.mem) (hx : execOf t core = execOf s core) : OnlyUnits core s t :=
  ⟨hm, _, Served.refl, by rw [hx, List.map_id']⟩

theorem refl (core : Nat) (s : State) : OnlyUnits core s s := .of_exec rfl rfl

theorem trans (h : OnlyUnits core s t) (h' : OnlyUnits core t u) : OnlyUnits core s u := by
  obtain ⟨hm, f, hf, hx⟩ := h
  obtain ⟨hm', f', hf', hx'⟩ := h'
  exact ⟨hm'.trans hm, f' ∘ f, fun m => (hf m).trans (hf' (f m)), by rw [hx', hx, List.map_map]⟩

theorem modCluster (k : Nat) (g : Cluster → Cluster) : OnlyUnits core s (Machine.modCluster s k g) := .of_exec rfl rfl

theorem foldl {α : Type} {f : State → α → State} (hf : ∀ s a, OnlyUnits core s (f s a)) (l : List α) (s : State) :
    OnlyUnits core s (l.foldl f s) := foldl_related (refl core) trans hf l s

theorem blocks (h : OnlyUnits core s t) : (execOf t core).blocks = (execOf s core).blocks := by
  obtain ⟨-, _, -, hx⟩ := h
  rw [hx]

/-- The instructions are those of before, by number. -/
theorem ids (h : OnlyUnits core s t) : (execOf t core).mmas.map (·.id) = (execOf s core).mmas.map (·.id) := by
  obtain ⟨-, f, hf, hx⟩ := h
  rw [hx, List.map_map]
  exact List.map_congr_left fun m _ => (hf m).id

/-- The instruction of a number is the one of before, after the units that have reached it. -/
theorem find (h : OnlyUnits core s t) {id : Nat} {m : MmaRun}
    (hm : (execOf s core).mmas.find? (fun q => q.id == id) = some m) :
    ∃ m', (execOf t core).mmas.find? (fun q => q.id == id) = some m' ∧ Served m m' := by
  obtain ⟨-, f, hf, hx⟩ := h
  have hp : ((fun q : MmaRun => q.id == id) ∘ f) = fun q => q.id == id := funext fun q => by simp [(hf q).id]
  exact ⟨f m, by rw [hx, List.find?_map, hp, hm]; rfl, hf m⟩

end OnlyUnits

theorem onlyUnits_modMma (s : State) (core id : Nat) {f : MmaRun → MmaRun} (hf : ∀ m, Served m (f m)) :
    OnlyUnits core s (modMma s core id f) := by
  refine ⟨rfl, _, fun m => ?_, execOf_modMma s core id f⟩
  split
  · exact hf m
  · exact .refl m

theorem onlyUnits_requestUnit (s : State) (core : Nat) (m : MmaRun) (n : TurnNeed) : OnlyUnits core s (requestUnit s core m n) := by
  simp only [requestUnit]
  split
  · exact .refl core s
  split
  · split
    · exact .trans (.trans (.modCluster _ _) (onlyUnits_modMma _ _ _ (served_takeUnit _))) (.modCluster _ _)
    · exact .modCluster _ _
  · split
    · exact .refl core s
    · exact .of_exec rfl rfl

theorem onlyUnits_requestTurns (s : State) (core : Nat) : OnlyUnits core s (requestTurns s core) := by
  refine .foldl (fun s m => .foldl (fun s n => ?_) _ _) _ _
  split
  · split
    · exact onlyUnits_requestUnit _ _ _ _
    · exact .refl core s
  · exact .refl core s

/-- Nothing is requested where no instruction needs a unit. -/
theorem requestTurns_of_no_need {s : State} {core : Nat} (h : ∀ x ∈ (execOf s core).mmas, x.need = []) :
    requestTurns s core = s := by
  refine List.foldlRecOn (motive := (· = s)) _ _ rfl fun t ht x hx => ?_
  rw [h x hx]
  exact ht

/-! ### The end of a fill -/

/-- The last consumer of a slot frees it (R130). -/
theorem afterTake_last {s : State} {cl slot core id : Nat} {t : TurnSlot} (ht : alFind (clusterOf s cl).turns slot = some t)
    (hc : t.consumers = [(core, id)]) :
    (clusterOf (afterTake s cl slot core id) cl).turns = alDel (clusterOf s cl).turns slot := by
  simp [afterTake, ht, hc]

/-- A unit whose one consumer it serves is filled: the consumer takes it, and its slot is free (R126 to R130). -/
theorem turnUnitReady_delivers {cluster slot core id : Nat} {s s1 : State} {t : TurnSlot} {o : Operand} {q : List (Nat × Nat)}
    {sq : List (List Nat)} (ht : alFind (clusterOf s cluster).turns slot = some t) (hr : t.ready = false)
    (hc : t.consumers = [(core, id)]) (hfill : fillUnit s (turnCtx s t) t = (.ok (o, q, sq), s1))
    (hneed : ∀ x ∈ (execOf s core).mmas, if x.id = id then x.need = [{ k := t.key.k, v := t.key.v }] else x.need = []) :
    let t' := { t with data := o, quals := q, srcQuals := sq, ready := true }
    ∃ r, exec (.turnUnitReady cluster slot) s = .next r ∧
      (clusterOf r cluster).turns = alDel (alPut (clusterOf s1 cluster).turns slot t') slot ∧
      (execOf r core).mmas = (execOf s core).mmas.map (fun x => if x.id = id then takeUnit t' x else x) ∧
      ∀ x ∈ (execOf r core).mmas, x.need = [] := by
  intro t'
  have hk := keepsWork_fillUnit s (turnCtx s t) t
  rw [hfill] at hk
  let s2 := modMma (modCluster s1 cluster (fun k => { k with turns := alPut k.turns slot t' })) core id (takeUnit t')
  have hmmas : (execOf (afterTake s2 cluster slot core id) core).mmas =
      (execOf s core).mmas.map (fun x => if x.id = id then takeUnit t' x else x) := by
    rw [← hk.exec.mmas core]
    exact congrArg Exec.mmas (execOf_modMma _ _ _ _)
  have hnone : ∀ x ∈ (execOf (afterTake s2 cluster slot core id) core).mmas, x.need = [] := by
    rw [hmmas]
    intro x hx
    obtain ⟨y, hy, rfl⟩ := List.mem_map.mp hx
    have hn := hneed y hy
    split <;> rename_i hid
    · rw [if_pos hid] at hn
      simp [takeUnit_need, hn, t']
    · rwa [if_neg hid] at hn
  have he : exec (.turnUnitReady cluster slot) s = completes s (afterTake s2 cluster slot core id) := by
    have hs2 : t'.consumers.foldl (fun s e =>
        requestTurns (afterTake (modMma s e.1 e.2 (takeUnit t')) cluster slot e.1 e.2) e.1)
        (modCluster s1 cluster (fun k => { k with turns := alPut k.turns slot t' })) = afterTake s2 cluster slot core id := by
      rw [show t'.consumers = [(core, id)] from hc]
      exact requestTurns_of_no_need hnone
    simp only [exec, execTurnUnitReady, ht, hr, hfill, Bool.false_eq_true, if_false]
    exact congrArg (completes s) hs2
  refine ⟨_, he, ?_, hmmas, hnone⟩
  refine (afterTake_last (s := s2) (t := t') ?_ hc).trans ?_ <;> simp [s2]

end Sys2Proof.Machine
end

section
/-! The evaluation of a matrix instruction after its stream (R104 to R107, R132). -/

namespace Sys2Proof.Machine

variable {s s1 s2 : State} {core id : Nat} {m : MmaRun} {c : Ctx}

/-! ### The counts -/

/-- A complete instruction with its full operand counts (R105, R106). -/
def counted (m : MmaRun) : MmaRun :=
  { m with opClip := m.tile.op.qClip + m.strm.qClip, opFlush := m.tile.op.qFlush + m.strm.qFlush,
           eOp := m.tile.op.qElems + m.strm.qElems, phase := .drain }

/-- The comparisons of the clipped and of the flushed elements of a complete instruction (R105). -/
def fullTriggers (m : MmaRun) : Bool × Bool :=
  opTriggers m.task.policy (m.tile.op.qClip + m.strm.qClip) (m.tile.op.qFlush + m.strm.qFlush) (m.tile.op.qElems + m.strm.qElems)

/-- One of the counts is above its threshold. -/
def overThreshold (m : MmaRun) : Bool := (fullTriggers m).1 || (fullTriggers m).2

/-- A counted instruction with the comparisons that held. -/
def triggered (m : MmaRun) : MmaRun :=
  { counted m with trigClip := (fullTriggers m).1, trigFlush := (fullTriggers m).2 }

/-- A triggered instruction that goes back to collect the source of its escalation (R132). -/
def collecting (m : MmaRun) : MmaRun :=
  { triggered m with phase := .stream, escSrc := some [], escWhen := 1,
                     need := turnNeeds (redOf m) m.len m.vorg m.korg (turnPack (descOf m.stDesc).srcFmt) }

/-- Outlier lanes of one operand of an instruction. -/
def outlOf (m : MmaRun) (stream : Bool) : List Nat := if m.op.outl && m.op.outlStream == stream then m.outl else []

/-- The stationary operand of an instruction is narrower than its step-up target. -/
def statNarrow (m : MmaRun) : Bool := narrower (mmaPacking m.op) m.op.sFmt (descOf m.tDesc).srcFmt

/-- The streaming operand of an instruction is narrower than its step-up target. -/
def strmNarrow (m : MmaRun) : Bool := narrower (mmaPacking m.op) m.op.tFmt (descOf m.stDesc).srcFmt

/-- An instruction with its stationary operand stepped up from the source `src`, where that operand is narrow (R107). -/
def statStepped (m : MmaRun) (src : List (List Nat)) : MmaRun :=
  if statNarrow m = true then
    { m with tile := stepTile m.tile (stepTarget (mmaPacking m.op) (descOf m.tDesc).srcFmt) (descOf m.tDesc).srcFmt
               (outlOf m false) src, tb := 0x3F800000 }
  else m

/-- An instruction with its streaming operand stepped up from the source `str`, where that operand is narrow (R107). -/
def strmStepped (m : MmaRun) (str : List (List Nat)) : MmaRun :=
  if strmNarrow m = true then
    { m with strm := { stepStream (stepTarget (mmaPacking m.op) (descOf m.stDesc).srcFmt) (descOf m.stDesc).srcFmt
                         (outlOf m true) str with
                       qClip := m.strm.qClip, qFlush := m.strm.qFlush, qElems := m.strm.qElems }, ta := 0x3F800000 }
  else m

/-- Stepping up the stationary operand leaves the stream's side. -/
theorem statStepped_eq (m : MmaRun) (src : List (List Nat)) : ∃ tile tb, statStepped m src = { m with tile := tile, tb := tb } := by
  unfold statStepped
  split <;> exact ⟨_, _, rfl⟩

/-- The stepped-up execution of an instruction that is escalated after its stream (R107, Table 4.1). -/
def escalated (m : MmaRun) (src str : List (List Nat)) : MmaRun :=
  { strmStepped (statStepped (triggered m) src) str with escState := 1, escWhen := 1, escSrc := none }

theorem escalated_id (m : MmaRun) (src str : List (List Nat)) : (escalated m src str).id = m.id := by
  unfold escalated strmStepped statStepped
  split <;> split <;> rfl

theorem escalated_need (m : MmaRun) (src str : List (List Nat)) : (escalated m src str).need = m.need := by
  unfold escalated strmStepped statStepped
  split <;> split <;> rfl

/-- What the stepped-up execution holds. -/
theorem escalated_operands (m : MmaRun) (src str : List (List Nat)) :
    (escalated m src str).phase = .drain ∧ (escalated m src str).escState = 1 ∧ (escalated m src str).escWhen = 1 ∧
      (escalated m src str).tile = (if statNarrow m = true then stepTile m.tile
        (stepTarget (mmaPacking m.op) (descOf m.tDesc).srcFmt) (descOf m.tDesc).srcFmt (outlOf m false) src else m.tile) ∧
      (escalated m src str).tb = (if statNarrow m = true then 0x3F800000 else m.tb) ∧
      (escalated m src str).strm.elems = (if strmNarrow m = true then (stepStream
        (stepTarget (mmaPacking m.op) (descOf m.stDesc).srcFmt) (descOf m.stDesc).srcFmt (outlOf m true) str).elems
        else m.strm.elems) ∧
      (escalated m src str).strm.scales = (if strmNarrow m = true then (stepStream
        (stepTarget (mmaPacking m.op) (descOf m.stDesc).srcFmt) (descOf m.stDesc).srcFmt (outlOf m true) str).scales
        else m.strm.scales) ∧
      (escalated m src str).ta = (if strmNarrow m = true then 0x3F800000 else m.ta) := by
  have hs : statNarrow (triggered m) = statNarrow m := rfl
  have ht : ∀ src, strmNarrow (statStepped (triggered m) src) = strmNarrow m := fun src => by
    obtain ⟨_, _, he⟩ := statStepped_eq (triggered m) src
    rw [he]
    rfl
  unfold escalated strmStepped
  rw [ht]
  unfold statStepped
  rw [hs]
  cases statNarrow m <;> cases strmNarrow m <;> exact ⟨rfl, rfl, rfl, rfl, rfl, rfl, rfl, rfl⟩

/-! ### What the evaluation answers -/

/-- The evaluation after the stream, in the terms above. -/
theorem evaluate_full (s : State) (core : Nat) (c : Ctx) (m : MmaRun) :
    evaluate s core c m false =
      if (!m.op.esc || !overThreshold m || !polEnables m.task.policy (mmaPacking m.op)) = true then (.ok (counted m), s)
      else if polObserve m.task.policy = true then
        (.ok { triggered m with escState := 2, escWhen := 2 }, noteEsc s core (triggered m) 2)
      else if collects m = true then (.ok (collecting m), s)
      else
        let w := if m.escSrc.isSome = true then m.escWhen else 1
        accBind (stepUp s c (triggered m)) (fun m' s =>
          (.ok { m' with escState := 1, escWhen := w, escSrc := none }, noteEsc s core (triggered m) w)) := rfl

theorem evaluate_below (s : State) (core : Nat) (c : Ctx) (h : overThreshold m = false) :
    evaluate s core c m false = (.ok (counted m), s) := by simp [evaluate_full, h]

section
variable (hesc : m.op.esc = true) (hpol : polEnables m.task.policy (mmaPacking m.op) = true)
include hesc hpol

theorem evaluate_observed (s : State) (core : Nat) (c : Ctx) (h : overThreshold m = true) (ho : polObserve m.task.policy = true) :
    evaluate s core c m false = (.ok { triggered m with escState := 2, escWhen := 2 }, noteEsc s core (triggered m) 2) := by
  simp [evaluate_full, hesc, hpol, h, ho]

theorem evaluate_collects (s : State) (core : Nat) (c : Ctx) (h : overThreshold m = true)
    (ho : polObserve m.task.policy = false) (hc : collects m = true) :
    evaluate s core c m false = (.ok (collecting m), s) := by simp [evaluate_full, hesc, hpol, h, ho, hc]

theorem evaluate_steps {m' : MmaRun} (core : Nat) (h : overThreshold m = true) (ho : polObserve m.task.policy = false)
    (hc : collects m = false) (hsrc : m.escSrc = none) (hs : stepUp s c (triggered m) = (.ok m', s1)) :
    evaluate s core c m false =
      (.ok { m' with escState := 1, escWhen := 1, escSrc := none }, noteEsc s1 core (triggered m) 1) := by
  simp [evaluate_full, hesc, hpol, h, ho, hc, hsrc, hs, accBind]

end

theorem accBind_congr {α β : Type} {r r' : Acc α × State} (k : α → State → Acc β × State) (h : r = r') :
    accBind r k = accBind r' k := by rw [h]

/-- The stepped-up execution, from sources that can be read (R107). -/
theorem stepUp_reads {src str : List (List Nat)} (hsrc : m.escSrc = none)
    (h1 : if statNarrow m = true then srcStationary c (descOf m.tDesc) m.depth m.width s = (.ok src, s1) else s1 = s)
    (h2 : if strmNarrow m = true then
        srcStream c (descOf m.stDesc) (redOf m) m.len m.vorg m.korg m.lanes s1 = (.ok str, s2) else s2 = s1) :
    stepUp s c m = (.ok (strmStepped (statStepped m src) str), s2) := by
  have hstat : (if statNarrow m = true then accBind (srcStationary c (descOf m.tDesc) m.depth m.width s) (fun src s =>
        (.ok { m with tile := stepTile m.tile (stepTarget (mmaPacking m.op) (descOf m.tDesc).srcFmt) (descOf m.tDesc).srcFmt
                        (outlOf m false) src, tb := 0x3F800000 }, s))
      else (.ok m, s)) = (Acc.ok (statStepped m src), s1) := by
    unfold statStepped
    split at h1 <;> rename_i hN
    · simp only [if_pos hN, h1, accBind]
    · simp only [if_neg hN, h1]
  refine (accBind_congr _ hstat).trans ?_
  obtain ⟨tile, tb, he⟩ := statStepped_eq m src
  rw [he]
  change (if strmNarrow m = true then accBind (streamSource s1 c { m with tile := tile, tb := tb }) _ else _) = _
  unfold strmStepped
  change _ = (Acc.ok (if strmNarrow m = true then _ else _), s2)
  split at h2 <;> rename_i hN
  · simp only [if_pos hN, streamSource, hsrc]
    exact accBind_congr _ h2
  · simp only [if_neg hN, h2]

/-! ### ESCALATION_EVAL -/

theorem keepsWork_noteEsc (s : State) (core : Nat) (m : MmaRun) (w : Nat) : KeepsWork s (noteEsc s core m w) := by
  simp only [noteEsc]
  refine .trans ?_ (onlyTrace_traceEmit _ _ _ _ _ _ _).keepsWork
  have hev := (onlyHostSide_raiseEach s m.task.tenant gSV (if w = 2 then 1 else 0) (polEach m.task.policy)
    (some (lastEsc core m w))).keepsWork
  exact .ite hev ((hev.trans (keepsWork_ctrAdd _ _ _ _ _)).trans (keepsWork_ctrAdd _ _ _ _ _))

/-- An instruction that waits for its evaluation after its stream, none of its triggers having held at its issue. -/
structure AwaitsEval (s : State) (core id : Nat) (m : MmaRun) : Prop where
  find : (execOf s core).mmas.find? (fun q => q.id == id) = some m
  phase : m.phase = .stream
  need : m.need = []
  trigClip : m.trigClip = false
  trigFlush : m.trigFlush = false

theorem AwaitsEval.id_eq (h : AwaitsEval s core id m) : m.id = id := by simpa using List.find?_some h.find

/-- The instruction stands in the array as the evaluation leaves it, after the units that its request for more have brought. -/
theorem escalationEval_ends {m' : MmaRun} (h : AwaitsEval s core id m)
    (he : evaluate s core (escCtx s core m) m false = (.ok m', s1)) (hk : KeepsWork s s1) (hid : m'.id = id) :
    ∃ r m'', exec (.escalationEval core id) s = .next r ∧ (execOf r core).mmas.find? (fun q => q.id == id) = some m'' ∧
      Served m' m'' ∧ (m'.need = [] → m'' = m') := by
  obtain ⟨hfind, hphase, hneed, hclip, hflush⟩ := h
  have hput : (execOf (modMma s1 core id (fun _ => m')) core).mmas.find? (fun q => q.id == id) = some m' :=
    find_modMma (hk.exec.mmas core ▸ hfind) hid
  have hrun : exec (.escalationEval core id) s = completes s (
      if m'.need.isEmpty then
        (if m'.escState = 1 then modExec (modMma s1 core id (fun _ => m')) core (fun x => stepActive x m')
         else modMma s1 core id (fun _ => m'))
      else requestTurns (modMma s1 core id (fun _ => m')) core) := by
    have he' : evaluate s core (escCtx s core m) m (m.trigClip || m.trigFlush) = (.ok m', s1) := by rwa [hclip, hflush]
    simp only [exec, execEscalationEval, hfind, hphase, hneed]
    change completes s (match evaluate s core (escCtx s core m) m (m.trigClip || m.trigFlush) with
      | (.wait, s) => s | (.fault f, s) => mmaFault s core m f | (.ok m', s) => _) = _
    rw [he']
  rw [hrun]
  cases hn : m'.need with
  | nil =>
    refine ⟨_, m', rfl, ?_, .refl m', fun _ => rfl⟩
    change (execOf (if m'.escState = 1 then modExec _ core (fun x => stepActive x m') else _) core).mmas.find? _ = _
    split
    · rw [execOf_modExec, ← hput]
      unfold stepActive
      split <;> rfl
    · exact hput
  | cons n ns =>
    obtain ⟨m'', hm'', hs⟩ := (onlyUnits_requestTurns (modMma s1 core id (fun _ => m')) core).find hput
    exact ⟨_, m'', rfl, hm'', hs, fun h => nomatch h⟩

section
variable (h : AwaitsEval s core id m) (hesc : m.op.esc = true) (hpol : polEnables m.task.policy (mmaPacking m.op) = true)
include h hesc hpol

/-- Below the thresholds, and where the policy only observes, the original execution is kept (R105, R106). -/
theorem escalationEval_keeps (hhit : overThreshold m = false ∨ polObserve m.task.policy = true) :
    ∃ r m', exec (.escalationEval core id) s = .next r ∧ (execOf r core).mmas.find? (fun q => q.id == id) = some m' ∧
      m'.phase = .drain ∧ m'.opClip = (counted m).opClip ∧ m'.opFlush = (counted m).opFlush ∧ m'.eOp = (counted m).eOp ∧
      m'.tile = m.tile ∧ m'.strm = m.strm ∧ m'.escState = if overThreshold m = true then 2 else m.escState := by
  cases hover : overThreshold m with
  | false =>
    obtain ⟨r, _, he, hf, -, heq⟩ := escalationEval_ends h (evaluate_below s core _ hover) (.refl s) h.id_eq
    obtain rfl := heq h.need
    exact ⟨r, _, he, hf, rfl, rfl, rfl, rfl, rfl, rfl, rfl⟩
  | true =>
    have ho : polObserve m.task.policy = true := by simpa [hover] using hhit
    obtain ⟨r, _, he, hf, -, heq⟩ := escalationEval_ends h (evaluate_observed hesc hpol s core _ hover ho)
      (keepsWork_noteEsc s core (triggered m) 2) h.id_eq
    obtain rfl := heq h.need
    exact ⟨r, _, he, hf, rfl, rfl, rfl, rfl, rfl, rfl, rfl⟩

variable (hover : overThreshold m = true) (ho : polObserve m.task.policy = false) (hsrc : m.escSrc = none)
include hover ho hsrc

/-- An escalation whose stream's source is not turned steps up at once (R107). -/
theorem escalationEval_steps (hturn : ¬ ((descOf m.stDesc).turned = true ∧ strmNarrow m = true)) {src str : List (List Nat)}
    (h1 : if statNarrow m = true then srcStationary (escCtx s core m) (descOf m.tDesc) m.depth m.width s = (.ok src, s1)
      else s1 = s)
    (h2 : if strmNarrow m = true then
        srcStream (escCtx s core m) (descOf m.stDesc) (redOf m) m.len m.vorg m.korg m.lanes s1 = (.ok str, s2) else s2 = s1) :
    ∃ r m', exec (.escalationEval core id) s = .next r ∧ (execOf r core).mmas.find? (fun q => q.id == id) = some m' ∧
      m' = escalated m src str := by
  have hk1 : KeepsWork s s1 := by
    have hr := keepsWork_srcStationary (escCtx s core m) (descOf m.tDesc) m.depth m.width s
    split at h1
    · rwa [h1] at hr
    · exact h1 ▸ .refl s
  have hk2 : KeepsWork s1 s2 := by
    have hr := keepsWork_srcStream (escCtx s core m) (descOf m.stDesc) (redOf m) m.len m.vorg m.korg m.lanes s1
    split at h2
    · rwa [h2] at hr
    · exact h2 ▸ .refl s1
  have hc : collects m = false := by
    rw [← Bool.not_eq_true]
    intro hc
    simp only [collects, Bool.and_eq_true] at hc
    exact hturn ⟨hc.1.2, hc.2⟩
  have hstep : stepUp s (escCtx s core m) (triggered m) = (.ok (strmStepped (statStepped (triggered m) src) str), s2) :=
    stepUp_reads hsrc h1 h2
  have he : evaluate s core (escCtx s core m) m false = (.ok (escalated m src str), noteEsc s2 core (triggered m) 1) :=
    evaluate_steps hesc hpol core hover ho hc hsrc hstep
  obtain ⟨r, m', hrun, hf, -, heq⟩ := escalationEval_ends h he ((hk1.trans hk2).trans (keepsWork_noteEsc _ _ _ _))
    ((escalated_id m src str).trans h.id_eq)
  exact ⟨r, m', hrun, hf, heq ((escalated_need m src str).trans h.need)⟩

/-- An escalation of a turned stream first collects the units of its source (R132). -/
theorem escalationEval_collects (hturn : (descOf m.stDesc).turned = true) (hN : strmNarrow m = true) :
    ∃ r m', exec (.escalationEval core id) s = .next r ∧ (execOf r core).mmas.find? (fun q => q.id == id) = some m' ∧
      m'.phase = .stream ∧ m'.escSrc.isSome = true ∧ m'.opClip = (counted m).opClip ∧ m'.opFlush = (counted m).opFlush ∧
      m'.eOp = (counted m).eOp := by
  have hc : collects m = true := by
    simp only [collects, hsrc, hturn, Option.isNone_none, Bool.true_and]
    exact hN
  obtain ⟨r, m', he, hf, hs, -⟩ := escalationEval_ends h (evaluate_collects hesc hpol s core _ hover ho hc) (.refl s) h.id_eq
  exact ⟨r, m', he, hf, hs.phase, hs.escSrc rfl, hs.opClip, hs.opFlush, hs.eOp⟩

end

end Sys2Proof.Machine
end

section
/-! The last drain write of a matrix instruction (R49, R83, R143): its report, its destination, and the array that it leaves. -/

namespace Sys2Proof.Machine

/-! ### Where addresses lead -/

/-- `t` has the memory system, the tenants and the package identifier of `s`, and so its address spaces. -/
structure SameSpace (s t : State) : Prop where
  mem : t.mem = s.mem
  sched : t.sched = s.sched
  selfId : t.selfId = s.selfId

theorem SameSpace.refl (s : State) : SameSpace s s := ⟨rfl, rfl, rfl⟩

theorem SameSpace.trans {s t u : State} (h : SameSpace s t) (h' : SameSpace t u) : SameSpace s u :=
  ⟨h'.mem.trans h.mem, h'.sched.trans h.sched, h'.selfId.trans h.selfId⟩

theorem SameSpace.translate_eq {s t : State} (h : SameSpace s t) (tenant va : Nat) (need : Right) :
    translate t tenant va need = translate s tenant va need := by
  simp only [translate, translateWith, pageOf, setOf, inCode, ownReach, h.mem, h.sched, h.selfId]
  rfl

theorem SameSpace.rowIns_eq {s t : State} (h : SameSpace s t) (m : MmaRun) (r : Nat × List (XVal × Conv)) :
    rowIns t m r = rowIns s m r := by simp only [rowIns, bytesIn, h.translate_eq]

/-! ### The report (R102, R105, R116, R122) -/

/-- What a report leaves alone: the work of the cores and the address spaces. -/
structure Reports (s t : State) : Prop where
  exec : SameExec s t
  space : SameSpace s t

namespace Reports

theorem of_eq {s t : State} (hc : t.cores = s.cores) (hm : t.mem = s.mem) (hs : t.sched = s.sched) (hi : t.selfId = s.selfId) :
    Reports s t := ⟨.of_cores hc, hm, hs, hi⟩

theorem refl (s : State) : Reports s s := .of_eq rfl rfl rfl rfl

theorem trans {s t u : State} (h : Reports s t) (h' : Reports t u) : Reports s u :=
  ⟨h.exec.trans h'.exec, h.space.trans h'.space⟩

/-- One of two ways on, each of which leaves it alone. -/
theorem ite {c : Prop} [Decidable c] {s t u : State} (ht : Reports s t) (hu : Reports s u) : Reports s (if c then t else u) := by
  split
  · exact ht
  · exact hu

end Reports

theorem OnlyHostSide.reports {s t : State} (h : OnlyHostSide s t) : Reports s t := by
  obtain ⟨_, _, rfl⟩ := h
  exact .of_eq rfl rfl rfl rfl

theorem reports_bump (s : State) (t off n : Nat) : Reports s (bump s t off n) := (onlyHostSide_bump s t off n).reports

theorem reports_ctrAdd (s : State) (k code n : Nat) (part : Option Nat) : Reports s (ctrAdd s k code n part) := by
  rw [ctrAdd_dbg]
  exact .of_eq rfl rfl rfl rfl

theorem reports_takeFree (s : State) : Reports s (takeFree s).2 := .of_eq rfl rfl rfl rfl

theorem reports_modNode (s : State) (n : Nat) (g : Node → Node) : Reports s (modNode s n g) := by
  unfold modNode
  split <;> exact .of_eq rfl rfl rfl rfl

theorem reports_l1Drop (s : State) (core : Nat) (t : Target) : Reports s (l1Drop s core t) :=
  ⟨sameExec_modExec ⟨_, _, _, rfl⟩, rfl, rfl, rfl⟩

theorem reports_modRegion (s : State) (r : Nat) (f : Region → Region) : Reports s (modRegion s r f) := .of_eq rfl rfl rfl rfl

/-- A contribution invalidates its core's copy of the record and joins its region's queue (R248). -/
theorem reports_pushAmax (s : State) (core : Nat) (u : AmaxUpd) : Reports s (pushAmax s core u) := by
  simp only [pushAmax]
  cases translate s u.tenant u.record .a with
  | some t => exact (reports_l1Drop _ _ _).trans (reports_modRegion _ _ _)
  | none => exact reports_modRegion _ _ _

theorem reports_tileReport (s : State) (core : Nat) (m : MmaRun) (rows : List (Nat × List (XVal × Conv))) :
    Reports s (tileReport s core m rows) := by
  simp only [tileReport]
  have hrep : Reports s (bump (ctrAdd s (blkKey 1 (coreRegion core)) 0x0D 1 (some m.task.part)) m.task.tenant 0x60100 1) :=
    (reports_ctrAdd _ _ _ _ _).trans (reports_bump _ _ _ _)
  generalize bump (ctrAdd s (blkKey 1 (coreRegion core)) 0x0D 1 (some m.task.part)) m.task.tenant 0x60100 1 = s1 at hrep ⊢
  have hesc : Reports s (if m.escState = 1 then bump s1 m.task.tenant (if mmaPacking m.op = 8 then 0x60108
      else if mmaPacking m.op = 4 then 0x60110 else 0x60118) 1
      else if m.escState = 2 then bump s1 m.task.tenant 0x60120 1 else s1) :=
    .ite (hrep.trans (reports_bump _ _ _ _)) (.ite (hrep.trans (reports_bump _ _ _ _)) hrep)
  generalize (if m.escState = 1 then _ else _ : State) = s2 at hesc ⊢
  have hcnt (a b c d : Nat) : Reports s (modNode (bump (bump (bump (bump s2 m.task.tenant 0x60128 a) m.task.tenant 0x60130 b)
      m.task.tenant 0x60138 c) m.task.tenant 0x60140 d) m.task.node
      (fun n => { n with esc := n.esc + b2n (m.escState == 1), observed := n.observed + b2n (m.escState == 2) })) :=
    hesc.trans <| .trans (.trans (.trans (.trans (reports_bump _ _ _ _) (reports_bump _ _ _ _)) (reports_bump _ _ _ _))
      (reports_bump _ _ _ _)) (reports_modNode _ _ _)
  refine .ite (.trans ?_ (reports_pushAmax _ _ _)) ?_ <;>
    exact .ite ((hcnt _ _ _ _).trans (onlyHostSide_raiseEv _ _ _ _ _).reports) (hcnt _ _ _ _)

theorem reports_countStalls (s : State) (core : Nat) (m : MmaRun) : Reports s (countStalls s core m) := by
  simp only [countStalls]
  have hcnt (b h : DWord) : Reports s (ctrAdd (ctrAdd (takeFree (takeFree s).2).2 (blkKey 0 core) 0x06 (b.toNat % 65536)
      (some m.task.part)) (blkKey 0 core) 0x07 (h.toNat % 65536) (some m.task.part)) :=
    (((reports_takeFree _).trans (reports_takeFree _)).trans (reports_ctrAdd _ _ _ _ _)).trans (reports_ctrAdd _ _ _ _ _)
  exact .ite (((hcnt _ _).trans (reports_takeFree _)).trans (reports_ctrAdd _ _ _ _ _)) (hcnt _ _)

/-! ### Rows that enter the write buffer (R219) -/

/-- At most `n` stores have entered the write buffer of `core`. -/
structure Entered (core n : Nat) (s t : State) : Prop where
  space : SameSpace s t
  atoms : (execOf t core).atoms = (execOf s core).atoms
  room : (execOf t core).wb.length ≤ (execOf s core).wb.length + n

theorem Entered.trans {core n k : Nat} {s t u : State} (h : Entered core n s t) (h' : Entered core k t u) :
    Entered core (n + k) s u :=
  ⟨h.space.trans h'.space, h'.atoms.trans h.atoms, by have := h.room; have := h'.room; omega⟩

theorem storeBusy_congr {x y : Exec} (h : y.atoms = x.atoms) (ts : List Target) : storeBusy y ts = storeBusy x ts := by
  simp only [storeBusy, h]

/-- A write buffer with fewer than 32 entries takes a store (R219). -/
theorem wbRoom_of_length {x : Exec} (t : Target) (h : x.wb.length < 32) : wbRoom x t = true := by
  have hused : wbUsed x ≤ x.wb.length := List.length_filter_le _ _
  simp only [wbRoom, Bool.or_eq_true, decide_eq_true_eq]
  omega

theorem entered_wbStore (s : State) (core slot part tenant : Nat) (t : Target) (h : Hint) (mask : LineMask) (d : Line)
    (place : Option Nat) : Entered core 1 s (wbStore s core slot part tenant t h mask d place) := by
  simp only [wbStore]
  split
  · refine ⟨⟨rfl, rfl, rfl⟩, ?_, ?_⟩ <;> rw [execOf_modExec]
    · rfl
    · simp [takeSeq, execOf, coreOf]
  · refine ⟨⟨rfl, rfl, rfl⟩, ?_, ?_⟩ <;> rw [execOf_modExec]
    · rfl
    · simp [takeSeq, execOf, coreOf]

theorem enterStores_fits {core : Nat} (ins : List WbIn) (s : State) (h : (execOf s core).wb.length + ins.length ≤ 32) :
    ∃ t, enterStores core ins s = some t ∧ Entered core ins.length s t := by
  induction ins generalizing s with
  | nil => exact ⟨s, rfl, .refl s, rfl, le_rfl⟩
  | cons w r ih =>
    rw [List.length_cons] at h
    have hroom : wbRoom (execOf s core) w.target = true := wbRoom_of_length _ (by omega)
    have hw := entered_wbStore s core w.slot w.part w.tenant w.target w.hint w.mask w.data w.place
    obtain ⟨t, ht, he⟩ := ih (wbStore s core w.slot w.part w.tenant w.target w.hint w.mask w.data w.place)
      (by have := hw.room; omega)
    refine ⟨t, ?_, ?_⟩
    · simp only [enterStores, hroom, if_true]
      exact ht
    · rw [List.length_cons, Nat.add_comm]
      exact hw.trans he

/-- The rows of a destination find room in the write buffer, and no atomic is outstanding on their lines. -/
def RowsFit (s : State) (core : Nat) (m : MmaRun) (rows : List (Nat × List (XVal × Conv))) : Prop :=
  (execOf s core).wb.length + (rows.map (fun r => (rowIns s m r).length)).sum ≤ 32 ∧
    ∀ r ∈ rows, ∀ w ∈ rowIns s m r, storeBusy (execOf s core) [w.target] = false

theorem RowsFit.drop {s : State} {core : Nat} {m : MmaRun} {rows : List (Nat × List (XVal × Conv))} (h : RowsFit s core m rows)
    (k : Nat) : RowsFit s core m (rows.drop k) := by
  refine ⟨le_trans (Nat.add_le_add_left ?_ _) h.1, fun r hr => h.2 r (List.mem_of_mem_drop hr)⟩
  exact List.Sublist.sum_le_sum ((List.drop_sublist k rows).map _) (fun _ _ => Nat.zero_le _)

theorem RowsFit.reports {s t : State} {core : Nat} {m : MmaRun} {rows : List (Nat × List (XVal × Conv))}
    (h : RowsFit s core m rows) (hr : Reports s t) : RowsFit t core m rows := by
  obtain ⟨hroom, hfree⟩ := h
  refine ⟨?_, fun r hm w hw => ?_⟩
  · simpa only [hr.space.rowIns_eq, hr.exec.wb core] using hroom
  · rw [storeBusy_congr (hr.exec.atoms core)]
    exact hfree r hm w (hr.space.rowIns_eq m r ▸ hw)

/-- Rows that fit all enter. -/
theorem writeRows_fits {core : Nat} {m : MmaRun} (rows : List (Nat × List (XVal × Conv))) (n : Nat) (s : State)
    (h : RowsFit s core m rows) : ∃ t, writeRows core m rows n s = (n + rows.length, t) ∧ t.mem = s.mem := by
  induction rows generalizing n s with
  | nil => exact ⟨s, rfl, rfl⟩
  | cons r rest ih =>
    obtain ⟨hroom, hfree⟩ := h
    rw [List.map_cons, List.sum_cons] at hroom
    have hbusy : storeBusy (execOf s core) ((rowIns s m r).map (·.target)) = false := by
      have hr := hfree r List.mem_cons_self
      simp only [storeBusy, List.any_map, List.any_eq_false, List.any_cons, List.any_nil, Bool.or_false] at hr ⊢
      exact fun w hw => by simpa using hr w hw
    obtain ⟨t, ht, he⟩ := enterStores_fits (core := core) (rowIns s m r) s (by omega)
    let t' := modExec t core (fun x => { x with wb := x.wb.map (fun e =>
      if m.slot = noSlot && e.writers.any (fun w => w.1 == noSlot) then { e with nodes := (m.task.node :: e.nodes).dedup } else e) })
    have he' : Entered core (rowIns s m r).length s t' := by
      refine ⟨he.space.trans ⟨rfl, rfl, rfl⟩, ?_, ?_⟩ <;> simp only [t', execOf_modExec]
      · exact he.atoms
      · rw [List.length_map]
        exact he.room
    obtain ⟨u, hu, hmem⟩ := ih (n + 1) t' (by
      refine ⟨?_, fun q hq w hw => ?_⟩
      · have := he'.room
        simp only [he'.space.rowIns_eq]
        omega
      · rw [storeBusy_congr he'.atoms]
        exact hfree q (List.mem_cons_of_mem _ hq) w (he'.space.rowIns_eq m q ▸ hw))
    refine ⟨u, ?_, hmem.trans he'.space.mem⟩
    simp only [writeRows, hbusy, ht, Bool.false_eq_true, if_false]
    refine hu.trans ?_
    rw [List.length_cons]
    congr 1
    omega

/-! ### Shared local memory -/

/-- Values that are put at consecutive keys. -/
theorem alGet_foldl_range {α : Type} (d : α) (f : Nat → α) (a n x : Nat) (l : AL α) :
    alGet d ((List.range n).foldl (fun l k => alPut l (a + k) (f k)) l) x = if a ≤ x ∧ x < a + n then f (x - a) else alGet d l x := by
  induction n with
  | zero => rw [if_neg (by omega)]; rfl
  | succ n ih =>
    rw [List.range_succ, List.foldl_append, List.foldl_cons, List.foldl_nil, alGet_alPut, ih]
    by_cases hx : x = a + n
    · rw [if_pos hx, if_pos (by omega), hx, Nat.add_sub_cancel_left]
    · rw [if_neg hx]
      exact if_congr (by omega) rfl rfl

theorem slmByte_slmWrite (b : Block) (a : Nat) (bs : List Byte) (x : Nat) :
    slmByte (slmWrite b a bs) x = if a ≤ x ∧ x < a + bs.length then bs.getD (x - a) 0 else slmByte b x := by
  simp only [slmByte, slmWrite, slmStore, List.foldl_cons, List.foldl_nil]
  exact alGet_foldl_range _ _ _ _ _ _

/-- Bytes that are written are read back. -/
theorem slmRead_slmWrite (b : Block) (a : Nat) (bs : List Byte) : slmRead (slmWrite b a bs) a bs.length = bs := by
  refine List.ext_getElem (by simp [slmRead]) fun k hk hk' => ?_
  simp only [slmRead, List.getElem_map, List.getElem_range]
  rw [slmByte_slmWrite, if_pos (by omega), Nat.add_sub_cancel_left]
  exact List.getD_eq_getElem _ _ hk'

/-- Other bytes are those of before. -/
theorem slmByte_slmWrite_other {b : Block} {a x : Nat} {bs : List Byte} (h : x < a ∨ a + bs.length ≤ x) :
    slmByte (slmWrite b a bs) x = slmByte b x := by rw [slmByte_slmWrite, if_neg (by omega)]

theorem blocks_slmPut {s : State} {core k : Nat} {b : Block} (a : Nat) (bs : List Byte)
    (h : alFind (execOf s core).blocks k = some b) :
    (execOf (slmPut s core k a bs) core).blocks = alPut (execOf s core).blocks k (slmWrite b a bs) := by
  simp [slmPut, h]

/-! ### The array after the oldest instruction (R49) -/

/-- Instruction `id` has left the array of `core`, whose blocks and memory are those of `s`. -/
structure Leaves (core id : Nat) (s t : State) : Prop where
  mem : t.mem = s.mem
  blocks : (execOf t core).blocks = (execOf s core).blocks
  gone : ∀ q ∈ (execOf t core).mmas, q.id ≠ id

/-- Units that are requested bring back no instruction. -/
theorem Leaves.units {core id : Nat} {s t u : State} (h : Leaves core id s t) (hu : OnlyUnits core t u) : Leaves core id s u := by
  refine ⟨hu.mem.trans h.mem, hu.blocks.trans h.blocks, fun q hq => ?_⟩
  have hid : q.id ∈ (execOf t core).mmas.map (·.id) := hu.ids ▸ List.mem_map_of_mem hq
  obtain ⟨p, hp, he⟩ := List.mem_map.mp hid
  exact he ▸ h.gone p hp

@[simp] theorem execOf_removeMma (s : State) (core id : Nat) :
    execOf (removeMma s core id) core =
      { execOf s core with mmas := (execOf s core).mmas.filter (fun m => m.id != id) } := by
  simp [removeMma, leaveTurns]

theorem leaves_removeMma (s : State) (core id : Nat) : Leaves core id s (removeMma s core id) :=
  ⟨rfl, by rw [execOf_removeMma], fun q hq => by
    rw [execOf_removeMma] at hq
    simpa using (List.mem_filter.mp hq).2⟩

/-- The step that ends there leaves the instruction out too. -/
theorem Leaves.completes {core id : Nat} {s t u : State} (h : Leaves core id t u) :
    ∃ r, Machine.completes s u = .next r ∧ Leaves core id t r := ⟨_, rfl, h.mem, h.blocks, h.gone⟩

/-- A chained instruction that comes next takes the result over (R49). -/
def chainNext (s : State) (core : Nat) (rest : List MmaRun) (c : List (List Nat)) : State :=
  match rest.head? with
  | some q => if q.chained then modMma s core q.id (fun q => { q with c := c, chained := false }) else s
  | none => s

theorem leaveArray_eq (s : State) (core : Nat) (m : MmaRun) (rest : List MmaRun) (rows : List (Nat × List (XVal × Conv))) :
    leaveArray s core m rest rows = requestTurns (removeMma (modExec (chainNext s core rest ((List.range m.len).map (fun v =>
      (((rows.find? (fun r => r.1 == v)).map (·.2)).getD []).map (·.2.bits)))) core
      (fun x => { x with active := x.shadow.orElse (fun _ => x.active), shadow := none })) core m.id) core := rfl

theorem chainNext_keeps (s : State) (core : Nat) (rest : List MmaRun) (c : List (List Nat)) :
    (chainNext s core rest c).mem = s.mem ∧ (execOf (chainNext s core rest c) core).blocks = (execOf s core).blocks := by
  unfold chainNext
  cases rest.head? with
  | none => exact ⟨rfl, rfl⟩
  | some q => cases hq : q.chained <;> simp [hq]

theorem leaves_leaveArray (s : State) (core : Nat) (m : MmaRun) (rest : List MmaRun) (rows : List (Nat × List (XVal × Conv))) :
    Leaves core m.id s (leaveArray s core m rest rows) := by
  rw [leaveArray_eq]
  refine .units ?_ (onlyUnits_requestTurns _ _)
  obtain ⟨hmem, hblocks⟩ := chainNext_keeps s core rest ((List.range m.len).map (fun v =>
    (((rows.find? (fun r => r.1 == v)).map (·.2)).getD []).map (·.2.bits)))
  have hl := leaves_removeMma (modExec (chainNext s core rest ((List.range m.len).map (fun v =>
    (((rows.find? (fun r => r.1 == v)).map (·.2)).getD []).map (·.2.bits)))) core
      (fun x => { x with active := x.shadow.orElse (fun _ => x.active), shadow := none })) core m.id
  exact ⟨hl.mem.trans hmem, hl.blocks.trans (by rw [execOf_modExec]; exact hblocks), hl.gone⟩

/-! ### The last drain write -/

/-- The rows of an instruction that are written, each with its rounded elements. -/
def drainRows (m : MmaRun) : List (Nat × List (XVal × Conv)) := (liveRows m).map (fun v => (v, outRow m v))

/-- The report of an instruction at its first drain write. -/
def drainReport (s : State) (core : Nat) (m : MmaRun) : State :=
  countStalls (if m.depth = 0 then s else tileReport s core m (drainRows m)) core m

theorem reports_drainReport (s : State) (core : Nat) (m : MmaRun) : Reports s (drainReport s core m) :=
  .trans (.ite (.refl s) (reports_tileReport s core m _)) (reports_countStalls _ core m)

theorem deliverEpi_mem (s : State) (core : Nat) (m : MmaRun) (rows : List (Nat × List (XVal × Conv))) :
    (deliverEpi s core m rows).mem = s.mem := by
  unfold deliverEpi
  split <;> rfl

/-- Rows of shared local memory go to the block of the instruction's group. -/
theorem writeDest_slm {s : State} {core : Nat} {m : MmaRun} {g : Group} (rows : List (Nat × List (XVal × Conv)))
    (h : (descOf m.dst).slm = true) (hg : alFind (execOf s core).groups m.slot = some g) :
    writeDest s core m rows =
      (true, rows.foldl (fun s r => slmPut s core g.block (rowStore m r).1 (rowStore m r).2) s) := by
  simp only [writeDest, h, hg, if_true]

theorem writeDest_slm_mem {s : State} {core : Nat} {m : MmaRun} (rows : List (Nat × List (XVal × Conv)))
    (h : (descOf m.dst).slm = true) : ∃ t, writeDest s core m rows = (true, t) ∧ t.mem = s.mem := by
  simp only [writeDest, h, if_true]
  refine ⟨_, rfl, ?_⟩
  split
  · exact List.foldlRecOn (motive := fun t : State => t.mem = s.mem) _ _ rfl fun t ht r _ => ht
  · rfl

/-- Rows of memory all enter the write buffer when they fit. -/
theorem writeDest_fits {s : State} {core : Nat} {m : MmaRun} {rows : List (Nat × List (XVal × Conv))}
    (h : (descOf m.dst).slm = false) (hfit : RowsFit s core m rows) :
    ∃ t, writeDest s core m rows = (true, t) ∧ t.mem = s.mem := by
  obtain ⟨t, ht, hmem⟩ := writeRows_fits (rows.drop m.rowsDone) 0 s (hfit.drop m.rowsDone)
  rw [Nat.zero_add] at ht
  refine ⟨modMma t core m.id (fun q => { q with rowsDone := q.rowsDone + (rows.drop m.rowsDone).length }), ?_, hmem⟩
  simp only [writeDest, h, ht, Bool.false_eq_true, if_false, decide_true]

section
variable {core : Nat} {s : State} {m : MmaRun} {rest : List MmaRun}
  (hfirst : (execOf s core).mmas = m :: rest) (hphase : m.phase = .drain) (hneed : m.need = [])
include hfirst hphase hneed

/-- The oldest instruction, once it drains and needs no unit, delivers its rows or writes its destination, and leaves. -/
theorem mmaDrainWrite_eq :
    exec (.mmaDrainWrite core m.id) s = completes s (
      if m.op.epi then leaveArray (deliverEpi (drainReport s core m) core m (drainRows m)) core m rest (drainRows m)
      else match writeDest (if m.rowsDone = 0 then drainReport s core m else s) core m (drainRows m) with
        | (true, t) => leaveArray t core m rest (drainRows m)
        | (false, t) =>
          if ((execOf t core).mmas.find? (fun q => q.id == m.id)).any (fun q => m.rowsDone < q.rowsDone) then t else s) := by
  change execMmaDrainWrite core m.id s = _
  simp [execMmaDrainWrite, hfirst, hphase, hneed]
  rfl

/-- A destination that takes every row is written before the instruction leaves. -/
theorem mmaDrainWrite_written {t : State} (hepi : m.op.epi = false)
    (hw : writeDest (if m.rowsDone = 0 then drainReport s core m else s) core m (drainRows m) = (true, t)) :
    ∃ r, exec (.mmaDrainWrite core m.id) s = .next r ∧ Leaves core m.id t r := by
  rw [mmaDrainWrite_eq hfirst hphase hneed, hw, hepi]
  exact (leaves_leaveArray t core m rest (drainRows m)).completes

/-- The oldest instruction leaves the array at its last drain write (R49). -/
theorem mmaDrainWrite_leaves (hfit : m.op.epi = false → (descOf m.dst).slm = false → RowsFit s core m (drainRows m)) :
    ∃ r, exec (.mmaDrainWrite core m.id) s = .next r ∧ (∀ q ∈ (execOf r core).mmas, q.id ≠ m.id) ∧ r.mem = s.mem := by
  cases hepi : m.op.epi with
  | true =>
    obtain ⟨r, hr, hl⟩ := (leaves_leaveArray (deliverEpi (drainReport s core m) core m (drainRows m)) core m rest
      (drainRows m)).completes (s := s)
    refine ⟨r, ?_, hl.gone, hl.mem.trans ((deliverEpi_mem _ _ _ _).trans (reports_drainReport s core m).space.mem)⟩
    rw [mmaDrainWrite_eq hfirst hphase hneed, hepi, if_pos rfl, hr]
  | false =>
    have hrep : Reports s (if m.rowsDone = 0 then drainReport s core m else s) := .ite (reports_drainReport s core m) (.refl s)
    have hwrite : ∃ t, writeDest (if m.rowsDone = 0 then drainReport s core m else s) core m (drainRows m) = (true, t) ∧
        t.mem = s.mem := by
      cases hslm : (descOf m.dst).slm with
      | true =>
        obtain ⟨t, ht, hmem⟩ := writeDest_slm_mem (drainRows m) hslm
        exact ⟨t, ht, hmem.trans hrep.space.mem⟩
      | false =>
        obtain ⟨t, ht, hmem⟩ := writeDest_fits hslm ((hfit hepi hslm).reports hrep)
        exact ⟨t, ht, hmem.trans hrep.space.mem⟩
    obtain ⟨t, ht, hmem⟩ := hwrite
    obtain ⟨r, hr, hl⟩ := mmaDrainWrite_written hfirst hphase hneed hepi ht
    exact ⟨r, hr, hl.gone, hl.mem.trans hmem⟩

/-- A destination of one row in shared local memory holds the rounded row (R83). -/
theorem mmaDrainWrite_row {r : State} {g : Group} {b : Block} (hr : exec (.mmaDrainWrite core m.id) s = .next r)
    (hepi : m.op.epi = false) (hslm : (descOf m.dst).slm = true) (hg : alFind (execOf s core).groups m.slot = some g)
    (hb : alFind (execOf s core).blocks g.block = some b) (hlen : m.len = 1) (hlive : m.lanes.getLsbD 0 = true) :
    alFind (execOf r core).blocks g.block =
      some (slmWrite b (descOf m.dst).base (packElems (elemBits m.op.oFmt) ((outRow m 0).map (·.2.bits)))) := by
  have hrep : Reports s (if m.rowsDone = 0 then drainReport s core m else s) := .ite (reports_drainReport s core m) (.refl s)
  have hrows : drainRows m = [(0, outRow m 0)] := by simp [drainRows, liveRows, hlen, rowLive, hlive]
  have hw := writeDest_slm (drainRows m) hslm ((hrep.exec.groups core) ▸ hg)
  obtain ⟨r', hr', hl⟩ := mmaDrainWrite_written hfirst hphase hneed hepi hw
  obtain rfl : r' = r := Host.Outcome.next.inj (hr'.symm.trans hr)
  have hb' : alFind (execOf (if m.rowsDone = 0 then drainReport s core m else s) core).blocks g.block = some b := by
    rw [hrep.exec.blocks core, hb]
  rw [hl.blocks, hrows, List.foldl_cons, List.foldl_nil, blocks_slmPut _ _ hb',
    alFind_alPut_self]
  simp only [rowStore, Nat.zero_mul, Nat.add_zero]

end

end Sys2Proof.Machine
end

section
/-! Parity errors in the array (R475, Table 17.1): re-execution, and the fault of a second detection. -/

namespace Sys2Proof.Machine

/-- The step that ends there keeps that work too. -/
theorem KeepsWork.completes {s t u : State} (h : KeepsWork t u) : ∃ r, Machine.completes s u = .next r ∧ KeepsWork t r :=
  ⟨_, rfl, h.trans (.of_eq rfl rfl rfl)⟩

theorem arrayParity_found {core id : Nat} (row : Nat) {s : State} {m : MmaRun}
    (hfind : (execOf s core).mmas.find? (fun q => q.id == id) = some m) :
    exec (.arrayParityReexec core id row) s = completes s (
      if m.reexec then mmaFault (uncorrectedErr (modMma s core id (fun x => { x with parity2 := true }))
        (some (arrayRes core row)) [m.task.tenant]) core m .memPoison
      else correctedErr (modMma s core id (fun x => { x with reexec := true })) (some (arrayRes core row)) 1) := by
  change execArrayParityReexec core id row s = _
  simp only [execArrayParityReexec, hfind]

/-- A first detection marks the instruction for re-execution and changes no other instruction and no cell of memory. -/
theorem arrayParity_first {core id : Nat} (row : Nat) {s : State} {m : MmaRun}
    (hfind : (execOf s core).mmas.find? (fun q => q.id == id) = some m) (hre : m.reexec = false) :
    ∃ r, exec (.arrayParityReexec core id row) s = .next r ∧ r.mem.mem = s.mem.mem ∧
      (execOf r core).mmas = (execOf s core).mmas.map (fun x => if x.id = id then { x with reexec := true } else x) := by
  obtain ⟨r, hr, hk⟩ := (keepsWork_correctedErr (modMma s core id (fun x => { x with reexec := true }))
    (some (arrayRes core row)) 1).completes (s := s)
  refine ⟨r, ?_, hk.cells, (hk.exec.mmas core).trans (by rw [execOf_modMma])⟩
  rw [arrayParity_found row hfind, hre]
  exact hr

/-! ### Instructions and stores that are squashed (R49) -/

/-- `t` keeps the groups and the blocks of `core` and the front end of `s`, and has no instruction that `s` has not. -/
structure Squashes (core : Nat) (s t : State) : Prop where
  groups : (execOf t core).groups = (execOf s core).groups
  blocks : (execOf t core).blocks = (execOf s core).blocks
  fe : t.fe = s.fe
  sub : ∀ q ∈ (execOf t core).mmas, q ∈ (execOf s core).mmas

namespace Squashes
variable {core : Nat} {s t u : State}

theorem refl (core : Nat) (s : State) : Squashes core s s := ⟨rfl, rfl, rfl, fun _ h => h⟩

theorem trans (h : Squashes core s t) (h' : Squashes core t u) : Squashes core s u :=
  ⟨h'.groups.trans h.groups, h'.blocks.trans h.blocks, h'.fe.trans h.fe, fun q hq => h.sub q (h'.sub q hq)⟩

end Squashes

theorem squashes_removeMma (s : State) (core id : Nat) : Squashes core s (removeMma s core id) := by
  refine ⟨?_, ?_, rfl, fun q hq => ?_⟩
  · rw [execOf_removeMma]
  · rw [execOf_removeMma]
  · rw [execOf_removeMma] at hq
    exact List.mem_of_mem_filter hq

/-- The instruction that faults, and the younger ones of its group, out of the array. -/
def squashed (s : State) (core : Nat) (m : MmaRun) : State :=
  ((execOf s core).mmas.filter (youngerThan m)).foldl (fun s q => removeMma s core q.id) (removeMma s core m.id)

theorem squashes_squashed (s : State) (core : Nat) (m : MmaRun) :
    Squashes core s (squashed s core m) ∧ ∀ q ∈ (execOf (squashed s core m) core).mmas, q.id ≠ m.id := by
  have hyounger : Squashes core (removeMma s core m.id) (squashed s core m) :=
    foldl_related (R := Squashes core) (Squashes.refl core) Squashes.trans (fun s (q : MmaRun) => squashes_removeMma s core q.id) _ _
  exact ⟨(squashes_removeMma s core m.id).trans hyounger,
    fun q hq => (leaves_removeMma s core m.id).gone q (hyounger.sub q hq)⟩

/-- The younger stores, atomics and matrix instructions of the faulting group are dropped (R49). -/
def dropYounger (s : State) (core id slot : Nat) : State :=
  modExec s core (fun x => { x with
    wb := x.wb.filterMap (fun e => e.without slot id)
    atoms := x.atoms.filter (fun a => !(a.slot == slot && decide (id < a.id)))
    mmas := x.mmas.filter (fun m => !(m.slot == slot && decide (id < m.id))) })

theorem squashes_dropYounger (s : State) (core id slot : Nat) : Squashes core s (dropYounger s core id slot) := by
  refine ⟨?_, ?_, rfl, fun q hq => ?_⟩
  · rw [dropYounger, execOf_modExec]
  · rw [dropYounger, execOf_modExec]
  · rw [dropYounger, execOf_modExec] at hq
    exact List.mem_of_mem_filter hq

theorem mmaFault_of_group {s : State} {core : Nat} {m : MmaRun} {g : Group} (f : DevFault)
    (hg : alFind (execOf (squashed s core m) core).groups m.slot = some g) :
    mmaFault s core m f = raiseFaultAt (dropYounger (squashed s core m) core m.id m.slot) core m.slot m.pc m.lanes f := by
  change (if (alFind (execOf (squashed s core m) core).groups m.slot).isSome then _ else _) = _
  rw [hg]
  rfl

/-- The instructions of a core when a block ends are those of before, by number. -/
theorem ids_endBlock {s : State} {core k : Nat} {b : Block} (h : alFind (execOf s core).blocks k = some b) :
    (execOf (endBlock s core k) core).mmas.map (·.id) = (execOf s core).mmas.map (·.id) := by
  simp only [endBlock, h, execOf_modNode, execOf_modExec, List.map_map]
  refine List.map_congr_left fun m _ => ?_
  simp only [Function.comp_apply]
  split <;> rfl

/-- A fault of an instruction whose group has its block on the core: the instruction leaves the array, and the block ends with
the fault at its node (R187). -/
theorem mmaFault_ends {s : State} {core : Nat} {m : MmaRun} {g : Group} {b : Block} {n : Node} (f : DevFault)
    (hg : alFind (execOf s core).groups m.slot = some g) (hb : alFind (execOf s core).blocks g.block = some b)
    (hn : alFind s.fe.nodes b.task.node = some n) (hfail : n.fail = none) :
    (∀ q ∈ (execOf (mmaFault s core m f) core).mmas, q.id ≠ m.id) ∧
      (execOf (mmaFault s core m f) core).blocks = alDel (execOf s core).blocks g.block ∧
      ∃ n', alFind (mmaFault s core m f).fe.nodes b.task.node = some n' ∧
        n'.fail = some { faultInfo core m.pc m.lanes f with node := n.idx } := by
  obtain ⟨hsq, hgone⟩ := squashes_squashed s core m
  rw [mmaFault_of_group f (hsq.groups ▸ hg)]
  have hdrop := squashes_dropYounger (squashed s core m) core m.id m.slot
  have hdgone : ∀ q ∈ (execOf (dropYounger (squashed s core m) core m.id m.slot) core).mmas, q.id ≠ m.id :=
    fun q hq => hgone q (hdrop.sub q hq)
  have ht := hsq.trans hdrop
  generalize dropYounger (squashed s core m) core m.id m.slot = t at ht hdgone
  rw [raiseFaultAt_of_group m.pc m.lanes f (ht.groups ▸ hg) (ht.blocks ▸ hb)]
  have hk := keepsWork_faultNoted t core m.pc b.task.tenant b.task.tag f
  generalize faultNoted t core m.pc b.task.tenant b.task.tag f = u at hk
  have hub : (execOf u core).blocks = (execOf s core).blocks := (hk.exec.blocks core).trans ht.blocks
  obtain ⟨-, hblocks, n', hn', hf', -⟩ := endBlock_failNode (faultInfo core m.pc m.lanes f) (hub ▸ hb)
    ((hk.fe.trans ht.fe) ▸ hn) hfail
  refine ⟨fun q hq => ?_, hblocks.trans (by rw [hub]), n', hn', hf'⟩
  have hids := ids_endBlock (s := failNode u b.task.node (faultInfo core m.pc m.lanes f)) (core := core)
    (k := g.block) (b := b) (by rw [execOf_failNode, hub, hb])
  have hid : q.id ∈ (execOf u core).mmas.map (·.id) := by
    rw [← execOf_failNode u b.task.node (faultInfo core m.pc m.lanes f), ← hids]
    exact List.mem_map_of_mem hq
  obtain ⟨p, hp, he⟩ := List.mem_map.mp hid
  exact he ▸ hdgone p (hk.exec.mmas core ▸ hp)

/-- A second detection faults with MEM_POISON at the instruction. -/
theorem arrayParity_second {core id : Nat} (row : Nat) {s : State} {m : MmaRun} {g : Group} {b : Block} {n : Node}
    (hfind : (execOf s core).mmas.find? (fun q => q.id == id) = some m) (hre : m.reexec = true)
    (hg : alFind (execOf s core).groups m.slot = some g) (hb : alFind (execOf s core).blocks g.block = some b)
    (hn : alFind s.fe.nodes b.task.node = some n) (hfail : n.fail = none) :
    ∃ r n', exec (.arrayParityReexec core id row) s = .next r ∧ (∀ q ∈ (execOf r core).mmas, q.id ≠ id) ∧
      (execOf r core).blocks = alDel (execOf s core).blocks g.block ∧
      alFind r.fe.nodes b.task.node = some n' ∧
      n'.fail = some { faultInfo core m.pc m.lanes .memPoison with node := n.idx } := by
  have hid : m.id = id := by simpa using List.find?_some hfind
  have hk := keepsWork_uncorrectedErr (modMma s core id (fun x => { x with parity2 := true })) (some (arrayRes core row))
    [m.task.tenant]
  rw [arrayParity_found row hfind, hre, if_pos rfl]
  generalize uncorrectedErr _ (some (arrayRes core row)) [m.task.tenant] = t at hk
  have htg : (execOf t core).groups = (execOf s core).groups := (hk.exec.groups core).trans (by rw [execOf_modMma])
  have htb : (execOf t core).blocks = (execOf s core).blocks := (hk.exec.blocks core).trans (by rw [execOf_modMma])
  obtain ⟨hgone, hblocks, n', hn', hf'⟩ := mmaFault_ends .memPoison (htg ▸ hg) (htb ▸ hb) (hk.fe ▸ hn) hfail
  exact ⟨_, n', rfl, hid ▸ hgone, hblocks.trans (by rw [htb]), hn', hf'⟩

end Sys2Proof.Machine
end

section
/-! The obligation of the matrix instructions that have entered the array. -/

namespace Sys2Proof.Machine

/-- Settles O27: what units, reports and error records change is framed once (`OnlyUnits`, `Reports`, `KeepsWork`), so that the
instruction of each of the four steps is found again in the state that the step leaves. -/
theorem matrixInstructionsRunToTheirEnd : Obligations.MatrixInstructionsRunToTheirEnd := by
  unfold Obligations.MatrixInstructionsRunToTheirEnd
  refine ⟨⟨fun cluster slot core id s s1 t o q sq => turnUnitReady_delivers, ?_, ?_⟩, fun core id row s m hfind => ⟨?_, ?_⟩⟩
  · intro core id s m hfind hphase hneed hclip hflush hesc hpol clip flush e hit
    have h : AwaitsEval s core id m := ⟨hfind, hphase, hneed, hclip, hflush⟩
    refine ⟨fun hhit => escalationEval_keeps h hesc hpol hhit, fun hover ho hsrc hturn src str s1 s2 h1 h2 => ?_,
      fun hover ho hsrc hturn hN => escalationEval_collects h hesc hpol hover ho hsrc hturn hN⟩
    obtain ⟨r, m', hrun, hf, rfl⟩ := escalationEval_steps h hesc hpol hover ho hsrc hturn h1 h2
    exact ⟨r, _, hrun, hf, escalated_operands m src str⟩
  · rintro core id s m rest hfirst rfl hphase hneed hfit
    obtain ⟨r, hr, hgone, hmem⟩ := mmaDrainWrite_leaves hfirst hphase hneed fun hepi hslm => by
      simpa [RowsFit, drainRows, Function.comp_def] using hfit hepi hslm
    refine ⟨r, hr, hgone, congrArg _ hmem, fun g b hepi hslm hg hb hlen hlive => ?_⟩
    exact ⟨_, mmaDrainWrite_row hfirst hphase hneed hr hepi hslm hg hb hlen hlive, slmRead_slmWrite b _ _,
      fun x hx => slmByte_slmWrite_other hx⟩
  · exact arrayParity_first row hfind
  · exact fun hre g b n hg hb hn hfail => arrayParity_second row hfind hre hg hb hn hfail

end Sys2Proof.Machine
end

section
/-! The 32-bit lane instructions (R99, R163, R165): each is one lane operation of up to three sources, whose results stand in
its destination once the path has moved on. -/

namespace Sys2Proof.Machine

/-! ### Values of a lane -/

/-- A minimum is the first operand where that is less under the type, otherwise the second; FP32 has its own order. -/
theorem pickLane_min {ty : LaneTy} (hty : ty ≠ .f32) (x y : Word) :
    pickLane ty false x y = if laneInt ty x < laneInt ty y then x else y := by
  cases ty with
  | f32 => exact absurd rfl hty
  | s32 | u32 => simp [pickLane]

/-- A maximum is the second operand where the first is less under the type, otherwise the first. -/
theorem pickLane_max {ty : LaneTy} (hty : ty ≠ .f32) (x y : Word) :
    pickLane ty true x y = if laneInt ty x < laneInt ty y then y else x := by
  cases ty with
  | f32 => exact absurd rfl hty
  | s32 | u32 => simp only [pickLane, Bool.not_true, Bool.false_eq_true, eq_iff_iff, iff_false, ite_not]

theorem laneInt_u32_lt (x y : Word) : laneInt .u32 x < laneInt .u32 y ↔ x.toNat < y.toNat := Int.ofNat_lt

theorem pickLane_u32_min (x y : Word) : pickLane .u32 false x y = if x.toNat < y.toNat then x else y := by
  simp only [pickLane_min (ty := .u32) nofun, laneInt_u32_lt]

theorem pickLane_u32_max (x y : Word) : pickLane .u32 true x y = if x.toNat < y.toNat then y else x := by
  simp only [pickLane_max (ty := .u32) nofun, laneInt_u32_lt]

theorem shlLane_eq (x y : Word) : shlLane x y = if y.toNat < 32 then x <<< y.toNat else Config.wideShift x y := by
  simp only [shlLane, ← Nat.not_lt, ite_not]

theorem shrLane_s32 (x y : Word) :
    shrLane .s32 x y = if y.toNat < 32 then x.sshiftRight y.toNat else Config.wideShift x y := by
  simp only [shrLane, ← Nat.not_lt, ite_not]

theorem shrLane_of_ne_s32 {ty : LaneTy} (hty : ty ≠ .s32) (x y : Word) :
    shrLane ty x y = if y.toNat < 32 then x >>> y.toNat else Config.wideShift x y := by
  cases ty with
  | s32 => exact absurd rfl hty
  | u32 | f32 => simp only [shrLane, ← Nat.not_lt, ite_not]

/-! ### The lane operation of an instruction -/

/-- A lane operation of two sources is one of three whose result leaves the third out. -/
theorem completes_lane2 {f g : Word → Word → Word} (h : ∀ x y, f x y = g x y) (s : State) (i : Iss) (d a b : Opd) :
    completes s (lane2 s i d a b f) = completes s (lane3 s i d a b .none (fun x y _ => g x y)) := by
  rw [show f = g from funext fun x => funext (h x)]
  rfl

/-- A 32-bit lane instruction runs the lane operation of its meaning. -/
theorem exec_laneSem {ins : Instr} {m : LaneSem} (h : laneSem ins = some m) (s : State) :
    exec ins s = completes s (lane3 s m.i m.d m.a m.b m.c m.f) := by
  cases ins with
  | add i ty | sub i ty | mul i ty => cases ty <;> cases h <;> rfl
  | min i ty =>
    cases ty with
    | s32 => cases h; exact completes_lane2 (pickLane_min (ty := .s32) nofun) ..
    | u32 => cases h; exact completes_lane2 pickLane_u32_min ..
    | f32 => cases h; rfl
  | max i ty =>
    cases ty with
    | s32 => cases h; exact completes_lane2 (pickLane_max (ty := .s32) nofun) ..
    | u32 => cases h; exact completes_lane2 pickLane_u32_max ..
    | f32 => cases h; rfl
  | shl => cases h; exact completes_lane2 shlLane_eq ..
  | shr i ty =>
    cases ty with
    | s32 => cases h; exact completes_lane2 shrLane_s32 ..
    | u32 => cases h; exact completes_lane2 (shrLane_of_ne_s32 (ty := .u32) nofun) ..
    | f32 => cases h; exact completes_lane2 (shrLane_of_ne_s32 (ty := .f32) nofun) ..
  | mov i d src =>
    cases src with
    | opd a => cases h; rfl
    | special z => cases h
  | fma | madS32 | setp | and | or | xor | sel | expF32 | exp2F32 | log2F32 | rcpF32 | rsqF32 | sqrtF32 => cases h; rfl
  | _ => cases h

/-! ### Completion -/

/-- A path that moves on with its paths otherwise untouched stands past its instruction. -/
theorem moved_advance (s : State) {c : Ctx} {g : Group} (h : g.paths = c.g.paths) : Moved c (advance s c g) c.next := by
  simp only [Moved, seen_advance, movePath_paths, h]

/-- A lane operation that issues writes its results and moves the path. -/
theorem lane3_completes {s : State} {i : Iss} {c : Ctx} {d a b e : Opd} (h : Issues s i c (vRegs false d) [a, b, e] [])
    (f : Word → Word → Word → Word) :
    ∃ t, completes s (lane3 s i d a b e f) = .next t ∧
      Wrote c t d (fun l => f (opdLane c a l) (opdLane c b l) (opdLane c e l)) ∧ Moved c t c.next := by
  rw [lane3, issueWith_issues h]
  exact ⟨_, rfl, wrote_advance .., moved_advance _ (writeD_paths ..)⟩

/-- Settles O7: a lane instruction is the lane operation of its meaning (`exec_laneSem`), which writes its results and moves the
path (`lane3_completes`). -/
theorem laneInstructionsCompleteWithTheirResults : Obligations.LaneInstructionsCompleteWithTheirResults := by
  intro ins m s c hm h
  rw [exec_laneSem hm]
  exact lane3_completes h m.f

end Sys2Proof.Machine
end

section
/-! Conversions, moves of special values and FP64 instructions (R99, R166, R191, R195): destinations of either width. -/

namespace Sys2Proof.Machine

/-! ### Destinations of either width -/

/-- Lane values written to a destination of 64 bits, or their low halves to one of 32. -/
def writeLanes (wide : Bool) (s : State) (g : Group) (d : Opd) (act : List Nat) (f : Nat → DWord) : Group :=
  if wide then writeD64 s g d (act.map (fun l => (l, f l))) else writeD s g d (act.map (fun l => (l, (f l).setWidth 32)))

/-- What a destination of either width holds after that. -/
def WroteLanes (wide : Bool) (c : Ctx) (t : State) (d : Opd) (f : Nat → DWord) : Prop :=
  if wide then Wrote64 c t d f else Wrote c t d (fun l => (f l).setWidth 32)

@[simp] theorem writeLanes_paths (wide : Bool) (s : State) (g : Group) (d : Opd) (act : List Nat) (f : Nat → DWord) :
    (writeLanes wide s g d act f).paths = g.paths := by
  unfold writeLanes
  split
  · exact writeD64_paths ..
  · exact writeD_paths ..

@[simp] theorem writeLanes_srCount (wide : Bool) (s : State) (g : Group) (d : Opd) (act : List Nat) (f : Nat → DWord) :
    (writeLanes wide s g d act f).srCount = g.srCount := by
  unfold writeLanes
  split
  · exact writeD64_srCount ..
  · exact writeD_srCount ..

/-- A path that moves on after lane values were written to a destination has written them, whichever group `g` they were written
to: `advance` puts that group in the place of the one that the context holds. -/
theorem wroteLanes_advance (wide : Bool) (s s0 : State) (c : Ctx) (g : Group) (d : Opd) (f : Nat → DWord)
    (hl : ∀ l ∈ c.act, l < 32) : WroteLanes wide c (advance s c (writeLanes wide s0 g d c.act f)) d f := by
  cases wide with
  | true => exact wrote64_advance s s0 { c with g := g } d f hl
  | false => exact wrote_advance s s0 { c with g := g } d (fun l => (f l).setWidth 32)

/-- A command that leaves the issuing group with lane values written and its path moved on completes with them. -/
theorem writeLanes_completes (s s' s0 : State) {c : Ctx} {g : Group} (hg : g.paths = c.g.paths) (hl : ∀ l ∈ c.act, l < 32)
    (wide : Bool) (d : Opd) (f : Nat → DWord) :
    ∃ t, completes s (advance s' c (writeLanes wide s0 g d c.act f)) = .next t ∧ Moved c t c.next ∧
      (c.seen t).g.srCount = g.srCount ∧ WroteLanes wide c t d f := by
  refine ⟨_, rfl, moved_advance _ ((writeLanes_paths ..).trans hg), ?_, wroteLanes_advance wide s' s0 c g d f hl⟩
  change (c.seen (advance s' c _)).g.srCount = _
  rw [seen_advance, movePath_srCount, writeLanes_srCount]

/-! ### Conversions -/

theorem cvtWide_eq (ty : CvtTy) : cvtWide ty = cvtIsWide ty := by cases ty <;> rfl

/-- A group after a conversion that rounds as `r`: .SR counts as one stochastic instruction (R94). -/
def Group.counted (g : Group) (r : LaneRnd) : Group := { g with srCount := g.srCount + (if r = .sr then 1 else 0) }

theorem ite_sr_eq_counted (g : Group) (r : LaneRnd) :
    (if (r == .sr) = true then { g with srCount := g.srCount + 1 } else g) = g.counted r := by cases r <;> rfl

theorem writeD_counted (s : State) (g : Group) (d : Opd) (vals : List (Nat × Word)) (r : LaneRnd) :
    (writeD s g d vals).counted r = writeD s (g.counted r) d vals := by
  cases d with
  | u n => simp only [writeD]; split <;> rfl
  | _ => rfl

theorem writeD64_counted (s : State) (g : Group) (d : Opd) (vals : List (Nat × DWord)) (r : LaneRnd) :
    (writeD64 s g d vals).counted r = writeD64 s (g.counted r) d vals := by
  cases d with
  | u n => simp only [writeD64]; split <;> rfl
  | _ => rfl

theorem writeLanes_counted (wide : Bool) (s : State) (g : Group) (d : Opd) (act : List Nat) (f : Nat → DWord) (r : LaneRnd) :
    (writeLanes wide s g d act f).counted r = writeLanes wide s (g.counted r) d act f := by
  cases wide with
  | true => exact writeD64_counted ..
  | false => exact writeD_counted ..

/-- The converted value of a lane (R99), with the random value of a stochastic conversion (log entry 18). -/
def cvtResult (s : State) (c : Ctx) (dty sty : CvtTy) (r : LaneRnd) (sm : SatMode) (a : Opd) (l : Nat) : DWord :=
  cvtLane dty sty (laneRnd ((Config.fresh (s.freeCtr + 2 + l)).toNat % 65536) r) sm
    (if cvtIsWide sty then opdLane64 c a l else (opdLane c a l).setWidth 64)

/-- A conversion that issues writes the converted values and counts itself, whatever free values it uses. -/
theorem execCvt_issues {s : State} {i : Iss} {c : Ctx} {dty sty : CvtTy} {d a : Opd} (r : LaneRnd) (sm : SatMode)
    (hu : (dty = .f64 ∨ sty = .f64) → s.units.testBit 2 = true)
    (h : Issues s i c (vRegs (cvtIsWide dty) d) (if cvtIsWide sty then [] else [a]) (if cvtIsWide sty then [a] else [])) :
    ∃ s', execCvt i dty sty r sm d a s = completes s (advance s' c
      (writeLanes (cvtIsWide dty) (issued s i c) (c.g.counted r) d c.act (cvtResult s c dty sty r sm a))) := by
  have hlanes : ¬((dty == .f64 || sty == .f64) && f64Absent s) = true := by
    simpa [f64Absent] using hu
  simp only [execCvt, if_neg hlanes, cvtWide_eq, issueWith_issues h, ite_sr_eq_counted, ← writeLanes_counted]
  simp only [writeLanes, cvtResult, cvtRandom, issued_freeCtr]
  exact ⟨_, rfl⟩

/-- A conversion that issues completes with the converted values, counted where it is stochastic. -/
theorem cvt_completes {s : State} {i : Iss} {c : Ctx} {dty sty : CvtTy} {d a : Opd} (r : LaneRnd) (sm : SatMode)
    (hu : (dty = .f64 ∨ sty = .f64) → s.units.testBit 2 = true)
    (h : Issues s i c (vRegs (cvtIsWide dty) d) (if cvtIsWide sty then [] else [a]) (if cvtIsWide sty then [a] else [])) :
    ∃ t, exec (.cvt i dty sty r sm d a) s = .next t ∧ Moved c t c.next ∧ (c.seen t).g.srCount = (c.g.counted r).srCount ∧
      WroteLanes (cvtIsWide dty) c t d (cvtResult s c dty sty r sm a) := by
  obtain ⟨s', hs'⟩ := execCvt_issues r sm hu h
  obtain ⟨t, ht, hwrote⟩ := writeLanes_completes s s' (issued s i c) (g := c.g.counted r) rfl (act_lt h.1) (cvtIsWide dty) d
    (cvtResult s c dty sty r sm a)
  exact ⟨t, hs'.trans ht, hwrote⟩

/-! ### Special values and FP64 -/

/-- A move of a special value that issues writes it and moves the path. -/
theorem mov_special_completes {s : State} {i : Iss} {c : Ctx} {d : Opd} {z : Special}
    (h : Issues s i c (vRegs (specialWide z) d) [] []) :
    ∃ t, exec (.mov i d (.special z)) s = .next t ∧ Moved c t c.next ∧
      WroteLanes (specialWide z) c t d (fun l => BitVec.ofNat 64 (specialVal c l z)) := by
  obtain ⟨t, ht, hmoved, -, hwrote⟩ := writeLanes_completes s (usedFree (issued s i c) d) (issued s i c) rfl (act_lt h.1)
    (specialWide z) d (fun l => BitVec.ofNat 64 (specialVal c l z))
  refine ⟨t, ?_, hmoved, hwrote⟩
  change execMov i d (.special z) s = _
  rw [← ht]
  simp only [execMov, issueWith_issues h, writeLanes]

/-- An FP64 instruction that issues on a part with FP64 lanes writes its results and moves the path. -/
theorem f64Op_completes {s : State} {i : Iss} {c : Ctx} {d a b e : Opd} (op : F64Op) (r : LaneRnd)
    (hu : s.units.testBit 2 = true) (h : Issues s i c (vRegs true d) [] [a, b, e]) :
    ∃ t, exec (.f64Op i op r d a b e) s = .next t ∧ Moved c t c.next ∧
      Wrote64 c t d (fun l => f64Lane op r (opdLane64 c a l) (opdLane64 c b l) (opdLane64 c e l)) := by
  have hlanes : ¬f64Absent s = true := by simp [f64Absent, hu]
  change ∃ t, execF64Op i op r d a b e s = _ ∧ _
  simp only [execF64Op, if_neg hlanes, lane64, issueWith_issues h]
  exact ⟨_, rfl, moved_advance _ (writeD64_paths ..), wrote64_advance _ _ _ _ _ (act_lt h.1)⟩

/-- Settles O9: each of the three kinds that issues completes with its values in a destination of its width (`cvt_completes`,
`mov_special_completes`, `f64Op_completes`). -/
theorem wideLaneInstructionsComplete : Obligations.WideLaneInstructionsComplete := by
  refine ⟨fun i dty sty r sm d a s c hu h => cvt_completes r sm hu h, fun i d z s c h => ?_,
    fun i op r d a b e s c hu h => f64Op_completes op r hu h⟩
  obtain ⟨hcore, -⟩ := issue_some h.1
  rw [← hcore]
  exact mov_special_completes h

end Sys2Proof.Machine
end

section
/-! CVT.BLK with a scale array whose line begins outside of every interleave set (R112, R204). -/

namespace Sys2Proof.Machine
namespace CutLine

/-- The issue of the one group of core 0. -/
def iss : Iss := { core := 0, slot := 0, guarded := false, negated := false, guard := 0, nx := 0 }

/-- A conversion into MXFP8 elements with stochastic rounding, without .DS. -/
def conv : CvtBlk := { fmt := 5, attr := 0, src := 0, sr := true, sat := .nosat, q := false, ds := false, v := 0, du := 2, blk := .imm 0 }

/-- The address of the scale array, in the second set; its line begins at 0x20000, in no set. -/
def scales : Nat := 0x20010

/-- A descriptor with its elements in shared local memory and its scales in device memory. -/
def descBytes : List Byte :=
  leBytes 8 0x100 ++ leBytes 8 scales ++ leBytes 8 0x20020 ++ leBytes 8 0 ++ leBytes 8 0x3000 ++ leBytes 8 0 ++
    leBytes 4 0 ++ leBytes 4 0 ++ leBytes 4 0 ++ leBytes 4 0x3F800000 ++ [5, 16] ++ List.replicate 62 0

/-- A group of one lane whose %u 2 holds the descriptor's address. -/
def group : Group :=
  { launch := 4, paths := [{ lanes := 4, pc := 0 }], regs := [(2, 0x3F800000)], uregs := [(2, 0x1000)] }

def block : Block := { threads := 3, task := { slmKib := 1, nregs := 32 } }

/-- Two interleave sets of one controller: the first ends at 0x20000 and the second begins at 0x20010. -/
def memSys : MemSys :=
  { sets := [{ base := 0, size := 0x20000, member := [0], mbase := [0], owner := .shared },
      { base := 0x20010, size := 2 ^ 32, member := [0], mbase := [0], owner := .shared }]
    ctls := [(0, { present := true })]
    pages := (List.range 4).map (fun k => (k, { kind := .local, r := true, w := true, a := true, frame := k }))
    mem := (descBytes.zipIdx.filter (fun e => e.1 != 0)).map (fun e => (0x1000 + e.2, e.1)) }

def start : State :=
  { pm := { phase := .running, ready := true, perstLow := false }
    cores := [(0, { present := true, power := .active, exec := { blocks := [(0, block)], groups := [(0, group)] } })]
    mem := memSys }

/-- The context with which the group issues. -/
def ctx : Ctx :=
  { core := 0, slot := 0, x := { blocks := [(0, block)], groups := [(0, group)] }, g := group, b := block
    p := { lanes := 4, pc := 0 }, act := [2], next := 16 }

/-- The descriptor's read at issue. -/
def read : Acc (List Byte) × State := descRead (issued start iss ctx) ctx 0x1000

/-- The byte string that an access answers. -/
def answer (x : Acc (List Byte)) : Option (List Byte) :=
  match x with
  | .ok b => some b
  | _ => none

theorem eq_ok_of_answer {x : Acc (List Byte)} {b : List Byte} (h : answer x = some b) : x = .ok b := by
  cases x with
  | ok a => rw [← Option.some.inj h]
  | fault f => cases h
  | wait => cases h

theorem read_eq : read = (.ok descBytes, read.2) := Prod.ext (eq_ok_of_answer (by decide +kernel)) rfl

theorem issue_start : issue start iss = some ctx := by rfl

theorem issues_start :
    Issues start iss ctx [] ([.u conv.du, .u (conv.du + 1), .v conv.v] ++ (match conv.blk with | .u n => [.u n] | _ => [])) [] :=
  ⟨issue_start, by decide +kernel, by decide +kernel, by unfold Fetched; decide +kernel⟩

/-- The descriptor fits the conversion. -/
theorem fits_start : cvtFits conv descBytes (resolveDesc ctx.b.task (descOf descBytes)) := by
  unfold cvtFits
  decide +kernel

/-- Its stores may issue. -/
theorem stores_start : cvtStores read.2 ctx conv (resolveDesc ctx.b.task (descOf descBytes)) 0x3F800000 [] := by
  unfold cvtStores
  decide +kernel

/-- The scale entry goes to no line: the write buffer stays empty. -/
theorem wb_of_exec {r : State} (h : exec (.cvtBlk iss conv) start = .next r) : (execOf r 0).wb = [] := by
  have hrun : (match exec (.cvtBlk iss conv) start with | .next t => (execOf t 0).wb | _ => []) = [] := by decide +kernel
  rw [h] at hrun
  exact hrun

end CutLine

/-- Refutes O23: a store to device memory finds its home by the first address of its line, and the statement allows
interleave sets that begin inside a line. Here the scale entry's address 0x20010 has a home and its line's first address,
0x20000, has none, so the entry never enters the write buffer. (No boot makes such sets: it lays them one after another in whole lines.) -/
theorem not_blockConversionCompletes : ¬ Obligations.BlockConversionCompletes := by
  unfold Obligations.BlockConversionCompletes
  intro h
  obtain ⟨hdone, _, _⟩ := h CutLine.iss CutLine.conv CutLine.start CutLine.read.2 CutLine.ctx CutLine.descBytes CutLine.issues_start
    (by decide) (by decide +kernel) (by decide +kernel) CutLine.read_eq CutLine.fits_start
  obtain ⟨r, hr, _, _, _, hplain⟩ := hdone 0x3F800000 (by
    rw [if_neg (by decide)]
    exact ⟨CutLine.stores_start, by decide +kernel⟩)
  obtain ⟨_, hslm⟩ := hplain rfl
  obtain ⟨b', _, _, hscale⟩ := hslm (by decide +kernel) (by decide) rfl
  obtain ⟨e, he, _⟩ := hscale (by decide) 0x20000 16 (by decide +kernel) (by decide) (by decide +kernel) (by decide +kernel)
  rw [show CutLine.iss.core = 0 from rfl, CutLine.wb_of_exec hr] at he
  exact absurd he List.not_mem_nil

end Sys2Proof.Machine
end

section
/-! Scaling records as bytes (Table 4.3, R115 to R118): what a replaced field leaves, and what a commit makes of each field. -/

namespace Sys2Proof.Machine

/-! ### Bytes of numbers (R11) -/

@[simp] theorem length_leBytes (n x : Nat) : (leBytes n x).length = n := by
  induction n generalizing x with
  | zero => rfl
  | succ n ih => simp [leBytes, ih]

theorem leNat_leBytes (n x : Nat) : leNat (leBytes n x) = x % 256 ^ n := by
  induction n generalizing x with
  | zero => simp [leBytes, leNat, Nat.mod_one]
  | succ n ih =>
    simp only [leBytes, leNat, ih, BitVec.toNat_ofNat, Nat.pow_succ']
    exact (Nat.mod_mul ..).symm

/-- A 32-bit word survives its four bytes. -/
theorem ofNat_leNat_leBytes (x : Word) : BitVec.ofNat 32 (leNat (leBytes 4 x.toNat)) = x := by
  refine BitVec.eq_of_toNat_eq ?_
  have := x.isLt
  simp only [leNat_leBytes, BitVec.toNat_ofNat]
  omega

theorem leNat_lt (bs : List Byte) : leNat bs < 256 ^ bs.length := by
  induction bs with
  | nil => simp [leNat]
  | cons b r ih =>
    have := b.isLt
    simp only [leNat, List.length_cons, Nat.pow_succ']
    omega

theorem leBytes_leNat (bs : List Byte) : leBytes bs.length (leNat bs) = bs := by
  induction bs with
  | nil => rfl
  | cons b r ih =>
    have hb := b.isLt
    have hdiv : (b.toNat + 256 * leNat r) / 256 = leNat r := by omega
    rw [List.length_cons, leBytes, leNat, hdiv, ih]
    congr 1
    exact BitVec.eq_of_toNat_eq (by simp only [BitVec.toNat_ofNat]; omega)

/-! ### A field replaced -/

section
variable {b v : List Byte} {off : Nat} (hfit : off + v.length ≤ b.length)
include hfit

theorem length_recPut : (recPut b off v).length = b.length := by
  simp only [recPut, List.length_append, List.length_take, List.length_drop]
  omega

/-- The bytes of a record after some were replaced. -/
theorem getElem?_recPut (k : Nat) :
    (recPut b off v)[k]? = if off ≤ k ∧ k < off + v.length then v[k - off]? else b[k]? := by
  have hoff : (b.take off).length = off := by rw [List.length_take]; omega
  simp only [recPut, List.getElem?_append, List.getElem?_drop, List.length_append, hoff, List.getElem?_take]
  by_cases hlow : k < off
  · rw [if_pos (by omega), if_pos hlow, if_pos hlow, if_neg (by omega)]
  · by_cases hin : k < off + v.length
    · rw [if_pos hin, if_neg hlow, if_pos (by omega)]
    · rw [if_neg hin, if_neg (by omega)]
      congr 1
      omega

/-- Bytes beside those replaced are as before. -/
theorem window_recPut_beside {a n : Nat} (h : a + n ≤ off ∨ off + v.length ≤ a) :
    ((recPut b off v).drop a).take n = (b.drop a).take n := by
  refine List.ext_getElem? fun k => ?_
  simp only [List.getElem?_take, List.getElem?_drop, getElem?_recPut hfit]
  by_cases hk : k < n
  · rw [if_pos hk, if_pos hk, if_neg (by omega)]
  · rw [if_neg hk, if_neg hk]

/-- Bytes among those replaced are the new ones. -/
theorem window_recPut_within {a n : Nat} (hlo : off ≤ a) (hhi : a + n ≤ off + v.length) :
    ((recPut b off v).drop a).take n = (v.drop (a - off)).take n := by
  refine List.ext_getElem? fun k => ?_
  simp only [List.getElem?_take, List.getElem?_drop, getElem?_recPut hfit]
  by_cases hk : k < n
  · rw [if_pos hk, if_pos hk, if_pos (by omega)]
    congr 1
    omega
  · rw [if_neg hk, if_neg hk]

theorem window_recPut_self : ((recPut b off v).drop off).take v.length = v := by
  rw [window_recPut_within hfit le_rfl le_rfl, Nat.sub_self, List.drop_zero, List.take_length]

end

/-- Two records agree on a range of bytes. -/
def SameAt (a n : Nat) (b k : List Byte) : Prop := (k.drop a).take n = (b.drop a).take n

namespace SameAt
variable {a n : Nat} {b k : List Byte}

theorem fieldAt_eq (h : SameAt a n b k) : fieldAt k a n = fieldAt b a n := by rw [fieldAt, h, fieldAt]

theorem sliceBytes_eq (h : SameAt a n b k) : sliceBytes k a n = sliceBytes b a n := by rw [sliceBytes, h, sliceBytes]

theorem refl (a n : Nat) (b : List Byte) : SameAt a n b b := rfl

theorem symm (h : SameAt a n b k) : SameAt a n k b := Eq.symm h

theorem trans {l : List Byte} (h : SameAt a n b k) (h' : SameAt a n k l) : SameAt a n b l := Eq.trans h' h

/-- Agreement on a range is agreement within it. -/
theorem mono (h : SameAt a n b k) {a' n' : Nat} (hlo : a ≤ a') (hhi : a' + n' ≤ a + n) : SameAt a' n' b k := by
  have hcut (l : List Byte) : (l.drop a').take n' = (((l.drop a).take n).drop (a' - a)).take n' := by
    rw [List.drop_take, List.take_take, List.drop_drop, Nat.add_sub_cancel' hlo, Nat.min_eq_left (by omega)]
  rw [SameAt, hcut k, hcut b, h]

end SameAt

/-! ### The steps of a commit (R117) -/

/-- PENDING, where it holds a contribution, enters the history. -/
def enterHist (b : List Byte) : List Byte :=
  if !pendingHeld (recPending b) then b
  else
    let b' := recPut b (64 + 4 * recHistIdx b) (leBytes 4 (recPending b).toNat)
    recPut b' 17 [BitVec.ofNat 8 (min (recHistN b' + 1) (recHistLen b')), BitVec.ofNat 8 ((recHistIdx b' + 1) % recHistLen b')]

/-- PENDING becomes −1.0 and STEP advances. -/
def endPending (b : List Byte) : List Byte := recPut b 24 (leBytes 4 0xBF800000 ++ leBytes 4 (fieldAt b 28 4 + 1))

/-- A history that is not empty gives SCALE and READY. -/
def putScale (b : List Byte) : List Byte :=
  if recHistN b = 0 then b else recPut (recPut b 20 (leBytes 4 (scaleFrom b (histAmax b)).toNat)) 16 [2]

/-- AUTO_OUTL takes the clip log over as the outlier list. -/
def takeOutl (b : List Byte) : List Byte := if bit (fieldAt b 15 1) 7 then recPut b 32 (sliceBytes b 48 16) else b

/-- The clip log empties. -/
def dropClips (b : List Byte) : List Byte := recPut b 48 (List.replicate 16 0xFF)

theorem commitRecord_eq (b : List Byte) : commitRecord b = dropClips (takeOutl (putScale (endPending (enterHist b)))) := rfl

/-- A record that is not bad has a history of 1 to 16 entries, and its index names one (R115). -/
theorem hist_of_recBad {b : List Byte} (h : recBad b = false) :
    1 ≤ recHistLen b ∧ recHistLen b ≤ 16 ∧ recHistIdx b < recHistLen b := by
  simp only [recBad, Bool.or_eq_false_iff, decide_eq_false_iff_not] at h
  obtain ⟨⟨⟨⟨⟨⟨⟨⟨-, hlo⟩, hhi⟩, -⟩, -⟩, -⟩, -⟩, hidx⟩, -⟩ := h
  exact ⟨by rw [recHistLen]; omega, by rw [recHistLen]; omega, by omega⟩

@[simp] theorem length_sliceBytes (b : List Byte) (a n : Nat) : (sliceBytes b a n).length = n := by
  simp only [sliceBytes, List.length_append, List.length_replicate, List.length_take]
  omega

section
variable {b : List Byte} (hb : b.length = 128)
include hb

theorem length_endPending : (endPending b).length = 128 := by
  rw [endPending, length_recPut (by simp [hb]), hb]

theorem endPending_beside {a n : Nat} (h : a + n ≤ 24 ∨ 32 ≤ a) : SameAt a n b (endPending b) :=
  window_recPut_beside (by simp [hb]) (by simpa using h)

theorem recPending_endPending : recPending (endPending b) = 0xBF800000 := by
  rw [recPending, fieldAt, endPending, window_recPut_within (by simp [hb]) le_rfl (by simp), Nat.sub_self, List.drop_zero,
    List.take_left' (by simp)]
  decide

theorem step_endPending : fieldAt (endPending b) 28 4 = (fieldAt b 28 4 + 1) % 2 ^ 32 := by
  rw [fieldAt, endPending, window_recPut_within (by simp [hb]) (by simp) (by simp), List.drop_left' (by simp),
    List.take_of_length_le (by simp), leNat_leBytes]
  norm_num

theorem length_putScale : (putScale b).length = 128 := by
  rw [putScale]
  split
  · exact hb
  · have h20 : (recPut b 20 (leBytes 4 (scaleFrom b (histAmax b)).toNat)).length = 128 := by
      rw [length_recPut (by simp [hb]), hb]
    rw [length_recPut (by simp [h20]), h20]

/-- Where the history gives a scale, SCALE and STATE change and nothing beside them. -/
theorem putScale_beside {a n : Nat} (h : a + n ≤ 16 ∨ 17 ≤ a ∧ a + n ≤ 20 ∨ 24 ≤ a) : SameAt a n b (putScale b) := by
  rw [putScale]
  split
  · exact .refl a n b
  · have h20 : (recPut b 20 (leBytes 4 (scaleFrom b (histAmax b)).toNat)).length = 128 := by
      rw [length_recPut (by simp [hb]), hb]
    refine SameAt.trans (k := recPut b 20 (leBytes 4 (scaleFrom b (histAmax b)).toNat)) ?_ ?_
    · exact window_recPut_beside (by simp [hb]) (by simp only [length_leBytes]; omega)
    · exact window_recPut_beside (by simp [h20]) (by simp only [List.length_singleton]; omega)

theorem putScale_of_filled (h : recHistN b ≠ 0) :
    recState (putScale b) = 2 ∧ recScale (putScale b) = scaleFrom b (histAmax b) := by
  have h20 : (recPut b 20 (leBytes 4 (scaleFrom b (histAmax b)).toNat)).length = 128 := by
    rw [length_recPut (by simp [hb]), hb]
  rw [putScale, if_neg h]
  constructor
  · rw [recState, fieldAt, window_recPut_within (by simp [h20]) le_rfl (by simp)]
    decide
  · rw [recScale, fieldAt, window_recPut_beside (by simp [h20]) (.inr (by simp)),
      window_recPut_within (by simp [hb]) le_rfl (by simp), Nat.sub_self, List.drop_zero, List.take_of_length_le (by simp),
      ofNat_leNat_leBytes]

theorem length_takeOutl : (takeOutl b).length = 128 := by
  rw [takeOutl]
  split
  · rw [length_recPut (by simp [hb]), hb]
  · exact hb

theorem takeOutl_beside {a n : Nat} (h : a + n ≤ 32 ∨ 48 ≤ a) : SameAt a n b (takeOutl b) := by
  rw [takeOutl]
  split
  · exact window_recPut_beside (by simp [hb]) (by simpa using h)
  · exact .refl a n b

theorem outl_takeOutl : sliceBytes (takeOutl b) 32 16 =
    if bit (fieldAt b 15 1) 7 = true then sliceBytes b 48 16 else sliceBytes b 32 16 := by
  rw [takeOutl]
  split
  · have hself := window_recPut_self (b := b) (v := sliceBytes b 48 16) (off := 32) (by simp [hb])
    rw [length_sliceBytes] at hself
    rw [sliceBytes, hself]
    simp
  · rfl

theorem length_dropClips : (dropClips b).length = 128 := by rw [dropClips, length_recPut (by simp [hb]), hb]

theorem dropClips_beside {a n : Nat} (h : a + n ≤ 48 ∨ 64 ≤ a) : SameAt a n b (dropClips b) :=
  window_recPut_beside (by simp [hb]) (by simpa using h)

theorem clips_dropClips : sliceBytes (dropClips b) 48 16 = List.replicate 16 0xFF := by
  have hself := window_recPut_self (b := b) (v := List.replicate 16 0xFF) (off := 48) (by simp [hb])
  rw [List.length_replicate] at hself
  rw [sliceBytes, dropClips, hself]
  simp

end

/-! ### The history -/

section
variable {b : List Byte} (hb : b.length = 128) (hbad : recBad b = false)
include hb hbad

/-- A record whose HIST entry was replaced. -/
theorem length_recPut_hist (p : Word) : (recPut b (64 + 4 * recHistIdx b) (leBytes 4 p.toNat)).length = 128 := by
  obtain ⟨-, hlen, hidx⟩ := hist_of_recBad hbad
  rw [length_recPut (by simp [hb]; omega), hb]

theorem recPut_hist_beside (p : Word) {a n : Nat}
    (h : a + n ≤ 64 + 4 * recHistIdx b ∨ 64 + 4 * recHistIdx b + 4 ≤ a) :
    SameAt a n b (recPut b (64 + 4 * recHistIdx b) (leBytes 4 p.toNat)) := by
  obtain ⟨-, hlen, hidx⟩ := hist_of_recBad hbad
  exact window_recPut_beside (by simp [hb]; omega) (by simpa using h)

theorem length_enterHist : (enterHist b).length = 128 := by
  rw [enterHist]
  split
  · exact hb
  · have h := length_recPut_hist hb hbad (recPending b)
    rw [length_recPut (by simp [h]), h]

theorem enterHist_beside {a n : Nat} (h : a + n ≤ 17 ∨ 19 ≤ a ∧ a + n ≤ 64) : SameAt a n b (enterHist b) := by
  rw [enterHist]
  split
  · exact .refl a n b
  · have hput := length_recPut_hist hb hbad (recPending b)
    refine (recPut_hist_beside hb hbad (recPending b) (.inl (by omega))).trans ?_
    exact window_recPut_beside (by simp [hput]) (by simp only [List.length_cons, List.length_nil]; omega)

/-- A replaced HIST entry leaves the fields before HIST. -/
theorem recPut_hist_fields (p : Word) :
    let b' := recPut b (64 + 4 * recHistIdx b) (leBytes 4 p.toNat)
    recHistLen b' = recHistLen b ∧ recHistN b' = recHistN b ∧ recHistIdx b' = recHistIdx b := by
  have hbeside {a n : Nat} (h : a + n ≤ 64) := recPut_hist_beside hb hbad p (a := a) (n := n) (.inl (by omega))
  refine ⟨?_, ?_, ?_⟩
  · rw [recHistLen, (hbeside (by omega)).fieldAt_eq, recHistLen]
  · rw [recHistN, (hbeside (by omega)).fieldAt_eq, recHistN]
  · rw [recHistIdx, (hbeside (by omega)).fieldAt_eq, recHistIdx]

theorem recHistN_enterHist : recHistN (enterHist b) =
    if pendingHeld (recPending b) = true then min (recHistN b + 1) (recHistLen b) else recHistN b := by
  have hput := length_recPut_hist hb hbad (recPending b)
  obtain ⟨hl, hn, hi⟩ := recPut_hist_fields hb hbad (recPending b)
  obtain ⟨-, hlen, -⟩ := hist_of_recBad hbad
  rw [enterHist]
  cases pendingHeld (recPending b) with
  | false => rfl
  | true =>
    rw [if_neg (by simp), if_pos rfl, recHistN, fieldAt, window_recPut_within (by simp [hput]) le_rfl (by simp), hl, hn, hi]
    simp only [Nat.sub_self, List.drop_zero, List.take_succ_cons, List.take_zero, leNat, BitVec.toNat_ofNat]
    omega

theorem recHistIdx_enterHist : recHistIdx (enterHist b) =
    if pendingHeld (recPending b) = true then (recHistIdx b + 1) % recHistLen b else recHistIdx b := by
  have hput := length_recPut_hist hb hbad (recPending b)
  obtain ⟨hl, hn, hi⟩ := recPut_hist_fields hb hbad (recPending b)
  obtain ⟨hpos, hlen, -⟩ := hist_of_recBad hbad
  have hmod : (recHistIdx b + 1) % recHistLen b < recHistLen b := Nat.mod_lt _ hpos
  rw [enterHist]
  cases pendingHeld (recPending b) with
  | false => rfl
  | true =>
    rw [if_neg (by simp), if_pos rfl, recHistIdx, fieldAt, window_recPut_within (by simp [hput]) (by omega) (by simp), hl, hn, hi]
    simp only [Nat.reduceSub, List.drop_succ_cons, List.drop_zero, List.take_succ_cons, List.take_zero, leNat, BitVec.toNat_ofNat]
    omega

theorem recHist_enterHist (j : Nat) : recHist (enterHist b) j =
    if pendingHeld (recPending b) = true ∧ j = recHistIdx b then recPending b else recHist b j := by
  have hput := length_recPut_hist hb hbad (recPending b)
  obtain ⟨-, hlen, hidx⟩ := hist_of_recBad hbad
  rw [enterHist]
  cases pendingHeld (recPending b) with
  | false => simp
  | true =>
    rw [if_neg (by simp), recHist, fieldAt, window_recPut_beside (by simp [hput]) (.inr (by simp; omega))]
    by_cases hj : j = recHistIdx b
    · subst hj
      rw [if_pos ⟨rfl, rfl⟩, window_recPut_within (by simp [hb]; omega) le_rfl (by simp), Nat.sub_self, List.drop_zero,
        List.take_of_length_le (by simp), ofNat_leNat_leBytes]
    · rw [if_neg (by simp [hj]), window_recPut_beside (by simp [hb]; omega) (by simp only [length_leBytes]; omega)]
      rfl

end

/-! ### The record after a commit -/

/-- The scale that a history gives rests on bytes 12 to 15, HIST_N, HIST_IDX and HIST. -/
theorem scaleFrom_congr {b k : List Byte} (hparam : SameAt 12 4 b k) (hpos : SameAt 17 2 b k)
    (hhist : ∀ j, SameAt (64 + 4 * j) 4 b k) : scaleFrom k (histAmax k) = scaleFrom b (histAmax b) := by
  have h13 := (hparam.mono (a' := 13) (n' := 1) (by omega) (by omega)).fieldAt_eq
  have h14 := (hparam.mono (a' := 14) (n' := 1) (by omega) (by omega)).fieldAt_eq
  have h15 := (hparam.mono (a' := 15) (n' := 1) (by omega) (by omega)).fieldAt_eq
  have h17 := (hpos.mono (a' := 17) (n' := 1) le_rfl (by omega)).fieldAt_eq
  have h18 := (hpos.mono (a' := 18) (n' := 1) (by omega) le_rfl).fieldAt_eq
  have htarget : recTarget k = recTarget b := h13
  have hamax : histAmax k = histAmax b := by
    simp only [histAmax, recHist, recHistIdx, recHistLen, recHistN, h14, h17, h18, fun j => (hhist j).fieldAt_eq]
  rw [scaleFrom, htarget, hamax, h15, scaleFrom]

section
variable {b : List Byte} (hb : b.length = 128) (hbad : recBad b = false)
include hb hbad

theorem length_commitRecord : (commitRecord b).length = 128 := by
  rw [commitRecord_eq]
  exact length_dropClips (length_takeOutl (length_putScale (length_endPending (length_enterHist hb hbad))))

/-- What a commit leaves as the entry into the history has made it. -/
theorem commitRecord_beside {a n : Nat} (h : a + n ≤ 16 ∨ 17 ≤ a ∧ a + n ≤ 20 ∨ 64 ≤ a) :
    SameAt a n (enterHist b) (commitRecord b) := by
  have he := length_enterHist hb hbad
  have hp := length_endPending he
  have hs := length_putScale hp
  rw [commitRecord_eq]
  exact (((endPending_beside he (by omega)).trans (putScale_beside hp (by omega))).trans
    (takeOutl_beside hs (by omega))).trans (dropClips_beside (length_takeOutl hs) (by omega))

/-- PENDING and STEP of a committed record. -/
theorem commitRecord_pending : recPending (commitRecord b) = 0xBF800000 ∧
    fieldAt (commitRecord b) 28 4 = (fieldAt b 28 4 + 1) % 2 ^ 32 := by
  have he := length_enterHist hb hbad
  have hp := length_endPending he
  have hs := length_putScale hp
  have hsame : SameAt 24 8 (endPending (enterHist b)) (commitRecord b) := by
    rw [commitRecord_eq]
    exact ((putScale_beside hp (by omega)).trans (takeOutl_beside hs (by omega))).trans
      (dropClips_beside (length_takeOutl hs) (by omega))
  constructor
  · rw [recPending, (hsame.mono (a' := 24) (n' := 4) le_rfl (by omega)).fieldAt_eq]
    exact recPending_endPending he
  · rw [(hsame.mono (a' := 28) (n' := 4) (by omega) (by omega)).fieldAt_eq, step_endPending he,
      (enterHist_beside hb hbad (by omega)).fieldAt_eq]

/-- The lists of a committed record. -/
theorem commitRecord_lists : sliceBytes (commitRecord b) 48 16 = List.replicate 16 0xFF ∧
    sliceBytes (commitRecord b) 32 16 = if bit (fieldAt b 15 1) 7 = true then sliceBytes b 48 16 else sliceBytes b 32 16 := by
  have he := length_enterHist hb hbad
  have hp := length_endPending he
  have hs := length_putScale hp
  have hsame {a n : Nat} (h : a + n ≤ 16 ∨ 32 ≤ a ∧ a + n ≤ 64) :
      SameAt a n b (putScale (endPending (enterHist b))) :=
    ((enterHist_beside hb hbad (by omega)).trans (endPending_beside he (by omega))).trans (putScale_beside hp (by omega))
  rw [commitRecord_eq]
  refine ⟨clips_dropClips (length_takeOutl hs), ?_⟩
  rw [(dropClips_beside (length_takeOutl hs) (by omega)).sliceBytes_eq, outl_takeOutl hs, (hsame (by omega)).fieldAt_eq,
    (hsame (a := 48) (by omega)).sliceBytes_eq, (hsame (a := 32) (by omega)).sliceBytes_eq]

theorem commitRecord_histN : recHistN (commitRecord b) =
    if pendingHeld (recPending b) = true then min (recHistN b + 1) (recHistLen b) else recHistN b := by
  rw [← recHistN_enterHist hb hbad, recHistN, (commitRecord_beside hb hbad (by omega)).fieldAt_eq, recHistN]

theorem commitRecord_histIdx : recHistIdx (commitRecord b) =
    if pendingHeld (recPending b) = true then (recHistIdx b + 1) % recHistLen b else recHistIdx b := by
  rw [← recHistIdx_enterHist hb hbad, recHistIdx, (commitRecord_beside hb hbad (by omega)).fieldAt_eq, recHistIdx]

theorem commitRecord_hist (j : Nat) : recHist (commitRecord b) j =
    if pendingHeld (recPending b) = true ∧ j = recHistIdx b then recPending b else recHist b j := by
  rw [← recHist_enterHist hb hbad, recHist, (commitRecord_beside hb hbad (by omega)).fieldAt_eq, recHist]

/-- SCALE and STATE of a committed record: those of before while the history is empty, else what the history gives. -/
theorem commitRecord_scale : if recHistN (commitRecord b) = 0
    then recScale (commitRecord b) = recScale b ∧ recState (commitRecord b) = recState b
    else recState (commitRecord b) = 2 ∧ recScale (commitRecord b) = scaleFrom (commitRecord b) (histAmax (commitRecord b)) := by
  have he := length_enterHist hb hbad
  have hp := length_endPending he
  have hs := length_putScale hp
  have hbefore : SameAt 16 8 (enterHist b) (endPending (enterHist b)) := endPending_beside he (by omega)
  have hafter : SameAt 16 8 (putScale (endPending (enterHist b))) (commitRecord b) := by
    rw [commitRecord_eq]
    exact (takeOutl_beside hs (by omega)).trans (dropClips_beside (length_takeOutl hs) (by omega))
  have hn : recHistN (commitRecord b) = recHistN (endPending (enterHist b)) := by
    rw [recHistN, (commitRecord_beside hb hbad (by omega)).fieldAt_eq, recHistN,
      (hbefore.mono (a' := 17) (n' := 1) (by omega) (by omega)).fieldAt_eq]
  have hscale : recScale (commitRecord b) = recScale (putScale (endPending (enterHist b))) := by
    rw [recScale, recScale, (hafter.mono (a' := 20) (n' := 4) (by omega) (by omega)).fieldAt_eq]
  have hstate : recState (commitRecord b) = recState (putScale (endPending (enterHist b))) := by
    rw [recState, recState, (hafter.mono (a' := 16) (n' := 1) le_rfl (by omega)).fieldAt_eq]
  rw [hn, hscale, hstate]
  by_cases h0 : recHistN (endPending (enterHist b)) = 0
  · have hstart {a n : Nat} (h : 19 ≤ a ∧ a + n ≤ 24 ∨ a + n ≤ 17) : SameAt a n b (endPending (enterHist b)) :=
      (enterHist_beside hb hbad (by omega)).trans (endPending_beside he (by omega))
    rw [if_pos h0, putScale, if_pos h0]
    exact ⟨by rw [recScale, (hstart (by omega)).fieldAt_eq, recScale],
      by rw [recState, (hstart (by omega)).fieldAt_eq, recState]⟩
  · rw [if_neg h0]
    obtain ⟨hready, hgiven⟩ := putScale_of_filled hp h0
    refine ⟨hready, hgiven.trans ?_⟩
    have hold {a n : Nat} (h : a + n ≤ 16 ∨ 17 ≤ a ∧ a + n ≤ 20 ∨ 64 ≤ a) : SameAt a n (commitRecord b)
        (endPending (enterHist b)) := SameAt.trans (commitRecord_beside hb hbad h).symm (endPending_beside he (by omega))
    exact scaleFrom_congr (hold (by omega)) (hold (by omega)) (fun j => hold (by omega))

theorem commitRecord_take : (commitRecord b).take 16 = b.take 16 := by
  have hsame : SameAt 0 16 b (commitRecord b) :=
    (enterHist_beside hb hbad (by omega)).trans (commitRecord_beside hb hbad (by omega))
  exact hsame

end

end Sys2Proof.Machine
end

section
/-! Accesses that are performed at the homes of lines, in the host or in another package (R251 to R265, R290 to R300, R330 to
R334): what they leave of the part, and where the bytes that they write stand. -/

namespace Sys2Proof.Machine

/-! ### What an access leaves alone -/

/-- A region without its slice's lines, stamps, side buffer and time of last use. -/
def Region.queues (x : Region) : Region := { x with lines := [], stamps := [], side := [], used := 0 }

/-- A state without what accesses change: regions, the memory system, the functions' registers, the host's side, links, the
lasting-fault list, reliability, debug and the count of free values. -/
def State.apart (s : State) : State :=
  { s with regions := [], mem := {}, fns := [], host := {}, links := {}, mgmt.faults := [], ras := {}, dbg := {}, freeCtr := 0 }

/-- `t` comes from `s` by accesses: they keep the rest of the part, every region but its slice's lines, the cells of memory, the
homes of addresses and the address spaces. -/
structure Accesses (s t : State) : Prop where
  apart : t.apart = s.apart
  queues : ∀ k, (regionOf t k).queues = (regionOf s k).queues
  cells : t.mem.mem = s.mem.mem
  sets : t.mem.sets = s.mem.sets
  xlat : ∀ tenant va need, translate t tenant va need = translate s tenant va need

namespace Accesses

theorem refl (s : State) : Accesses s s := ⟨rfl, fun _ => rfl, rfl, rfl, fun _ _ _ => rfl⟩

theorem trans {s t u : State} (h : Accesses s t) (h' : Accesses t u) : Accesses s u :=
  ⟨h'.apart.trans h.apart, fun k => (h'.queues k).trans (h.queues k), h'.cells.trans h.cells, h'.sets.trans h.sets,
    fun a b c => (h'.xlat a b c).trans (h.xlat a b c)⟩

/-- One of two ways on. -/
theorem ite {c : Prop} [Decidable c] {s t u : State} (ht : Accesses s t) (hu : Accesses s u) : Accesses s (if c then t else u) := by
  split
  · exact ht
  · exact hu

theorem foldl {α : Type} {f : State → α → State} (hf : ∀ s a, Accesses s (f s a)) (l : List α) (s : State) :
    Accesses s (l.foldl f s) := foldl_related refl trans hf l s

section
variable {s t : State} (h : Accesses s t)
include h

theorem cores : t.cores = s.cores := (congrArg State.cores h.apart :)
theorem fe : t.fe = s.fe := (congrArg State.fe h.apart :)
theorem time : t.time = s.time := (congrArg State.time h.apart :)
theorem mboxes : t.mgmt.mboxes = s.mgmt.mboxes := (congrArg (fun x : State => x.mgmt.mboxes) h.apart :)
theorem amax (k : Nat) : (regionOf t k).amax = (regionOf s k).amax := (congrArg Region.amax (h.queues k) :)
theorem prepass (k : Nat) : (regionOf t k).prepass = (regionOf s k).prepass := (congrArg Region.prepass (h.queues k) :)

theorem homeOf_eq (pa : Nat) : homeOf t pa = homeOf s pa := by simp only [homeOf, setOf, h.sets]

theorem homeSlice_eq (pa : Nat) : homeSlice t pa = homeSlice s pa := by rw [homeSlice, h.homeOf_eq, homeSlice]

theorem sliceAwake_eq (r : Nat) : sliceAwake t r = sliceAwake s r := by
  have hp : (regionOf t r).power = (regionOf s r).power := (congrArg Region.power (h.queues r) :)
  have hw : (regionOf t r).wakeAt = (regionOf s r).wakeAt := (congrArg Region.wakeAt (h.queues r) :)
  rw [sliceAwake, hp, hw, h.time, sliceAwake]

theorem homeAwake_eq (pa : Nat) : homeAwake t pa = homeAwake s pa := by
  simp only [homeAwake, h.homeSlice_eq, h.sliceAwake_eq]

end
end Accesses

/-- Accesses that do not reach a slice. -/
structure OffSlices (s t : State) : Prop extends Accesses s t where
  regions : t.regions = s.regions

namespace OffSlices

/-- A change that leaves regions, the cells of memory and the address spaces. -/
theorem of_eq {s t : State} (ha : t.apart = s.apart) (hr : t.regions = s.regions) (hc : t.mem.mem = s.mem.mem)
    (hs : t.mem.sets = s.mem.sets) (hx : ∀ tenant va need, translate t tenant va need = translate s tenant va need) :
    OffSlices s t := ⟨⟨ha, fun k => by rw [regionOf, hr, regionOf], hc, hs, hx⟩, hr⟩

theorem refl (s : State) : OffSlices s s := ⟨.refl s, rfl⟩

theorem trans {s t u : State} (h : OffSlices s t) (h' : OffSlices t u) : OffSlices s u :=
  ⟨h.toAccesses.trans h'.toAccesses, h'.regions.trans h.regions⟩

/-- One of two ways on. -/
theorem ite {c : Prop} [Decidable c] {s t u : State} (ht : OffSlices s t) (hu : OffSlices s u) : OffSlices s (if c then t else u) := by
  split
  · exact ht
  · exact hu

theorem foldl {α : Type} {f : State → α → State} (hf : ∀ s a, OffSlices s (f s a)) (l : List α) (s : State) :
    OffSlices s (l.foldl f s) := foldl_related refl trans hf l s

theorem regionOf_eq {s t : State} (h : OffSlices s t) (k : Nat) : regionOf t k = regionOf s k := by
  rw [regionOf, h.regions, regionOf]

end OffSlices

/-- A state that differs outside of regions, the memory system, the tenants and the package identifier. -/
theorem offSlices_of_eq {s t : State} (ha : t.apart = s.apart) (hr : t.regions = s.regions) (hm : t.mem = s.mem) :
    OffSlices s t := by
  have hspace : SameSpace s t := ⟨hm, (congrArg State.sched ha :), (congrArg State.selfId ha :)⟩
  exact .of_eq ha hr (by rw [hm]) (by rw [hm]) (fun _ _ _ => hspace.translate_eq _ _ _)

theorem OnlyHostSide.offSlices {s t : State} (h : OnlyHostSide s t) : OffSlices s t := by
  obtain ⟨_, _, rfl⟩ := h
  exact offSlices_of_eq rfl rfl rfl

theorem offSlices_ctrAdd (s : State) (k code n : Nat) (part : Option Nat) : OffSlices s (ctrAdd s k code n part) := by
  rw [ctrAdd_dbg]
  exact offSlices_of_eq rfl rfl rfl

theorem offSlices_bump (s : State) (t off n : Nat) : OffSlices s (bump s t off n) := (onlyHostSide_bump s t off n).offSlices

theorem offSlices_raiseEv (s : State) (f grp b : Nat) (last : Option Nat) : OffSlices s (raiseEv s f grp b last) :=
  (onlyHostSide_raiseEv s f grp b last).offSlices

theorem offSlices_raisePfSf (s : State) (grp b : Nat) (last : Option Nat) : OffSlices s (raisePfSf s grp b last) :=
  (onlyHostSide_raisePfSf s grp b last).offSlices

theorem offSlices_hostXlat (s : State) (fn : Nat) (pasid : Option Nat) (addr : Nat) (write : Bool) :
    OffSlices s (hostXlat s fn pasid addr write).2 := (onlyHostSide_hostXlat s fn pasid addr write).offSlices

theorem offSlices_modCtl (s : State) (h : Nat) (g : Ctl → Ctl) : OffSlices s (modCtl s h g) :=
  .of_eq rfl rfl rfl rfl (fun _ _ _ => rfl)

/-! ### Errors of a row (R300, R304, R305, R481) -/

theorem offSlices_recordFault (s : State) (r : Resource) (uc : Bool) : OffSlices s (recordFault s r uc) :=
  .ite (offSlices_raisePfSf _ _ _ _) (offSlices_of_eq rfl rfl rfl)

theorem offSlices_retired (s : State) (x : AL GranFault) : OffSlices s { s with mem.retired := x } :=
  .of_eq rfl rfl rfl rfl (fun _ _ _ => rfl)

/-- A mark on a granule's page entries changes no translation. -/
theorem offSlices_markPending (s : State) (g : Nat) : OffSlices s (markPending s g) := by
  refine .of_eq rfl rfl rfl rfl (fun tenant va need => ?_)
  have hpage (k : Nat) : alFind (markPending s g).mem.pages k =
      (alFind s.mem.pages k).map (fun e => if e.kind = .local && e.frame = g then { e with pending := true } else e) := by
    simp only [markPending]
    induction s.mem.pages with
    | nil => rfl
    | cons e r ih =>
      obtain ⟨k', v⟩ := e
      simp only [alMap, List.map_cons, alFind] at ih ⊢
      split
      · rfl
      · exact ih
  by_cases hva : 2 ^ 48 ≤ va
  · simp only [translate, translateWith, pageOf, if_pos hva]
  · simp only [translate, translateWith, pageOf, if_neg hva, hpage]
    cases alFind s.mem.pages (pageKey tenant va) with
    | none => rfl
    | some e =>
      simp only [Option.map_some]
      split <;> rfl

theorem offSlices_retireNow (s : State) (g ctl : Nat) : OffSlices s (retireNow s g ctl) := by
  simp only [retireNow]
  exact .trans (.ite (offSlices_retired _ _) ((offSlices_retired _ _).trans (offSlices_recordFault _ _ _))) (offSlices_raiseEv _ _ _ _ _)

theorem offSlices_retireGranule (s : State) (g ctl : Nat) : OffSlices s (retireGranule s g ctl) := by
  simp only [retireGranule]
  refine .ite (.refl s) ?_
  split
  · exact offSlices_retireNow _ _ _
  · have hpend := ((offSlices_retired s (alPut s.mem.retired g { pending := true, ctl := ctl })).trans
      (offSlices_markPending _ g)).trans (offSlices_raiseEv _ pf gMEM 3 none)
    exact .ite hpend (hpend.trans (offSlices_raiseEv _ _ _ _ _))

theorem offSlices_retireAll (s : State) (h : Nat) (gs : List Nat) : OffSlices s (retireAll s h gs) :=
  .ite (offSlices_raiseEv _ _ _ _ _) (.foldl (fun _ _ => offSlices_retireGranule _ _ _) _ _)

/-- A row that becomes a lasting fault loses its granules, and no core is fenced for it (Table 17.3). -/
theorem offSlices_lastingFault_row (s : State) {r : Resource} (hrow : r.kind = 4) (uc : Bool) : OffSlices s (lastingFault s r uc) := by
  have honline (s : State) : OffSlices s (onlineAction s r) := by
    simp only [onlineAction, hrow]
    exact offSlices_retireAll _ _ _
  exact .ite (.ite (honline _) (.refl s)) <| (offSlices_recordFault s r uc).trans <| (offSlices_bump _ _ _ _).trans <|
    (offSlices_bump _ _ _ _).trans <| (offSlices_raisePfSf _ _ _ _).trans (honline _)

theorem offSlices_uncorrectedErr_row (s : State) {r : Resource} (hrow : r.kind = 4) (tenants : List Nat) :
    OffSlices s (uncorrectedErr s (some r) tenants) :=
  .trans (.foldl (fun _ _ => (offSlices_bump _ _ _ _).trans (offSlices_raiseEv _ _ _ _ _)) _ _) (offSlices_lastingFault_row _ hrow _)

/-! ### Runs that a controller reads (R290, R298 to R300) -/

theorem offSlices_sectorPoisoned (s : State) (h : Nat) (p : Place) (t sec at64 : Nat) (scrub : Bool) :
    OffSlices s (sectorPoisoned s h p t sec at64 scrub) := by
  refine .trans (.trans (.trans ?_ (onlyHostSide_memBump _ _ _ _).offSlices) (onlyHostSide_memRaise _ _ _ _).offSlices)
    (offSlices_uncorrectedErr_row _ rfl _)
  exact .of_eq rfl rfl rfl rfl (fun _ _ _ => rfl)

theorem offSlices_eccSector_nil (s : State) (pa k : Nat) (scrub : Bool) : OffSlices s (eccSector s pa k [] scrub) := by
  simp only [eccSector, eccOutcome_nil]
  split
  · exact .refl s
  next h m _ =>
    refine .ite (onlyHostSide_memLast _ _ _).offSlices ?_
    by_cases her : 3 ≤ (erasedOf (ctlOf s h) (placeOf m).pc).length
    · simp only [if_pos her]
      exact offSlices_sectorPoisoned _ _ _ _ _ _ _
    · simp only [if_neg her]
      exact .refl s

theorem offSlices_openRow (s : State) (h : Nat) (p : Place) (part : Nat) : OffSlices s (openRow s h p part) :=
  .ite (.refl s) ((offSlices_modCtl _ _ _).trans (offSlices_ctrAdd _ _ _ _ _))

theorem offSlices_chargeRuns (s : State) (h pc part n : Nat) (rt : Bool) : OffSlices s (chargeRuns s h pc part n rt) :=
  .ite (.refl s) (.ite (offSlices_modCtl _ _ _) (offSlices_modCtl _ _ _))

theorem offSlices_directRun (s : State) (pa part tenant : Nat) (rt : Bool) : OffSlices s (directRun s pa part tenant rt) := by
  simp only [directRun]
  split
  · exact .refl s
  · exact (offSlices_modCtl _ _ _).trans <| (offSlices_openRow _ _ _ _).trans <| (offSlices_chargeRuns _ _ _ _ _ _).trans <|
      (OffSlices.foldl (fun s i => offSlices_eccSector_nil s _ _ _) _ _).trans <|
      (onlyHostSide_memBump _ _ _ _).offSlices.trans (offSlices_ctrAdd _ _ _ _ _)

end Sys2Proof.Machine
end

section
/-! Slices and the homes of lines (R251 to R265). -/

namespace Sys2Proof.Machine

/-! ### Changes of a region -/

theorem regionOf_modRegion (s : State) (r : Nat) (g : Region → Region) (k : Nat) :
    regionOf (modRegion s r g) k = if k = r then g (regionOf s r) else regionOf s k := by
  simp only [regionOf, modRegion, alMod, alGet_alPut]

@[simp] theorem regionOf_modRegion_self (s : State) (r : Nat) (g : Region → Region) :
    regionOf (modRegion s r g) r = g (regionOf s r) := by rw [regionOf_modRegion, if_pos rfl]

/-- A change of a slice's lines. -/
theorem accesses_modRegion {s : State} {r : Nat} {g : Region → Region} (h : (g (regionOf s r)).queues = (regionOf s r).queues) :
    Accesses s (modRegion s r g) := by
  refine ⟨rfl, fun k => ?_, rfl, rfl, fun _ _ _ => rfl⟩
  rw [regionOf_modRegion]
  split
  · subst k; exact h
  · rfl


/-- Accesses that leave the lines and the side buffer of every slice. -/
structure SameSlices (s t : State) : Prop extends Accesses s t where
  lines : ∀ k, (regionOf t k).lines = (regionOf s k).lines
  side : ∀ k, (regionOf t k).side = (regionOf s k).side

theorem OffSlices.sameSlices {s t : State} (h : OffSlices s t) : SameSlices s t :=
  ⟨h.toAccesses, fun k => by rw [h.regionOf_eq], fun k => by rw [h.regionOf_eq]⟩

namespace SameSlices

theorem refl (s : State) : SameSlices s s := (OffSlices.refl s).sameSlices

theorem trans {s t u : State} (h : SameSlices s t) (h' : SameSlices t u) : SameSlices s u :=
  ⟨h.toAccesses.trans h'.toAccesses, fun k => (h'.lines k).trans (h.lines k), fun k => (h'.side k).trans (h.side k)⟩

/-- One of two ways on. -/
theorem ite {c : Prop} [Decidable c] {s t u : State} (ht : SameSlices s t) (hu : SameSlices s u) :
    SameSlices s (if c then t else u) := by
  split
  · exact ht
  · exact hu

end SameSlices

theorem sameSlices_modRegion {s : State} {r : Nat} {g : Region → Region} (h : (g (regionOf s r)).queues = (regionOf s r).queues)
    (hl : (g (regionOf s r)).lines = (regionOf s r).lines) (hs : (g (regionOf s r)).side = (regionOf s r).side) :
    SameSlices s (modRegion s r g) := by
  refine ⟨accesses_modRegion h, fun k => ?_, fun k => ?_⟩ <;> rw [regionOf_modRegion] <;> split
  · subst k; exact hl
  · rfl
  · subst k; exact hs
  · rfl

theorem sameSlices_ccBump (s : State) (r part tenant off n : Nat) : SameSlices s (ccBump s r part tenant off n) := by
  have hused : SameSlices s (modRegion s r (fun x => { x with used := s.time })) := sameSlices_modRegion rfl rfl rfl
  exact hused.trans <| .trans (.ite (.refl _) (offSlices_ctrAdd _ _ _ _ _).sameSlices) (offSlices_bump _ _ _ _).sameSlices

theorem accesses_ccBump (s : State) (r part tenant off n : Nat) : Accesses s (ccBump s r part tenant off n) :=
  (sameSlices_ccBump s r part tenant off n).toAccesses

theorem offSlices_ctlWrite (s : State) (w : MemWrite) : OffSlices s (ctlWrite s w) := by
  simp only [ctlWrite]
  split
  · exact .refl s
  · exact offSlices_modCtl _ _ _

theorem offSlices_staleReads (s : State) (pa : Nat) : OffSlices s (staleReads s pa) := by
  simp only [staleReads]
  split
  · exact .refl s
  · exact offSlices_modCtl _ _ _

theorem accesses_writeBack (s : State) (tenant : Nat) (l : SliceLine) : Accesses s (writeBack s tenant l) :=
  .ite ((offSlices_ctlWrite _ _).toAccesses.trans (accesses_ccBump _ _ _ _ _ _)) (.refl s)

/-! ### Ways of a set (R254, R257 to R260) -/

/-- The first place of a range that answers. -/
theorem findSome?_range_eq_some {α : Type} {f : Nat → Option α} {n : Nat} {b : α} :
    (List.range n).findSome? f = some b ↔ ∃ k < n, f k = some b ∧ ∀ j < k, f j = none := by
  induction n with
  | zero => simp
  | succ n ih =>
    rw [List.range_succ, List.findSome?_append, List.findSome?_singleton, Option.or_eq_some_iff, ih,
      List.findSome?_eq_none_iff]
    simp only [List.mem_range]
    constructor
    · rintro (⟨k, hk, hfound⟩ | ⟨hbefore, hn⟩)
      · exact ⟨k, by omega, hfound⟩
      · exact ⟨n, by omega, hn, hbefore⟩
    · rintro ⟨k, hk, hb, hbefore⟩
      rcases Nat.lt_succ_iff_lt_or_eq.mp hk with hk | rfl
      · exact .inl ⟨k, hk, hb, hbefore⟩
      · exact .inr ⟨hbefore, hb⟩

/-- The line of a way when it holds a tag: what `findWay` looks for. -/
def wayAt (x : Region) (set tag w : Nat) : Option (Nat × SliceLine) :=
  match alFind x.lines (set * 16 + w) with
  | some l => if l.tag = tag then some (w, l) else none
  | none => none

theorem findWay_eq (x : Region) (set tag : Nat) : findWay x set tag = (List.range 16).findSome? (wayAt x set tag) := rfl

theorem wayAt_eq_some {x : Region} {set tag k w : Nat} {l : SliceLine} :
    wayAt x set tag k = some (w, l) ↔ w = k ∧ alFind x.lines (set * 16 + k) = some l ∧ l.tag = tag := by
  rw [wayAt]
  cases alFind x.lines (set * 16 + k) with
  | none => simp
  | some m =>
    simp only [Option.ite_none_right_eq_some, Option.some.injEq, Prod.mk.injEq]
    constructor
    · rintro ⟨ht, rfl, rfl⟩
      exact ⟨rfl, rfl, ht⟩
    · rintro ⟨rfl, rfl, ht⟩
      exact ⟨ht, rfl, rfl⟩

/-- The tag that a way of a set holds. -/
def wayTag (x : Region) (set w : Nat) : Option Nat := (alFind x.lines (set * 16 + w)).map (·.tag)

theorem wayAt_eq_none {x : Region} {set tag k : Nat} : wayAt x set tag k = none ↔ wayTag x set k ≠ some tag := by
  rw [wayAt, wayTag]
  cases alFind x.lines (set * 16 + k) <;> simp

theorem findWay_eq_none {x : Region} {set tag : Nat} : findWay x set tag = none ↔ ∀ w < 16, wayTag x set w ≠ some tag := by
  simp only [findWay_eq, List.findSome?_eq_none_iff, List.mem_range, wayAt_eq_none]

/-- The way found is the lowest that holds the tag. -/
theorem findWay_eq_some {x : Region} {set tag w : Nat} {l : SliceLine} : findWay x set tag = some (w, l) ↔
    w < 16 ∧ alFind x.lines (set * 16 + w) = some l ∧ l.tag = tag ∧ ∀ j < w, wayTag x set j ≠ some tag := by
  simp only [findWay_eq, findSome?_range_eq_some, wayAt_eq_some, wayAt_eq_none]
  constructor
  · rintro ⟨k, hk, ⟨rfl, hl, ht⟩, hbefore⟩
    exact ⟨hk, hl, ht, hbefore⟩
  · rintro ⟨hw, hl, ht, hbefore⟩
    exact ⟨w, hw, ⟨rfl, hl, ht⟩, hbefore⟩

/-- `y` is `x` but for the ages and the keep bits of its lines. -/
structure Aged (x y : Region) : Prop where
  tags : ∀ k, (alFind y.lines k).map (·.tag) = (alFind x.lines k).map (·.tag)
  side : y.side = x.side
  queues : y.queues = x.queues

namespace Aged

theorem refl (x : Region) : Aged x x := ⟨fun _ => rfl, rfl, rfl⟩

theorem trans {x y z : Region} (h : Aged x y) (h' : Aged y z) : Aged x z :=
  ⟨fun k => (h'.tags k).trans (h.tags k), h'.side.trans h.side, h'.queues.trans h.queues⟩

theorem wayTag_eq {x y : Region} (h : Aged x y) (set w : Nat) : wayTag y set w = wayTag x set w := h.tags _

end Aged

/-- A way whose line is replaced under its own tag. -/
theorem aged_setWay {x : Region} {set w : Nat} {l l' : SliceLine} (hl : alFind x.lines (set * 16 + w) = some l)
    (htag : l'.tag = l.tag) : Aged x (setWay x set w l') := by
  refine ⟨fun k => ?_, rfl, rfl⟩
  simp only [setWay, alFind_alPut]
  split
  · subst k; simp [hl, htag]
  · rfl

theorem aged_trimKeepWays (quota part set : Nat) (ws : List Nat) (x : Region) (n : Nat) :
    Aged x (trimKeepWays quota part set ws x n).1 := by
  induction ws generalizing x n with
  | nil => exact .refl x
  | cons w r ih =>
    simp only [trimKeepWays]
    split
    · exact .refl x
    · split
      next l hl =>
        split
        · exact .trans (aged_setWay (l' := { l with keep := false }) hl rfl) (ih _ _)
        · exact ih _ _
      · exact ih _ _

theorem aged_victim (x : Region) (set : Nat) (ws : List Nat) : Aged x (victim x set ws).2 := by
  simp only [victim]
  split
  · exact .refl x
  · refine foldl_related Aged.refl Aged.trans (fun x w => ?_) _ _
    split
    next l hl => exact aged_setWay hl rfl
    · exact .refl x

/-- A victim is one of the eligible ways. -/
theorem victim_mem {x y : Region} {set w : Nat} {ws : List Nat} (h : victim x set ws = (some w, y)) : w ∈ ws := by
  simp only [victim] at h
  split at h
  next v hv =>
    cases h
    exact (List.mem_filter.mp (List.mem_of_find?_eq_some hv)).1
  · injection h with hw
    exact (List.mem_filter.mp (List.mem_of_find?_eq_some hw)).1

theorem eligible_lt {s : State} {r part set w : Nat} (h : w ∈ eligible s r part set) : w < 16 := by
  simp only [eligible, wayList, List.mem_filter, List.mem_range] at h
  exact h.1.1

/-- Lines of other ages are found where they were. -/
theorem Aged.findWay_eq_none {x y : Region} (h : Aged x y) {set tag : Nat} (hx : findWay x set tag = none) :
    findWay y set tag = none := by
  rw [Machine.findWay_eq_none] at hx ⊢
  intro w hw
  rw [h.wayTag_eq]
  exact hx w hw

/-- A slice takes over lines of other ages. -/
theorem Aged.accesses {s t : State} {r : Nat} {y : Region} (h : Accesses s t) (hy : Aged (regionOf s r) y) :
    Accesses s (modRegion t r (fun _ => y)) :=
  h.trans (accesses_modRegion (hy.queues.trans (h.queues r).symm))

/-- So does a slice that takes over a line besides. -/
theorem Aged.accesses_setWay {s t : State} {r : Nat} {y : Region} (h : Accesses s t) (hy : Aged (regionOf s r) y) (set w : Nat)
    (l : SliceLine) : Accesses s (modRegion t r (fun _ => setWay y set w l)) :=
  h.trans (accesses_modRegion (hy.queues.trans (h.queues r).symm))

/-- The slice that an insertion leaves. -/
inductive Inserted (x : Region) (set tag : Nat) (data : Line) : Bool → Region → Prop
  | bypass {y : Region} (lines : Aged x y) (y' : Region) (hlines : y'.lines = y.lines) (hside : y'.side = y.side) :
      Inserted x set tag data false y'
  | filled {y : Region} (lines : Aged x y) (w : Nat) (l : SliceLine) (hw : w < 16) (htag : l.tag = tag) (hdata : l.data = data) :
      Inserted x set tag data true (setWay y set w l)

/-- What an insertion does: it keeps the rest, and its slice holds the line or bypasses it (R254, R258 to R260). -/
theorem insertLine_spec (s : State) (r set tag pa part tenant : Nat) (h : Hint) (age : Nat) (dirty : Bool) (data : Line)
    (poison : BitVec 2) :
    Accesses s (insertLine s r set tag pa part tenant h age dirty data poison).2 ∧
    Inserted (regionOf s r) set tag data (insertLine s r set tag pa part tenant h age dirty data poison).1
      (regionOf (insertLine s r set tag pa part tenant h age dirty data poison).2 r) := by
  simp only [insertLine]
  generalize hlost : trimKeepWays _ _ _ _ _ _ = trimmed
  have htrim : Aged (regionOf s r) trimmed.1 := hlost ▸ aged_trimKeepWays _ _ _ _ _ _
  obtain ⟨x, lost⟩ := trimmed
  have hcut := (Aged.accesses (.refl s) htrim).trans (accesses_ccBump (modRegion s r (fun _ => x)) r part tenant ccKeepLost lost)
  have hready {c : Prop} [Decidable c] :=
    Accesses.ite (c := c) (hcut.trans (offSlices_ctrAdd _ (blkKey 1 r) 0x0B 1 (some part)).toAccesses) hcut
  generalize hv : victim _ _ _ = v
  have haged := htrim.trans (hv ▸ aged_victim x set _)
  obtain ⟨w, y⟩ := v
  cases w with
  | none =>
    refine ⟨(haged.accesses hready).trans (accesses_ccBump _ _ _ _ _ _), .bypass haged _ ?_ ?_⟩
    · rw [(sameSlices_ccBump _ _ _ _ _ _).lines, regionOf_modRegion_self]
    · rw [(sameSlices_ccBump _ _ _ _ _ _).side, regionOf_modRegion_self]
  | some w =>
    have hw : w < 16 := eligible_lt (victim_mem hv)
    simp only [regionOf_modRegion_self]
    refine ⟨haged.accesses_setWay (Accesses.trans ?_ (offSlices_ctrAdd _ _ _ _ _).toAccesses) set w _, .filled haged w _ hw rfl rfl⟩
    split
    · exact hready.trans (accesses_writeBack _ _ _)
    · exact hready

/-- A line that the slice did not hold is found after its insertion, and only if it was kept. -/
theorem Inserted.findWay {x y : Region} {set tag : Nat} {data : Line} {ok : Bool} (h : Inserted x set tag data ok y)
    (hx : findWay x set tag = none) :
    if ok = true then ∃ w l, Machine.findWay y set tag = some (w, l) ∧ l.data = data
    else Machine.findWay y set tag = none ∧ y.side = x.side := by
  cases h with
  | bypass haged y hlines hside =>
    refine ⟨?_, hside.trans haged.side⟩
    have hnone := haged.findWay_eq_none hx
    simp only [Machine.findWay, hlines] at hnone ⊢
    exact hnone
  | @filled z haged w l hw htag hdata =>
    refine ⟨w, l, findWay_eq_some.mpr ⟨hw, by simp [setWay], htag, fun j hj => ?_⟩, hdata⟩
    have hother : wayTag (setWay z set w l) set j = wayTag z set j := by
      simp only [wayTag, setWay, alFind_alPut]
      rw [if_neg (by omega)]
    rw [hother, haged.wayTag_eq]
    exact findWay_eq_none.mp hx j (by omega)

end Sys2Proof.Machine
end

section
/-! Reads and writes at the home of a line (R252, R255, R259, R265). -/

namespace Sys2Proof.Machine

theorem accesses_directRun (s : State) (pa part tenant : Nat) (rt : Bool) : Accesses s (directRun s pa part tenant rt) :=
  (offSlices_directRun s pa part tenant rt).toAccesses

/-- A touch of a line changes its age and its keep bit. -/
theorem touchLine_eq (s : State) (r set w : Nat) (l : SliceLine) (h : Hint) :
    ∃ l', l'.tag = l.tag ∧ l'.data = l.data ∧ touchLine s r set w l h = modRegion s r (fun x => setWay x set w l') := by
  refine ⟨_, ?_, ?_, rfl⟩ <;> split_ifs <;> rfl

theorem accesses_bumpStamp (s : State) (r set : Nat) : Accesses s (modRegion s r (fun x => bumpStamp x set)) := accesses_modRegion rfl

theorem accesses_dropWay (s : State) (r set w : Nat) : Accesses s (modRegion s r (fun x => dropWay x set w)) := accesses_modRegion rfl

theorem accesses_dropSide (s : State) (r pa : Nat) : Accesses s (modRegion s r (fun x => dropSide x pa)) := accesses_modRegion rfl

theorem accesses_touchLine (s : State) (r set w : Nat) (l : SliceLine) (h : Hint) : Accesses s (touchLine s r set w l h) := by
  obtain ⟨l', -, -, htouch⟩ := touchLine_eq s r set w l h
  rw [htouch]
  exact accesses_modRegion rfl

theorem accesses_insertLine (s : State) (r set tag pa part tenant : Nat) (h : Hint) (age : Nat) (dirty : Bool) (data : Line)
    (poison : BitVec 2) : Accesses s (insertLine s r set tag pa part tenant h age dirty data poison).2 :=
  (insertLine_spec s r set tag pa part tenant h age dirty data poison).1

theorem accesses_homeFill (s : State) (r set tag pa part tenant : Nat) (h : Hint) (d : Line) (p : BitVec 2) :
    Accesses s (homeFill s r set tag pa part tenant h d p).2.2.2 :=
  .ite (.refl s) (accesses_insertLine _ _ _ _ _ _ _ _ _ _ _ _)

theorem accesses_homeRead (s : State) (pa part tenant : Nat) (h : Hint) (rt : Bool) :
    Accesses s (homeRead s pa part tenant h rt).2.2.2 := by
  simp only [homeRead]
  split
  · exact .refl s
  next r set tag _ =>
    refine (accesses_ccBump s r part tenant ccLookup 1).trans ?_
    split
    · refine (accesses_ccBump _ r part tenant ccHit 1).trans ?_
      split_ifs
      · exact (accesses_ccBump _ _ _ _ _ _).trans (accesses_dropWay _ _ _ _)
      · exact accesses_dropWay _ _ _ _
      · exact accesses_touchLine _ _ _ _ _ _
    · refine .trans ?_ (accesses_homeFill _ _ _ _ _ _ _ _ _ _)
      split
      · exact (accesses_dropSide _ _ _).trans (accesses_ccBump _ _ _ _ _ _)
      · exact accesses_directRun _ _ _ _ _

theorem accesses_homeWrite (s : State) (pa part tenant : Nat) (h : Hint) (mask : LineMask) (data : Line) (poison : BitVec 2)
    (rt : Bool) : Accesses s (homeWrite s pa part tenant h mask data poison rt) := by
  simp only [homeWrite]
  split
  · exact .refl s
  next r set tag _ =>
    refine ((accesses_ccBump s r part tenant ccLookup 1).trans (offSlices_staleReads _ pa).toAccesses).trans ?_
    split
    · exact ((accesses_ccBump _ r part tenant ccHit 1).trans (accesses_touchLine _ _ _ _ _ _)).trans
        (accesses_bumpStamp _ _ _)
    · refine .trans ?_ (accesses_bumpStamp _ _ _)
      refine .trans ?_ (.ite (.refl _) (offSlices_ctlWrite _ _).toAccesses)
      refine .trans ?_ (accesses_insertLine _ _ _ _ _ _ _ _ _ _ _ _)
      split
      · exact (accesses_dropSide _ _ _).trans (accesses_ccBump _ _ _ _ _ _)
      · split
        · exact .refl _
        · exact accesses_directRun _ _ _ _ _

/-! ### What a home holds after a write -/

theorem findWay_of_lines {x y : Region} (h : y.lines = x.lines) (set tag : Nat) : findWay y set tag = findWay x set tag := by
  simp only [findWay, h]

theorem findWay_setWay_self {x : Region} {set tag k : Nat} {l l' : SliceLine} (h : findWay x set tag = some (k, l))
    (htag : l'.tag = l.tag) : findWay (setWay x set k l') set tag = some (k, l') := by
  obtain ⟨hk, hl, ht, hbefore⟩ := findWay_eq_some.mp h
  refine findWay_eq_some.mpr ⟨hk, by simp [setWay], htag.trans ht, fun j hj => ?_⟩
  have hother : wayTag (setWay x set k l') set j = wayTag x set j := (aged_setWay hl htag).wayTag_eq set j
  rw [hother]
  exact hbefore j hj

/-- A line that its slice holds is what the home holds. -/
theorem homeLine_of_found {s : State} {pa r set tag w : Nat} {l : SliceLine} (hs : homeSlice s pa = some (r, set, tag))
    (hf : findWay (regionOf s r) set tag = some (w, l)) : homeLine s pa = l.data := by
  simp only [homeLine, hs, hf]

/-- Without a copy in the slice or its side buffer the home holds what memory and its queued writes make. -/
theorem homeLine_of_absent {s : State} {pa r set tag : Nat} (hs : homeSlice s pa = some (r, set, tag))
    (hf : findWay (regionOf s r) set tag = none) (hside : sideOf (regionOf s r) pa = none) : homeLine s pa = (memLine s pa).1 := by
  simp only [homeLine, hs, hf, hside]

theorem homeOf_of_homeSlice {s : State} {pa : Nat} (h : (homeSlice s pa).isSome = true) : (homeOf s pa).isSome = true := by
  simp only [homeSlice] at h
  cases hh : homeOf s pa with
  | none => simp [hh] at h
  | some _ => rfl

/-- The last write queued for a line lies over what was there (R293). -/
theorem memLine_ctlWrite {s : State} {w : MemWrite} (h : (homeOf s w.pa).isSome = true) :
    ∃ d0, (memLine (ctlWrite s w) w.pa).1 = lineMerge d0 w.data w.mask := by
  obtain ⟨⟨c, m⟩, hhome⟩ := Option.isSome_iff_exists.mp h
  have hkept : homeOf (ctlWrite s w) w.pa = some (c, m) := by
    rw [(offSlices_ctlWrite s w).homeOf_eq, hhome]
  have hwrites : (ctlOf (ctlWrite s w) c).writes = (ctlOf s c).writes ++ [{ w with after := s.mem.nextRead }] := by
    simp [ctlWrite, hhome, ctlOf, modCtl, alMod, wakeCtl]
  have hlast : ([{ w with after := s.mem.nextRead }].filter fun v : MemWrite => v.pa == w.pa) =
      [{ w with after := s.mem.nextRead }] := by simp
  simp only [memLine, hkept, hwrites, List.filter_append, List.foldl_append, hlast, List.foldl_cons, List.foldl_nil, applyWrite]
  exact ⟨_, rfl⟩

/-- A change of a region that leaves its slice's lines leaves what the homes hold. -/
theorem homeLine_modRegion {s : State} {r : Nat} {g : Region → Region} (hlines : (g (regionOf s r)).lines = (regionOf s r).lines)
    (hside : (g (regionOf s r)).side = (regionOf s r).side) (pa : Nat) : homeLine (modRegion s r g) pa = homeLine s pa := by
  have hl (k : Nat) : (regionOf (modRegion s r g) k).lines = (regionOf s k).lines := by
    rw [regionOf_modRegion]
    split
    · subst k; exact hlines
    · rfl
  have hs (k : Nat) : (regionOf (modRegion s r g) k).side = (regionOf s k).side := by
    rw [regionOf_modRegion]
    split
    · subst k; exact hside
    · rfl
  have hhome : homeSlice (modRegion s r g) pa = homeSlice s pa := rfl
  have hmem : memLine (modRegion s r g) pa = memLine s pa := rfl
  simp only [homeLine, hhome, hmem, findWay_of_lines (hl _), sideOf, hs]

/-- A home whose slice advances a stamp holds what it held. -/
theorem homeLine_bumpStamp (s : State) (pa r set : Nat) : homeLine (modRegion s r (fun x => bumpStamp x set)) pa = homeLine s pa :=
  homeLine_modRegion rfl rfl pa

/-- A write that hits changes the line that its slice holds. -/
theorem homeLine_written_found {s : State} {pa r set tag k : Nat} {l : SliceLine} (hs : homeSlice s pa = some (r, set, tag))
    (hf : findWay (regionOf s r) set tag = some (k, l)) {l' : SliceLine} (htag : l'.tag = l.tag) (h : Hint) :
    homeLine (touchLine s r set k l' h) pa = l'.data := by
  obtain ⟨m, hmtag, hmdata, htouch⟩ := touchLine_eq s r set k l' h
  rw [htouch, ← hmdata]
  refine homeLine_of_found (w := k) (show homeSlice _ pa = some (r, set, tag) from hs) ?_
  rw [regionOf_modRegion_self]
  exact findWay_setWay_self hf (hmtag.trans htag)

/-- A write that misses is in the slice, or goes through to memory (R259). -/
theorem homeLine_written_absent {s : State} {pa r set tag : Nat} (hs : homeSlice s pa = some (r, set, tag))
    (hf : findWay (regionOf s r) set tag = none) (hside : sideOf (regionOf s r) pa = none) (part tenant : Nat) (h : Hint) (age : Nat)
    (d0 : Line) (p : BitVec 2) {w : MemWrite} (hw : w.pa = pa) {x : Bool × State}
    (hx : insertLine s r set tag pa part tenant h age true (lineMerge d0 w.data w.mask) p = x) :
    ∃ d, homeLine (if x.1 = true then x.2 else ctlWrite x.2 w) pa = lineMerge d w.data w.mask := by
  obtain ⟨hacc, hins⟩ := insertLine_spec s r set tag pa part tenant h age true (lineMerge d0 w.data w.mask) p
  rw [hx] at hacc hins
  have hfind := hins.findWay hf
  have hslice : homeSlice x.2 pa = some (r, set, tag) := (hacc.homeSlice_eq pa).trans hs
  split at hfind
  next hok =>
    obtain ⟨k, l, hkl, hdata⟩ := hfind
    rw [if_pos hok, homeLine_of_found hslice hkl, hdata]
    exact ⟨_, rfl⟩
  next hok =>
    obtain ⟨hnone, hkept⟩ := hfind
    have hthrough := offSlices_ctlWrite x.2 w
    rw [if_neg hok, homeLine_of_absent ((hthrough.homeSlice_eq pa).trans hslice) (by rw [hthrough.regionOf_eq, hnone])
      (by rw [hthrough.regionOf_eq, sideOf, hkept]; exact hside), ← hw]
    exact memLine_ctlWrite (homeOf_of_homeSlice (by rw [hw, hslice]; rfl))

/-- A write performed at a line's home lies over what was there (R252, R255, R259). -/
theorem homeLine_homeWrite {s : State} {pa : Nat} (part tenant : Nat) (h : Hint) (mask : LineMask) (data : Line) (poison : BitVec 2)
    (rt : Bool) (hhome : Homed s pa) :
    ∃ d0, homeLine (homeWrite s pa part tenant h mask data poison rt) pa = lineMerge d0 data mask := by
  obtain ⟨r, set, tag, hs, hside⟩ := hhome
  have hlook : SameSlices s (staleReads (ccBump s r part tenant ccLookup 1) pa) :=
    (sameSlices_ccBump s r part tenant ccLookup 1).trans (offSlices_staleReads _ pa).sameSlices
  have hs1 := (hlook.homeSlice_eq pa).trans hs
  have hside1 : sideOf (regionOf (staleReads (ccBump s r part tenant ccLookup 1) pa) r) pa = none := by
    rw [sideOf, hlook.side]
    exact hside
  simp only [homeWrite, hs]
  generalize staleReads (ccBump s r part tenant ccLookup 1) pa = s1 at hs1 hside1
  cases hf : findWay (regionOf s1 r) set tag with
  | some kl =>
    obtain ⟨k, l⟩ := kl
    have hhit := sameSlices_ccBump s1 r part tenant ccHit 1
    simp only [homeLine_bumpStamp]
    exact ⟨l.data, homeLine_written_found ((hhit.homeSlice_eq pa).trans hs1)
      ((findWay_of_lines (hhit.lines r) set tag).trans hf) (by rfl) _⟩
  | none =>
    simp only [hside1, homeLine_bumpStamp]
    split
    · exact homeLine_written_absent hs1 hf hside1 part tenant _ _ 0 _ 
        (w := { pa := pa, mask := mask, data := data, poison := poison, part := part, rt := rt }) rfl rfl
    · have hrun := offSlices_directRun s1 pa part tenant rt
      exact homeLine_written_absent ((hrun.homeSlice_eq pa).trans hs1) (by rw [hrun.regionOf_eq, hf])
        (by rw [hrun.regionOf_eq, hside1]) part tenant _ _ _ _ 
        (w := { pa := pa, mask := mask, data := data, poison := poison, part := part, rt := rt }) rfl rfl

end Sys2Proof.Machine
end

section
/-! The bytes of a line (R11, R252). -/

namespace Sys2Proof.Machine

theorem leBytes_eq_map (n x : Nat) : leBytes n x = (List.range n).map (fun i => BitVec.ofNat 8 (x >>> (8 * i))) := by
  induction n generalizing x with
  | zero => rfl
  | succ n ih =>
    rw [leBytes, ih, List.range_succ_eq_map, List.map_cons, List.map_map]
    congr 1
    refine List.map_congr_left fun i _ => ?_
    simp only [Function.comp_apply, Nat.shiftRight_eq_div_pow, Nat.div_div_eq_div_mul]
    rw [show 8 * i.succ = 8 + 8 * i by omega, Nat.pow_add]

/-- A slice of a line is its bytes one by one. -/
theorem lineSlice_eq_map (l : Line) (off n : Nat) : lineSlice l off n = (List.range n).map (fun i => lineByte l (off + i)) := by
  rw [lineSlice, leBytes_eq_map]
  refine List.map_congr_left fun i _ => ?_
  rw [lineByte, ← Nat.shiftRight_add, Nat.mul_add]

/-- Byte `i` of the number that bytes make. -/
theorem byte_leNat (bs : List Byte) {i : Nat} (h : i < bs.length) : BitVec.ofNat 8 (leNat bs >>> (8 * i)) = bs[i] := by
  have hget : (leBytes bs.length (leNat bs))[i]? = some (BitVec.ofNat 8 (leNat bs >>> (8 * i))) := by
    simp [leBytes_eq_map, h]
  rw [leBytes_leNat, List.getElem?_eq_getElem h] at hget
  exact (Option.some.inj hget).symm

theorem lineByte_lineOf (f : Nat → Byte) {k : Nat} (hk : k < 128) : lineByte (lineOf f) k = f k := by
  have hlt : leNat ((List.range 128).map f) < 2 ^ 1024 := by
    have hbytes := leNat_lt ((List.range 128).map f)
    rwa [List.length_map, List.length_range, show 256 = 2 ^ 8 from rfl, ← Nat.pow_mul] at hbytes
  rw [lineByte, lineOf, BitVec.toNat_ofNat, Nat.mod_eq_of_lt hlt, byte_leNat _ (by simpa using hk)]
  simp

theorem lineByte_linePlace {off i : Nat} {bs : List Byte} (hfit : off + bs.length ≤ 128) (hi : i < bs.length) :
    lineByte (linePlace off bs) (off + i) = bs[i] := by
  have hlt : leNat bs <<< (8 * off) < 2 ^ 1024 := by
    have hbs := leNat_lt bs
    rw [show (256 : Nat) ^ bs.length = 2 ^ (8 * bs.length) by rw [Nat.pow_mul]] at hbs
    calc leNat bs <<< (8 * off) = leNat bs * 2 ^ (8 * off) := Nat.shiftLeft_eq _ _
      _ < 2 ^ (8 * bs.length) * 2 ^ (8 * off) := Nat.mul_lt_mul_of_pos_right hbs (by positivity)
      _ = 2 ^ (8 * bs.length + 8 * off) := (Nat.pow_add _ _ _).symm
      _ ≤ 2 ^ 1024 := Nat.pow_le_pow_right (by decide) (by omega)
  rw [lineByte, linePlace, BitVec.toNat_ofNat, Nat.mod_eq_of_lt hlt, Nat.mul_add, Nat.shiftRight_add, Nat.shiftLeft_shiftRight,
    byte_leNat bs hi]

theorem getLsbD_maskOf {off n i : Nat} (hfit : off + n ≤ 128) (hi : i < n) : (maskOf off n).getLsbD (off + i) = true := by
  rw [maskOf, BitVec.getLsbD_ofNat, Nat.testBit_shiftLeft, Nat.add_sub_cancel_left, Nat.testBit_two_pow_sub_one]
  simp
  omega

/-- Bytes written to a line are read there. -/
theorem lineSlice_lineMerge_self (d : Line) {off : Nat} {bs : List Byte} (hfit : off + bs.length ≤ 128) :
    lineSlice (lineMerge d (linePlace off bs) (maskOf off bs.length)) off bs.length = bs := by
  rw [lineSlice_eq_map]
  refine List.ext_getElem (by simp) fun i hi hi' => ?_
  rw [List.getElem_map, List.getElem_range, lineMerge, lineByte_lineOf _ (by omega), getLsbD_maskOf hfit hi', if_pos rfl,
    lineByte_linePlace hfit hi']

/-- An access within a line is one chunk. -/
theorem chunksOf_within {a n : Nat} (hn : n ≠ 0) (hfit : a % 128 + n ≤ 128) : chunksOf a n = [(a / 128 * 128, a % 128, n)] := by
  have hk : min n (128 - a % 128) = n := by omega
  simp only [chunksOf, chunks, if_neg hn, hk, Nat.sub_self, if_true]

end Sys2Proof.Machine
end

section
/-! Reads and writes of agents (R286, R300, R330 to R334) and of a scaling record (Table 8.5). -/

namespace Sys2Proof.Machine

/-! ### The host and other packages -/

theorem offSlices_hostBytes (s : State) (ha n : Nat) : OffSlices s (hostBytes s ha n).2 := by
  simp only [hostBytes]
  split <;> exact offSlices_of_eq rfl rfl rfl

theorem offSlices_hostWrite (s : State) (addr : Nat) (bs : List Byte) (ro : Bool) : OffSlices s (hostWrite s addr bs ro) :=
  offSlices_of_eq rfl rfl rfl

/-- What a port sends: `t` is `s` but for ports, the host's side and debug. -/
def Sent (s t : State) : Prop := ∃ ports host dbg, t = { s with links.ports := ports, host := host, dbg := dbg }

namespace Sent

theorem refl (s : State) : Sent s s := ⟨_, _, _, rfl⟩

theorem trans {s t u : State} (h : Sent s t) (h' : Sent t u) : Sent s u := by
  obtain ⟨_, _, _, rfl⟩ := h
  obtain ⟨_, _, _, rfl⟩ := h'
  exact ⟨_, _, _, rfl⟩

/-- One of two ways on. -/
theorem ite {c : Prop} [Decidable c] {s t u : State} (ht : Sent s t) (hu : Sent s u) : Sent s (if c then t else u) := by
  split
  · exact ht
  · exact hu

theorem offSlices {s t : State} (h : Sent s t) : OffSlices s t := by
  obtain ⟨_, _, _, rfl⟩ := h
  exact offSlices_of_eq rfl rfl rfl

end Sent

theorem sent_modPort (s : State) (p : Nat) (g : Port → Port) : Sent s (modPort s p g) := ⟨_, _, _, rfl⟩

theorem sent_emit (s : State) (o : Out) : Sent s (emit s o) := ⟨_, _, _, rfl⟩

theorem sent_ctrAdd (s : State) (k code n : Nat) (part : Option Nat) : Sent s (ctrAdd s k code n part) := by
  rw [ctrAdd_dbg]
  exact ⟨_, _, _, rfl⟩

theorem sent_sendBits (s : State) (p : Nat) (bs : List Byte) : Sent s (sendBits s p bs) := by
  simp only [sendBits]
  refine .ite (sent_modPort _ _ _) (.ite (.trans ?_ (sent_emit _ _)) ?_) <;>
    exact (sent_modPort _ _ _).trans (sent_emit _ _)

theorem sent_sendFlit (s : State) (p kind : Nat) (msgs : List LinkMsg) : Sent s (sendFlit s p kind msgs) :=
  .trans (.trans ((sent_modPort _ _ _).trans (sent_sendBits _ _ _)) (sent_emit _ _)) (sent_ctrAdd _ _ _ _ _)

theorem sent_pump (fuel : Nat) (s : State) (p : Nat) : Sent s (pump fuel s p) := by
  induction fuel generalizing s with
  | zero => exact .refl s
  | succ fuel ih =>
    simp only [pump]
    refine .ite (.refl s) ?_
    split
    · exact .refl s
    · exact ((sent_modPort _ _ _).trans (sent_sendFlit _ _ _ _)).trans (ih _)

theorem sent_sendOn (s : State) (p : Nat) (m : LinkMsg) : Sent s (sendOn s p m) := (sent_modPort _ _ _).trans (sent_pump _ _ _)

theorem sent_sendMsg (s : State) (m : LinkMsg) : Sent s (sendMsg s m) := by
  simp only [sendMsg]
  split
  · exact sent_sendOn _ _ _
  · exact .refl s

theorem offSlices_sendMsg (s : State) (m : LinkMsg) : OffSlices s (sendMsg s m) := (sent_sendMsg s m).offSlices

theorem offSlices_fetchLine (s : State) (die tenant pk line : Nat) : OffSlices s (fetchLine s die tenant pk line) := by
  simp only [fetchLine]
  refine .ite (.refl s) (.trans (.trans ?_ (offSlices_sendMsg _ _)) (offSlices_bump _ _ _ _))
  exact offSlices_of_eq rfl rfl rfl

theorem offSlices_lnkErr (s : State) (tenant b pkg kind line : Nat) : OffSlices s (lnkErr s tenant b pkg kind line) :=
  offSlices_raiseEv _ _ _ _ _

theorem offSlices_remoteBytes (s : State) (die tenant pk a n : Nat) : OffSlices s (remoteBytes s die tenant pk a n).2 := by
  simp only [remoteBytes]
  split
  · exact offSlices_lnkErr _ _ _ _ _ _
  · split
    · exact .foldl (fun _ _ => offSlices_fetchLine _ _ _ _ _) _ _
    · split <;> exact offSlices_of_eq rfl rfl rfl

theorem offSlices_engineWrite (s : State) (e : Issuer) (pkg pa tenant : Nat) (mask : LineMask) (data : Line) :
    OffSlices s (engineWrite s e pkg pa tenant mask data) := by
  refine OffSlices.trans (OffSlices.trans ?_ (offSlices_sendMsg _ _)) (offSlices_bump _ _ _ _)
  exact offSlices_of_eq rfl rfl rfl

/-! ### Reads -/

theorem accesses_readLines (part tenant : Nat) (h : Hint) (rt : Bool) (ls : List (Nat × Nat × Nat)) (s : State)
    (acc : List Byte) (bad : Bool) : Accesses s (readLines part tenant h rt ls s acc bad).2 := by
  induction ls generalizing s acc bad with
  | nil => exact .refl s
  | cons c r ih =>
    obtain ⟨pa, off, n⟩ := c
    simp only [readLines]
    split
    · exact .refl s
    · exact (accesses_homeRead s pa part tenant h rt).trans (ih _ _ _)

theorem accesses_agentReadPages (fuel : Nat) (s : State) (tenant part va n : Nat) (h : Hint) (rt : Bool) (die : Nat)
    (acc : List Byte) : Accesses s (agentReadPages fuel s tenant part va n h rt die acc).2 := by
  induction fuel generalizing s va n acc with
  | zero => exact .refl s
  | succ fuel ih =>
    simp only [agentReadPages]
    split
    · exact .refl s
    split
    · exact .refl s
    next pa _ =>
      have hlines := accesses_readLines part tenant h rt (chunksOf pa (min n (65536 - va % 65536))) s [] false
      split <;> rename_i he <;> rw [he] at hlines
      · exact hlines
      · exact hlines
      · exact hlines.trans (ih _ _ _ _)
    next a _ =>
      split
      · exact .refl s
      next pz _ =>
        have hxlat := (offSlices_hostXlat s tenant pz a false).toAccesses
        split <;> rename_i he <;> rw [he] at hxlat
        · exact hxlat
        · exact hxlat
        next ha t =>
          have hbytes := hxlat.trans (offSlices_hostBytes t ha (min n (65536 - va % 65536))).toAccesses
          split <;> rename_i he <;> rw [he] at hbytes
          · exact hbytes.trans (ih _ _ _ _)
          · exact hbytes
          · exact hbytes
    next pk a _ =>
      have hbytes := (offSlices_remoteBytes s die tenant pk a (min n (65536 - va % 65536))).toAccesses
      split <;> rename_i he <;> rw [he] at hbytes
      · exact hbytes.trans (ih _ _ _ _)
      · exact hbytes
      · exact hbytes

theorem accesses_agentRead (s : State) (tenant part va n : Nat) (h : Hint) (rt : Bool) (die : Nat) :
    Accesses s (agentRead s tenant part va n h rt die).2 := accesses_agentReadPages _ _ _ _ _ _ _ _ _ _

theorem accesses_recRead (s : State) (tenant part va : Nat) (need : Right) (rt : Bool) :
    Accesses s (recRead s tenant part va need rt).2 := by
  simp only [recRead]
  split
  · exact .refl s
  next pa _ =>
    have hlines := accesses_readLines part tenant .plain rt (chunksOf pa 128) s [] false
    split <;> rename_i he <;> rw [he] at hlines <;> exact hlines
  · exact accesses_agentRead _ _ _ _ _ _ _ _

/-! ### Writes -/

/-- A fold that carries bytes beside the state. -/
theorem accesses_foldl_snd {α β : Type} {f : β × State → α → β × State} (hf : ∀ x a, Accesses x.2 (f x a).2) (l : List α)
    (x : β × State) : Accesses x.2 (l.foldl f x).2 :=
  foldl_related (R := fun x y : β × State => Accesses x.2 y.2) (fun _ => .refl _) (fun h h' => h.trans h') hf l x

theorem accesses_devWrite (s : State) (pa part tenant : Nat) (bs : List Byte) (rt : Bool) :
    Accesses s (devWrite s pa part tenant bs rt) :=
  accesses_foldl_snd (fun _ _ => accesses_homeWrite _ _ _ _ _ _ _ _ _) _ (bs, s)

theorem accesses_agentWritePages (fuel : Nat) (s : State) (tenant part va : Nat) (bs : List Byte) (e : Issuer) :
    Accesses s (agentWritePages fuel s tenant part va bs e).2 := by
  induction fuel generalizing s va bs with
  | zero => exact .refl s
  | succ fuel ih =>
    simp only [agentWritePages]
    split
    · exact .refl s
    split
    · exact .refl s
    next pa _ =>
      split
      · exact .refl s
      · exact (accesses_devWrite _ _ _ _ _ _).trans (ih _ _ _)
    next a _ =>
      split
      · exact .refl s
      next pz _ =>
        have hxlat := (offSlices_hostXlat s tenant pz a true).toAccesses
        split <;> rename_i he <;> rw [he] at hxlat
        · exact hxlat
        · exact hxlat
        · exact (hxlat.trans (offSlices_hostWrite _ _ _ _).toAccesses).trans (ih _ _ _)
    next pk a _ =>
      split
      · exact (offSlices_lnkErr _ _ _ _ _ _).toAccesses
      · split
        · exact .refl s
        · refine .trans ?_ (ih _ _ _)
          exact accesses_foldl_snd (fun _ _ => (offSlices_engineWrite _ _ _ _ _ _ _).toAccesses) _ (bs.take _, s)

theorem accesses_agentWrite (s : State) (tenant part va : Nat) (bs : List Byte) (e : Issuer) :
    Accesses s (agentWrite s tenant part va bs e).2 := accesses_agentWritePages _ _ _ _ _ _ _

theorem accesses_recWrite (s : State) (tenant part va off : Nat) (v : List Byte) (e : Issuer) :
    Accesses s (recWrite s tenant part va off v e).2 := by
  simp only [recWrite]
  split
  · exact .refl s
  · split
    · exact .refl s
    · exact accesses_devWrite _ _ _ _ _ _
  · exact accesses_agentWrite _ _ _ _ _ _

/-! ### A record in device memory -/

/-- Where a local access goes has the address's offset in its page. -/
theorem mod_of_translate_loc {s : State} {tenant va pa : Nat} {need : Right} (h : translate s tenant va need = some (.loc pa)) :
    pa % 65536 = va % 65536 := by
  simp only [translate, translateWith] at h
  split at h
  · cases h
  · split at h
    · cases h
    · split at h
      · obtain ⟨_, h⟩ := Option.ite_none_right_eq_some.mp h
        cases h
        omega
      · split at h
        · obtain ⟨_, h⟩ := Option.ite_none_right_eq_some.mp h
          cases h
          omega
        · cases h
      · cases h

/-- What a read of a local record answers (Table 8.5): 128 bytes, from a home that could serve it. -/
theorem recRead_loc {s s1 : State} {tenant part va pa : Nat} {need : Right} {rt : Bool} {b : List Byte}
    (h : recRead s tenant part va need rt = (.ok b, s1)) (ht : translate s tenant va need = some (.loc pa)) (hva : va % 128 = 0) :
    b.length = 128 ∧ homeReady s pa part rt = true := by
  have hpa := mod_of_translate_loc ht
  have hchunks : chunksOf pa 128 = [(pa / 128 * 128, pa % 128, 128)] := chunksOf_within (by decide) (by omega)
  rw [show pa / 128 * 128 = pa by omega] at hchunks
  simp only [recRead, ht, hchunks, readLines] at h
  cases hready : homeReady s pa part rt with
  | false => simp [hready] at h
  | true =>
    simp only [hready, Bool.not_true, Bool.false_eq_true, if_false, List.nil_append] at h
    split at h <;> rename_i he
    · cases h
    · cases h
    · cases h
      simp only [Prod.mk.injEq, Option.some.injEq] at he
      obtain ⟨⟨hb, -⟩, -⟩ := he
      rw [← hb]
      exact ⟨length_leBytes _ _, rfl⟩

/-- An access within a line goes to the home of that line. -/
theorem devWrite_within {s : State} {pa off part tenant : Nat} {v : List Byte} {rt : Bool} (hpa : pa % 128 = 0) (hv : v ≠ [])
    (hfit : off + v.length ≤ 128) :
    devWrite s (pa + off) part tenant v rt =
      homeWrite s pa part tenant .plain (maskOf off v.length) (linePlace off v) 0 rt := by
  have hlen := List.length_pos_iff.mpr hv
  have hchunks : chunksOf (pa + off) v.length = [((pa + off) / 128 * 128, (pa + off) % 128, v.length)] :=
    chunksOf_within (by omega) (by omega)
  rw [show (pa + off) / 128 * 128 = pa by omega, show (pa + off) % 128 = off by omega] at hchunks
  simp only [devWrite, hchunks, List.foldl_cons, List.foldl_nil, List.take_length]

/-- A line's home that is awake may take a whole line, and one that is ready a part. -/
theorem writeMay_within {s : State} {pa off n part : Nat} {rt : Bool} (hpa : pa % 128 = 0) (hn : n ≠ 0) (hfit : off + n ≤ 128) :
    writeMay s (pa + off) n part rt = ((n == 128 && homeAwake s pa) || homeReady s pa part rt) := by
  have hchunks : chunksOf (pa + off) n = [((pa + off) / 128 * 128, (pa + off) % 128, n)] := chunksOf_within hn (by omega)
  rw [show (pa + off) / 128 * 128 = pa by omega, show (pa + off) % 128 = off by omega] at hchunks
  simp only [writeMay, hchunks, List.all_cons, List.all_nil, Bool.and_true]

/-- A write of a local record that its home may take: it keeps the rest, and the home then holds the bytes. -/
theorem recWrite_loc {s : State} {tenant part va pa off : Nat} {v : List Byte} {e : Issuer}
    (ht : translate s tenant va .a = some (.loc pa)) (hva : va % 128 = 0) (hv : v ≠ []) (hfit : off + v.length ≤ 128)
    (hhome : Homed s pa) (hmay : ((v.length == 128 && homeAwake s pa) || homeReady s pa part (nodeIsRt s e.node)) = true) :
    ∃ s2, recWrite s tenant part va off v e = (.ok (), s2) ∧ Accesses s s2 ∧ lineSlice (homeLine s2 pa) off v.length = v := by
  have hpa : pa % 128 = 0 := by
    have := mod_of_translate_loc ht
    omega
  have hlen := List.length_pos_iff.mpr hv
  refine ⟨devWrite s (pa + off) part tenant v (nodeIsRt s e.node), ?_, accesses_devWrite _ _ _ _ _ _, ?_⟩
  · simp only [recWrite, ht]
    rw [writeMay_within hpa (by omega) hfit, hmay]
    rfl
  · rw [devWrite_within hpa hv hfit]
    obtain ⟨d0, hline⟩ := homeLine_homeWrite part tenant .plain (maskOf off v.length) (linePlace off v) 0 (nodeIsRt s e.node) hhome
    rw [hline]
    exact lineSlice_lineMerge_self d0 hfit

end Sys2Proof.Machine
end

section
/-! Events that a function shows (R538, R540). -/

namespace Sys2Proof.Machine

/-- A function's registers without the event ring, the vectors and the occurrences that wait. -/
def Fn.steady (x : Fn) : Fn := { x with evr := {}, vecs := [], evWait := [] }

/-- Signals of events leave every function's other registers. -/
def Signals (s t : State) : Prop := ∀ f, (fnOf t f).steady = (fnOf s f).steady

namespace Signals

theorem refl (s : State) : Signals s s := fun _ => rfl

theorem trans {s t u : State} (h : Signals s t) (h' : Signals t u) : Signals s u := fun f => (h' f).trans (h f)

/-- One of two ways on. -/
theorem ite {c : Prop} [Decidable c] {s t u : State} (ht : Signals s t) (hu : Signals s u) : Signals s (if c then t else u) := by
  split
  · exact ht
  · exact hu

theorem of_fns {s t : State} (h : t.fns = s.fns) : Signals s t := fun f => by rw [fnOf, h, fnOf]

theorem eventSet {s t : State} (h : Signals s t) (f grp b : Nat) : eventSet t f grp b = eventSet s f grp b := by
  have hev : (fnOf t f).ev = (fnOf s f).ev := (congrArg Fn.ev (h f) :)
  rw [Machine.eventSet, hev, Machine.eventSet]

end Signals

theorem fnOf_setFn (s : State) (f : Nat) (x : Fn) (k : Nat) : fnOf (setFn s f x) k = if k = f then x else fnOf s k := by
  simp only [fnOf, setFn, alGet_alPut]

theorem signals_setFn {s : State} {f : Nat} {x : Fn} (h : x.steady = (fnOf s f).steady) : Signals s (setFn s f x) := by
  intro k
  rw [fnOf_setFn]
  split
  · subst k; exact h
  · rfl

theorem signals_modFn {s : State} {f : Nat} {g : Fn → Fn} (h : (g (fnOf s f)).steady = (fnOf s f).steady) :
    Signals s (modFn s f g) := signals_setFn h

theorem signals_signalVec (s : State) (f v : Nat) : Signals s (signalVec s f v) :=
  .ite (signals_setFn rfl) (.of_fns rfl)

theorem signals_evSignal (s : State) (f : Nat) : Signals s (evSignal s f) :=
  .ite (Signals.trans (signals_setFn (by rfl)) (signals_signalVec _ _ _)) (.refl s)

theorem fns_hostXlat (s : State) (fn : Nat) (pasid : Option Nat) (addr : Nat) (write : Bool) :
    (hostXlat s fn pasid addr write).2.fns = s.fns := by
  simp only [hostXlat]
  repeat' split
  all_goals rfl

theorem signals_evWrite (s : State) (f grp b detail time : Nat) : Signals s (evWrite s f grp b detail time) := by
  simp only [evWrite]
  refine .ite (signals_modFn rfl) ?_
  have hxlat := Signals.of_fns (fns_hostXlat s f none ((fnOf s f).evr.base + 32 * ((fnOf s f).evr.prod % evSize (fnOf s f).evr)) true)
  split <;> rename_i he <;> rw [he] at hxlat
  · exact hxlat.trans (signals_modFn rfl)
  · exact hxlat.trans (signals_modFn rfl)
  next a t =>
    have hentry (b1 b2 : List Byte) : Signals s (modFn (hostWrite (hostWrite t a b1 false) (a + 24) b2 false) f
        (fun x => { x with evr.prod := (x.evr.prod + 1) % 2 ^ 32, evr.owed := false })) :=
      (hxlat.trans (.of_fns rfl)).trans (signals_modFn rfl)
    exact .ite (hentry _ _) ((hentry _ _).trans (signals_evSignal _ _))

theorem signals_occur (s : State) (f grp b detail : Nat) : Signals s (occur s f grp b detail) := by
  have hring : Signals s (if (fnOf s f).evr.en then
      (if (fnOf s f).evWait.isEmpty then evWrite s f grp b detail s.time
        else modFn s f (fun x => { x with evWait := x.evWait ++ [(grp, b, detail, s.time)] }))
      else if grp = 6 then s else signalVec s f 1) :=
    .ite (.ite (signals_evWrite _ _ _ _ _ _) (signals_modFn rfl)) (.ite (.refl s) (signals_signalVec _ _ _))
  exact .ite (hring.trans (signals_signalVec _ _ _)) hring

/-- A function's register groups without its event and LAST registers. -/
def Fn.quiet (x : Fn) : Fn := { x with evr := {}, vecs := [], evWait := [], ev := [], last := [] }

/-- The registers once a bit of an event register is set. -/
def Fn.raised (x : Fn) (grp b : Nat) (last : Option Nat) : Fn :=
  { x with
    ev := alPut x.ev grp (setBitN (alGet 0 x.ev grp) b)
    last := match last with
      | some v => alPut x.last grp v
      | none => x.last }

/-- A raise sets the bit, and may be an occurrence besides (R538). -/
theorem signals_raised_raiseEv (s : State) (f grp b : Nat) (last : Option Nat) :
    Signals (setFn s f ((fnOf s f).raised grp b last)) (raiseEv s f grp b last) := by
  cases last with
  | none => exact .ite (signals_occur _ _ _ _ _) (.refl _)
  | some v => exact .ite (signals_occur _ _ _ _ _) (.refl _)

/-- An event that is raised stands in its register (R538). -/
theorem eventSet_raiseEv (s : State) (f grp b : Nat) (last : Option Nat) : eventSet (raiseEv s f grp b last) f grp b = true := by
  rw [(signals_raised_raiseEv s f grp b last).eventSet]
  simp only [eventSet, fnOf_setFn_self, Fn.raised, alGet_alPut_self, bit_setBitN_self]

/-- A raise leaves every function's other registers. -/
theorem quiet_raiseEv (s : State) (f grp b : Nat) (last : Option Nat) (k : Nat) :
    (fnOf (raiseEv s f grp b last) k).quiet = (fnOf s k).quiet := by
  refine ((congrArg (fun x : Fn => { x with ev := [], last := [] }) (signals_raised_raiseEv s f grp b last k) :)).trans ?_
  rw [fnOf_setFn]
  split
  · subst k; rfl
  · rfl

end Sys2Proof.Machine
end

section
/-! The aggregator's updates of a scaling record at its home (R116, R118, R120). -/

namespace Sys2Proof.Machine

/-- A home that can serve an access is awake. -/
theorem homeAwake_of_homeReady {s : State} {pa part : Nat} {rt : Bool} (h : homeReady s pa part rt = true) : homeAwake s pa = true := by
  simp only [homeReady, homeAwake, homeSlice] at h ⊢
  cases hhome : homeOf s pa with
  | none => rfl
  | some x =>
    simp only [hhome, Option.map_some, Bool.and_eq_true] at h
    exact h.1

theorem length_clipInsert_le (l : List Nat) (k : Nat) (h : l.length ≤ 8) : (clipInsert l k).length ≤ 8 := by
  rw [clipInsert]
  split
  · exact h
  · exact List.length_take_le _ _

/-- The clip log holds eight lanes at most. -/
theorem length_clipLog_le (l clips : List Nat) (h : l.length ≤ 8) : (clips.foldl clipInsert l).length ≤ 8 := by
  induction clips generalizing l with
  | nil => exact h
  | cons k r ih => exact ih _ (length_clipInsert_le l k h)

theorem length_recIndices_le (b : List Byte) (off : Nat) : (recIndices b off).length ≤ 8 :=
  (List.length_filter_le _ _).trans (by simp)

/-- The first half of a contribution (R116): PENDING becomes a larger value. -/
def raisePending (b : List Byte) (value : Option Word) : List Byte :=
  match value with
  | some v => if xLt (ofFp32 (recPending b)) (ofFp32 v) then recPut b 24 (leBytes 4 v.toNat) else b
  | none => b

/-- The second half: the clip log takes the lanes that clipped. -/
def mergeClips (b : List Byte) (clips : List Nat) : List Byte :=
  let l := (clips.filter (· < 65535)).foldl clipInsert (recIndices b 48)
  recPut b 48 ((l ++ List.replicate (8 - l.length) 0xFFFF).flatMap (leBytes 2))

theorem contribute_eq (b : List Byte) (value : Option Word) (clips : List Nat) :
    contribute b value clips = mergeClips (raisePending b value) clips := rfl

theorem length_raisePending {b : List Byte} (hb : b.length = 128) (value : Option Word) : (raisePending b value).length = 128 := by
  cases value with
  | none => exact hb
  | some v =>
    rw [raisePending]
    split
    · rw [length_recPut (by simp [hb]), hb]
    · exact hb

theorem length_mergeClips {b : List Byte} (hb : b.length = 128) (clips : List Nat) : (mergeClips b clips).length = 128 := by
  have hlog := length_clipLog_le (recIndices b 48) (clips.filter (· < 65535)) (length_recIndices_le _ _)
  rw [mergeClips, length_recPut, hb]
  simp only [List.length_flatMap, length_leBytes, List.map_const', List.sum_replicate, List.length_append, List.length_replicate,
    smul_eq_mul]
  omega

/-- A contribution keeps the record's size. -/
theorem length_contribute {b : List Byte} (hb : b.length = 128) (value : Option Word) (clips : List Nat) :
    (contribute b value clips).length = 128 := by
  rw [contribute_eq]
  exact length_mergeClips (length_raisePending hb value) clips

/-- What leaves regions and the memory system leaves what the homes hold. -/
theorem homeLine_congr {s t : State} (hr : t.regions = s.regions) (hm : t.mem = s.mem) (pa : Nat) : homeLine t pa = homeLine s pa := by
  have hregion (k : Nat) : regionOf t k = regionOf s k := by rw [regionOf, hr, regionOf]
  have hhome (a : Nat) : homeOf t a = homeOf s a := by rw [homeOf, setOf, hm, homeOf, setOf]
  have hctl (c : Nat) : ctlOf t c = ctlOf s c := by rw [ctlOf, hm, ctlOf]
  simp only [homeLine, homeSlice, memLine, hregion, hhome, hctl, hm]

theorem OnlyHostSide.homeLine_eq {s t : State} (h : OnlyHostSide s t) (pa : Nat) : homeLine t pa = homeLine s pa := by
  obtain ⟨_, _, rfl⟩ := h
  exact homeLine_congr rfl rfl pa

/-- The aggregator's queue without one contribution. -/
def amaxGone (s : State) (region index : Nat) : State := modRegion s region (fun x => { x with amax := x.amax.eraseIdx index })

/-- The aggregator's list without one pre-pass. -/
def prepassGone (s : State) (region : Nat) (p : PrePass) : State :=
  modRegion s region (fun x => { x with prepass := x.prepass.erase p })

/-- A contribution is performed at the record's home and leaves the aggregator's queue (R116). -/
theorem amaxContribution_completes {region index : Nat} {s s1 : State} {u : AmaxUpd} {b : List Byte} {pa : Nat}
    (hu : (regionOf s region).amax[index]? = some u)
    (hread : recRead s u.tenant u.part u.record .a (nodeIsRt s u.node) = (.ok b, s1)) (hva : u.record % 128 = 0)
    (ht : translate s1 u.tenant u.record .a = some (.loc pa)) (hhome : Homed s1 pa) :
    ∃ r, exec (.amaxContribution region index) s = .next r ∧ r.mem.mem = s.mem.mem ∧
      (regionOf r region).amax = (regionOf s region).amax.eraseIdx index ∧
      lineSlice (homeLine r pa) 0 128 = contribute b u.value u.clips := by
  have hacc : Accesses s s1 := by simpa [hread] using accesses_recRead s u.tenant u.part u.record .a (nodeIsRt s u.node)
  obtain ⟨hb, hready⟩ := recRead_loc hread ((hacc.xlat _ _ _).symm.trans ht) hva
  have hlen := length_contribute hb u.value u.clips
  have hawake : homeAwake s1 pa = true := (hacc.homeAwake_eq pa).trans (homeAwake_of_homeReady hready)
  obtain ⟨s2, hwrite, hacc2, hline⟩ := recWrite_loc (tenant := u.tenant) (part := u.part) (off := 0)
    (v := contribute b u.value u.clips)    (e := { die := region / 4, node := u.node }) ht hva (List.ne_nil_of_length_pos (by omega)) (by omega) hhome (by simp [hlen, hawake])
  rw [hlen] at hline
  refine ⟨_, rfl, ?_⟩
  simp only [hu, hread, hwrite]
  refine ⟨hacc2.cells.trans hacc.cells, ?_, ?_⟩
  · refine (congrArg Region.amax (regionOf_modRegion_self s2 region _) : (regionOf (amaxGone s2 region index) region).amax = _).trans ?_
    rw [hacc2.amax, hacc.amax]
  · rw [← hline]
    refine congrArg (lineSlice · 0 128) ?_
    exact (homeLine_congr (s := amaxGone s2 region index) rfl rfl pa).trans (homeLine_modRegion rfl rfl pa)

/-- A pre-pass that ends writes STATE and SCALE at the record's home, leaves the aggregator's list and raises its event (R120). -/
theorem prepassComplete_completes {region tenant record : Nat} {s s1 : State} {p : PrePass} {b : List Byte} {pa : Nat}
    (hp : (regionOf s region).prepass.find? (fun p => p.tenant == tenant && p.record == record) = some p) (hbad : p.bad = none)
    (hread : recRead s tenant p.part record .r (nodeIsRt s p.node) = (.ok b, s1)) (hva : record % 128 = 0)
    (ht : translate s1 tenant record .a = some (.loc pa)) (hhome : Homed s1 pa)
    (hready : homeReady s1 pa p.part (nodeIsRt s1 p.node) = true) :
    ∃ r, exec (.prepassComplete region tenant record) s = .next r ∧
      (regionOf r region).prepass = (regionOf s region).prepass.erase p ∧ eventSet r tenant gSV 3 = true ∧
      lineSlice (homeLine r pa) 16 8 = [2] ++ sliceBytes b 17 3 ++ leBytes 4 p.scale.toNat := by
  have hacc : Accesses s s1 := by simpa [hread] using accesses_recRead s tenant p.part record .r (nodeIsRt s p.node)
  have hlen : ([2] ++ sliceBytes b 17 3 ++ leBytes 4 p.scale.toNat).length = 8 := by simp
  obtain ⟨s2, hwrite, hacc2, hline⟩ := recWrite_loc (tenant := tenant) (part := p.part) (off := 16)
    (e := { die := region / 4, node := p.node }) ht hva (List.ne_nil_of_length_pos (by rw [hlen]; decide))
    (by rw [hlen]; decide) hhome (by simp [hready])
  rw [hlen] at hline
  have hend := (onlyHostSide_bump (prepassGone s2 region p) tenant 0x60148 1).trans
    (onlyHostSide_raiseEv _ tenant gSV 3 none)
  refine ⟨_, rfl, ?_⟩
  simp only [hp, hbad, hread, hwrite]
  refine ⟨?_, ?_, ?_⟩
  · have hkept := hend.offSlices.regionOf_eq region
    refine (congrArg Region.prepass hkept :).trans ?_
    rw [prepassGone, regionOf_modRegion_self, hacc2.prepass, hacc.prepass]
  · exact eventSet_raiseEv _ _ _ _ _
  · rw [← hline]
    refine congrArg (lineSlice · 16 8) ?_
    exact ((homeLine_congr rfl rfl pa).trans (hend.homeLine_eq pa)).trans (homeLine_modRegion rfl rfl pa)

/-- Settles O25: the contribution's read and write and the pre-pass's write are each performed at the record's home. -/
theorem aggregatorUpdatesRecords : Obligations.AggregatorUpdatesRecords := by
  unfold Obligations.AggregatorUpdatesRecords
  exact ⟨fun _ _ _ _ _ _ _ => amaxContribution_completes, fun _ _ _ _ _ _ _ _ => prepassComplete_completes⟩

end Sys2Proof.Machine
end

section
/-! AMAX.COMMIT (R117, R235). -/

namespace Sys2Proof.Machine

/-- The state in which a commit reads its record: the instruction has issued, and its order stands as a fence (R130, R235). -/
def commitStart (s : State) (i : Iss) (c : Ctx) : State :=
  if c.p.released then issued s i c else markFence (issued s i c) c .device

theorem fe_commitStart (s : State) (i : Iss) (c : Ctx) : (commitStart s i c).fe = s.fe := by
  have hissued : (issued s i c).fe = s.fe := by rw [issued_cores]
  rw [commitStart]
  split
  · exact hissued
  · exact hissued

theorem mem_commitStart (s : State) (i : Iss) (c : Ctx) : (commitStart s i c).mem = s.mem := by
  have hissued : (issued s i c).mem = s.mem := by rw [issued_cores]
  rw [commitStart]
  split
  · exact hissued
  · exact hissued

theorem groups_commitStart (s : State) (i : Iss) {c : Ctx} (hcore : c.core = i.core) :
    (execOf (commitStart s i c) c.core).groups = (execOf s c.core).groups := by
  have hissued := groups_issued s i c
  rw [← hcore] at hissued
  rw [commitStart]
  split
  · exact hissued
  · rw [markFence, if_neg (by decide), ← hissued]
    simp

/-- What a commit does once its group's earlier accesses let it (R117): it reads the record, and writes it back committed. -/
theorem execAmaxCommit_issues {i : Iss} {u : Nat} {s s1 : State} {c : Ctx} {b : List Byte}
    (h : Issues s i c [] [.u u, .u (u + 1)] []) (hact : c.act ≠ []) (hmem : memReady c = true)
    (hfree : c.p.released = true ∨ fenceFree c .st .device = true) (hva : uReg64 c u % 128 = 0)
    (hread : recRead (commitStart s i c) c.b.task.tenant c.b.task.part (uReg64 c u) .a (nodeIsRt s c.b.task.node) = (.ok b, s1))
    (hbad : recBad b = false) :
    exec (.amaxCommit i u) s = completes s (if recState b = 1 then s1 else
      match recWrite s1 c.b.task.tenant c.b.task.part (uReg64 c u) 0 (commitRecord b) { die := coreDie c.core, node := c.b.task.node } with
      | (.ok _, s) =>
        let s := match translate s c.b.task.tenant (uReg64 c u) .a with | some a => l1Drop s c.core a.line | none => s
        advance (bump s c.b.task.tenant 0x60150 1) c c.g
      | (.fault f, s) => raiseFault s c f
      | (.wait, s) => s) := by
  have hempty : c.act.isEmpty = false := by simpa using hact
  have hgo : (!c.p.released && !fenceFree c .st .device) = false := by
    rcases hfree with hr | hf
    · simp [hr]
    · simp [hf]
  have hrt : nodeIsRt (commitStart s i c) c.b.task.node = nodeIsRt s c.b.task.node := by
    rw [nodeIsRt, fe_commitStart, nodeIsRt]
  rw [← hrt] at hread
  have hline : (uReg64 c u % 128 != 0) = false := by simp [hva]
  show execAmaxCommit i u s = _
  unfold execAmaxCommit
  rw [issueWith_issues h]
  have hstart : (if c.p.released = true then issued s i c else markFence (issued s i c) c .device) = commitStart s i c := rfl
  simp only [hempty, hmem, hgo, hstart, hline, hread, hbad, Bool.not_true, Bool.false_eq_true, if_false] <;> rfl

/-- A change of a core leaves what the homes hold. -/
theorem homeLine_modExec (s : State) (c : Nat) (g : Exec → Exec) (pa : Nat) : homeLine (modExec s c g) pa = homeLine s pa :=
  homeLine_congr rfl rfl pa

/-- A commit of a record in device memory completes with the record committed at its home (R117). -/
theorem amaxCommit_completes {i : Iss} {u : Nat} {s s1 : State} {c : Ctx} {b : List Byte} {pa : Nat}
    (h : Issues s i c [] [.u u, .u (u + 1)] []) (hact : c.act ≠ []) (hmem : memReady c = true)
    (hfree : c.p.released = true ∨ fenceFree c .st .device = true) (hva : uReg64 c u % 128 = 0)
    (hread : recRead (commitStart s i c) c.b.task.tenant c.b.task.part (uReg64 c u) .a (nodeIsRt s c.b.task.node) = (.ok b, s1))
    (hbad : recBad b = false) (hstate : recState b ≠ 1)
    (ht : translate s1 c.b.task.tenant (uReg64 c u) .a = some (.loc pa)) (hhome : Homed s1 pa) :
    ∃ r, exec (.amaxCommit i u) s = .next r ∧ Moved c r c.next ∧ r.mem.mem = s.mem.mem ∧
      lineSlice (homeLine r pa) 0 128 = commitRecord b := by
  have hacc : Accesses (commitStart s i c) s1 := by
    simpa [hread] using accesses_recRead (commitStart s i c) c.b.task.tenant c.b.task.part (uReg64 c u) .a (nodeIsRt s c.b.task.node)
  obtain ⟨hb, hready⟩ := recRead_loc hread ((hacc.xlat _ _ _).symm.trans ht) hva
  have hlen := length_commitRecord hb hbad
  have hawake : homeAwake s1 pa = true := (hacc.homeAwake_eq pa).trans (homeAwake_of_homeReady hready)
  obtain ⟨s2, hwrite, hacc2, hline⟩ := recWrite_loc (tenant := c.b.task.tenant) (part := c.b.task.part) (off := 0)
    (v := commitRecord b) (e := { die := coreDie c.core, node := c.b.task.node }) ht hva
    (List.ne_nil_of_length_pos (by omega)) (by omega) hhome (by simp [hlen, hawake])
  rw [hlen] at hline
  have ht2 := (hacc2.xlat c.b.task.tenant (uReg64 c u) .a).trans ht
  have hside := onlyHostSide_bump (l1Drop s2 c.core (Target.loc pa).line) c.b.task.tenant 0x60150 1
  refine ⟨_, execAmaxCommit_issues h hact hmem hfree hva hread hbad, ?_⟩
  simp only [if_neg hstate, hwrite, ht2]
  refine ⟨moved_advance _ rfl, ?_, ?_⟩
  · have hcells : (bump (l1Drop s2 c.core (Target.loc pa).line) c.b.task.tenant 0x60150 1).mem.mem = s2.mem.mem :=
      hside.offSlices.cells
    refine hcells.trans (hacc2.cells.trans (hacc.cells.trans ?_))
    rw [mem_commitStart]
  · rw [← hline]
    refine congrArg (lineSlice · 0 128) ?_
    calc _ = homeLine (bump (l1Drop s2 c.core (Target.loc pa).line) c.b.task.tenant 0x60150 1) pa := homeLine_congr rfl rfl pa
      _ = homeLine (l1Drop s2 c.core (Target.loc pa).line) pa := hside.homeLine_eq pa
      _ = homeLine s2 pa := homeLine_modExec _ _ _ pa

/-- A commit that finds a pre-pass changes no group and waits (R117). -/
theorem amaxCommit_waits {i : Iss} {u : Nat} {s s1 : State} {c : Ctx} {b : List Byte}
    (h : Issues s i c [] [.u u, .u (u + 1)] []) (hact : c.act ≠ []) (hmem : memReady c = true)
    (hfree : c.p.released = true ∨ fenceFree c .st .device = true) (hva : uReg64 c u % 128 = 0)
    (hread : recRead (commitStart s i c) c.b.task.tenant c.b.task.part (uReg64 c u) .a (nodeIsRt s c.b.task.node) = (.ok b, s1))
    (hbad : recBad b = false) (hstate : recState b = 1) :
    ∃ r, exec (.amaxCommit i u) s = .next r ∧ (c.seen r).g = c.g := by
  have hacc : Accesses (commitStart s i c) s1 := by
    simpa [hread] using accesses_recRead (commitStart s i c) c.b.task.tenant c.b.task.part (uReg64 c u) .a (nodeIsRt s c.b.task.node)
  obtain ⟨hcore, hslot, -, hgroup, -⟩ := issue_some h.1
  refine ⟨_, execAmaxCommit_issues h hact hmem hfree hva hread hbad, ?_⟩
  rw [if_pos hstate]
  have hexec : execOf s1 c.core = execOf (commitStart s i c) c.core := by rw [execOf, coreOf, hacc.cores, execOf, coreOf]
  refine (congrArg (fun x : Exec => alGet {} x.groups c.slot) hexec :).trans ?_
  show alGet {} (execOf (commitStart s i c) c.core).groups c.slot = c.g
  rw [groups_commitStart s i hcore, hcore, hslot]
  exact alGet_of_alFind _ _ _ _ hgroup

/-- Settles O24: a commit's read and write are performed at the record's home, and the fields of the committed record are those
that its stages give. -/
theorem amaxCommitUpdatesTheRecord : Obligations.AmaxCommitUpdatesTheRecord := by
  unfold Obligations.AmaxCommitUpdatesTheRecord
  refine ⟨fun i u s s1 c b pa h hact hmem hfree hva hread hbad => ⟨fun hstate ht hhome => ?_, fun hstate => ?_⟩, fun b hb hbad => ?_⟩
  · exact amaxCommit_completes h hact hmem hfree hva hread hbad hstate ht hhome
  · exact amaxCommit_waits h hact hmem hfree hva hread hbad hstate
  · obtain ⟨hpending, hstep⟩ := commitRecord_pending hb hbad
    obtain ⟨hclips, houtl⟩ := commitRecord_lists hb hbad
    exact ⟨hpending, hstep, hclips, commitRecord_histN hb hbad, commitRecord_histIdx hb hbad, fun j _ => commitRecord_hist hb hbad j,
      commitRecord_scale hb hbad, houtl, commitRecord_take hb hbad⟩

end Sys2Proof.Machine
end

section
/-! Mailbox traffic: what replies, mirror records and the answers to other mailboxes change (R429 to R436, R490). -/

namespace Sys2Proof.Machine

/-! ### What mail leaves alone -/

/-- A state without what mailbox traffic changes: mailboxes and the board path, the mirrored messages, the twin, ports, the
functions' registers, the host's side, debug, and what a command never changes. -/
def State.unposted (s : State) : State :=
  { s with mgmt.mboxes := [], mgmt.mctp := [], mgmt.lastServed := 0, mgmt.applied := [], fns := [], host := {}, links.ports := [],
           twin := {}, dbg := {}, pending := [], variant := .gbl8 }

/-- `t` comes from `s` by mailbox traffic: it keeps the rest of the part, and every tenant's policies. -/
structure Mailed (s t : State) : Prop where
  unposted : t.unposted = s.unposted
  policies : ∀ k, (fnOf t k).policies = (fnOf s k).policies

namespace Mailed

theorem refl (s : State) : Mailed s s := ⟨rfl, fun _ => rfl⟩

theorem trans {s t u : State} (h : Mailed s t) (h' : Mailed t u) : Mailed s u :=
  ⟨h'.unposted.trans h.unposted, fun k => (h'.policies k).trans (h.policies k)⟩

/-- Traffic that leaves the functions' registers. -/
theorem of_fns {s t : State} (h : t.unposted = s.unposted) (hf : t.fns = s.fns) : Mailed s t :=
  ⟨h, fun k => by rw [fnOf, hf, fnOf]⟩

section
variable {s t : State} (h : Mailed s t)
include h

theorem mem : t.mem = s.mem := (congrArg State.mem h.unposted :)
theorem cores : t.cores = s.cores := (congrArg State.cores h.unposted :)
theorem fe : t.fe = s.fe := (congrArg State.fe h.unposted :)
theorem sched : t.sched = s.sched := (congrArg State.sched h.unposted :)
theorem images : t.images = s.images := (congrArg State.images h.unposted :)
theorem nextImage : t.nextImage = s.nextImage := (congrArg State.nextImage h.unposted :)
theorem vtensors : t.vtensors = s.vtensors := (congrArg State.vtensors h.unposted :)
theorem captures : t.captures = s.captures := (congrArg State.captures h.unposted :)
theorem pools : t.pools = s.pools := (congrArg State.pools h.unposted :)

theorem mailOnly : MailOnly s t :=
  ⟨h.mem, h.cores, (congrArg State.clusters h.unposted :), (congrArg State.regions h.unposted :), h.fe, h.sched, h.images, h.vtensors,
    h.pools, (congrArg State.ras h.unposted :), (congrArg State.pm h.unposted :),
    (congrArg (fun x : State => x.links.exports) h.unposted :), (congrArg (fun x : State => x.links.routes) h.unposted :),
    (congrArg (fun x : State => x.mgmt.faults) h.unposted :), (congrArg (fun x : State => x.mgmt.keys) h.unposted :),
    (congrArg (fun x : State => x.mgmt.banks) h.unposted :)⟩

end
end Mailed

/-- The command that mail is part of ends (R3). -/
theorem Mailed.completed {s t : State} (h : Mailed s t) (u : State) :
    Mailed s { t with pending := u.pending, variant := u.variant } := ⟨h.unposted, h.policies⟩

theorem Sent.mailed {s t : State} (h : Sent s t) : Mailed s t := by
  obtain ⟨_, _, _, rfl⟩ := h
  exact .of_fns rfl rfl

theorem Sent.mboxes {s t : State} (h : Sent s t) : t.mgmt.mboxes = s.mgmt.mboxes := by
  obtain ⟨_, _, _, rfl⟩ := h
  rfl

/-- A raised event is the part of mail that a function sees. -/
theorem mailed_raiseEv (s : State) (f grp b : Nat) (last : Option Nat) : Mailed s (raiseEv s f grp b last) := by
  refine ⟨?_, fun k => (congrArg Fn.policies (quiet_raiseEv s f grp b last k) :)⟩
  obtain ⟨_, _, hside⟩ := onlyHostSide_raiseEv s f grp b last
  rw [hside]
  rfl

/-! ### Traffic of one mailbox -/

/-- Mailbox traffic that changes no mailbox but `f`. -/
structure Posts (f : Nat) (s t : State) : Prop extends Mailed s t where
  others : ∀ k, k ≠ f → mboxOf t k = mboxOf s k

namespace Posts

theorem trans {f : Nat} {s t u : State} (h : Posts f s t) (h' : Posts f t u) : Posts f s u :=
  ⟨h.toMailed.trans h'.toMailed, fun k hk => (h'.others k hk).trans (h.others k hk)⟩

/-- Traffic that changes no mailbox. -/
theorem of_mboxes {f : Nat} {s t : State} (h : Mailed s t) (hm : t.mgmt.mboxes = s.mgmt.mboxes) : Posts f s t :=
  ⟨h, fun k _ => by rw [mboxOf, hm, mboxOf]⟩

end Posts

theorem mboxOf_modMbox (s : State) (f : Nat) (g : Mbox → Mbox) (k : Nat) :
    mboxOf (modMbox s f g) k = if k = f then g (mboxOf s f) else mboxOf s k := by
  simp only [mboxOf, modMbox, alMod, alGet_alPut]

@[simp] theorem mboxOf_modMbox_self (s : State) (f : Nat) (g : Mbox → Mbox) : mboxOf (modMbox s f g) f = g (mboxOf s f) := by
  rw [mboxOf_modMbox, if_pos rfl]

theorem posts_modMbox (s : State) (f : Nat) (g : Mbox → Mbox) : Posts f s (modMbox s f g) :=
  ⟨.of_fns rfl rfl, fun k hk => by rw [mboxOf_modMbox, if_neg hk]⟩

theorem mboxes_raiseEv (s : State) (f grp b : Nat) (last : Option Nat) : (raiseEv s f grp b last).mgmt.mboxes = s.mgmt.mboxes := by
  obtain ⟨_, _, hside⟩ := onlyHostSide_raiseEv s f grp b last
  rw [hside]

/-! ### Mirror records (R490) -/

theorem sent_foldl_sendOn {α : Type} (p : Nat) (g : α → LinkMsg) (l : List α) (s : State) :
    Sent s (l.foldl (fun s a => sendOn s p (g a)) s) :=
  foldl_related Sent.refl Sent.trans (fun _ _ => sent_sendOn _ _ _) l s

theorem sent_sendTwin (s : State) (seq : Nat) (mgmt : Bool) (b : List Byte) : Sent s (sendTwin s seq mgmt b) :=
  sent_foldl_sendOn _ _ _ _

/-- A record is traffic that changes no mailbox. -/
theorem mailed_mirror (s : State) (r : Mirror) : Mailed s (mirror s r) ∧ (mirror s r).mgmt.mboxes = s.mgmt.mboxes := by
  simp only [mirror]
  split
  · exact ⟨.refl s, rfl⟩
  · refine ⟨Mailed.trans ?_ (sent_sendTwin _ _ _ _).mailed, (sent_sendTwin _ _ _ _).mboxes.trans rfl⟩
    exact .of_fns rfl rfl

/-! ### Replies (R433 to R436) -/

theorem posts_deliverReply (s : State) (f : Nat) : Posts f s (deliverReply s f) := by
  simp only [deliverReply]
  split
  · exact (posts_modMbox _ _ _).trans (.of_mboxes (sent_emit _ _).mailed rfl)
  · exact (posts_modMbox _ _ _).trans (.of_mboxes (mailed_raiseEv _ _ _ _ _) (mboxes_raiseEv _ _ _ _ _))

/-- The mailbox of a function to which a reply is delivered. -/
theorem mboxOf_deliverReply (s : State) {f : Nat} (hf : f ≠ boardFn) :
    mboxOf (deliverReply s f) f = { mboxOf s f with respHeld := false, respValid := true } := by
  simp only [deliverReply, if_neg hf]
  rw [mboxOf, mboxes_raiseEv]
  exact mboxOf_modMbox_self s f _

theorem posts_unnumberedReply (s : State) (f : Nat) (msg : List Byte) (rep : Rep) : Posts f s (unnumberedReply s f msg rep) :=
  (posts_modMbox _ _ _).trans (posts_deliverReply _ _)

theorem posts_repeatReply (s : State) (f : Nat) (msg : List Byte) : Posts f s (repeatReply s f msg) := by
  simp only [repeatReply]
  split
  · exact posts_unnumberedReply _ _ _ _
  · exact (posts_modMbox _ _ _).trans (posts_deliverReply _ _)

theorem posts_takeRequest (s : State) (f : Nat) : Posts f s (takeRequest s f) := by
  have hserved : Posts f s { s with mgmt.lastServed := f } := .of_mboxes (.of_fns rfl rfl) rfl
  simp only [takeRequest]
  split
  · exact hserved.trans (.of_mboxes (.of_fns rfl rfl) rfl)
  · exact hserved.trans (posts_modMbox _ _ _)

/-- A mailbox that holds the numbered reply to a request: delivered, or held back (R435, R337). -/
structure Answered (m : Mbox) (msg : List Byte) (rep : Rep) (m' : Mbox) : Prop where
  resp : m'.resp = replyBytes msg rep (nextSeqNo m.d) m.l false
  l : m'.l = m.l
  d : m'.d = nextSeqNo m.d
  exec : m'.exec = false
  out : m'.respValid = true ∨ m'.respHeld = true

/-- A numbered reply is traffic of its mailbox, which then holds it (R435). -/
theorem numberedReply_spec (s : State) (f : Nat) (msg : List Byte) (rep : Rep) :
    Posts f s (numberedReply s f msg rep) ∧ (f ≠ boardFn → Answered (mboxOf s f) msg rep (mboxOf (numberedReply s f msg rep) f)) := by
  simp only [numberedReply]
  generalize hlogged : modMbox s f _ = logged
  have hlog : Posts f s logged := hlogged ▸ posts_modMbox _ _ _
  generalize hkept : (if rep.status = 0 && mirroredOps.contains (fieldAt msg 0 2) then _ else logged) = kept
  have hkeep : Mailed logged kept ∧ kept.mgmt.mboxes = logged.mgmt.mboxes := by
    rw [← hkept]
    split
    · refine ⟨Mailed.trans ?_ (mailed_mirror _ _).1, (mailed_mirror _ _).2⟩
      exact .of_fns rfl rfl
    · exact ⟨.refl _, rfl⟩
  obtain ⟨hsent, hboxes⟩ := mailed_mirror kept (.mbSeq f (mboxOf s f).l (nextSeqNo (mboxOf s f).d))
  have hbox : mboxOf (mirror kept (.mbSeq f (mboxOf s f).l (nextSeqNo (mboxOf s f).d))) f = mboxOf logged f := by
    rw [mboxOf, hboxes, hkeep.2, mboxOf]
  have hposts := hlog.trans (Posts.of_mboxes (hkeep.1.trans hsent) (hboxes.trans hkeep.2))
  rw [← hlogged, mboxOf_modMbox_self] at hbox
  split
  · refine ⟨hposts.trans (posts_modMbox _ _ _), fun _ => ?_⟩
    rw [mboxOf_modMbox_self, hbox]
    exact ⟨rfl, rfl, rfl, rfl, .inr rfl⟩
  · refine ⟨hposts.trans (posts_deliverReply _ _), fun hf => ?_⟩
    rw [mboxOf_deliverReply _ hf, hbox]
    exact ⟨rfl, rfl, rfl, rfl, .inl rfl⟩

theorem posts_numberedReply (s : State) (f : Nat) (msg : List Byte) (rep : Rep) : Posts f s (numberedReply s f msg rep) :=
  (numberedReply_spec s f msg rep).1

end Sys2Proof.Machine
end

section
/-! Serving a request: the checks, the reply, and the other requests that are answered behind it (R429, R435, R438). -/

namespace Sys2Proof.Machine

/-- The checks of an opcode that needs no key change nothing (R438). -/
theorem checkReq_state {s : State} {r : Req} (hperm : ∀ i, opInfo r.op = some i → i.perm = none) : (checkReq s r).2 = s := by
  rw [checkReq]
  cases hi : opInfo r.op with
  | none => rfl
  | some i =>
    simp only [hperm i hi]
    repeat' split
    all_goals rfl

/-- A request that is answered where it stands is traffic of its mailbox. -/
theorem posts_handleMsg {s : State} {f : Nat} {msg : List Byte} {h : State → Req → Done × State}
    (hh : ∀ s r, ∃ rep, h s r = (.rep rep, s)) (hperm : ∀ i, opInfo (reqOf f msg).op = some i → i.perm = none) :
    Posts f s (handleMsg s f msg h) := by
  have htake := posts_takeRequest s f
  simp only [handleMsg]
  split
  · exact htake.trans (posts_unnumberedReply _ _ _ _)
  split
  · generalize hread : modMbox (takeRequest s f) f _ = s2
    have hseq : Posts f s s2 := htake.trans (hread ▸ posts_modMbox _ _ _)
    have hstate := checkReq_state (s := s2) hperm
    split <;> rename_i hcheck <;> rw [hcheck] at hstate
    · exact hseq.trans (hstate ▸ posts_numberedReply _ _ _ _)
    next s3 =>
      obtain ⟨rep, hrep⟩ := hh s3 (reqOf f msg)
      simp only [hrep]
      exact hseq.trans (hstate ▸ posts_numberedReply _ _ _ _)
  split
  · exact htake.trans (posts_repeatReply _ _ _)
  · exact htake.trans (posts_unnumberedReply _ _ _ _)

/-- An SPDM request that is refused is traffic of its mailbox (R444). -/
theorem posts_answerSpdm {s : State} {f c : Nat} (hc : spdmCode s f = some c) (b : List Byte) :
    Posts f s (answerSpdm s f (fun s _ _ => (b, s))) := by
  simp only [answerSpdm]
  split
  · exact (posts_takeRequest s f).trans (.of_mboxes (sent_emit _ _).mailed rfl)
  next hboard =>
    have hop : fieldAt (mboxMsg s f) 0 2 = 0x0402 := by
      simp only [spdmCode, if_neg hboard] at hc
      exact (Option.ite_none_right_eq_some.mp hc).1
    refine posts_handleMsg (fun s r => ⟨_, rfl⟩) (fun i hi => ?_)
    rw [show (reqOf f (mboxMsg s f)).op = 0x0402 from hop] at hi
    cases hi
    rfl

/-- A mailbox other than the board path's whose reply is out, held back or still to come. -/
def Outstanding (s : State) (f : Nat) : Prop :=
  f ≠ boardFn ∧ ((mboxOf s f).respValid = true ∨ (mboxOf s f).respHeld = true ∨ (mboxOf s f).exec = true)

theorem mem_of_alFind {α : Type} {m : AL α} {k : Nat} {v : α} (h : alFind m k = some v) : (k, v) ∈ m := by
  induction m with
  | nil => cases h
  | cons e r ih =>
    obtain ⟨k', v'⟩ := e
    simp only [alFind] at h
    split at h
    next hk =>
      cases h
      subst hk
      exact List.mem_cons_self
    · exact List.mem_cons_of_mem _ (ih h)

/-- The mailbox that is served next holds a request that may be consumed, and none is being carried out (R429). -/
theorem ready_of_dueMbox {s : State} {g : Nat} (h : dueMbox s = some g) : mgmtFree s = true ∧ mboxReady s g = true := by
  simp only [dueMbox] at h
  split at h
  · cases h
  next hfree =>
    refine ⟨by simpa using hfree, ?_⟩
    generalize hall : ((s.mgmt.mboxes.map (·.1)).filter (fun f => mboxReady s f) ++
      (if mboxReady s boardFn && (alFind s.mgmt.mboxes boardFn).isNone then [boardFn] else [])) = all at h
    have hmem : g ∈ all := by
      cases hf : all.find? (fun f => decide (s.mgmt.lastServed < f)) with
      | some x =>
        rw [hf] at h
        cases h
        exact List.mem_of_find?_eq_some hf
      | none =>
        rw [hf] at h
        exact List.mem_of_mem_head? h
    rw [← hall, List.mem_append, List.mem_filter] at hmem
    rcases hmem with ⟨_, hready⟩ | hboard
    · exact hready
    · split at hboard
      next hb =>
        rw [List.mem_singleton.mp hboard]
        exact (Bool.and_eq_true _ _ ▸ hb).1
      · cases hboard

/-- A mailbox whose reply is outstanding is not served. -/
theorem dueMbox_ne {s : State} {f g : Nat} (h : dueMbox s = some g) (ho : Outstanding s f) : f ≠ g := by
  rintro rfl
  obtain ⟨hfree, hready⟩ := ready_of_dueMbox h
  obtain ⟨hf, hout⟩ := ho
  have hbusy : (mboxOf s f).respHeld = false ∧ (mboxOf s f).exec = false := by
    cases hm : alFind s.mgmt.mboxes f with
    | none => simp [mboxOf, alGet, hm]
    | some m =>
      have hbox : mboxOf s f = m := alGet_of_alFind _ _ _ _ hm
      simp only [mgmtFree, Bool.and_eq_true, Bool.not_eq_true', List.any_eq_false] at hfree
      have := hfree.2 (f, m) (mem_of_alFind hm)
      rw [hbox]
      simpa using this
  simp only [mboxReady, if_neg hf, Bool.and_eq_true, Bool.not_eq_true'] at hready
  simp [hready.2, hbusy.1, hbusy.2] at hout

/-- The answers to other requests are mail, and leave a mailbox whose reply is outstanding. -/
theorem answerPlain_spec (fuel : Nat) (s : State) :
    Mailed s (answerPlain fuel s) ∧ ∀ f, Outstanding s f → mboxOf (answerPlain fuel s) f = mboxOf s f := by
  induction fuel generalizing s with
  | zero => exact ⟨.refl s, fun _ _ => rfl⟩
  | succ fuel ih =>
    have hgo {g : Nat} {u : State} (hdue : dueMbox s = some g) (hpost : Posts g s u) :
        Mailed s (answerPlain fuel u) ∧ ∀ f, Outstanding s f → mboxOf (answerPlain fuel u) f = mboxOf s f := by
      obtain ⟨hmailed, hkept⟩ := ih u
      refine ⟨hpost.toMailed.trans hmailed, fun f ho => ?_⟩
      have hbox := hpost.others f (dueMbox_ne hdue ho)
      rw [hkept f (by rw [Outstanding, hbox]; exact ho), hbox]
    rw [answerPlain]
    split
    · exact ⟨.refl s, fun _ _ => rfl⟩
    next g hdue =>
      split
      · exact ⟨.refl s, fun _ _ => rfl⟩
      next hplain =>
        simp only [plainRequest, Bool.not_eq_true', Bool.not_eq_false] at hplain
        split
        next c hc => exact hgo hdue (posts_answerSpdm hc _)
        next hc =>
          rw [hc] at hplain
          refine hgo hdue (posts_handleMsg (fun s r => ⟨_, rfl⟩) (fun i hi => ?_))
          rw [show (reqOf g (mboxMsg s g)).op = fieldAt (mboxMsg s g) 0 2 from rfl] at hi
          simp [hi] at hplain

theorem mailed_settleMail (s : State) : Mailed s (settleMail s) := (answerPlain_spec _ s).1

theorem mboxOf_settleMail {s : State} {f : Nat} (h : Outstanding s f) : mboxOf (settleMail s) f = mboxOf s f :=
  (answerPlain_spec _ s).2 f h

end Sys2Proof.Machine
end

section
/-! A request that passes the checks is carried out (R430, R438). -/

namespace Sys2Proof.Machine

section
variable {s s1 : State} {f op : Nat} {r : Req} (hc : Carries s f op r s1)
include hc

/-- What a request that passes the checks says of itself. -/
theorem Carries.req : r = reqOf f (mboxMsg s f) ∧ r.op = op ∧ r.fn = f ∧ r.msg = mboxMsg s f := by
  obtain ⟨⟨-, -, -, hr, hop, -⟩, -⟩ := hc
  exact ⟨hr, hop, by rw [hr]; rfl, by rw [hr]; rfl⟩

/-- The checks of an opcode that needs no key leave the state in which the request was taken. -/
theorem Carries.taken (hperm : ∀ i, opInfo op = some i → i.perm = none) : s1 = Taken s f := by
  obtain ⟨-, hop, -, -⟩ := hc.req
  have hstate := checkReq_state (s := Taken s f) (r := r) (by rw [hop]; exact hperm)
  rw [hc.2] at hstate
  exact hstate

/-- Its opcode is assigned, and its sender may send it (R442). -/
theorem Carries.sender : ∃ i, opInfo op = some i ∧ senderOk f i.who = true := by
  obtain ⟨-, hop, hfn, -⟩ := hc.req
  have hcheck := hc.2
  rw [checkReq, hop] at hcheck
  cases hi : opInfo op with
  | none => simp [hi] at hcheck
  | some i =>
    refine ⟨i, rfl, ?_⟩
    rw [← hfn]
    cases hs : senderOk r.fn i.who with
    | true => rfl
    | false =>
      simp only [hi, hs, Bool.not_false, if_true] at hcheck
      split_ifs at hcheck <;> cases hcheck

/-- A request of a tenant's own comes from a function. -/
theorem Carries.fn_lt {i : OpInfo} (hi : opInfo op = some i) (hwho : i.who = .own ∨ i.who = .ownOrPf) : f < 1024 := by
  obtain ⟨j, hj, hsend⟩ := hc.sender
  rw [hi] at hj
  cases hj
  rcases hwho with hw | hw <;> rw [hw] at hsend <;> exact of_decide_eq_true hsend

/-- Serving it calls what carries it out. -/
theorem Carries.serveOp_eq (h : State → Req → Done × State) :
    serveOp op h s = settleMail (handleMsg s f r.msg h) := by
  obtain ⟨hreq, hr, -, hmsg⟩ := hc.req
  obtain ⟨⟨hretry, hdue, hboard, -, -, -⟩, -⟩ := hc
  have hskip : ((f = boardFn && boardSpdm s) || fieldAt (mboxMsg s f) 0 2 != op) = false := by
    have hcode : fieldAt (mboxMsg s f) 0 2 = op := by rw [← hr, hreq]; rfl
    by_cases hf : f = boardFn
    · simp [hboard hf, hcode]
    · simp [hf, hcode]
  rw [serveOp, hretry]
  simp only [hdue, hskip, hmsg, Bool.false_eq_true, if_false]

/-- Reading the message again gives the request, which is the next in sequence and passes the checks (R435, R438). -/
theorem Carries.checked : reqOf f r.msg = r ∧ fieldAt r.msg 8 4 = nextSeqNo (mboxOf s f).l ∧
    checkReq (modMbox (takeRequest s f) f (fun m => { m with
      l := fieldAt r.msg 8 4, hostAcked := fieldAt r.msg 12 4, copy := r.msg })) r = (none, s1) := by
  obtain ⟨hreq, -, -, hmsg⟩ := hc.req
  obtain ⟨⟨-, -, -, -, -, hseq⟩, hcheck⟩ := hc
  refine ⟨by rw [hmsg, ← hreq], hseq, ?_⟩
  rw [hmsg]
  exact hcheck

/-- A request that is carried out to a reply (R430). -/
theorem Carries.handleMsg_rep (hop : op ≠ 2) {h : State → Req → Done × State} {rep : Rep} {s4 : State} (hh : h s1 r = (.rep rep, s4)) :
    handleMsg s f r.msg h = numberedReply s4 f r.msg rep := by
  obtain ⟨-, hr, -, -⟩ := hc.req
  obtain ⟨hreq, hseq, hcheck⟩ := hc.checked
  have hne : r.op ≠ 0x0002 := by rw [hr]; exact hop
  simp only [handleMsg, hreq, if_neg hne, if_pos hseq, hcheck, hh]

/-- A request whose reply comes later (R430). -/
theorem Carries.handleMsg_later (hop : op ≠ 2) {h : State → Req → Done × State} {s4 : State} (hh : h s1 r = (.later, s4)) :
    handleMsg s f r.msg h =
      mirror (modMbox s4 f (fun m => { m with exec := true })) (.mbSeq f (fieldAt r.msg 8 4) (mboxOf s f).d) := by
  obtain ⟨-, hr, -, -⟩ := hc.req
  obtain ⟨hreq, hseq, hcheck⟩ := hc.checked
  have hne : r.op ≠ 0x0002 := by rw [hr]; exact hop
  simp only [handleMsg, hreq, if_neg hne, if_pos hseq, hcheck, hh]

/-- A request that is carried out to a reply leaves the reply in its mailbox, and mail behind it (R430, R433). -/
theorem Carries.replied (hop : op ≠ 2) {h : State → Req → Done × State} {rep : Rep} {s4 : State} (hh : h s1 r = (.rep rep, s4))
    (hboxes : s4.mgmt.mboxes = s1.mgmt.mboxes) : Mailed s4 (serveOp op h s) ∧ Replied s1 (serveOp op h s) f r rep := by
  obtain ⟨hpost, hans⟩ := numberedReply_spec s4 f r.msg rep
  rw [hc.serveOp_eq, hc.handleMsg_rep hop hh]
  refine ⟨hpost.toMailed.trans (mailed_settleMail _), ?_⟩
  by_cases hf : f = boardFn
  · exact .inl hf
  · obtain ⟨hresp, hl, hd, hexec, hout⟩ := hans hf
    have hbox : mboxOf s4 f = mboxOf s1 f := by rw [mboxOf, hboxes, mboxOf]
    rw [hbox] at hresp hl hd
    refine .inr ?_
    rw [mboxOf_settleMail ⟨hf, hout.elim .inl (fun h => .inr (.inl h))⟩]
    exact ⟨hresp, hl, hd, hexec, hout⟩

/-- A command that serves such a request ends with the reply in its mailbox. -/
theorem Carries.completes_rep (hop : op ≠ 2) {h : State → Req → Done × State} {rep : Rep} {s4 : State} (hh : h s1 r = (.rep rep, s4))
    (hboxes : s4.mgmt.mboxes = s1.mgmt.mboxes) :
    ∃ t, completes s (serveOp op h s) = .next t ∧ Mailed s4 t ∧ Replied s1 t f r rep := by
  obtain ⟨hmailed, hrep⟩ := hc.replied hop hh hboxes
  exact ⟨_, rfl, hmailed.completed s, hrep⟩

end

/-- A request is taken out of its mailbox: nothing changes but the controller's own. -/
theorem taken_eq (s : State) (f : Nat) : ∃ m, Taken s f = { s with mgmt := m } := by
  simp only [Taken, takeRequest]
  split <;> exact ⟨_, rfl⟩

/-- What the management controller holds may differ: the rest of the part is as before. -/
theorem Carries.exists_mgmt {s s1 : State} {f op : Nat} {r : Req} (hc : Carries s f op r s1)
    (hperm : ∀ i, opInfo op = some i → i.perm = none) : ∃ m, s1 = { s with mgmt := m } := by
  obtain ⟨m, hm⟩ := taken_eq s f
  exact ⟨m, (hc.taken hperm).trans hm⟩

end Sys2Proof.Machine
end

section
/-! What a tenant's messages of policies, versioned tensors and the bench pool do (R121, R151, R153, R411 to R413). -/

namespace Sys2Proof.Machine

/-- A check of a quota changes marks of tenants and raises events (Table 13.5). -/
theorem checkQuota_eq (s : State) (tenant : Nat) :
    ∃ tenants fns host, checkQuota s tenant = { s with sched.tenants := tenants, fns := fns, host := host } := by
  simp only [checkQuota]
  split
  · exact ⟨_, _, _, rfl⟩
  next t _ =>
    split_ifs
    · obtain ⟨fns, host, hraise⟩ := onlyHostSide_raiseEv
        { s with sched.tenants := alPut s.sched.tenants tenant { t with overQuota := true } } tenant gQOS 5 none
      rw [hraise]
      exact ⟨_, _, _, rfl⟩
    · exact ⟨_, _, _, rfl⟩
    · exact ⟨_, _, _, rfl⟩

/-- A name that an association list holds at some place is found. -/
theorem alFind_isSome_of_mem {α : Type} {m : AL α} {k : Nat} {v : α} (h : (k, v) ∈ m) : (alFind m k).isSome = true := by
  induction m with
  | nil => cases h
  | cons e r ih =>
    obtain ⟨k', v'⟩ := e
    simp only [alFind]
    split
    · rfl
    next hne =>
      rcases List.mem_cons.mp h with he | hr
      · cases he
        exact absurd rfl hne
      · exact ih hr

/-- FLAG_READ answers the flag (Table 15.9). -/
theorem flagRead_completes {f : Nat} {r : Req} {s s1 : State} (hc : Carries s f 0x0107 r s1) (hactor : actorBad r = false)
    (hflag : r.f 0 2 < 16384) (hgrant : flagGranted s r.actor (r.f 0 2) = true) :
    ∃ t, exec .flagRead s = .next t ∧ Replied s1 t f r (okRep (leBytes 8 (flagOf s (r.f 0 2)))) ∧ MailOnly s1 t := by
  obtain ⟨m, rfl⟩ := hc.exists_mgmt (fun i hi => by cases hi; rfl)
  have hrun : hFlagRead { s with mgmt := m } r = (.rep (okRep (leBytes 8 (flagOf s (r.f 0 2)))), { s with mgmt := m }) := by
    have hgrant' : flagGranted { s with mgmt := m } r.actor (r.f 0 2) = true := hgrant
    simp only [hFlagRead, hactor, decide_eq_false (Nat.not_le.mpr hflag), hgrant', Bool.or_self, Bool.false_eq_true, if_false,
      Bool.not_true]
    rfl
  obtain ⟨t, ht, hmailed, hrep⟩ := hc.completes_rep (by decide) hrun rfl
  exact ⟨t, ht, hrep, hmailed.mailOnly⟩

/-- SET_PRECISION_POLICY sets the word (R121). -/
theorem setPrecisionPolicy_completes {f : Nat} {r : Req} {s s1 : State} (hc : Carries s f 0x0120 r s1) (hactor : r.actor < 1024)
    (hnum : r.f 0 1 ≤ 7) (hhigh : bits (r.f 8 8) 63 56 = 0) (hmid : bits (r.f 8 8) 50 48 = 0) :
    ∃ t, exec .setPrecisionPolicy s = .next t ∧ Replied s1 t f r (okRep []) ∧ t.mem = s.mem ∧ t.cores = s.cores ∧ t.fe = s.fe ∧
      t.sched = s.sched ∧ (fnOf t r.actor).policies = (fnOf s r.actor).policies.set (r.f 0 1) (r.f 8 8) := by
  obtain ⟨m, rfl⟩ := hc.exists_mgmt (fun i hi => by cases hi; rfl)
  have hrun : hSetPrecisionPolicy { s with mgmt := m } r =
      (.rep (okRep []), modFn { s with mgmt := m } r.actor (fun x => { x with policies := x.policies.set (r.f 0 1) (r.f 8 8) })) := by
    have hbad : actorBad r = false := decide_eq_false (Nat.not_le.mpr hactor)
    simp only [hSetPrecisionPolicy, hbad, decide_eq_false (Nat.not_lt.mpr hnum), hhigh, hmid, bne_self_eq_false, Bool.or_self,
      Bool.false_eq_true, if_false]
    rfl
  obtain ⟨t, ht, hmailed, hrep⟩ := hc.completes_rep (by decide) hrun rfl
  exact ⟨t, ht, hrep, hmailed.mem, hmailed.cores, hmailed.fe, hmailed.sched,
    (hmailed.policies r.actor).trans (congrArg Fn.policies (fnOf_modFn_self _ _ _) :)⟩

/-- VTENSOR_REGISTER takes the lowest number that is free (R151). -/
theorem vtensorRegister_completes {f k : Nat} {r : Req} {s s1 : State} (hc : Carries s f 0x0121 r s1) (hlo : 2 ≤ r.f 0 1)
    (hhi : r.f 0 1 ≤ 4) (hslot : r.f 8 8 % 128 = 0)
    (hbases : ∀ i, i < 4 → (if i < r.f 0 1 then r.f (16 + 8 * i) 8 % 128 = 0 else r.f (16 + 8 * i) 8 = 0))
    (hfree : freeTensor s = some k) :
    ∃ t, exec .vtensorRegister s = .next t ∧ Replied s1 t f r (okRep (leBytes 2 k)) ∧ t.mem = s.mem ∧ t.cores = s.cores ∧
      t.vtensors = alPut s.vtensors k
        { tenant := f, slotBytes := r.f 8 8, bases := (List.range (r.f 0 1)).map (fun i => r.f (16 + 8 * i) 8) } := by
  obtain ⟨-, -, hfn, -⟩ := hc.req
  obtain ⟨m, rfl⟩ := hc.exists_mgmt (fun i hi => by cases hi; rfl)
  have hbad : (List.range 4).any (fun k => if k < r.f 0 1 then r.f (16 + 8 * k) 8 % 128 != 0 else r.f (16 + 8 * k) 8 != 0) = false := by
    rw [List.any_eq_false]
    intro i hi
    have hbase := hbases i (List.mem_range.mp hi)
    split at hbase <;> simp [*]
  have hfree' : freeTensor { s with mgmt := m } = some k := hfree
  have hrun : hVtensorRegister { s with mgmt := m } r = (.rep (okRep (leBytes 2 k)), { s with
      mgmt := m
      vtensors := alPut s.vtensors k
        { tenant := f, slotBytes := r.f 8 8, bases := (List.range (r.f 0 1)).map (fun i => r.f (16 + 8 * i) 8) } }) := by
    simp only [hVtensorRegister, decide_eq_false (Nat.not_lt.mpr hlo), decide_eq_false (Nat.not_lt.mpr hhi), hslot, hbad,
      bne_self_eq_false, Bool.or_self, Bool.false_eq_true, if_false, hfree', hfn]
    rfl
  obtain ⟨t, ht, hmailed, hrep⟩ := hc.completes_rep (by decide) hrun rfl
  exact ⟨t, ht, hrep, hmailed.mem, hmailed.cores, hmailed.vtensors⟩

/-- VTENSOR_UNREGISTER removes the tensor with its captures (R153). -/
theorem vtensorUnregister_completes {f : Nat} {r : Req} {s s1 : State} {v : VTensor} (hc : Carries s f 0x0122 r s1)
    (hnum : r.f 0 2 < 4096) (hv : alFind s.vtensors (r.f 0 2) = some v) (hown : v.tenant = f)
    (hused : tensorUsed s (r.f 0 2) = false) :
    ∃ t, exec .vtensorUnregister s = .next t ∧ Replied s1 t f r (okRep []) ∧ t.mem = s.mem ∧ t.cores = s.cores ∧
      t.vtensors = alDel s.vtensors (r.f 0 2) ∧ ∀ c ∈ t.captures, c.2.tensor ≠ r.f 0 2 := by
  obtain ⟨-, -, hfn, -⟩ := hc.req
  obtain ⟨m, rfl⟩ := hc.exists_mgmt (fun i hi => by cases hi; rfl)
  have hused' : tensorUsed { s with mgmt := m } (r.f 0 2) = false := hused
  have hrun : hVtensorUnregister { s with mgmt := m } r = (.rep (okRep []), dropTensor { s with mgmt := m } (r.f 0 2)) := by
    simp only [hVtensorUnregister, if_neg (Nat.not_le.mpr hnum), hv, hown, hfn, bne_self_eq_false, hused', Bool.false_eq_true, if_false]
    rfl
  obtain ⟨t, ht, hmailed, hrep⟩ := hc.completes_rep (by decide) hrun rfl
  refine ⟨t, ht, hrep, hmailed.mem, hmailed.cores, hmailed.vtensors, fun c hmem => ?_⟩
  rw [hmailed.captures] at hmem
  simpa using (List.mem_filter.mp hmem).2

/-- BENCH_POOL_CREATE makes the pool (R411, R412). -/
theorem benchPoolCreate_completes {f : Nat} {r : Req} {s s1 : State} {tn : Tenant} {p : Pool} (hc : Carries s f 0x0130 r s1)
    (htn : alFind s.sched.tenants f = some tn) (hbad : poolBad s r = false) (hnone : alFind s.pools tn.part = none)
    (hp : p = (let p0 : Pool := { owner := f, base := r.f 0 8, pages := r.f 8 4, tpp := r.f 12 2, maxSeq := r.f 16 4,
                                  maxPages := r.f 20 4, pageBytes := 65536 }
               { p0 with area := areaPlace s f (poolBytes p0) }))
    (huse : memUse { s with pools := alPut s.pools tn.part p } f ≤ tn.memQuota)
    (hroom : roomFor { s with pools := alPut s.pools tn.part p } f = true) :
    ∃ t, exec .benchPoolCreate s = .next t ∧ Replied s1 t f r (okRep []) ∧ t.mem = s.mem ∧ t.cores = s.cores ∧
      t.pools = alPut s.pools tn.part p := by
  obtain ⟨-, -, hfn, -⟩ := hc.req
  obtain ⟨m, rfl⟩ := hc.exists_mgmt (fun i hi => by cases hi; rfl)
  have hrun : hBenchPoolCreate { s with mgmt := m } r =
      (.rep (okRep []), checkQuota { s with mgmt := m, pools := alPut s.pools tn.part p } f) := by
    have hbad' : poolBad { s with mgmt := m } r = false := hbad
    have huse' : memUse { s with mgmt := m, pools := alPut s.pools tn.part p } f ≤ tn.memQuota := huse
    have hroom' : roomFor { s with mgmt := m, pools := alPut s.pools tn.part p } f = true := hroom
    have hplace : areaPlace { s with mgmt := m } f = areaPlace s f := rfl
    subst hp
    simp only [hBenchPoolCreate, hbad', hfn, htn, hnone, Option.isSome_none, hplace, Bool.false_eq_true, if_false]
    rw [if_neg (by simp [huse', hroom'])]
    rfl
  obtain ⟨tenants, fns, host, hquota⟩ := checkQuota_eq { s with mgmt := m, pools := alPut s.pools tn.part p } f
  rw [hquota] at hrun
  obtain ⟨t, ht, hmailed, hrep⟩ := hc.completes_rep (by decide) hrun rfl
  exact ⟨t, ht, hrep, hmailed.mem, hmailed.cores, hmailed.pools⟩

/-- BENCH_POOL_DESTROY removes the pool (R413). -/
theorem benchPoolDestroy_completes {f part : Nat} {r : Req} {s s1 : State} {p : Pool} (hc : Carries s f 0x0131 r s1)
    (hp : poolOf s f = some (part, p)) (hbusy : poolBusy s part = false) :
    ∃ t, exec .benchPoolDestroy s = .next t ∧ Replied s1 t f r (okRep []) ∧ t.mem = s.mem ∧ t.cores = s.cores ∧
      t.pools = alDel s.pools part := by
  obtain ⟨-, -, hfn, -⟩ := hc.req
  obtain ⟨m, rfl⟩ := hc.exists_mgmt (fun i hi => by cases hi; rfl)
  obtain ⟨q, hq⟩ := Option.isSome_iff_exists.mp (alFind_isSome_of_mem (List.mem_of_find?_eq_some hp))
  have hrun : hBenchPoolDestroy { s with mgmt := m } r =
      (.rep (okRep []), checkQuota { s with mgmt := m, pools := alDel s.pools part } q.owner) := by
    have hp' : poolOf { s with mgmt := m } f = some (part, p) := hp
    have hbusy' : poolBusy { s with mgmt := m } part = false := hbusy
    simp only [hBenchPoolDestroy, hfn, hp', hbusy', Bool.false_eq_true, if_false, dropPool, hq]
    rfl
  obtain ⟨tenants, fns, host, hquota⟩ := checkQuota_eq { s with mgmt := m, pools := alDel s.pools part } q.owner
  rw [hquota] at hrun
  obtain ⟨t, ht, hmailed, hrep⟩ := hc.completes_rep (by decide) hrun rfl
  exact ⟨t, ht, hrep, hmailed.mem, hmailed.cores, hmailed.pools⟩

/-- BENCH_SEQ_QUERY answers a sequence's fields (Table 15.9). -/
theorem benchSeqQuery_completes {f part : Nat} {r : Req} {s s1 : State} {p : Pool} (hc : Carries s f 0x0132 r s1)
    (hp : poolOf s f = some (part, p)) (hseq : r.f 0 2 < p.maxSeq) :
    ∃ t, exec .benchSeqQuery s = .next t ∧ MailOnly s1 t ∧ Replied s1 t f r (okRep (seqFields (alFind p.seqs (r.f 0 2)))) := by
  obtain ⟨-, -, hfn, -⟩ := hc.req
  obtain ⟨m, rfl⟩ := hc.exists_mgmt (fun i hi => by cases hi; rfl)
  have hrun : hBenchSeqQuery { s with mgmt := m } r =
      (.rep (okRep (seqFields (alFind p.seqs (r.f 0 2)))), { s with mgmt := m }) := by
    have hp' : poolOf { s with mgmt := m } f = some (part, p) := hp
    simp only [hBenchSeqQuery, hfn, hp', if_neg (Nat.not_le.mpr hseq)]
    rfl
  obtain ⟨t, ht, hmailed, hrep⟩ := hc.completes_rep (by decide) hrun rfl
  exact ⟨t, ht, hmailed.mailOnly, hrep⟩

end Sys2Proof.Machine
end

section
/-! Code images: loads and unloads (R206 to R211). -/

namespace Sys2Proof.Machine

/-! ### Granules that are freed (R289, R305) -/

/-- `t` comes from `s` with granules freed: the rest of the part and the cells of memory are as before. -/
structure Reclaims (s t : State) : Prop where
  apart : t.apart = s.apart
  cells : t.mem.mem = s.mem.mem

namespace Reclaims

theorem refl (s : State) : Reclaims s s := ⟨rfl, rfl⟩

theorem trans {s t u : State} (h : Reclaims s t) (h' : Reclaims t u) : Reclaims s u :=
  ⟨h'.apart.trans h.apart, h'.cells.trans h.cells⟩

end Reclaims

section
variable {s t : State} (h : Reclaims s t)
include h

theorem Reclaims.cores : t.cores = s.cores := (congrArg State.cores h.apart :)
theorem Reclaims.images : t.images = s.images := (congrArg State.images h.apart :)
theorem Reclaims.nextImage : t.nextImage = s.nextImage := (congrArg State.nextImage h.apart :)
theorem Reclaims.mboxes : t.mgmt.mboxes = s.mgmt.mboxes := (congrArg (fun x : State => x.mgmt.mboxes) h.apart :)

end

theorem Accesses.reclaims {s t : State} (h : Accesses s t) : Reclaims s t := ⟨h.apart, h.cells⟩

theorem accesses_freeSides (s : State) (r : Nat) (p : SideEntry → Bool) : Accesses s (freeSides s r p) :=
  (Accesses.foldl (fun _ _ => accesses_ccBump _ _ _ _ _ _) _ s).trans (accesses_modRegion rfl)

theorem queues_foldl_dropWay (ks : List Nat) (x : Region) :
    (ks.foldl (fun x k => dropWay x (k / 16) (k % 16)) x).queues = x.queues := by
  induction ks generalizing x with
  | nil => rfl
  | cons k r ih => exact (ih _).trans rfl

theorem accesses_voidRange (s : State) (base n : Nat) : Accesses s (voidRange s base n) :=
  .foldl (fun _ _ => (accesses_modRegion (queues_foldl_dropWay _ _)).trans (accesses_freeSides _ _ _)) _ s

theorem reclaims_freeGranule (s : State) (g : Nat) : Reclaims s (freeGranule s g) := by
  have hfreed : Reclaims s { s with mem.grans := alDel s.mem.grans g } := ⟨rfl, rfl⟩
  simp only [freeGranule]
  split
  · split
    · exact hfreed.trans (offSlices_retireNow _ _ _).toAccesses.reclaims
    · exact hfreed
  · exact hfreed

theorem reclaims_releaseGranules (s : State) (gs : List Nat) : Reclaims s (releaseGranules s gs) :=
  foldl_related Reclaims.refl Reclaims.trans
    (fun _ _ => (accesses_voidRange _ _ _).reclaims.trans (reclaims_freeGranule _ _)) gs s

/-! ### Granules that are allocated (R283, R287) -/

/-- A state without what the placing of code changes: what accesses change, and caches of cores. -/
def State.uncached (s : State) : State := { s with cores := [] }.apart

/-- `t` comes from `s` with bytes placed in memory: the rest of the part, and every core's groups and blocks, are as before. -/
structure Places (s t : State) : Prop where
  rest : t.uncached = s.uncached
  work : ∀ c, (execOf t c).groups = (execOf s c).groups ∧ (execOf t c).blocks = (execOf s c).blocks

namespace Places

theorem refl (s : State) : Places s s := ⟨rfl, fun _ => ⟨rfl, rfl⟩⟩

theorem trans {s t u : State} (h : Places s t) (h' : Places t u) : Places s u :=
  ⟨h'.rest.trans h.rest, fun c => ⟨(h'.work c).1.trans (h.work c).1, (h'.work c).2.trans (h.work c).2⟩⟩

/-- A change that leaves cores. -/
theorem of_cores {s t : State} (h : t.uncached = s.uncached) (hc : t.cores = s.cores) : Places s t :=
  ⟨h, fun c => by simp only [execOf, coreOf, hc, and_self]⟩

end Places

theorem Reclaims.places {s t : State} (h : Reclaims s t) : Places s t :=
  .of_cores (congrArg (fun x : State => { x with cores := [] }) h.apart :) (congrArg State.cores h.apart :)

theorem Accesses.places {s t : State} (h : Accesses s t) : Places s t := h.reclaims.places

/-- A change of every core that keeps groups and blocks. -/
theorem places_mapCores {s : State} {g : Core → Core}
    (hg : ∀ c, (g c).exec.groups = c.exec.groups ∧ (g c).exec.blocks = c.exec.blocks) :
    Places s { s with cores := alMap s.cores (fun _ c => g c) } := by
  refine ⟨rfl, fun c => ?_⟩
  simp only [execOf, coreOf, alGet]
  induction s.cores with
  | nil => exact ⟨rfl, rfl⟩
  | cons e r ih =>
    obtain ⟨k, x⟩ := e
    simp only [alMap, List.map_cons, alFind] at ih ⊢
    split
    · exact hg x
    · exact ih

theorem places_clearRange (s : State) (base n : Nat) : Places s (clearRange s base n) := by
  simp only [clearRange]
  refine Places.trans ?_ (places_mapCores (fun c => ⟨rfl, rfl⟩))
  refine foldl_related Places.refl Places.trans (fun _ _ => ?_) _ s
  exact (Accesses.trans (accesses_modRegion rfl) (accesses_freeSides _ _ _)).places

theorem places_zeroRange (s : State) (base n : Nat) : Places s (zeroRange s base n) :=
  (places_clearRange s base n).trans (.of_cores rfl rfl)

theorem places_stampRange (s : State) (base n : Nat) : Places s (stampRange s base n) := .of_cores rfl rfl

theorem places_grans (s : State) (x : AL GranUse) : Places s { s with mem.grans := x } := .of_cores rfl rfl

theorem places_allocGranules (s : State) (gs : List Nat) (u : GranUse) : Places s (allocGranules s gs u) :=
  foldl_related Places.refl Places.trans
    (fun _ _ => ((places_zeroRange _ _ _).trans (places_stampRange _ _ _)).trans (places_grans _ _)) gs s

theorem places_writeRegion (s : State) (part tenant : Nat) (gs : List Nat) (b : List Byte) :
    Places s (writeRegion s part tenant gs b) := by
  induction gs generalizing s b with
  | nil => exact .refl s
  | cons g r ih => exact (accesses_devWrite _ _ _ _ _ _).places.trans (ih _ _)

/-! ### Loads (R206 to R209) -/

/-- The image that a load enters, and its handle (R209). -/
theorem enterImage_spec (s : State) (tenant part : Nat) (im mp rs : List Byte) (gs : List Nat) :
    (∀ c, (execOf (enterImage s tenant part im mp rs gs) c).groups = (execOf s c).groups ∧
      (execOf (enterImage s tenant part im mp rs gs) c).blocks = (execOf s c).blocks) ∧
    (enterImage s tenant part im mp rs gs).mgmt.mboxes = s.mgmt.mboxes ∧
    (enterImage s tenant part im mp rs gs).nextImage = s.nextImage + 1 ∧
    (enterImage s tenant part im mp rs gs).images = alPut s.images s.nextImage
      { tenant := tenant, kernels := acceptedKernels im mp rs, bytes := im.length + mp.length + rs.length, region := gs } := by
  have hplaced := (places_allocGranules s gs (.code tenant s.nextImage)).trans
    (places_writeRegion _ part tenant gs (lineFill (im ++ mp ++ rs)))
  have himages : (writeRegion (allocGranules s gs (.code tenant s.nextImage)) part tenant gs (lineFill (im ++ mp ++ rs))).images =
      s.images := (congrArg State.images hplaced.rest :)
  refine ⟨hplaced.work, (congrArg (fun x : State => x.mgmt.mboxes) hplaced.rest :), rfl, ?_⟩
  rw [enterImage, himages]

/-- CODE_LOAD answers the verdict of an image that fails verification, and enters another under a new handle (R206 to R209). -/
theorem codeLoad_completes {f : Nat} {r : Req} {s s1 s2 s3 s4 : State} {tn : Tenant} {im mp rs : List Byte} {gs : List Nat}
    (hc : Carries s f 0x0110 r s1) (htn : alFind s.sched.tenants f = some tn)
    (him : agentRead s1 f tn.part (r.f 0 8) (r.f 8 4) .plain = (.ok im, s2))
    (hmp : agentRead s2 f tn.part (r.f 16 8) (r.f 24 4) .plain = (.ok mp, s3))
    (hrs : agentRead s3 f tn.part (r.f 32 8) (r.f 40 4) .plain = (.ok rs, s4))
    (huse : memUse s4 f + codeGranules (im.length + mp.length + rs.length) ≤ tn.memQuota)
    (hgs : findGranules s4 (granSets s4 tn.part) (codeGranules (im.length + mp.length + rs.length)) = some gs) :
    ∃ t, exec .codeLoad s = .next t ∧
      (∀ c, (execOf t c).groups = (execOf s c).groups ∧ (execOf t c).blocks = (execOf s c).blocks) ∧
      (∀ v, verdict s4 im mp rs = some v → t.cores = s.cores ∧ Replied s1 t f r (verifyRep v (Config.imageFault im mp rs v)) ∧
        t.images = s.images ∧ t.nextImage = s.nextImage) ∧
      (verdict s4 im mp rs = none → Replied s1 t f r (okRep (leBytes 8 s.nextImage)) ∧ t.nextImage = s.nextImage + 1 ∧
        ∃ x, t.images = alPut s.images s.nextImage x ∧ x.tenant = f ∧ x.bytes = im.length + mp.length + rs.length ∧
          x.region = gs ∧ x.unloading = false) := by
  obtain ⟨-, -, hfn, -⟩ := hc.req
  obtain ⟨m, hs1⟩ := hc.exists_mgmt (fun i hi => by cases hi; rfl)
  have htn1 : alFind s1.sched.tenants f = some tn := by rw [hs1]; exact htn
  have hread : Accesses s1 s4 := by
    have h1 : Accesses s1 s2 := by simpa [him] using accesses_agentRead s1 f tn.part (r.f 0 8) (r.f 8 4) .plain false 0
    have h2 : Accesses s2 s3 := by simpa [hmp] using accesses_agentRead s2 f tn.part (r.f 16 8) (r.f 24 4) .plain false 0
    have h3 : Accesses s3 s4 := by simpa [hrs] using accesses_agentRead s3 f tn.part (r.f 32 8) (r.f 40 4) .plain false 0
    exact (h1.trans h2).trans h3
  have hcores : s4.cores = s.cores := by rw [hread.cores, hs1]
  have himages : s4.images = s.images := hread.reclaims.images.trans (by rw [hs1])
  have hnext : s4.nextImage = s.nextImage := hread.reclaims.nextImage.trans (by rw [hs1])
  have hexec (c : Nat) : execOf s4 c = execOf s c := by rw [execOf, coreOf, hcores, execOf, coreOf]
  cases hv : verdict s4 im mp rs with
  | some v =>
    have hrun : hCodeLoad s1 r = (.rep (verifyRep v (Config.imageFault im mp rs v)), s4) := by
      simp only [hCodeLoad, hfn, htn1, him, hmp, hrs, hv]
    obtain ⟨t, ht, hmailed, hrep⟩ := hc.completes_rep (by decide) hrun hread.mboxes
    refine ⟨t, ht, fun c => ?_, fun w hw => ?_, fun hnone => nomatch hnone⟩
    · have hkept : execOf t c = execOf s c := by rw [execOf, coreOf, hmailed.cores, hcores, execOf, coreOf]
      exact ⟨by rw [hkept], by rw [hkept]⟩
    · cases hw
      exact ⟨hmailed.cores.trans hcores, hrep, hmailed.images.trans himages, hmailed.nextImage.trans hnext⟩
  | none =>
    have hrun : hCodeLoad s1 r = (.rep (okRep (leBytes 8 s4.nextImage)), checkQuota (enterImage s4 f tn.part im mp rs gs) f) := by
      simp only [hCodeLoad, hfn, htn1, him, hmp, hrs, hv, if_neg (Nat.not_lt.mpr huse), hgs]
      rfl
    obtain ⟨hwork, hboxes, hhandle, hentered⟩ := enterImage_spec s4 f tn.part im mp rs gs
    obtain ⟨tenants, fns, host, hquota⟩ := checkQuota_eq (enterImage s4 f tn.part im mp rs gs) f
    rw [hquota] at hrun
    obtain ⟨t, ht, hmailed, hrep⟩ := hc.completes_rep (by decide) hrun (hboxes.trans hread.mboxes)
    refine ⟨t, ht, fun c => ?_, fun w hw => (nomatch hw), fun _ => ⟨hnext ▸ hrep, ?_, ?_⟩⟩
    · have hkept : execOf t c = execOf (enterImage s4 f tn.part im mp rs gs) c := by
        rw [execOf, coreOf, hmailed.cores, execOf, coreOf]
      rw [hkept, (hwork c).1, (hwork c).2, hexec]
      exact ⟨rfl, rfl⟩
    · exact hmailed.nextImage.trans (hhandle.trans (by rw [hnext]))
    · exact ⟨_, hmailed.images.trans (hentered.trans (by rw [himages, hnext])), rfl, rfl, rfl, rfl⟩

/-! ### Unloads (R210, R211) -/

/-- What an unload leaves: memory's cells, cores and mailboxes as before, and the image is gone. -/
theorem dropImage_spec {s : State} {h : Nat} {i : Image} (hi : alFind s.images h = some i) :
    (dropImage s h).mem.mem = s.mem.mem ∧ (dropImage s h).cores = s.cores ∧ (dropImage s h).images = alDel s.images h ∧
      (dropImage s h).mgmt.mboxes = s.mgmt.mboxes := by
  simp only [dropImage, hi]
  generalize hstart : ({ s with clusters := _, images := alDel s.images h } : State) = s0
  have hfreed := reclaims_releaseGranules s0 i.region
  obtain ⟨tenants, fns, host, hquota⟩ := checkQuota_eq (releaseGranules s0 i.region) i.tenant
  rw [hquota]
  refine ⟨hfreed.cells.trans ?_, hfreed.cores.trans ?_, hfreed.images.trans ?_, hfreed.mboxes.trans ?_⟩ <;> rw [← hstart]

/-- CODE_UNLOAD of an image that no resident block runs frees it at once (R210). -/
theorem codeUnload_completes {f : Nat} {r : Req} {s s1 : State} {i : Image} (hc : Carries s f 0x0111 r s1)
    (hi : alFind s.images (r.f 0 8) = some i) (hown : i.tenant = f) (hruns : imageRuns s (r.f 0 8) = false) :
    ∃ t, exec .codeUnload s = .next t ∧ Replied s1 t f r (okRep []) ∧ t.mem.mem = s.mem.mem ∧ t.cores = s.cores ∧
      t.images = alDel s.images (r.f 0 8) := by
  obtain ⟨-, -, hfn, -⟩ := hc.req
  obtain ⟨m, rfl⟩ := hc.exists_mgmt (fun i hi => by cases hi; rfl)
  have hruns' : imageRuns { s with mgmt := m } (r.f 0 8) = false := hruns
  have hrun : hCodeUnload { s with mgmt := m } r = (.rep (okRep []), dropImage { s with mgmt := m } (r.f 0 8)) := by
    simp only [hCodeUnload, hi, hown, hfn, bne_self_eq_false, hruns', Bool.false_eq_true, if_false]
    rfl
  obtain ⟨hmem, hcores, himages, hboxes⟩ := dropImage_spec (s := { s with mgmt := m }) hi
  obtain ⟨t, ht, hmailed, hrep⟩ := hc.completes_rep (by decide) hrun hboxes
  exact ⟨t, ht, hrep, (congrArg MemSys.mem hmailed.mem :).trans hmem, hmailed.cores.trans hcores, hmailed.images.trans himages⟩

/-- A request that is taken keeps its mailbox's D (R435). -/
theorem d_taken (s : State) (f : Nat) : (mboxOf (Taken s f) f).d = (mboxOf s f).d := by
  simp only [Taken, mboxOf_modMbox_self, takeRequest]
  split
  · rfl
  · rw [mboxOf_modMbox_self]
    rfl

/-- CODE_UNLOAD of an image that runs answers later (R210). -/
theorem codeUnload_waits {f : Nat} {r : Req} {s s1 : State} {i : Image} (hc : Carries s f 0x0111 r s1)
    (hi : alFind s.images (r.f 0 8) = some i) (hown : i.tenant = f) (hruns : imageRuns s (r.f 0 8) = true) :
    ∃ t, exec .codeUnload s = .next t ∧ t.mem = s.mem ∧ t.cores = s.cores ∧ (mboxOf t f).exec = true ∧
      (mboxOf t f).d = (mboxOf s f).d ∧ alFind t.images (r.f 0 8) = some { i with unloading := true, waiter := some f } := by
  obtain ⟨-, -, hfn, -⟩ := hc.req
  have hf : f < 1024 := hc.fn_lt rfl (.inl rfl)
  have hd := d_taken s f
  rw [← hc.taken (fun i hi => by cases hi; rfl)] at hd
  obtain ⟨m, rfl⟩ := hc.exists_mgmt (fun i hi => by cases hi; rfl)
  have hruns' : imageRuns { s with mgmt := m } (r.f 0 8) = true := hruns
  generalize hs4 : ({ s with
      mgmt := m, images := alPut s.images (r.f 0 8) { i with unloading := true, waiter := some f } } : State) = s4
  have hrun : hCodeUnload { s with mgmt := m } r = (.later, s4) := by
    simp only [hCodeUnload, hi, hown, hfn, bne_self_eq_false, hruns', Bool.false_eq_true, if_false, if_true, ← hs4]
  obtain ⟨hsent, hboxes⟩ := mailed_mirror (modMbox s4 f (fun m => { m with exec := true })) (.mbSeq f (fieldAt r.msg 8 4) (mboxOf s f).d)
  have hbox := mboxOf_modMbox_self s4 f (fun m => { m with exec := true })
  rw [mboxOf, ← hboxes, ← mboxOf] at hbox
  have hout : Outstanding (mirror (modMbox s4 f (fun m => { m with exec := true })) (.mbSeq f (fieldAt r.msg 8 4) (mboxOf s f).d)) f :=
    ⟨by rw [boardFn]; omega, .inr (.inr (by rw [hbox]))⟩
  have hmailed := ((posts_modMbox s4 f (fun m => { m with exec := true })).toMailed.trans hsent).trans (mailed_settleMail _)
  refine ⟨_, rfl, ?_⟩
  rw [hc.serveOp_eq, hc.handleMsg_later (by decide) hrun]
  have hfinal := mboxOf_settleMail hout
  rw [hbox] at hfinal
  refine ⟨hmailed.mem.trans (by rw [← hs4]), hmailed.cores.trans (by rw [← hs4]), ?_, ?_, ?_⟩
  · exact (congrArg Mbox.exec hfinal :)
  · refine (congrArg Mbox.d hfinal :).trans ?_
    rw [← hd, ← hs4]
    rfl
  · refine (congrArg (fun x => alFind x (r.f 0 8)) hmailed.images :).trans ?_
    rw [← hs4]
    exact alFind_alPut_self _ _ _

/-- CODE_UNLOAD_EFFECT frees an image that no block runs any more, and answers its unload (R210, R211). -/
theorem codeUnloadEffect_completes {image f : Nat} {s : State} {i : Image} (hi : alFind s.images image = some i)
    (hun : i.unloading = true) (hruns : imageRuns s image = false) (hwait : i.waiter = some f) (hf : f < boardFn)
    (hexec : (mboxOf s f).exec = true) :
    ∃ t, exec (.codeUnloadEffect image) s = .next t ∧ t.mem.mem = s.mem.mem ∧ t.cores = s.cores ∧
      t.images = alDel s.images image ∧ (mboxOf t f).exec = false ∧
      (mboxOf t f).resp = replyBytes (mboxOf s f).copy (okRep []) (nextSeqNo (mboxOf s f).d) (mboxOf s f).l false := by
  obtain ⟨hmem, hcores, himages, hboxes⟩ := dropImage_spec hi
  have hbox : mboxOf (dropImage s image) f = mboxOf s f := by rw [mboxOf, hboxes, mboxOf]
  have hgo : (!i.unloading || imageRuns s image) = false := by rw [hun, hruns]; rfl
  obtain ⟨hpost, hans⟩ := numberedReply_spec { dropImage s image with mgmt.busy := none, mgmt.retry := none } f
    (mboxOf (dropImage s image) f).copy (okRep [])
  obtain ⟨hresp, -, -, hdone, hout⟩ := hans (by omega)
  have hmailed := hpost.toMailed.trans (mailed_settleMail _)
  have hkept := mboxOf_settleMail ⟨show f ≠ boardFn by omega, hout.elim .inl (fun h => .inr (.inl h))⟩
  refine ⟨_, rfl, ?_⟩
  simp only [hi, hgo, hwait, lateReply, hbox, hexec, Bool.false_eq_true, if_false, if_true]
  rw [hbox] at hresp hdone hkept hmailed
  refine ⟨(congrArg MemSys.mem hmailed.mem :).trans hmem, hmailed.cores.trans hcores, hmailed.images.trans himages, ?_, ?_⟩
  · exact (congrArg Mbox.exec hkept :).trans hdone
  · refine (congrArg Mbox.resp hkept :).trans (hresp.trans ?_)
    have hsame : mboxOf { dropImage s image with mgmt.busy := none, mgmt.retry := none } f = mboxOf s f := hbox
    rw [hsame]

end Sys2Proof.Machine
end

section
/-! Flags (R359 to R362): what the tests and ends of jobs that a write of a flag brings leave of flags and mailboxes. -/

namespace Sys2Proof.Machine

/-- `t` holds the flags and the mailboxes of `s`. -/
structure KeepsFlags (s t : State) : Prop where
  flags : t.fe.flags = s.fe.flags
  mboxes : t.mgmt.mboxes = s.mgmt.mboxes

namespace KeepsFlags

theorem refl (s : State) : KeepsFlags s s := ⟨rfl, rfl⟩

theorem trans {s t u : State} (h : KeepsFlags s t) (h' : KeepsFlags t u) : KeepsFlags s u :=
  ⟨h'.flags.trans h.flags, h'.mboxes.trans h.mboxes⟩

/-- One of two ways on. -/
theorem ite {c : Prop} [Decidable c] {s t u : State} (ht : KeepsFlags s t) (hu : KeepsFlags s u) :
    KeepsFlags s (if c then t else u) := by
  split
  · exact ht
  · exact hu

theorem foldl {α : Type} {f : State → α → State} (hf : ∀ s a, KeepsFlags s (f s a)) (l : List α) (s : State) :
    KeepsFlags s (l.foldl f s) := foldl_related refl trans hf l s

end KeepsFlags

theorem Accesses.keepsFlags {s t : State} (h : Accesses s t) : KeepsFlags s t := ⟨by rw [h.fe], h.mboxes⟩

theorem OffSlices.keepsFlags {s t : State} (h : OffSlices s t) : KeepsFlags s t := h.toAccesses.keepsFlags

theorem OnlyHostSide.keepsFlags {s t : State} (h : OnlyHostSide s t) : KeepsFlags s t := h.offSlices.keepsFlags

/-! ### Parts of the state -/

theorem keepsFlags_bump (s : State) (t off n : Nat) : KeepsFlags s (bump s t off n) := (onlyHostSide_bump s t off n).keepsFlags

theorem keepsFlags_raiseEv (s : State) (f grp b : Nat) (last : Option Nat) : KeepsFlags s (raiseEv s f grp b last) :=
  (onlyHostSide_raiseEv s f grp b last).keepsFlags

theorem keepsFlags_modNode (s : State) (k : Nat) (g : Node → Node) : KeepsFlags s (modNode s k g) := by
  simp only [modNode]
  split <;> exact ⟨rfl, rfl⟩

theorem keepsFlags_modJob (s : State) (k : Nat) (g : Job → Job) : KeepsFlags s (modJob s k g) := by
  simp only [modJob]
  split <;> exact ⟨rfl, rfl⟩

theorem keepsFlags_modQueue (s : State) (q : Nat) (g : Queue → Queue) : KeepsFlags s (modQueue s q g) := by
  simp only [modQueue]
  split <;> exact ⟨rfl, rfl⟩

theorem keepsFlags_modRegion (s : State) (r : Nat) (g : Region → Region) : KeepsFlags s (modRegion s r g) := ⟨rfl, rfl⟩

theorem keepsFlags_modCluster (s : State) (k : Nat) (g : Cluster → Cluster) : KeepsFlags s (modCluster s k g) := ⟨rfl, rfl⟩

theorem keepsFlags_modCore (s : State) (c : Nat) (g : Core → Core) : KeepsFlags s (modCore s c g) := ⟨rfl, rfl⟩

theorem keepsFlags_dbg (s : State) (x : Dbg) : KeepsFlags s { s with dbg := x } := ⟨rfl, rfl⟩

theorem keepsFlags_txns (s : State) (x : List Txn) : KeepsFlags s { s with links.txns := x } := ⟨rfl, rfl⟩

/-! ### Shot clocks and completion records (R368 to R376) -/

theorem keepsFlags_syncShot (s : State) (q : Nat) : KeepsFlags s (syncShot s q) := by
  simp only [syncShot]
  split
  · exact .refl s
  · split
    · exact keepsFlags_modQueue _ _ _
    · exact keepsFlags_modQueue _ _ _
    · exact .refl s

theorem keepsFlags_syncShots (s : State) : KeepsFlags s (syncShots s) := .foldl (fun _ _ => keepsFlags_syncShot _ _) _ s

theorem accesses_devRead (s : State) (pa n part tenant : Nat) (h : Hint) : Accesses s (devRead s pa n part tenant h).2.2 :=
  foldl_related (R := fun x y : List Byte × Bool × State => Accesses x.2.2 y.2.2) (fun _ => .refl _) (fun h h' => h.trans h')
    (fun _ _ => accesses_homeRead _ _ _ _ _ _) _ ([], false, s)

theorem keepsFlags_readConsumer (s : State) (qi : Nat) (q : Queue) : KeepsFlags s (readConsumer s qi q).2 := by
  have hpolled := keepsFlags_modQueue s qi (fun q => { q with polled := s.time })
  simp only [readConsumer]
  generalize modQueue s qi (fun q => { q with polled := s.time }) = s1 at hpolled ⊢
  split
  · exact hpolled
  · exact (hpolled.trans (accesses_devRead _ _ _ _ _ _).keepsFlags).trans (keepsFlags_modQueue _ _ _)
  next a _ =>
    have hxlat := hpolled.trans (offSlices_hostXlat s1 q.fn none a false).keepsFlags
    split <;> rename_i he <;> rw [he] at hxlat
    · exact hxlat
    · exact hxlat
    next ha t =>
      have hbytes := hxlat.trans (offSlices_hostBytes t ha 8).keepsFlags
      split
      next b u he =>
        rw [he] at hbytes
        exact hbytes.trans (keepsFlags_modQueue _ _ _)
      next x u _ he =>
        rw [he] at hbytes
        exact hbytes
  next pk a _ =>
    have hbytes := hpolled.trans (offSlices_remoteBytes s1 0 q.fn pk a 8).keepsFlags
    split
    next b u he =>
      rw [he] at hbytes
      exact hbytes.trans (keepsFlags_modQueue _ _ _)
    next u he =>
      rw [he] at hbytes
      exact hbytes
    next x u _ _ he =>
      rw [he] at hbytes
      exact hbytes

theorem keepsFlags_writeRecord (s : State) (qi : Nat) (q : Queue) (b : List Byte) : KeepsFlags s (writeRecord s qi q b).2 := by
  simp only [writeRecord]
  split
  · exact .refl s
  · split
    · exact .refl s
    · exact ((accesses_devWrite _ _ _ _ _ _).keepsFlags.trans (accesses_devWrite _ _ _ _ _ _).keepsFlags).trans
        (keepsFlags_modQueue _ _ _)
  next a _ =>
    split
    · exact .refl s
    next pz _ =>
      have hxlat := (offSlices_hostXlat s q.fn pz a true).keepsFlags
      split <;> rename_i he <;> rw [he] at hxlat
      · exact hxlat
      · exact hxlat
      · exact ((hxlat.trans (offSlices_hostWrite _ _ _ _).keepsFlags).trans (offSlices_hostWrite _ _ _ _).keepsFlags).trans
          (keepsFlags_modQueue _ _ _)
  · split
    · exact .refl s
    · split
      · exact .refl s
      · exact ((offSlices_engineWrite _ _ _ _ _ _ _).keepsFlags.trans (offSlices_engineWrite _ _ _ _ _ _ _).keepsFlags).trans
          (keepsFlags_modQueue _ _ _)

theorem keepsFlags_logRecord (s : State) (qi : Nat) (b : List Byte) (isJob signal : Bool) :
    KeepsFlags s (logRecord s qi b isJob signal) := by
  simp only [logRecord]
  split
  · exact .refl s
  next q _ =>
    refine .ite ?_ ?_
    · have hlogged := (keepsFlags_modQueue s qi (fun q => { q with log := q.log ++ [b ++ [if signal then 1 else 0]] })).trans
        (keepsFlags_bump _ q.fn gsLogged 1)
      refine .ite ?_ hlogged
      refine .trans (.trans ?_ (keepsFlags_raiseEv _ _ _ _ _)) (keepsFlags_syncShot _ _)
      split
      · exact (hlogged.trans (keepsFlags_modQueue _ _ _)).trans (keepsFlags_modJob _ _ _)
      · exact hlogged.trans (keepsFlags_modQueue _ _ _)
    · refine .trans ?_ (keepsFlags_bump _ _ _ _)
      split
      · exact keepsFlags_modJob _ _ _
      · exact .refl s

theorem keepsFlags_enterLogging (s : State) (qi fn : Nat) (why : QReason) (bitN : Nat) (b : List Byte) (isJob signal : Bool) :
    KeepsFlags s (enterLogging s qi fn why bitN b isJob signal) :=
  ((keepsFlags_modQueue _ _ _).trans (keepsFlags_raiseEv _ _ _ _ _)).trans (keepsFlags_logRecord _ _ _ _ _)

theorem keepsFlags_putRecord (s : State) (qi : Nat) (b : List Byte) (isJob signal : Bool) :
    KeepsFlags s (putRecord s qi b isJob signal).2 := by
  simp only [putRecord]
  split
  · exact .refl s
  next q _ =>
    split
    · exact keepsFlags_logRecord _ _ _ _ _
    have hread : KeepsFlags s (if ringRoom q then (Acc.ok (), s) else readConsumer s qi q).2 := by
      split
      · exact .refl s
      · exact keepsFlags_readConsumer _ _ _
    split
    next t he =>
      rw [he] at hread
      exact hread
    next x t _ he =>
      rw [he] at hread
      split
      · exact hread
      next q' _ =>
        split
        · exact hread.trans (keepsFlags_enterLogging _ _ _ _ _ _ _ _)
        · have hwrite := hread.trans (keepsFlags_writeRecord t qi q' b)
          split <;> rename_i he <;> rw [he] at hwrite
          · exact hwrite
          · exact hwrite.trans (keepsFlags_enterLogging _ _ _ _ _ _ _ _)
          · exact .ite (hwrite.trans (onlyHostSide_signalVec _ _ _).keepsFlags) hwrite

/-! ### Ends of jobs (R366, R367) -/

theorem keepsFlags_traceEmit (s : State) (type flags src : Nat) (tenant : Option Nat) (p0 p1 : Nat) :
    KeepsFlags s (traceEmit s type flags src tenant p0 p1) := by
  have hdrop : KeepsFlags s (if traceOn s type then traceDropRec s src else s) :=
    .ite (.ite (.refl s) (keepsFlags_dbg _ _)) (.refl s)
  exact .ite hdrop (.ite (hdrop.trans (keepsFlags_dbg _ _)) (hdrop.trans (keepsFlags_dbg _ _)))

theorem keepsFlags_rtRecord (s : State) (q : Queue) (j : Job) : KeepsFlags s (rtRecord s q j) := by
  have hlast (g : Fn → Fn) : KeepsFlags s (bump (modFn s j.fn g) j.fn 0x30100 1) :=
    (onlyHostSide_modFn _ _ _).keepsFlags.trans (keepsFlags_bump _ _ _ _)
  simp only [rtRecord]
  split
  · exact (hlast _).trans (keepsFlags_modQueue _ _ _)
  · exact hlast _

theorem keepsFlags_dropJob (s : State) (k : Nat) : KeepsFlags s (dropJob s k) := ⟨rfl, rfl⟩

theorem keepsFlags_releaseCore (s : State) (k c : Nat) : KeepsFlags s (releaseCore s k c) := ⟨rfl, rfl⟩

theorem keepsFlags_feEvent (s : State) (fn b q q2 f f2 : Nat) : KeepsFlags s (feEvent s fn b q q2 f f2) := keepsFlags_raiseEv _ _ _ _ _

theorem keepsFlags_endJob (s : State) (k : Nat) : KeepsFlags s (endJob s k) := by
  simp only [endJob]
  split
  · exact .refl s
  next j _ =>
    have hput := keepsFlags_putRecord s j.queue (recBytes (jobRec j)) true (j.entry.irq || jobStatus j != .ok)
    split
    next t he =>
      rw [he] at hput
      exact hput
    next x t _ he =>
      rw [he] at hput
      split
      · exact hput
      next q _ =>
        have hjobs := hput.trans (keepsFlags_bump t j.fn gsJobs 1)
        have htrace := (KeepsFlags.ite (c := q.cls = .rt) (hjobs.trans (keepsFlags_rtRecord _ q j)) hjobs).trans
          (keepsFlags_traceEmit _ 3 0 frontSrc (some j.tenant) j.entry.jobTag (j.queue + statusCode (jobStatus j) * 2 ^ 12))
        have hfreed {c : Prop} [Decidable c] {x : Nat} := (KeepsFlags.ite (c := c)
          (htrace.trans (keepsFlags_feEvent _ j.fn 0 x 0 0 0)) htrace).trans (keepsFlags_dropJob _ k)
        exact ((hfreed.trans (.foldl (fun _ _ => keepsFlags_releaseCore _ _ _) _ _)).trans (keepsFlags_modQueue _ _ _)).trans
          ((keepsFlags_modQueue _ _ _).trans (keepsFlags_syncShots _))

theorem keepsFlags_tryEnds (s : State) : KeepsFlags s (tryEnds s) := by
  refine .foldl (fun s e => ?_) _ s
  simp only [tryEnd]
  split
  · exact .ite (keepsFlags_endJob _ _) (.refl s)
  · exact .refl s

/-! ### Core resets and stopped nodes (R377, R463) -/

theorem keepsFlags_epiFree (s : State) (cluster ctx : Nat) (j : EpiJob) : KeepsFlags s (epiFree s cluster ctx j) := by
  simp only [epiFree]
  cases j.xEntry <;> cases j.statEntry <;> exact ⟨rfl, rfl⟩

theorem keepsFlags_dropPrePasses (s : State) (core : Nat) : KeepsFlags s (dropPrePasses s core) := by
  refine .trans (.foldl (fun s p => ?_) _ s) (keepsFlags_modRegion _ _ _)
  split
  · exact (accesses_devWrite _ _ _ _ _ _).keepsFlags
  · exact (accesses_recWrite _ _ _ _ _ _ _).keepsFlags

theorem keepsFlags_coreReset (s : State) (core : Nat) (node : Option Nat) : KeepsFlags s (coreReset s core node) := by
  simp only [coreReset]
  refine .ite (.refl s) ?_
  refine .trans (.trans (.trans (.trans ?_ (keepsFlags_dropPrePasses _ _)) (keepsFlags_modCluster _ _ _)) (keepsFlags_txns _ _))
    (keepsFlags_modCore _ _ _)
  exact .foldl (fun _ _ => keepsFlags_epiFree _ _ _ _) _ s

theorem keepsFlags_dropSaved (s : State) (job : Nat) : KeepsFlags s (dropSaved s job) := by
  simp only [dropSaved]
  refine KeepsFlags.trans (t := List.foldl _ s _) (.foldl (fun s c => ?_) _ s) ⟨rfl, rfl⟩
  exact .ite (.foldl (fun _ _ => keepsFlags_epiFree _ _ _ _) _ s) (.refl s)

theorem keepsFlags_stopEngines (s : State) (node : Nat) : KeepsFlags s (stopEngines s node).1 := ⟨rfl, rfl⟩

theorem keepsFlags_stopNode (s : State) (k : Nat) (st : Status) (f : DevFault) : KeepsFlags s (stopNode s k st f) := by
  simp only [stopNode]
  split
  · exact .refl s
  next n _ =>
    refine .ite (.refl s) ?_
    have hstop := keepsFlags_modNode s k (fun n => stopFail n st f)
    split
    · refine .trans (.trans (hstop.trans (.foldl (fun s c => ?_) _ _)) (keepsFlags_dropSaved _ _)) (keepsFlags_modNode _ _ _)
      exact .ite (keepsFlags_coreReset _ _ _) (.refl s)
    · exact hstop
    · have hengines := hstop.trans (keepsFlags_stopEngines _ k)
      exact .ite hengines (hengines.trans (keepsFlags_modNode _ _ _))

theorem keepsFlags_stopNodes (s : State) (job : Nat) (st : Status) (f : DevFault) : KeepsFlags s (stopNodes s job st f) :=
  .foldl (fun _ _ => keepsFlags_stopNode _ _ _ _) _ s

/-! ### The referee (R398 to R400) -/

theorem keepsFlags_dropUndispatched (s : State) (job : Nat) : KeepsFlags s (dropUndispatched s job) := ⟨rfl, rfl⟩

theorem keepsFlags_substitute (s : State) (k fn : Nat) : KeepsFlags s (substitute s k fn) :=
  (((keepsFlags_modJob _ _ _).trans (keepsFlags_raiseEv _ _ _ _ _)).trans (keepsFlags_bump _ _ _ _)).trans
    ((keepsFlags_dropUndispatched _ _).trans (keepsFlags_stopNodes _ _ _ _))

theorem keepsFlags_refTest (s : State) (k : Nat) : KeepsFlags s (refTest s k) := by
  simp only [refTest]
  split
  · exact .refl s
  · split
    · refine .ite (.refl s) (.ite (.refl s) (.ite ?_ (.ite (keepsFlags_modJob _ _ _) (keepsFlags_substitute _ _ _))))
      exact (keepsFlags_modJob _ _ _).trans (keepsFlags_raiseEv _ _ _ _ _)
    · exact .refl s

theorem keepsFlags_testCommits (s : State) : KeepsFlags s (testCommits s) :=
  .foldl (fun _ _ => (keepsFlags_modJob _ _ _).trans (keepsFlags_refTest _ _)) _ s

end Sys2Proof.Machine
end

section
/-! FLAG_WRITE (R362), and the tenant's messages together. -/

namespace Sys2Proof.Machine

/-! ### The value of a flag -/

theorem alFind_alDel_other {α : Type} {m : AL α} {k j : Nat} (h : j ≠ k) : alFind (alDel m k) j = alFind m j := by
  induction m with
  | nil => rfl
  | cons e r ih =>
    obtain ⟨k', v⟩ := e
    simp only [alDel]
    split
    next hk => rw [alFind, if_neg (by omega)]
    · simp only [alFind, ih]

theorem alFind_alDel_self {α : Type} {m : AL α} {k : Nat} (h : (m.map (·.1)).Nodup) : alFind (alDel m k) k = none := by
  induction m with
  | nil => rfl
  | cons e r ih =>
    obtain ⟨k', v⟩ := e
    rw [List.map_cons, List.nodup_cons] at h
    simp only [alDel]
    split
    next hk =>
      subst hk
      cases hf : alFind r k with
      | none => rfl
      | some x => exact absurd (List.mem_map_of_mem (f := (·.1)) (mem_of_alFind hf)) h.1
    next hk => rw [alFind, if_neg (fun hk' => hk hk'), ih h.2]

/-- The flags once one of them was set: a flag at 0 is not listed. -/
def flagsWith (flags : AL Nat) (flag v : Nat) : AL Nat := if v = 0 then alDel flags flag else alPut flags flag v

theorem alGet_flagsWith {flags : AL Nat} (h : (flags.map (·.1)).Nodup) (flag v k : Nat) :
    alGet 0 (flagsWith flags flag v) k = if k = flag then v else alGet 0 flags k := by
  rw [flagsWith]
  split
  next hv =>
    split
    next hk => rw [hk, alGet, alFind_alDel_self h, hv]; rfl
    next hk => rw [alGet, alFind_alDel_other hk, alGet]
  · rw [alGet_alPut]

/-! ### A flag that is set (R361, R362) -/

/-- What setting a flag leaves: mailboxes, memory and cores, and no job where there was none. -/
theorem setFlag_spec (s : State) (flag v : Nat) :
    (setFlag s flag v).fe.flags = flagsWith s.fe.flags flag v ∧ (setFlag s flag v).mgmt.mboxes = s.mgmt.mboxes ∧
    (setFlag s flag v).mem = s.mem ∧ (setFlag s flag v).cores = s.cores ∧ (s.fe.jobs = [] → (setFlag s flag v).fe.jobs = []) := by
  obtain ⟨hmailed, hboxes⟩ := mailed_mirror { s with fe.flags := flagsWith s.fe.flags flag v } (.flagSet flag v)
  have hset : setFlag s flag v = if holdsBack (mirror { s with fe.flags := flagsWith s.fe.flags flag v } (.flagSet flag v))
      then mirror { s with fe.flags := flagsWith s.fe.flags flag v } (.flagSet flag v)
      else wakeWaiters (mirror { s with fe.flags := flagsWith s.fe.flags flag v } (.flagSet flag v)) flag v := rfl
  rw [hset]
  generalize mirror { s with fe.flags := flagsWith s.fe.flags flag v } (.flagSet flag v) = u at hmailed hboxes
  have hflags : u.fe.flags = flagsWith s.fe.flags flag v := by rw [hmailed.fe]
  have hjobs (h : s.fe.jobs = []) : u.fe.jobs = [] := by rw [hmailed.fe]; exact h
  split
  · exact ⟨hflags, hboxes, hmailed.mem, hmailed.cores, hjobs⟩
  · refine ⟨hflags, hboxes, hmailed.mem, hmailed.cores, fun h => ?_⟩
    simp only [wakeWaiters, takeSeq, hjobs h]
    rfl

/-- Without jobs no commit is due and no job ends. -/
theorem tests_of_no_jobs {s : State} (h : s.fe.jobs = []) : tryEnds (testCommits s) = s := by
  have htests : testCommits s = s := by rw [testCommits, h]; rfl
  rw [htests, tryEnds, h]
  rfl

/-- FLAG_WRITE stores a flag, or adds to it modulo 2^64 (R362). -/
theorem flagWrite_completes {f : Nat} {r : Req} {s s1 : State} (hc : Carries s f 0x0106 r s1) (hactor : actorBad r = false)
    (hflag : r.f 0 2 < 16384) (hmode : r.f 2 1 ≤ 1) (hgrant : flagGranted s r.actor (r.f 0 2) = true)
    (hnodup : (s.fe.flags.map (·.1)).Nodup) :
    ∃ t, exec .flagWrite s = .next t ∧ Replied s1 t f r (okRep []) ∧ (s.fe.jobs = [] → t.mem = s.mem ∧ t.cores = s.cores) ∧
      flagOf t (r.f 0 2) = (if r.f 2 1 = 0 then r.f 8 8 else (flagOf s (r.f 0 2) + r.f 8 8) % 2 ^ 64) ∧
      ∀ k, k ≠ r.f 0 2 → flagOf t k = flagOf s k := by
  obtain ⟨m, rfl⟩ := hc.exists_mgmt (fun i hi => by cases hi; rfl)
  generalize hv : (if r.f 2 1 = 0 then r.f 8 8 else (flagOf s (r.f 0 2) + r.f 8 8) % 2 ^ 64) = v
  have hrun : hFlagWrite { s with mgmt := m } r =
      (.rep (okRep []), tryEnds (testCommits (setFlag { s with mgmt := m } (r.f 0 2) v))) := by
    have hgrant' : flagGranted { s with mgmt := m } r.actor (r.f 0 2) = true := hgrant
    simp only [hFlagWrite, hactor, decide_eq_false (Nat.not_le.mpr hflag), decide_eq_false (Nat.not_lt.mpr hmode), hgrant',
      Bool.or_self, Bool.false_eq_true, if_false, Bool.not_true, ← hv]
    rfl
  obtain ⟨hflags, hboxes, hmem, hcores, hjobs⟩ := setFlag_spec { s with mgmt := m } (r.f 0 2) v
  have hkept := (keepsFlags_testCommits (setFlag { s with mgmt := m } (r.f 0 2) v)).trans (keepsFlags_tryEnds _)
  obtain ⟨t, ht, hmailed, hrep⟩ := hc.completes_rep (by decide) hrun (hkept.mboxes.trans hboxes)
  have hall (k : Nat) : flagOf t k = if k = r.f 0 2 then v else flagOf s k := by
    rw [flagOf, hmailed.fe, hkept.flags, hflags]
    exact alGet_flagsWith hnodup _ _ _
  refine ⟨t, ht, hrep, fun hnone => ?_, by rw [hall, if_pos rfl], fun k hk => by rw [hall, if_neg hk]⟩
  rw [hmailed.mem, hmailed.cores, tests_of_no_jobs (hjobs hnone)]
  exact ⟨hmem, hcores⟩

/-- Settles O52: each message is carried out in the state in which its request was taken, and only mail follows it. -/
theorem tenantMessagesTakeEffect : Obligations.TenantMessagesTakeEffect := by
  unfold Obligations.TenantMessagesTakeEffect
  refine ⟨?_, ?_, ?_, ?_, ?_, ?_, ?_, ?_, ?_, ?_, ?_⟩
  · exact fun f r s s1 hc hactor hflag hmode hgrant hnodup => flagWrite_completes hc hactor hflag hmode hgrant hnodup
  · exact fun f r s s1 hc hactor hflag hgrant => flagRead_completes hc hactor hflag hgrant
  · exact fun f r s s1 s2 s3 s4 tn im mp rs gs hc htn him hmp hrs huse hgs => codeLoad_completes hc htn him hmp hrs huse hgs
  · exact fun f r s s1 i hc hi hown => ⟨codeUnload_completes hc hi hown, codeUnload_waits hc hi hown⟩
  · exact fun image f s i hi hun hruns hwait hf hexec => codeUnloadEffect_completes hi hun hruns hwait hf hexec
  · exact fun f r s s1 hc hactor hnum hhigh hmid => setPrecisionPolicy_completes hc hactor hnum hhigh hmid
  · exact fun f k r s s1 hc hlo hhi hslot hbases hfree => vtensorRegister_completes hc hlo hhi hslot hbases hfree
  · exact fun f r s s1 v hc hnum hv hown hused => vtensorUnregister_completes hc hnum hv hown hused
  · exact fun f r s s1 tn hc htn hbad hnone huse hroom => benchPoolCreate_completes hc htn hbad hnone rfl huse hroom
  · exact fun f part r s s1 p hc hp hbusy => benchPoolDestroy_completes hc hp hbusy
  · exact fun f part r s s1 p hc hp hseq => benchSeqQuery_completes hc hp hseq

end Sys2Proof.Machine
end

section
/-! The stash instructions (R136 to R139, R205): what each leaves of the directory of its region, and the registers that a load
writes. -/

namespace Sys2Proof.Machine

/-! ### Completion -/

/-- An instruction that moves its path on in a state that has used free values alone since the issue changes its group alone. -/
theorem advance_only_group {s : State} {i : Iss} {c : Ctx} (hi : issue s i = some c) (n : Nat) (g : Group) :
    OnlyCores s (advance { issued s i c with freeCtr := n } c g) ∧
      OnlyGroup s (advance { issued s i c with freeCtr := n } c g) i.core i.slot := by
  have hfree : OnlyCores s { issued s i c with freeCtr := n } := by
    rw [issued_cores]
    rfl
  exact ⟨hfree.putGroup c _, onlyGroup_putGroup hi (fun _ => rfl) _⟩

@[simp] theorem setPred_paths (c : Ctx) (g : Group) (p : Nat) (v : Bool) : (setPred c g p v).paths = g.paths := rfl
@[simp] theorem setPred_regs (c : Ctx) (g : Group) (p : Nat) (v : Bool) : (setPred c g p v).regs = g.regs := rfl

/-- A predicate that was set holds its value in every lane that takes part. -/
theorem predOf_advance_setPred (s : State) (c : Ctx) (g : Group) (p : Nat) (v : Bool) :
    ∀ l ∈ c.act, predOf (c.seen (advance s c (setPred c g p v))).g p l = v := by
  intro l hl
  simp only [predOf, seen_advance, movePath_preds, setPred, setP]
  exact alGet_written p c.act (fun _ => v) _ _ l hl

/-! ### Registers of a load -/

/-- Word `w` of loaded bytes. -/
def loadedWord (bs : List Byte) (w : Nat) : Word := BitVec.ofNat 32 (leNat ((bs.drop (4 * w)).take 4))

/-- The words of whole registers' bytes are those bytes. -/
theorem flatMap_loadedWord {n : Nat} {bs : List Byte} (h : bs.length = 4 * n) :
    (List.range n).flatMap (fun w => leBytes 4 (loadedWord bs w).toNat) = bs := by
  have hword : ∀ w ∈ List.range n, leBytes 4 (loadedWord bs w).toNat = (bs.drop (4 * w)).take 4 := by
    intro w hw
    have hlen : ((bs.drop (4 * w)).take 4).length = 4 := by
      have := List.mem_range.mp hw
      simp only [List.length_take, List.length_drop]
      omega
    have hlt := leNat_lt ((bs.drop (4 * w)).take 4)
    have hbytes := leBytes_leNat ((bs.drop (4 * w)).take 4)
    rw [hlen] at hlt hbytes
    rw [loadedWord, BitVec.toNat_ofNat, Nat.mod_eq_of_lt (by omega), hbytes]
  have hcut : ∀ k, (List.range k).flatMap (fun w => (bs.drop (4 * w)).take 4) = bs.take (4 * k) := by
    intro k
    induction k with
    | zero => rfl
    | succ k ih =>
      rw [List.range_succ, List.flatMap_append, ih, List.flatMap_singleton, Nat.mul_succ, List.take_add]
  rw [List.flatMap_congr hword, hcut, List.take_of_length_le h.le]

/-- A load of whole registers writes the words of its bytes. -/
theorem writeLoaded_whole (free : DWord) (g : Group) (d lane : Nat) {n : Nat} (hn : n ≠ 0) {bs : List Byte}
    (h : bs.length = 4 * n) : writeLoaded free g d lane (4 * n) 0 bs =
      (List.range n).foldl (fun g w => setV g (d + w) [(lane, loadedWord bs w)]) g := by
  have hwords : max 1 (4 * n / 4) = n := by omega
  simp only [writeLoaded, hwords]
  refine List.foldl_ext _ _ _ fun g w hw => ?_
  have hw := List.mem_range.mp hw
  have hnew : ∀ f : Nat → Byte, (List.range 4).map (fun k =>
      if decide (0 ≤ 4 * w + k) && decide (4 * w + k < 0 + bs.length) then bs.getD (4 * w + k - 0) 0 else f k) =
        (bs.drop (4 * w)).take 4 := by
    intro f
    refine List.ext_getElem (by simp only [List.length_map, List.length_range, List.length_take, List.length_drop]; omega)
      fun k hk _ => ?_
    have hk : k < 4 := by simpa using hk
    have hin : 4 * w + k < bs.length := by omega
    simp [hin]
  rw [hnew, loadedWord]

theorem setV_regs (g : Group) (n lane : Nat) (x : Word) :
    (setV g n [(lane, x)]).regs = alPut g.regs (32 * n + lane) x := rfl

/-- Reading a register of a lane after words were written to consecutive registers of one lane. -/
theorem alGet_foldl_setV (x : Word) (f : Nat → Word) (d : Nat) {lane l : Nat} (hlane : lane < 32) (hl : l < 32) (n w : Nat)
    (g : Group) :
    alGet x ((List.range n).foldl (fun g w => setV g (d + w) [(lane, f w)]) g).regs (32 * (d + w) + l) =
      if l = lane ∧ w < n then f w else alGet x g.regs (32 * (d + w) + l) := by
  induction n with
  | zero => simp
  | succ n ih =>
    rw [List.range_succ, List.foldl_append, List.foldl_cons, List.foldl_nil, setV_regs, alGet_alPut, ih]
    by_cases hkey : l = lane ∧ w = n
    · obtain ⟨rfl, rfl⟩ := hkey
      simp
    · rw [if_neg (by omega)]
      exact if_congr (by omega) rfl rfl

/-- The group after each of some lanes has loaded its bytes. -/
def loadLanes (free : DWord) (v size : Nat) (bytes : Nat → List Byte) (ls : List Nat) (g : Group) : Group :=
  ls.foldl (fun g l => writeLoaded free g v l size 0 (bytes l)) g

@[simp] theorem writeLoaded_paths (free : DWord) (g : Group) (d lane size off : Nat) (bs : List Byte) :
    (writeLoaded free g d lane size off bs).paths = g.paths := by
  unfold writeLoaded
  exact List.foldlRecOn (motive := fun g' : Group => g'.paths = g.paths) _ _ rfl (fun _ h _ _ => h)

theorem loadLanes_paths (free : DWord) (v size : Nat) (bytes : Nat → List Byte) (ls : List Nat) (g : Group) :
    (loadLanes free v size bytes ls g).paths = g.paths :=
  foldl_related (R := fun g g' : Group => g'.paths = g.paths) (fun _ => rfl) (fun h h' => h'.trans h)
    (fun g l => writeLoaded_paths free g v l size 0 (bytes l)) ls g

/-- What the registers of a lane hold after loads of whole registers. -/
theorem alGet_loadLanes (x : Word) (free : DWord) (v : Nat) {n w l : Nat} (hw : w < n) (hl : l < 32)
    {bytes : Nat → List Byte} (hb : ∀ l, (bytes l).length = 4 * n) (ls : List Nat) (hls : ∀ l ∈ ls, l < 32) (g : Group) :
    alGet x (loadLanes free v (4 * n) bytes ls g).regs (32 * (v + w) + l) =
      if l ∈ ls then loadedWord (bytes l) w else alGet x g.regs (32 * (v + w) + l) := by
  induction ls generalizing g with
  | nil => simp [loadLanes]
  | cons a r ih =>
    have ih := ih (fun l h => hls l (List.mem_cons_of_mem _ h)) (writeLoaded free g v a (4 * n) 0 (bytes a))
    rw [loadLanes, List.foldl_cons]
    rw [loadLanes] at ih
    rw [ih, writeLoaded_whole free g v a (by omega) (hb a), alGet_foldl_setV x _ v (hls a (by simp)) hl]
    by_cases hr : l ∈ r
    · simp [hr]
    · by_cases ha : l = a
      · simp [ha, hw]
      · simp [hr, ha]

/-- A path that moves on after its lanes loaded whole registers has their bytes there. -/
theorem regBytes_loadLanes (s : State) (c : Ctx) (free : DWord) (p v : Nat) (b : Bool) {n : Nat} (hn : n ≠ 0)
    {bytes : Nat → List Byte} (hb : ∀ l, (bytes l).length = 4 * n) (hact : ∀ l ∈ c.act, l < 32) :
    ∀ l ∈ c.act, regBytes (c.seen (advance s c (setPred c (loadLanes free v (4 * n) bytes c.act c.g) p b))) v l (4 * n) =
      bytes l := by
  intro l hl
  have hwords : max 1 (4 * n / 4) = n := by omega
  have hregs : ∀ w ∈ List.range n,
      leBytes 4 (vReg (c.seen (advance s c (setPred c (loadLanes free v (4 * n) bytes c.act c.g) p b))) (v + w) l).toNat =
        leBytes 4 (loadedWord (bytes l) w).toNat := by
    intro w hw
    simp only [vReg, seen_advance, movePath_regs, setPred_regs]
    rw [alGet_loadLanes _ _ _ (List.mem_range.mp hw) (hact l hl) hb _ hact, if_pos hl]
  rw [regBytes, hwords, List.flatMap_congr hregs, flatMap_loadedWord (hb l), List.take_of_length_le (hb l).le]

/-! ### Bytes of an entry -/

/-- The bytes of an entry after some were put from `a` on. -/
def putBytes (d : AL Byte) (a : Nat) (bs : List Byte) : AL Byte := bs.zipIdx.foldl (fun d (b, j) => alPut d (a + j) b) d

theorem alFind_putBytes (d : AL Byte) (a : Nat) (bs : List Byte) (x : Nat) :
    alFind (putBytes d a bs) x = if a ≤ x ∧ x < a + bs.length then bs[x - a]? else alFind d x := by
  induction bs using List.reverseRecOn with
  | nil =>
    rw [List.length_nil, if_neg (by omega)]
    rfl
  | append_singleton bs b ih =>
    have hput : putBytes d a (bs ++ [b]) = alPut (putBytes d a bs) (a + bs.length) b := by
      simp [putBytes, List.zipIdx_append]
    rw [hput, alFind_alPut, ih, List.length_append, List.length_singleton]
    by_cases hx : x = a + bs.length
    · rw [if_pos hx, if_pos (by omega), hx, Nat.add_sub_cancel_left, List.getElem?_concat_length]
    · rw [if_neg hx]
      by_cases hin : a ≤ x ∧ x < a + bs.length
      · rw [if_pos hin, if_pos (by omega), List.getElem?_append_left (by omega)]
      · rw [if_neg hin, if_neg (by omega)]

/-- Bytes that were put are read back. -/
theorem map_alGet_putBytes (d : AL Byte) (a : Nat) (bs : List Byte) :
    (List.range bs.length).map (fun j => alGet 0 (putBytes d a bs) (a + j)) = bs := by
  refine List.ext_getElem (by simp) fun j hj hj' => ?_
  rw [List.getElem_map, List.getElem_range, alGet, alFind_putBytes, if_pos (by omega), Nat.add_sub_cancel_left,
    List.getElem?_eq_getElem hj', Option.getD_some]

/-! ### The directory -/

theorem Accesses.stash {s t : State} (h : Accesses s t) (k : Nat) : (regionOf t k).stash = (regionOf s k).stash :=
  (congrArg Region.stash (h.queues k) :)

/-- Ways that stash lines take give their ordinary lines up to the controllers alone (R134, R135). -/
theorem accesses_stashDisplace (s : State) (r tenant : Nat) : Accesses s (stashDisplace s r tenant) :=
  .foldl (fun s e => by
    split
    · exact (accesses_writeBack s tenant e.2).trans (accesses_modRegion rfl)
    · exact .refl s) _ _

/-- Entry `k` of a region's directory becomes `e`. -/
def putEntry (s : State) (r k : Nat) (e : StashEntry) : State :=
  modRegion s r (fun x => { x with stash := alPut x.stash k e })

theorem alFind_putEntry (s : State) (r k : Nat) (e : StashEntry) :
    alFind (regionOf (putEntry s r k e) r).stash k = some e := by
  rw [putEntry, regionOf_modRegion_self]
  exact alFind_alPut_self _ _ _

theorem stashDrop_mem (s : State) (r part tag : Nat) : (stashDrop s r part tag).mem = s.mem := by
  unfold stashDrop
  split <;> rfl

theorem stashDrop_sched (s : State) (r part tag : Nat) : (stashDrop s r part tag).sched = s.sched := by
  unfold stashDrop
  split <;> rfl

/-- What a freed tag leaves of its region's directory (R138). -/
theorem stash_stashDrop {s : State} {r part tag k : Nat} {e : StashEntry} (h : stashOf s r part tag = some (k, e)) :
    (regionOf (stashDrop s r part tag) r).stash =
      if e.refs = 0 then alDel (regionOf s r).stash k else alPut (regionOf s r).stash k { e with replaced := true } := by
  simp only [stashDrop, h, regionOf_modRegion_self]

@[simp] theorem sched_issued (s : State) (i : Iss) (c : Ctx) : (issued s i c).sched = s.sched := by rw [issued_cores]

@[simp] theorem regionOf_issued (s : State) (i : Iss) (c : Ctx) (k : Nat) : regionOf (issued s i c) k = regionOf s k := by
  rw [regionOf, issued_regions, regionOf]

@[simp] theorem stashOf_issued_eq (s : State) (i : Iss) (c : Ctx) (r part tag : Nat) :
    stashOf (issued s i c) r part tag = stashOf s r part tag := by simp only [stashOf, regionOf_issued]

/-! ### STASH.OPEN -/

section
variable {s : State} {i : Iss} {c : Ctx} {tag : ImmU}

/-- The state in which STASH.OPEN has entered its entry, and the ways it takes are given up or the refusal is counted. -/
def stashEntered (s : State) (r tenant part : Nat) (e : StashEntry) (ok : Bool) : State :=
  let s := putEntry s r (alFresh (regionOf s r).stash) e
  if ok then stashDisplace s r tenant else ctrAdd s (blkKey 1 r) 0x0C 1 (some part)

theorem accesses_stashEntered (s : State) (r tenant part : Nat) (e : StashEntry) (ok : Bool) :
    Accesses (putEntry s r (alFresh (regionOf s r).stash) e) (stashEntered s r tenant part e ok) :=
  .ite (accesses_stashDisplace _ _ _) (offSlices_ctrAdd _ _ _ _ _).toAccesses

/-- STASH.OPEN enters an OPEN entry where the reservation, the region and the directory have room, a REFUSED one elsewhere (R136,
R137, R139). -/
theorem stashOpen_completes {stat : Bool} {p : Nat} {lines : ImmU} {s1 : State} {ok : Bool}
    (h : Issues s i c [] (immUse tag ++ immUse lines) []) (ha : c.act ≠ [])
    (hs1 : s1 = stashDrop (issued s i c) (coreRegion i.core) c.b.task.part (immU c tag))
    (hok : ok = decide (stashUse (regionOf s1 (coreRegion i.core)) c.b.task.part +
        stageUse s1 (coreRegion i.core) c.b.task.part + immU c lines ≤ stashRoom s c.b.task.part ∧
      regionStash s1 (coreRegion i.core) + immU c lines ≤ 131072 ∧ (regionOf s1 (coreRegion i.core)).stash.length < 4096 ∧
      1 ≤ immU c lines ∧ immU c lines ≤ 131072 ∧ immU c tag ≠ 0xFFFF ∧ immU c tag < 65536)) :
    ∃ r, exec (.stashOpen i stat p tag lines) s = .next r ∧ Moved c r c.next ∧ r.mem.mem = s.mem.mem ∧
      (∀ l ∈ c.act, predOf (c.seen r).g p l = ok) ∧
      alFind (regionOf r (coreRegion i.core)).stash (alFresh (regionOf s1 (coreRegion i.core)).stash) =
        some { part := c.b.task.part, tenant := c.b.task.tenant, tag := immU c tag, stat := stat, lines := immU c lines,
               st := if ok = true then .opened else .refused } := by
  obtain ⟨hcore, -⟩ := issue_some h.1
  have hroom : stashRoom s1 c.b.task.part = stashRoom s c.b.task.part := by
    simp only [stashRoom, hs1, stashDrop_sched, sched_issued]
  have hfits : (stashFits s1 (coreRegion i.core) c.b.task.part (immU c lines) &&
      decide ((regionOf s1 (coreRegion i.core)).stash.length < 4096) && decide (1 ≤ immU c lines) &&
      decide (immU c lines ≤ 131072) && decide (immU c tag ≤ 0xFFFE)) = ok := by
    rw [hok, Bool.eq_iff_iff]
    simp only [stashFits, hroom, Bool.and_eq_true, decide_eq_true_eq]
    omega
  have he : exec (.stashOpen i stat p tag lines) s = completes s (advance
      (stashEntered s1 (coreRegion i.core) c.b.task.tenant c.b.task.part
        { part := c.b.task.part, tenant := c.b.task.tenant, tag := immU c tag, stat := stat, lines := immU c lines,
          st := if ok then .opened else .refused } ok) c (setPred c c.g p ok)) := by
    rw [← hfits, hs1, ← hcore]
    cases tag <;> cases lines <;> refine congrArg (completes s) ((issueWith_issues h _).trans ?_) <;>
      simp only [List.isEmpty_iff, ha, if_false] <;> rfl
  have hacc := accesses_stashEntered s1 (coreRegion i.core) c.b.task.tenant c.b.task.part
    { part := c.b.task.part, tenant := c.b.task.tenant, tag := immU c tag, stat := stat, lines := immU c lines,
      st := if ok then .opened else .refused } ok
  refine ⟨_, he, moved_advance _ (setPred_paths ..), ?_, predOf_advance_setPred _ c c.g p ok, ?_⟩
  · have hmem : s1.mem = s.mem := by rw [hs1, stashDrop_mem, issued_mem]
    exact hacc.cells.trans (congrArg MemSys.mem hmem)
  · exact (congrArg (alFind · _) (hacc.stash (coreRegion i.core))).trans (alFind_putEntry ..)

/-! ### STASH.ST, STASH.SEAL and STASH.FREE -/

variable {k : Nat} {e : StashEntry}

/-- An instruction that moves its path on after it has written an entry leaves that entry in the directory. -/
theorem putEntry_completes (s : State) (i : Iss) (c : Ctx) (r k : Nat) (e : StashEntry) :
    ∃ t, completes s (advance (putEntry (issued s i c) r k e) c c.g) = .next t ∧ Moved c t c.next ∧ t.mem = s.mem ∧
      alFind (regionOf t r).stash k = some e :=
  ⟨_, rfl, moved_advance _ rfl, issued_mem s i c, alFind_putEntry (issued s i c) r k e⟩

/-- The poisoned sectors of an entry that stores of `size` bytes at these lanes' offsets do not cover. -/
def sectorsLeft (e : StashEntry) (os : List (Nat × Nat)) (size : Nat) : List Nat :=
  e.poison.filter (fun q => !(List.range 64).all (fun j =>
    os.any (fun o => decide (o.2 ≤ 64 * q + j) && decide (64 * q + j < o.2 + size))))

/-- The entry after lane `l` has stored its bytes. -/
def storedEntry (c : Ctx) (e : StashEntry) (size : Nat) (off v : Opd) (l : Nat) : StashEntry :=
  { e with data := putBytes e.data (opdLane c off l).toNat (opdBytes c v size l), poison := sectorsLeft e (stashOffs c off) size }

/-- A store within its entry. -/
theorem stashOffs_within {size l : Nat} {off : Opd} (hact : c.act = [l]) (hfit : (opdLane c off l).toNat + size ≤ e.lines * 128) :
    ¬ (stashOffs c off).any (fun o => decide (e.lines * 128 < o.2 + size)) = true := by
  simp [stashOffs, hact]
  omega

theorem stashSt_opened_completes {size l : Nat} {off v : Opd} (h : Issues s i c [] (immUse tag ++ [off] ++ spanOpds v size) [])
    (hs : stashOf s (coreRegion i.core) c.b.task.part (immU c tag) = some (k, e)) (hact : c.act = [l])
    (hfit : (opdLane c off l).toNat + size ≤ e.lines * 128) (hlen : (opdBytes c v size l).length = size) (hst : e.st = .opened) :
    ∃ r e', exec (.stashSt i size tag off v) s = .next r ∧ Moved c r c.next ∧ r.mem = s.mem ∧
      alFind (regionOf r (coreRegion i.core)).stash k = some e' ∧ e'.st = .opened ∧ e'.lines = e.lines ∧
      (List.range size).map (fun j => alGet 0 e'.data ((opdLane c off l).toNat + j)) = opdBytes c v size l ∧
      ∀ x, (x < (opdLane c off l).toNat ∨ (opdLane c off l).toNat + size ≤ x) → alFind e'.data x = alFind e.data x := by
  obtain ⟨hcore, -⟩ := issue_some h.1
  have he : exec (.stashSt i size tag off v) s = completes s (advance
      (putEntry (issued s i c) (coreRegion i.core) k (storedEntry c e size off v l)) c c.g) := by
    have hoffs : stashOffs c off = [(l, (opdLane c off l).toNat)] := by simp [stashOffs, hact]
    rw [← hcore]
    cases tag <;> refine congrArg (completes s) ((issueWith_issues h _).trans ?_) <;>
      simp only [stashOf_issued h.1 hs, if_neg (stashOffs_within hact hfit), hst, bne_self_eq_false, Bool.false_eq_true,
        if_false] <;>
      simp only [storedEntry, hoffs, hst] <;> rfl
  obtain ⟨r, hr, hmoved, hmem, hfind⟩ := putEntry_completes s i c (coreRegion i.core) k (storedEntry c e size off v l)
  refine ⟨r, _, he.trans hr, hmoved, hmem, hfind, hst, rfl, ?_, fun x hx => ?_⟩
  · have hget := map_alGet_putBytes e.data (opdLane c off l).toNat (opdBytes c v size l)
    rwa [hlen] at hget
  · exact (alFind_putBytes ..).trans (if_neg (by omega))

theorem stashSt_discarded_completes {size l : Nat} {off v : Opd}
    (h : Issues s i c [] (immUse tag ++ [off] ++ spanOpds v size) [])
    (hs : stashOf s (coreRegion i.core) c.b.task.part (immU c tag) = some (k, e)) (hact : c.act = [l])
    (hfit : (opdLane c off l).toNat + size ≤ e.lines * 128) (hst : e.st ≠ .opened) :
    ∃ r, exec (.stashSt i size tag off v) s = .next r ∧ Moved c r c.next ∧ OnlyCores s r ∧ OnlyGroup s r i.core i.slot := by
  have he : exec (.stashSt i size tag off v) s = completes s (advance (issued s i c) c c.g) := by
    cases tag <;> refine congrArg (completes s) ((issueWith_issues h _).trans ?_) <;>
      simp only [stashOf_issued h.1 hs, if_neg (stashOffs_within hact hfit), bne_iff_ne, ne_eq, hst, not_false_eq_true, if_true]
  obtain ⟨hcores, hgroup⟩ := advance_only_group h.1 (issued s i c).freeCtr c.g
  exact ⟨_, he, moved_advance _ rfl, hcores.completes, hgroup⟩

theorem stashSeal_completes (h : Issues s i c [] (immUse tag) []) (ha : c.act ≠ [])
    (hs : stashOf s (coreRegion i.core) c.b.task.part (immU c tag) = some (k, e)) (hst : e.st = .opened) :
    ∃ r, exec (.stashSeal i tag) s = .next r ∧ Moved c r c.next ∧ r.mem = s.mem ∧
      alFind (regionOf r (coreRegion i.core)).stash k = some { e with st := .sealed } := by
  obtain ⟨hcore, -⟩ := issue_some h.1
  have he : exec (.stashSeal i tag) s = completes s (advance
      (putEntry (issued s i c) (coreRegion i.core) k { e with st := .sealed }) c c.g) := by
    rw [← hcore]
    cases tag <;> refine congrArg (completes s) ((issueWith_issues h _).trans ?_) <;>
      simp only [List.isEmpty_iff, ha, if_false, stashOf_issued h.1 hs, hst, if_true] <;> rfl
  rw [he]
  exact putEntry_completes s i c (coreRegion i.core) k { e with st := .sealed }

theorem stashFree_completes (h : Issues s i c [] (immUse tag) []) (ha : c.act ≠ [])
    (hs : stashOf s (coreRegion i.core) c.b.task.part (immU c tag) = some (k, e)) :
    ∃ r, exec (.stashFree i tag) s = .next r ∧ Moved c r c.next ∧ r.mem = s.mem ∧
      (regionOf r (coreRegion i.core)).stash = if e.refs = 0 then alDel (regionOf s (coreRegion i.core)).stash k
        else alPut (regionOf s (coreRegion i.core)).stash k { e with replaced := true } := by
  obtain ⟨hcore, -⟩ := issue_some h.1
  have he : exec (.stashFree i tag) s = completes s
      (advance (stashDrop (issued s i c) (coreRegion i.core) c.b.task.part (immU c tag)) c c.g) := by
    rw [← hcore]
    cases tag <;> refine congrArg (completes s) ((issueWith_issues h _).trans ?_) <;>
      simp only [List.isEmpty_iff, ha, if_false] <;> rfl
  have hdrop := stash_stashDrop (s := issued s i c) (by simpa using hs)
  rw [regionOf_issued] at hdrop
  exact ⟨_, he, moved_advance _ rfl, (stashDrop_mem ..).trans (issued_mem ..), hdrop⟩

/-! ### STASH.LD -/

variable {size p v : Nat} {off : Opd}

theorem stashLd_sealed_completes (h : Issues s i c ((List.range (max 1 (size / 4))).map (v + ·)) (immUse tag ++ [off]) [])
    (hsize : size ∈ [4, 8, 16]) (hs : stashOf s (coreRegion i.core) c.b.task.part (immU c tag) = some (k, e))
    (hst : e.st = .sealed)
    (hin : ∀ l ∈ c.act, (opdLane c off l).toNat + size ≤ e.lines * 128 ∧ stashBad e (opdLane c off l).toNat size = false) :
    ∃ r, exec (.stashLd i size p v tag off) s = .next r ∧ Moved c r c.next ∧ OnlyCores s r ∧ OnlyGroup s r i.core i.slot ∧
      (∀ l ∈ c.act, predOf (c.seen r).g p l = true) ∧
      ∀ l ∈ c.act, regBytes (c.seen r) v l size =
        (List.range size).map (fun j => stashByte (Config.fresh s.freeCtr) e ((opdLane c off l).toNat + j)) := by
  have hrange : ¬ (stashOffs c off).any (fun o => decide (e.lines * 128 < o.2 + size)) = true := by
    simpa [stashOffs] using fun l hl => (hin l hl).1
  have hpoison : ¬ (stashOffs c off).any (fun o => stashBad e o.2 size) = true := by
    simpa [stashOffs] using fun l hl => (hin l hl).2
  have he : exec (.stashLd i size p v tag off) s = completes s (advance { issued s i c with freeCtr := s.freeCtr + 1 } c
      (setPred c (loadLanes (Config.fresh s.freeCtr) v size (fun l => (List.range size).map
        (fun j => stashByte (Config.fresh s.freeCtr) e ((opdLane c off l).toNat + j))) c.act c.g) p true)) := by
    cases tag <;> refine congrArg (completes s) ((issueWith_issues h _).trans ?_) <;>
      simp only [stashOf_issued h.1 hs, hst, bne_self_eq_false, Bool.false_eq_true, if_false, if_neg hrange, if_neg hpoison,
        takeFree, issued_freeCtr] <;>
      simp only [loadLanes, stashOffs, List.foldl_map]
  obtain ⟨n, hn, rfl⟩ : ∃ n, n ≠ 0 ∧ size = 4 * n := by
    simp only [List.mem_cons, List.not_mem_nil, or_false] at hsize
    exact ⟨size / 4, by omega, by omega⟩
  obtain ⟨hcores, hgroup⟩ := advance_only_group h.1 (s.freeCtr + 1) _
  exact ⟨_, he, moved_advance _ (loadLanes_paths ..), hcores.completes, hgroup, predOf_advance_setPred _ c _ p true,
    regBytes_loadLanes _ c _ p v true hn (fun l => by simp) (act_lt h.1)⟩

theorem stashLd_absent_completes (h : Issues s i c ((List.range (max 1 (size / 4))).map (v + ·)) (immUse tag ++ [off]) [])
    (hs : ∀ k e, stashOf s (coreRegion i.core) c.b.task.part (immU c tag) = some (k, e) → e.st ≠ .sealed) :
    ∃ r, exec (.stashLd i size p v tag off) s = .next r ∧ Moved c r c.next ∧ OnlyCores s r ∧ OnlyGroup s r i.core i.slot ∧
      (∀ l ∈ c.act, predOf (c.seen r).g p l = false) ∧ (c.seen r).g.regs = c.g.regs := by
  obtain ⟨hcore, -⟩ := issue_some h.1
  have he : exec (.stashLd i size p v tag off) s = completes s (advance (issued s i c) c (setPred c c.g p false)) := by
    rw [← hcore] at hs
    cases hfound : stashOf s (coreRegion c.core) c.b.task.part (immU c tag) with
    | none =>
      cases tag <;> refine congrArg (completes s) ((issueWith_issues h _).trans ?_) <;>
        simp only [stashHome, stashOf_issued_eq, hfound]
    | some q =>
      obtain ⟨k, e⟩ := q
      have hne := hs k e hfound
      cases tag <;> refine congrArg (completes s) ((issueWith_issues h _).trans ?_) <;>
        simp only [stashHome, stashOf_issued_eq, hfound, bne_iff_ne, ne_eq, hne, not_false_eq_true, if_true]
  obtain ⟨hcores, hgroup⟩ := advance_only_group h.1 (issued s i c).freeCtr (setPred c c.g p false)
  refine ⟨_, he, moved_advance _ (setPred_paths ..), hcores.completes, hgroup, predOf_advance_setPred _ c c.g p false, ?_⟩
  change (c.seen (advance (issued s i c) c _)).g.regs = _
  rw [seen_advance, movePath_regs, setPred_regs]

end

/-- Settles O28: each instruction changes its entry in the region's directory, or its group alone, and its path moves on
(`stashOpen_completes`, `stashSt_opened_completes`, `stashSeal_completes`, `stashFree_completes`, `stashLd_sealed_completes`). -/
theorem stashInstructionsComplete : Obligations.StashInstructionsComplete := by
  refine ⟨fun i stat p tag lines s c h ha => stashOpen_completes h ha rfl rfl, ?_, ?_, ?_⟩
  · intro i size tag off v s c k l e h hs hact hfit hlen
    exact ⟨stashSt_opened_completes h hs hact hfit hlen, stashSt_discarded_completes h hs hact hfit⟩
  · intro i tag s c k e h ha hs
    exact ⟨stashSeal_completes h ha hs, stashFree_completes h ha hs⟩
  · intro i size p v tag off s c h hsize
    exact ⟨fun k e hs hst hin => stashLd_sealed_completes h hsize hs hst hin, stashLd_absent_completes h⟩

end Sys2Proof.Machine
end

section
/-! What mail leaves of counters and of the debug level, and requests of opcodes that need a key (R438, R513, R523). -/

namespace Sys2Proof.Machine

/-! ### Counters and the debug level under mail -/

/-- `t` holds every function's counters of `s` and its debug level. -/
structure KeepsCounts (s t : State) : Prop where
  cnt : ∀ k, (fnOf t k).cnt = (fnOf s k).cnt
  level : t.dbg.level = s.dbg.level

namespace KeepsCounts

theorem of_eq {s t : State} (hf : t.fns = s.fns) (hl : t.dbg.level = s.dbg.level) : KeepsCounts s t :=
  ⟨fun k => by rw [fnOf, hf, fnOf], hl⟩

theorem refl (s : State) : KeepsCounts s s := .of_eq rfl rfl

theorem trans {s t u : State} (h : KeepsCounts s t) (h' : KeepsCounts t u) : KeepsCounts s u :=
  ⟨fun k => (h'.cnt k).trans (h.cnt k), h'.level.trans h.level⟩

/-- One of two ways on. -/
theorem ite {c : Prop} [Decidable c] {s t u : State} (ht : KeepsCounts s t) (hu : KeepsCounts s u) :
    KeepsCounts s (if c then t else u) := by
  split
  · exact ht
  · exact hu

end KeepsCounts

theorem keepsCounts_raiseEv (s : State) (f grp b : Nat) (last : Option Nat) : KeepsCounts s (raiseEv s f grp b last) := by
  refine ⟨fun k => (congrArg Fn.cnt (quiet_raiseEv s f grp b last k) :), ?_⟩
  obtain ⟨_, _, hside⟩ := onlyHostSide_raiseEv s f grp b last
  rw [hside]

theorem keepsCounts_ctrAdd (s : State) (k code n : Nat) (part : Option Nat) : KeepsCounts s (ctrAdd s k code n part) :=
  .ite (.refl s) (.of_eq rfl rfl)

theorem keepsCounts_modPort (s : State) (p : Nat) (g : Port → Port) : KeepsCounts s (modPort s p g) := .of_eq rfl rfl

theorem keepsCounts_emit (s : State) (o : Out) : KeepsCounts s (emit s o) := .of_eq rfl rfl

theorem keepsCounts_modMbox (s : State) (f : Nat) (g : Mbox → Mbox) : KeepsCounts s (modMbox s f g) := .of_eq rfl rfl

theorem keepsCounts_mgmt (s : State) (m : Mgmt) : KeepsCounts s { s with mgmt := m } := .of_eq rfl rfl

theorem keepsCounts_sendBits (s : State) (p : Nat) (bs : List Byte) : KeepsCounts s (sendBits s p bs) := by
  simp only [sendBits]
  refine .ite (keepsCounts_modPort _ _ _) (.ite (.trans ?_ (keepsCounts_emit _ _)) ?_) <;>
    exact (keepsCounts_modPort _ _ _).trans (keepsCounts_emit _ _)

theorem keepsCounts_sendFlit (s : State) (p kind : Nat) (msgs : List LinkMsg) : KeepsCounts s (sendFlit s p kind msgs) :=
  .trans (.trans ((keepsCounts_modPort _ _ _).trans (keepsCounts_sendBits _ _ _)) (keepsCounts_emit _ _)) (keepsCounts_ctrAdd _ _ _ _ _)

theorem keepsCounts_pump (fuel : Nat) (s : State) (p : Nat) : KeepsCounts s (pump fuel s p) := by
  induction fuel generalizing s with
  | zero => exact .refl s
  | succ fuel ih =>
    simp only [pump]
    refine .ite (.refl s) ?_
    split
    · exact .refl s
    · exact ((keepsCounts_modPort _ _ _).trans (keepsCounts_sendFlit _ _ _ _)).trans (ih _)

theorem keepsCounts_sendTwin (s : State) (seq : Nat) (mgmt : Bool) (b : List Byte) : KeepsCounts s (sendTwin s seq mgmt b) :=
  foldl_related KeepsCounts.refl KeepsCounts.trans
    (fun _ _ => (keepsCounts_modPort _ _ _).trans (keepsCounts_pump _ _ _)) _ s

theorem keepsCounts_mirror (s : State) (r : Mirror) : KeepsCounts s (mirror s r) := by
  refine .ite (.refl s) (.trans ?_ (keepsCounts_sendTwin _ _ _ _))
  exact .of_eq rfl rfl

theorem keepsCounts_deliverReply (s : State) (f : Nat) : KeepsCounts s (deliverReply s f) :=
  .ite ((keepsCounts_modMbox _ _ _).trans (keepsCounts_emit _ _)) ((keepsCounts_modMbox _ _ _).trans (keepsCounts_raiseEv _ _ _ _ _))

theorem keepsCounts_unnumberedReply (s : State) (f : Nat) (msg : List Byte) (rep : Rep) :
    KeepsCounts s (unnumberedReply s f msg rep) := (keepsCounts_modMbox _ _ _).trans (keepsCounts_deliverReply _ _)

theorem keepsCounts_repeatReply (s : State) (f : Nat) (msg : List Byte) : KeepsCounts s (repeatReply s f msg) := by
  simp only [repeatReply]
  split
  · exact keepsCounts_unnumberedReply _ _ _ _
  · exact (keepsCounts_modMbox _ _ _).trans (keepsCounts_deliverReply _ _)

theorem keepsCounts_numberedReply (s : State) (f : Nat) (msg : List Byte) (rep : Rep) :
    KeepsCounts s (numberedReply s f msg rep) := by
  simp only [numberedReply]
  generalize hlogged : modMbox s f _ = logged
  have hlog : KeepsCounts s logged := hlogged ▸ keepsCounts_modMbox _ _ _
  have hconfig (applied : List (Nat × List Byte)) (r : Mirror) :
      KeepsCounts logged (mirror { logged with mgmt.applied := applied } r) := (keepsCounts_mgmt _ _).trans (keepsCounts_mirror _ _)
  have hrecords {c : Prop} [Decidable c] (applied : List (Nat × List Byte)) (r r' : Mirror) :
      KeepsCounts s (mirror (if c then mirror { logged with mgmt.applied := applied } r else logged) r') :=
    (hlog.trans (.ite (hconfig applied r) (.refl _))).trans (keepsCounts_mirror _ _)
  exact .ite ((hrecords _ _ _).trans (keepsCounts_modMbox _ _ _)) ((hrecords _ _ _).trans (keepsCounts_deliverReply _ _))

theorem keepsCounts_takeRequest (s : State) (f : Nat) : KeepsCounts s (takeRequest s f) :=
  .ite (.of_eq rfl rfl) (.of_eq rfl rfl)

/-- A request that is answered where it stands. -/
theorem keepsCounts_handleMsg {s : State} {f : Nat} {msg : List Byte} {h : State → Req → Done × State}
    (hh : ∀ s r, ∃ rep, h s r = (.rep rep, s)) (hperm : ∀ i, opInfo (reqOf f msg).op = some i → i.perm = none) :
    KeepsCounts s (handleMsg s f msg h) := by
  have htake := keepsCounts_takeRequest s f
  simp only [handleMsg]
  split
  · exact htake.trans (keepsCounts_unnumberedReply _ _ _ _)
  split
  · generalize hread : modMbox (takeRequest s f) f _ = s2
    have hseq : KeepsCounts s s2 := htake.trans (hread ▸ keepsCounts_modMbox _ _ _)
    have hstate := checkReq_state (s := s2) hperm
    split <;> rename_i hcheck <;> rw [hcheck] at hstate
    · exact hseq.trans (hstate ▸ keepsCounts_numberedReply _ _ _ _)
    next s3 =>
      obtain ⟨rep, hrep⟩ := hh s3 (reqOf f msg)
      simp only [hrep]
      exact hseq.trans (hstate ▸ keepsCounts_numberedReply _ _ _ _)
  split
  · exact htake.trans (keepsCounts_repeatReply _ _ _)
  · exact htake.trans (keepsCounts_unnumberedReply _ _ _ _)

theorem keepsCounts_answerSpdm {s : State} {f c : Nat} (hc : spdmCode s f = some c) (b : List Byte) :
    KeepsCounts s (answerSpdm s f (fun s _ _ => (b, s))) := by
  simp only [answerSpdm]
  split
  · exact (keepsCounts_takeRequest s f).trans (keepsCounts_emit _ _)
  next hboard =>
    have hop : fieldAt (mboxMsg s f) 0 2 = 0x0402 := by
      simp only [spdmCode, if_neg hboard] at hc
      exact (Option.ite_none_right_eq_some.mp hc).1
    refine keepsCounts_handleMsg (fun s r => ⟨_, rfl⟩) (fun i hi => ?_)
    rw [show (reqOf f (mboxMsg s f)).op = 0x0402 from hop] at hi
    cases hi
    rfl

theorem keepsCounts_answerPlain (fuel : Nat) (s : State) : KeepsCounts s (answerPlain fuel s) := by
  induction fuel generalizing s with
  | zero => exact .refl s
  | succ fuel ih =>
    rw [answerPlain]
    split
    · exact .refl s
    next g _ =>
      split
      · exact .refl s
      next hplain =>
        simp only [plainRequest, Bool.not_eq_true', Bool.not_eq_false] at hplain
        split
        next c hc => exact (keepsCounts_answerSpdm hc _).trans (ih _)
        next hc =>
          rw [hc] at hplain
          refine .trans (keepsCounts_handleMsg (fun s r => ⟨_, rfl⟩) (fun i hi => ?_)) (ih _)
          rw [show (reqOf g (mboxMsg s g)).op = fieldAt (mboxMsg s g) 0 2 from rfl] at hi
          simp [hi] at hplain

/-! ### Requests that pass the checks -/

/-- A check of a key that passes changes what the management controller holds alone (R440). -/
theorem mgmt_of_authCheck {s s1 : State} {r : Req} {p : Nat} (h : authCheck s r p = (none, s1)) : ∃ m, s1 = { s with mgmt := m } := by
  simp only [authCheck] at h
  cases hkey : (keySlot s r.slot).key <;> simp only [hkey] at h <;> split_ifs at h <;> cases h <;> exact ⟨_, rfl⟩

/-- So do the checks of a request that passes them (R438). -/
theorem mgmt_of_checkReq {s s1 : State} {r : Req} (h : checkReq s r = (none, s1)) : ∃ m, s1 = { s with mgmt := m } := by
  simp only [checkReq] at h
  cases hi : opInfo r.op with
  | none => rw [hi] at h; cases h
  | some i =>
    simp only [hi] at h
    cases hp : i.perm with
    | none =>
      simp only [hp] at h
      split_ifs at h <;> cases h
      exact ⟨_, rfl⟩
    | some p =>
      simp only [hp] at h
      cases hauth : authCheck s r p with | mk bad u =>
      cases bad with
      | some x => simp only [hauth] at h; split_ifs at h <;> cases h
      | none =>
        obtain ⟨m, hm⟩ := mgmt_of_authCheck hauth
        simp only [hauth] at h
        split_ifs at h <;> cases h
        exact ⟨m, hm⟩

section
variable {s s1 : State} {f op : Nat} {r : Req} (hc : Carries s f op r s1)
include hc

/-- A request that is carried out has changed nothing but what the management controller holds. -/
theorem Carries.only_mgmt : ∃ m, s1 = { s with mgmt := m } := by
  obtain ⟨m, hm⟩ := taken_eq s f
  obtain ⟨m', hm'⟩ := mgmt_of_checkReq hc.2
  exact ⟨m', by rw [hm', hm]⟩

/-- The reply to it, and the mail behind it, keep counters and the debug level. -/
theorem Carries.keepsCounts (hop : op ≠ 2) {h : State → Req → Done × State} {rep : Rep} {s4 t : State}
    (hh : h s1 r = (.rep rep, s4)) (ht : completes s (serveOp op h s) = .next t) : KeepsCounts s4 t := by
  cases ht
  rw [hc.serveOp_eq, hc.handleMsg_rep hop hh]
  have hmail := (keepsCounts_numberedReply s4 f r.msg rep).trans (keepsCounts_answerPlain 1100 _)
  exact ⟨hmail.cnt, hmail.level⟩

end

end Sys2Proof.Machine
end

section
/-! What the administrator's messages of reserves, scrubs, stash reserves and flag grants do (R134, R301, R360, R385). -/

namespace Sys2Proof.Machine

section
variable {s s1 : State} {f : Nat} {r : Req}

/-- RT_RESERVE_SET sets the reserves (R385). -/
theorem rtReserveSet_completes (hc : Carries s f 0x0205 r s1) (hn : r.f 0 1 ≤ 48) (hr : r.f 1 1 ≤ 16) :
    ∃ t, exec .rtReserveSet s = .next t ∧ Replied s1 t f r (okRep []) ∧ t.mem = s.mem ∧ t.cores = s.cores ∧ t.fe = s.fe ∧
      t.sched = { s.sched with n := r.f 0 1, r := r.f 1 1 } := by
  obtain ⟨m, rfl⟩ := hc.only_mgmt
  have hrun : hRtReserveSet { s with mgmt := m } r =
      (.rep (okRep []), { s with mgmt := m, sched.n := r.f 0 1, sched.r := r.f 1 1 }) :=
    if_neg (by simp only [Bool.or_eq_true, decide_eq_true_eq]; omega)
  obtain ⟨t, ht, hmailed, hrep⟩ := hc.completes_rep (by decide) hrun rfl
  exact ⟨t, ht, hrep, hmailed.mem, hmailed.cores, hmailed.fe, hmailed.sched⟩

/-- MEM_SCRUB_CONFIG sets the interval of the patrol scrub (R301). -/
theorem memScrubConfig_completes (hc : Carries s f 0x0207 r s1) (hlo : 1 ≤ r.f 0 2) (hhi : r.f 0 2 ≤ 168) :
    ∃ t, exec .memScrubConfig s = .next t ∧ Replied s1 t f r (okRep []) ∧ MailOnly s1 t ∧ t.mgmt.scrubHours = r.f 0 2 := by
  obtain ⟨m, rfl⟩ := hc.only_mgmt
  have hrun : hMemScrubConfig { s with mgmt := m } r =
      (.rep (okRep []), { s with mgmt := { m with scrubHours := r.f 0 2 } }) :=
    if_neg (by simp only [Bool.or_eq_true, decide_eq_true_eq]; omega)
  obtain ⟨t, ht, hmailed, hrep⟩ := hc.completes_rep (by decide) hrun rfl
  exact ⟨t, ht, hrep, hmailed.mailOnly, (congrArg (fun x : State => x.mgmt.scrubHours) hmailed.unposted :)⟩

/-- SET_STASH_RESERVE sets a partition's reservation, and reclaims nothing (R134, R139). -/
theorem setStashReserve_completes {p : Partition} (hc : Carries s f 0x0208 r s1) (hbad : partBad s r = false)
    (hp : alFind s.sched.parts (r.f 0 1) = some p)
    (hvalid : partsValid { s with sched.parts := alPut s.sched.parts (r.f 0 1) { p with stashMib := r.f 1 1 } } = true) :
    ∃ t, exec .setStashReserve s = .next t ∧ Replied s1 t f r (okRep []) ∧ t.mem = s.mem ∧ t.cores = s.cores ∧
      t.regions = s.regions ∧
      t.sched = { s.sched with parts := alPut s.sched.parts (r.f 0 1) { p with stashMib := r.f 1 1 } } := by
  obtain ⟨m, rfl⟩ := hc.only_mgmt
  have hbad' : partBad { s with mgmt := m } r = false := hbad
  have hvalid' : partsValid { s with
      mgmt := m, sched.parts := alPut s.sched.parts (r.f 0 1) { p with stashMib := r.f 1 1 } } = true := hvalid
  have hrun : hSetStashReserve { s with mgmt := m } r = (.rep (okRep []), { s with
      mgmt := m, sched.parts := alPut s.sched.parts (r.f 0 1) { p with stashMib := r.f 1 1 } }) := by
    simp only [hSetStashReserve, hbad', hp, hvalid', Bool.false_eq_true, if_false, if_true]
    rfl
  obtain ⟨t, ht, hmailed, hrep⟩ := hc.completes_rep (by decide) hrun rfl
  exact ⟨t, ht, hrep, hmailed.mem, hmailed.cores, (congrArg State.regions hmailed.unposted :), hmailed.sched⟩

/-! ### FLAG_GRANT (R360) -/

theorem alFind_filter_key {α : Type} (p : Nat → Bool) (l : AL α) (k : Nat) :
    alFind (l.filter (fun e => p e.1)) k = if p k then alFind l k else none := by
  induction l with
  | nil => simp [alFind]
  | cons e l ih =>
    obtain ⟨j, v⟩ := e
    by_cases hk : k = j
    · subst j
      cases hp : p k with
      | true => simp [hp, alFind]
      | false => simpa [hp] using ih
    · cases hp : p j with
      | true => simpa [hp, alFind, hk] using ih
      | false => simpa [hp, alFind, hk] using ih

/-- A free group of flags that is granted reads 0. -/
theorem flagGrant_grants (hc : Carries s f 0x0206 r s1) (hg : r.f 0 2 ≤ 255) (hactor : r.actor < 1024) (hset : r.f 2 1 = 1)
    (hfree : alFind s.fe.grants (r.f 0 2) = none) :
    ∃ t, exec .flagGrant s = .next t ∧ Replied s1 t f r (okRep []) ∧ t.mem = s.mem ∧ t.cores = s.cores ∧
      t.fe.grants = alPut s.fe.grants (r.f 0 2) r.actor ∧ (∀ k, k / 64 = r.f 0 2 → flagOf t k = 0) ∧
      ∀ k, k / 64 ≠ r.f 0 2 → flagOf t k = flagOf s k := by
  obtain ⟨m, rfl⟩ := hc.only_mgmt
  have hrun : hFlagGrant { s with mgmt := m } r = (.rep (okRep []), { s with
      mgmt := m, fe.grants := alPut s.fe.grants (r.f 0 2) r.actor
      fe.flags := s.fe.flags.filter (fun e => e.1 / 64 != r.f 0 2) }) := by
    refine (if_neg (by simp only [Bool.or_eq_true, decide_eq_true_eq]; omega)).trans ?_
    simp only [hfree, hset]
    rfl
  obtain ⟨t, ht, hmailed, hrep⟩ := hc.completes_rep (by decide) hrun rfl
  have hflag (k : Nat) : flagOf t k = if k / 64 != r.f 0 2 then flagOf s k else 0 := by
    simp only [flagOf, hmailed.fe, alGet, alFind_filter_key (fun k => k / 64 != r.f 0 2)]
    split <;> rfl
  exact ⟨t, ht, hrep, hmailed.mem, hmailed.cores, (congrArg Front.grants hmailed.fe :), fun k hk => by simp [hflag, hk],
    fun k hk => by simp [hflag, hk]⟩

/-- A revoke ends the waits on the group's flags. -/
theorem abandonWaits_nodes (s : State) (g : Nat) :
    ∀ n ∈ (abandonWaits s g).fe.nodes, n.2.phase = .waiting → ndWaitFlag n.2.desc / 64 ≠ g := by
  intro n hn hwait
  obtain ⟨e, -, rfl⟩ := List.mem_map.mp hn
  dsimp only at hwait ⊢
  split at hwait
  · cases hwait
  next hhit =>
    rw [if_neg hhit]
    simpa [hwait] using hhit

theorem flagGrant_revokes (hc : Carries s f 0x0206 r s1) (hg : r.f 0 2 ≤ 255) (hactor : r.actor < 1024) (hset : r.f 2 1 = 0)
    (hheld : alFind s.fe.grants (r.f 0 2) = some r.actor) :
    ∃ t, exec .flagGrant s = .next t ∧ Replied s1 t f r (okRep []) ∧ t.mem = s.mem ∧ t.cores = s.cores ∧
      t.fe.grants = alDel s.fe.grants (r.f 0 2) ∧
      ∀ n ∈ t.fe.nodes, n.2.phase = .waiting → ndWaitFlag n.2.desc / 64 ≠ r.f 0 2 := by
  obtain ⟨m, rfl⟩ := hc.only_mgmt
  have hrun : hFlagGrant { s with mgmt := m } r =
      (.rep (okRep []), abandonWaits { s with mgmt := m, fe.grants := alDel s.fe.grants (r.f 0 2) } (r.f 0 2)) := by
    refine (if_neg (by simp only [Bool.or_eq_true, decide_eq_true_eq]; omega)).trans ?_
    simp only [hheld, hset, if_true]
    rfl
  obtain ⟨t, ht, hmailed, hrep⟩ := hc.completes_rep (by decide) hrun rfl
  refine ⟨t, ht, hrep, hmailed.mem, hmailed.cores, (congrArg Front.grants hmailed.fe :), ?_⟩
  rw [hmailed.fe]
  exact abandonWaits_nodes _ _

end

end Sys2Proof.Machine
end

section
/-! ISOLATION_SET takes effect (R405, R513): a released whistle leaves memory, scheduling and management as they are. -/

namespace Sys2Proof.Machine

/-- `t` is `s` but for what the release of a whistle changes: cores, the front end, functions, the host's side and the debug state. -/
def OnlyDebug (s t : State) : Prop :=
  ∃ cores fe fns host dbg frozen, t = { s with
    cores := cores, fe := fe, fns := fns, host := host, dbg := dbg, frozen := frozen }

namespace OnlyDebug

theorem refl (s : State) : OnlyDebug s s := ⟨_, _, _, _, _, _, rfl⟩

theorem trans {s t u : State} (h : OnlyDebug s t) (h' : OnlyDebug t u) : OnlyDebug s u := by
  obtain ⟨_, _, _, _, _, _, rfl⟩ := h
  obtain ⟨_, _, _, _, _, _, rfl⟩ := h'
  exact ⟨_, _, _, _, _, _, rfl⟩

theorem ite {c : Prop} [Decidable c] {s t u : State} (ht : OnlyDebug s t) (hu : OnlyDebug s u) :
    OnlyDebug s (if c then t else u) := by
  split
  · exact ht
  · exact hu

end OnlyDebug

theorem onlyDebug_modCtr (s : State) (k : Nat) (g : CtrBlock → CtrBlock) : OnlyDebug s (modCtr s k g) := ⟨_, _, _, _, _, _, rfl⟩

theorem onlyDebug_capture (s : State) (k cause : Nat) (tag : Option Nat) : OnlyDebug s (capture s k cause tag) := by
  obtain ⟨_, _, h⟩ := onlyTrace_capture s k cause tag
  rw [h]
  exact ⟨_, _, _, _, _, _, rfl⟩

theorem onlyDebug_resumeBlocks (s : State) : OnlyDebug s (resumeBlocks s) := by
  refine .trans ⟨_, _, _, _, _, _, rfl⟩ (foldl_related OnlyDebug.refl OnlyDebug.trans (fun s k => ?_) _ _)
  refine .ite ?_ (onlyDebug_modCtr _ _ _)
  exact ((onlyDebug_modCtr _ _ _).trans (onlyDebug_capture _ _ _ _)).trans (onlyDebug_modCtr _ _ _)

theorem onlyDebug_syncShots (s : State) : OnlyDebug s (syncShots s) := by
  obtain ⟨_, h⟩ := syncShots_fe s
  exact ⟨_, _, _, _, _, _, h⟩

theorem onlyDebug_raiseWhistle (s : State) (code : Nat) : OnlyDebug s (raiseWhistle s code) := by
  cases h : s.dbg.raised with
  | true =>
    rw [raiseWhistle_of_raised code h]
    exact ⟨_, _, _, _, _, _, rfl⟩
  | false =>
    obtain ⟨_, _, _, _, _, _, _, he⟩ := raiseWhistle_of_quiet code h
    rw [he]
    exact ⟨_, _, _, _, _, _, rfl⟩

/-! The release of a whistle, cut into its steps. -/

/-- The whistle falls and every halt ends. -/
def unhalted (s : State) : State :=
  syncShots (mapCores { s with dbg.raised := false, dbg.first := 0, dbg.sources := 0 } (fun _ c => { c with halted := false }))

/-- Groups that BRK stopped run on. -/
def brkRunOn (s : State) : State :=
  { mapCores s (fun i c => { c with exec.groups := alMap c.exec.groups (fun k g =>
      if brkStopped g && !(s.dbg.brkHeld.any (fun h => h.1 == i && h.2.1 == k)) then { g with stop := .running } else g) }) with
    dbg.brkHit := 0, dbg.brkLys := 0, dbg.heldNode := none }

/-- A held BRK raises the whistle anew (R512). -/
def raiseHeld (s : State) : State :=
  match s.dbg.brkHeld with
  | [] => s
  | (c, slot, npc) :: r =>
    let lys := match (alFind (execOf s c).groups slot).bind currentPath with
      | some (p : Path) => p.pc
      | none => 0
    raiseWhistle (brkRecord { s with dbg.brkHeld := r } c slot npc lys) 2

theorem releaseWhistle_eq (s : State) : releaseWhistle s =
    if !s.dbg.raised then s else raiseHeld (brkRunOn (unhalted (resumeBlocks { s with frozen := none }))) := rfl

theorem onlyDebug_unhalted (s : State) : OnlyDebug s (unhalted s) :=
  .trans ⟨_, _, _, _, _, _, rfl⟩ (onlyDebug_syncShots _)

theorem onlyDebug_raiseHeld (s : State) : OnlyDebug s (raiseHeld s) := by
  rw [raiseHeld]
  split
  · exact .refl s
  · exact .trans ⟨_, _, _, _, _, _, rfl⟩ (onlyDebug_raiseWhistle _ _)

theorem onlyDebug_releaseWhistle (s : State) : OnlyDebug s (releaseWhistle s) := by
  rw [releaseWhistle_eq]
  have hresume : OnlyDebug s (resumeBlocks { s with frozen := none }) :=
    .trans ⟨_, _, _, _, _, _, rfl⟩ (onlyDebug_resumeBlocks _)
  have hrun (s : State) : OnlyDebug s (brkRunOn s) := ⟨_, _, _, _, _, _, rfl⟩
  exact .ite (.refl s) (((hresume.trans (onlyDebug_unhalted _)).trans (hrun _)).trans (onlyDebug_raiseHeld _))

theorem onlyDebug_lockDebug (s : State) : OnlyDebug s (lockDebug s) :=
  .trans (.ite (onlyDebug_releaseWhistle s) (.refl s)) ⟨_, _, _, _, _, _, rfl⟩

/-- ISOLATION_SET sets strict isolation mode while no partition stands, and the debug level returns to 0 (R405, R513). -/
theorem isolationSet_completes {s s1 : State} {f : Nat} {r : Req} (hc : Carries s f 0x0209 r s1) (hmode : r.f 0 1 ≤ 1)
    (hnone : s.sched.parts = []) :
    ∃ t, exec .isolationSet s = .next t ∧ Replied s1 t f r (okRep []) ∧ t.mem.mem = s.mem.mem ∧ t.mem.ctls = s.mem.ctls ∧
      t.sched.strict = (r.f 0 1 == 1) ∧ t.dbg.level = 0 := by
  obtain ⟨m, rfl⟩ := hc.only_mgmt
  have hrun : hIsolationSet { s with mgmt := m } r = (.rep (okRep []), lockDebug { s with
      mgmt := m, sched.strict := r.f 0 1 = 1, mem.refills := 96 * s.time / 600, mem.windows := 96 * s.time / 1200 }) :=
    (if_neg (by omega)).trans ((if_neg (by simp [hnone])).trans rfl)
  obtain ⟨_, _, _, _, _, _, hlock⟩ := onlyDebug_lockDebug { s with
      mgmt := m, sched.strict := r.f 0 1 = 1, mem.refills := 96 * s.time / 600, mem.windows := 96 * s.time / 1200 }
  rw [hlock] at hrun
  obtain ⟨t, ht, hmailed, hrep⟩ := hc.completes_rep (by decide) hrun rfl
  refine ⟨t, ht, hrep, (congrArg MemSys.mem hmailed.mem :), (congrArg MemSys.ctls hmailed.mem :), ?_, ?_⟩
  · rw [hmailed.sched]
    rfl
  · rw [← hlock] at hrun
    exact (hc.keepsCounts (by decide) hrun ht).level

end Sys2Proof.Machine
end

section
/-! TENANT_BIND takes effect (R384). -/

namespace Sys2Proof.Machine

/-- A tenant's nodes follow its pages, and nothing else changes (R285). -/
theorem syncNodes_nodes (s : State) (tenant : Nat) : ∃ nodes, syncNodes s tenant = { s with mem.nodes := nodes } := by
  simp only [syncNodes]
  split <;> exact ⟨_, rfl⟩

/-- `t` is `s` with the quota of a bound tenant checked: its mark alone may differ among the tenants, and events alone may have
been raised (Table 13.5). -/
structure QuotaChecked (s : State) (tenant : Nat) (tn : Tenant) (t : State) : Prop where
  marks : ∃ tenants fns host, t = { s with sched.tenants := tenants, fns := fns, host := host }
  entry : ∃ b, alFind t.sched.tenants tenant = some { tn with overQuota := b }
  others : ∀ k, k ≠ tenant → alFind t.sched.tenants k = alFind s.sched.tenants k
  quiet : ∀ k, (fnOf t k).quiet = (fnOf s k).quiet

/-- The mark of a tenant is set. -/
theorem quotaChecked_mark (s : State) (tenant : Nat) (tn : Tenant) (b : Bool) :
    QuotaChecked s tenant tn { s with sched.tenants := alPut s.sched.tenants tenant { tn with overQuota := b } } :=
  ⟨⟨_, _, _, rfl⟩, ⟨b, alFind_alPut_self _ _ _⟩, fun _ hk => alFind_alPut_other _ _ _ _ hk, fun _ => rfl⟩

/-- An event beside the mark. -/
theorem QuotaChecked.raiseEv {s t : State} {tenant : Nat} {tn : Tenant} (h : QuotaChecked s tenant tn t) (f grp n : Nat)
    (last : Option Nat) : QuotaChecked s tenant tn (raiseEv t f grp n last) := by
  obtain ⟨⟨tenants, fns, host, rfl⟩, ⟨b, hb⟩, hothers, hquiet⟩ := h
  have hq := quiet_raiseEv { s with sched.tenants := tenants, fns := fns, host := host } f grp n last
  obtain ⟨fns', host', hraise⟩ := onlyHostSide_raiseEv { s with sched.tenants := tenants, fns := fns, host := host } f grp n last
  rw [hraise] at hq ⊢
  exact ⟨⟨_, _, _, rfl⟩, ⟨b, hb⟩, hothers, fun k => (hq k).trans (hquiet k)⟩

theorem quotaChecked_checkQuota {s : State} {tenant : Nat} {tn : Tenant} (h : alFind s.sched.tenants tenant = some tn) :
    QuotaChecked s tenant tn (checkQuota s tenant) := by
  simp only [checkQuota, h]
  split_ifs
  · exact (quotaChecked_mark s tenant tn true).raiseEv _ _ _ _
  · exact quotaChecked_mark s tenant tn false
  · exact ⟨⟨_, _, _, rfl⟩, ⟨tn.overQuota, h⟩, fun _ _ => rfl, fun _ => rfl⟩

/-- The state in which a tenant's limits are held against its binding. -/
def boundState (s : State) (r : Req) : State :=
  { s with sched.tenants := alPut s.sched.tenants r.actor (newTenant (r.f 0 1) (r.f 2 2) (r.f 8 8)) }

/-- A tenant's nodes are made, its counters cleared and its policies reset. -/
def clearTenant (s : State) (tenant : Nat) : State :=
  modFn (syncNodes s tenant) tenant (fun x => { x with cnt := [], policies := List.replicate 8 policyReset })

theorem fnOf_clearTenant (s : State) (tenant : Nat) :
    (fnOf (clearTenant s tenant) tenant).policies = List.replicate 8 policyReset ∧ (fnOf (clearTenant s tenant) tenant).cnt = [] := by
  rw [clearTenant, modFn, fnOf_setFn, if_pos rfl]
  exact ⟨rfl, rfl⟩

theorem clearTenant_eq (s : State) (tenant : Nat) : ∃ nodes fns, clearTenant s tenant = { s with mem.nodes := nodes, fns := fns } := by
  obtain ⟨_, hnodes⟩ := syncNodes_nodes s tenant
  rw [clearTenant, hnodes]
  exact ⟨_, _, rfl⟩

/-- TENANT_BIND within its limits, outside strict isolation mode. -/
theorem hTenantBind_eq {s : State} {r : Req} {p : Partition} (hbad : partBad s r = false) (hactor : r.actor < 1024)
    (hp : alFind s.sched.parts (r.f 0 1) = some p) (hcores : coresBad s (r.f 0 1) (r.f 2 2) = false)
    (hfree : alFind s.sched.tenants r.actor = none) (hstrict : s.sched.strict = false)
    (hfit : firmFits (boundState s r) r.actor = true) :
    hTenantBind s r = (.rep (okRep []), checkQuota (clearTenant (boundState s r) r.actor) r.actor) := by
  have hcount : r.f 2 2 ≠ 0 := by
    simp only [coresBad, Bool.or_eq_false_iff, decide_eq_false_iff_not] at hcores
    exact hcores.1
  have hparts : (if s.sched.strict then alPut s.sched.parts (r.f 0 1) { p with served := none } else s.sched.parts) =
      s.sched.parts := if_neg (by simp [hstrict])
  have hranges : (partBad s r || decide (r.f 2 2 = 0) || decide (1024 ≤ r.actor)) = false := by
    simp [hbad, hcount, hactor]
  have hopen : ((alFind s.sched.tenants r.actor).isSome ||
      (s.sched.strict && s.sched.tenants.any (fun e => e.2.part == r.f 0 1))) = false := by simp [hfree, hstrict]
  rw [hTenantBind]
  simp only [hranges, hp, hcores, hopen, hparts, Bool.false_eq_true, if_false]
  exact if_neg (by rw [Bool.not_eq_true', Bool.not_eq_false]; exact hfit)

/-- TENANT_BIND binds a tenant to a partition, with its counters cleared and its policies reset (R384). -/
theorem tenantBind_completes {s s1 : State} {f : Nat} {r : Req} {p : Partition} (hc : Carries s f 0x0202 r s1)
    (hbad : partBad s r = false) (hactor : r.actor < 1024) (hp : alFind s.sched.parts (r.f 0 1) = some p)
    (hcores : coresBad s (r.f 0 1) (r.f 2 2) = false) (hfree : alFind s.sched.tenants r.actor = none)
    (hstrict : s.sched.strict = false) (hfit : firmFits (boundState s r) r.actor = true) :
    ∃ t b, exec .tenantBind s = .next t ∧ Replied s1 t f r (okRep []) ∧ t.mem.mem = s.mem.mem ∧ t.mem.pages = s.mem.pages ∧
      t.cores = s.cores ∧ (fnOf t r.actor).policies = List.replicate 8 policyReset ∧ (fnOf t r.actor).cnt = [] ∧
      t.sched.parts = s.sched.parts ∧ alFind t.sched.tenants r.actor = some { newTenant (r.f 0 1) (r.f 2 2) (r.f 8 8) with
        overQuota := b } ∧ (∀ k, k ≠ r.actor → alFind t.sched.tenants k = alFind s.sched.tenants k) := by
  obtain ⟨m, rfl⟩ := hc.only_mgmt
  have hrun := hTenantBind_eq (s := { s with mgmt := m }) hbad hactor hp hcores hfree hstrict hfit
  obtain ⟨hpolicies, hcounts⟩ := fnOf_clearTenant (boundState { s with mgmt := m } r) r.actor
  obtain ⟨nodes, fns, hcleared⟩ := clearTenant_eq (boundState { s with mgmt := m } r) r.actor
  have hquota := quotaChecked_checkQuota (s := clearTenant (boundState { s with mgmt := m } r) r.actor) (tenant := r.actor)
    (tn := newTenant (r.f 0 1) (r.f 2 2) (r.f 8 8)) (by rw [hcleared]; exact alFind_alPut_self _ _ _)
  obtain ⟨⟨_, _, _, hmarks⟩, ⟨b, hentry⟩, hothers, hquiet⟩ := hquota
  have hpol := (congrArg Fn.policies (hquiet r.actor) :).trans hpolicies
  have hcnt := (congrArg Fn.cnt (hquiet r.actor) :).trans hcounts
  obtain ⟨t, ht, hmailed, hrep⟩ := hc.completes_rep (by decide) hrun (by rw [hmarks, hcleared]; rfl)
  refine ⟨t, b, ht, hrep, ?_, ?_, ?_, (hmailed.policies _).trans hpol, ((hc.keepsCounts (by decide) hrun ht).cnt _).trans hcnt,
    ?_, ?_, ?_⟩
  · rw [hmailed.mem, hmarks, hcleared]
    rfl
  · rw [hmailed.mem, hmarks, hcleared]
    rfl
  · rw [hmailed.cores, hmarks, hcleared]
    rfl
  · rw [hmailed.sched, hmarks, hcleared]
    rfl
  · rw [hmailed.sched, hentry]
  · intro k hk
    rw [hmailed.sched, hothers k hk, hcleared]
    exact alFind_alPut_other _ _ _ _ hk

end Sys2Proof.Machine
end

section
/-! What freed lines and granules leave of the address spaces, the controllers' credits and the debug scope, and TENANT_UNBIND
(R289, R305, R384). -/

namespace Sys2Proof.Machine

/-- `t` holds the page entries and the debug scope of `s`, and every controller's credits. -/
structure Steady (s t : State) : Prop where
  pages : t.mem.pages = s.mem.pages
  scope : t.dbg.scope = s.dbg.scope
  regs : ∀ h c, alFind s.mem.ctls h = some c → ∃ c', alFind t.mem.ctls h = some c' ∧ c'.regs = c.regs

namespace Steady

theorem of_eq {s t : State} (hm : t.mem = s.mem) (hd : t.dbg.scope = s.dbg.scope) : Steady s t :=
  ⟨by rw [hm], hd, fun _ c hc => ⟨c, by rw [hm]; exact hc, rfl⟩⟩

theorem refl (s : State) : Steady s s := .of_eq rfl rfl

theorem trans {s t u : State} (h : Steady s t) (h' : Steady t u) : Steady s u := by
  refine ⟨h'.pages.trans h.pages, h'.scope.trans h.scope, fun k c hc => ?_⟩
  obtain ⟨c', hc', hregs⟩ := h.regs k c hc
  obtain ⟨c'', hc'', hregs'⟩ := h'.regs k c' hc'
  exact ⟨c'', hc'', hregs'.trans hregs⟩

/-- One of two ways on. -/
theorem ite {p : Prop} [Decidable p] {s t u : State} (ht : Steady s t) (hu : Steady s u) : Steady s (if p then t else u) := by
  split
  · exact ht
  · exact hu

theorem foldl {α : Type} {f : State → α → State} (hf : ∀ s a, Steady s (f s a)) (l : List α) (s : State) :
    Steady s (l.foldl f s) := foldl_related refl trans hf l s

end Steady

theorem OnlyHostSide.steady {s t : State} (h : OnlyHostSide s t) : Steady s t := by
  obtain ⟨_, _, rfl⟩ := h
  exact .of_eq rfl rfl

theorem steady_modRegion (s : State) (r : Nat) (g : Region → Region) : Steady s (modRegion s r g) := .of_eq rfl rfl

/-- A change of a controller that keeps its credits. -/
theorem steady_modCtl {s : State} {h : Nat} {g : Ctl → Ctl} (hg : ∀ c, (g c).regs = c.regs) : Steady s (modCtl s h g) := by
  refine ⟨rfl, rfl, fun k c hc => ?_⟩
  by_cases hk : k = h
  · subst k
    refine ⟨g c, ?_, hg c⟩
    rw [← show alGet {} s.mem.ctls h = c by simp [alGet, hc]]
    exact alFind_alPut_self _ _ _
  · exact ⟨c, (alFind_alPut_other _ _ _ _ hk).trans hc, rfl⟩

theorem steady_ctrAdd (s : State) (k code n : Nat) (part : Option Nat) : Steady s (ctrAdd s k code n part) :=
  .ite (.refl s) (.of_eq rfl rfl)

theorem steady_ccBump (s : State) (r part tenant off n : Nat) : Steady s (ccBump s r part tenant off n) :=
  .trans ((steady_modRegion s r _).trans (.ite (.refl _) (steady_ctrAdd _ _ _ _ _))) (onlyHostSide_bump _ _ _ _).steady

theorem steady_ctlWrite (s : State) (w : MemWrite) : Steady s (ctlWrite s w) := by
  simp only [ctlWrite]
  split
  · exact .refl s
  · exact steady_modCtl (fun _ => rfl)

theorem steady_writeBack (s : State) (tenant : Nat) (l : SliceLine) : Steady s (writeBack s tenant l) :=
  .ite ((steady_ctlWrite _ _).trans (steady_ccBump _ _ _ _ _ _)) (.refl s)

theorem steady_freeSides (s : State) (r : Nat) (p : SideEntry → Bool) : Steady s (freeSides s r p) :=
  (Steady.foldl (fun _ _ => steady_ccBump _ _ _ _ _ _) _ s).trans (steady_modRegion _ _ _)

theorem steady_voidRange (s : State) (base n : Nat) : Steady s (voidRange s base n) :=
  .foldl (fun _ _ => (steady_modRegion _ _ _).trans (steady_freeSides _ _ _)) _ s

theorem steady_recordFault (s : State) (r : Resource) (uc : Bool) : Steady s (recordFault s r uc) :=
  .ite (onlyHostSide_raisePfSf _ _ _ _).steady (.of_eq rfl rfl)

/-- A change of the granules' books. -/
theorem steady_books (s : State) (grans : AL GranUse) (retired : AL GranFault) :
    Steady s { s with mem.grans := grans, mem.retired := retired } := ⟨rfl, rfl, fun _ c hc => ⟨c, hc, rfl⟩⟩

theorem steady_retireNow (s : State) (g ctl : Nat) : Steady s (retireNow s g ctl) := by
  simp only [retireNow]
  have hlisted := steady_books s s.mem.grans (alPut s.mem.retired g { pending := false, ctl := ctl })
  exact (Steady.ite hlisted (hlisted.trans (steady_recordFault _ _ _))).trans (onlyHostSide_raiseEv _ _ _ _ _).steady

theorem steady_freeGranule (s : State) (g : Nat) : Steady s (freeGranule s g) := by
  have hfreed := steady_books s (alDel s.mem.grans g) s.mem.retired
  simp only [freeGranule]
  split
  · exact .ite (hfreed.trans (steady_retireNow _ _ _)) hfreed
  · exact hfreed

theorem steady_releaseGranules (s : State) (gs : List Nat) : Steady s (releaseGranules s gs) :=
  .foldl (fun _ _ => (steady_voidRange _ _ _).trans (steady_freeGranule _ _)) _ s

/-! ### TENANT_UNBIND (R384) -/

/-- The page entries that are left once a tenant's are unmapped. -/
def pagesWithout (s : State) (tenant : Nat) : AL PageEnt :=
  s.mem.pages.filter (fun e => !(e.1 / 2 ^ 32 == tenant && decide (0 ≤ e.1 % 2 ^ 32) && decide (e.1 % 2 ^ 32 < 2 ^ 32)))

theorem alFind_pagesWithout (s : State) (tenant : Nat) {va : Nat} (hva : va < 2 ^ 48) :
    alFind (pagesWithout s tenant) (pageKey tenant va) = none := by
  have hkey : pageKey tenant va / 2 ^ 32 = tenant := by
    simp only [pageKey]
    omega
  have hin : pageKey tenant va % 2 ^ 32 < 2 ^ 32 := Nat.mod_lt _ (by norm_num)
  rw [pagesWithout, alFind_filter_key (fun k => !(k / 2 ^ 32 == tenant && decide (0 ≤ k % 2 ^ 32) && decide (k % 2 ^ 32 < 2 ^ 32))),
    hkey, decide_eq_true hin]
  simp

/-- `t` holds what the end of a binding takes from `s` in steps of its own, and what it leaves: the cells of memory, page
entries, the front end, mailboxes, the debug scope, scheduling, images and pools. -/
structure Spares (s t : State) : Prop where
  cells : t.mem.mem = s.mem.mem
  pages : t.mem.pages = s.mem.pages
  fe : t.fe = s.fe
  mboxes : t.mgmt.mboxes = s.mgmt.mboxes
  scope : t.dbg.scope = s.dbg.scope
  sched : t.sched = s.sched
  images : t.images = s.images
  pools : t.pools = s.pools

theorem Spares.trans {s t u : State} (h : Spares s t) (h' : Spares t u) : Spares s u :=
  ⟨h'.cells.trans h.cells, h'.pages.trans h.pages, h'.fe.trans h.fe, h'.mboxes.trans h.mboxes, h'.scope.trans h.scope,
    h'.sched.trans h.sched, h'.images.trans h.images, h'.pools.trans h.pools⟩

theorem spares_releaseGranules (s : State) (gs : List Nat) : Spares s (releaseGranules s gs) := by
  have hfreed := reclaims_releaseGranules s gs
  have hsteady := steady_releaseGranules s gs
  exact ⟨hfreed.cells, hsteady.pages, (congrArg State.fe hfreed.apart :), hfreed.mboxes, hsteady.scope,
    (congrArg State.sched hfreed.apart :), hfreed.images, (congrArg State.pools hfreed.apart :)⟩

theorem spares_syncNodes (s : State) (tenant : Nat) : Spares s (syncNodes s tenant) := by
  obtain ⟨_, hnodes⟩ := syncNodes_nodes s tenant
  rw [hnodes]
  exact ⟨rfl, rfl, rfl, rfl, rfl, rfl, rfl, rfl⟩

/-- The whole address space is unmapped: its entries go, L1s of the tenant's cores are cleared, and granules are freed. -/
theorem spares_unmapPages (s : State) (tenant : Nat) :
    Spares { s with mem.pages := pagesWithout s tenant } (unmapPages s tenant 0 (2 ^ 32)).2.2 := by
  refine .trans (.trans (spares_syncNodes _ tenant) ?_) (spares_releaseGranules _ _)
  exact ⟨rfl, rfl, rfl, rfl, rfl, rfl, rfl, rfl⟩

/-- A tenant's images go, with their lines in the clusters and their granules. -/
theorem spares_dropImages (s : State) (tenant : Nat) :
    Spares { s with images := s.images.filter (fun e => e.2.tenant != tenant) } (dropImages s tenant) := by
  refine .trans ?_ (spares_releaseGranules _ _)
  exact ⟨rfl, rfl, rfl, rfl, rfl, rfl, rfl, rfl⟩

theorem spares_freeStashes (s : State) (tenant : Nat) : Spares s (freeTenantStash (freeCaptures s tenant) tenant) :=
  ⟨rfl, rfl, rfl, rfl, rfl, rfl, rfl, rfl⟩

/-- A binding that has ended: the tenant, its pages, its images and its pools are gone, and nothing else that is listed here. -/
theorem spares_unbindTenant (s : State) (tenant : Nat) :
    Spares { s with
      mem.pages := pagesWithout s tenant, sched.tenants := alDel s.sched.tenants tenant
      images := s.images.filter (fun e => e.2.tenant != tenant), pools := s.pools.filter (fun e => e.2.owner != tenant) }
      (unbindTenant s tenant) := by
  have hunmap := spares_unmapPages s tenant
  simp only [unbindTenant]
  generalize (unmapPages s tenant 0 (2 ^ 32)).2.2 = s1 at hunmap ⊢
  have hdrop := (spares_dropImages s1 tenant).trans (spares_freeStashes _ tenant)
  generalize freeTenantStash (freeCaptures (dropImages s1 tenant) tenant) tenant = s2 at hdrop ⊢
  refine .trans ?_ (spares_syncNodes _ _)
  exact ⟨hdrop.cells.trans hunmap.cells, hdrop.pages.trans hunmap.pages, hdrop.fe.trans hunmap.fe,
    hdrop.mboxes.trans hunmap.mboxes, hdrop.scope.trans hunmap.scope, by rw [hdrop.sched, hunmap.sched],
    by rw [hdrop.images, hunmap.images], by rw [hdrop.pools, hunmap.pools]⟩

/-- TENANT_UNBIND ends the binding of a tenant that no queue works for (R384). -/
theorem tenantUnbind_completes {s s1 : State} {f : Nat} {r : Req} {tn : Tenant} (hc : Carries s f 0x0203 r s1)
    (hactor : r.actor < 1024) (htenant : alFind s.sched.tenants r.actor = some tn)
    (hidle : ∀ e ∈ s.fe.queues, e.2.fn = r.actor → e.2.entries = [] ∧ e.2.job = none) (hscope : s.dbg.scope ≠ some r.actor) :
    ∃ t, exec .tenantUnbind s = .next t ∧ Replied s1 t f r (okRep []) ∧ t.mem.mem = s.mem.mem ∧ t.fe = s.fe ∧
      t.sched.tenants = alDel s.sched.tenants r.actor ∧ (∀ va, pageOf t r.actor va = none) ∧
      (∀ i ∈ t.images, i.2.tenant ≠ r.actor) ∧ (∀ p ∈ t.pools, p.2.owner ≠ r.actor) := by
  obtain ⟨m, rfl⟩ := hc.only_mgmt
  have hends := spares_unbindTenant { s with mgmt := m } r.actor
  have hrun : hTenantUnbind { s with mgmt := m } r = (.rep (okRep []), unbindTenant { s with mgmt := m } r.actor) := by
    have hquiet : s.fe.queues.any (fun e => e.2.fn == r.actor && (!e.2.entries.isEmpty || e.2.job.isSome)) = false := by
      rw [List.any_eq_false]
      intro e he hbusy
      simp only [Bool.and_eq_true, beq_iff_eq] at hbusy
      obtain ⟨hentries, hjob⟩ := hidle e he hbusy.1
      simp [hentries, hjob] at hbusy
    simp only [hTenantUnbind, if_neg (Nat.not_le.mpr hactor), htenant, hquiet, hends.scope, if_neg hscope, Option.isNone_some,
      Bool.false_eq_true, if_false]
    rfl
  obtain ⟨t, ht, hmailed, hrep⟩ := hc.completes_rep (by decide) hrun hends.mboxes
  refine ⟨t, ht, hrep, (congrArg MemSys.mem hmailed.mem).trans hends.cells, hmailed.fe.trans hends.fe,
    (congrArg Sched.tenants (hmailed.sched.trans hends.sched) :), fun va => ?_, fun i hi hown => ?_, fun p hp hown => ?_⟩
  · rw [pageOf]
    split
    · rfl
    next hva =>
      rw [hmailed.mem, hends.pages]
      exact alFind_pagesWithout s r.actor (Nat.lt_of_not_le hva)
  · rw [hmailed.images, hends.images] at hi
    simp [hown] at hi
  · rw [hmailed.pools, hends.pools] at hp
    simp [hown] at hp

end Sys2Proof.Machine
end

section
/-! Changes of way masks, and QOS_SET (R260, R404, Table 13.5). -/

namespace Sys2Proof.Machine

/-! ### Ways that change hands (R260) -/

/-- A line that leaves its slice is written back. -/
theorem accesses_evict (s : State) (tenant r set w : Nat) (l : SliceLine) :
    Accesses s (modRegion (writeBack s tenant l) r (fun x => dropWay x set w)) :=
  (accesses_writeBack _ _ _).trans (accesses_modRegion rfl)

theorem steady_evict (s : State) (tenant r set w : Nat) (l : SliceLine) :
    Steady s (modRegion (writeBack s tenant l) r (fun x => dropWay x set w)) :=
  (steady_writeBack _ _ _).trans (steady_modRegion _ _ _)

theorem accesses_dropWays (s : State) (r : Nat) (mask : BitVec 16) : Accesses s (dropWays s r mask) :=
  .foldl (fun s _ => .ite (accesses_evict _ _ _ _ _ _) (.refl s)) _ s

theorem steady_dropWays (s : State) (r : Nat) (mask : BitVec 16) : Steady s (dropWays s r mask) :=
  .foldl (fun s _ => .ite (steady_evict _ _ _ _ _ _) (.refl s)) _ s

theorem steady_stashDisplace (s : State) (r tenant : Nat) : Steady s (stashDisplace s r tenant) :=
  .foldl (fun s _ => .ite (steady_evict _ _ _ _ _ _) (.refl s)) _ s

theorem accesses_changeWays (s : State) (part : Nat) (ch : BitVec 16) : Accesses s (changeWays s part ch) :=
  .ite (.refl s) (.foldl (fun _ _ => (accesses_dropWays _ _ _).trans (accesses_stashDisplace _ _ _)) _ s)

theorem steady_changeWays (s : State) (part : Nat) (ch : BitVec 16) : Steady s (changeWays s part ch) :=
  .ite (.refl s) (.foldl (fun _ _ => (steady_dropWays _ _ _).trans (steady_stashDisplace _ _ _)) _ s)

/-! ### The partition's part of QOS_SET -/

theorem alFind_alMap {α : Type} (m : AL α) (g : Nat → α → α) (k : Nat) : alFind (alMap m g) k = (alFind m k).map (g k) :=
  alFind_map_value (fun e => (e.1, g e.1 e.2)) (fun _ => rfl) m k

/-- Credits above the new BURST are discarded. -/
theorem creditOf_clampCredit {s : State} {id h : Nat} {p : Partition} {c : Ctl} {g : Regulator}
    (hc : alFind s.mem.ctls h = some c) (hg : alFind c.regs id = some g) :
    creditOf (ctlOf (clampCredit s id p) h) id false = min g.credit p.burst := by
  have hctl : ctlOf (clampCredit s id p) h =
      { c with regs := alPut c.regs id { credit := min g.credit p.burst, rtCredit := min g.rtCredit p.rtBurst } } := by
    simp [ctlOf, alGet, clampCredit, alFind_alMap, hc, hg]
  rw [hctl]
  simp [creditOf, alGet, alFind_alPut_self]

/-- The state in which QOS_SET has moved ways and discarded credits. -/
def qosApplied (s : State) (r : Req) (p : Partition) : State :=
  clampCredit (changeWays s (r.f 0 1) (ownWays p ^^^ ownWays (qosPart r p))) (r.f 0 1) (qosPart r p)

/-- What the cuts of QOS_SET leave, and the credits they discard. -/
theorem qosApplied_spec (s : State) (r : Req) (p : Partition) :
    (qosApplied s r p).mem.mem = s.mem.mem ∧ (qosApplied s r p).cores = s.cores ∧ (qosApplied s r p).sched = s.sched ∧
      (qosApplied s r p).mgmt.mboxes = s.mgmt.mboxes ∧ ∀ h c g, alFind s.mem.ctls h = some c → alFind c.regs (r.f 0 1) = some g →
        creditOf (ctlOf (qosApplied s r p) h) (r.f 0 1) false = min g.credit (qosPart r p).burst := by
  have hways := accesses_changeWays s (r.f 0 1) (ownWays p ^^^ ownWays (qosPart r p))
  refine ⟨hways.cells, hways.cores, (congrArg State.sched hways.apart :), hways.mboxes, fun h c g hc hg => ?_⟩
  obtain ⟨c', hc', hregs⟩ := (steady_changeWays s (r.f 0 1) (ownWays p ^^^ ownWays (qosPart r p))).regs h c hc
  exact creditOf_clampCredit hc' (hregs ▸ hg)

/-- A field of a partition that QOS_SET does not select stays as it is. -/
theorem keep_qosPart (r : Req) (p : Partition) : (qosPart r p).keep = if bit (r.f 1 1) 1 then r.f 3 1 else p.keep := by
  simp only [qosPart, apply_ite Partition.keep, ite_self]

/-- QOS_SET within its limits, once its part for a tenant is done. -/
theorem hQosSet_eq {s s' : State} {r : Req} {p : Partition} (hbad : qosBad s r = false)
    (hp : alFind s.sched.parts (r.f 0 1) = some p)
    (hstrict : strictFits { s with sched.parts := alPut s.sched.parts (r.f 0 1) (qosPart r p) } = true)
    (hvalid : partsValid { s with sched.parts := alPut s.sched.parts (r.f 0 1) (qosPart r p) } = true)
    (htenant : qosTenant { s with sched.parts := alPut s.sched.parts (r.f 0 1) (qosPart r p) } r = .ok s') :
    hQosSet s r = (.rep (okRep []), qosApplied s' r p) := by
  simp only [hQosSet, hbad, hp, hstrict, hvalid, htenant, Bool.not_true, Bool.false_eq_true, if_false]
  rfl

section
variable {s s1 : State} {f : Nat} {r : Req} {p : Partition} (hc : Carries s f 0x0204 r s1) (hbad : qosBad s r = false)
  (hp : alFind s.sched.parts (r.f 0 1) = some p)
  (hstrict : strictFits { s with sched.parts := alPut s.sched.parts (r.f 0 1) (qosPart r p) } = true)
  (hvalid : partsValid { s with sched.parts := alPut s.sched.parts (r.f 0 1) (qosPart r p) } = true)
include hc hbad hp hstrict hvalid

/-- QOS_SET changes the selected fields of a partition, and discards the credits above its BURST (R404). -/
theorem qosSet_completes (h4 : bit (r.f 1 1) 4 = false) (h5 : bit (r.f 1 1) 5 = false) :
    ∃ t, exec .qosSet s = .next t ∧ Replied s1 t f r (okRep []) ∧ t.mem.mem = s.mem.mem ∧ t.cores = s.cores ∧
      t.sched = { s.sched with parts := alPut s.sched.parts (r.f 0 1) (qosPart r p) } ∧
      (bit (r.f 1 1) 1 = true → (qosPart r p).keep = r.f 3 1) ∧ (bit (r.f 1 1) 1 = false → (qosPart r p).keep = p.keep) ∧
      ∀ h c g, alFind s.mem.ctls h = some c → alFind c.regs (r.f 0 1) = some g →
        creditOf (ctlOf t h) (r.f 0 1) false = min g.credit (qosPart r p).burst := by
  obtain ⟨m, rfl⟩ := hc.only_mgmt
  generalize hset : ({ s with mgmt := m, sched.parts := alPut s.sched.parts (r.f 0 1) (qosPart r p) } : State) = cut
  have hrun : hQosSet { s with mgmt := m } r = (.rep (okRep []), qosApplied cut r p) := by
    refine hQosSet_eq hbad hp hstrict hvalid ?_
    rw [← hset]
    exact if_pos (by simp [h4, h5])
  obtain ⟨hcells, hcores, hsched, hboxes, hcredit⟩ := qosApplied_spec cut r p
  subst cut
  obtain ⟨t, ht, hmailed, hrep⟩ := hc.completes_rep (by decide) hrun hboxes
  refine ⟨t, ht, hrep, (congrArg MemSys.mem hmailed.mem).trans hcells, hmailed.cores.trans hcores, hmailed.sched.trans hsched,
    fun h => by rw [keep_qosPart, if_pos h], fun h => by rw [keep_qosPart, h]; rfl, fun h c g hctl hg => ?_⟩
  rw [ctlOf, hmailed.mem]
  exact hcredit h c g hctl hg

end

/-! ### The tenant's part of QOS_SET -/

/-- The tenant with the selected limits. -/
def qosLimits (r : Req) (tn : Tenant) : Tenant :=
  let t := if bit (r.f 1 1) 4 then { tn with coresMax := r.f 16 2 } else tn
  if bit (r.f 1 1) 5 then { t with memQuota := r.f 24 8 } else t

theorem qosLimits_fields (r : Req) (tn : Tenant) :
    (qosLimits r tn).coresMax = (if bit (r.f 1 1) 4 = true then r.f 16 2 else tn.coresMax) ∧
      (qosLimits r tn).memQuota = (if bit (r.f 1 1) 5 = true then r.f 24 8 else tn.memQuota) ∧ (qosLimits r tn).part = tn.part := by
  simp only [qosLimits, apply_ite Tenant.coresMax, apply_ite Tenant.memQuota, apply_ite Tenant.part, ite_self, and_true]

theorem qosTenant_eq {s : State} {r : Req} {tn : Tenant} (hsel : bit (r.f 1 1) 4 = true ∨ bit (r.f 1 1) 5 = true)
    (htn : alFind s.sched.tenants r.actor = some tn) (hpart : tn.part = r.f 0 1) :
    qosTenant s r = .ok (checkQuota { s with sched.tenants := alPut s.sched.tenants r.actor (qosLimits r tn) } r.actor) := by
  have hselected : (!(bit (r.f 1 1) 4 || bit (r.f 1 1) 5)) = false := by
    rcases hsel with h | h <;> simp [h]
  have hmine : (tn.part != r.f 0 1) = false := by simp [hpart]
  simp only [qosTenant, hselected, htn, hmine, Bool.false_eq_true, if_false]
  rfl

/-- QOS_SET changes the selected limits of a tenant of the partition (R404). -/
theorem qosSet_completes_tenant {s s1 : State} {f : Nat} {r : Req} {p : Partition} {tn : Tenant} (hc : Carries s f 0x0204 r s1)
    (hbad : qosBad s r = false) (hp : alFind s.sched.parts (r.f 0 1) = some p)
    (hsel : bit (r.f 1 1) 4 = true ∨ bit (r.f 1 1) 5 = true)
    (hstrict : strictFits { s with sched.parts := alPut s.sched.parts (r.f 0 1) (qosPart r p) } = true)
    (hvalid : partsValid { s with sched.parts := alPut s.sched.parts (r.f 0 1) (qosPart r p) } = true)
    (htn : alFind s.sched.tenants r.actor = some tn) (hpart : tn.part = r.f 0 1) :
    ∃ t tn', exec .qosSet s = .next t ∧ Replied s1 t f r (okRep []) ∧ t.mem.mem = s.mem.mem ∧ t.cores = s.cores ∧
      t.sched.parts = alPut s.sched.parts (r.f 0 1) (qosPart r p) ∧ alFind t.sched.tenants r.actor = some tn' ∧
      tn'.coresMax = (if bit (r.f 1 1) 4 = true then r.f 16 2 else tn.coresMax) ∧
      tn'.memQuota = (if bit (r.f 1 1) 5 = true then r.f 24 8 else tn.memQuota) ∧ tn'.part = tn.part := by
  obtain ⟨m, rfl⟩ := hc.only_mgmt
  generalize hcut : ({ s with
    mgmt := m, sched.parts := alPut s.sched.parts (r.f 0 1) (qosPart r p)
    sched.tenants := alPut s.sched.tenants r.actor (qosLimits r tn) } : State) = cut
  have hrun : hQosSet { s with mgmt := m } r = (.rep (okRep []), qosApplied (checkQuota cut r.actor) r p) := by
    refine hQosSet_eq hbad hp hstrict hvalid ?_
    rw [← hcut]
    exact qosTenant_eq hsel htn hpart
  obtain ⟨hcells, hcores, hsched, hboxes, -⟩ := qosApplied_spec (checkQuota cut r.actor) r p
  obtain ⟨⟨_, _, _, hmarks⟩, ⟨b, hentry⟩, -, -⟩ :=
    quotaChecked_checkQuota (s := cut) (tenant := r.actor) (tn := qosLimits r tn) (by rw [← hcut]; exact alFind_alPut_self _ _ _)
  obtain ⟨hmax, hquota, hkept⟩ := qosLimits_fields r tn
  obtain ⟨t, ht, hmailed, hrep⟩ := hc.completes_rep (by decide) hrun (by rw [hboxes, hmarks, ← hcut])
  refine ⟨t, { qosLimits r tn with overQuota := b }, ht, hrep, ?_, ?_, ?_, by rw [hmailed.sched, hsched, hentry], hmax, hquota, hkept⟩
  · rw [hmailed.mem, hcells, hmarks, ← hcut]
  · rw [hmailed.cores, hcores, hmarks, ← hcut]
  · rw [hmailed.sched, hsched, hmarks, ← hcut]

end Sys2Proof.Machine
end

section
/-! PARTITION_CREATE and PARTITION_DESTROY (R382, R383, R456, R459, R578). -/

namespace Sys2Proof.Machine

/-! ### Sets that are regrouped (R578) -/

/-- A core without what it executes. -/
def Core.idle (x : Core) : Core := { x with exec := {} }

/-- `t` comes from `s` by changes of interleave sets: the rest of the part stays, and every core but for what it executes. -/
structure Regroups (s t : State) : Prop where
  rest : t.uncached = s.uncached
  idle : ∀ c, (alFind t.cores c).map Core.idle = (alFind s.cores c).map Core.idle

namespace Regroups

/-- A change that leaves cores. -/
theorem of_cores {s t : State} (h : t.uncached = s.uncached) (hc : t.cores = s.cores) : Regroups s t :=
  ⟨h, fun _ => by rw [hc]⟩

theorem refl (s : State) : Regroups s s := .of_cores rfl rfl

theorem trans {s t u : State} (h : Regroups s t) (h' : Regroups t u) : Regroups s u :=
  ⟨h'.rest.trans h.rest, fun c => (h'.idle c).trans (h.idle c)⟩

theorem foldl {α : Type} {f : State → α → State} (hf : ∀ s a, Regroups s (f s a)) (l : List α) (s : State) :
    Regroups s (l.foldl f s) := foldl_related refl trans hf l s

section
variable {s t : State} (h : Regroups s t)
include h

theorem fe : t.fe = s.fe := (congrArg State.fe h.rest :)
theorem sched : t.sched = s.sched := (congrArg State.sched h.rest :)
theorem pools : t.pools = s.pools := (congrArg State.pools h.rest :)
theorem mboxes : t.mgmt.mboxes = s.mgmt.mboxes := (congrArg (fun x : State => x.mgmt.mboxes) h.rest :)

end
end Regroups

theorem Accesses.regroups {s t : State} (h : Accesses s t) : Regroups s t := .of_cores h.places.rest h.cores

/-- A change of what cores execute. -/
theorem regroups_mapCores {s : State} {g : Core → Core} (hg : ∀ x, (g x).idle = x.idle) :
    Regroups s { s with cores := alMap s.cores (fun _ x => g x) } := by
  refine ⟨rfl, fun c => ?_⟩
  rw [alFind_alMap, Option.map_map]
  exact congrArg (fun f => (alFind s.cores c).map f) (funext hg)

theorem regroups_clearRange (s : State) (base n : Nat) : Regroups s (clearRange s base n) := by
  simp only [clearRange]
  refine .trans ?_ (regroups_mapCores (fun _ => rfl))
  exact .foldl (fun _ _ => (Accesses.trans (accesses_modRegion rfl) (accesses_freeSides _ _ _)).regroups) _ s

theorem regroups_zeroRange (s : State) (base n : Nat) : Regroups s (zeroRange s base n) :=
  (regroups_clearRange s base n).trans (.of_cores rfl rfl)

theorem accesses_cleanRange (s : State) (base n tenant : Nat) : Accesses s (cleanRange s base n tenant) :=
  .foldl (fun _ _ => (Accesses.foldl (fun _ _ => accesses_evict _ _ _ _ _ _) _ _).trans (accesses_freeSides _ _ _)) _ s

theorem regroups_sets (s : State) (sets : List ISet) : Regroups s { s with mem.sets := sets } := .of_cores rfl rfl

theorem regroups_removeSet (s : State) (x : ISet) : Regroups s (removeSet s x) :=
  .trans ((accesses_cleanRange s x.base x.size pf).regroups.trans (regroups_zeroRange _ _ _)) (regroups_sets _ _)

theorem regroups_dedicateSets {s s0 : State} {p : Nat} {gs : List Nat} (h : dedicateSets s p gs = some s0) : Regroups s s0 := by
  simp only [dedicateSets] at h
  split at h
  · cases h
  · cases h
    exact .trans (.foldl regroups_removeSet _ s) (regroups_sets _ _)

theorem regroups_releaseSets (s : State) (p : Nat) : Regroups s (releaseSets s p) := by
  simp only [releaseSets]
  split
  · exact .refl s
  · exact .trans (.foldl regroups_removeSet _ s) (regroups_sets _ _)

/-! ### Power of a partition's cores (R456, R459) -/

/-- A core in its reset state, powered on or off. -/
def Core.reset (x : Core) (power : BlockPower) : Core :=
  { x with exec := {}, power := power, owner := none, hold := .free, draining := false, resetNode := none, halted := false, wakeAt := 0 }

/-- The reset state of a core does not tell what the core executed. -/
theorem reset_of_idle {x y : Core} (h : x.idle = y.idle) (power : BlockPower) : x.reset power = y.reset power :=
  (congrArg (fun z : Core => z.reset power) h :)

/-- A listed core whose power follows a change of what it executes is in its reset state then. -/
theorem coreOf_of_idle {s t u : State} {c : Nat} {x : Core} {power : BlockPower}
    (h : (alFind t.cores c).map Core.idle = (alFind s.cores c).map Core.idle) (hx : alFind s.cores c = some x)
    (hu : ∀ y, y.idle = x.idle → alFind t.cores c = some y → coreOf u c = y.reset power) : coreOf u c = x.reset power := by
  rw [hx] at h
  obtain ⟨y, hy, hxy⟩ := Option.map_eq_some_iff.mp h
  rw [hu y hxy hy, reset_of_idle hxy]

theorem coreOf_powerOn {s : State} {gs : List Nat} {c : Nat} {x : Core} (hx : alFind s.cores c = some x) (hp : x.present = true)
    (hg : coreGranule c ∈ gs) : coreOf (powerOn s gs) c = x.reset .active := by
  have hmine : (gs.contains (coreGranule c) && x.present) = true := by simp [hg, hp]
  simp only [coreOf, alGet, powerOn, alFind_alMap, hx, Option.map_some, hmine]
  rfl

theorem coreOf_powerOff {s : State} {gs : List Nat} {c : Nat} {x : Core} (hx : alFind s.cores c = some x)
    (hg : coreGranule c ∈ gs) : coreOf (powerOff s gs) c = x.reset .off := by
  simp only [coreOf, alGet, powerOff, alFind_alMap, hx, List.contains_iff_mem.mpr hg]
  rfl

/-- A present core is listed. -/
theorem alFind_of_present {s : State} {c : Nat} (h : (coreOf s c).present = true) : alFind s.cores c = some (coreOf s c) := by
  simp only [coreOf, alGet] at h ⊢
  cases hfind : alFind s.cores c with
  | none => simp [hfind] at h
  | some x => rfl

/-! ### PARTITION_CREATE (R382) -/

/-- The state against which PARTITION_CREATE holds its limits. -/
def partAdded (s : State) (r : Req) : State :=
  { s with sched.parts := alPut s.sched.parts (r.f 0 1) (newPart r (setBits 64 (r.f 16 8))) }

/-- The new partition once its ways are its own and its blocks are powered on. -/
def partStarted (s : State) (r : Req) : State :=
  powerOn (changeWays (partAdded s r) (r.f 0 1) (ownWays (newPart r (setBits 64 (r.f 16 8))))) (setBits 64 (r.f 16 8))

/-- A mask of WAYS that the message gives is not empty. -/
theorem newPart_ways {r : Req} {gs : List Nat} (h : r.f 2 1 = 1 → r.f 4 2 % 65536 ≠ 0) :
    ((newPart r gs).ways && decide ((newPart r gs).mask = 0)) = false := by
  simp only [newPart, Bool.and_eq_false_iff, decide_eq_false_iff_not]
  by_cases hways : r.f 2 1 = 1
  · refine .inr (decide_eq_false fun hmask => h hways ?_)
    simpa using congrArg BitVec.toNat hmask
  · exact .inl hways

/-- A field of PARTITION_CREATE is out of range. -/
def createBad (s : State) (r : Req) : Bool :=
  let gs := setBits 64 (r.f 16 8)
  let p := newPart r gs
  partBad s r || 1 < r.f 1 1 || 1 < r.f 2 1 || gs.isEmpty || gs.any (fun g => decide (Config.partitions s.variant ≤ g)) ||
    (p.ways && p.mask = 0) || rateBad p.rate p.burst || rateBad p.rtRate p.rtBurst || (p.dedicated && !mayDedicate s gs)

/-- Every field of PARTITION_CREATE is within its range (Table 13.1). -/
structure Creatable (s : State) (r : Req) : Prop where
  part : partBad s r = false
  dedicated : r.f 1 1 ≤ 1
  ways : r.f 2 1 ≤ 1
  some : setBits 64 (r.f 16 8) ≠ []
  granules : ∀ g ∈ setBits 64 (r.f 16 8), g < Config.partitions s.variant
  mask : r.f 2 1 = 1 → r.f 4 2 % 65536 ≠ 0
  rate : rateBad (r.f 8 2) (r.f 10 2) = false
  rtRate : rateBad (r.f 12 2) (r.f 14 2) = false
  whole : r.f 1 1 = 1 → mayDedicate s (setBits 64 (r.f 16 8)) = true

theorem Creatable.createBad {s : State} {r : Req} (h : Creatable s r) : createBad s r = false := by
  have hgrans : (setBits 64 (r.f 16 8)).any (fun g => decide (Config.partitions s.variant ≤ g)) = false := by
    simpa using h.granules
  have hwhole : ((newPart r (setBits 64 (r.f 16 8))).dedicated && !mayDedicate s (setBits 64 (r.f 16 8))) = false := by
    by_cases hded : r.f 1 1 = 1
    · simp [h.whole hded]
    · simp [newPart, hded]
  have hrate : rateBad (newPart r (setBits 64 (r.f 16 8))).rate (newPart r (setBits 64 (r.f 16 8))).burst = false := h.rate
  have hrt : rateBad (newPart r (setBits 64 (r.f 16 8))).rtRate (newPart r (setBits 64 (r.f 16 8))).rtBurst = false := h.rtRate
  simp only [Machine.createBad, h.part, decide_eq_false (Nat.not_lt.mpr h.dedicated), decide_eq_false (Nat.not_lt.mpr h.ways),
    List.isEmpty_eq_false_iff.mpr h.some, hgrans, newPart_ways h.mask, hrate, hrt, hwhole, Bool.or_self]

/-- PARTITION_CREATE within its limits, once a dedicated partition's sets stand. -/
theorem hPartitionCreate_eq {s s0 : State} {r : Req} (hmsg : createBad s r = false)
    (hfree : alFind s.sched.parts (r.f 0 1) = none)
    (hapart : ∀ e ∈ s.sched.parts, ∀ g ∈ e.2.granules, g ∉ setBits 64 (r.f 16 8))
    (hsets : (if (newPart r (setBits 64 (r.f 16 8))).dedicated then dedicateSets s (r.f 0 1) (setBits 64 (r.f 16 8)) else some s) =
      some s0)
    (hstrict : strictFits (partAdded s0 r) = true) (hvalid : partsValid (partAdded s0 r) = true) :
    hPartitionCreate s r = (.rep (okRep []), partStarted s0 r) := by
  have htaken : ((alFind s.sched.parts (r.f 0 1)).isSome ||
      s.sched.parts.any (fun e => e.2.granules.any (setBits 64 (r.f 16 8)).contains)) = false := by
    rw [hfree, Option.isSome_none, Bool.false_or, List.any_eq_false]
    intro e he hany
    obtain ⟨g, hg, hin⟩ := List.any_eq_true.mp hany
    exact hapart e he g hg (List.contains_iff_mem.mp hin)
  have hfits : (!strictFits (partAdded s0 r)) = false := by simp [hstrict]
  have hlimits : (!partsValid (partAdded s0 r)) = false := by simp [hvalid]
  refine (if_neg ((Bool.eq_false_iff.mp hmsg))).trans ((if_neg (Bool.eq_false_iff.mp htaken)).trans ?_)
  simp only [hsets]
  exact (if_neg (Bool.eq_false_iff.mp hfits)).trans (if_neg (Bool.eq_false_iff.mp hlimits))

/-- What the new partition's start leaves, and its cores. -/
theorem partStarted_spec (s : State) (r : Req) :
    (partStarted s r).sched = (partAdded s r).sched ∧ (partStarted s r).fe = s.fe ∧ (partStarted s r).mem.sets = s.mem.sets ∧
      (partStarted s r).mem.mem = s.mem.mem ∧ (partStarted s r).mgmt.mboxes = s.mgmt.mboxes ∧
      ∀ c x, alFind s.cores c = some x → x.present = true → coreGranule c ∈ setBits 64 (r.f 16 8) →
        coreOf (partStarted s r) c = x.reset .active := by
  have hways := accesses_changeWays (partAdded s r) (r.f 0 1) (ownWays (newPart r (setBits 64 (r.f 16 8))))
  refine ⟨(congrArg State.sched hways.apart :), hways.fe, hways.sets, hways.cells, hways.mboxes, fun c x hx hp hg => ?_⟩
  exact coreOf_powerOn (by rw [hways.cores]; exact hx) hp hg

/-- PARTITION_CREATE makes a partition and powers on its cores, in their reset state (R382, R456). -/
theorem partitionCreate_completes {s s1 s0 : State} {f : Nat} {r : Req} (hc : Carries s f 0x0200 r s1) (hmsg : Creatable s r)
    (hfree : alFind s.sched.parts (r.f 0 1) = none)
    (hapart : ∀ e ∈ s.sched.parts, ∀ g ∈ e.2.granules, g ∉ setBits 64 (r.f 16 8))
    (hded : r.f 1 1 = 1 → dedicateSets s1 (r.f 0 1) (setBits 64 (r.f 16 8)) = some s0) (hshared : r.f 1 1 = 0 → s0 = s1)
    (hstrict : strictFits (partAdded s0 r) = true) (hvalid : partsValid (partAdded s0 r) = true) :
    ∃ t, exec .partitionCreate s = .next t ∧ Replied s1 t f r (okRep []) ∧ t.sched = (partAdded s0 r).sched ∧ t.fe = s.fe ∧
      t.mem.sets = s0.mem.sets ∧ t.mem.mem = s0.mem.mem ∧
      ∀ c, (coreOf s c).present = true → coreGranule c ∈ setBits 64 (r.f 16 8) → coreOf t c = (coreOf s c).reset .active := by
  obtain ⟨m, rfl⟩ := hc.only_mgmt
  have hmode : r.f 1 1 = 1 ∨ r.f 1 1 = 0 := by have := hmsg.dedicated; omega
  have hsets : (if (newPart r (setBits 64 (r.f 16 8))).dedicated then
      dedicateSets { s with mgmt := m } (r.f 0 1) (setBits 64 (r.f 16 8)) else some { s with mgmt := m }) = some s0 := by
    rcases hmode with h | h
    · simp only [newPart, h, decide_true, if_true, hded h]
    · simp [newPart, h, hshared h]
  have hgroups : Regroups { s with mgmt := m } s0 := by
    rcases hmode with h | h
    · exact regroups_dedicateSets (hded h)
    · rw [hshared h]
      exact .refl _
  have hrun := hPartitionCreate_eq (s := { s with mgmt := m }) (show createBad { s with mgmt := m } r = false from hmsg.createBad)
    hfree hapart hsets hstrict hvalid
  obtain ⟨hsched, hfe, hmsets, hcells, hboxes, hcores⟩ := partStarted_spec s0 r
  obtain ⟨t, ht, hmailed, hrep⟩ := hc.completes_rep (by decide) hrun (hboxes.trans hgroups.mboxes)
  refine ⟨t, ht, hrep, hmailed.sched.trans hsched, hmailed.fe.trans (hfe.trans hgroups.fe),
    (congrArg MemSys.sets hmailed.mem).trans hmsets, (congrArg MemSys.mem hmailed.mem).trans hcells, fun c hp hg => ?_⟩
  refine coreOf_of_idle (hgroups.idle c) (alFind_of_present hp) fun y hy hfind => ?_
  rw [coreOf, hmailed.cores]
  exact hcores c y hfind ((congrArg Core.present hy).trans hp) hg

/-! ### PARTITION_DESTROY (R383, R459) -/

/-- A partition with its ways, stash and side-buffer entries given up. -/
def partEmptied (s : State) (part : Nat) (p : Partition) : State :=
  freeSide (freeStash (changeWays s part (ownWays p)) part) part

/-- The partition is struck from the controllers, the pools and the list. -/
def partStruck (s : State) (part : Nat) : State :=
  { s with mem.ctls := alMap s.mem.ctls (fun _ c => { c with regs := alDel c.regs part })
           pools := alDel s.pools part, sched.parts := alDel s.sched.parts part }

theorem destroyPart_eq {s : State} {part : Nat} {p : Partition} (hp : alFind s.sched.parts part = some p) :
    destroyPart s part = powerOff (releaseSets (partStruck (partEmptied s part p) part) part) p.granules := by
  simp only [destroyPart, hp]
  rfl

theorem regroups_partEmptied (s : State) (part : Nat) (p : Partition) : Regroups s (partEmptied s part p) := by
  have hstash (s : State) : Regroups s (freeStash s part) := .of_cores rfl rfl
  have hside (s : State) : Accesses s (freeSide s part) := .foldl (fun _ _ => accesses_freeSides _ _ _) _ s
  exact ((accesses_changeWays s part (ownWays p)).regroups.trans (hstash _)).trans (hside _).regroups

/-- Power and what it clears are the blocks' own. -/
theorem powerOff_keeps (s : State) (gs : List Nat) : (powerOff s gs).fe = s.fe ∧ (powerOff s gs).sched = s.sched ∧
    (powerOff s gs).pools = s.pools ∧ (powerOff s gs).mgmt = s.mgmt := ⟨rfl, rfl, rfl, rfl⟩

/-- What the end of a partition leaves, and its cores. -/
theorem destroyPart_spec {s : State} {part : Nat} {p : Partition} (hp : alFind s.sched.parts part = some p) :
    (destroyPart s part).fe = s.fe ∧ (destroyPart s part).sched.parts = alDel s.sched.parts part ∧
      (destroyPart s part).pools = alDel s.pools part ∧ (destroyPart s part).mgmt.mboxes = s.mgmt.mboxes ∧
      ∀ c x, alFind s.cores c = some x → coreGranule c ∈ p.granules → coreOf (destroyPart s part) c = x.reset .off := by
  rw [destroyPart_eq hp]
  have hempty := regroups_partEmptied s part p
  generalize partEmptied s part p = s1 at hempty ⊢
  have hsets := regroups_releaseSets (partStruck s1 part) part
  generalize releaseSets (partStruck s1 part) part = s2 at hsets ⊢
  obtain ⟨hfe, hsched, hpools, hmgmt⟩ := powerOff_keeps s2 p.granules
  refine ⟨?_, ?_, ?_, ?_, fun c x hx hg => ?_⟩
  · rw [hfe, hsets.fe, partStruck, hempty.fe]
  · rw [hsched, hsets.sched, partStruck, hempty.sched]
  · rw [hpools, hsets.pools, partStruck, hempty.pools]
  · rw [hmgmt, hsets.mboxes, partStruck, hempty.mboxes]
  · exact coreOf_of_idle ((hsets.idle c).trans (hempty.idle c)) hx fun y _ hy => coreOf_powerOff hy hg

/-- PARTITION_DESTROY removes a partition without tenants and powers off its cores (R383, R459). -/
theorem partitionDestroy_completes {s s1 : State} {f : Nat} {r : Req} {p : Partition} (hc : Carries s f 0x0201 r s1)
    (hbad : partBad s r = false) (hp : alFind s.sched.parts (r.f 0 1) = some p)
    (hunbound : ∀ e ∈ s.sched.tenants, e.2.part ≠ r.f 0 1)
    (hdrained : ∀ c ∈ partCores s (r.f 0 1), (coreOf s c).draining = false ∧ (execOf s c).wb = []) :
    ∃ t, exec .partitionDestroy s = .next t ∧ Replied s1 t f r (okRep []) ∧ t.fe = s.fe ∧
      t.sched.parts = alDel s.sched.parts (r.f 0 1) ∧ t.pools = alDel s.pools (r.f 0 1) ∧
      ∀ c, coreGranule c ∈ p.granules → (alFind s.cores c).isSome → coreOf t c = (coreOf s c).reset .off := by
  obtain ⟨m, rfl⟩ := hc.only_mgmt
  have hrun : hPartitionDestroy { s with mgmt := m } r = (.rep (okRep []), destroyPart { s with mgmt := m } (r.f 0 1)) := by
    have htenants : s.sched.tenants.any (fun e => e.2.part == r.f 0 1) = false :=
      List.any_eq_false.mpr fun e he => by simpa only [beq_iff_eq] using hunbound e he
    have hcores : (partCores s (r.f 0 1)).any (fun c => (coreOf s c).draining || !(execOf s c).wb.isEmpty) = false := by
      rw [List.any_eq_false]
      intro c hmem
      obtain ⟨hdrain, hwb⟩ := hdrained c hmem
      simp [hdrain, hwb]
    refine (if_neg (Bool.eq_false_iff.mp hbad)).trans ((if_neg (by rw [hp]; exact nofun)).trans ?_)
    exact (if_neg (Bool.eq_false_iff.mp htenants)).trans (if_neg (Bool.eq_false_iff.mp hcores))
  obtain ⟨hfe, hparts, hpools, hboxes, hcores⟩ := destroyPart_spec (s := { s with mgmt := m }) hp
  obtain ⟨t, ht, hmailed, hrep⟩ := hc.completes_rep (by decide) hrun hboxes
  refine ⟨t, ht, hrep, hmailed.fe.trans hfe, (congrArg Sched.parts hmailed.sched).trans hparts, hmailed.pools.trans hpools,
    fun c hg hsome => ?_⟩
  obtain ⟨x, hx⟩ := Option.isSome_iff_exists.mp hsome
  rw [coreOf, hmailed.cores, show coreOf s c = x by simp [coreOf, alGet, hx]]
  exact hcores c x hx hg

/-- Settles O54, message by message: the effect of each is a theorem of its own above. -/
theorem partitionMessagesTakeEffect : Obligations.PartitionMessagesTakeEffect := by
  unfold Obligations.PartitionMessagesTakeEffect
  refine ⟨?_, fun f r s s1 p hc hbad hp htenants hdrained => partitionDestroy_completes hc hbad hp htenants hdrained,
    fun f r s s1 p hc hbad hactor hp hcores hfree hstrict hfit => tenantBind_completes hc hbad hactor hp hcores hfree hstrict hfit,
    fun f r s s1 tn hc hactor htn hidle hscope => tenantUnbind_completes hc hactor htn hidle hscope,
    fun f r s s1 p hc hbad hp h4 h5 hstrict hvalid => qosSet_completes hc hbad hp hstrict hvalid h4 h5,
    fun f r s s1 p tn hc hbad hp hsel hstrict hvalid htn hpart =>
      qosSet_completes_tenant hc hbad hp hsel hstrict hvalid htn hpart,
    fun f r s s1 hc hn hr => rtReserveSet_completes hc hn hr,
    fun f r s s1 hc hg hactor => ⟨flagGrant_grants hc hg hactor, flagGrant_revokes hc hg hactor⟩,
    fun f r s s1 hc hlo hhi => memScrubConfig_completes hc hlo hhi,
    fun f r s s1 p hc hbad hp hvalid => setStashReserve_completes hc hbad hp hvalid,
    fun f r s s1 hc hmode hnone => isolationSet_completes hc hmode hnone⟩
  intro f r s s1 s0 hc hbad hded hways hsome hgrans hmask hrate hrt hfree hapart hwhole hshared s' hstrict hvalid
  exact partitionCreate_completes hc ⟨hbad, hded, hways, hsome, hgrans, hmask, hrate, hrt, fun h => (hwhole h).1⟩ hfree hapart
    (fun h => (hwhole h).2) hshared hstrict hvalid

end Sys2Proof.Machine
end

section
/-! Instructions that write a destination and move their path on: the frame of the lane instructions (R163, R167, R191), and the
collectives of a group (R173, R174). -/

namespace Sys2Proof.Machine

/-! ### The frame -/

/-- A write to a destination uses free values alone. -/
theorem usedFree_eq (s : State) (d : Opd) : ∃ n, usedFree s d = { s with freeCtr := n } := by
  cases d with
  | u _ => exact ⟨_, rfl⟩
  | _ => exact ⟨s.freeCtr, rfl⟩

/-- An instruction that writes a destination and moves its path on changes its group alone. -/
theorem advance_usedFree_only_group {s : State} {i : Iss} {c : Ctx} (hi : issue s i = some c) (d : Opd) (g : Group) :
    OnlyCores s (advance (usedFree (issued s i c) d) c g) ∧
      OnlyGroup s (advance (usedFree (issued s i c) d) c g) i.core i.slot := by
  obtain ⟨n, hn⟩ := usedFree_eq (issued s i c) d
  rw [hn]
  exact advance_only_group hi n g

/-- An instruction that raises a fault in the state of its issue ends its block with it. -/
theorem faults_at_issue {s : State} {i : Iss} {c : Ctx} {ins : Instr} {f : DevFault} (hi : issue s i = some c)
    (he : exec ins s = completes s (raiseFault (issued s i c) c f)) : ∃ t, exec ins s = .next t ∧ Faulted c s t f := by
  obtain ⟨t, ht, hfault, -⟩ := completes_raiseFault hi (.refl _) f
  exact ⟨t, he.trans ht, hfault⟩

/-- What a path that moves on after lane values were written to a destination leaves of its group's other registers. -/
theorem advance_writeD_registers (s s0 : State) {c : Ctx} (d : Opd) (f : Nat → Word) (hact : ∀ l ∈ c.act, l < 32) :
    let t := advance s c (writeD s0 c.g d (c.act.map (fun l => (l, f l))))
    (∀ n l, l < 32 → (d ≠ .v n ∨ l ∉ c.act) → vReg (c.seen t) n l = vReg c n l) ∧
      (∀ n l, l < 32 → (d ≠ .p n ∨ l ∉ c.act) → predOf (c.seen t).g n l = predOf c.g n l) ∧
      ∀ n, d ≠ .u n → uReg (c.seen t) n = uReg c n := by
  refine ⟨fun n l hl h => ?_, fun n l hl h => ?_, fun n h => ?_⟩
  · simp only [vReg, seen_advance, movePath_birth, movePath_regs, writeD_birth]
    exact writeD_regs_other _ _ _ _ _ _ _ _ hl hact h
  · simp only [predOf, seen_advance, movePath_birth, movePath_preds, writeD_birth]
    exact writeD_preds_other _ _ _ _ _ _ _ _ hl hact h
  · simp only [uReg, seen_advance, movePath_birth, movePath_uregs, writeD_birth]
    exact writeD_uregs_other _ _ _ _ _ _ h

/-- What it leaves of the rest of its group. -/
theorem advance_writeD_group (s s0 : State) (c : Ctx) (d : Opd) (vals : List (Nat × Word)) :
    let g := (c.seen (advance s c (writeD s0 c.g d vals))).g
    g.handles = c.g.handles ∧ g.loops = c.g.loops ∧ g.calls = c.g.calls ∧ g.srCount = c.g.srCount ∧ g.stop = c.g.stop := by
  simp

/-- Settles O8: a lane instruction writes its destination and moves its path on (`exec_laneSem`), which changes its group alone
(`advance_usedFree_only_group`), and of its group the destination and the paths (`advance_writeD_registers`). -/
theorem laneInstructionsLeaveEverythingElse : Obligations.LaneInstructionsLeaveEverythingElse := by
  intro ins m s t c hm h ht
  rw [exec_laneSem hm, lane3, issueWith_issues h] at ht
  cases ht
  obtain ⟨hcores, hgroup⟩ := advance_usedFree_only_group h.1 m.d (writeD (issued s m.i c) c.g m.d
    (c.act.map (fun l => (l, m.f (opdLane c m.a l) (opdLane c m.b l) (opdLane c m.c l)))))
  obtain ⟨hv, hp, hu⟩ := advance_writeD_registers (usedFree (issued s m.i c) m.d) (issued s m.i c) m.d _ (act_lt h.1)
  exact ⟨hcores.completes, hgroup, hv, hp, hu, advance_writeD_group ..⟩

/-! ### Reductions (R174) -/

/-- With a neutral first value, a reduction of the present lanes' values is a fold from it. -/
theorem reduceLanes_eq_foldl {f : Word → Word → Word} {neutral : Word} (h : ∀ x, f neutral x = x) (xs : List Word) :
    reduceLanes f neutral xs = xs.foldl f neutral := by
  cases xs with
  | nil => rfl
  | cons x r => rw [List.foldl_cons, h, reduceLanes]

/-- The neutral elements of MIN and MAX change no integer (R174). -/
theorem neutral_s32_min (x : Word) : (if (pickNeutral .s32 false).toInt < x.toInt then pickNeutral .s32 false else x) = x := by
  refine if_neg ?_
  have := BitVec.toInt_lt (x := x)
  simp only [pickNeutral, BitVec.reduceToInt]
  omega

theorem neutral_u32_min (x : Word) : (if (pickNeutral .u32 false).toNat < x.toNat then pickNeutral .u32 false else x) = x := by
  refine if_neg ?_
  have := x.isLt
  simp only [pickNeutral, BitVec.reduceToNat]
  omega

theorem neutral_s32_max (x : Word) : (if (pickNeutral .s32 true).toInt < x.toInt then x else pickNeutral .s32 true) = x := by
  have := BitVec.le_toInt (x := x)
  refine ite_eq_left_iff.mpr fun h => BitVec.eq_of_toInt_eq ?_
  simp only [pickNeutral, BitVec.reduceToInt] at h ⊢
  omega

theorem neutral_u32_max (x : Word) : (if (pickNeutral .u32 true).toNat < x.toNat then x else pickNeutral .u32 true) = x := by
  refine ite_eq_left_iff.mpr fun h => BitVec.eq_of_toNat_eq ?_
  simp only [pickNeutral, BitVec.reduceToNat] at h ⊢
  omega

/-- The minimum or maximum of integers has no NaN to make canonical. -/
theorem redPick_of_ne_f32 {ty : LaneTy} (hty : ty ≠ .f32) (big : Bool) {f : Word → Word → Word}
    (hf : ∀ x y, pickLane ty big x y = f x y) (hneutral : ∀ x, f (pickNeutral ty big) x = x) (xs : List Word) :
    redPick ty big xs = xs.foldl f (pickNeutral ty big) := by
  have hcanon : canonLane ty = id := funext fun x => if_neg fun h => hty h.1
  rw [redPick, hcanon, List.map_id, show pickLane ty big = f from funext fun x => funext (hf x), reduceLanes_eq_foldl hneutral]

theorem redAdd_of_ne_f32 {ty : LaneTy} (hty : ty ≠ .f32) (xs : List Word) :
    redAdd ty xs = xs.foldl (fun x y => x + y) 0 := by
  cases ty with
  | f32 => exact absurd rfl hty
  | s32 | u32 => exact reduceLanes_eq_foldl BitVec.zero_add xs

theorem redAdd_f32 (xs : List Word) : redAdd .f32 xs =
    if xs.any isNan32 then 0x7FC00000
    else match xs with
      | [] => 0
      | [x] => x
      | [x, y] => addLane .f32 .rne x y
      | _ => canonLane .f32 (Config.gredSum xs) := by
  match xs with
  | [] | [_] | [_, _] => rfl
  | x :: y :: z :: r =>
    have hlen : ¬ (x :: y :: z :: r).length ≤ 2 := by simp
    simp only [redAdd, if_neg hlen]
    rfl

/-- A reduction by another name. -/
theorem completes_gred {red red' : List Word → Word} (h : ∀ xs, red xs = red' xs) (s : State) (i : Iss) (scan part : Bool)
    (d a : Opd) : completes s (gred s i scan part d a red) = completes s (gred s i scan part d a red') := by
  rw [show red = red' from funext h]

/-- A reduction instruction runs the reduction of its meaning. -/
theorem exec_gredSem {ins : Instr} {m : GredSem} (h : gredSem ins = some m) (s : State) :
    exec ins s = completes s (gred s m.i m.scan m.part m.d m.a m.red) := by
  cases ins with
  | gredAdd i ty =>
    cases ty with
    | f32 => cases h; exact completes_gred redAdd_f32 ..
    | s32 => cases h; exact completes_gred (redAdd_of_ne_f32 (ty := .s32) nofun) ..
    | u32 => cases h; exact completes_gred (redAdd_of_ne_f32 (ty := .u32) nofun) ..
  | gredOr => cases h; exact completes_gred (reduceLanes_eq_foldl fun _ => BitVec.zero_or) ..
  | gredXor => cases h; exact completes_gred (reduceLanes_eq_foldl fun _ => BitVec.zero_xor) ..
  | gredAnd => cases h; exact completes_gred (reduceLanes_eq_foldl fun _ => BitVec.allOnes_and) ..
  | gredMin i ty =>
    cases ty with
    | f32 => cases h; rfl
    | s32 =>
      cases h
      exact completes_gred (redPick_of_ne_f32 (ty := .s32) nofun false (pickLane_min (ty := .s32) nofun) neutral_s32_min) ..
    | u32 => cases h; exact completes_gred (redPick_of_ne_f32 (ty := .u32) nofun false pickLane_u32_min neutral_u32_min) ..
  | gredMax i ty =>
    cases ty with
    | f32 => cases h; rfl
    | s32 =>
      cases h
      exact completes_gred (redPick_of_ne_f32 (ty := .s32) nofun true (pickLane_max (ty := .s32) nofun) neutral_s32_max) ..
    | u32 => cases h; exact completes_gred (redPick_of_ne_f32 (ty := .u32) nofun true pickLane_u32_max neutral_u32_max) ..
  | _ => cases h

/-! ### Completion and divergence (R173) -/

section
variable {s : State} {i : Iss} {c : Ctx} {d : Opd}

/-- A collective's lanes are all there, or it is .PARTIAL. -/
theorem collective_of_present {part : Bool} (h : part = true ∨ laneMask c.act = c.g.launch) (s k : State) :
    collective s c part k = k := if_pos (by simpa using h)

theorem collective_of_divergent (h : laneMask c.act ≠ c.g.launch) (s k : State) :
    collective s c false k = raiseFault s c .divergentCollective := if_neg (by simpa using h)

/-- The values that a collective gives its lanes are written, and its path moves on. -/
theorem collective_completes (hi : issue s i = some c) (d : Opd) (f : Nat → Word) :
    ∃ t, completes s (advance (usedFree (issued s i c) d) c (writeD (issued s i c) c.g d (c.act.map (fun l => (l, f l))))) =
        .next t ∧ Moved c t c.next ∧ OnlyCores s t ∧ OnlyGroup s t i.core i.slot ∧ Wrote c t d f := by
  obtain ⟨hcores, hgroup⟩ := advance_usedFree_only_group hi d (writeD (issued s i c) c.g d (c.act.map (fun l => (l, f l))))
  exact ⟨_, rfl, moved_advance _ (writeD_paths ..), hcores.completes, hgroup, wrote_advance ..⟩

/-- The lanes whose values a lane of a reduction or scan receives. -/
def gredLanes (c : Ctx) (scan : Bool) (l : Nat) : List Nat :=
  c.act.filter (fun k => !scan || decide (k < l) || (Config.scanInclusive && k == l))

theorem gredLanes_scan (c : Ctx) (l : Nat) : gredLanes c true l =
    c.act.filter (fun k => if Config.scanInclusive then decide (k ≤ l) else decide (k < l)) := by
  refine List.filter_congr fun k _ => ?_
  cases Config.scanInclusive with
  | false => simp
  | true => simp [Nat.le_iff_lt_or_eq, Bool.beq_eq_decide_eq]

theorem gredLanes_all (c : Ctx) (l : Nat) : gredLanes c false l = c.act := by simp [gredLanes]

variable {scan part : Bool} {a : Opd}

/-- A reduction or scan that issues is a collective that writes the reduction of each lane's lanes. -/
theorem gred_issues (h : Issues s i c (vRegs false d) [a] []) (red : List Word → Word) :
    gred s i scan part d a red = collective (issued s i c) c part (advance (usedFree (issued s i c) d) c
      (writeD (issued s i c) c.g d (c.act.map (fun l => (l, red ((gredLanes c scan l).map (opdLane c a))))))) := by
  rw [gred, issueWith_issues h]
  cases scan with
  | false => simp only [gredLanes_all, Bool.false_eq_true, if_false]
  | true => simp only [gredLanes_scan, if_true]

/-- The value that a shuffle gives a lane (R174). -/
def shflValue (c : Ctx) (a b : Opd) (l : Nat) : Word :=
  let n := (opdLane c b l).toNat
  if 31 < n then Config.shflBeyond (opdLane c b l) (opdLane c a l)
  else if n ∈ c.act then opdLane c a n else 0

theorem shfl_issues {b : Opd} (h : Issues s i c (vRegs false d) [a, b] []) :
    exec (.shfl i part d a b) s = completes s (collective (issued s i c) c part (advance (usedFree (issued s i c) d) c
      (writeD (issued s i c) c.g d (c.act.map (fun l => (l, shflValue c a b l)))))) := by
  refine congrArg (completes s) ((issueWith_issues h _).trans ?_)
  simp only [shflValue, List.contains_iff_mem, Nat.lt_iff_add_one_le]

end

/-- Settles O11: with its lanes present a collective writes its values (`collective_completes`); otherwise it faults at issue
(`collective_of_divergent`). -/
theorem collectivesCompleteOrDiverge : Obligations.CollectivesCompleteOrDiverge := by
  refine ⟨⟨fun ins m s c hm h hp => ?_, fun i part d a b s c h hp => ?_⟩,
    fun ins m s c hm hpart h hd => ?_, fun i d a b s c h hd => ?_⟩
  · rw [exec_gredSem hm, gred_issues h, collective_of_present hp]
    exact collective_completes h.1 m.d _
  · rw [shfl_issues h, collective_of_present hp]
    exact collective_completes h.1 d _
  · exact faults_at_issue h.1 (by rw [exec_gredSem hm, gred_issues h, hpart, collective_of_divergent hd])
  · exact faults_at_issue h.1 (by rw [shfl_issues h, collective_of_divergent hd])

end Sys2Proof.Machine
end

section
/-! Branches, calls, returns and hardware loops (R167, R184, R185): the state that each leaves, where its lanes go, and what it
keeps of each thread. -/

namespace Sys2Proof.Machine

/-! ### Lanes of a path -/

theorem nodup_laneList (m : Lanes) : (laneList m).Nodup := List.nodup_range.filter _

section
variable {s : State} {i : Iss} {c : Ctx} (hi : issue s i = some c)
include hi

/-- The lanes that take part are lanes of the path, each listed once. -/
theorem act_sublist : c.act.Sublist (laneList c.p.lanes) := by
  obtain ⟨-, -, -, -, -, -, hact, -⟩ := issue_some hi
  rw [hact]
  exact List.filter_sublist

theorem nodup_act : c.act.Nodup := (nodup_laneList _).sublist (act_sublist hi)

end

theorem mem_restLanes {c : Ctx} {ls : List Nat} {l : Nat} : l ∈ restLanes c ls ↔ l ∈ laneList c.p.lanes ∧ l ∉ ls := by
  simp [restLanes]

/-- Where the lanes of a path go that splits in two. -/
theorem laneAt_splitPath_two (c : Ctx) (g : Group) (ls : List Nat) (pc pc' : Nat) (back : Bool) {l : Nat}
    (hl : l ∈ laneList c.p.lanes) :
    LaneAt (splitPath c g [pathAt ls pc, pathAt (restLanes c ls) pc'] back) l (if l ∈ ls then pc else pc') none .go := by
  obtain ⟨hlt, -⟩ := mem_laneList hl
  refine laneAt_splitPath _ _ _ _ _ _ _ _ ?_
  by_cases hin : l ∈ ls
  · rw [if_pos hin]
    exact ⟨_, by simp, pathAt_holds ls l pc hlt hin⟩
  · rw [if_neg hin]
    exact ⟨_, by simp, pathAt_holds _ l pc' hlt (mem_restLanes.mpr ⟨hl, hin⟩)⟩

/-- Where the lanes of a path go of which each has its own place. -/
theorem laneAt_scatter {c : Ctx} {g : Group} {f : Nat → Nat} {back : Bool} {l pc : Nat} (hl : l ∈ laneList c.p.lanes)
    (hpc : f l = pc) : LaneAt (splitPath c g (scatter c f) back) l pc none .go := by
  obtain ⟨hlt, -⟩ := mem_laneList hl
  subst hpc
  exact laneAt_splitPath _ _ _ _ _ _ _ _ ⟨_, List.mem_map_of_mem hl, pathAt_holds [l] l (f l) hlt (by simp)⟩

@[simp] theorem splitPath_calls (c : Ctx) (g : Group) (ps : List Path) (back : Bool) : (splitPath c g ps back).calls = g.calls := by
  obtain ⟨b, r, h⟩ := splitPath_eq c g ps back
  rw [h]

@[simp] theorem splitPath_loops (c : Ctx) (g : Group) (ps : List Path) (back : Bool) : (splitPath c g ps back).loops = g.loops := by
  obtain ⟨b, r, h⟩ := splitPath_eq c g ps back
  rw [h]

@[simp] theorem loopsOf_splitPath (c : Ctx) (g : Group) (ps : List Path) (back : Bool) (l : Nat) :
    loopsOf (splitPath c g ps back) l = loopsOf g l := by simp [loopsOf]

/-! ### What is kept of each thread -/

/-- A change that each of some lanes makes to its own entry. -/
theorem alGet_foldl_own {α : Type} {d : α} {step : AL α → Nat → AL α} {f : Nat → α → α}
    (h : ∀ m l k, alGet d (step m l) k = if k = l then f l (alGet d m l) else alGet d m k) (m : AL α) {ls : List Nat}
    (hls : ls.Nodup) (k : Nat) : alGet d (ls.foldl step m) k = if k ∈ ls then f k (alGet d m k) else alGet d m k := by
  induction ls generalizing m with
  | nil => simp
  | cons l r ih =>
    obtain ⟨hl, hr⟩ := List.nodup_cons.mp hls
    rw [List.foldl_cons, ih _ hr, h]
    by_cases hk : k = l
    · subst hk
      simp [hl]
    · simp [hk]

/-! ### Completion -/

section
variable {s : State} {i : Iss} {c : Ctx}

/-- An instruction that has changed no core since its issue and puts its group back changes that group alone. -/
theorem putGroup_completes_of {u : State} {ins : Instr} {g : Group} (hi : issue s i = some c) (hu : OnlyCores s u)
    (hk : ∀ k, coreOf u k = coreOf (issued s i c) k) (he : exec ins s = completes s (putGroup u c g)) :
    ∃ t, exec ins s = .next t ∧ OnlyCores s t ∧ OnlyGroup s t i.core i.slot ∧ (c.seen t).g = g :=
  ⟨_, he, (hu.putGroup c g).completes, onlyGroup_putGroup hi hk g, seen_putGroup ..⟩

theorem putGroup_completes {ins : Instr} {g : Group} (hi : issue s i = some c)
    (he : exec ins s = completes s (putGroup (issued s i c) c g)) :
    ∃ t, exec ins s = .next t ∧ OnlyCores s t ∧ OnlyGroup s t i.core i.slot ∧ (c.seen t).g = g :=
  putGroup_completes_of hi (.issued s i c) (fun _ => rfl) he

/-! ### Branches, calls and returns (R167) -/

/-- Whether a lane meets the condition of a branch. -/
def braCond (c : Ctx) (p : Option (Bool × Nat)) (l : Nat) : Bool :=
  match p with
  | some (neg, n) => predOf c.g n l != neg
  | none => true

theorem bra_completes (p : Option (Bool × Nat)) (target : Nat)
    (h : Issues s i c [] (match p with | some (_, n) => [.p n] | none => []) []) :
    ∃ t, exec (.bra i p target) s = .next t ∧ OnlyCores s t ∧ OnlyGroup s t i.core i.slot ∧
      ∀ l ∈ laneList c.p.lanes,
        LaneAt (c.seen t).g l (if l ∈ c.act ∧ braCond c p l = true then target else c.next) none .go := by
  have he : exec (.bra i p target) s = completes s (putGroup (issued s i c) c (splitPath c c.g
      [pathAt (c.act.filter (braCond c p)) target, pathAt (restLanes c (c.act.filter (braCond c p))) c.next]
      (!(c.act.filter (braCond c p)).isEmpty && decide (target ≤ c.p.pc)))) := by
    cases p <;> exact congrArg (completes s) (issueWith_issues h _)
  obtain ⟨t, ht, hcores, hgroup, hg⟩ := putGroup_completes h.1 he
  refine ⟨t, ht, hcores, hgroup, fun l hl => ?_⟩
  simp only [hg, ← List.mem_filter]
  exact laneAt_splitPath_two _ _ _ _ _ _ hl

theorem call_completes (target : Nat) (h : Issues s i c [] [] []) :
    ∃ t, exec (.call i target) s = .next t ∧ OnlyCores s t ∧ OnlyGroup s t i.core i.slot ∧
      ∀ l ∈ laneList c.p.lanes,
        LaneAt (c.seen t).g l (if l ∈ c.act then target else c.next) none .go ∧
        alGet [] (c.seen t).g.calls l = (if l ∈ c.act then [c.next] else []) ++ alGet [] c.g.calls l := by
  obtain ⟨t, ht, hcores, hgroup, hg⟩ := putGroup_completes (ins := .call i target) h.1
    (congrArg (completes s) (issueWith_issues h _))
  refine ⟨t, ht, hcores, hgroup, fun l hl => ?_⟩
  rw [hg, splitPath_calls]
  refine ⟨laneAt_splitPath_two _ _ _ _ _ _ hl, ?_⟩
  rw [alGet_foldl_own (f := fun _ r => c.next :: r) (fun m l k => alGet_alPut _ _ _ _ _) _ (nodup_act h.1)]
  split <;> rfl

theorem ret_completes (h : Issues s i c [] [] []) :
    ∃ t, exec (.ret i) s = .next t ∧ OnlyCores s t ∧ OnlyGroup s t i.core i.slot ∧
      ∀ l ∈ laneList c.p.lanes,
        LaneAt (c.seen t).g l (if l ∈ c.act then (alGet [] c.g.calls l).headD c.next else c.next) none .go ∧
        alGet [] (c.seen t).g.calls l = (alGet [] c.g.calls l).drop (if l ∈ c.act then 1 else 0) := by
  obtain ⟨t, ht, hcores, hgroup, hg⟩ := putGroup_completes (ins := .ret i) h.1 (congrArg (completes s) (issueWith_issues h _))
  refine ⟨t, ht, hcores, hgroup, fun l hl => ?_⟩
  rw [hg, splitPath_calls]
  refine ⟨laneAt_scatter hl (by simp), ?_⟩
  rw [alGet_foldl_own (f := fun _ => List.drop 1) (fun m l k => alGet_alPut _ _ _ _ _) _ (nodup_act h.1)]
  split <;> rfl

/-! ### Hardware loops (R184, R185) -/

theorem loop_completes (count : Opd) (endOff : Nat) (h : Issues s i c [] [count] [])
    (hroom : ∀ l ∈ c.act, (loopsOf c.g l).length < 4) :
    ∃ t, exec (.loop i count endOff) s = .next t ∧ OnlyCores s t ∧ OnlyGroup s t i.core i.slot ∧
      ∀ l ∈ laneList c.p.lanes,
        let n := (opdLane c count l).toNat
        LaneAt (c.seen t).g l (if l ∈ c.act ∧ n = 0 then endOff else c.next) none .go ∧
        loopsOf (c.seen t).g l =
          (if l ∈ c.act ∧ n ≠ 0 then [{ start := c.next, left := n - 1, exit := endOff }] else []) ++ loopsOf c.g l := by
  have hdepth : ¬ c.act.any (fun l => decide (4 ≤ (loopsOf c.g l).length)) = true := by simpa using hroom
  obtain ⟨t, ht, hcores, hgroup, hg⟩ := putGroup_completes (ins := .loop i count endOff) h.1
    (congrArg (completes s) ((issueWith_issues h _).trans (if_neg hdepth)))
  refine ⟨t, ht, hcores, hgroup, fun l hl => ?_⟩
  rw [hg, loopsOf_splitPath]
  refine ⟨laneAt_scatter hl (by simp), ?_⟩
  rw [loopsOf, alGet_foldl_own (f := fun l r => if (opdLane c count l).toNat = 0 then r
    else { start := c.next, left := (opdLane c count l).toNat - 1, exit := endOff } :: r) ?_ _ (nodup_act h.1)]
  · by_cases hin : l ∈ c.act
    · by_cases hn : (opdLane c count l).toNat = 0
      · simp [hin, hn, loopsOf]
      · simp [hin, hn, loopsOf]
    · simp [hin, loopsOf]
  · intro m l k
    split
    · split <;> simp [*]
    · exact alGet_alPut _ _ _ _ _

/-- What ENDLOOP leaves of a thread's open loops: one repeat fewer of the innermost, or that loop closed. -/
def repeated : List LoopEnt → List LoopEnt
  | e :: r => if e.left = 0 then r else { e with left := e.left - 1 } :: r
  | [] => []

theorem endloop_completes (h : Issues s i c [] [] []) :
    ∃ t, exec (.endloop i) s = .next t ∧ OnlyCores s t ∧ OnlyGroup s t i.core i.slot ∧
      ∀ l ∈ laneList c.p.lanes, l ∈ c.act → ∀ e r, loopsOf c.g l = e :: r →
        LaneAt (c.seen t).g l (if 0 < e.left then e.start else c.next) none .go ∧
        loopsOf (c.seen t).g l = (if 0 < e.left then { e with left := e.left - 1 } :: r else r) := by
  obtain ⟨t, ht, hcores, hgroup, hg⟩ := putGroup_completes (ins := .endloop i) h.1 (congrArg (completes s) (issueWith_issues h _))
  refine ⟨t, ht, hcores, hgroup, fun l hl hin e r hloops => ?_⟩
  rw [hg, loopsOf_splitPath]
  refine ⟨laneAt_scatter hl (by simp [hin, hloops]), ?_⟩
  rw [loopsOf, alGet_foldl_own (f := fun _ => repeated) ?_ _ (nodup_act h.1), if_pos hin]
  · rw [loopsOf] at hloops
    simp only [hloops, repeated, Nat.pos_iff_ne_zero, ite_not]
  · intro m l k
    cases hm : alGet [] m l with
    | nil =>
      by_cases hk : k = l
      · simp [hk, hm, repeated]
      · simp [hk]
    | cons e r =>
      simp only [repeated, ← apply_ite (alPut m l), alGet_alPut]

theorem loopBreak_completes (h : Issues s i c [] [] []) :
    ∃ t, exec (.loopBreak i) s = .next t ∧ OnlyCores s t ∧ OnlyGroup s t i.core i.slot ∧
      ∀ l ∈ laneList c.p.lanes, l ∈ c.act → ∀ e r, loopsOf c.g l = e :: r →
        LaneAt (c.seen t).g l e.exit none .go ∧ loopsOf (c.seen t).g l = r := by
  obtain ⟨t, ht, hcores, hgroup, hg⟩ := putGroup_completes (ins := .loopBreak i) h.1
    (congrArg (completes s) (issueWith_issues h _))
  refine ⟨t, ht, hcores, hgroup, fun l hl hin e r hloops => ?_⟩
  rw [hg, loopsOf_splitPath]
  refine ⟨laneAt_scatter hl (by simp [hin, hloops]), ?_⟩
  rw [loopsOf, alGet_foldl_own (f := fun _ => List.drop 1) (fun m l k => alGet_alPut _ _ _ _ _) _ (nodup_act h.1), if_pos hin]
  exact congrArg (List.drop 1) hloops

theorem loop_faults (count : Opd) (endOff : Nat) (h : Issues s i c [] [count] [])
    (hdeep : ∃ l ∈ c.act, 4 ≤ (loopsOf c.g l).length) :
    ∃ t, exec (.loop i count endOff) s = .next t ∧ Faulted c s t .loopDepth := by
  have hany : c.act.any (fun l => decide (4 ≤ (loopsOf c.g l).length)) = true := by simpa using hdeep
  exact faults_at_issue h.1 (congrArg (completes s) ((issueWith_issues h _).trans (if_pos hany)))

end

/-- Settles O12: each instruction splits its path (`laneAt_splitPath_two`, `laneAt_scatter`), and each of its lanes changes its own
return addresses alone (`alGet_foldl_own`). -/
theorem controlFlowSendsEachLane : Obligations.ControlFlowSendsEachLane :=
  ⟨fun _ p target _ _ h => bra_completes p target h, fun _ target _ _ h => call_completes target h,
    fun _ _ _ h => ret_completes h⟩

/-- Settles O13: as O12, for the open loops of each lane; a fifth loop faults before any is opened (`loop_faults`). -/
theorem loopsRunTheirCount : Obligations.LoopsRunTheirCount :=
  ⟨⟨fun _ count endOff _ _ h hroom => loop_completes count endOff h hroom, fun _ _ _ h => endloop_completes h,
    fun _ _ _ h => loopBreak_completes h⟩, fun _ count endOff _ _ h hdeep => loop_faults count endOff h hdeep⟩

end Sys2Proof.Machine
end

section
/-! EXIT, YIELD and rotation (R167, R169, R170, R177, R192): the lanes that a group has left, the end of a block, and the path that
a rotation makes current. -/

namespace Sys2Proof.Machine

/-! ### The lanes of a path set -/

/-- Lane `l` is in one of these paths. -/
def Present (ps : List Path) (l : Nat) : Prop := ∃ q ∈ ps, q.lanes.getLsbD l = true

theorem present_cons (p : Path) (ps : List Path) (l : Nat) :
    Present (p :: ps) l ↔ p.lanes.getLsbD l = true ∨ Present ps l := by simp [Present]

theorem present_append (ps qs : List Path) (l : Nat) : Present (ps ++ qs) l ↔ Present ps l ∨ Present qs l := by
  simp [Present, or_and_right, exists_or]

theorem present_mergePath (p : Path) (ps : List Path) (l : Nat) :
    Present (mergePath p ps) l ↔ p.lanes.getLsbD l = true ∨ Present ps l := by
  induction ps with
  | nil => exact present_cons p [] l
  | cons q r ih =>
    simp only [mergePath]
    split
    · simp [present_cons, or_left_comm, or_assoc]
    · split
      · exact present_cons p (q :: r) l
      · rw [present_cons, ih, present_cons, or_left_comm]

/-- Merging drops empty paths alone. -/
theorem present_mergePaths (ps : List Path) (l : Nat) : Present (mergePaths ps) l ↔ Present ps l := by
  have key : ∀ (ps acc : List Path),
      Present (ps.foldl (fun acc p => if p.lanes = 0 then acc else mergePath { p with held := false } acc) acc) l ↔
        Present ps l ∨ Present acc l := by
    intro ps
    induction ps with
    | nil => simp [Present]
    | cons p r ih =>
      intro acc
      rw [List.foldl_cons, ih, present_cons]
      by_cases hp : p.lanes = 0
      · simp [hp]
      · rw [if_neg hp, present_mergePath, or_left_comm, or_assoc]
  exact (key ps []).trans (or_iff_left fun ⟨_, hq, _⟩ => absurd hq List.not_mem_nil)

theorem present_holdPaths (recon : List Nat) (ps : List Path) (l : Nat) : Present (holdPaths recon ps) l ↔ Present ps l := by
  simp [Present, holdPaths]

/-- A group has the lanes of the paths that it is given. -/
theorem present_setPaths (recon : List Nat) (g : Group) (ps : List Path) (l : Nat) :
    Present (setPaths recon g ps).paths l ↔ Present ps l := by
  obtain ⟨b, r, he⟩ := setPaths_eq recon g ps
  rw [he, present_holdPaths, present_mergePaths]

theorem present_splitPath (c : Ctx) (g : Group) (ps : List Path) (back : Bool) (l : Nat) :
    Present (splitPath c g ps back).paths l ↔ Present (g.paths.filter (fun q => q.lanes != c.p.lanes)) l ∨ Present ps l := by
  obtain ⟨b, r, he⟩ := splitPath_eq c g ps back
  rw [he, present_holdPaths, present_mergePaths, present_append]

@[simp] theorem splitPath_block (c : Ctx) (g : Group) (ps : List Path) (back : Bool) : (splitPath c g ps back).block = g.block := by
  obtain ⟨b, r, he⟩ := splitPath_eq c g ps back
  rw [he]

/-! ### The threads of a block -/

theorem laneList_eq_nil {m : Lanes} : laneList m = [] ↔ ∀ l, m.getLsbD l ≠ true := by
  refine ⟨fun h l hl => ?_, fun h => List.filter_eq_nil_iff.mpr fun l _ => h l⟩
  have hmem : l ∈ laneList m := List.mem_filter.mpr ⟨List.mem_range.mpr (BitVec.lt_of_getLsbD hl), hl⟩
  rw [h] at hmem
  exact absurd hmem List.not_mem_nil

/-- A block has no thread left when no group of it has a lane. -/
theorem liveThreads_eq_nil {x : Exec} {blk : Nat} :
    liveThreads x blk = [] ↔ ∀ e ∈ x.groups, e.2.block = blk → ∀ l, ¬ Present e.2.paths l := by
  simp only [liveThreads, List.flatMap_eq_nil_iff, ite_eq_right_iff, threadsOf, List.map_eq_nil_iff, laneList_eq_nil, Present]
  exact forall₂_congr fun e _ => imp_congr_right fun _ =>
    ⟨fun h l ⟨q, hq, hl⟩ => h q hq l hl, fun h q hq l hl => h l ⟨q, hq, hl⟩⟩

/-- Two values in one place of a list, of which both or neither have a property. -/
theorem forall_mem_alPut_congr {α : Type} {P : α → Prop} {v w : α} (h : P v ↔ P w) (m : AL α) (k : Nat) :
    (∀ e ∈ alPut m k v, P e.2) ↔ ∀ e ∈ alPut m k w, P e.2 := by
  induction m with
  | nil => simpa [alPut] using h
  | cons e r ih =>
    simp only [alPut]
    split
    · simp [h]
    · split
      · simp [h]
      · rw [List.forall_mem_cons, ih, List.forall_mem_cons]

/-- The threads that EXIT leaves of its block, counted in the group as EXIT leaves it. -/
theorem liveThreads_split {c : Ctx} {lanes : List Nat} {back : Bool} {x : Exec}
    (hx : x.groups = alPut c.x.groups c.slot (splitPath c c.g [pathAt lanes c.next] back)) :
    liveThreads x c.g.block = [] ↔ threadsLeft c lanes = [] := by
  rw [threadsLeft, liveThreads_eq_nil, liveThreads_eq_nil, hx]
  refine forall_mem_alPut_congr (P := fun g => g.block = c.g.block → ∀ l, ¬ Present g.paths l) ?_ c.x.groups c.slot
  simp only [splitPath_block, present_splitPath, present_append]

/-! ### Generations that an exit completes (R177) -/

/-- What a group keeps when barriers release its paths: the lanes that wait for nothing, and no lane joins it. -/
structure Released (g g' : Group) : Prop where
  going : ∀ l pc, LaneAt g l pc none .go → LaneAt g' l pc none .go
  present : ∀ l, Present g'.paths l → Present g.paths l

theorem Released.refl (g : Group) : Released g g := ⟨fun _ _ h => h, fun _ h => h⟩

theorem Released.trans {g g' g'' : Group} (h : Released g g') (h' : Released g' g'') : Released g g'' :=
  ⟨fun l pc hl => h'.going l pc (h.going l pc hl), fun l hl => h.present l (h'.present l hl)⟩

/-- Paths whose wait at a barrier ends. -/
theorem released_setPaths (recon : List Nat) (g : Group) (p : Path → Bool) :
    Released g (setPaths recon g (g.paths.map (fun q => if p q then { q with bar := none } else q))) := by
  refine ⟨fun l pc ⟨q, hq, hlane, hpc, hbar, hstall⟩ => ?_, fun l hl => ?_⟩
  · refine laneAt_setPaths _ _ _ _ _ _ _ ⟨_, List.mem_map_of_mem hq, ?_⟩
    split
    · exact ⟨hlane, hpc, rfl, hstall⟩
    · exact ⟨hlane, hpc, hbar, hstall⟩
  · obtain ⟨q', hq', hlane⟩ := (present_setPaths _ _ _ _).mp hl
    obtain ⟨q, hq, rfl⟩ := List.mem_map.mp hq'
    exact ⟨q, hq, by split at hlane <;> exact hlane⟩

/-- The group of a slot is released at most. -/
def ReleasedAt (slot : Nat) (x y : Exec) : Prop :=
  ∀ g, alFind x.groups slot = some g → ∃ g', alFind y.groups slot = some g' ∧ Released g g'

theorem releasedAt_releaseBar (slot : Nat) (x : Exec) (seq blk id : Nat) (gen : BitVec 16) (recon : List Nat) :
    ReleasedAt slot x (releaseBar x seq blk id gen recon) := by
  intro g hg
  refine ⟨_, by rw [releaseBar, alFind_alMap, hg]; rfl, ?_⟩
  dsimp only
  split
  · exact released_setPaths recon g (fun p => p.bar == some (id, gen))
  · exact .refl g

theorem releasedAt_tryComplete (slot : Nat) (x : Exec) (seq blk id : Nat) : ReleasedAt slot x (tryComplete x seq blk id) := by
  simp only [tryComplete]
  split
  · exact fun g hg => ⟨g, hg, .refl g⟩
  · split
    · exact releasedAt_releaseBar slot _ seq _ _ _ _
    · exact fun g hg => ⟨g, hg, .refl g⟩

/-- The barriers of a block after an exit. -/
def exitBarriers (seq blk : Nat) (x : Exec) : Exec := (List.range 4).foldl (fun x n => tryComplete x seq blk n) x

theorem releasedAt_exitBarriers (slot seq blk : Nat) (x : Exec) : ReleasedAt slot x (exitBarriers seq blk x) :=
  foldl_related (fun _ g hg => ⟨g, hg, .refl g⟩)
    (fun h h' g hg => by
      obtain ⟨g', hg', hr⟩ := h g hg
      obtain ⟨g'', hg'', hr'⟩ := h' g' hg'
      exact ⟨g'', hg'', hr.trans hr'⟩)
    (fun x n => releasedAt_tryComplete slot x seq blk n) _ x

/-! ### EXIT -/

theorem OnlyCores.modExec {s t : State} (h : OnlyCores s t) (c : Nat) (g : Exec → Exec) : OnlyCores s (modExec t c g) := by
  unfold OnlyCores at h ⊢
  rw [h]
  rfl

theorem seen_of_alFind {c : Ctx} {t : State} {g : Group} (h : alFind (execOf t c.core).groups c.slot = some g) :
    (c.seen t).g = g := alGet_of_alFind _ _ _ _ h

section
variable {s : State} {i : Iss} {c : Ctx}

/-- The state with the active lanes gone. -/
def exited (s : State) (i : Iss) (c : Ctx) : State :=
  putGroup (issued s i c) c (splitPath c c.g [pathAt (restLanes c c.act) c.next] false)

theorem execOf_exited (hi : issue s i = some c) :
    (execOf (exited s i c) i.core).groups =
        alPut c.x.groups c.slot (splitPath c c.g [pathAt (restLanes c c.act) c.next] false) ∧
      (execOf (exited s i c) i.core).blocks = (execOf s i.core).blocks := by
  obtain ⟨hcore, -, hx, -⟩ := issue_some hi
  simp [exited, putGroup, hcore, hx]

@[simp] theorem issued_seqNo (s : State) (i : Iss) (c : Ctx) : (issued s i c).seqNo = s.seqNo := by rw [issued_cores]

variable (h : Issues s i c [] [] []) (hact : c.act ≠ []) (hmay : mayFault c.x c.slot s.seqNo = false)
include h hact hmay

/-- EXIT ends its block with the last thread, and otherwise may complete the block's barriers. -/
theorem exec_exit : exec (.exit i) s = completes s (
    if (liveThreads (execOf (exited s i c) i.core) c.g.block).isEmpty then endBlock (exited s i c) i.core c.g.block
    else modExec (exited s i c) i.core (exitBarriers (exited s i c).seqNo c.g.block)) := by
  obtain ⟨hcore, -⟩ := issue_some h.1
  refine congrArg (completes s) ((issueWith_issues h _).trans ?_)
  rw [if_neg (by simpa using hact), if_neg (by simp [hmay]), hcore]
  rfl

/-- The last thread's EXIT ends the block (R177). -/
theorem exit_last_completes (hleft : threadsLeft c (restLanes c c.act) = []) :
    ∃ t, exec (.exit i) s = .next t ∧ (execOf t i.core).blocks = alDel (execOf s i.core).blocks c.g.block ∧
      (∀ e ∈ (execOf t i.core).groups, e.2.block ≠ c.g.block) ∧
      ∀ n, alFind s.fe.nodes c.b.task.node = some n →
        ∃ m, alFind t.fe.nodes c.b.task.node = some m ∧ m.doneBlocks = n.doneBlocks + 1 ∧ m.liveBlocks = n.liveBlocks - 1 := by
  obtain ⟨-, -, -, -, hb, -⟩ := issue_some h.1
  obtain ⟨hgroups, hblocks⟩ := execOf_exited h.1
  have hnone : (liveThreads (execOf (exited s i c) i.core) c.g.block).isEmpty = true :=
    List.isEmpty_iff.mpr ((liveThreads_split hgroups).mpr hleft)
  have hb' : alFind (execOf (exited s i c) i.core).blocks c.g.block = some c.b := by rw [hblocks, hb]
  obtain ⟨heg, heb⟩ := execOf_endBlock hb'
  refine ⟨_, (exec_exit h hact hmay).trans (congrArg (completes s) (if_pos hnone)), heb.trans (by rw [hblocks]),
    fun e he => ?_, fun n hn => ?_⟩
  · have he' : e ∈ (execOf (endBlock (exited s i c) i.core c.g.block) i.core).groups := he
    rw [heg] at he'
    simpa using (List.mem_filter.mp he').2
  · have hfe : (exited s i c).fe = s.fe := issued_fe s i c
    exact ⟨_, alFind_endBlock hb' (hfe ▸ hn), rfl, rfl⟩

/-- Any other EXIT leaves the rest of its path going on, and the active lanes in no path of theirs (R167). -/
theorem exit_completes (hleft : threadsLeft c (restLanes c c.act) ≠ []) :
    ∃ t, exec (.exit i) s = .next t ∧ OnlyCores s t ∧ (∀ k, k ≠ i.core → coreOf t k = coreOf s k) ∧
      (∀ l ∈ laneList c.p.lanes, l ∉ c.act → LaneAt (c.seen t).g l c.next none .go) ∧
      ∀ q ∈ (c.seen t).g.paths, ∀ l ∈ c.act, q.lanes.getLsbD l = true →
        ∃ p ∈ c.g.paths, p.lanes ≠ c.p.lanes ∧ p.lanes.getLsbD l = true := by
  obtain ⟨hcore, -⟩ := issue_some h.1
  obtain ⟨hgroups, -⟩ := execOf_exited h.1
  have hsome : ¬ (liveThreads (execOf (exited s i c) i.core) c.g.block).isEmpty = true := fun hempty =>
    hleft ((liveThreads_split hgroups).mp (List.isEmpty_iff.mp hempty))
  have hslot : alFind (execOf (exited s i c) i.core).groups c.slot =
      some (splitPath c c.g [pathAt (restLanes c c.act) c.next] false) := by rw [hgroups, alFind_alPut_self]
  obtain ⟨g, hg, hrel⟩ := releasedAt_exitBarriers c.slot (exited s i c).seqNo c.g.block _ _ hslot
  have hseen : (c.seen (modExec (exited s i c) i.core (exitBarriers (exited s i c).seqNo c.g.block))).g = g :=
    seen_of_alFind (by rwa [hcore, execOf_modExec])
  have hcores : OnlyCores s (exited s i c) := (OnlyCores.issued s i c).putGroup c _
  refine ⟨_, (exec_exit h hact hmay).trans (congrArg (completes s) (if_neg hsome)), (hcores.modExec _ _).completes,
    fun k hk => ?_, fun l hl hnot => ?_, ?_⟩
  · have hother : coreOf (exited s i c) k = coreOf s k :=
      (coreOf_modExec_other _ _ _ _ (by rwa [hcore])).trans (coreOf_issued_other _ _ _ _ hk)
    exact (coreOf_modExec_other _ _ _ _ hk).trans hother
  · refine hseen ▸ hrel.going l c.next ?_
    obtain ⟨hlt, -⟩ := mem_laneList hl
    exact laneAt_splitPath _ _ _ _ _ _ _ _ ⟨_, by simp, pathAt_holds _ l c.next hlt (mem_restLanes.mpr ⟨hl, hnot⟩)⟩
  · intro q hq l hl hlane
    rcases (present_splitPath _ _ _ _ _).mp (hrel.present l ⟨q, hseen ▸ hq, hlane⟩) with ⟨p, hp, hlp⟩ | ⟨p, hp, hlp⟩
    · obtain ⟨hp, hne⟩ := List.mem_filter.mp hp
      exact ⟨p, hp, by simpa using hne, hlp⟩
    · rw [List.mem_singleton.mp hp, pathAt, getLsbD_laneMask _ _ (act_lt h.1 l hl), decide_eq_true_eq] at hlp
      exact absurd hl (mem_restLanes.mp hlp).2

end

/-! ### Rotation (R169, R170) -/

/-- The current path is an eligible path of its group. -/
theorem currentPath_some {g : Group} {p : Path} (h : currentPath g = some p) : p ∈ g.paths ∧ p.eligible = true := by
  have hfind : ∀ {f : Path → Bool}, (∀ q, f q = true → q.eligible = true) → g.paths.find? f = some p →
      p ∈ g.paths ∧ p.eligible = true := fun hf hp => ⟨List.mem_of_find?_eq_some hp, hf p (List.find?_some hp)⟩
  simp only [currentPath] at h
  split at h
  · split at h
    next m _ q hq =>
      cases h
      exact hfind (fun q hq => (Bool.and_eq_true_iff.mp hq).1) hq
    · exact hfind (fun _ hq => hq) h
  · exact hfind (fun _ hq => hq) h

/-- A rotation changes the choice of the current path and the count of branches alone. -/
theorem rotateGroup_eq (g : Group) : ∃ b r, rotateGroup g = { g with branches := b, rotated := r } := by
  simp only [rotateGroup]
  split
  · exact ⟨_, _, rfl⟩
  · split
    · exact ⟨_, _, rfl⟩
    · split <;> exact ⟨_, _, rfl⟩

/-- A group with a current path rotates to the next one. -/
theorem rotateGroup_of_current {g : Group} {p : Path} (h : currentPath g = some p) :
    rotateGroup g = { g with branches := 0, rotated := (nextPath g p).map (·.lanes) } := by
  obtain ⟨hp, he⟩ := currentPath_some h
  simp only [rotateGroup, h, nextPath]
  cases (g.paths.filter Path.eligible).find? (fun q => decide (p.pc < q.pc)) with
  | some q => rfl
  | none =>
    cases hhead : (g.paths.filter Path.eligible).head? with
    | some q => rfl
    | none =>
      have hmem : p ∈ g.paths.filter Path.eligible := List.mem_filter.mpr ⟨hp, he⟩
      rw [List.head?_eq_none_iff.mp hhead] at hmem
      exact absurd hmem List.not_mem_nil

/-- A path that moves on without a change of the path set leaves the rotation and the count as they were. -/
theorem movePath_of_samePaths {c : Ctx} {g : Group} {pc : Nat} (h : samePaths g.paths (movePath c g pc).paths = true) :
    movePath c g pc = { g with paths := (movePath c g pc).paths } := by
  rw [movePath_paths] at h ⊢
  exact if_pos h

theorem OnlyCores.ctrAdd {s t : State} (h : OnlyCores s t) (k code n : Nat) (part : Option Nat) :
    OnlyCores s (ctrAdd t k code n part) := by
  unfold OnlyCores at h ⊢
  rw [ctrAdd_dbg, h]

/-- YIELD rotates the group where the path set stays as it is. -/
theorem yield_completes {s : State} {i : Iss} {c : Ctx} (h : Issues s i c [] [] []) :
    ∃ t, exec (.yield i) s = .next t ∧ OnlyCores s t ∧ OnlyGroup s t i.core i.slot ∧ Moved c t c.next ∧
      (c.act ≠ [] → samePaths c.g.paths (c.seen t).g.paths = true →
        ∀ q, currentPath { c.g with paths := (c.seen t).g.paths } = some q →
          (c.seen t).g.branches = 0 ∧ (c.seen t).g.rotated = (nextPath (c.seen t).g q).map (·.lanes)) := by
  by_cases hrot : c.act ≠ [] ∧ samePaths c.g.paths (movePath c c.g c.next).paths = true
  · have he : exec (.yield i) s = completes s (putGroup (ctrAdd (issued s i c) (blkKey 0 i.core) 0x0F 1 none) c
        (rotateGroup (movePath c c.g c.next))) :=
      congrArg (completes s) ((issueWith_issues h _).trans (if_pos (by simpa using hrot)))
    obtain ⟨t, ht, hcores, hgroup, hg⟩ := putGroup_completes_of h.1 ((OnlyCores.issued s i c).ctrAdd _ _ _ _)
      (fun k => coreOf_ctrAdd _ _ _ _ _ k) he
    obtain ⟨b, r, hb⟩ := rotateGroup_eq (movePath c c.g c.next)
    have hpaths : (c.seen t).g.paths = (movePath c c.g c.next).paths := by rw [hg, hb]
    refine ⟨t, ht, hcores, hgroup, by rw [Moved, hpaths, movePath_paths], fun _ _ q hq => ?_⟩
    rw [hpaths, ← movePath_of_samePaths hrot.2] at hq
    rw [hg, rotateGroup_of_current hq]
    exact ⟨rfl, rfl⟩
  · have he : exec (.yield i) s = completes s (putGroup (issued s i c) c (movePath c c.g c.next)) :=
      congrArg (completes s) ((issueWith_issues h _).trans (if_neg (by simpa using hrot)))
    obtain ⟨t, ht, hcores, hgroup, hg⟩ := putGroup_completes h.1 he
    refine ⟨t, ht, hcores, hgroup, ?_, fun hact hsame => absurd ⟨hact, hg ▸ hsame⟩ hrot⟩
    rw [Moved, hg, movePath_paths]

/-- A group that is put into its slot is found there, and is all that has changed. -/
theorem modExec_put_group {s u : State} {core slot : Nat} (hk : ∀ k, coreOf u k = coreOf s k) (g : Group) :
    let t := modExec u core (fun x => { x with groups := alPut x.groups slot g })
    alFind (execOf t core).groups slot = some g ∧ OnlyGroup s t core slot := by
  have hx : execOf u core = execOf s core := congrArg Core.exec (hk core)
  refine ⟨?_, fun k h => (coreOf_modExec_other _ _ _ _ h).trans (hk k),
    ⟨alPut (execOf s core).groups slot g, (execOf s core).istore, ?_⟩, fun j hj => ?_⟩
  · rw [execOf_modExec]
    exact alFind_alPut_self _ _ _
  · rw [coreOf_modExec, hk, hx]
  · rw [execOf_modExec, hx]
    exact alFind_alPut_other _ _ _ _ hj

/-- The 64th backward branch rotates a group, and no earlier one. -/
theorem groupRotate_completes {s : State} {core slot : Nat} {g : Group} (hg : alFind (execOf s core).groups slot = some g) :
    ∃ t, exec (.groupRotate core slot) s = .next t ∧ OnlyCores s t ∧ OnlyGroup s t core slot ∧
      ∃ g', alFind (execOf t core).groups slot = some g' ∧ g'.paths = g.paths ∧
        (g.branches < 64 → g' = g) ∧
        (64 ≤ g.branches → ∀ p, currentPath g = some p → g'.branches = 0 ∧ g'.rotated = (nextPath g p).map (·.lanes)) := by
  by_cases hb : g.branches < 64
  · have he : exec (.groupRotate core slot) s = completes s s := by simp [exec, execGroupRotate, hg, hb]
    exact ⟨_, he, rfl, ⟨fun _ _ => rfl, ⟨_, _, rfl⟩, fun _ _ => rfl⟩, g, hg, rfl, fun _ => rfl, fun h => absurd hb (by omega)⟩
  · have he : exec (.groupRotate core slot) s = completes s (modExec (ctrAdd s (blkKey 0 core) 0x0F 1 none) core
        (fun x => { x with groups := alPut x.groups slot (rotateGroup g) })) := by
      simp only [exec, execGroupRotate, hg, if_neg hb]
    have hcores : OnlyCores s s := rfl
    obtain ⟨b, r, hr⟩ := rotateGroup_eq g
    obtain ⟨hslot, hgroup⟩ := modExec_put_group (core := core) (slot := slot)
      (fun k => coreOf_ctrAdd s (blkKey 0 core) 0x0F 1 none k) (rotateGroup g)
    refine ⟨_, he, ((hcores.ctrAdd _ _ _ _).modExec _ _).completes, hgroup, rotateGroup g, hslot, by rw [hr],
      fun h => absurd h hb, fun _ p hp => ?_⟩
    rw [rotateGroup_of_current hp]
    exact ⟨rfl, rfl⟩

/-- An EXIT without active lanes only moves its path (R192). -/
theorem exit_idle_completes {s : State} {i : Iss} {c : Ctx} (h : Issues s i c [] [] []) (hact : c.act = []) :
    ∃ t, exec (.exit i) s = .next t ∧ OnlyCores s t ∧ OnlyGroup s t i.core i.slot ∧ Moved c t c.next := by
  have he : exec (.exit i) s = completes s (putGroup (issued s i c) c (movePath c c.g c.next)) :=
    congrArg (completes s) ((issueWith_issues h _).trans (if_pos (by simp [hact])))
  obtain ⟨t, ht, hcores, hgroup, hg⟩ := putGroup_completes h.1 he
  exact ⟨t, ht, hcores, hgroup, by rw [Moved, hg, movePath_paths]⟩

/-- Settles O14: EXIT ends its block or may complete the block's barriers, which release paths alone (`releasedAt_exitBarriers`);
a rotation makes the next path current (`rotateGroup_of_current`). -/
theorem exitAndRotationComplete : Obligations.ExitAndRotationComplete :=
  ⟨fun _ _ _ h hact hmay hleft => exit_last_completes h hact hmay hleft,
    fun _ _ _ h hact hmay hleft => exit_completes h hact hmay hleft, fun _ _ _ h => yield_completes h,
    fun _ _ _ _ hg => groupRotate_completes hg, fun _ _ _ h hact => exit_idle_completes h hact⟩

end Sys2Proof.Machine
end

section
/-! Shared local memory (R161, R180 to R183): bytes after the stores of one instruction, registers after a load of any size, and the
loads, stores and atomics that complete. -/

namespace Sys2Proof.Machine

/-! ### Stores of one instruction -/

/-- The last store of an instruction, and those before it. -/
theorem slmByte_slmStore_concat (b : Block) (ws : List (Nat × List Byte)) (w : Nat × List Byte) (x : Nat) :
    slmByte (slmStore b (ws ++ [w])) x =
      if w.1 ≤ x ∧ x < w.1 + w.2.length then w.2.getD (x - w.1) 0 else slmByte (slmStore b ws) x := by
  simp only [slmByte, slmStore, List.foldl_append, List.foldl_cons, List.foldl_nil]
  exact alGet_foldl_range _ _ _ _ _ _

/-- Stores that miss a byte leave it as those before them did. -/
theorem slmByte_slmStore_append {b : Block} {ws : List (Nat × List Byte)} {x : Nat} (later : List (Nat × List Byte))
    (h : ∀ w ∈ later, x < w.1 ∨ w.1 + w.2.length ≤ x) : slmByte (slmStore b (ws ++ later)) x = slmByte (slmStore b ws) x := by
  induction later using List.reverseRecOn with
  | nil => rw [List.append_nil]
  | append_singleton r w ih =>
    have hw := h w (by simp)
    rw [← List.append_assoc, slmByte_slmStore_concat, if_neg (by omega)]
    exact ih fun v hv => h v (by simp [hv])

/-- A byte that no store of the instruction meets is as before. -/
theorem slmByte_slmStore_other {b : Block} {ws : List (Nat × List Byte)} {x : Nat}
    (h : ∀ w ∈ ws, x < w.1 ∨ w.1 + w.2.length ≤ x) : slmByte (slmStore b ws) x = slmByte b x :=
  slmByte_slmStore_append (ws := []) ws h

/-- A store whose bytes no later one meets is read back. -/
theorem slmRead_slmStore {b : Block} {ws later : List (Nat × List Byte)} {a n : Nat} {bs : List Byte} (hn : bs.length = n)
    (h : ∀ w ∈ later, w.1 + w.2.length ≤ a ∨ a + n ≤ w.1) : slmRead (slmStore b (ws ++ (a, bs) :: later)) a n = bs := by
  subst hn
  refine List.ext_getElem (by simp [slmRead]) fun k hk hk' => ?_
  simp only [slmRead, List.getElem_map, List.getElem_range]
  rw [List.append_cons, slmByte_slmStore_append later fun w hw => by have := h w hw; omega, slmByte_slmStore_concat,
    if_pos (by simp only; omega)]
  simp [hk']

/-! ### Registers of a load -/

/-- Loaded bytes with the free bytes that fill the register of a value narrower than it (log entry 21). -/
def padded (free : DWord) (bs : List Byte) : List Byte := bs ++ (leBytes 4 free.toNat).drop bs.length

/-- Sizes of accesses: less than a register, or whole registers. -/
def LoadSize (n : Nat) : Prop := n ≠ 0 ∧ (n < 4 ∨ n % 4 = 0)

theorem loadSize_accBytes {q : MemQ} (h : q.size ≤ 4) : LoadSize (accBytes q) := by
  unfold LoadSize accBytes
  interval_cases q.size <;> decide

theorem length_padded (free : DWord) {bs : List Byte} (h : LoadSize bs.length) :
    (padded free bs).length = 4 * max 1 (bs.length / 4) := by
  unfold LoadSize at h
  simp only [padded, List.length_append, List.length_drop, length_leBytes]
  omega

theorem getD_padded (free : DWord) (bs : List Byte) (k : Nat) :
    (padded free bs).getD k 0 = if k < bs.length then bs.getD k 0 else (leBytes 4 free.toNat).getD k 0 := by
  unfold padded
  split
  next h => rw [List.getD_append _ _ _ _ h]
  next h =>
    rw [List.getD_append_right _ _ _ _ (by omega), List.getD_eq_getElem?_getD, List.getElem?_drop,
      Nat.add_sub_cancel' (by omega), List.getD_eq_getElem?_getD]

/-- A load of any size writes the words of its padded bytes. -/
theorem writeLoaded_padded (free : DWord) (g : Group) (d lane : Nat) {bs : List Byte} (h : LoadSize bs.length) :
    writeLoaded free g d lane bs.length 0 bs =
      writeLoaded free g d lane (4 * max 1 (bs.length / 4)) 0 (padded free bs) := by
  have hlen := length_padded free h
  obtain ⟨hne, hlt | hmod⟩ := h
  · have hwords : max 1 (bs.length / 4) = 1 := by omega
    rw [hwords] at hlen ⊢
    simp only [writeLoaded, hwords, hlen]
    refine List.foldl_ext _ _ _ fun g w hw => ?_
    obtain rfl : w = 0 := by simpa using hw
    have hbytes : ∀ f : Nat → Byte, (List.range 4).map (fun k =>
        if decide (0 ≤ 4 * 0 + k) && decide (4 * 0 + k < 0 + bs.length) then bs.getD (4 * 0 + k - 0) 0
        else if bs.length ≤ 4 * 0 + k then (leBytes 4 free.toNat).getD k 0 else f k) =
          (List.range 4).map (fun k => (padded free bs).getD k 0) := fun f => by
      refine List.map_congr_left fun k _ => ?_
      rw [getD_padded]
      by_cases hin : k < bs.length
      · simp [hin]
      · simp [hin, Nat.le_of_not_lt hin]
    rw [hbytes]
    rfl
  · have hpad : padded free bs = bs := by
      rw [padded, List.drop_eq_nil_of_le (by rw [length_leBytes]; omega), List.append_nil]
    rw [hpad, show 4 * max 1 (bs.length / 4) = bs.length by omega]

/-- The registers of each of some lanes hold the bytes that the lanes have loaded. -/
theorem regBytes_loaded {c : Ctx} {t : State} (free : DWord) (v : Nat) {n : Nat} (hn : LoadSize n) {bytes : Nat → List Byte}
    (hb : ∀ l, (bytes l).length = n) {ls : List Nat} (hls : ∀ l ∈ ls, l < 32) {g : Group}
    (hregs : (c.seen t).g.regs = (loadLanes free v n bytes ls g).regs) : ∀ l ∈ ls, regBytes (c.seen t) v l n = bytes l := by
  intro l hl
  have hpad : ∀ l, (padded free (bytes l)).length = 4 * max 1 (n / 4) := fun l => by
    rw [length_padded free (by rwa [hb l]), hb l]
  have hwhole : loadLanes free v n bytes ls g = loadLanes free v (4 * max 1 (n / 4)) (fun l => padded free (bytes l)) ls g := by
    refine List.foldl_ext _ _ _ fun g l _ => ?_
    have := writeLoaded_padded free g v l (bs := bytes l) (by rwa [hb l])
    rwa [hb l] at this
  have hwords : ∀ w ∈ List.range (max 1 (n / 4)),
      leBytes 4 (vReg (c.seen t) (v + w) l).toNat = leBytes 4 (loadedWord (padded free (bytes l)) w).toNat := by
    intro w hw
    rw [vReg, hregs, hwhole, alGet_loadLanes _ _ _ (List.mem_range.mp hw) (hls l hl) hpad _ hls, if_pos hl]
  rw [regBytes, List.flatMap_congr hwords, flatMap_loadedWord (hpad l), padded]
  exact List.take_left' (hb l)

/-! ### Loads -/

/-- A value narrower than a register may take a free value. -/
theorem ite_takeFree (p : Prop) [Decidable p] (s : State) :
    ∃ free n, (if p then takeFree s else (0, s)) = (free, { s with freeCtr := n }) := by
  split
  · exact ⟨_, _, rfl⟩
  · exact ⟨_, s.freeCtr, rfl⟩

theorem onlyCores_slmCount {s t : State} (h : OnlyCores s t) (c : Ctx) (passes n : Nat) :
    OnlyCores s { slmCount t c passes with freeCtr := n } := by
  unfold OnlyCores at h ⊢
  rw [slmCount, ctrAdd_dbg, h]

theorem slmCount_mem (s : State) (c : Ctx) (passes : Nat) : (slmCount s c passes).mem = s.mem := by
  rw [slmCount, ctrAdd_dbg]

section
variable {s : State} {i : Iss} {c : Ctx} {q : MemQ} {a : Opd} {dst : List Nat} {narrow : List Opd} (hslm : q.slm = true)
include hslm

/-- The operands of an access of shared local memory name its address as one word. -/
theorem issues_slm (h : Issues s i c dst ([a] ++ narrow) []) : Issues s i c dst (addrNarrow q a ++ narrow) (addrWide q a) := by
  rwa [addrNarrow, addrWide, if_pos hslm, if_pos hslm]

/-- A load that meets no matrix instruction, no fault and no poison gives each active lane the bytes at its address. -/
theorem ld_slm_completes {v : Nat} (hsize : q.size ≤ 4)
    (h : Issues s i c ((spanOpds (.v v) (accBytes q)).flatMap (vRegs false)) [a] [])
    (hclash : mmaClash c.x c.slot true (c.act.map (fun l => (addrOf c q a l, accBytes q))) = false)
    (hfault : slmFault c q a = none) (hpoison : c.act.any (fun l => slmBad c.b (addrOf c q a l) (accBytes q)) = false) :
    ∃ t, exec (.ld i q (.v v) a) s = .next t ∧ Moved c t c.next ∧ OnlyCores s t ∧ OnlyGroup s t i.core i.slot ∧
      ∀ l ∈ c.act, regBytes (c.seen t) v l (accBytes q) = slmRead c.b (addrOf c q a l) (accBytes q) := by
  obtain ⟨free, n, hfree⟩ := ite_takeFree (q.size < 2)
    (slmCount (issued s i c) c (slmPasses (accBytes q) (c.act.map (fun l => (l, addrOf c q a l)))))
  have he : exec (.ld i q (.v v) a) s = completes s (putGroup { slmCount (issued s i c) c
        (slmPasses (accBytes q) (c.act.map (fun l => (l, addrOf c q a l)))) with freeCtr := n } c
      (movePath c (loadLanes free v (accBytes q) (fun l => slmRead c.b (addrOf c q a l) (accBytes q)) c.act c.g) c.next)) := by
    refine congrArg (completes s) ((issueWith_issues (by simpa using issues_slm (narrow := []) hslm h) _).trans ?_)
    simp only [hslm, hclash, hfault, hpoison, hfree, Bool.false_eq_true, if_false, if_true]
    rfl
  obtain ⟨t, ht, hcores, hgroup, hg⟩ := putGroup_completes_of h.1 (onlyCores_slmCount (.issued s i c) c _ n)
    (fun k => coreOf_ctrAdd _ _ _ _ _ k) he
  refine ⟨t, ht, by rw [Moved, hg, movePath_paths, loadLanes_paths], hcores, hgroup, ?_⟩
  exact regBytes_loaded free v (loadSize_accBytes hsize) (fun l => by simp [slmRead]) (act_lt h.1)
    (by rw [hg, movePath_regs])

end

/-! ### Stores -/

/-- Accesses of one size at different multiples of it do not overlap. -/
theorem apart_of_aligned {n a b : Nat} (ha : a % n = 0) (hb : b % n = 0) (hne : a ≠ b) : a + n ≤ b ∨ b + n ≤ a := by
  obtain ⟨x, rfl⟩ := Nat.dvd_of_mod_eq_zero ha
  obtain ⟨y, rfl⟩ := Nat.dvd_of_mod_eq_zero hb
  have hxy : x ≠ y := fun h => hne (by rw [h])
  rcases Nat.lt_or_gt_of_ne hxy with h | h
  · exact .inl (Nat.mul_le_mul_left n h)
  · exact .inr (Nat.mul_le_mul_left n h)

/-- The lanes that take part are listed in ascending order. -/
theorem pairwise_act {s : State} {i : Iss} {c : Ctx} (hi : issue s i = some c) : c.act.Pairwise (· < ·) :=
  (List.pairwise_lt_range.filter _).sublist (act_sublist hi)

/-- The lanes of an access that does not fault are aligned. -/
theorem aligned_of_slmFault {c : Ctx} {q : MemQ} {a : Opd} (h : slmFault c q a = none) :
    ∀ l ∈ c.act, addrOf c q a l % accBytes q = 0 := by
  intro l hl
  by_contra hne
  have hany : c.act.any (fun l => addrOf c q a l % accBytes q != 0) = true :=
    List.any_eq_true.mpr ⟨l, hl, by simpa using hne⟩
  simp [slmFault, hany] at h

/-- The stores of an instruction's lanes, in ascending order. -/
def laneStores (c : Ctx) (q : MemQ) (a b : Opd) : List (Nat × List Byte) :=
  c.act.map (fun l => (addrOf c q a l, opdBytes c b (accBytes q) l))

/-- What the bytes of a lane are after the stores of an instruction: its own, unless a later lane stores there. -/
theorem slmRead_laneStores {c : Ctx} {q : MemQ} {a b : Opd} (hsorted : c.act.Pairwise (· < ·)) (hfault : slmFault c q a = none)
    (hlen : ∀ l ∈ c.act, (opdBytes c b (accBytes q) l).length = accBytes q) {l : Nat} (hl : l ∈ c.act)
    (hlast : ∀ k ∈ c.act, l < k → addrOf c q a k ≠ addrOf c q a l) :
    slmRead (slmStore c.b (laneStores c q a b)) (addrOf c q a l) (accBytes q) = opdBytes c b (accBytes q) l := by
  obtain ⟨before, later, hact⟩ := List.append_of_mem hl
  have hlater : ∀ k ∈ later, k ∈ c.act ∧ l < k := fun k hk => by
    rw [hact] at hsorted ⊢
    have hcons := (List.pairwise_append.mp hsorted).2.1
    exact ⟨by simp [hk], (List.pairwise_cons.mp hcons).1 k hk⟩
  rw [laneStores, hact, List.map_append, List.map_cons]
  refine slmRead_slmStore (hlen l hl) fun w hw => ?_
  obtain ⟨k, hk, rfl⟩ := List.mem_map.mp hw
  obtain ⟨hka, hlt⟩ := hlater k hk
  have halign := aligned_of_slmFault hfault
  rw [hlen k hka]
  exact apart_of_aligned (halign k hka) (halign l hl) (hlast k hka hlt)

/-- The block that a context puts back is on its core when the path has moved on. -/
theorem alFind_advance_putBlock (s : State) (c : Ctx) (b : Block) (g : Group) :
    alFind (execOf (advance (putBlock s c b) c g) c.core).blocks c.g.block = some b := by
  simp [advance, putGroup, putBlock]

section
variable {s : State} {i : Iss} {c : Ctx} {q : MemQ} {a b : Opd} (hslm : q.slm = true)
include hslm

/-- A store that meets no matrix instruction and no fault leaves its lanes' bytes. -/
theorem st_slm_completes (h : Issues s i c [] ([a] ++ spanOpds b (accBytes q)) [])
    (hclash : mmaClash c.x c.slot true (c.act.map (fun l => (addrOf c q a l, accBytes q))) = false)
    (hahead : readAhead c.x c.slot true (c.act.map (fun l => (addrOf c q a l, accBytes q))) = false)
    (hfault : slmFault c q a = none) (hlen : ∀ l ∈ c.act, (opdBytes c b (accBytes q) l).length = accBytes q) :
    ∃ t b', exec (.st i q a b) s = .next t ∧ Moved c t c.next ∧ t.mem = s.mem ∧
      alFind (execOf t i.core).blocks c.g.block = some b' ∧
      (∀ x, (∀ l ∈ c.act, x < addrOf c q a l ∨ addrOf c q a l + accBytes q ≤ x) → slmByte b' x = slmByte c.b x) ∧
      (∀ l ∈ c.act, (∀ k ∈ c.act, l < k → addrOf c q a k ≠ addrOf c q a l) →
        slmRead b' (addrOf c q a l) (accBytes q) = opdBytes c b (accBytes q) l) := by
  obtain ⟨hcore, -⟩ := issue_some h.1
  have he : exec (.st i q a b) s = completes s (advance (putBlock (slmCount (issued s i c) c
      (slmPasses (accBytes q) (c.act.map (fun l => (l, addrOf c q a l))))) c (slmStore c.b (laneStores c q a b))) c c.g) := by
    refine congrArg (completes s) ((issueWith_issues (issues_slm hslm h) _).trans ?_)
    simp only [hslm, hclash, hahead, hfault, Bool.or_self, Bool.false_eq_true, if_false, if_true]
    rfl
  refine ⟨_, slmStore c.b (laneStores c q a b), he, moved_advance _ rfl, (slmCount_mem _ _ _).trans (issued_mem s i c), ?_,
    fun x hx => slmByte_slmStore_other fun w hw => ?_,
    fun l hl hlast => slmRead_laneStores (pairwise_act h.1) hfault hlen hl hlast⟩
  · rw [← hcore]
    exact alFind_advance_putBlock _ c _ c.g
  · obtain ⟨l, hl, rfl⟩ := List.mem_map.mp hw
    rw [hlen l hl]
    exact hx l hl

end

/-! ### Atomics (R172, R183) -/

/-- An atomic that writes nothing leaves the old value. -/
theorem atomNew_kept {op : AtomOp} {n old b c : Nat} (h : (atomNew op n old b c).2 = false) : (atomNew op n old b c).1 = old := by
  cases op with
  | cas =>
    simp only [atomNew] at h ⊢
    split at h
    · cases h
    next hne => rw [if_neg hne]
  | _ => cases h

/-- The block after an atomic of one lane on `n` bytes at `x`. -/
def slmAtom (blk : Block) (op : AtomOp) (n x b c : Nat) : Block :=
  if (atomNew op n (leNat (slmRead blk x n)) b c).2 then
    slmWrite blk x (leBytes n (atomNew op n (leNat (slmRead blk x n)) b c).1)
  else blk

theorem leBytes_leNat_slmRead (blk : Block) (x n : Nat) : leBytes n (leNat (slmRead blk x n)) = slmRead blk x n := by
  have := leBytes_leNat (slmRead blk x n)
  rwa [show (slmRead blk x n).length = n by simp [slmRead]] at this

/-- Its bytes are those of the new value. -/
theorem slmRead_slmAtom (blk : Block) (op : AtomOp) (n x b c : Nat) : slmRead (slmAtom blk op n x b c) x n =
    leBytes n (atomNew op n (leNat (slmRead blk x n)) b c).1 := by
  unfold slmAtom
  split
  · have := slmRead_slmWrite blk x (leBytes n (atomNew op n (leNat (slmRead blk x n)) b c).1)
    rwa [length_leBytes] at this
  next hkept => rw [atomNew_kept (by simpa using hkept), leBytes_leNat_slmRead]

/-- The old value of an atomic of one lane is loaded into its group. -/
theorem atomReturn_spec {s : State} {core slot : Nat} {g : Group} (d n l old : Nat)
    (hg : alFind (execOf s core).groups slot = some g) :
    let t := atomReturn s core slot (some d) n [(l, old)]
    t.mem = s.mem ∧ (execOf t core).blocks = (execOf s core).blocks ∧
      ∃ free, alFind (execOf t core).groups slot = some (loadLanes free d n (fun _ => leBytes n old) [l] g) := by
  obtain ⟨free, m, hfree⟩ := ite_takeFree (n < 4) s
  have hg' : alFind (execOf { s with freeCtr := m } core).groups slot = some g := hg
  simp only [atomReturn, hfree, execOf_modExec, hg']
  exact ⟨rfl, rfl, free, alFind_alPut_self _ _ _⟩

section
variable {s : State} {i : Iss} {c : Ctx} {q : MemQ} {a b e : Opd}

/-- The block of the context after an atomic of its lane `l`. -/
def atomBlock (c : Ctx) (q : MemQ) (a b e : Opd) (l : Nat) : Block :=
  slmAtom c.b q.op (accBytes q) (addrOf c q a l) ((opdLane64 c b l).toNat % 2 ^ (8 * accBytes q))
    ((opdLane64 c e l).toNat % 2 ^ (8 * accBytes q))

/-- The state in which the atomic of lane `l` has stored its new value and its path has moved on. -/
def atomStored (s : State) (i : Iss) (c : Ctx) (q : MemQ) (a b e : Opd) (l : Nat) : State :=
  putBlock (advance (slmCount (issued s i c) c (slmPasses (accBytes q) [(l, addrOf c q a l)] +
    if q.op = .cas ∨ q.op = .exch then slmRepeats [(l, addrOf c q a l)] else 0)) c c.g) c (atomBlock c q a b e l)

theorem atomStored_spec (s : State) (i : Iss) (c : Ctx) (q : MemQ) (a b e : Opd) (l : Nat) :
    (atomStored s i c q a b e l).mem = s.mem ∧
      alFind (execOf (atomStored s i c q a b e l) c.core).groups c.slot = some (movePath c c.g c.next) ∧
      alFind (execOf (atomStored s i c q a b e l) c.core).blocks c.g.block = some (atomBlock c q a b e l) := by
  refine ⟨(slmCount_mem _ _ _).trans (issued_mem s i c), ?_, ?_⟩ <;> simp [atomStored, advance, putGroup, putBlock]

variable (hslm : q.slm = true)
include hslm

theorem exec_atom_slm {v l : Nat} (horder : q.order = .none) (hact : c.act = [l])
    (h : Issues s i c ((spanOpds (.v v) (accBytes q)).flatMap (vRegs false))
      ([a] ++ spanOpds b (min 8 (accBytes q)) ++ spanOpds e (min 8 (accBytes q))) [])
    (hclash : mmaClash c.x c.slot true [(addrOf c q a l, accBytes q)] = false)
    (hahead : readAhead c.x c.slot true [(addrOf c q a l, accBytes q)] = false) (hfault : slmFault c q a = none)
    (hpoison : slmBad c.b (addrOf c q a l) (accBytes q) = false) :
    exec (.atom i q (.v v) a b e) s = completes s (atomReturn (atomStored s i c q a b e l) c.core c.slot (some v) (accBytes q)
      [(l, leNat (slmRead c.b (addrOf c q a l) (accBytes q)))]) := by
  have h' := issues_slm (narrow := spanOpds b (min 8 (accBytes q)) ++ spanOpds e (min 8 (accBytes q))) hslm
    (by simpa only [List.append_assoc] using h)
  rw [← List.append_assoc] at h'
  refine congrArg (completes s) ((issueWith_issues h' _).trans ?_)
  simp only [hslm, hact, List.map_cons, List.map_nil, List.any_cons, List.any_nil, hclash, hahead, hfault, hpoison, horder,
    Bool.or_self, Bool.or_false, Bool.false_eq_true, if_false, if_true]
  rfl

/-- An atomic of one lane returns the old value and stores the new one. -/
theorem atom_slm_completes {v l : Nat} (hsize : q.size ≤ 3) (horder : q.order = .none) (hact : c.act = [l])
    (h : Issues s i c ((spanOpds (.v v) (accBytes q)).flatMap (vRegs false))
      ([a] ++ spanOpds b (min 8 (accBytes q)) ++ spanOpds e (min 8 (accBytes q))) [])
    (hclash : mmaClash c.x c.slot true [(addrOf c q a l, accBytes q)] = false)
    (hahead : readAhead c.x c.slot true [(addrOf c q a l, accBytes q)] = false) (hfault : slmFault c q a = none)
    (hpoison : slmBad c.b (addrOf c q a l) (accBytes q) = false) :
    ∃ t b', exec (.atom i q (.v v) a b e) s = .next t ∧ t.mem = s.mem ∧
      alFind (execOf t i.core).blocks c.g.block = some b' ∧
      regBytes (c.seen t) v l (accBytes q) = slmRead c.b (addrOf c q a l) (accBytes q) ∧
      slmRead b' (addrOf c q a l) (accBytes q) = leBytes (accBytes q) (atomNew q.op (accBytes q)
        (leNat (slmRead c.b (addrOf c q a l) (accBytes q))) ((opdLane64 c b l).toNat % 2 ^ (8 * accBytes q))
        ((opdLane64 c e l).toNat % 2 ^ (8 * accBytes q))).1 := by
  obtain ⟨hcore, -⟩ := issue_some h.1
  have he := exec_atom_slm hslm horder hact h hclash hahead hfault hpoison
  obtain ⟨hmem, hgroup, hblock⟩ := atomStored_spec s i c q a b e l
  obtain ⟨hmem', hblocks, free, hg⟩ :=
    atomReturn_spec v (accBytes q) l (leNat (slmRead c.b (addrOf c q a l) (accBytes q))) hgroup
  refine ⟨_, atomBlock c q a b e l, he, hmem'.trans hmem, ?_, ?_, slmRead_slmAtom ..⟩
  · rw [← hblocks] at hblock
    rw [← hcore]
    exact hblock
  · have hregs := regBytes_loaded (c := c) free v (loadSize_accBytes (q := q) (by omega)) (fun _ => length_leBytes _ _)
      (ls := [l]) (by simpa using act_lt h.1 l (by simp [hact])) (congrArg Group.regs (seen_of_alFind hg)) l (by simp)
    rw [leBytes_leNat_slmRead] at hregs
    exact hregs

end

/-- Settles O16: what each instruction does to its block's bytes (`slmRead_laneStores`, `slmRead_slmAtom`) and to its lanes'
registers (`regBytes_loaded`). -/
theorem sharedLocalMemoryCompletes : Obligations.SharedLocalMemoryCompletes := by
  refine ⟨fun i q d a s c hslm hsize h hclash hfault hpoison => ld_slm_completes hslm hsize h hclash hfault hpoison,
    fun i q a b s c hslm _ h hclash hahead hfault hlen => st_slm_completes hslm h hclash hahead hfault hlen, ?_⟩
  intro i q d a b e s c l hslm hsize horder hact h hclash hahead hfault hpoison
  exact atom_slm_completes hslm hsize horder hact h hclash hahead hfault hpoison

end Sys2Proof.Machine
end

section
/-! Accesses that fault at issue (R180, R199, R286): alignment and range in shared local memory, mapping, permission and an atomic's
alignment in device memory. -/

namespace Sys2Proof.Machine

/-! ### Shared local memory -/

/-- Alignment is tested before the range. -/
theorem slmFault_of_lanes {c : Ctx} {q : MemQ} {a : Opd} {f : DevFault}
    (h : (∃ l ∈ c.act, addrOf c q a l % accBytes q ≠ 0) ∧ f = .slmAlign ∨
      (∀ l ∈ c.act, addrOf c q a l % accBytes q = 0) ∧
        (∃ l ∈ c.act, c.b.task.slmKib * 1024 < addrOf c q a l + accBytes q) ∧ f = .slmRange) : slmFault c q a = some f := by
  rcases h with ⟨⟨l, hl, hbad⟩, rfl⟩ | ⟨halign, ⟨l, hl, hbeyond⟩, rfl⟩
  · exact if_pos (List.any_eq_true.mpr ⟨l, hl, by simpa using hbad⟩)
  · have hnone : ¬ c.act.any (fun l => addrOf c q a l % accBytes q != 0) = true := by simpa using halign
    exact (if_neg hnone).trans (if_pos (List.any_eq_true.mpr ⟨l, hl, by simpa using hbeyond⟩))

section
variable {s : State} {i : Iss} {c : Ctx} {q : MemQ} {d a b : Opd} {f : DevFault}

theorem ld_slm_faults (hslm : q.slm = true)
    (hclash : mmaClash c.x c.slot true (c.act.map (fun l => (addrOf c q a l, accBytes q))) = false)
    (hfault : slmFault c q a = some f) (h : Issues s i c ((spanOpds d (accBytes q)).flatMap (vRegs false)) [a] []) :
    ∃ t, exec (.ld i q d a) s = .next t ∧ Faulted c s t f := by
  refine faults_at_issue h.1 (congrArg (completes s)
    ((issueWith_issues (by simpa using issues_slm (narrow := []) hslm h) _).trans ?_))
  simp only [hslm, hclash, hfault, Bool.false_eq_true, if_false, if_true]

theorem st_slm_faults (hslm : q.slm = true)
    (hclash : mmaClash c.x c.slot true (c.act.map (fun l => (addrOf c q a l, accBytes q))) = false)
    (hfault : slmFault c q a = some f) (h : Issues s i c [] ([a] ++ spanOpds b (accBytes q)) [])
    (hahead : readAhead c.x c.slot true (c.act.map (fun l => (addrOf c q a l, accBytes q))) = false) :
    ∃ t, exec (.st i q a b) s = .next t ∧ Faulted c s t f := by
  refine faults_at_issue h.1 (congrArg (completes s) ((issueWith_issues (issues_slm hslm h) _).trans ?_))
  simp only [hslm, hclash, hahead, hfault, Bool.or_self, Bool.false_eq_true, if_false, if_true]

/-! ### Device memory -/

/-- The first piece of a lane's access lies at its address. -/
theorem chunksOf_eq_cons (va : Nat) {n : Nat} (hn : n ≠ 0) :
    ∃ k rest, chunksOf va n = (va / 128 * 128, va % 128, k) :: rest :=
  ⟨_, _, by rw [chunksOf, chunks, if_neg hn]⟩

/-- An address that leads nowhere has a piece that leads nowhere. -/
theorem none_mem_lanePieces {tenant va n : Nat} {need : Right} (lane : Nat) (hn : n ≠ 0) (h : translate s tenant va need = none) :
    none ∈ lanePieces s tenant need lane va n := by
  obtain ⟨k, rest, hchunks⟩ := chunksOf_eq_cons va hn
  rw [lanePieces, hchunks, List.foldl_cons]
  refine foldl_related (R := fun x y : Nat × List (Option Piece) => none ∈ x.2 → none ∈ y.2) (fun _ h => h)
    (fun h h' hx => h' (h hx)) (fun _ _ hx => List.mem_append_left _ hx) _ _ ?_
  simp [Nat.div_add_mod', h]

/-- The pieces of lanes of which one has no mapping with the permission that the access needs. -/
theorem allPieces_unmapped {tenant n : Nat} {need : Right} {as : List (Nat × Nat)} (hn : n ≠ 0)
    (h : ∃ e ∈ as, translate s tenant e.2 need = none) : allPieces s tenant need as n = .error .memAccess := by
  obtain ⟨e, he, hnone⟩ := h
  exact if_pos (List.any_eq_true.mpr ⟨none, List.mem_flatMap.mpr ⟨e, he, none_mem_lanePieces e.1 hn hnone⟩, rfl⟩)

theorem translate_issued (s : State) (i : Iss) (c : Ctx) (tenant va : Nat) (need : Right) :
    translate (issued s i c) tenant va need = translate s tenant va need := by
  refine SameSpace.translate_eq ⟨?_, ?_, ?_⟩ tenant va need <;> rw [issued_cores]

theorem accBytes_ne_zero (q : MemQ) : accBytes q ≠ 0 := (Nat.two_pow_pos _).ne'

/-- The pieces of an access at issue of which one active lane's has no mapping. -/
theorem allPieces_issued {need : Right} (h : ∃ l ∈ c.act, translate s c.b.task.tenant (addrOf c q a l) need = none) :
    allPieces (issued s i c) c.b.task.tenant need (c.act.map (fun l => (l, addrOf c q a l))) (accBytes q) = .error .memAccess := by
  obtain ⟨l, hl, hnone⟩ := h
  exact allPieces_unmapped (accBytes_ne_zero q) ⟨_, List.mem_map_of_mem hl, by rw [translate_issued, hnone]⟩

theorem noteFault_memAccess (s : State) (tenant : Nat) (ps : List (Option Target)) : noteFault s tenant ps .memAccess = s := rfl

variable (hdev : q.slm = false)
include hdev

/-- The operands of an access of device memory name its address as a pair. -/
theorem issues_device {dst : List Nat} {narrow : List Opd} (h : Issues s i c dst narrow [a]) :
    Issues s i c dst (addrNarrow q a ++ narrow) (addrWide q a) := by
  rwa [addrNarrow, addrWide, if_neg (by simp [hdev]), if_neg (by simp [hdev])]

variable (hclash : mmaClash c.x c.slot false (c.act.map (fun l => (addrOf c q a l, accBytes q))) = false)
include hclash

theorem ld_device_faults (hmap : ∃ l ∈ c.act, translate s c.b.task.tenant (addrOf c q a l) .r = none)
    (h : Issues s i c ((spanOpds d (accBytes q)).flatMap (vRegs false)) [] [a]) :
    ∃ t, exec (.ld i q d a) s = .next t ∧ Faulted c s t .memAccess := by
  refine faults_at_issue h.1 (congrArg (completes s)
    ((issueWith_issues (by simpa using issues_device (narrow := []) hdev h) _).trans ?_))
  simp only [hdev, hclash, allPieces_issued hmap, noteFault_memAccess, Bool.false_eq_true, if_false]

variable (hahead : readAhead c.x c.slot false (c.act.map (fun l => (addrOf c q a l, accBytes q))) = false)
include hahead

theorem st_device_faults (hmap : ∃ l ∈ c.act, translate s c.b.task.tenant (addrOf c q a l) .w = none)
    (h : Issues s i c [] (spanOpds b (accBytes q)) [a]) :
    ∃ t, exec (.st i q a b) s = .next t ∧ Faulted c s t .memAccess := by
  refine faults_at_issue h.1 (congrArg (completes s) ((issueWith_issues (issues_device hdev h) _).trans ?_))
  simp only [hdev, hclash, hahead, allPieces_issued hmap, noteFault_memAccess, Bool.or_self, Bool.false_eq_true, if_false]

theorem atom_device_faults {e : Opd} (hbad : (∃ l ∈ c.act, addrOf c q a l % accBytes q ≠ 0) ∨
      (∃ l ∈ c.act, translate s c.b.task.tenant (addrOf c q a l) .a = none))
    (h : Issues s i c ((spanOpds d (accBytes q)).flatMap (vRegs false))
      (spanOpds b (min 8 (accBytes q)) ++ spanOpds e (min 8 (accBytes q))) [a]) :
    ∃ t, exec (.atom i q d a b e) s = .next t ∧ Faulted c s t .memAccess := by
  have h' := issues_device hdev h
  rw [← List.append_assoc] at h'
  refine faults_at_issue h.1 (congrArg (completes s) ((issueWith_issues h' _).trans ?_))
  simp only [hdev, hclash, hahead, Bool.or_self, Bool.false_eq_true, if_false]
  by_cases halign : (c.act.map (fun l => (l, addrOf c q a l))).any (fun x => x.2 % accBytes q != 0) = true
  · rw [if_pos halign]
  · have hmap := hbad.resolve_left fun ⟨l, hl, hne⟩ =>
      halign (List.any_eq_true.mpr ⟨_, List.mem_map_of_mem hl, by simpa using hne⟩)
    simp only [if_neg halign, allPieces_issued hmap, noteFault_memAccess]

end

/-- Settles O18: each access finds its fault before it changes anything (`slmFault_of_lanes`, `allPieces_issued`), so that the
fault is precise (`faults_at_issue`). -/
theorem memoryAccessesFault : Obligations.MemoryAccessesFault := by
  refine ⟨fun i q d a b s c f hslm hclash hf => ?_, fun i q d a b e s c hdev _ hclash => ?_⟩
  · have hfault := slmFault_of_lanes hf
    exact ⟨ld_slm_faults hslm hclash hfault, st_slm_faults hslm hclash hfault⟩
  · exact ⟨ld_device_faults hdev hclash, fun hmap h hahead => st_device_faults hdev hclash hahead hmap h,
      fun hbad h hahead => atom_device_faults hdev hclash hahead hbad h⟩

end Sys2Proof.Machine
end

section
/-! Tile instructions (R180, R194, R196, R197): registers of the rows that are read, bytes of a row that is stored, and what each
instruction leaves of its group. -/

namespace Sys2Proof.Machine

/-! ### Optional units under a descriptor's read (R5) -/

theorem Accesses.units {s t : State} (h : Accesses s t) : t.units = s.units := (congrArg State.units h.apart :)

theorem l1Fill_units (s : State) (c part tenant : Nat) (t : Target) (h : Hint) (d : Line) (st : BitVec 24) (p : BitVec 2) :
    (l1Fill s c part tenant t h d st p).units = s.units := by
  simp only [l1Fill]
  split
  · rfl
  split
  · rfl
  split
  · rfl
  split
  · rfl
  split
  · rfl
  · exact (accesses_ccBump _ _ _ _ _ _).units

theorem pathLine_units (s : State) (c part tenant : Nat) (t : Target) (h : Hint) :
    (pathLine s c part tenant t h).2.units = s.units := by
  simp only [pathLine]
  split
  · rfl
  split
  · rfl
  cases t with
  | loc pa =>
    dsimp only
    split
    · rfl
    · exact (l1Fill_units ..).trans (accesses_homeRead _ _ _ _ _ _).units
  | host a =>
    dsimp only
    split
    · rfl
    next pz _ =>
      have hxlat := (offSlices_hostXlat s tenant pz a false).units
      split <;> rename_i he <;> rw [he] at hxlat
      · exact hxlat
      · exact hxlat
      next ha u =>
        have hbytes := (offSlices_hostBytes u ha 128).units.trans hxlat
        split <;> rename_i he <;> rw [he] at hbytes
        · exact (l1Fill_units ..).trans hbytes
        · exact hbytes
        · exact hbytes
  | remote pk a =>
    have hbytes := (offSlices_remoteBytes s (c / 192) tenant pk a 128).units
    dsimp only
    split <;> rename_i he <;> rw [he] at hbytes
    · exact (l1Fill_units ..).trans hbytes
    · exact hbytes
    · exact hbytes

theorem pathReadChunks_units (c part tenant : Nat) (h : Hint) (ls : List (Nat × Nat × Nat)) (s : State) (acc : List Byte) :
    (pathReadChunks c part tenant h ls s acc).2.units = s.units := by
  induction ls generalizing s acc with
  | nil => rfl
  | cons l r ih =>
    obtain ⟨va, off, n⟩ := l
    simp only [pathReadChunks]
    split
    · rfl
    next t _ =>
      have hline := pathLine_units s c part tenant t.line h
      split <;> rename_i he <;> rw [he] at hline
      · split
        · exact hline
        · exact (ih _ _).trans hline
      · exact hline
      · exact hline

/-- Reading a descriptor leaves the optional units. -/
theorem readDesc_units (s : State) (c : Ctx) (u : Nat) (fmt : Bool) : (readDesc s c u fmt).2.units = s.units := by
  have hread : (descRead s c (uReg64 c u)).2.units = s.units := by
    simp only [descRead]
    split
    · rfl
    · exact pathReadChunks_units _ _ _ _ _ _ _
  simp only [readDesc]
  split
  · rfl
  split
  next he =>
    rw [he] at hread
    split <;> exact hread
  · exact hread

@[simp] theorem issued_units (s : State) (i : Iss) (c : Ctx) : (issued s i c).units = s.units := by rw [issued_cores]

/-- FP64 elements find the lanes that the part had when the instruction issued. -/
theorem f64_present {s s1 : State} {i : Iss} {c : Ctx} {u fmt : Nat} {r : Acc (List Byte)}
    (hr : readDesc (issued s i c) c u true = (r, s1)) (h : fmt = 14 → s.units.testBit 2 = true) :
    (fmt == 14 && f64Absent s1) = false := by
  have hu := readDesc_units (issued s i c) c u true
  rw [hr, issued_units] at hu
  by_cases hfmt : fmt = 14
  · have hbit : s1.units.testBit 2 = true := (congrArg (Nat.testBit · 2) hu).trans (h hfmt)
    simp [f64Absent, hbit]
  · simp [hfmt]

/-! ### Handles (R194) -/

@[simp] theorem setHandle_paths (g : Group) (t : Nat) (b : List Byte) (v : Nat) : (setHandle g t b v).paths = g.paths := rfl

/-- A path that moves on after a handle was written has that handle, and every other as before. -/
theorem handles_advance_setHandle (s : State) (c : Ctx) (t : Nat) (b : List Byte) (v : Nat) :
    alFind (c.seen (advance s c (setHandle c.g t b v))).g.handles t = some { bytes := b, version := v } ∧
      ∀ k, k ≠ t → alFind (c.seen (advance s c (setHandle c.g t b v))).g.handles k = alFind c.g.handles k := by
  simp only [seen_advance, movePath_handles]
  exact ⟨alFind_alPut_self _ _ _, fun k hk => alFind_alPut_other _ _ _ _ hk⟩

section
variable {s s1 : State} {i : Iss} {c : Ctx} {t u : Nat} {b : List Byte}

/-- TILE.DESC completes with the descriptor in its handle. -/
theorem tileDesc_completes (h : Issues s i c [] [.u u, .u (u + 1)] []) (hm : memReady c = true) (ha : c.act ≠ [])
    (hr : readDesc (issued s i c) c u = (.ok b, s1)) :
    ∃ r, exec (.tileDesc i t u) s = .next r ∧ Moved c r c.next ∧
      alFind (c.seen r).g.handles t = some { bytes := b, version := s1.seqNo } ∧
      ∀ k, k ≠ t → alFind (c.seen r).g.handles k = alFind c.g.handles k := by
  have he : exec (.tileDesc i t u) s =
      completes s (advance { s1 with seqNo := s1.seqNo + 1 } c (setHandle c.g t b s1.seqNo)) := by
    simp [exec, execTileDesc, issueWith_issues h, hm, ha, hr, takeSeq]
  exact ⟨_, he, moved_advance _ rfl, handles_advance_setHandle ..⟩

/-- TILE.BASE completes with the base of its handle replaced, and changes its group alone. -/
theorem tileBase_completes {d : Handle} (h : Issues s i c [] [.u u, .u (u + 1), .t t] []) (ha : c.act ≠ [])
    (ht : alFind c.g.handles t = some d) :
    ∃ r, exec (.tileBase i t u) s = .next r ∧ Moved c r c.next ∧ OnlyGroup s r i.core i.slot ∧ r.mem = s.mem ∧
      alFind (c.seen r).g.handles t = some { bytes := leBytes 8 (uReg64 c u) ++ d.bytes.drop 8, version := s.seqNo } ∧
      ∀ k, k ≠ t → alFind (c.seen r).g.handles k = alFind c.g.handles k := by
  have he : exec (.tileBase i t u) s = completes s (advance { issued s i c with seqNo := s.seqNo + 1 } c
      (setHandle c.g t (leBytes 8 (uReg64 c u) ++ d.bytes.drop 8) s.seqNo)) := by
    simp [exec, execTileBase, issueWith_issues h, ha, ht, takeSeq]
  exact ⟨_, he, moved_advance _ rfl, onlyGroup_putGroup h.1 (fun _ => rfl) _, issued_mem s i c, handles_advance_setHandle ..⟩

end

/-! ### Registers of the rows that TILE.LD reads (R197) -/

/-- A value of one of several lanes is read back from the register that they were written to. -/
theorem alGet_foldl_lanes_mem {α : Type} (d : α) (n : Nat) {vals : List (Nat × α)} (hnd : (vals.map (·.1)).Nodup)
    {e : Nat × α} (he : e ∈ vals) (m : AL α) :
    alGet d (vals.foldl (fun m e => alPut m (32 * n + e.1) e.2) m) (32 * n + e.1) = e.2 := by
  induction vals generalizing m with
  | nil => cases he
  | cons a r ih =>
    obtain ⟨ha, hr⟩ := List.nodup_cons.mp hnd
    rw [List.foldl_cons]
    rcases List.mem_cons.mp he with rfl | he
    · rw [alGet_foldl_lanes_other n _ r, alGet_alPut_self]
      intro e' he' heq
      exact ha (List.mem_map.mpr ⟨e', he', show e'.1 = e.1 by omega⟩)
    · exact ih hr he _

/-- The group after the elements of some lanes' rows were written to `n` registers from `v`. -/
def rowsLoaded (v n : Nat) (rows : List (Nat × List Nat)) (g : Group) : Group :=
  (List.range n).foldl (fun g k => setV g (v + k) (rows.map (fun e => (e.1, BitVec.ofNat 32 (e.2.getD k 0))))) g

theorem rowsLoaded_succ (v n : Nat) (rows : List (Nat × List Nat)) (g : Group) : rowsLoaded v (n + 1) rows g =
    setV (rowsLoaded v n rows g) (v + n) (rows.map (fun e => (e.1, BitVec.ofNat 32 (e.2.getD n 0)))) := by
  simp [rowsLoaded, List.range_succ]

@[simp] theorem rowsLoaded_paths (v n : Nat) (rows : List (Nat × List Nat)) (g : Group) :
    (rowsLoaded v n rows g).paths = g.paths := by
  induction n with
  | zero => rfl
  | succ n ih => rw [rowsLoaded_succ]; exact ih

@[simp] theorem rowsLoaded_birth (v n : Nat) (rows : List (Nat × List Nat)) (g : Group) :
    (rowsLoaded v n rows g).birth = g.birth := by
  induction n with
  | zero => rfl
  | succ n ih => rw [rowsLoaded_succ]; exact ih

section
variable {rows : List (Nat × List Nat)} (hlt : ∀ e ∈ rows, e.1 < 32) (x : Word) (v : Nat) (g : Group)
include hlt

/-- Writing another register leaves a register of a lane. -/
theorem alGet_setV_rows_other (f : Nat × List Nat → Word) {n k l : Nat} (hl : l < 32) (hk : k ≠ n) :
    alGet x (setV g n (rows.map (fun e => (e.1, f e)))).regs (32 * k + l) = alGet x g.regs (32 * k + l) := by
  refine alGet_foldl_lanes_other _ _ _ (fun e he => ?_) _ _
  obtain ⟨e', he', rfl⟩ := List.mem_map.mp he
  have := hlt e' he'
  dsimp only
  omega

theorem alGet_rowsLoaded_other {n k l : Nat} (hl : l < 32) (hk : k < v ∨ v + n ≤ k) :
    alGet x (rowsLoaded v n rows g).regs (32 * k + l) = alGet x g.regs (32 * k + l) := by
  induction n with
  | zero => rfl
  | succ n ih => rw [rowsLoaded_succ, alGet_setV_rows_other hlt x _ _ hl (by omega), ih (by omega)]

theorem alGet_rowsLoaded (hnd : (rows.map (·.1)).Nodup) {e : Nat × List Nat} (he : e ∈ rows) {n k : Nat} (hk : k < n) :
    alGet x (rowsLoaded v n rows g).regs (32 * (v + k) + e.1) = BitVec.ofNat 32 (e.2.getD k 0) := by
  induction n with
  | zero => cases hk
  | succ n ih =>
    rw [rowsLoaded_succ]
    by_cases hkn : k = n
    · subst hkn
      exact alGet_foldl_lanes_mem (vals := rows.map (fun e => (e.1, BitVec.ofNat 32 (e.2.getD k 0)))) x (v + k)
        (by rwa [List.map_map]) (List.mem_map.mpr ⟨e, he, rfl⟩) _
    · rw [alGet_setV_rows_other hlt x _ _ (hlt e he) (by omega), ih (by omega)]

end

/-- The rows that are read are those of the lanes, in their order. -/
theorem tileRowsRead_lanes {c : Ctx} {d : Desc} {row col n : Nat} {ls : List Nat} {s s' : State}
    {rows : List (Nat × List Nat)} (h : tileRowsRead c d row col n ls s = (.ok rows, s')) : rows.map (·.1) = ls := by
  induction ls generalizing s rows with
  | nil =>
    cases h
    rfl
  | cons l r ih =>
    simp only [tileRowsRead] at h
    split at h
    · split at h
      next hr =>
        cases h
        exact congrArg (l :: ·) (ih hr)
      · cases h
      · cases h
    · cases h
    · cases h

section
variable {s s1 s2 : State} {i : Iss} {c : Ctx} {part : Bool} {v n u : Nat} {row col : ImmU} {b : List Byte}

/-- TILE.LD that meets no fault and no matrix instruction writes the rows of its lanes and moves on. -/
theorem exec_tileLd {rows : List (Nat × List Nat)} (h : Issues s i c ((List.range n).map (v + ·)) [.u u, .u (u + 1)] [])
    (hm : memReady c = true) (hr : readDesc (issued s i c) c u true = (.ok b, s1)) {d : Desc}
    (hd : d = resolveDesc c.b.task (descOf b)) (hunits : d.fmt = 14 → s.units.testBit 2 = true)
    (hodd : slmOdd d.slm (elemBits d.fmt) (c.act.flatMap (fun l =>
      (tileRanges d (immU c row + l) (immU c col) n).map (·.1))) = false)
    (hclash : mmaClash c.x c.slot d.slm (c.act.flatMap (fun l =>
      (tileRanges d (immU c row + l) (immU c col) n).map (fun r => (r.1, r.2.1)))) = false)
    (hrows : tileRowsRead c d (immU c row) (immU c col) n c.act s1 = (.ok rows, s2))
    (hp : part = true ∨ laneMask c.act = c.g.launch) :
    exec (.tileLd i part v n u row col) s = completes s
      (advance (tileCount s2 c d (immU c row) (immU c col) n) c (rowsLoaded v n rows c.g)) := by
  refine congrArg (completes s) ((issueWith_issues h _).trans ?_)
  simp only [hm, hr, ← hd, f64_present hr hunits, hodd, hclash, hrows, collective_of_present hp, Bool.not_true,
    Bool.false_eq_true, if_false]
  rfl

/-- What a path that moves on after that has in its registers. -/
theorem rowsLoaded_advance (hi : issue s i = some c) {rows : List (Nat × List Nat)} (hrows : rows.map (·.1) = c.act)
    (t : State) :
    let r := advance t c (rowsLoaded v n rows c.g)
    (∀ e ∈ rows, ∀ k < n, vReg (c.seen r) (v + k) e.1 = BitVec.ofNat 32 (e.2.getD k 0)) ∧
      ∀ k l, l < 32 → (k < v ∨ v + n ≤ k) → vReg (c.seen r) k l = vReg c k l := by
  have hlt : ∀ e ∈ rows, e.1 < 32 := fun e he => act_lt hi e.1 (hrows ▸ List.mem_map_of_mem he)
  simp only [vReg, seen_advance, movePath_birth, movePath_regs, rowsLoaded_birth]
  exact ⟨fun e he k hk => alGet_rowsLoaded hlt _ v _ (hrows ▸ nodup_act hi) he hk,
    fun k l hl hk => alGet_rowsLoaded_other hlt _ v _ hl hk⟩

end

/-! ### The bytes of a row that TILE.ST stores (R197) -/

theorem leNat_replicate_zero (n : Nat) : leNat (List.replicate n 0#8) = 0 := by
  induction n with
  | zero => rfl
  | succ n ih => simp [List.replicate_succ, leNat, ih]

/-- Elements stored over as many bytes as they fill are those elements packed. -/
theorem tileRowBytes_whole (w : Nat) (es : List Nat) :
    tileRowBytes w 0 es.length (List.replicate (ceilDiv (es.length * w) 8) 0) es = packElems w es := by
  simp [tileRowBytes, packElems, leNat_replicate_zero]

/-- Elements of whole bytes fill a range of whole bytes. -/
theorem rowRange_bytes (d : Desc) (row col n : Nat) (hw : elemBits d.fmt % 8 = 0) :
    rowRange d row col n =
      (d.base + row * d.stride + col * elemBits d.fmt / 8, ceilDiv (n * elemBits d.fmt) 8, 0) := by
  have hcol : col * elemBits d.fmt % 8 = 0 := by rw [Nat.mul_mod, hw]; rfl
  simp [rowRange, hcol]

theorem ceilDiv_bytes (n : Nat) {w : Nat} (hw : w % 8 = 0) : ceilDiv (n * w) 8 = n * w / 8 := by
  have h : n * w % 8 = 0 := by rw [Nat.mul_mod, hw]; rfl
  unfold ceilDiv
  omega

/-- One store to shared local memory needs no room in the write buffer. -/
theorem pathStores_slm (s : State) (c : Ctx) (a : Nat) (bs : List Byte) :
    pathStores s c [(true, a, bs)] = some (slmPut s c.core c.g.block a bs) := rfl

@[simp] theorem seen_slmPut (s : State) (c : Ctx) (k a : Nat) (bs : List Byte) :
    (c.seen (slmPut s c.core k a bs)).g = (c.seen s).g := by
  simp only [Ctx.seen, slmPut, execOf_modExec]
  split <;> rfl

theorem tileCount_eq_ctrAdd (s : State) (c : Ctx) (d : Desc) (row col n : Nat) (hslm : d.slm = true) :
    tileCount s c d row col n = slmCount s c (tileExtra d row col n c.act + 1) := if_pos hslm

/-- The elements that a lane stores: `n` registers from `v`. -/
def laneElems (c : Ctx) (v n l : Nat) : List Nat := (List.range n).map (fun k => (vReg c (v + k) l).toNat)

@[simp] theorem length_laneElems (c : Ctx) (v n l : Nat) : (laneElems c v n l).length = n := by simp [laneElems]

theorem length_packElems_laneElems (c : Ctx) (v n l : Nat) {w : Nat} (hw : w % 8 = 0) :
    (packElems w (laneElems c v n l)).length = n * w / 8 := by
  rw [packElems, length_leBytes, length_laneElems, ceilDiv_bytes n hw]

section
variable {s s1 : State} {i : Iss} {c : Ctx} {part : Bool} {v n u l : Nat} {row col : ImmU} {b : List Byte}

/-- TILE.ST of whole-byte elements of one lane stores its row in shared local memory and moves on. -/
theorem exec_tileSt_slm (h : Issues s i c [] ([.u u, .u (u + 1)] ++ (List.range n).map (fun k => .v (v + k))) [])
    (hm : memReady c = true) (hr : readDesc (issued s i c) c u true = (.ok b, s1)) (hact : c.act = [l])
    (hp : part = true ∨ laneMask c.act = c.g.launch) {d : Desc} (hd : d = resolveDesc c.b.task (descOf b)) {a w : Nat}
    (hw : w = elemBits d.fmt) (ha : a = d.base + (immU c row + l) * d.stride + immU c col * w / 8)
    (hunits : d.fmt = 14 → s.units.testBit 2 = true) (hslm : d.slm = true) (hcol : d.colMajor = false) (hw8 : 8 ≤ w)
    (hwhole : w % 8 = 0) (halign : a % (w / 8) = 0) (hclash : mmaClash c.x c.slot true [(a, n * w / 8)] = false)
    (hroom : a + n * w / 8 ≤ c.b.task.slmKib * 1024) :
    exec (.tileSt i part v n u row col) s = completes s
      (slmPut (advance (slmCount s1 c (tileExtra d (immU c row) (immU c col) n c.act + 1)) c c.g) c.core c.g.block a
        (packElems w (laneElems c v n l))) := by
  have hrange : tileRanges d (immU c row + l) (immU c col) n = [(a, n * w / 8, 0)] := by
    subst hw ha
    rw [tileRanges, if_neg (by simp [hcol]), rowRange_bytes d _ _ _ hwhole, ceilDiv_bytes n hwhole]
  have hodd : slmOdd true w [a] = false := by
    have : max 1 (w / 8) = w / 8 := by omega
    simp [slmOdd, this, halign]
  have hwrite : opCanWrite s1 c true a (n * w / 8) = none := by
    simp only [opCanWrite, if_true]
    split
    · rfl
    · exact if_neg (by omega)
  have hbytes : tileRowBytes w 0 n (List.replicate (n * w / 8) 0#8) ((List.range n).map (fun k => (vReg c (v + k) l).toNat)) =
      packElems w (laneElems c v n l) := by
    have := tileRowBytes_whole w (laneElems c v n l)
    rwa [length_laneElems, ceilDiv_bytes n hwhole] at this
  have hpartial : decide (w < 8) = false := by simpa using hw8
  have hrs : c.act.flatMap (fun k => (tileRanges d (immU c row + k) (immU c col) n).zipIdx.map (fun r => (k, r.2, r.1))) =
      [(l, 0, a, n * w / 8, 0)] := by simp [hact, hrange]
  refine congrArg (completes s) ((issueWith_issues h _).trans ?_)
  simp only [hm, hr, ← hd, f64_present hr hunits, ← hw, hrs, hslm, hcol]
  simp [hodd, hclash, hwrite, hpartial, tileCount_eq_ctrAdd _ _ _ _ _ _ hslm, hbytes, pathStores_slm, collective_of_present hp]

/-- What the row of one lane leaves of its group, of memory and of its block. -/
theorem slmPut_advance (hi : issue s i = some c) (hk : KeepsWork (issued s i c) s1) (passes a : Nat) {m : Nat} {bs : List Byte}
    (hlen : bs.length = m) :
    let r := slmPut (advance (slmCount s1 c passes) c c.g) c.core c.g.block a bs
    Moved c r c.next ∧ r.mem.mem = s.mem.mem ∧ ∃ b', alFind (execOf r i.core).blocks c.g.block = some b' ∧
      slmRead b' a m = bs ∧ ∀ x, (x < a ∨ a + m ≤ x) → slmByte b' x = slmByte c.b x := by
  subst hlen
  obtain ⟨hcore, -, -, -, hb, -⟩ := issue_some hi
  have hblock : alFind (execOf (advance (slmCount s1 c passes) c c.g) c.core).blocks c.g.block = some c.b := by
    rw [← hb, ← blocks_issued s i c, ← hk.exec.blocks, hcore]
    simp [advance, putGroup, slmCount, hcore]
  refine ⟨?_, ?_, slmWrite c.b a bs, ?_, slmRead_slmWrite .., fun x hx => slmByte_slmWrite_other hx⟩
  · rw [Moved, seen_slmPut]
    exact moved_advance _ rfl
  · change (slmCount s1 c passes).mem.mem = s.mem.mem
    rw [slmCount_mem, hk.cells, issued_mem]
  · rw [← hcore, blocks_slmPut a bs hblock, alFind_alPut_self]

end

/-- Settles O22: the first two instructions write a handle (`handles_advance_setHandle`), TILE.LD the registers of its rows
(`rowsLoaded_advance`), and TILE.ST the bytes of a row (`slmPut_advance`), which are its elements packed (`tileRowBytes_whole`). -/
theorem tileInstructionsComplete : Obligations.TileInstructionsComplete := by
  refine ⟨fun i t u s s1 c b h hm ha hr => tileDesc_completes h hm ha hr, fun i t u s c d h ha ht => tileBase_completes h ha ht,
    ?_, ?_⟩
  · intro i part v n u row col s s1 s2 c b rows h hm hr d rs hunits hodd hclash hrows hp
    have hlanes := tileRowsRead_lanes hrows
    rw [List.map_flatMap] at hodd
    simp only [List.map_map] at hodd
    obtain ⟨hread, hother⟩ := rowsLoaded_advance (v := v) (n := n) h.1 hlanes (tileCount s2 c d (immU c row) (immU c col) n)
    exact ⟨_, exec_tileLd h hm hr rfl hunits hodd hclash hrows hp, moved_advance _ (rowsLoaded_paths ..), hlanes, hread,
      hother⟩
  · intro i part v n u l row col s s1 c b h hm hr hact hp d w a hunits hslm hcol hw8 hwhole halign hclash hroom
    have hk := keepsWork_readDesc (issued s i c) c u true
    rw [hr] at hk
    obtain ⟨hmoved, hmem, b', hblock, hread, hother⟩ := slmPut_advance h.1 hk
      (tileExtra d (immU c row) (immU c col) n c.act + 1) a (length_packElems_laneElems c v n l hwhole)
    exact ⟨_, b', exec_tileSt_slm h hm hr hact hp rfl rfl rfl hunits hslm hcol hw8 hwhole halign hclash hroom, hmoved, hmem,
      hblock, hread, hother⟩

end Sys2Proof.Machine
end

section
/-! BENCH.XLAT, TRACE.MARK, BRK and the broadcast of a line of native code (R213 to R215, R424, R505 to R518). -/

namespace Sys2Proof.Machine

/-! ### The order of the instruction store and the counters at an issue -/

@[simp] theorem issued_pools (s : State) (i : Iss) (c : Ctx) : (issued s i c).pools = s.pools := by rw [issued_cores]
@[simp] theorem issued_time (s : State) (i : Iss) (c : Ctx) : (issued s i c).time = s.time := by rw [issued_cores]

/-- Counting changes counter blocks alone of the debug state. -/
theorem ctrAdd_dbg_blocks (s : State) (k code n : Nat) (part : Option Nat) :
    ∃ bs, (ctrAdd s k code n part).dbg = { s.dbg with blocks := bs } := by
  unfold ctrAdd
  split
  · exact ⟨_, rfl⟩
  · exact ⟨_, rfl⟩

theorem issued_dbg (s : State) (i : Iss) (c : Ctx) : ∃ bs, (issued s i c).dbg = { s.dbg with blocks := bs } := by
  obtain ⟨bs, h⟩ := ctrAdd_dbg_blocks (touchLines s i.core (nativeLines c)) (blkKey 0 i.core) 0x03 1 none
  have htouch : (touchLines s i.core (nativeLines c)).dbg = s.dbg := by
    unfold touchLines
    split <;> rfl
  exact ⟨bs, by rw [issued, h, htouch]⟩

@[simp] theorem sources0_issued (s : State) (i : Iss) (c : Ctx) : (issued s i c).dbg.sources0 = s.dbg.sources0 := by
  obtain ⟨_, h⟩ := issued_dbg s i c
  rw [h]

@[simp] theorem traceOn_issued (s : State) (i : Iss) (c : Ctx) (type : Nat) : traceOn (issued s i c) type = traceOn s type := by
  obtain ⟨_, h⟩ := issued_dbg s i c
  simp only [traceOn, h, issued_units]

@[simp] theorem inScope_issued (s : State) (i : Iss) (c : Ctx) (tenant : Nat) :
    inScope (issued s i c) tenant = inScope s tenant := by
  obtain ⟨_, h⟩ := issued_dbg s i c
  simp only [inScope, h]

/-! ### BENCH.XLAT (R424) -/

/-- What BENCH.XLAT gives a lane: an address, and whether it is valid. -/
def xlatLane (s : State) (c : Ctx) (slot token : Opd) (l : Nat) : Nat × Bool :=
  ((alFind s.pools c.b.task.part).map
    (fun q => xlatOne q (opdLane c slot l).toNat (opdLane c token l).toNat)).getD (0, false)

section
variable {s : State} {c : Ctx} {slot token : Opd} {l : Nat}

theorem xlatLane_page {q : Pool} {k : Nat} {e : BenchSeq} (hq : alFind s.pools c.b.task.part = some q)
    (he : q.seqs.find? (fun e => e.2.slot == (opdLane c slot l).toNat) = some (k, e))
    (ht : (opdLane c token l).toNat < e.pages.length * q.tpp) :
    xlatLane s c slot token l = (q.base + e.pages.getD ((opdLane c token l).toNat / q.tpp) 0 * 65536 +
      (opdLane c token l).toNat % q.tpp * (65536 / q.tpp), true) := by
  simp [xlatLane, hq, xlatOne, seqInSlot, he, Nat.not_le.mpr ht]

/-- An empty slot, a token beyond its sequence's pages, or no pool. -/
theorem xlatLane_invalid (h : ∀ q k e, alFind s.pools c.b.task.part = some q →
      q.seqs.find? (fun e => e.2.slot == (opdLane c slot l).toNat) = some (k, e) →
      e.pages.length * q.tpp ≤ (opdLane c token l).toNat) : xlatLane s c slot token l = (0, false) := by
  cases hq : alFind s.pools c.b.task.part with
  | none => simp [xlatLane, hq]
  | some q =>
    cases he : q.seqs.find? (fun e => e.2.slot == (opdLane c slot l).toNat) with
    | none => simp [xlatLane, hq, xlatOne, seqInSlot, he]
    | some e => simp [xlatLane, hq, xlatOne, seqInSlot, he, h q e.1 e.2 hq he]

end

theorem extractLsb'_ofNat_high (a : Nat) : (BitVec.ofNat 64 a).extractLsb' 32 32 = BitVec.ofNat 32 (a / 2 ^ 32) := by
  refine BitVec.eq_of_toNat_eq ?_
  simp only [BitVec.extractLsb'_toNat, BitVec.toNat_ofNat, Nat.shiftRight_eq_div_pow]
  omega

/-- A path that moves on after an address was written to a pair and its validity to a predicate has both. -/
theorem addresses_advance (s : State) (c : Ctx) (d p : Nat) (f : Nat → Nat × Bool) (hact : ∀ l ∈ c.act, l < 32) :
    let r := advance s c (setP (writeD64 s c.g (.v d) (c.act.map (fun l => (l, BitVec.ofNat 64 (f l).1)))) p
      (c.act.map (fun l => (l, (f l).2))))
    ∀ l ∈ c.act, vReg (c.seen r) d l = BitVec.ofNat 32 (f l).1 ∧
      vReg (c.seen r) (d + 1) l = BitVec.ofNat 32 ((f l).1 / 2 ^ 32) ∧
      predOf (c.seen r).g p l = (f l).2 := by
  intro r l hl
  obtain ⟨hlow, hhigh⟩ := wrote64_advance s s c (.v d) (fun l => BitVec.ofNat 64 (f l).1) hact l hl
  have hregs (n : Nat) : vReg (c.seen r) n l = vReg (c.seen (advance s c (writeD64 s c.g (.v d)
      (c.act.map (fun l => (l, BitVec.ofNat 64 (f l).1)))))) n l := by
    simp only [r, vReg, seen_advance, movePath_birth, movePath_regs, setP]
    rfl
  refine ⟨?_, ?_, ?_⟩
  · rw [hregs, hlow]
    exact BitVec.setWidth_ofNat_of_le (by omega) _
  · rw [hregs, hhigh, extractLsb'_ofNat_high]
  · simp only [r, predOf, seen_advance, movePath_birth, movePath_preds, setP]
    exact alGet_written p c.act (fun l => (f l).2) _ _ l hl

/-- BENCH.XLAT completes with each lane's address and validity, and changes its group alone. -/
theorem benchXlat_completes {s : State} {i : Iss} {c : Ctx} {p d : Nat} {slot token : Opd}
    (h : Issues s i c [d, d + 1] [slot, token] []) :
    ∃ r, exec (.benchXlat i p (.v d) slot token) s = .next r ∧ Moved c r c.next ∧ r.mem = s.mem ∧ r.pools = s.pools ∧
      OnlyGroup s r i.core i.slot ∧ ∀ l ∈ c.act,
        vReg (c.seen r) d l = BitVec.ofNat 32 (xlatLane s c slot token l).1 ∧
          vReg (c.seen r) (d + 1) l = BitVec.ofNat 32 ((xlatLane s c slot token l).1 / 2 ^ 32) ∧
          predOf (c.seen r).g p l = (xlatLane s c slot token l).2 := by
  have he : exec (.benchXlat i p (.v d) slot token) s = completes s (advance (issued s i c) c
      (setP (writeD64 (issued s i c) c.g (.v d) (c.act.map (fun l => (l, BitVec.ofNat 64 (xlatLane s c slot token l).1)))) p
        (c.act.map (fun l => (l, (xlatLane s c slot token l).2))))) := by
    refine congrArg (completes s) ((issueWith_issues h _).trans ?_)
    simp only [xlatLane, issued_pools]
    cases alFind s.pools c.b.task.part <;> rfl
  exact ⟨_, he, moved_advance _ (writeD64_paths ..), issued_mem s i c, issued_pools s i c,
    onlyGroup_putGroup h.1 (fun _ => rfl) _, addresses_advance _ c d p _ (act_lt h.1)⟩

/-! ### TRACE.MARK (R516 to R518) -/

/-- A record of a traced type, of a tenant in the debug scope, enters its source's FIFO where that has room and has dropped
none. -/
theorem traceEmit_fifo {s : State} {type src tenant : Nat} (flags p0 p1 : Nat) (hon : traceOn s type = true)
    (hscope : inScope s tenant = true) (hdrop : (alGet {} s.dbg.sources0 src).dropped = 0)
    (hroom : (alGet {} s.dbg.sources0 src).fifo.length < 64) :
    (alGet {} (traceEmit s type flags src (some tenant) p0 p1).dbg.sources0 src).fifo =
      (alGet {} s.dbg.sources0 src).fifo ++ [[type, flags, src, tenant, 96 * s.time, p0, p1]] := by
  have hrec : traceDropRec s src = s := if_pos (by simp [hdrop])
  simp [traceEmit, hon, hrec, hscope, hroom, stampNow]

/-- Nothing is recorded of a type that is not traced, nor, while drops are not, of a tenant out of the debug scope. -/
theorem traceEmit_silent {s : State} {type tenant : Nat} (flags src p0 p1 : Nat)
    (h : traceOn s type = false ∨ traceOn s 10 = false ∧ inScope s tenant = false) :
    traceEmit s type flags src (some tenant) p0 p1 = s := by
  rcases h with hoff | ⟨hdrop, hscope⟩
  · simp [traceEmit, hoff]
  · have hrec : traceDropRec s src = s := if_pos (by simp [hdrop])
    simp [traceEmit, hrec, hscope]

/-- The state in which TRACE.MARK has made its record. -/
def marked (s : State) (c : Ctx) (id : ImmU) (a : Opd) : State :=
  match c.act.head? with
  | none => s
  | some l => traceEmit s 5 0 (locOf c.core) (some c.b.task.tenant) (opdLane64 c a l).toNat
      (c.p.pc + immU c id % 65536 * 2 ^ 32 + c.slot * 2 ^ 48)

theorem onlyTrace_marked (s : State) (c : Ctx) (id : ImmU) (a : Opd) : OnlyTrace s (marked s c id a) := by
  unfold marked
  split
  · exact .refl s
  · exact onlyTrace_traceEmit ..

theorem OnlyCores.onlyTrace {s t u : State} (h : OnlyCores s t) (h' : OnlyTrace t u) : OnlyCores s u := by
  obtain ⟨_, _, rfl⟩ := h'
  unfold OnlyCores at h ⊢
  rw [h]

theorem coreOf_onlyTrace {s t : State} (h : OnlyTrace s t) (k : Nat) : coreOf t k = coreOf s k := by
  obtain ⟨_, _, rfl⟩ := h
  rfl

section
variable {s : State} {i : Iss} {c : Ctx} {id : ImmU} {a : Opd}

theorem exec_traceMark (h : Issues s i c [] (immUse id) [a]) : exec (.traceMark i id a) s =
    completes s (advance (marked (issued s i c) c id a) c c.g) := by
  cases id <;> exact congrArg (completes s) (issueWith_issues h _)

/-- TRACE.MARK completes, and changes its group and the trace alone. -/
theorem traceMark_completes (h : Issues s i c [] (immUse id) [a]) :
    ∃ r, exec (.traceMark i id a) s = .next r ∧ Moved c r c.next ∧ OnlyCores s r ∧ OnlyGroup s r i.core i.slot ∧
      r.dbg.sources0 = (marked (issued s i c) c id a).dbg.sources0 := by
  have htrace := onlyTrace_marked (issued s i c) c id a
  exact ⟨_, exec_traceMark h, moved_advance _ rfl, (((OnlyCores.issued s i c).onlyTrace htrace).putGroup c _).completes,
    onlyGroup_putGroup h.1 (coreOf_onlyTrace htrace) _, rfl⟩

theorem marked_fifo (hi : issue s i = some c) {l : Nat} (hl : c.act.head? = some l) (hon : traceOn s 5 = true)
    (hscope : inScope s c.b.task.tenant = true) (hdrop : (alGet {} s.dbg.sources0 (locOf i.core)).dropped = 0)
    (hroom : (alGet {} s.dbg.sources0 (locOf i.core)).fifo.length < 64) :
    (alGet {} (marked (issued s i c) c id a).dbg.sources0 (locOf i.core)).fifo =
      (alGet {} s.dbg.sources0 (locOf i.core)).fifo ++ [[5, 0, locOf i.core, c.b.task.tenant, 96 * s.time,
        (opdLane64 c a l).toNat, c.p.pc + immU c id % 65536 * 2 ^ 32 + c.slot * 2 ^ 48]] := by
  obtain ⟨hcore, -⟩ := issue_some hi
  simp only [marked, hl, hcore]
  rw [traceEmit_fifo _ _ _ (by simpa) (by simpa) (by simpa) (by simpa)]
  simp

theorem marked_silent (h : c.act = [] ∨ traceOn s 5 = false ∨ traceOn s 10 = false ∧ inScope s c.b.task.tenant = false) :
    (marked (issued s i c) c id a).dbg.sources0 = s.dbg.sources0 := by
  unfold marked
  split
  · exact sources0_issued s i c
  next l hl =>
    rw [traceEmit_silent, sources0_issued]
    simpa using h.resolve_left fun hnil => by simp [hnil] at hl

end

/-! ### BRK (R215, R505 to R512) -/

/-- A change of every core that keeps what it executes. -/
theorem execOf_mapCores (s : State) (f : Nat → Core → Core) (hf : ∀ k x, (f k x).exec = x.exec) (k : Nat) :
    execOf (mapCores s f) k = execOf s k := by
  have h := alFind_map_value (fun e : Nat × Core => (e.1, f e.1 e.2)) (fun _ => rfl) s.cores k
  simp only [execOf, coreOf, alGet, mapCores, h]
  cases alFind s.cores k with
  | none => rfl
  | some x => exact hf k x

/-- A core that halts where the whistle reaches it (R508). -/
def haltCore (s : State) (k : Nat) (x : Core) : Core := if x.present && scopeCore s k then { x with halted := true } else x

theorem haltCore_exec (s : State) (k : Nat) (x : Core) : (haltCore s k x).exec = x.exec := by
  unfold haltCore
  split <;> rfl

theorem sameExec_haltCores (s : State) : SameExec s (haltCores s) := by
  obtain ⟨_, h⟩ := syncShots_fe (mapCores s (haltCore s))
  have hcores : (haltCores s).cores = (mapCores s (haltCore s)).cores := (congrArg State.cores h :)
  exact .trans (.of_execOf (execOf_mapCores s _ (haltCore_exec s))) (.of_cores hcores)

/-- One of two ways on, of which one changes nothing. -/
theorem SameExec.ite {p : Prop} [Decidable p] {s t : State} (h : SameExec s t) : SameExec s (if p then t else s) := by
  split
  · exact h
  · exact .of_execOf fun _ => rfl

/-- The whistle halts cores and leaves what they execute (R508). -/
theorem sameExec_raiseWhistle (s : State) (code : Nat) : SameExec s (raiseWhistle s code) := by
  cases hraised : s.dbg.raised with
  | true =>
    rw [raiseWhistle_of_raised code hraised]
    exact .of_cores rfl
  | false =>
    rw [raiseWhistle, if_neg (by simp [hraised])]
    extract_lets reach _ started frozen _ raised halted _ driven
    have hfrozen : SameExec started frozen := (onlyTrace_whistleRecords started).keepsWork.exec.trans (.of_cores rfl)
    have hhalted : SameExec raised halted := .ite (sameExec_haltCores raised)
    have hdriven : SameExec halted driven := .ite (.of_cores rfl)
    have hstarted : SameExec s started := .of_cores rfl
    have hraise : SameExec frozen raised := .of_cores rfl
    exact hstarted.trans <| hfrozen.trans <| hraise.trans <| hhalted.trans <| hdriven.trans <|
      .ite (onlyHostSide_foldl_occur 9 0 whistleStatus _ driven).keepsWork.exec

/-- A fault of a group that has a block is precise (R187). -/
theorem faulted_raiseFault_of_issue {s : State} {i : Iss} {c : Ctx} (hi : issue s i = some c) (f : DevFault) :
    Faulted c s (raiseFault s c f) f := by
  obtain ⟨hcore, hslot, -, hg, hb, -⟩ := issue_some hi
  rw [raiseFault, hcore, hslot, raiseFaultAt_of_group c.p.pc c.p.lanes f hg hb, Faulted, hcore]
  have hn := keepsWork_faultNoted s i.core c.p.pc c.b.task.tenant c.b.task.tag f
  generalize faultNoted s i.core c.p.pc c.b.task.tenant c.b.task.tag f = u at hn ⊢
  rw [← hn.exec.groups i.core, ← hn.exec.blocks i.core, ← hn.fe]
  have hub : alFind (execOf u i.core).blocks c.g.block = some c.b := (hn.exec.blocks i.core) ▸ hb
  obtain ⟨hgroups, hblocks⟩ := execOf_endBlock (s := failNode u c.b.task.node (faultInfo i.core c.p.pc c.p.lanes f))
    (by rwa [execOf_failNode])
  rw [execOf_failNode] at hgroups hblocks
  refine ⟨hgroups, hblocks, fun n hnode hfail => ?_⟩
  obtain ⟨-, -, hdone⟩ := endBlock_failNode (faultInfo i.core c.p.pc c.p.lanes f) hub hnode hfail
  exact hdone

/-- The issue of BRK, which has no guard of its own. -/
def brkIss (core slot : Nat) : Iss := { core := core, slot := slot, guarded := false, negated := false, guard := 0, nx := 0 }

section
variable {core slot npc : Nat} {s : State} {c : Ctx} (hi : issue s (brkIss core slot) = some c)
  (hspan : npc ∈ nativeSpan c.b.task c.p.pc) (hbrk : isBrk c.x c.b.task.image npc = true)
  (hstore : (c.b.task.image, c.b.task.variant, npc / 64) ∈ c.x.istore)
include hi hspan hbrk hstore

theorem exec_brk : exec (.brk core slot npc) s = completes s (
    if s.dbg.level != 2 || !inScope s c.b.task.tenant then raiseFault s c .memAccess
    else
      let t := putGroup s c { c.g with stop := .brk npc }
      if bit s.dbg.brkHit 41 then { t with dbg.brkHeld := s.dbg.brkHeld ++ [(core, slot, npc)] }
      else raiseWhistle (brkRecord t core slot npc c.p.pc) 2) := by
  have hi' := hi
  rw [brkIss] at hi'
  refine congrArg (completes s) ?_
  simp only [hi', List.contains_iff_mem.mpr hspan, List.contains_iff_mem.mpr hstore, hbrk, Bool.not_true, Bool.or_self,
    Bool.false_eq_true, if_false]
  rfl

/-- BRK at level 2 within the debug scope stops its group; while an earlier hit is recorded it is held. -/
theorem brk_stops (h : s.dbg.level = 2 ∧ inScope s c.b.task.tenant = true) :
    ∃ r g, exec (.brk core slot npc) s = .next r ∧ alFind (execOf r core).groups slot = some g ∧ g.stop = .brk npc ∧
      g.paths = c.g.paths ∧ g.regs = c.g.regs ∧
      (bit s.dbg.brkHit 41 = true → r.dbg.brkHeld = s.dbg.brkHeld ++ [(core, slot, npc)]) := by
  obtain ⟨hcore, hslot, -⟩ := issue_some hi
  have hcore : c.core = core := hcore
  have hslot : c.slot = slot := hslot
  have hgroup : alFind (execOf (putGroup s c { c.g with stop := .brk npc }) core).groups slot =
      some { c.g with stop := .brk npc } := by simp [putGroup, hcore, hslot]
  have hscope : (s.dbg.level != 2 || !inScope s c.b.task.tenant) = false := by simp [h]
  have he := exec_brk hi hspan hbrk hstore
  rw [hscope, if_neg Bool.false_ne_true] at he
  cases hheld : bit s.dbg.brkHit 41 with
  | true =>
    rw [hheld] at he
    exact ⟨_, _, he, hgroup, rfl, rfl, rfl, fun _ => rfl⟩
  | false =>
    rw [hheld] at he
    have hsame := sameExec_raiseWhistle (brkRecord (putGroup s c { c.g with stop := .brk npc }) core slot npc c.p.pc) 2
    refine ⟨_, { c.g with stop := .brk npc }, he, ?_, rfl, rfl, rfl, nofun⟩
    exact (congrArg (alFind · slot) (hsame.groups core)).trans hgroup

/-- BRK elsewhere is a memory access fault of its group. -/
theorem brk_faults (h : ¬ (s.dbg.level = 2 ∧ inScope s c.b.task.tenant = true)) :
    ∃ r, exec (.brk core slot npc) s = .next r ∧ Faulted c s r .memAccess := by
  have hout : (s.dbg.level != 2 || !inScope s c.b.task.tenant) = true := by
    by_contra hin
    exact h (by simpa using hin)
  have he := exec_brk hi hspan hbrk hstore
  rw [hout, if_pos rfl] at he
  exact ⟨_, he, faulted_raiseFault_of_issue hi .memAccess⟩

end

/-! ### The sequencer's broadcast (R213, R214) -/

/-- A core after line `l` with bytes `bytes` was on the bus of its cluster. -/
def heardLine (l : Nat × Nat × Nat) (bytes : List Byte) (x : Exec) : Exec :=
  if x.subs.any (fun t => t.1 == l.1 && t.2.2 == l.2.1) && !x.istore.contains l then
    { x with istore := storeTouch l x.istore
             code := (putCode x.code l.1 l.2.2 bytes).filter (fun e =>
               (storeTouch l x.istore).any (fun y => y.1 == e.1 && y.2.2 == e.2.1)) }
  else x

/-- A subscriber holds the line that it has heard. -/
theorem mem_istore_heardLine {l : Nat × Nat × Nat} (bytes : List Byte) {x : Exec} {t : Nat × Nat × Nat} (ht : t ∈ x.subs)
    (himage : t.1 = l.1) (hvariant : t.2.2 = l.2.1) : l ∈ (heardLine l bytes x).istore := by
  have hsub : x.subs.any (fun t => t.1 == l.1 && t.2.2 == l.2.1) = true :=
    List.any_eq_true.mpr ⟨t, ht, by simp [himage, hvariant]⟩
  unfold heardLine
  split
  · simp [storeTouch]
  next hheld => simpa [hsub] using hheld

/-- A change of one core leaves what the others execute. -/
theorem execOf_modExec_other (s : State) (f : Exec → Exec) {k j : Nat} (h : j ≠ k) :
    execOf (modExec s k f) j = execOf s j := congrArg Core.exec (coreOf_modExec_other s k j f h)

/-- What a change of several cores, each once, leaves of each core. -/
theorem execOf_foldl_modExec (f : Exec → Exec) {ks : List Nat} (hks : ks.Nodup) (k : Nat) (s : State) :
    execOf (ks.foldl (fun s k => modExec s k f) s) k = if k ∈ ks then f (execOf s k) else execOf s k := by
  induction ks generalizing s with
  | nil => rfl
  | cons a r ih =>
    obtain ⟨ha, hr⟩ := List.nodup_cons.mp hks
    rw [List.foldl_cons, ih hr]
    by_cases hk : k = a
    · subst hk
      simp [ha]
    · simp [hk, execOf_modExec_other s f hk]

/-- A change of several cores leaves memory and the clusters. -/
theorem foldl_modExec_frame (f : Exec → Exec) (ks : List Nat) (s : State) :
    (ks.foldl (fun s k => modExec s k f) s).mem = s.mem ∧ (ks.foldl (fun s k => modExec s k f) s).clusters = s.clusters :=
  foldl_related (R := fun s t : State => t.mem = s.mem ∧ t.clusters = s.clusters) (f := fun s k => modExec s k f)
    (fun _ => ⟨rfl, rfl⟩) (fun h h' => ⟨h'.1.trans h.1, h'.2.trans h.2⟩) (fun _ _ => ⟨rfl, rfl⟩) ks s

/-- The cores of a cluster. -/
def clusterCores (cluster : Nat) : List Nat := (List.range 8).map (8 * cluster + ·)

theorem nodup_clusterCores (cluster : Nat) : (clusterCores cluster).Nodup :=
  List.nodup_range.map fun _ _ h => Nat.add_left_cancel h

theorem mem_clusterCores (core : Nat) : core ∈ clusterCores (core / 8) :=
  List.mem_map.mpr ⟨core % 8, List.mem_range.mpr (Nat.mod_lt _ (by decide)), Nat.div_add_mod core 8⟩

/-- A sequencer after it has sent line `l` with bytes `bytes`. -/
def sentLine (l : Nat × Nat × Nat) (bytes : List Byte) (k : Cluster) : Cluster :=
  { k with requests := k.requests.filter (fun x => x != l), codeLines := codeCacheAdd l k.codeLines
           code := (putCode k.code l.1 l.2.2 bytes).filter (fun e =>
             (codeCacheAdd l k.codeLines).any (fun x => x.1 == e.1 && x.2.2 == e.2.1)) }

/-- The bytes of line `l` that a sequencer sends. -/
def busBytes (s : State) (cluster : Nat) (l : Nat × Nat × Nat) : List Byte :=
  if (clusterOf s cluster).codeLines.contains l then codeOf (clusterOf s cluster).code l.1 l.2.2 else codeLine s l.1 l.2.2

/-- A cluster and its cores after line `l` with bytes `bytes` was sent. -/
def broadcast (s : State) (cluster : Nat) (l : Nat × Nat × Nat) (bytes : List Byte) : State :=
  (clusterCores cluster).foldl (fun s k => modExec s k (heardLine l bytes)) (modCluster s cluster (sentLine l bytes))

/-- The line is in every subscriber's store and in the cache, and no longer requested. -/
theorem broadcast_spec {s : State} {core : Nat} {l t : Nat × Nat × Nat} (bytes : List Byte) (ht : t ∈ (execOf s core).subs)
    (himage : t.1 = l.1) (hvariant : t.2.2 = l.2.1) :
    let r := broadcast s (core / 8) l bytes
    r.mem = s.mem ∧ l ∈ (execOf r core).istore ∧ l ∉ (clusterOf r (core / 8)).requests ∧
      l ∈ (clusterOf r (core / 8)).codeLines := by
  obtain ⟨hmem, hclusters⟩ := foldl_modExec_frame (heardLine l bytes) (clusterCores (core / 8))
    (modCluster s (core / 8) (sentLine l bytes))
  have hcluster : clusterOf (broadcast s (core / 8) l bytes) (core / 8) = sentLine l bytes (clusterOf s (core / 8)) := by
    rw [broadcast, clusterOf, hclusters]
    exact clusterOf_modCluster ..
  refine ⟨hmem, ?_, ?_, ?_⟩
  · rw [broadcast, execOf_foldl_modExec _ (nodup_clusterCores _), if_pos (mem_clusterCores core), execOf_modCluster]
    exact mem_istore_heardLine bytes ht himage hvariant
  · simp [hcluster, sentLine]
  · simp [hcluster, sentLine, codeCacheAdd]

/-- A sequencer that is awake sends the line of its oldest request. -/
theorem exec_sequencerLineBroadcast {s : State} {cluster : Nat} {l : Nat × Nat × Nat} {rest : List (Nat × Nat × Nat)}
    (hreq : (clusterOf s cluster).requests = l :: rest) (hpower : (clusterOf s cluster).power ≠ .retention)
    (hwake : (clusterOf s cluster).wakeAt ≤ s.time) :
    exec (.sequencerLineBroadcast cluster) s = completes s (broadcast s cluster l (busBytes s cluster l)) := by
  have hawake : (if (clusterOf s cluster).power = .retention || decide (s.time < (clusterOf s cluster).wakeAt) then []
      else (clusterOf s cluster).requests) = l :: rest := by
    rw [if_neg (by simp [hpower, hwake]), hreq]
  refine congrArg (completes s) ?_
  simp only [hawake]
  rw [broadcast, clusterCores, List.foldl_map]
  rfl

/-- Settles O31: each instruction's effect is a theorem of its own above. -/
theorem benchAddressesMarksAndBreakpoints : Obligations.BenchAddressesMarksAndBreakpoints := by
  refine ⟨⟨fun i p d slot token s c h => ?_, fun i id a s c h => ?_⟩, fun core slot npc s c hi hspan hbrk hstore =>
    ⟨brk_stops hi hspan hbrk hstore, brk_faults hi hspan hbrk hstore⟩, ?_⟩
  · obtain ⟨r, hr, hmoved, hmem, hpools, hgroup, hlanes⟩ := benchXlat_completes (p := p) h
    refine ⟨r, hr, hmoved, hmem, hpools, hgroup, fun l hl => ⟨fun q k e hq he ht => ?_, fun hinvalid => ?_⟩⟩
    · have := hlanes l hl
      rwa [xlatLane_page hq he ht] at this
    · have := hlanes l hl
      rwa [xlatLane_invalid hinvalid] at this
  · obtain ⟨r, hr, hmoved, hcores, hgroup, hsources⟩ := traceMark_completes h
    refine ⟨r, hr, hmoved, hcores, hgroup, fun l hl hon hscope hdrop hroom => ?_, fun hsilent => ?_⟩
    · rw [hsources]
      exact marked_fifo h.1 hl hon hscope hdrop hroom
    · rw [hsources, marked_silent hsilent]
  · rintro cluster core s l rest hreq rfl ⟨t, ht, himage, hvariant⟩ hpower hwake
    have he := exec_sequencerLineBroadcast hreq hpower hwake
    have hspec := broadcast_spec (busBytes s (core / 8) l) ht himage hvariant
    generalize broadcast s (core / 8) l (busBytes s (core / 8) l) = r at he hspec
    exact ⟨_, he, hspec⟩

end Sys2Proof.Machine
end

section
/-! Fences (R228 to R232, R250): a fence that covers nothing outstanding ends at its issue, and a waiting one at its release. -/

namespace Sys2Proof.Machine

/-! ### Issue -/

/-- An issue changes the order of its core's instruction store alone. -/
theorem execOf_issued (s : State) (i : Iss) (c : Ctx) :
    ∃ st, execOf (issued s i c) i.core = { execOf s i.core with istore := st } := by
  obtain ⟨st, h⟩ := coreOf_issued s i c
  exact ⟨st, by rw [execOf, h]⟩

theorem execOf_putGroup (s : State) (c : Ctx) (g : Group) :
    execOf (putGroup s c g) c.core = { execOf s c.core with groups := alPut (execOf s c.core).groups c.slot g } :=
  execOf_modExec ..

/-- The lanes of a path that moves on stand where it goes, with its stall. -/
theorem laneAt_movePathStall {c : Ctx} (hp : currentPath c.g = some c.p) (pc : Nat) (st : Stall) {l : Nat}
    (hl : l ∈ laneList c.p.lanes) : LaneAt (movePathStall c c.g pc st) l pc c.p.bar st := by
  obtain ⟨hmem, -⟩ := currentPath_some hp
  exact laneAt_setPaths _ _ _ _ _ _ _
    ⟨_, List.mem_map.mpr ⟨c.p, hmem, if_pos rfl⟩, (mem_laneList hl).2, rfl, rfl, rfl⟩

/-! ### The end of a fence -/

/-- What a fence's end leaves of its core, and what a load fence of a wide scope invalidates (R228, R250). -/
theorem fenceEnd_spec (s : State) (core : Nat) (kind : FenceKind) (sc : Scope) :
    (fenceEnd s core kind sc).mem = s.mem ∧ (execOf (fenceEnd s core kind sc) core).groups = (execOf s core).groups ∧
      (execOf (fenceEnd s core kind sc) core).blocks = (execOf s core).blocks ∧
      (execOf (fenceEnd s core kind sc) core).fences = (execOf s core).fences ∧
      (kind ≠ .st ∧ (sc = .device ∨ sc = .system) → (execOf (fenceEnd s core kind sc) core).l1 = []) := by
  have hclear : (l1Clear s core).mem = s.mem ∧ (execOf (l1Clear s core) core).groups = (execOf s core).groups ∧
      (execOf (l1Clear s core) core).blocks = (execOf s core).blocks ∧
      (execOf (l1Clear s core) core).fences = (execOf s core).fences ∧ (execOf (l1Clear s core) core).l1 = [] := by
    refine ⟨rfl, ?_⟩
    simp [l1Clear, Exec.noL1]
  obtain ⟨hmem, hgroups, hblocks, hfences, hl1⟩ := hclear
  have hwide : kind ≠ .st ∧ (sc = .device ∨ sc = .system) → (kind != .st && wideScope sc) = true := by
    rintro ⟨hk, rfl | rfl⟩ <;> simpa [wideScope] using hk
  unfold fenceEnd
  by_cases hw : (kind != .st && wideScope sc) = true
  · simp only [if_pos hw]
    split
    · refine ⟨hmem, ?_⟩
      rw [execOf_modExec]
      exact ⟨hgroups, hblocks, hfences, fun _ => hl1⟩
    · exact ⟨hmem, hgroups, hblocks, hfences, fun _ => hl1⟩
  · simp only [if_neg hw]
    split
    · refine ⟨rfl, ?_⟩
      rw [execOf_modExec]
      exact ⟨rfl, rfl, rfl, fun h => absurd (hwide h) hw⟩
    · exact ⟨rfl, rfl, rfl, rfl, fun h => absurd (hwide h) hw⟩

/-! ### A fence at issue -/

/-- The state in which a fence of the path has its number and is marked for the transposing buffer (R130). -/
def fenceNumbered (s : State) (c : Ctx) (sc : Scope) : State :=
  if sc = .group then { s with seqNo := s.seqNo + 1 }
  else modExec { s with seqNo := s.seqNo + 1 } c.core (fun x => { x with fenceAt := s.seqNo })

theorem fenceNumbered_mem (s : State) (c : Ctx) (sc : Scope) : (fenceNumbered s c sc).mem = s.mem := by
  unfold fenceNumbered
  split <;> rfl

section
variable {s : State} {i : Iss} {c : Ctx}

/-- Neither the issue nor the mark changes what a fence may cover. -/
theorem execOf_fenceNumbered (hi : issue s i = some c) (sc : Scope) :
    ∃ st n, execOf (fenceNumbered (issued s i c) c sc) c.core = { c.x with istore := st, fenceAt := n } := by
  obtain ⟨hcore, -, hx, -⟩ := issue_some hi
  obtain ⟨st, hst⟩ := execOf_issued s i c
  rw [← hcore] at hst hx
  rw [← hx] at hst
  unfold fenceNumbered
  split
  · exact ⟨st, c.x.fenceAt, hst⟩
  · refine ⟨st, (issued s i c).seqNo, ?_⟩
    rw [execOf_modExec]
    exact congrArg (fun x : Exec => { x with fenceAt := (issued s i c).seqNo }) hst

/-- A fence that issues ends at once, or its path waits for what it covers (R229). -/
theorem exec_fence {kind : FenceKind} {sc : Scope} {ins : Instr}
    (hins : ins = (match kind with | .ld => Instr.fenceLd i sc | .st => Instr.fenceSt i sc | .full => Instr.fenceFull i sc))
    (h : Issues s i c [] [] []) (hact : c.act ≠ []) :
    exec ins s = completes s (
      if fenceDone c.x (fenceFor c s.seqNo kind sc c.p.lanes) && (fenceFor c s.seqNo kind sc c.p.lanes).hostRead = 0 then
        fenceEnd (putGroup (fenceNumbered (issued s i c) c sc) c (movePath c c.g c.next)) c.core kind sc
      else modExec (putGroup (fenceNumbered (issued s i c) c sc) c (movePathStall c c.g c.next (.fence s.seqNo))) c.core
        (fun x => { x with fences := x.fences ++ [fenceFor c s.seqNo kind sc c.p.lanes] })) := by
  have hissue : exec ins s = completes s (fenceIssue s i kind sc) := by
    subst hins
    cases kind <;> rfl
  obtain ⟨st, n, hx⟩ := execOf_fenceNumbered h.1 sc
  have hf : { fenceFor { c with x := execOf (fenceNumbered (issued s i c) c sc) c.core } (issued s i c).seqNo kind sc c.p.lanes
      with redo := false } = fenceFor c s.seqNo kind sc c.p.lanes := by
    rw [hx, issued_seqNo]
    rfl
  rw [hissue, fenceIssue, issueWith_issues h, if_neg (by simpa using hact)]
  refine congrArg (completes s) ?_
  rw [← hf, ← issued_seqNo s i c]
  rfl

/-- A fence that covers nothing outstanding ends at once. -/
theorem fence_ends {kind : FenceKind} {sc : Scope} (hi : issue s i = some c) :
    let t := fenceEnd (putGroup (fenceNumbered (issued s i c) c sc) c (movePath c c.g c.next)) c.core kind sc
    t.mem = s.mem ∧ Moved c t c.next ∧ (execOf t i.core).fences = c.x.fences ∧
      (kind ≠ .st ∧ (sc = .device ∨ sc = .system) → (execOf t i.core).l1 = []) := by
  obtain ⟨hcore, -⟩ := issue_some hi
  obtain ⟨st, n, hx⟩ := execOf_fenceNumbered hi sc
  obtain ⟨hmem, hgroups, -, hfences, hl1⟩ :=
    fenceEnd_spec (putGroup (fenceNumbered (issued s i c) c sc) c (movePath c c.g c.next)) c.core kind sc
  rw [execOf_putGroup] at hgroups hfences
  refine ⟨hmem.trans ((fenceNumbered_mem _ _ _).trans (issued_mem s i c)), ?_, ?_, ?_⟩
  · rw [Moved, seen_of_alFind ((congrArg (alFind · c.slot) hgroups).trans (alFind_alPut_self _ _ _)), movePath_paths]
  · rw [← hcore, hfences, hx]
  · rw [← hcore]
    exact hl1

/-- Otherwise its lanes wait past it. -/
theorem fence_waits {sc : Scope} (f : FenceWait) (hi : issue s i = some c) :
    let t := modExec (putGroup (fenceNumbered (issued s i c) c sc) c (movePathStall c c.g c.next (.fence s.seqNo))) c.core
      (fun x => { x with fences := x.fences ++ [f] })
    t.mem = s.mem ∧ (execOf t i.core).fences = c.x.fences ++ [f] ∧
      ∀ l ∈ laneList c.p.lanes, LaneAt (c.seen t).g l c.next c.p.bar (.fence s.seqNo) := by
  obtain ⟨hcore, -, -, -, -, hp, -⟩ := issue_some hi
  obtain ⟨st, n, hx⟩ := execOf_fenceNumbered hi sc
  refine ⟨(fenceNumbered_mem _ _ _).trans (issued_mem s i c), ?_, fun l hl => ?_⟩
  · rw [← hcore, execOf_modExec, execOf_putGroup, hx]
  · have hslot : alFind (execOf (modExec (putGroup (fenceNumbered (issued s i c) c sc) c
        (movePathStall c c.g c.next (.fence s.seqNo))) c.core (fun x => { x with fences := x.fences ++ [f] })) c.core).groups c.slot =
          some (movePathStall c c.g c.next (.fence s.seqNo)) := by simp [execOf_putGroup]
    rw [seen_of_alFind hslot]
    exact laneAt_movePathStall hp _ _ hl

end

/-! ### The release of a waiting fence -/

/-- Waking the paths of a group changes that group alone. -/
theorem execOf_wakePaths {s : State} {core slot : Nat} {g : Group} (st : Stall) (redo : Bool)
    (hg : alFind (execOf s core).groups slot = some g) :
    ∃ recon, execOf (wakePaths s core slot st redo) core = { execOf s core with
      groups := alPut (execOf s core).groups slot (setPaths recon g
        (g.paths.map (fun p => if p.stall = st then { p with stall := .go, released := redo } else p))) } := by
  refine ⟨((alFind (execOf s core).blocks g.block).map (·.task.recon)).getD [], ?_⟩
  simp only [wakePaths, execOf_modExec, hg]

/-- A fence that is over leaves the list, and its paths go on where they waited. -/
theorem fenceOver_spec {s : State} {core : Nat} {f : FenceWait} {g : Group} (hg : alFind (execOf s core).groups f.slot = some g) :
    (fenceOver s core f).mem = s.mem ∧ (∀ x ∈ (execOf (fenceOver s core f) core).fences, x.id ≠ f.id) ∧
      (∃ g', alFind (execOf (fenceOver s core f) core).groups f.slot = some g' ∧
        ∀ p ∈ g.paths, p.stall = .fence f.id → ∀ l, p.lanes.getLsbD l = true → LaneAt g' l p.pc p.bar .go) ∧
      (f.kind ≠ .st ∧ (f.scope = .device ∨ f.scope = .system) → (execOf (fenceOver s core f) core).l1 = []) := by
  have hkept := fenceEnd_spec (modExec s core (fun x => { x with
    fences := x.fences.filter (fun g => g.id != f.id)
    atoms := x.atoms.map (fun a => if a.after = some f.id then { a with after := none } else a) })) core f.kind f.scope
  obtain ⟨hmem, hgroups, -, hfences, hl1⟩ := hkept
  rw [execOf_modExec] at hgroups hfences
  obtain ⟨recon, hwake⟩ := execOf_wakePaths (.fence f.id) f.redo ((congrArg (alFind · f.slot) hgroups).trans hg)
  refine ⟨hmem, fun x hx => ?_, ⟨_, (congrArg (fun x => alFind x.groups f.slot) hwake).trans (alFind_alPut_self _ _ _), ?_⟩, ?_⟩
  · rw [fenceOver, hwake, hfences] at hx
    simpa using (List.mem_filter.mp hx).2
  · intro p hp hstall l hl
    exact laneAt_setPaths _ _ _ _ _ _ _ ⟨_, List.mem_map.mpr ⟨p, hp, if_pos hstall⟩, hl, rfl, rfl, rfl⟩
  · intro h
    rw [fenceOver, hwake]
    exact hl1 h

/-- A waiting fence is over once everything that it covers has ended, unless it needs a read of the host. -/
theorem exec_fenceRelease {core id : Nat} {s : State} {f : FenceWait}
    (hf : (execOf s core).fences.find? (fun x => x.id == id) = some f) (hdone : fenceDone (execOf s core) f = true)
    (h1 : f.hostRead ≠ 1) (h2 : f.hostRead ≠ 2) : exec (.fenceRelease core id) s = completes s (fenceOver s core f) := by
  refine congrArg (completes s) ?_
  simp only [hf, hdone, Bool.not_true, Bool.false_eq_true, if_false, if_neg h1, if_neg h2]

/-- Settles O21: at issue the fence ends (`fence_ends`) or its lanes wait (`fence_waits`), and its release ends it
(`fenceOver_spec`). -/
theorem fencesWaitAndRelease : Obligations.FencesWaitAndRelease := by
  refine ⟨fun i kind sc s c ins hins h hact => ?_, fun core id s f g p l hf hdone h1 h2 hg hp hstall hl => ?_⟩
  · have he := exec_fence hins h hact
    by_cases hd : fenceDone c.x (fenceFor c s.seqNo kind sc c.p.lanes) = true ∧ (fenceFor c s.seqNo kind sc c.p.lanes).hostRead = 0
    · rw [if_pos (by simpa using hd)] at he
      obtain ⟨hmem, hmoved, hfences, hl1⟩ := fence_ends (kind := kind) (sc := sc) h.1
      exact ⟨_, he, hmem, fun _ => ⟨hmoved, hfences, hl1⟩, fun hn => absurd hd hn⟩
    · rw [if_neg (by simpa using hd)] at he
      obtain ⟨hmem, hfences, hlanes⟩ := fence_waits (sc := sc) (fenceFor c s.seqNo kind sc c.p.lanes) h.1
      exact ⟨_, he, hmem, fun h => absurd h hd, fun _ => ⟨hfences, hlanes⟩⟩
  · obtain rfl : f.id = id := by simpa using List.find?_some hf
    obtain ⟨hmem, hfences, ⟨g', hg', hlanes⟩, hl1⟩ := fenceOver_spec hg
    exact ⟨_, g', exec_fenceRelease hf hdone h1 h2, hmem, hfences, hg', hlanes p hp hstall l hl, hl1⟩

end Sys2Proof.Machine
end

section
/-! The exact line that a write leaves at its home: queued writes under accesses, the miss that allocates or bypasses, and the home
of the line afterwards (R252, R255, R259, R293). -/

namespace Sys2Proof.Machine

/-! ### Writes that controllers have queued (R293) -/

/-- Every controller of `t` has queued the writes that it has queued in `s`. -/
def SameQueued (s t : State) : Prop := ∀ h, (ctlOf t h).writes = (ctlOf s h).writes

namespace SameQueued

theorem of_ctls {s t : State} (h : t.mem.ctls = s.mem.ctls) : SameQueued s t := fun k => by rw [ctlOf, h, ctlOf]

theorem refl (s : State) : SameQueued s s := fun _ => rfl

theorem trans {s t u : State} (h : SameQueued s t) (h' : SameQueued t u) : SameQueued s u := fun k => (h' k).trans (h k)

/-- One of two ways on. -/
theorem ite {p : Prop} [Decidable p] {s t u : State} (ht : SameQueued s t) (hu : SameQueued s u) :
    SameQueued s (if p then t else u) := by
  split
  · exact ht
  · exact hu

theorem foldl {α : Type} {f : State → α → State} (hf : ∀ s a, SameQueued s (f s a)) (l : List α) (s : State) :
    SameQueued s (l.foldl f s) := foldl_related refl trans hf l s

end SameQueued

theorem OnlyHostSide.sameQueued {s t : State} (h : OnlyHostSide s t) : SameQueued s t := .of_ctls (by rw [h.mem])

/-- A change of a controller that keeps its writes. -/
theorem sameQueued_modCtl {s : State} {h : Nat} {g : Ctl → Ctl} (hg : (g (ctlOf s h)).writes = (ctlOf s h).writes) :
    SameQueued s (modCtl s h g) := by
  intro k
  simp only [ctlOf, modCtl, alMod, alGet_alPut]
  split
  · subst k; exact hg
  · rfl

theorem sameQueued_ctrAdd (s : State) (k code n : Nat) (part : Option Nat) : SameQueued s (ctrAdd s k code n part) :=
  .ite (.refl s) (.of_ctls rfl)

theorem sameQueued_ccBump (s : State) (r part tenant off n : Nat) : SameQueued s (ccBump s r part tenant off n) :=
  .trans (t := modRegion s r (fun x => { x with used := s.time })) (.of_ctls rfl)
    (.trans (.ite (.refl _) (sameQueued_ctrAdd _ _ _ _ _)) (onlyHostSide_bump _ _ _ _).sameQueued)

theorem sameQueued_staleReads (s : State) (pa : Nat) : SameQueued s (staleReads s pa) := by
  simp only [staleReads]
  split
  · exact .refl s
  · exact sameQueued_modCtl rfl

/-! ### Errors of a row (R300, R304, R305, R481) -/

theorem sameQueued_recordFault (s : State) (r : Resource) (uc : Bool) : SameQueued s (recordFault s r uc) :=
  .ite (onlyHostSide_raisePfSf _ _ _ _).sameQueued (.of_ctls rfl)

theorem sameQueued_retireNow (s : State) (g ctl : Nat) : SameQueued s (retireNow s g ctl) := by
  have hlisted : SameQueued s { s with mem.retired := alPut s.mem.retired g { pending := false, ctl := ctl } } := .of_ctls rfl
  simp only [retireNow]
  exact (SameQueued.ite hlisted (hlisted.trans (sameQueued_recordFault _ _ _))).trans (onlyHostSide_raiseEv _ _ _ _ _).sameQueued

theorem sameQueued_retireGranule (s : State) (g ctl : Nat) : SameQueued s (retireGranule s g ctl) := by
  simp only [retireGranule]
  refine .ite (.refl s) ?_
  split
  · exact sameQueued_retireNow _ _ _
  · have hpend : SameQueued s (markPending { s with mem.retired := alPut s.mem.retired g { pending := true, ctl := ctl } } g) :=
      .of_ctls rfl
    have hraised := hpend.trans (onlyHostSide_raiseEv _ pf gMEM 3 none).sameQueued
    exact .ite hraised (hraised.trans (onlyHostSide_raiseEv _ _ _ _ _).sameQueued)

theorem sameQueued_retireAll (s : State) (h : Nat) (gs : List Nat) : SameQueued s (retireAll s h gs) :=
  .ite (onlyHostSide_raiseEv _ _ _ _ _).sameQueued (.foldl (fun _ _ => sameQueued_retireGranule _ _ _) _ _)

theorem sameQueued_lastingFault_row (s : State) {r : Resource} (hrow : r.kind = 4) (uc : Bool) :
    SameQueued s (lastingFault s r uc) := by
  have honline (s : State) : SameQueued s (onlineAction s r) := by
    simp only [onlineAction, hrow]
    exact sameQueued_retireAll _ _ _
  exact .ite (.ite (honline _) (.refl s)) <| (sameQueued_recordFault s r uc).trans <|
    (((onlyHostSide_bump _ _ _ _).trans (onlyHostSide_bump _ _ _ _)).trans (onlyHostSide_raisePfSf _ _ _ _)).sameQueued.trans
      (honline _)

theorem sameQueued_uncorrectedErr_row (s : State) {r : Resource} (hrow : r.kind = 4) (tenants : List Nat) :
    SameQueued s (uncorrectedErr s (some r) tenants) :=
  .trans (.foldl (fun _ _ => ((onlyHostSide_bump _ _ _ _).trans (onlyHostSide_raiseEv _ _ _ _ _)).sameQueued) _ _)
    (sameQueued_lastingFault_row _ hrow _)

/-! ### Runs that a controller reads (R290, R298 to R300) -/

theorem sameQueued_sectorPoisoned (s : State) (h : Nat) (p : Place) (t sec at64 : Nat) (scrub : Bool) :
    SameQueued s (sectorPoisoned s h p t sec at64 scrub) := by
  have hmarked : SameQueued s { s with mem.poisoned := s.mem.poisoned ++ [at64] } := .of_ctls rfl
  exact (hmarked.trans ((onlyHostSide_memBump _ _ _ _).trans (onlyHostSide_memRaise _ _ _ _)).sameQueued).trans
    (sameQueued_uncorrectedErr_row _ rfl _)

theorem sameQueued_eccSector_nil (s : State) (pa k : Nat) (scrub : Bool) : SameQueued s (eccSector s pa k [] scrub) := by
  simp only [eccSector, eccOutcome_nil]
  split
  · exact .refl s
  next h m _ =>
    refine .ite (onlyHostSide_memLast _ _ _).sameQueued ?_
    by_cases her : 3 ≤ (erasedOf (ctlOf s h) (placeOf m).pc).length
    · simp only [if_pos her]
      exact sameQueued_sectorPoisoned _ _ _ _ _ _ _
    · simp only [if_neg her]
      exact .refl s

theorem sameQueued_openRow (s : State) (h : Nat) (p : Place) (part : Nat) : SameQueued s (openRow s h p part) :=
  .ite (.refl s) ((sameQueued_modCtl rfl).trans (sameQueued_ctrAdd _ _ _ _ _))

theorem sameQueued_chargeRuns (s : State) (h pc part n : Nat) (rt : Bool) : SameQueued s (chargeRuns s h pc part n rt) :=
  .ite (.refl s) (.ite (sameQueued_modCtl rfl) (sameQueued_modCtl rfl))

theorem sameQueued_directRun (s : State) (pa part tenant : Nat) (rt : Bool) : SameQueued s (directRun s pa part tenant rt) := by
  simp only [directRun]
  split
  · exact .refl s
  · exact (sameQueued_modCtl rfl).trans <| (sameQueued_openRow _ _ _ _).trans <| (sameQueued_chargeRuns _ _ _ _ _ _).trans <|
      (SameQueued.foldl (fun s i => sameQueued_eccSector_nil s _ _ _) _ _).trans <|
      (onlyHostSide_memBump _ _ _ _).sameQueued.trans (sameQueued_ctrAdd _ _ _ _ _)

/-- A fill that finds no way writes nothing back (R259). -/
theorem sameQueued_insertLine {s : State} {r set tag pa part tenant : Nat} {h : Hint} {age : Nat} {dirty : Bool} {data : Line}
    {poison : BitVec 2} (hno : (insertLine s r set tag pa part tenant h age dirty data poison).1 = false) :
    SameQueued s (insertLine s r set tag pa part tenant h age dirty data poison).2 := by
  revert hno
  simp only [insertLine]
  generalize trimKeepWays _ _ _ _ _ _ = trimmed
  obtain ⟨x, lost⟩ := trimmed
  have hcut : SameQueued s (ccBump (modRegion s r (fun _ => x)) r part tenant ccKeepLost lost) :=
    .trans (.of_ctls rfl) (sameQueued_ccBump _ _ _ _ _ _)
  have hready {c : Prop} [Decidable c] :=
    SameQueued.ite (p := c) (hcut.trans (sameQueued_ctrAdd _ (blkKey 1 r) 0x0B 1 (some part))) hcut
  generalize victim _ _ _ = v
  obtain ⟨w, y⟩ := v
  cases w with
  | none => exact fun _ => (hready.trans (.of_ctls rfl)).trans (sameQueued_ccBump _ _ _ _ _ _)
  | some w => exact fun hno => nomatch hno

/-! ### Lines that accesses keep -/

/-- The data of a line under queued writes do not depend on its poison. -/
theorem foldl_applyWrite_fst (ws : List MemWrite) (x y : Line × BitVec 2) (h : x.1 = y.1) :
    (ws.foldl (fun x w => applyWrite x.1 x.2 w) x).1 = (ws.foldl (fun x w => applyWrite x.1 x.2 w) y).1 := by
  induction ws generalizing x y with
  | nil => exact h
  | cons w r ih =>
    rw [List.foldl_cons, List.foldl_cons]
    refine ih _ _ ?_
    rw [applyWrite, applyWrite, h]

section
variable {s t : State}

/-- Accesses that queue no write leave what memory and its queued writes make of a line. -/
theorem memLine_fst_eq (hacc : Accesses s t) (hq : SameQueued s t) (pa : Nat) : (memLine t pa).1 = (memLine s pa).1 := by
  simp only [memLine, hacc.homeOf_eq, hacc.cells]
  cases homeOf s pa with
  | none => rfl
  | some x =>
    simp only [hq x.1]
    exact foldl_applyWrite_fst _ _ _ rfl

/-- So they leave what a home holds, where its slice's lines stay. -/
theorem homeLine_of_sameSlices (hs : SameSlices s t) (hq : SameQueued s t) (pa : Nat) : homeLine t pa = homeLine s pa := by
  simp only [homeLine, hs.homeSlice_eq, memLine_fst_eq hs.toAccesses hq, findWay_of_lines (hs.lines _), sideOf, hs.side]

end

/-- The last write queued for a line lies over what was there (R293). -/
theorem memLine_ctlWrite_eq {s : State} {w : MemWrite} (h : (homeOf s w.pa).isSome = true) :
    (memLine (ctlWrite s w) w.pa).1 = lineMerge (memLine s w.pa).1 w.data w.mask := by
  obtain ⟨⟨c, m⟩, hhome⟩ := Option.isSome_iff_exists.mp h
  have hkept : homeOf (ctlWrite s w) w.pa = some (c, m) := by
    rw [(offSlices_ctlWrite s w).homeOf_eq, hhome]
  have hwrites : (ctlOf (ctlWrite s w) c).writes = (ctlOf s c).writes ++ [{ w with after := s.mem.nextRead }] := by
    simp [ctlWrite, hhome, ctlOf, modCtl, alMod, wakeCtl]
  have hlast : ([{ w with after := s.mem.nextRead }].filter fun v : MemWrite => v.pa == w.pa) =
      [{ w with after := s.mem.nextRead }] := by simp
  simp only [memLine, hkept, hhome, hwrites, List.filter_append, List.foldl_append, hlast, List.foldl_cons, List.foldl_nil]
  exact congrArg (lineMerge · w.data w.mask) (foldl_applyWrite_fst _ _ _ (by rw [(offSlices_ctlWrite s w).cells]))

/-! ### Writes at a home -/

/-- A write of every byte leaves nothing of what was there. -/
theorem lineMerge_full (d d' new : Line) {mask : LineMask} (h : maskFull mask = true) : lineMerge d new mask = lineMerge d' new mask := by
  have hmask : mask = BitVec.allOnes 128 := by simpa [maskFull] using h
  subst hmask
  refine congrArg (fun bs : List Byte => BitVec.ofNat 1024 (leNat bs)) (List.map_congr_left fun k hk => ?_)
  rw [BitVec.getLsbD_allOnes, decide_eq_true (List.mem_range.mp hk), if_pos rfl, if_pos rfl]

/-- A write that misses lies over what the home held, in the slice or through to memory (R259). -/
theorem homeLine_written_absent_eq {s : State} {pa r set tag : Nat} (hs : homeSlice s pa = some (r, set, tag))
    (hf : findWay (regionOf s r) set tag = none) (hside : sideOf (regionOf s r) pa = none) (part tenant : Nat) (h : Hint) (age : Nat)
    {d0 : Line} (p : BitVec 2) {w : MemWrite} (hw : w.pa = pa)
    (hd0 : lineMerge d0 w.data w.mask = lineMerge (homeLine s pa) w.data w.mask) {x : Bool × State}
    (hx : insertLine s r set tag pa part tenant h age true (lineMerge d0 w.data w.mask) p = x) :
    homeLine (if x.1 = true then x.2 else ctlWrite x.2 w) pa = lineMerge (homeLine s pa) w.data w.mask := by
  obtain ⟨hacc, hins⟩ := insertLine_spec s r set tag pa part tenant h age true (lineMerge d0 w.data w.mask) p
  rw [hx] at hacc hins
  have hfind := hins.findWay hf
  have hslice : homeSlice x.2 pa = some (r, set, tag) := (hacc.homeSlice_eq pa).trans hs
  split at hfind
  next hok =>
    obtain ⟨k, l, hkl, hdata⟩ := hfind
    rw [if_pos hok, homeLine_of_found hslice hkl, hdata, hd0]
  next hok =>
    obtain ⟨hnone, hkept⟩ := hfind
    have hthrough := offSlices_ctlWrite x.2 w
    have hqueued : SameQueued s x.2 := by
      subst hx
      exact sameQueued_insertLine (by simpa using hok)
    rw [if_neg hok, homeLine_of_absent ((hthrough.homeSlice_eq pa).trans hslice) (by rw [hthrough.regionOf_eq, hnone])
      (by rw [hthrough.regionOf_eq, sideOf, hkept]; exact hside), homeLine_of_absent hs hf hside, ← memLine_fst_eq hacc hqueued, ← hw]
    exact memLine_ctlWrite_eq (homeOf_of_homeSlice (by rw [hw, hslice]; rfl))

/-- A write performed at a line's home lies over what the home held (R252, R255, R259). -/
theorem homeLine_homeWrite_eq {s : State} {pa : Nat} (part tenant : Nat) (h : Hint) (mask : LineMask) (data : Line)
    (poison : BitVec 2) (rt : Bool) (hhome : Homed s pa) :
    homeLine (homeWrite s pa part tenant h mask data poison rt) pa = lineMerge (homeLine s pa) data mask := by
  obtain ⟨r, set, tag, hs, hside⟩ := hhome
  have hlook : SameSlices s (staleReads (ccBump s r part tenant ccLookup 1) pa) :=
    (sameSlices_ccBump s r part tenant ccLookup 1).trans (offSlices_staleReads _ pa).sameSlices
  have hline := homeLine_of_sameSlices hlook ((sameQueued_ccBump _ _ _ _ _ _).trans (sameQueued_staleReads _ _)) pa
  have hs1 := (hlook.homeSlice_eq pa).trans hs
  have hside1 : sideOf (regionOf (staleReads (ccBump s r part tenant ccLookup 1) pa) r) pa = none := by
    rw [sideOf, hlook.side]
    exact hside
  simp only [homeWrite, hs]
  rw [← hline]
  generalize staleReads (ccBump s r part tenant ccLookup 1) pa = s1 at hs1 hside1
  cases hf : findWay (regionOf s1 r) set tag with
  | some kl =>
    obtain ⟨k, l⟩ := kl
    have hhit := sameSlices_ccBump s1 r part tenant ccHit 1
    rw [homeLine_of_found hs1 hf]
    simp only [homeLine_bumpStamp]
    exact homeLine_written_found ((hhit.homeSlice_eq pa).trans hs1) ((findWay_of_lines (hhit.lines r) set tag).trans hf) (by rfl) _
  | none =>
    simp only [hside1, homeLine_bumpStamp]
    split
    next hfull =>
      exact homeLine_written_absent_eq hs1 hf hside1 part tenant _ _ _
        (w := { pa := pa, mask := mask, data := data, poison := poison, part := part, rt := rt }) rfl
        (lineMerge_full _ _ _ hfull) rfl
    · have hrun := offSlices_directRun s1 pa part tenant rt
      have hkept := homeLine_of_sameSlices hrun.sameSlices (sameQueued_directRun s1 pa part tenant rt) pa
      have hs2 := (hrun.homeSlice_eq pa).trans hs1
      have hf2 : findWay (regionOf (directRun s1 pa part tenant rt) r) set tag = none := by rw [hrun.regionOf_eq, hf]
      have hside2 : sideOf (regionOf (directRun s1 pa part tenant rt) r) pa = none := by rw [hrun.regionOf_eq, hside1]
      rw [← hkept]
      exact homeLine_written_absent_eq hs2 hf2 hside2 part tenant _ _ _
        (w := { pa := pa, mask := mask, data := data, poison := poison, part := part, rt := rt }) rfl
        (by rw [homeLine_of_absent hs2 hf2 hside2]) rfl

/-! ### The home after a write -/

theorem Inserted.side {x y : Region} {set tag : Nat} {data : Line} {ok : Bool} (h : Inserted x set tag data ok y) : y.side = x.side := by
  cases h with
  | bypass haged y hlines hside => exact hside.trans haged.side
  | filled haged w l hw htag hdata => exact haged.side

theorem sideOf_congr {x y : Region} (h : y.side = x.side) (pa : Nat) : sideOf y pa = sideOf x pa := by rw [sideOf, h, sideOf]

theorem side_touchLine (s : State) (r set w : Nat) (l : SliceLine) (h : Hint) :
    (regionOf (touchLine s r set w l h) r).side = (regionOf s r).side := by
  obtain ⟨l', -, -, htouch⟩ := touchLine_eq s r set w l h
  rw [htouch, regionOf_modRegion_self]
  rfl

theorem side_written_absent (s : State) (r set tag pa part tenant : Nat) (h : Hint) (age : Nat) (data : Line) (p : BitVec 2)
    (w : MemWrite) :
    (regionOf (if (insertLine s r set tag pa part tenant h age true data p).1 = true then
        (insertLine s r set tag pa part tenant h age true data p).2
      else ctlWrite (insertLine s r set tag pa part tenant h age true data p).2 w) r).side = (regionOf s r).side := by
  have hside := (insertLine_spec s r set tag pa part tenant h age true data p).2.side
  split
  · exact hside
  · rw [(offSlices_ctlWrite _ w).regionOf_eq]
    exact hside

/-- A write puts nothing into the side buffer of its line. -/
theorem homed_homeWrite {s : State} {pa : Nat} (part tenant : Nat) (h : Hint) (mask : LineMask) (data : Line) (poison : BitVec 2)
    (rt : Bool) (hhome : Homed s pa) : Homed (homeWrite s pa part tenant h mask data poison rt) pa := by
  have hslice := (accesses_homeWrite s pa part tenant h mask data poison rt).homeSlice_eq pa
  obtain ⟨r, set, tag, hs, hside⟩ := hhome
  refine ⟨r, set, tag, hslice.trans hs, ?_⟩
  have hlook : SameSlices s (staleReads (ccBump s r part tenant ccLookup 1) pa) :=
    (sameSlices_ccBump s r part tenant ccLookup 1).trans (offSlices_staleReads _ pa).sameSlices
  have hside1 := (sideOf_congr (hlook.side r) pa).trans hside
  simp only [homeWrite, hs]
  generalize staleReads (ccBump s r part tenant ccLookup 1) pa = s1 at hside1
  cases hf : findWay (regionOf s1 r) set tag with
  | some kl =>
    rw [regionOf_modRegion_self]
    exact (sideOf_congr ((side_touchLine _ _ _ _ _ _).trans ((sameSlices_ccBump s1 r part tenant ccHit 1).side r)) pa).trans hside1
  | none =>
    simp only [hside1, regionOf_modRegion_self]
    split
    · exact (sideOf_congr (side_written_absent ..) pa).trans hside1
    · refine (sideOf_congr ((side_written_absent ..).trans ?_) pa).trans hside1
      rw [(offSlices_directRun s1 pa part tenant rt).regionOf_eq]

end Sys2Proof.Machine
end

section
/-! The far ends of device accesses (R219, R221 to R223, R248): a load that returns, a write-buffer entry that drains and an atomic that
is performed at its line's home. -/

namespace Sys2Proof.Machine

/-! ### Bytes of a line and of a register -/

theorem lineByte_lineMerge (old new : Line) (mask : LineMask) {k : Nat} (hk : k < 128) :
    lineByte (lineMerge old new mask) k = if mask.getLsbD k then lineByte new k else lineByte old k := lineByte_lineOf _ hk

/-- Bytes that a mask covers are those merged in. -/
theorem lineSlice_lineMerge_new (old new : Line) {mask : LineMask} {off n : Nat} (hfit : off + n ≤ 128)
    (hmask : ∀ i < n, mask.getLsbD (off + i) = true) : lineSlice (lineMerge old new mask) off n = lineSlice new off n := by
  rw [lineSlice_eq_map, lineSlice_eq_map]
  refine List.map_congr_left fun i hi => ?_
  have hi := List.mem_range.mp hi
  rw [lineByte_lineMerge _ _ _ (by omega), if_pos (hmask i hi)]

/-- The registers of a lane hold the bytes that it has loaded. -/
theorem lane_registers_loaded (x : Word) (free : DWord) (v : Nat) {n : Nat} (hn : LoadSize n) {bs : List Byte} (hb : bs.length = n)
    {l : Nat} (hl : l < 32) (g : Group) :
    ((List.range (max 1 (n / 4))).flatMap
      (fun w => leBytes 4 (alGet x (loadLanes free v n (fun _ => bs) [l] g).regs (32 * (v + w) + l)).toNat)).take n = bs := by
  subst hb
  have hlen := length_padded free hn
  have hwords : ∀ w ∈ List.range (max 1 (bs.length / 4)),
      leBytes 4 (alGet x (loadLanes free v bs.length (fun _ => bs) [l] g).regs (32 * (v + w) + l)).toNat =
        leBytes 4 (loadedWord (padded free bs) w).toNat := by
    intro w hw
    have hwhole : loadLanes free v bs.length (fun _ => bs) [l] g =
        loadLanes free v (4 * max 1 (bs.length / 4)) (fun _ => padded free bs) [l] g := writeLoaded_padded free g v l hn
    rw [hwhole, alGet_loadLanes x free v (List.mem_range.mp hw) hl (fun _ => hlen) [l] (by simpa using hl) g, if_pos (by simp)]
  rw [List.flatMap_congr hwords, flatMap_loadedWord hlen, padded, List.take_left]

/-! ### A load that returns (R222, R248) -/

theorem Accesses.execOf {s t : State} (h : Accesses s t) (c : Nat) : Machine.execOf t c = Machine.execOf s c := by
  rw [Machine.execOf, coreOf, h.cores, Machine.execOf, coreOf]

theorem l1Fill_loads (s : State) (c part tenant : Nat) (t : Target) (h : Hint) (d : Line) (st : BitVec 24) (p : BitVec 2) :
    (execOf (l1Fill s c part tenant t h d st p) c).loads = (execOf s c).loads := by
  obtain ⟨l1, hx⟩ := l1Victim_l1 (execOf s c) (l1Base (execOf s c) t)
  simp only [l1Fill, hx]
  split
  · rfl
  split
  · rw [execOf_modExec]
  split
  · rw [execOf_modExec]
  split
  · rw [execOf_modExec]
  split
  · rw [execOf_modExec]
  · exact (congrArg Exec.loads ((accesses_ccBump ..).execOf c)).trans (by rw [execOf_modExec])

/-- Data without poison are delivered to the lanes of the load, which leaves the list. -/
theorem deliverLoad_spec {s : State} {core : Nat} {m : Load} {g : Group} (d : Line) (st : BitVec 24) (hclean : m.fwdPoison = false)
    (hg : alFind (execOf s core).groups m.slot = some g) :
    (deliverLoad s core m d st 0).mem.mem = s.mem.mem ∧
      (∀ l ∈ (execOf (deliverLoad s core m d st 0) core).loads, l.id ≠ m.id) ∧
      ∃ free, alFind (execOf (deliverLoad s core m d st 0) core).groups m.slot = some (m.lanes.foldl (fun g e =>
        writeLoaded free g m.dst e.lane m.size e.off (pieceBytes d m.fwd m.fwdMask e.pos e.n)) g) := by
  have hgone : ∀ l ∈ (execOf (modExec s core (fun x => { x with loads := x.loads.filter (fun l => l.id != m.id) })) core).loads,
      l.id ≠ m.id := fun l hl => by
    rw [execOf_modExec] at hl
    simpa using (List.mem_filter.mp hl).2
  have hkept : (execOf (modExec s core (fun x => { x with loads := x.loads.filter (fun l => l.id != m.id) })) core).groups =
      (execOf s core).groups := by rw [execOf_modExec]
  have hpoison : (m.fwdPoison || (0 &&& maskSectors (m.lanes.foldl (fun k e => k ||| maskOf e.pos e.n) 0 &&& ~~~m.fwdMask)) != 0) =
      false := by simp [hclean]
  rw [deliverLoad, hpoison]
  dsimp only
  rw [if_neg Bool.false_ne_true]
  generalize hs1 : modExec s core (fun x => { x with loads := x.loads.filter (fun l => l.id != m.id) }) = s1 at hgone hkept
  have hcells : s1.mem.mem = s.mem.mem := by rw [← hs1]; rfl
  generalize hs2 : (if m.nofill || (m.got.isSome && (l1Find (execOf s1 core) m.target).isSome) then s1
    else l1Fill s1 core m.part m.tenant m.target m.hint d st 0) = s2
  have hwork : KeepsWork s1 s2 := hs2 ▸ .ite (.refl _) (keepsWork_l1Fill ..)
  have hloads : (execOf s2 core).loads = (execOf s1 core).loads := by
    rw [← hs2]; split
    · rfl
    · exact l1Fill_loads ..
  obtain ⟨free, n, hfree⟩ := ite_takeFree (m.size < 4) s2
  rw [hfree]
  have hg2 : alFind (execOf { s2 with freeCtr := n } core).groups m.slot = some g := by
    rw [← hg, ← hkept, ← hwork.exec.groups]; rfl
  refine ⟨hwork.cells.trans hcells, ?_, free, ?_⟩
  · rw [execOf_modExec, hg2]
    exact fun l hl => hgone l (hloads ▸ hl)
  · rw [execOf_modExec, hg2]
    exact alFind_alPut_self ..

/-- A load whose data have come, and that no older load of its line is ahead of, is delivered. -/
theorem exec_loadReturn_got {s : State} {core id : Nat} {m : Load} {d : Line} {st : BitVec 24} {p : BitVec 2}
    (hm : (execOf s core).loads.find? (fun l => l.id == id) = some m)
    (hfirst : ∀ l ∈ (execOf s core).loads, l.target = m.target → m.id ≤ l.id) (hok : m.failed = none) (hgot : m.got = some (d, st, p)) :
    exec (.loadReturn core id) s = completes s (deliverLoad s core m d st p) := by
  have hahead : (execOf s core).loads.any (fun l => l.target == m.target && decide (l.id < m.id)) = false := by
    simpa using hfirst
  change execLoadReturn core id s = _
  simp only [execLoadReturn, hm, hahead, hok, hgot, Bool.false_eq_true, if_false]

theorem loadSize_of_mem {n : Nat} (hn : n ∈ [1, 2, 4, 8, 16]) : LoadSize n := by
  revert n
  simp [LoadSize]

/-! ### A write-buffer entry that drains (R219, R221) -/

/-- An entry of a local line is performed at the line's home and leaves the buffer. -/
theorem drainEntry_loc {s : State} {core pa : Nat} {e : WbEntry} (ht : e.target = .loc pa) (hhome : Homed s pa)
    (hawake : homeAwake s pa = true)
    (hready : maskFull e.mask = true ∨ homeReady s pa e.part (nodeIsRt s (e.nodes.headD noNode)) = true) :
    (∀ w ∈ (execOf (drainEntry s core e) core).wb, w.id ≠ e.id) ∧
      homeLine (drainEntry s core e) pa = lineMerge (homeLine s pa) e.data e.mask ∧ (drainEntry s core e).mem.mem = s.mem.mem := by
  have hgo : (!homeAwake s pa || (!maskFull e.mask && !homeReady s pa e.part (nodeIsRt s (e.nodes.headD noNode)))) = false := by
    rw [hawake]
    rcases hready with h | h
    · rw [h]; rfl
    · rw [h, Bool.not_true, Bool.and_false, Bool.or_false]
  simp only [drainEntry, ht, hgo, Bool.false_eq_true, if_false]
  refine ⟨fun w hw => ?_, ?_, (accesses_homeWrite ..).cells⟩
  · rw [execOf_modExec] at hw
    simpa using (List.mem_filter.mp hw).2
  · rw [homeLine_modExec, homeLine_modExec, homeLine_homeWrite_eq _ _ _ _ _ _ _ hhome]

theorem exec_writeBufferDrain {s : State} {core entry : Nat} {e : WbEntry}
    (he : (execOf s core).wb.find? (fun w => w.id == entry) = some e) (hmay : mayDrain (execOf s core) e = true) :
    exec (.writeBufferDrain core entry) s = completes s (drainEntry s core e) := by
  change execWriteBufferDrain core entry s = _
  simp only [execWriteBufferDrain, he, hmay, if_true]

theorem mayDrain_of {x : Exec} {e : WbEntry} (hsent : e.sent = false) (hheld : heldBack x e = false)
    (hfirst : ∀ w ∈ x.wb, w.target = e.target → e.id ≤ w.id) : mayDrain x e = true := by
  have : x.wb.any (fun w => w.target == e.target && decide (w.id < e.id)) = false := by simpa using hfirst
  simp [mayDrain, hsent, hheld, this]

/-! ### An atomic at its home (R223) -/

/-- A home that holds the line, and is awake, takes a partial write. -/
theorem homeReady_of_findWay {s : State} {pa part r set tag : Nat} {rt : Bool} {w : Nat × SliceLine}
    (hs : homeSlice s pa = some (r, set, tag)) (hw : findWay (regionOf s r) set tag = some w) (hawake : sliceAwake s r = true) :
    homeReady s pa part rt = true := by
  obtain ⟨x, hx⟩ := Option.isSome_iff_exists.mp (homeOf_of_homeSlice (by rw [hs]; rfl))
  simp [homeReady, hs, hx, hw, hawake]

theorem atomNew_writes {op : AtomOp} (hop : op ≠ .cas) (n old b c : Nat) : (atomNew op n old b c).2 = true := by
  cases op with
  | cas => exact absurd rfl hop
  | _ => rfl

theorem maskOf_ne_zero {off n : Nat} (hfit : off + n ≤ 128) (hn : n ≠ 0) : maskOf off n ≠ 0 := fun h => by
  have := getLsbD_maskOf hfit (Nat.pos_of_ne_zero hn)
  simp [h] at this

/-- An atomic of one lane that writes, on a line that its slice holds, performs its new value at the home and returns the old one. -/
theorem exec_atomicPerform_loc {s : State} {core id pa r set tag k new : Nat} {a : Atomic} {e : AtomLane} {line : SliceLine}
    (ha : (execOf s core).atoms.find? (fun x => x.id == id) = some a) (hok : a.failed = none) (hafter : a.after = none)
    (hsent : a.sent = false) (ht : a.target = .loc pa) (hlanes : a.lanes = [e]) (horder : a.order = .none)
    (hsize : a.size ≠ 0) (hfit : e.pos + a.size ≤ 128) (hheld : atomHeld (execOf s core) a = false)
    (hawake : sliceAwake s r = true) (hahead : storeAhead (execOf s core) (.loc pa) = false) (hs : homeSlice s pa = some (r, set, tag))
    (hw : findWay (regionOf s r) set tag = some (k, line)) (hclean : line.poison = 0)
    (hnew : atomNew a.op a.size (leNat (lineSlice line.data e.pos a.size)) (e.b.toNat % 2 ^ (8 * a.size))
      (e.c.toNat % 2 ^ (8 * a.size)) = (new, true)) :
    ∃ rt t, exec (.atomicPerform core id) s = completes s t ∧
      t = atomGone (atomReturn (homeWrite s pa a.part a.tenant a.hint (maskOf e.pos a.size)
        (lineMerge line.data (linePlace e.pos (leBytes a.size new)) (maskOf e.pos a.size)) 0 rt) core a.slot a.dst a.size
          [(e.lane, leNat (lineSlice line.data e.pos a.size))]) core a := by
  have hpeek : homePeek s pa = (line.data, 0) := by rw [homePeek, hs]; simp only [hw, hclean]
  have hpoison : ((0 : BitVec 2) &&& maskSectors (maskOf e.pos a.size) != 0) = false := by simp
  have hmask : (0 : LineMask) ||| maskOf e.pos a.size = maskOf e.pos a.size := by simp
  have hplain : (MemOrder.none != .acq) = true := rfl
  refine ⟨nodeIsRt s ((((alFind (execOf s core).groups a.slot).bind
    (fun g => alFind (execOf s core).blocks g.block)).map (·.task.node)).getD 0), _, ?_, rfl⟩
  change execAtomicPerform core id s = _
  simp only [execAtomicPerform, ha, hok, hafter, hsent, hheld, ht, hahead, homeReady_of_findWay hs hw hawake, hpeek, hlanes, hnew,
    List.foldl_cons, List.foldl_nil, Option.isSome_none, Bool.or_self, Bool.not_true, Bool.true_or, Bool.false_eq_true, if_false, if_true,
    hmask, hpoison, maskOf_ne_zero hfit hsize, List.nil_append, atomDone, horder, hplain]

/-- A performed atomic writes its old value to the lane's registers and leaves the list; lines are as they were. -/
theorem atomGone_atomReturn_spec {s t : State} {core d l old : Nat} {a : Atomic} {g : Group}
    (ht : t = atomGone (atomReturn s core a.slot (some d) a.size [(l, old)]) core a)
    (hg : alFind (execOf s core).groups a.slot = some g) :
    t.mem = s.mem ∧ (∀ pa, homeLine t pa = homeLine s pa) ∧ (∀ x ∈ (execOf t core).atoms, x.id ≠ a.id) ∧
      ∃ free, alFind (execOf t core).groups a.slot = some (loadLanes free d a.size (fun _ => leBytes a.size old) [l] g) := by
  subst ht
  obtain ⟨hmem, -, free, hgroup⟩ := atomReturn_spec d a.size l old hg
  have hregions : (atomReturn s core a.slot (some d) a.size [(l, old)]).regions = s.regions := by
    obtain ⟨free, m, hfree⟩ := ite_takeFree (a.size < 4) s
    simp only [atomReturn, hfree]
    rfl
  refine ⟨hmem, fun pa => (homeLine_modExec ..).trans (homeLine_congr hregions hmem pa), fun x hx => ?_, free, ?_⟩
  · rw [atomGone, execOf_modExec] at hx
    simpa using (List.mem_filter.mp hx).2
  · rw [atomGone, execOf_modExec]
    exact hgroup

/-- Settles O20, each far end from what its step does: the delivery of one load (`deliverLoad_spec`), the drain of one entry
(`drainEntry_loc`) and one atomic at its home (`exec_atomicPerform_loc`), with the exact line that a write leaves there. -/
theorem deviceAccessesEnd : Obligations.DeviceAccessesEnd := by
  unfold Obligations.DeviceAccessesEnd
  refine ⟨?_, ?_, ?_⟩
  · intro core id s m g d st e hm hfirst hok hgot hclean hlanes hoff hn hfit hsize hlane hg
    obtain ⟨hmem, hgone, free, hgroup⟩ := deliverLoad_spec d st hclean hg
    have hid : m.id = id := by simpa using List.find?_some hm
    refine ⟨_, _, exec_loadReturn_got hm hfirst hok hgot, hmem, hid ▸ hgone, hgroup, ?_⟩
    rw [hlanes, List.foldl_cons, List.foldl_nil, hoff, hn]
    exact lane_registers_loaded 0 free m.dst (loadSize_of_mem hsize) (length_leBytes _ _) hlane g
  · intro core entry s e pa r set tag he hsent hheld hfirst ht hs hside hawake hready
    obtain ⟨hgone, hline, hmem⟩ := drainEntry_loc (core := core) ht ⟨r, set, tag, hs, hside⟩ (by rw [homeAwake, hs]; exact hawake) hready
    have hid : e.id = entry := by simpa using List.find?_some he
    exact ⟨_, exec_writeBufferDrain he (mayDrain_of hsent hheld hfirst), hid ▸ hgone, hline, hmem⟩
  · intro core id s a g pa r set tag e d w line ha hok hafter hsent htarget hlanes hdst hsize horder hfit hop hlane hheld hawake hahead
      hs hw hclean hside hg
    dsimp only
    obtain ⟨hn, hwords, hfour⟩ : LoadSize a.size ∧ max 1 (a.size / 4) = a.size / 4 ∧ a.size / 4 * 4 = a.size := by
      rcases List.mem_cons.mp hsize with h | h
      · simp [LoadSize, h]
      · simp [LoadSize, List.mem_singleton.mp h]
    obtain ⟨new, hnew⟩ : ∃ new, atomNew a.op a.size (leNat (lineSlice line.data e.pos a.size)) (e.b.toNat % 2 ^ (8 * a.size))
        (e.c.toNat % 2 ^ (8 * a.size)) = (new, true) := ⟨_, Prod.ext rfl (atomNew_writes hop ..)⟩
    obtain ⟨rt, t, hexec, ht⟩ := exec_atomicPerform_loc ha hok hafter hsent htarget hlanes horder hn.1 hfit hheld hawake hahead hs hw
      hclean hnew
    rw [hdst] at ht
    have hlen : (lineSlice line.data e.pos a.size).length = a.size := length_leBytes ..
    have hid : a.id = id := by simpa using List.find?_some ha
    rw [hnew]
    have hacc := accesses_homeWrite s pa a.part a.tenant a.hint (maskOf e.pos a.size)
      (lineMerge line.data (linePlace e.pos (leBytes a.size new)) (maskOf e.pos a.size)) 0 rt
    have hwritten := homeLine_homeWrite_eq a.part a.tenant a.hint (maskOf e.pos a.size)
      (lineMerge line.data (linePlace e.pos (leBytes a.size new)) (maskOf e.pos a.size)) 0 rt ⟨r, set, tag, hs, hside⟩
    obtain ⟨hmem, hlines, hgone, free, hgroup⟩ := atomGone_atomReturn_spec ht (by rw [hacc.execOf core]; exact hg)
    refine ⟨_, _, hexec, hid ▸ hgone, hgroup, ?_, ?_, (congrArg (·.mem) hmem).trans hacc.cells⟩
    · have hwhole := lane_registers_loaded 0 free d hn (length_leBytes a.size (leNat (lineSlice line.data e.pos a.size))) hlane g
      rw [hwords, List.take_of_length_le (by simp [hfour])] at hwhole
      exact hwhole.trans ((congrArg (leBytes · (leNat (lineSlice line.data e.pos a.size))) hlen.symm).trans (leBytes_leNat _))
    · refine (congrArg (lineSlice · e.pos a.size) ((hlines pa).trans hwritten)).trans ?_
      rw [lineSlice_lineMerge_new _ _ hfit fun i hi => getLsbD_maskOf hfit hi]
      have := lineSlice_lineMerge_self line.data (off := e.pos) (bs := leBytes a.size new) (by rwa [length_leBytes])
      rwa [length_leBytes] at this

end Sys2Proof.Machine
end

section
/-! The completion of a node (R237, R365, R368): its record at the producer index, the flag that it sets, and its count in the job. -/

namespace Sys2Proof.Machine

/-! ### What a completion leaves alone when no node is resident -/

theorem forall_mem_alPut {α : Type} {P : α → Prop} {m : AL α} {k : Nat} {v : α} (hm : ∀ e ∈ m, P e.2) (hv : P v) :
    ∀ e ∈ alPut m k v, P e.2 := by
  induction m with
  | nil => simpa [alPut] using hv
  | cons e r ih =>
    obtain ⟨he, hr⟩ := List.forall_mem_cons.mp hm
    simp only [alPut]
    split
    · exact List.forall_mem_cons.mpr ⟨hv, hm⟩
    split
    · exact List.forall_mem_cons.mpr ⟨hv, hr⟩
    · exact List.forall_mem_cons.mpr ⟨he, ih hr⟩

theorem holdsBack_of_mirrors {s : State} (h : mirrors s = false) : holdsBack s = false := by
  simp only [mirrors, Bool.and_eq_false_iff, Bool.or_eq_false_iff] at h
  simp only [holdsBack, Bool.and_eq_false_iff]
  exact h.imp_right And.right

theorem mirror_of_not_mirrors {s : State} (h : mirrors s = false) (r : Mirror) : mirror s r = s := by
  simp only [mirror, h, Bool.not_false, if_true]

/-- Outside a twin exchange and with no node resident, a flag takes its value and nothing waits on it (R362). -/
theorem setFlag_of_no_nodes {s : State} (hnodes : s.fe.nodes = []) (hm : mirrors s = false) (flag v : Nat) :
    ∃ m, setFlag s flag v = { s with fe.flags := flagsWith s.fe.flags flag v, seqNo := m } := by
  have hmirror : mirror { s with fe.flags := flagsWith s.fe.flags flag v } (.flagSet flag v) =
      { s with fe.flags := flagsWith s.fe.flags flag v } := mirror_of_not_mirrors (by exact hm) _
  have hback : holdsBack { s with fe.flags := flagsWith s.fe.flags flag v } = false := holdsBack_of_mirrors hm
  have hset : setFlag s flag v = if holdsBack (mirror { s with fe.flags := flagsWith s.fe.flags flag v } (.flagSet flag v))
      then mirror { s with fe.flags := flagsWith s.fe.flags flag v } (.flagSet flag v)
      else wakeWaiters (mirror { s with fe.flags := flagsWith s.fe.flags flag v } (.flagSet flag v)) flag v := rfl
  refine ⟨s.seqNo + 1, ?_⟩
  rw [hset, hmirror, hback, if_neg Bool.false_ne_true]
  simp [wakeWaiters, takeSeq, hnodes, alMap]

theorem testCommits_of_none_due {s : State} (h : ∀ e ∈ s.fe.jobs, e.2.commitDue = false) : testCommits s = s := by
  rw [testCommits, List.filter_eq_nil_iff.mpr fun e he => by simp [h e he], List.foldl_nil]

theorem releaseNodes_of_no_nodes {s : State} (hnodes : s.fe.nodes = []) (k : Nat) : releaseNodes s k = s := by
  rw [releaseNodes]
  split
  · rfl
  · simp [nodesOf, hnodes]

theorem releaseHeld_of_no_nodes {s : State} (hnodes : s.fe.nodes = []) : releaseHeld s = s := by
  rw [releaseHeld]
  exact List.foldl_fixed' (fun k => releaseNodes_of_no_nodes hnodes k) _

/-! ### Shot clocks (R376) -/

/-- `t` is `s` with other queues, of which each keeps its producer index. -/
def OnlyClocks (s t : State) : Prop :=
  ∃ queues, t = { s with fe.queues := queues } ∧
    ∀ k q, alFind s.fe.queues k = some q → ∃ q', alFind queues k = some q' ∧ q'.prod = q.prod

theorem OnlyClocks.refl (s : State) : OnlyClocks s s := ⟨_, rfl, fun _ q h => ⟨q, h, rfl⟩⟩

theorem OnlyClocks.trans {s t u : State} (h : OnlyClocks s t) (h' : OnlyClocks t u) : OnlyClocks s u := by
  obtain ⟨qs, rfl, hq⟩ := h
  obtain ⟨qs', rfl, hq'⟩ := h'
  refine ⟨qs', rfl, fun k q hk => ?_⟩
  obtain ⟨q1, hk1, h1⟩ := hq k q hk
  obtain ⟨q2, hk2, h2⟩ := hq' k q1 hk1
  exact ⟨q2, hk2, h2.trans h1⟩

theorem onlyClocks_modQueue (s : State) (i : Nat) {g : Queue → Queue} (hg : ∀ q, (g q).prod = q.prod) :
    OnlyClocks s (modQueue s i g) := by
  rw [modQueue]
  split
  next x hx =>
    refine ⟨_, rfl, fun k q hk => ?_⟩
    rw [alFind_alPut]
    split
    next h =>
      obtain rfl : x = q := Option.some.inj (hx.symm.trans (h ▸ hk))
      exact ⟨_, rfl, hg _⟩
    · exact ⟨q, hk, rfl⟩
  · exact .refl s

theorem onlyClocks_syncShot (s : State) (i : Nat) : OnlyClocks s (syncShot s i) := by
  simp only [syncShot]
  split
  · exact .refl _
  split
  · exact onlyClocks_modQueue _ _ (by intro _; rfl)
  · exact onlyClocks_modQueue _ _ (by intro _; rfl)
  · exact .refl _

theorem onlyClocks_restartShot (s : State) (i : Nat) : OnlyClocks s (restartShot s i) := by
  rw [restartShot]
  exact (onlyClocks_modQueue _ _ (by intro _; rfl)).trans (onlyClocks_syncShot _ _)

/-! ### The last steps of a completion (R365) -/

/-- A job that counts a node which has completed without failure. -/
def countNode (j : Job) (n : Node) : Job :=
  { j with doneNodes := n.idx :: j.doneNodes, okNodes := n.idx :: j.okNodes, escSum := j.escSum + n.esc, obsSum := j.obsSum + n.observed }

/-- The flag that a node sets when it completes without failure (R362, R365). -/
def flagNode (s : State) (n : Node) : State :=
  if bit (ndFlags n.desc) 3 && flagGranted s n.tenant (ndSetFlag n.desc) then
    testCommits (setFlag s (ndSetFlag n.desc) (if bit (ndFlags n.desc) 4 then
      (flagOf s (ndSetFlag n.desc) + fieldAt n.desc 48 8) % 2 ^ 64 else fieldAt n.desc 48 8))
  else s

theorem flagNode_of_no_nodes {s : State} {n : Node} (hnodes : s.fe.nodes = []) (hm : mirrors s = false)
    (hdue : ∀ e ∈ s.fe.jobs, e.2.commitDue = false) :
    ∃ flags m, flagNode s n = { s with fe.flags := flags, seqNo := m } ∧
      (bit (ndFlags n.desc) 3 = true → bit (ndFlags n.desc) 4 = false → flagGranted s n.tenant (ndSetFlag n.desc) = true →
        flags = flagsWith s.fe.flags (ndSetFlag n.desc) (fieldAt n.desc 48 8)) := by
  simp only [flagNode]
  split
  · obtain ⟨m, hset⟩ := setFlag_of_no_nodes hnodes hm (ndSetFlag n.desc) (if bit (ndFlags n.desc) 4 then
      (flagOf s (ndSetFlag n.desc) + fieldAt n.desc 48 8) % 2 ^ 64 else fieldAt n.desc 48 8)
    refine ⟨_, m, (testCommits_of_none_due (by rw [hset]; exact hdue)).trans hset, fun _ h4 _ => ?_⟩
    rw [if_neg (by rw [h4]; exact Bool.false_ne_true)]
  next hno => exact ⟨_, _, rfl, fun h3 _ hgrant => absurd (by rw [h3, hgrant]; rfl) hno⟩

/-- The steps of a completion without failure, by name. -/
theorem closeNode_of_ok {s : State} {k : Nat} {n : Node} (hok : n.fail = none) (hholds : n.holds = []) :
    closeNode s k n = restartShot (releaseHeld (releaseNodes (flagNode (traceEmit
      (modJob { s with fe.nodes := alDel s.fe.nodes k } n.job (countNode · n)) 2 0 frontSrc (some n.tenant) (ndTag n.desc)
      (n.queue + n.idx * 2 ^ 12 + ndKind n.desc * 2 ^ 28 + statusCode .ok * 2 ^ 32)) n) n.job)) n.queue := by
  have hst : (n.fail.getD {}).status = .ok := by rw [hok]; rfl
  simp only [closeNode, hst, endHolds, hholds, List.foldl_nil, beq_self_eq_true, Bool.true_and, if_true]
  rfl

/-- What a completion leaves of a node that was the only resident one: no node, its job with the node counted, the flags, and the
queues with their producer indices. -/
structure NodeClosed (s t : State) (n : Node) (j : Job) : Prop where
  mem : t.mem = s.mem
  regions : t.regions = s.regions
  cores : t.cores = s.cores
  nodes : t.fe.nodes = []
  job : alFind t.fe.jobs n.job = some (countNode j n)
  flags : bit (ndFlags n.desc) 3 = true → bit (ndFlags n.desc) 4 = false → flagGranted s n.tenant (ndSetFlag n.desc) = true →
    t.fe.flags = flagsWith s.fe.flags (ndSetFlag n.desc) (fieldAt n.desc 48 8)
  queues : ∀ k q, alFind s.fe.queues k = some q → ∃ q', alFind t.fe.queues k = some q' ∧ q'.prod = q.prod

theorem closeNode_spec {s : State} {k : Nat} {n x : Node} {j : Job} (hnodes : s.fe.nodes = [(k, x)])
    (hj : alFind s.fe.jobs n.job = some j) (hm : mirrors s = false) (hok : n.fail = none) (hholds : n.holds = [])
    (hdue : ∀ e ∈ s.fe.jobs, e.2.commitDue = false) : NodeClosed s (closeNode s k n) n j := by
  have hcounted : modJob { s with fe.nodes := alDel s.fe.nodes k } n.job (countNode · n) =
      { s with fe.nodes := [], fe.jobs := alPut s.fe.jobs n.job (countNode j n) } := by
    simp [modJob, hj, hnodes, alDel]
  rw [closeNode_of_ok hok hholds, hcounted]
  obtain ⟨src, drop, htrace⟩ := onlyTrace_traceEmit { s with fe.nodes := [], fe.jobs := alPut s.fe.jobs n.job (countNode j n) } 2 0
    frontSrc (some n.tenant) (ndTag n.desc) (n.queue + n.idx * 2 ^ 12 + ndKind n.desc * 2 ^ 28 + statusCode .ok * 2 ^ 32)
  rw [htrace]
  obtain ⟨flags, m, hflag, hset⟩ := flagNode_of_no_nodes (s := { s with
      fe.nodes := [], fe.jobs := alPut s.fe.jobs n.job (countNode j n), dbg.sources0 := src, dbg.traceDrop := drop }) (n := n) rfl hm
    (forall_mem_alPut (P := fun j : Job => j.commitDue = false) hdue (hdue _ (mem_of_alFind hj)))
  rw [hflag, releaseNodes_of_no_nodes rfl, releaseHeld_of_no_nodes rfl]
  obtain ⟨queues, hclock, hqueues⟩ := onlyClocks_restartShot { s with
    seqNo := m, fe.nodes := [], fe.jobs := alPut s.fe.jobs n.job (countNode j n), fe.flags := flags, dbg.sources0 := src,
    dbg.traceDrop := drop } n.queue
  rw [hclock]
  exact ⟨rfl, rfl, rfl, rfl, alFind_alPut_self _ _ _, hset, hqueues⟩

theorem tryEnd_of_goes_on {s : State} {k : Nat} {j : Job} (hj : alFind s.fe.jobs k = some j) (hfail : j.fail = none)
    (hmore : j.doneNodes.length < j.nodes) : tryEnd s k = s := by
  have hover : jobOver s k j = false := by
    simp only [jobOver, Job.failing, hfail, Option.isSome_none, Bool.false_or, Bool.and_eq_false_iff, decide_eq_false_iff_not]
    exact .inr (.inr hmore.ne)
  simp only [tryEnd, hj, hover, Bool.false_eq_true, if_false]

/-! ### The steps before (R147, R237, R365) -/

theorem endEpis_of_no_epi {s : State} (h : ∀ e ∈ s.clusters, e.2.epi = []) (k : Nat) : endEpis s k = s := by
  rw [endEpis]
  exact List.foldlRecOn (motive := (· = s)) s.clusters _ rfl fun t ht e he => by simp [ht, h e he]

/-- A state whose only resident node is `n`. -/
def withNode (s : State) (k : Nat) (n : Node) : State := { s with fe.nodes := [(k, n)] }

theorem modNode_only {s : State} {k : Nat} {n : Node} (h : s.fe.nodes = [(k, n)]) (g : Node → Node) :
    modNode s k g = withNode s k (g n) := by
  simp [modNode, h, alFind, alPut, withNode]

theorem modNode_withNode (s : State) (k : Nat) (n : Node) (g : Node → Node) :
    modNode (withNode s k n) k g = withNode s k (g n) := by
  rw [modNode_only (n := n) rfl]
  rfl

/-- The state in which a completion writes its record: the node has finished. -/
def nodeFinished (s : State) (k : Nat) (n : Node) : State := withNode s k { n with phase := .finished, mirrored := true }

/-- A node whose work and accesses are over writes its record, if it asks for one, closes, and may end its job. -/
theorem exec_nodeComplete {s : State} {k : Nat} {n : Node} {j : Job} (hnodes : s.fe.nodes = [(k, n)])
    (hj : alFind s.fe.jobs n.job = some j) (hended : nodeEnded n = true) (hperf : nodePerformed s k n = true)
    (hm : mirrors s = false) (hepi : ∀ e ∈ s.clusters, e.2.epi = []) (hok : n.fail = none) : exec (.nodeComplete k) s = completes s (
    if !bit (ndFlags n.desc) 0 then tryEnd (closeNode (nodeFinished s k n) k n) n.job
    else
      match putRecord (nodeFinished s k n) n.queue (recBytes (nodeRec j n)) false false with
      | (.wait, s) => s
      | (_, s) => tryEnd (closeNode s k n) n.job) := by
  have hn : alFind s.fe.nodes k = some n := by simp [hnodes, alFind]
  have hst : (n.fail.getD {}).status = .ok := by rw [hok]; rfl
  have hm1 (x : Node) : mirrors (withNode s k x) = false := hm
  change execNodeComplete k s = _
  simp only [execNodeComplete, hn, hended, hperf, endEpis_of_no_epi hepi, hj, modNode_only hnodes, hm1, hst, heldBy,
    holdsBack_of_mirrors (hm1 _), modNode_withNode, Bool.not_true, Bool.or_self, Bool.false_and, Bool.false_eq_true, if_false, decide_true, Bool.true_and] <;> rfl

/-! ### The record (R368) -/

theorem getLsbD_maskOf_before {off n k : Nat} (hk : k < off) : (maskOf off n).getLsbD k = false := by
  simp [maskOf, BitVec.getLsbD_ofNat, Nat.testBit_shiftLeft, hk.not_ge]

theorem lineSlice_add (l : Line) (off m n : Nat) : lineSlice l off (m + n) = lineSlice l off m ++ lineSlice l (off + m) n := by
  simp only [lineSlice_eq_map, List.range_add, List.map_append, List.map_map, Function.comp_def, Nat.add_assoc]

/-- Bytes below a mask are those that were there. -/
theorem lineSlice_lineMerge_below (old new : Line) {off m off' n : Nat} (hfit : off + m ≤ 128) (hbelow : off + m ≤ off') :
    lineSlice (lineMerge old new (maskOf off' n)) off m = lineSlice old off m := by
  rw [lineSlice_eq_map, lineSlice_eq_map]
  refine List.map_congr_left fun i hi => ?_
  have hi := List.mem_range.mp hi
  rw [lineByte_lineMerge _ _ _ (by omega), getLsbD_maskOf_before (by omega), if_neg Bool.false_ne_true]

/-- Two writes, the second behind the first, are read back as one. -/
theorem lineSlice_two_writes (l : Line) {off : Nat} {a b : List Byte} (hfit : off + a.length + b.length ≤ 128) :
    lineSlice (lineMerge (lineMerge l (linePlace off a) (maskOf off a.length)) (linePlace (off + a.length) b)
      (maskOf (off + a.length) b.length)) off (a.length + b.length) = a ++ b := by
  rw [lineSlice_add, lineSlice_lineMerge_below _ _ (by omega) le_rfl, lineSlice_lineMerge_self _ (by omega),
    lineSlice_lineMerge_self _ hfit]

theorem length_recBytes (r : Rec) : (recBytes r).length = 62 := by
  simp [recBytes]

/-- The state after the two writes of a record, the second with SEQ and PHASE (R368). -/
def recordWritten (s : State) (q : Queue) (pa : Nat) (b : List Byte) : State :=
  let s1 := devWrite s pa ((partOf s q.fn).getD 0) q.fn (b.take 56) (q.cls == .rt)
  devWrite s1 (pa + 56) ((partOf s1 q.fn).getD 0) q.fn (b.drop 56) (q.cls == .rt)

theorem accesses_recordWritten (s : State) (q : Queue) (pa : Nat) (b : List Byte) : Accesses s (recordWritten s q pa b) :=
  (accesses_devWrite ..).trans (accesses_devWrite ..)

theorem lineSlice_recordWritten {s : State} {q : Queue} {pa off : Nat} {b : List Byte} (hb : b.length = 64) (hpa : pa % 128 = 0)
    (hfit : off + 64 ≤ 128) (hhome : Homed s pa) : lineSlice (homeLine (recordWritten s q (pa + off) b) pa) off 64 = b := by
  have hfst : (b.take 56).length = 56 := by simp [hb]
  have hsnd : (b.drop 56).length = 8 := by simp [hb]
  have hread := lineSlice_two_writes (homeLine s pa) (off := off) (a := b.take 56) (b := b.drop 56) (by omega)
  rw [List.take_append_drop, ← List.length_append, List.take_append_drop, hb, hfst] at hread
  rw [recordWritten, Nat.add_assoc, devWrite_within hpa (List.ne_nil_of_length_pos (by omega)) (by omega),
    devWrite_within hpa (List.ne_nil_of_length_pos (by omega)) (by omega),
    homeLine_homeWrite_eq _ _ _ _ _ _ _ (homed_homeWrite _ _ _ _ _ _ _ hhome), homeLine_homeWrite_eq _ _ _ _ _ _ _ hhome, hfst]
  exact hread

/-- A record that its home may take stands there with its SEQ and PHASE, and the producer index moves on. -/
theorem writeRecord_loc {s : State} {i pa off : Nat} {q : Queue} {b : List Byte} (hb : b.length = 62)
    (ht : translate s q.fn (q.ringBase + 64 * (q.prod % 2 ^ q.ringLog2)) .w = some (.loc (pa + off))) (hpa : pa % 128 = 0)
    (hfit : off + 64 ≤ 128) (hhome : Homed s pa) (hready : homeReady s pa ((partOf s q.fn).getD 0) (q.cls == .rt) = true) :
    ∃ u, writeRecord s i q b = (.ok (), modQueue u i (fun q => { q with prod := (q.prod + 1) % 2 ^ 64 })) ∧ Accesses s u ∧
      lineSlice (homeLine u pa) off 64 = b ++ leBytes 2 (q.prod % 2 ^ 15 + 2 ^ 15 * (q.prod / 2 ^ q.ringLog2 % 2)) := by
  have hmay : writeMay s (pa + off) 64 ((partOf s q.fn).getD 0) (q.cls == .rt) = true := by
    rw [writeMay_within hpa (by decide) hfit, hready, Bool.or_true]
  refine ⟨recordWritten s q (pa + off) (b ++ leBytes 2 (q.prod % 2 ^ 15 + 2 ^ 15 * (q.prod / 2 ^ q.ringLog2 % 2))), ?_,
    accesses_recordWritten .., lineSlice_recordWritten (by simp [hb]) hpa hfit hhome⟩
  simp only [writeRecord, cringSize, ht, hmay, List.take_of_length_le hb.le, Bool.not_true, Bool.false_eq_true, if_false, recordWritten]

/-- A queue that logs nothing, with room in its ring, takes a record where its home may. -/
theorem putRecord_loc {s : State} {i pa off : Nat} {q : Queue} {b : List Byte} (hq : alFind s.fe.queues i = some q)
    (hst : q.st ≠ .logging) (hlog : q.log = []) (hroom : (q.prod + 2 ^ 64 - q.cons) % 2 ^ 64 < 2 ^ q.ringLog2) (hb : b.length = 62)
    (ht : translate s q.fn (q.ringBase + 64 * (q.prod % 2 ^ q.ringLog2)) .w = some (.loc (pa + off))) (hpa : pa % 128 = 0)
    (hfit : off + 64 ≤ 128) (hhome : Homed s pa) (hready : homeReady s pa ((partOf s q.fn).getD 0) (q.cls == .rt) = true) :
    ∃ u, putRecord s i b false false = (.ok (), modQueue u i (fun q => { q with prod := (q.prod + 1) % 2 ^ 64 })) ∧ Accesses s u ∧
      lineSlice (homeLine u pa) off 64 = b ++ leBytes 2 (q.prod % 2 ^ 15 + 2 ^ 15 * (q.prod / 2 ^ q.ringLog2 % 2)) := by
  obtain ⟨u, hwrite, hacc, hline⟩ := writeRecord_loc (i := i) hb ht hpa hfit hhome hready
  refine ⟨u, ?_, hacc, hline⟩
  have hring : ringRoom q = true := decide_eq_true hroom
  simp only [putRecord, hq, hst, hlog, hring, hwrite, decide_false, List.isEmpty_nil, Bool.not_true, Bool.or_self, Bool.false_eq_true,
    if_false, if_true, Bool.false_and]

/-- Settles O38: a completion writes the record where the node asks for it (`putRecord_loc`), closes the node (`closeNode_spec`) and
leaves a job that goes on (`tryEnd_of_goes_on`). -/
theorem nodesComplete : Obligations.NodesComplete := by
  unfold Obligations.NodesComplete
  intro node s n j hnodes hj hended hperf hm hepi hok hholds hfail hmore hdue
  have hexec := exec_nodeComplete hnodes hj hended hperf hm hepi hok
  have hgoes : (countNode j n).doneNodes.length < (countNode j n).nodes := hmore
  refine ⟨?_, ?_⟩
  · intro j' hj' hflags
    have hrep : bit (ndFlags n.desc) 0 = false := by rcases hflags with h | h <;> rw [h] <;> rfl
    have hclosed := closeNode_spec (s := nodeFinished s node n) (n := n) rfl hj hm hok hholds hdue
    rw [hrep, tryEnd_of_goes_on hclosed.job hfail hgoes] at hexec
    refine ⟨_, hexec, hclosed.mem, hclosed.cores, hclosed.nodes, hj' ▸ hclosed.job, fun h8 hgrant hv => ?_⟩
    have hset := hclosed.flags (by rw [h8]; rfl) (by rw [h8]; rfl) hgrant
    refine (congrArg (alGet 0 · (ndSetFlag n.desc)) hset).trans ?_
    rw [flagsWith, if_neg hv, alGet_alPut_self]
  · intro q pa off hflags hq hst hlog hroom ht hpa hfit hhome hready
    have hrep : bit (ndFlags n.desc) 0 = true := by rw [hflags]; rfl
    obtain ⟨u, hput, hacc, hline⟩ := putRecord_loc (s := nodeFinished s node n) hq hst hlog hroom (length_recBytes (nodeRec j n)) ht hpa
      hfit hhome hready
    have hq' : alFind u.fe.queues n.queue = some q := by rw [hacc.fe]; exact hq
    have hmoved : modQueue u n.queue (fun q => { q with prod := (q.prod + 1) % 2 ^ 64 }) =
        { u with fe.queues := alPut u.fe.queues n.queue { q with prod := (q.prod + 1) % 2 ^ 64 } } := by simp only [modQueue, hq']
    rw [hmoved] at hput
    have hclosed := closeNode_spec (k := node) (s := { u with
        fe.queues := alPut u.fe.queues n.queue { q with prod := (q.prod + 1) % 2 ^ 64 } }) (n := n) (j := j)
      (congrArg Front.nodes hacc.fe) (by rw [hacc.fe]; exact hj) ((congrArg mirrors hacc.apart).trans hm) hok hholds
      (by rw [hacc.fe]; exact hdue)
    obtain ⟨q', hq'', hprod⟩ := hclosed.queues n.queue _ (alFind_alPut_self _ _ _)
    rw [hrep, hput] at hexec
    dsimp only at hexec
    rw [tryEnd_of_goes_on hclosed.job hfail hgoes] at hexec
    refine ⟨_, q', hexec, ?_, hclosed.nodes, hq'', hprod, ?_⟩
    · exact (congrArg (·.mem) hclosed.mem).trans hacc.cells
    · exact (congrArg (lineSlice · off 64) ((homeLine_congr hclosed.regions hclosed.mem pa).trans (homeLine_congr rfl rfl pa))).trans hline

end Sys2Proof.Machine
end

section
/-! Loads, stores and atomics of device memory at issue (R219, R220, R223, R248): one piece of one line, the write buffer's bytes over
the L1's line, the detectors of prefetch, and the entry or the outstanding access that is left. -/

namespace Sys2Proof.Machine

/-! ### The piece of an access within a line -/

/-- The bytes of a lane's access that lies within a line of stacked memory. -/
def locPiece (q : MemQ) (l pa off : Nat) : Piece := { lane := l, off := 0, n := accBytes q, t := .loc (pa + off) }

theorem line_loc_within {pa off : Nat} (hpa : pa % 128 = 0) (hoff : off < 128) : (Target.loc (pa + off)).line = .loc pa := by
  rw [Target.line, show (pa + off) / 128 * 128 = pa by omega]

theorem pieceLines_singleton (p : Piece) : pieceLines [p] = [p.t.line] := by simp [pieceLines]

theorem allPieces_within {s : State} {tenant va l pa off : Nat} {need : Right} {q : MemQ}
    (ht : translate s tenant va need = some (.loc (pa + off))) (hoff : va % 128 = off) (hfit : off + accBytes q ≤ 128) :
    allPieces s tenant need [(l, va)] (accBytes q) = .ok [locPiece q l pa off] := by
  have hchunks := chunksOf_within (a := va) (accBytes_ne_zero q) (by omega)
  have hva : va / 128 * 128 + va % 128 = va := by omega
  have hpieces : lanePieces s tenant need l va (accBytes q) = [some (locPiece q l pa off)] := by
    simp [lanePieces, hchunks, hva, ht, locPiece]
  simp [allPieces, hpieces, locPiece]

theorem translate_advance (s : State) (c : Ctx) (g : Group) (tenant va : Nat) (need : Right) :
    translate (advance s c g) tenant va need = translate s tenant va need := SameSpace.translate_eq ⟨rfl, rfl, rfl⟩ tenant va need

theorem pos_locPiece {q : MemQ} {l pa off : Nat} (hpa : pa % 128 = 0) (hfit : off + accBytes q ≤ 128) :
    (locPiece q l pa off).t.addr % 128 = off := by
  have := accBytes_ne_zero q
  simp only [locPiece, Target.addr]
  omega

theorem line_locPiece {q : MemQ} {l pa off : Nat} (hpa : pa % 128 = 0) (hfit : off + accBytes q ≤ 128) :
    (locPiece q l pa off).t.line = .loc pa :=
  line_loc_within hpa (by have := accBytes_ne_zero q; omega)

theorem pieceLines_locPiece {q : MemQ} {l pa off : Nat} (hpa : pa % 128 = 0) (hfit : off + accBytes q ≤ 128) :
    pieceLines [locPiece q l pa off] = [.loc pa] := by
  rw [pieceLines_singleton, line_locPiece hpa hfit]

theorem filter_locPiece {q : MemQ} {l pa off : Nat} (hpa : pa % 128 = 0) (hfit : off + accBytes q ≤ 128) :
    [locPiece q l pa off].filter (fun p => p.t.line == .loc pa) = [locPiece q l pa off] := by
  simp [line_locPiece hpa hfit]

theorem mask_locPiece {q : MemQ} {l pa off : Nat} (hpa : pa % 128 = 0) (hfit : off + accBytes q ≤ 128) :
    [locPiece q l pa off].foldl (fun (m : LineMask) p => m ||| maskOf (p.t.addr % 128) p.n) 0 = maskOf off (accBytes q) := by
  rw [List.foldl_cons, List.foldl_nil, pos_locPiece hpa hfit]
  simp [locPiece]

/-! ### Bytes that the write buffer forwards (R220) -/

/-- What one entry of the line adds to the bytes forwarded. -/
def forwardStep (mask : LineMask) (a : LineMask × Line × Bool) (e : WbEntry) : LineMask × Line × Bool :=
  (a.1 ||| (e.mask &&& mask), lineMerge a.2.1 e.data e.mask, a.2.2 || (e.poison && e.mask &&& mask != 0))

theorem wbForward_eq_foldl (x : Exec) (t : Target) (mask : LineMask) (d : Line) :
    wbForward x t mask d = (x.wb.filter (fun e => e.target == t)).foldl (forwardStep mask) (0, d, false) := rfl

/-- Where a forwarded byte is asked for, merging the forwarded bytes into a line and forwarding over the line agree. -/
theorem lineByte_foldl_forwardStep (d : Line) {mask mask' : LineMask} {k : Nat} (hk : k < 128) (hmask : mask.getLsbD k = true)
    (es : List WbEntry) {a b : LineMask × Line × Bool} (h : lineByte (lineMerge d a.2.1 a.1) k = lineByte b.2.1 k) :
    lineByte (lineMerge d (es.foldl (forwardStep mask) a).2.1 (es.foldl (forwardStep mask) a).1) k =
      lineByte (es.foldl (forwardStep mask') b).2.1 k := by
  induction es generalizing a b with
  | nil => exact h
  | cons e es ih =>
    refine ih ?_
    rw [lineByte_lineMerge _ _ _ hk] at h
    simp only [forwardStep, lineByte_lineMerge _ _ _ hk, BitVec.getLsbD_or, BitVec.getLsbD_and, hmask, Bool.and_true]
    by_cases he : e.mask.getLsbD k = true
    · simp [he]
    · simpa [he] using h

theorem lineSlice_wbForward (x : Exec) (t : Target) (d : Line) {off n : Nat} (hfit : off + n ≤ 128) :
    lineSlice (lineMerge d (wbForward x t (maskOf off n) 0).2.1 (wbForward x t (maskOf off n) 0).1) off n =
      lineSlice (wbForward x t (BitVec.allOnes 128) d).2.1 off n := by
  simp only [lineSlice_eq_map, wbForward_eq_foldl]
  refine List.map_congr_left fun i hi => ?_
  have hi := List.mem_range.mp hi
  refine lineByte_foldl_forwardStep d (by omega) (getLsbD_maskOf hfit hi) _ ?_
  rw [lineByte_lineMerge _ _ _ (by omega), if_neg (by simp)]

/-- Entries without poison forward none. -/
theorem wbForward_clean {x : Exec} (h : ∀ e ∈ x.wb, e.poison = false) (t : Target) (mask : LineMask) (d : Line) :
    (wbForward x t mask d).2.2 = false := by
  rw [wbForward]
  refine List.foldlRecOn (motive := fun a : LineMask × Line × Bool => a.2.2 = false) _ _ rfl fun a ha e he => ?_
  simp [ha, h e (List.mem_of_mem_filter he)]

/-! ### Prefetch detectors (R263, R264) -/

/-- `t` holds what `s` does of a core but its detectors, and the cells of memory. -/
def OnlyDetectors (core : Nat) (s t : State) : Prop :=
  (∃ dets, execOf t core = { execOf s core with dets := dets }) ∧ t.mem.mem = s.mem.mem

namespace OnlyDetectors

theorem refl (core : Nat) (s : State) : OnlyDetectors core s s := ⟨⟨_, rfl⟩, rfl⟩

theorem trans {core : Nat} {s t u : State} (h : OnlyDetectors core s t) (h' : OnlyDetectors core t u) : OnlyDetectors core s u := by
  obtain ⟨⟨_, hx⟩, hm⟩ := h
  obtain ⟨⟨_, hx'⟩, hm'⟩ := h'
  exact ⟨⟨_, by rw [hx', hx]⟩, hm'.trans hm⟩

end OnlyDetectors

theorem onlyDetectors_modExec (s : State) (core : Nat) (dets : List Detector) :
    OnlyDetectors core s (modExec (takeSeq s).2 core (fun x => { x with dets := dets })) := ⟨⟨_, execOf_modExec ..⟩, rfl⟩

theorem onlyDetectors_prefetchLine (core : Nat) (s : State) (part tenant va : Nat) :
    OnlyDetectors core s (prefetchLine s part tenant va) := by
  simp only [prefetchLine]
  split
  · split
    · split
      · exact .refl core s
      · exact ⟨⟨_, (accesses_ccBump ..).execOf core⟩, (accesses_ccBump ..).cells⟩
    · exact .refl core s
  · exact .refl core s

theorem onlyDetectors_prefetchLines (core : Nat) (s : State) (part tenant : Nat) (ls : List Int) :
    OnlyDetectors core s (ls.foldl (fun s l => prefetchLine s part tenant (l.toNat * 128)) s) :=
  foldl_related (OnlyDetectors.refl core) OnlyDetectors.trans (fun s _ => onlyDetectors_prefetchLine core s part tenant _) ls s

/-- A load trains its core's detectors. -/
theorem onlyDetectors_detectorLoad (s : State) (core slot stream part tenant line : Nat) :
    OnlyDetectors core s (detectorLoad s core slot stream part tenant line) := by
  simp only [detectorLoad]
  split
  · exact .refl core s
  · exact (onlyDetectors_modExec s core _).trans (onlyDetectors_prefetchLines core _ part tenant _)

/-! ### A load at issue (R220, R248) -/

section
variable {s : State} {i : Iss} {c : Ctx} {q : MemQ} {a : Opd} {l pa off d : Nat} (hdev : q.slm = false) (hplain : q.hint = .plain)
  (hact : c.act = [l]) (hpa : pa % 128 = 0) (hfit : off + accBytes q ≤ 128)
  (hclash : mmaClash c.x c.slot false [(addrOf c q a l, accBytes q)] = false) (hoff : addrOf c q a l % 128 = off)

/-- A load's one piece is clean where no byte of the write buffer, and no byte of the L1's copy, is poisoned. -/
theorem loadBad_within (hwb : ∀ e ∈ c.x.wb, e.poison = false)
    (hl1 : ∀ k line, l1Find c.x (locPiece q l pa off).t.line = some (k, line) → line.poison = 0) :
    loadBad c q [locPiece q l pa off] = false := by
  simp only [loadBad, List.any_cons, List.any_nil, wbForward_clean hwb, Bool.false_or, Bool.or_false]
  split
  next k line h => simp [hl1 k line h]
  · simp

include hdev hplain hact hpa hfit hclash hoff

/-- The state in which a load looks at the L1: its path has moved on and the detectors have seen its line. -/
theorem exec_ld_within (h : Issues s i c ((spanOpds (.v d) (accBytes q)).flatMap (vRegs false)) [] [a])
    (ht : translate s c.b.task.tenant (addrOf c q a l) .r = some (.loc (pa + off)))
    (hbusy : atomBusy c.x [locPiece q l pa off] = false) (hclean : loadBad c q [locPiece q l pa off] = false) :
    ∃ s1, OnlyDetectors c.core (advance (issued s i c) c c.g) s1 ∧
      exec (.ld i q (.v d) a) s = completes s (loadLine s1 c q d (.loc pa) [locPiece q l pa off]) := by
  have hpieces := allPieces_within (s := issued s i c) (l := l) (q := q) ((translate_issued ..).trans ht) hoff hfit
  have ht1 : translate (advance (issued s i c) c c.g) c.b.task.tenant (addrOf c q a l) .r = some (.loc (pa + off)) :=
    (translate_advance ..).trans ((translate_issued ..).trans ht)
  refine ⟨detectorLoad (advance (issued s i c) c c.g) c.core c.slot (c.p.pc / 16 % 16) c.b.task.part c.b.task.tenant
    (addrOf c q a l / 128), onlyDetectors_detectorLoad .., ?_⟩
  refine congrArg (completes s) ((issueWith_issues (by simpa using issues_device (narrow := []) hdev h) _).trans ?_)
  simp only [hdev, hact, List.map_cons, List.map_nil, hclash, hpieces, pieceLines_locPiece hpa hfit, hbusy, hclean, ht1,
    Bool.false_eq_true, if_false, List.foldl_cons, List.foldl_nil, hplain]
  rw [if_neg (by simp [Target.isLoc, tagsFree]), if_neg Hint.noConfusion]

end

/-- A count and a free value change no core and no byte. -/
theorem counted_takeFree (p : Prop) [Decidable p] (s : State) (k code : Nat) :
    ∃ free s1, (if p then takeFree (ctrAdd s k code 1 none) else (0, ctrAdd s k code 1 none)) = (free, s1) ∧
      s1.mem.mem = s.mem.mem ∧ ∀ c, execOf s1 c = execOf s c := by
  obtain ⟨free, n, hfree⟩ := ite_takeFree p (ctrAdd s k code 1 none)
  exact ⟨free, _, hfree, (keepsWork_ctrAdd ..).cells, fun c => execOf_ctrAdd s k code 1 none c⟩

theorem demandLine_keeps (s : State) (pa part tenant : Nat) (rt : Bool) (h : Hint) :
    (demandLine s pa part tenant rt h).cores = s.cores ∧ (demandLine s pa part tenant rt h).mem.mem = s.mem.mem := by
  simp only [demandLine]
  split
  · split
    · exact ⟨rfl, rfl⟩
    · exact ⟨rfl, rfl⟩
  · exact ⟨rfl, rfl⟩

/-- A load of stacked memory that goes out joins its line's read. -/
theorem sendLoad_loc {s : State} {core node pa : Nat} {m : Load} (ht : m.target = .loc pa) :
    (sendLoad s core node m).mem.mem = s.mem.mem ∧ ∃ read, execOf (sendLoad s core node m) core = { execOf s core with
      loads := (execOf s core).loads.map (fun x => if x.id = m.id then { x with read := read } else x) } := by
  obtain ⟨hcores, hcells⟩ := demandLine_keeps s pa m.part m.tenant (nodeIsRt s node) m.hint
  have hexec : execOf (demandLine s pa m.part m.tenant (nodeIsRt s node) m.hint) core = execOf s core := by
    rw [execOf, coreOf, hcores, execOf, coreOf]
  simp only [sendLoad, ht, joinRead]
  exact ⟨hcells, _, by rw [execOf_modExec, hexec]⟩

theorem sendLoad_appended {s : State} {core node pa : Nat} {m : Load} (ht : m.target = .loc pa) :
    let t := sendLoad (modExec s core (fun x => { x with loads := x.loads ++ [m] })) core node m
    t.mem.mem = s.mem.mem ∧ (execOf t core).groups = (execOf s core).groups ∧
      ∃ read, { m with read := read } ∈ (execOf t core).loads := by
  obtain ⟨hmem, read, hx⟩ := sendLoad_loc (s := modExec s core (fun x => { x with loads := x.loads ++ [m] })) (core := core)
    (node := node) ht
  refine ⟨hmem, ?_, read, ?_⟩
  · rw [hx, execOf_modExec]
  · rw [hx, execOf_modExec]
    exact List.mem_map.mpr ⟨m, by simp, if_pos rfl⟩

/-- The outstanding load that a miss within a line leaves, with number `id`. -/
def missed (x : Exec) (c : Ctx) (q : MemQ) (l pa off d id : Nat) : Load :=
  { id := id, slot := c.slot, pc := c.p.pc, dst := d, size := accBytes q, hint := q.hint, target := .loc pa,
    tenant := c.b.task.tenant, part := c.b.task.part, lanes := [{ lane := l, off := 0, n := accBytes q, pos := off }]
    fwdMask := (wbForward x (.loc pa) (maskOf off (accBytes q)) 0).1
    fwd := (wbForward x (.loc pa) (maskOf off (accBytes q)) 0).2.1
    fwdPoison := (wbForward x (.loc pa) (maskOf off (accBytes q)) 0).2.2 }

section
variable {s : State} {c : Ctx} {q : MemQ} {l pa off d : Nat} (hplain : q.hint = .plain) (hpa : pa % 128 = 0)
  (hfit : off + accBytes q ≤ 128)
include hplain hpa hfit

/-- A hit writes the line's bytes, with the write buffer's over them, to the lane's registers. -/
theorem loadLine_hit {k : Nat} {line : L1Line} {g : Group} (hg : alFind (execOf s c.core).groups c.slot = some g)
    (hfirst : (execOf s c.core).loads.any (fun m => m.target == .loc pa) = false)
    (hhit : l1Find (execOf s c.core) (.loc pa) = some (k, line)) :
    (loadLine s c q d (.loc pa) [locPiece q l pa off]).mem.mem = s.mem.mem ∧ ∃ free,
      alFind (execOf (loadLine s c q d (.loc pa) [locPiece q l pa off]) c.core).groups c.slot =
        some (loadLanes free d (accBytes q)
          (fun _ => lineSlice (wbForward (execOf s c.core) (.loc pa) (BitVec.allOnes 128) line.data).2.1 off (accBytes q)) [l] g) := by
  have hdal : q.hint ≠ .dal := by rw [hplain]; exact Hint.noConfusion
  obtain ⟨free, s1, hfree, hmem, hexec⟩ := counted_takeFree (q.size < 2) s (blkKey 0 c.core) 0x0A
  simp only [loadLine, filter_locPiece hpa hfit, mask_locPiece hpa hfit, hdal, if_false, execOf_ctrAdd, hfirst, decide_false,
    List.foldl_cons, List.foldl_nil, Bool.or_self, Bool.false_eq_true, hhit, hfree]
  refine ⟨hmem, free, ?_⟩
  rw [execOf_modExec, hexec]
  refine (alFind_alPut_self _ _ _).trans (congrArg some ?_)
  rw [alGet_of_alFind _ _ _ _ hg, pos_locPiece hpa hfit, pieceBytes, locPiece, lineSlice_wbForward _ _ _ hfit, loadLanes,
    List.foldl_cons, List.foldl_nil]

/-- A miss becomes outstanding at its line, and the registers stay. -/
theorem loadLine_miss (hmiss : l1Find (execOf s c.core) (.loc pa) = none) :
    (loadLine s c q d (.loc pa) [locPiece q l pa off]).mem.mem = s.mem.mem ∧
      (execOf (loadLine s c q d (.loc pa) [locPiece q l pa off]) c.core).groups = (execOf s c.core).groups ∧
      ∃ id read, { missed (execOf s c.core) c q l pa off d id with read := read } ∈
        (execOf (loadLine s c q d (.loc pa) [locPiece q l pa off]) c.core).loads := by
  have hdal : q.hint ≠ .dal := by rw [hplain]; exact Hint.noConfusion
  have hexec : execOf (ctrAdd (ctrAdd s (blkKey 0 c.core) 0x0A 1 none) (blkKey 0 c.core) 0x0B 1 none) c.core = execOf s c.core := by simp
  have hcells := ((keepsWork_ctrAdd s (blkKey 0 c.core) 0x0A 1 none).trans (keepsWork_ctrAdd _ (blkKey 0 c.core) 0x0B 1 none)).cells
  simp only [loadLine, filter_locPiece hpa hfit, mask_locPiece hpa hfit, hdal, if_false, execOf_ctrAdd, decide_false,
    Bool.false_or, hmiss, ite_self, List.map_cons, List.map_nil, pos_locPiece hpa hfit]
  generalize ctrAdd (ctrAdd s _ _ _ _) _ _ _ _ = s1 at hexec hcells ⊢
  obtain ⟨hmem, hgroups, read, hload⟩ := sendLoad_appended (s := (takeSeq s1).2) (core := c.core) (node := c.b.task.node)
    (m := missed (execOf s c.core) c q l pa off d s1.seqNo) rfl
  exact ⟨hmem.trans hcells, hgroups.trans (congrArg Exec.groups hexec), s1.seqNo, read, hload⟩

end

/-- The core of a group that has issued and moved on. -/
theorem execOf_advance_issued {s : State} {i : Iss} {c : Ctx} (h : issue s i = some c) (g : Group) :
    ∃ st, execOf (advance (issued s i c) c g) c.core =
      { c.x with istore := st, groups := alPut c.x.groups c.slot (movePath c g c.next) } := by
  obtain ⟨hcore, -, hx, -⟩ := issue_some h
  obtain ⟨st, hst⟩ := execOf_issued s i c
  refine ⟨st, ?_⟩
  rw [advance, execOf_putGroup, hcore, hst, hx]

theorem moved_of_alFind {t : State} {c : Ctx} {g : Group} (h : alFind (execOf t c.core).groups c.slot = some g)
    (hp : g.paths = (movePath c c.g c.next).paths) : Moved c t c.next := by
  rw [Moved, seen_of_alFind h, hp, movePath_paths]

section
variable {s : State} {i : Iss} {c : Ctx} {q : MemQ} {a : Opd} {l pa off d : Nat} (hdev : q.slm = false)
  (hplain : q.hint = .plain) (hact : c.act = [l]) (hpa : pa % 128 = 0) (hfit : off + accBytes q ≤ 128)
  (hclash : mmaClash c.x c.slot false [(addrOf c q a l, accBytes q)] = false) (hoff : addrOf c q a l % 128 = off)
  (h : Issues s i c ((spanOpds (.v d) (accBytes q)).flatMap (vRegs false)) [] [a])
  (ht : translate s c.b.task.tenant (addrOf c q a l) .r = some (.loc (pa + off)))
  (hbusy : atomBusy c.x [locPiece q l pa off] = false) (hwb : ∀ e ∈ c.x.wb, e.poison = false)
include hdev hplain hact hpa hfit hclash hoff h ht hbusy hwb

theorem ld_hits (hsize : q.size ≤ 4) {k : Nat} {line : L1Line} (hhit : l1Find c.x (.loc pa) = some (k, line)) (hclean : line.poison = 0)
    (hfirst : c.x.loads.any (fun m => m.target == .loc pa) = false) :
    ∃ t, exec (.ld i q (.v d) a) s = .next t ∧ t.mem.mem = s.mem.mem ∧ Moved c t c.next ∧
      regBytes (c.seen t) d l (accBytes q) =
        lineSlice (wbForward c.x (.loc pa) (BitVec.allOnes 128) line.data).2.1 off (accBytes q) := by
  have hbad : loadBad c q [locPiece q l pa off] = false := loadBad_within hwb fun k' line' h' => by
    rw [line_locPiece hpa hfit, hhit] at h'
    obtain ⟨-, rfl⟩ := Prod.mk.inj (Option.some.inj h')
    exact hclean
  obtain ⟨s1, ⟨⟨dets, hx⟩, hcells⟩, hexec⟩ := exec_ld_within hdev hplain hact hpa hfit hclash hoff h ht hbusy hbad
  obtain ⟨st, hst⟩ := execOf_advance_issued h.1 c.g
  rw [hst] at hx
  obtain ⟨hmem, free, hgroup⟩ := loadLine_hit (s := s1) (c := c) (l := l) (d := d) (g := movePath c c.g c.next) (line := line) (k := k)
    hplain hpa hfit (by rw [hx]; exact alFind_alPut_self ..) (by rw [hx]; exact hfirst) (by rw [hx]; exact hhit)
  rw [hx] at hgroup
  have hcells' : s1.mem.mem = s.mem.mem := hcells.trans (congrArg (·.mem) (issued_mem s i c))
  refine ⟨_, hexec, hmem.trans hcells', moved_of_alFind hgroup (loadLanes_paths ..), ?_⟩
  exact regBytes_loaded free d (loadSize_accBytes hsize) (fun _ => length_leBytes ..) (ls := [l]) (fun x hx => act_lt h.1 x (hact ▸ hx))
    (congrArg Group.regs (seen_of_alFind hgroup)) l (List.mem_singleton_self l)

theorem ld_misses (hmiss : l1Find c.x (.loc pa) = none) :
    ∃ t m, exec (.ld i q (.v d) a) s = .next t ∧ t.mem.mem = s.mem.mem ∧ Moved c t c.next ∧
      m ∈ (execOf t i.core).loads ∧ m.slot = i.slot ∧ m.dst = d ∧ m.size = accBytes q ∧ m.target = .loc pa ∧
      m.lanes = [{ lane := l, off := 0, n := accBytes q, pos := off }] ∧ m.got = none ∧ m.failed = none := by
  have hbad : loadBad c q [locPiece q l pa off] = false := loadBad_within hwb fun k line h' => by
    rw [line_locPiece hpa hfit, hmiss] at h'
    cases h'
  obtain ⟨s1, ⟨⟨dets, hx⟩, hcells⟩, hexec⟩ := exec_ld_within hdev hplain hact hpa hfit hclash hoff h ht hbusy hbad
  obtain ⟨st, hst⟩ := execOf_advance_issued h.1 c.g
  rw [hst] at hx
  obtain ⟨hcore, hslot, -⟩ := issue_some h.1
  obtain ⟨hmem, hgroups, id, read, hload⟩ := loadLine_miss (s := s1) (c := c) (l := l) (d := d) hplain hpa hfit (by rw [hx]; exact hmiss)
  rw [hx] at hgroups
  have hcells' : s1.mem.mem = s.mem.mem := hcells.trans (congrArg (·.mem) (issued_mem s i c))
  exact ⟨_, _, hexec, hmem.trans hcells', moved_of_alFind ((congrArg (alFind · c.slot) hgroups).trans (alFind_alPut_self ..)) rfl,
    hcore ▸ hload, hslot, rfl, rfl, rfl, rfl, rfl, rfl⟩

end

/-! ### A store at issue (R219) -/

/-- A merge changes the bytes of an entry and how they came, but not where it goes. -/
theorem merge_eq (e : WbEntry) (late : Bool) (slot id : Nat) (mask : LineMask) (d : Line) : ∃ late' mask0 data0,
    e.merge late slot id mask d =
      { e with mask := e.mask ||| mask, data := lineMerge e.data d mask, late := late', mask0 := mask0, data0 := data0 } := by
  simp only [WbEntry.merge]
  split
  · exact ⟨_, _, _, rfl⟩
  · exact ⟨_, _, _, rfl⟩

/-- An entry to a line that holds some new bytes and waits to drain. -/
def HoldsBytes (e : WbEntry) (t : Target) (mask : LineMask) (d : Line) : Prop :=
  e.target = t ∧ e.sent = false ∧ e.mask &&& mask = mask ∧ ∃ old, e.data = lineMerge old d mask

theorem holdsBytes_merge {e e' : WbEntry} {late : Bool} {slot id : Nat} {mask : LineMask} {d : Line} (hsent : e.sent = false)
    (h : ∃ writers nodes ordered, e' = { e.merge late slot id mask d with writers := writers, nodes := nodes, ordered := ordered }) :
    HoldsBytes e' e.target mask d := by
  obtain ⟨writers, nodes, ordered, rfl⟩ := h
  obtain ⟨late', mask0, data0, hm⟩ := merge_eq e late slot id mask d
  rw [hm]
  refine ⟨rfl, hsent, ?_, _, rfl⟩
  ext k
  simpa using Or.inr

/-- The entry that a store merges with is one of its line that has not been sent. -/
theorem wbMerge_some {x : Exec} {t : Target} {k : Nat} (h : wbMerge x t = some k) :
    ∃ e ∈ x.wb, e.target = t ∧ e.sent = false ∧ e.id = k := by
  simp only [wbMerge] at h
  split at h
  next e he =>
    obtain ⟨hmem, ht⟩ := List.mem_filter.mp (List.mem_of_getLast? he)
    split at h
    · cases h
    next hfree =>
      simp only [Bool.or_eq_true, not_or, Bool.not_eq_true] at hfree
      exact ⟨e, hmem, by simpa using ht, hfree.1, Option.some.inj h⟩
  · cases h

/-- A store stands in the write buffer, merged or in an entry of its own. -/
theorem wbStore_holds (s : State) (core slot part tenant : Nat) (t : Target) (h : Hint) (mask : LineMask) (d : Line)
    (place : Option Nat) :
    (execOf (wbStore s core slot part tenant t h mask d place) core).groups = (execOf s core).groups ∧
      ∃ e ∈ (execOf (wbStore s core slot part tenant t h mask d place) core).wb, HoldsBytes e t mask d := by
  simp only [wbStore]
  split
  next k hk =>
    obtain ⟨e, hmem, rfl, hsent, hid⟩ := wbMerge_some hk
    rw [execOf_modExec]
    exact ⟨rfl, _, List.mem_map.mpr ⟨e, hmem, if_pos hid⟩, holdsBytes_merge hsent ⟨_, _, _, rfl⟩⟩
  · rw [execOf_modExec]
    exact ⟨rfl, _, List.mem_append_right _ (List.mem_singleton_self _), holdsBytes_merge rfl ⟨_, _, _, rfl⟩⟩

/-- A store of one lane within a line enters the write buffer, and its path moves on. -/
theorem st_enters {s : State} {i : Iss} {c : Ctx} {q : MemQ} {a b : Opd} {l pa off : Nat} (hdev : q.slm = false)
    (hact : c.act = [l]) (hpa : pa % 128 = 0) (hfit : off + accBytes q ≤ 128)
    (hclash : mmaClash c.x c.slot false [(addrOf c q a l, accBytes q)] = false) (hoff : addrOf c q a l % 128 = off)
    (h : Issues s i c [] (spanOpds b (accBytes q)) [a])
    (ht : translate s c.b.task.tenant (addrOf c q a l) .w = some (.loc (pa + off))) (hroom : c.x.wb.length < 32)
    (hfree : c.x.atoms.any (fun m => m.target.line == .loc pa) = false) (hb : (opdBytes c b (accBytes q) l).length = accBytes q)
    (hread : readAhead c.x c.slot false [(addrOf c q a l, accBytes q)] = false) :
    ∃ t, exec (.st i q a b) s = .next t ∧ t.mem = s.mem ∧ Moved c t c.next ∧
      ∃ e ∈ (execOf t i.core).wb, HoldsBytes e (.loc pa) (maskOf off (accBytes q)) (linePlace off (opdBytes c b (accBytes q) l)) := by
  have hpieces := allPieces_within (s := issued s i c) (l := l) (q := q) ((translate_issued ..).trans ht) hoff hfit
  have hbusy : storeBusy c.x [.loc pa] = false := by simpa [storeBusy] using hfree
  have hbytes : ((opdBytes c b (accBytes q) l).drop 0).take (accBytes q) = opdBytes c b (accBytes q) l := by
    rw [List.drop_zero, List.take_of_length_le hb.le]
  obtain ⟨st, hst⟩ := execOf_advance_issued h.1 c.g
  obtain ⟨hcore, -⟩ := issue_some h.1
  have hwide : wbRoom (execOf (advance (issued s i c) c c.g) c.core) (.loc pa) = true := wbRoom_of_length _ (by rw [hst]; exact hroom)
  have hexec : exec (.st i q a b) s = completes s (wbStore (advance (issued s i c) c c.g) c.core c.slot c.b.task.part c.b.task.tenant
      (.loc pa) q.hint (maskOf off (accBytes q)) (linePlace off (opdBytes c b (accBytes q) l)) none) := by
    refine congrArg (completes s) ((issueWith_issues (by simpa using issues_device hdev h) _).trans ?_)
    simp only [hdev, hact, List.map_cons, List.map_nil, hclash, hread, hpieces, pieceLines_locPiece hpa hfit, hbusy, Bool.or_self,
      Bool.false_eq_true, if_false, line_locPiece hpa hfit, pos_locPiece hpa hfit, enterStores, hwide, if_true, Option.getD_some]
    rw [show (locPiece q l pa off).lane = l from rfl, show (locPiece q l pa off).off = 0 from rfl,
      show (locPiece q l pa off).n = accBytes q from rfl, hbytes]
  have hentered := entered_wbStore (advance (issued s i c) c c.g) c.core c.slot c.b.task.part c.b.task.tenant (.loc pa) q.hint
    (maskOf off (accBytes q)) (linePlace off (opdBytes c b (accBytes q) l)) none
  obtain ⟨hgroups, e, hmem, he⟩ := wbStore_holds (advance (issued s i c) c c.g) c.core c.slot c.b.task.part c.b.task.tenant (.loc pa)
    q.hint (maskOf off (accBytes q)) (linePlace off (opdBytes c b (accBytes q) l)) none
  rw [hst] at hgroups
  exact ⟨_, hexec, hentered.space.mem.trans (issued_mem s i c),
    moved_of_alFind ((congrArg (alFind · c.slot) hgroups).trans (alFind_alPut_self ..)) rfl, e, hcore ▸ hmem, he⟩

/-! ### An atomic at issue (R223) -/

/-- The outstanding atomic of one lane within a line, with number `id`. -/
def locAtomic (c : Ctx) (q : MemQ) (d b e : Opd) (l pa off id : Nat) : Atomic :=
  { id := id, slot := c.slot, pc := c.p.pc, dst := match d with | .v n => some n | _ => none, size := accBytes q, op := q.op,
    order := q.order, scope := q.scope, hint := q.hint, target := .loc pa, tenant := c.b.task.tenant, part := c.b.task.part,
    lanes := [{ lane := l, pos := off, b := opdLane64 c b l, c := opdLane64 c e l }], path := c.p.lanes, first := id }

theorem atomEntries_within {c : Ctx} {q : MemQ} {l pa off : Nat} (d b e : Opd) (hpa : pa % 128 = 0) (hfit : off + accBytes q ≤ 128)
    (id : Nat) : atomEntries c q d b e none [locPiece q l pa off] id = [locAtomic c q d b e l pa off id] := by
  have hfar : [locPiece q l pa off].filter (fun p => !p.t.isLoc) = [] := rfl
  have hlines : [Target.loc pa].filter Target.isLoc = [.loc pa] := rfl
  simp only [atomEntries, pieceLines_singleton, line_locPiece hpa hfit, hlines, hfar, filter_locPiece hpa hfit, List.zipIdx_cons,
    List.zipIdx_nil, List.map_cons, List.map_nil, pos_locPiece hpa hfit, List.append_nil]
  rfl

/-- The core of an atomic that has issued: its entry is outstanding, and its own copy of the line is gone. -/
def atomIssued (s : State) (c : Ctx) (m : Atomic) : State :=
  l1Drop (modExec (putGroup { s with seqNo := s.seqNo + 2 } c (movePathStall c c.g c.next .go)) c.core
    (fun x => { x with atoms := x.atoms ++ [m] })) c.core m.target

theorem execOf_atomIssued (s : State) (c : Ctx) (m : Atomic) :
    (execOf (atomIssued s c m) c.core).groups = alPut (execOf s c.core).groups c.slot (movePathStall c c.g c.next .go) ∧
      m ∈ (execOf (atomIssued s c m) c.core).atoms ∧ ∀ x ∈ (execOf (atomIssued s c m) c.core).l1, x.2.target ≠ m.target := by
  rw [atomIssued, l1Drop, execOf_modExec, execOf_modExec, execOf_putGroup]
  exact ⟨rfl, List.mem_append_right _ (List.mem_singleton_self m), fun x hx => by simpa using (List.mem_filter.mp hx).2⟩

theorem exec_atom_within {s : State} {i : Iss} {c : Ctx} {q : MemQ} {a b d e : Opd} {l pa off : Nat} (hdev : q.slm = false)
    (hact : c.act = [l]) (hpa : pa % 128 = 0) (hfit : off + accBytes q ≤ 128)
    (hclash : mmaClash c.x c.slot false [(addrOf c q a l, accBytes q)] = false) (halign : addrOf c q a l % accBytes q = 0)
    (hoff : addrOf c q a l % 128 = off) (h : Issues s i c ((spanOpds d (accBytes q)).flatMap (vRegs false))
      (spanOpds b (min 8 (accBytes q)) ++ spanOpds e (min 8 (accBytes q))) [a])
    (ht : translate s c.b.task.tenant (addrOf c q a l) .a = some (.loc (pa + off))) (horder : q.order = .none)
    (hread : readAhead c.x c.slot false [(addrOf c q a l, accBytes q)] = false) :
    exec (.atom i q d a b e) s = completes s (atomIssued (issued s i c) c (locAtomic c q d b e l pa off (s.seqNo + 1))) := by
  have hpieces := allPieces_within (s := issued s i c) (l := l) (q := q) ((translate_issued ..).trans ht) hoff hfit
  have hfar : tagsFree (issued s i c) (coreDie c.core) ([locPiece q l pa off].filter (fun p => !p.t.isLoc)).length = true := rfl
  have hrel : ¬ q.order = .rel := by rw [horder]; exact MemOrder.noConfusion
  have hacq : ¬ q.order = .acq := by rw [horder]; exact MemOrder.noConfusion
  have halign' : (addrOf c q a l % accBytes q != 0) = false := by simp [halign]
  refine congrArg (completes s) ((issueWith_issues (by simpa using issues_device hdev h) _).trans ?_)
  simp only [hdev, hact, List.map_cons, List.map_nil, hclash, hread, hpieces, pieceLines_locPiece hpa hfit, hrel, hacq,
    halign', hfar, Bool.or_self, Bool.not_true, Bool.false_and, Bool.false_eq_true, if_false, decide_false, List.isEmpty_cons,
    List.any_cons, List.any_nil, takeSeq, atomEntries_within d b e hpa hfit]
  refine (if_neg Bool.false_ne_true).trans ?_
  simp only [issued_seqNo, List.length_singleton, List.foldl_cons, List.foldl_nil, sendAtom, locAtomic, atomIssued]

/-- Settles O17, each access from what its issue does to the one piece that it makes: a load that hits (`ld_hits`) or misses
(`ld_misses`), a store (`st_enters`), and an atomic (`exec_atom_within`). -/
theorem deviceAccessesIssue : Obligations.DeviceAccessesIssue := by
  unfold Obligations.DeviceAccessesIssue
  intro i q a s c l pa off hdev hsize hplain hact hpa hfit hclash halign hoff
  refine ⟨?_, ?_, ?_, ?_⟩
  · intro d line k h ht hbusy hhit hclean hfirst hwb
    exact ld_hits hdev hplain hact hpa hfit hclash hoff h ht hbusy hwb hsize hhit hclean hfirst
  · intro d h ht hbusy hmiss hwb
    exact ld_misses hdev hplain hact hpa hfit hclash hoff h ht hbusy hwb hmiss
  · intro b h ht hroom hfree hb hread
    obtain ⟨t, hexec, hmem, hmoved, e, he, htarget, hsent, hmask, old, hdata⟩ :=
      st_enters hdev hact hpa hfit hclash hoff h ht hroom hfree hb hread
    refine ⟨t, e, hexec, hmem, hmoved, he, htarget, hsent, hmask, ?_⟩
    rw [hdata]
    have hself := lineSlice_lineMerge_self old (off := off) (bs := opdBytes c b (accBytes q) l) (by rwa [hb])
    rwa [hb] at hself
  · intro d b e h ht horder hread
    obtain ⟨hcore, hslot, -, -, -, hp, -⟩ := issue_some h.1
    obtain ⟨hgroups, hm, hl1⟩ := execOf_atomIssued (issued s i c) c (locAtomic c q d b e l pa off (s.seqNo + 1))
    refine ⟨_, _, exec_atom_within hdev hact hpa hfit hclash halign hoff h ht horder hread, issued_mem s i c, fun k hk => ?_,
      hcore ▸ hm, hslot, rfl, rfl, rfl, rfl, rfl, hcore ▸ hl1⟩
    exact seen_of_alFind ((congrArg (alFind · c.slot) hgroups).trans (alFind_alPut_self ..)) ▸ laneAt_movePathStall hp _ _ hk

end Sys2Proof.Machine
end
section
/-! A write performed at the home of its line (R252, R255, R259). -/

namespace Sys2Proof.Machine

/-- Settles O19: the home then holds the written bytes over the former ones (`homeLine_homeWrite_eq`), and the cells of memory are
the controllers' alone (`accesses_homeWrite`). -/
theorem homeHoldsWhatWasWritten : Obligations.HomeHoldsWhatWasWritten := by
  intro s pa part tenant h mask d p r set tag hhome hside
  exact ⟨homeLine_homeWrite_eq part tenant h mask d p false ⟨r, set, tag, hhome, hside⟩, (accesses_homeWrite ..).cells⟩

end Sys2Proof.Machine
end

section
/-! The scrub of a partition for a new tenant (R273): the lines of its ways, its side-buffer entries and its cores' L1s go. -/

namespace Sys2Proof.Machine

/-! ### Folds -/

/-- What a fold makes at one place of its list, and every later step keeps, holds at its end; `I` holds all along. -/
theorem foldl_establishes {α β : Type} {I P : β → Prop} {f : β → α → β} (hinv : ∀ b a, I b → I (f b a))
    (hkeep : ∀ b a, P b → P (f b a)) {x : α} (hmake : ∀ b, I b → P (f b x)) {l : List α} (hx : x ∈ l) {b : β} (hb : I b) :
    P (l.foldl f b) := by
  obtain ⟨l1, l2, rfl⟩ := List.append_of_mem hx
  rw [List.foldl_append, List.foldl_cons]
  have hstart : I (l1.foldl f b) := List.foldlRecOn l1 f hb fun b h a _ => hinv b a h
  exact List.foldlRecOn l2 f (hmake _ hstart) fun b h a _ => hkeep b a h

theorem alDel_append {α : Type} {a r : AL α} {k : Nat} {v : α} (h : ∀ e ∈ a, e.1 ≠ k) : alDel (a ++ (k, v) :: r) k = a ++ r := by
  induction a with
  | nil => exact if_pos rfl
  | cons e a ih =>
    obtain ⟨hne, ha⟩ := List.forall_mem_cons.mp h
    exact (if_neg (Ne.symm hne)).trans (congrArg (e :: ·) (ih ha))

/-- Entries of a table that are removed one after the other by their keys. -/
theorem foldl_alDel {α : Type} (p : Nat → Bool) {a : AL α} (ha : ∀ e ∈ a, p e.1 = false) (l : AL α) :
    l.foldl (fun m e => if p e.1 then alDel m e.1 else m) (a ++ l) = a ++ l.filter (fun e => !p e.1) := by
  induction l generalizing a with
  | nil => rfl
  | cons e r ih =>
    rw [List.foldl_cons]
    cases hp : p e.1 with
    | true =>
      have hne : ∀ x ∈ a, x.1 ≠ e.1 := fun x hx he => by
        have hx' := ha x hx
        rw [he, hp] at hx'
        exact Bool.noConfusion hx'
      rw [if_pos rfl, alDel_append hne, ih ha, List.filter_cons_of_neg (by simp [hp])]
    | false =>
      have ha' : ∀ x ∈ a ++ [e], p x.1 = false := by simpa [or_imp, forall_and, hp] using ha
      rw [if_neg Bool.false_ne_true, List.append_cons, ih ha', List.filter_cons_of_pos (by simp [hp]), ← List.append_cons]

theorem alFind_eq_none_of_not_mem {α : Type} {m : AL α} {k : Nat} (h : ∀ e ∈ m, e.1 ≠ k) : alFind m k = none :=
  Option.eq_none_iff_forall_ne_some.mpr fun _ hv => h _ (mem_of_alFind hv) rfl

/-! ### The lines of a slice's ways -/

theorem sameSlices_writeBack (s : State) (tenant : Nat) (l : SliceLine) : SameSlices s (writeBack s tenant l) :=
  .ite ((offSlices_ctlWrite _ _).sameSlices.trans (sameSlices_ccBump _ _ _ _ _ _)) (.refl s)

/-- A line that is written back and invalidated leaves its slice alone. -/
theorem lines_evict (s : State) (tenant r key : Nat) (l : SliceLine) (k : Nat) :
    (regionOf (modRegion (writeBack s tenant l) r (fun x => dropWay x (key / 16) (key % 16))) k).lines =
      if k = r then alDel (regionOf s r).lines key else (regionOf s k).lines := by
  rw [regionOf_modRegion]
  split
  · exact (congrArg (alDel _) (Nat.div_add_mod' key 16)).trans (by rw [(sameSlices_writeBack s tenant l).lines])
  · rw [(sameSlices_writeBack s tenant l).lines]

/-- The lines that stay in the slice are those of the other ways. -/
theorem lines_dropWays (s : State) (r : Nat) (mask : BitVec 16) (k : Nat) :
    (regionOf (dropWays s r mask) k).lines =
      if k = r then (regionOf s r).lines.filter (fun e => !mask.getLsbD (e.1 % 16)) else (regionOf s k).lines := by
  have hstep (l : AL SliceLine) (t : State) : (regionOf (l.foldl (fun s e => if mask.getLsbD (e.1 % 16) then
      modRegion (writeBack s (tenantOf s e.2.pa) e.2) r (fun x => dropWay x (e.1 / 16) (e.1 % 16)) else s) t) k).lines =
      if k = r then l.foldl (fun m e => if mask.getLsbD (e.1 % 16) then alDel m e.1 else m) (regionOf t r).lines
      else (regionOf t k).lines := by
    induction l generalizing t with
    | nil => split <;> simp [*]
    | cons e l ih =>
      rw [List.foldl_cons, List.foldl_cons, ih]
      by_cases hm : mask.getLsbD (e.1 % 16) = true
      · rw [if_pos hm, if_pos hm, lines_evict, lines_evict, if_pos rfl]
        split <;> rfl
      · rw [if_neg hm, if_neg hm]
  rw [dropWays, hstep]
  exact congrArg (fun m => if k = r then m else (regionOf s k).lines)
    (foldl_alDel (a := []) (fun k => mask.getLsbD (k % 16)) (by simp) (regionOf s r).lines)

theorem Accesses.waysOf_eq {s t : State} (h : Accesses s t) (r part : Nat) : waysOf t r part = waysOf s r part := by
  have hsched : t.sched = s.sched := (congrArg State.sched h.apart :)
  have hhomes (p : Partition) : partHomes t p r = partHomes s p r := by rw [partHomes, h.sets, partHomes]
  have hheld : heldWays t r = heldWays s r := by simp only [heldWays, hhomes, hsched]
  rw [waysOf, hsched, hheld, waysOf]

/-- The lines of a partition's ways leave its slices one after the other. -/
def dropPartWays (s : State) (part : Nat) (rs : List Nat) : State := rs.foldl (fun s r => dropWays s r (waysOf s r part)) s

theorem accesses_dropPartWays (s : State) (part : Nat) (rs : List Nat) : Accesses s (dropPartWays s part rs) :=
  .foldl (fun _ _ => accesses_dropWays _ _ _) rs s

/-- No line stands afterwards in a way of the partition. -/
theorem lines_dropPartWays (s : State) (part : Nat) {rs : List Nat} {r : Nat} (hr : r ∈ rs) :
    ∀ e ∈ (regionOf (dropPartWays s part rs) r).lines, (waysOf s r part).getLsbD (e.1 % 16) = false := by
  refine foldl_establishes (I := Accesses s)
    (P := fun t => ∀ e ∈ (regionOf t r).lines, (waysOf s r part).getLsbD (e.1 % 16) = false)
    (fun t k h => h.trans (accesses_dropWays _ _ _)) (fun t k h e he => ?_) (fun t h e he => ?_) hr (Accesses.refl s)
  · rw [lines_dropWays] at he
    split at he
    next hk => exact h e (hk ▸ (List.mem_filter.mp he).1)
    · exact h e he
  · rw [lines_dropWays, if_pos rfl, h.waysOf_eq] at he
    simpa using (List.mem_filter.mp he).2

/-! ### Side-buffer entries -/

theorem accesses_freeSide (s : State) (part : Nat) : Accesses s (freeSide s part) :=
  .foldl (fun _ _ => accesses_freeSides _ _ _) _ s

theorem sameSlices_foldl_ccBump (r off n : Nat) (l : List SideEntry) (s : State) :
    SameSlices s (l.foldl (fun s e => ccBump s r e.part e.tenant off n) s) :=
  foldl_related SameSlices.refl SameSlices.trans (fun _ _ => sameSlices_ccBump _ _ _ _ _ _) l s

theorem side_freeSides (s : State) (r : Nat) (p : SideEntry → Bool) (k : Nat) :
    (regionOf (freeSides s r p) k).side =
      if k = r then (regionOf s r).side.filter (fun e => !p e) else (regionOf s k).side := by
  rw [freeSides, regionOf_modRegion]
  split
  · exact congrArg (List.filter _) ((sameSlices_foldl_ccBump _ _ _ _ s).side r)
  · exact (sameSlices_foldl_ccBump _ _ _ _ s).side k

theorem lines_freeSides (s : State) (r : Nat) (p : SideEntry → Bool) (k : Nat) :
    (regionOf (freeSides s r p) k).lines = (regionOf s k).lines := by
  rw [freeSides, regionOf_modRegion]
  split
  next hk =>
    subst hk
    exact (sameSlices_foldl_ccBump _ _ _ _ s).lines k
  · exact (sameSlices_foldl_ccBump _ _ _ _ s).lines k

theorem lines_freeSide (s : State) (part k : Nat) : (regionOf (freeSide s part) k).lines = (regionOf s k).lines :=
  foldl_related (R := fun s t : State => (regionOf t k).lines = (regionOf s k).lines) (fun _ => rfl) (fun h h' => h'.trans h)
    (f := fun s r => freeSides s r (fun e => e.part == part)) (fun _ _ => lines_freeSides _ _ _ k) _ s

theorem regionOf_of_not_mem {s : State} {r : Nat} (h : r ∉ s.regions.map (·.1)) : regionOf s r = {} := by
  have hnone : alFind s.regions r = none :=
    alFind_eq_none_of_not_mem fun e he hk => h (hk ▸ List.mem_map_of_mem he)
  rw [regionOf, alGet, hnone, Option.getD_none]

/-- No region keeps a side-buffer entry of the partition. -/
theorem side_freeSide (s : State) (part r : Nat) : ∀ e ∈ (regionOf (freeSide s part) r).side, e.part ≠ part := by
  have hkeep (t : State) (k : Nat) (h : ∀ e ∈ (regionOf t r).side, e.part ≠ part) :
      ∀ e ∈ (regionOf (freeSides t k (fun e => e.part == part)) r).side, e.part ≠ part := fun e he => by
    rw [side_freeSides] at he
    split at he
    next hk => exact h e (hk ▸ (List.mem_filter.mp he).1)
    · exact h e he
  by_cases hr : r ∈ s.regions.map (·.1)
  · refine foldl_establishes (I := fun _ => True) (P := fun t => ∀ e ∈ (regionOf t r).side, e.part ≠ part)
      (fun _ _ _ => trivial) hkeep (fun t _ e he => ?_) hr trivial
    rw [side_freeSides, if_pos rfl] at he
    simpa using (List.mem_filter.mp he).2
  · exact List.foldlRecOn (motive := fun t => ∀ e ∈ (regionOf t r).side, e.part ≠ part) _ _
      (by simp [regionOf_of_not_mem hr]) fun t h k _ => hkeep t k h

/-! ### The stash and the cores -/

/-- A partition's stash goes without its slices' lines and side buffers. -/
theorem regionOf_freeStash (s : State) (part r : Nat) :
    (regionOf (freeStash s part) r).lines = (regionOf s r).lines ∧ (regionOf (freeStash s part) r).side = (regionOf s r).side := by
  simp only [regionOf, freeStash, alGet, alFind_alMap]
  cases alFind s.regions r <;> exact ⟨rfl, rfl⟩

/-- Clearing a partition's cores changes cores alone. -/
theorem clearPartCores_cores (s : State) (part : Nat) : ∃ cores, clearPartCores s part = { s with cores := cores } :=
  foldl_related (R := fun s t : State => ∃ cores, t = { s with cores := cores }) (fun _ => ⟨_, rfl⟩)
    (by rintro _ _ _ ⟨_, rfl⟩ ⟨_, rfl⟩; exact ⟨_, rfl⟩) (fun _ _ => ⟨_, rfl⟩) (partCores s part) s

/-- The L1s and the detectors of the partition's cores are empty. -/
theorem execOf_clearPartCores (s : State) {part c : Nat} (hc : c ∈ partCores s part) :
    (execOf (clearPartCores s part) c).l1 = [] ∧ (execOf (clearPartCores s part) c).dets = [] := by
  have hself (t : State) (k : Nat) : execOf (modExec (l1Clear t k) k (fun x => { x with dets := [] })) k =
      { (execOf t k).noL1 with dets := [] } := by rw [execOf_modExec, l1Clear, execOf_modExec]
  refine foldl_establishes (I := fun _ => True) (P := fun t => (execOf t c).l1 = [] ∧ (execOf t c).dets = [])
    (fun _ _ _ => trivial) (fun t k h => ?_) (fun t _ => ?_) hc trivial
  · by_cases hk : c = k
    · subst hk
      rw [hself]
      exact ⟨rfl, rfl⟩
    · rw [execOf_modExec_other _ _ hk, l1Clear, execOf_modExec_other _ _ hk]
      exact h
  · rw [hself]
    exact ⟨rfl, rfl⟩

/-! ### The scrub -/

theorem scrubPart_spec (s : State) (part : Nat) :
    (scrubPart s part).mem.mem = s.mem.mem ∧ (scrubPart s part).sched = s.sched ∧
      (∀ c ∈ partCores s part, (execOf (scrubPart s part) c).l1 = [] ∧ (execOf (scrubPart s part) c).dets = []) ∧
      (∀ r, ∀ e ∈ (regionOf (scrubPart s part) r).side, e.part ≠ part) ∧
      ∀ r ∈ partSlices s part, ∀ set w, w < 16 → (waysOf s r part).getLsbD w = true →
        alFind (regionOf (scrubPart s part) r).lines (set * 16 + w) = none := by
  have hways (r : Nat) (hr : r ∈ partSlices s part) := lines_dropPartWays s part hr
  have hkept : Accesses s (freeSide (dropPartWays s part (partSlices s part)) part) :=
    (accesses_dropPartWays s part _).trans (accesses_freeSide _ _)
  have hlines := lines_freeSide (dropPartWays s part (partSlices s part)) part
  have hside := side_freeSide (dropPartWays s part (partSlices s part)) part
  rw [scrubPart, ← dropPartWays]
  generalize freeSide (dropPartWays s part (partSlices s part)) part = t at hkept hlines hside
  have hstash := regionOf_freeStash t part
  have hsched : t.sched = s.sched := (congrArg State.sched hkept.apart :)
  have hcores : partCores (freeStash t part) part = partCores s part := by
    simp only [partCores, freeStash, hkept.cores, hsched]
  have hclear := @execOf_clearPartCores (freeStash t part) part
  obtain ⟨cores, hc⟩ := clearPartCores_cores (freeStash t part) part
  rw [hcores] at hclear
  have hregion (r : Nat) : regionOf (clearPartCores (freeStash t part) part) r = regionOf (freeStash t part) r := by rw [hc]; rfl
  refine ⟨?_, ?_, fun c h => hclear h, fun r e he => ?_, fun r hr set w hw hway => ?_⟩
  · rw [hc]; exact hkept.cells
  · rw [hc]; exact hsched
  · rw [hregion, (hstash r).2] at he
    exact hside r e he
  · rw [hregion, (hstash r).1, hlines]
    refine alFind_eq_none_of_not_mem fun e he hkey => ?_
    have hway' : e.1 % 16 = w := by omega
    have hgone := hways r hr e he
    rw [hway', hway] at hgone
    exact Bool.noConfusion hgone

/-- The scrub for a new tenant marks the partition as served by it and leaves it clean (R273). -/
theorem tenantSwitchScrub_completes {part tenant : Nat} {s : State} {p : Partition} (hp : alFind s.sched.parts part = some p)
    (hstrict : s.sched.strict = true) (hnew : p.served ≠ some tenant) (hbound : partOf s tenant = some part) :
    exec (.tenantSwitchScrub part tenant) s = completes s { scrubPart s part with
      sched.parts := alPut (scrubPart s part).sched.parts part { p with served := some tenant } } := by
  refine congrArg (completes s) ?_
  simp [hp, hstrict, hnew, hbound]

end Sys2Proof.Machine
end
section
/-! Pre-emption (R391 to R394): the turn that hands cores over and starts saves, the save that completes, the response of a parked
tag, and the restore. -/

namespace Sys2Proof.Machine

/-! ### Cores and shot clocks -/

@[simp] theorem coreOf_modCore_self (s : State) (c : Nat) (g : Core → Core) : coreOf (modCore s c g) c = g (coreOf s c) := by
  simp [coreOf]

theorem coreOf_modCore_other (s : State) {c k : Nat} (g : Core → Core) (h : k ≠ c) : coreOf (modCore s c g) k = coreOf s k := by
  simp [coreOf, alGet_alPut_other _ _ _ _ _ h]

theorem onlyClocks_syncShots (s : State) : OnlyClocks s (syncShots s) :=
  foldl_related OnlyClocks.refl OnlyClocks.trans (fun _ _ => onlyClocks_syncShot _ _) _ s

/-- `t` is `s` but for its shot clocks, its queue of commands and its variant. -/
structure Clocked (s t : State) : Prop where
  mem : t.mem = s.mem
  cores : t.cores = s.cores
  regions : t.regions = s.regions
  fns : t.fns = s.fns
  nodes : t.fe.nodes = s.fe.nodes
  links : t.links = s.links
  saved : t.saved = s.saved

namespace Clocked
variable {s t : State} (h : Clocked s t)
include h

theorem coreOf_eq (c : Nat) : coreOf t c = coreOf s c := by rw [coreOf, h.cores, coreOf]

theorem regionOf_eq (r : Nat) : regionOf t r = regionOf s r := by rw [regionOf, h.regions, regionOf]

end Clocked

/-- A command whose last step lets the shot clocks run or stop. -/
theorem completes_syncShots (s u : State) : ∃ t, completes s (syncShots u) = .next t ∧ Clocked u t := by
  obtain ⟨queues, hclocks, -⟩ := onlyClocks_syncShots u
  rw [hclocks]
  exact ⟨_, rfl, rfl, rfl, rfl, rfl, rfl, rfl, rfl⟩

/-! ### The turn (R391) -/

/-- A chosen core goes over to the job that chose it. -/
def handOver (h : Nat → CoreHold) (s : State) (c : Nat) : State :=
  modCore s c (fun x => { x with hold := h ((coreChosen s c).getD 0) })

/-- What is handed over one after the other changes cores alone. -/
theorem foldl_handOver_cores (h : Nat → CoreHold) (cs : List Nat) (s : State) :
    ∃ cores, cs.foldl (handOver h) s = { s with cores := cores } :=
  foldl_related (R := fun s t : State => ∃ cores, t = { s with cores := cores }) (fun _ => ⟨_, rfl⟩)
    (by rintro _ _ _ ⟨_, rfl⟩ ⟨_, rfl⟩; exact ⟨_, rfl⟩) (fun _ _ => ⟨_, rfl⟩) cs s

theorem coreChosen_congr {s t : State} {c : Nat} (h : coreOf t c = coreOf s c) : coreChosen t c = coreChosen s c := by
  rw [coreChosen, h, coreChosen]

/-- Cores that are handed over, each once. -/
theorem coreOf_foldl_handOver (h : Nat → CoreHold) {cs : List Nat} (hcs : cs.Nodup) (c : Nat) (s : State) :
    coreOf (cs.foldl (handOver h) s) c =
      if c ∈ cs then { coreOf s c with hold := h ((coreChosen s c).getD 0) } else coreOf s c := by
  induction cs generalizing s with
  | nil => rfl
  | cons a r ih =>
    obtain ⟨ha, hr⟩ := List.nodup_cons.mp hcs
    rw [List.foldl_cons, ih hr]
    by_cases hc : c = a
    · subst hc
      simp [ha, handOver]
    · have hkept := coreOf_modCore_other s (fun x => { x with hold := h ((coreChosen s a).getD 0) }) hc
      simp only [handOver, coreChosen_congr hkept, hkept, List.mem_cons, hc, false_or]

/-- The cores of a region that a turn takes: those chosen, of which those with resident blocks are saved. -/
def chosenCores (s : State) (region : Nat) : List Nat := (regionCores s region).filter (fun c => (coreChosen s c).isSome)

/-- Chosen cores with resident blocks. -/
def busyCores (s : State) (region : Nat) : List Nat := (chosenCores s region).filter (fun c => !(execOf s c).blocks.isEmpty)

/-- Chosen cores without resident blocks. -/
def idleCores (s : State) (region : Nat) : List Nat := (chosenCores s region).filter (fun c => (execOf s c).blocks.isEmpty)

/-- The state after a turn in which no save runs: idle cores are lent, and at most 16 others are being saved. -/
def turnTaken (s : State) (region : Nat) : State :=
  ((busyCores s region).take 16).foldl (handOver .saving) ((idleCores s region).foldl (handOver .lent) s)

theorem exec_coreSaveTurn {region : Nat} {s : State} (hturn : (regionOf s region).turn = 0) :
    exec (.coreSaveTurn region) s = completes s (syncShots (modRegion (turnTaken s region) region
      (fun x => { x with turn := x.turn + ((busyCores s region).take 16).length }))) := by
  have hsave : (if (regionOf s region).turn = 0 then (busyCores s region).take 16 else []) = (busyCores s region).take 16 :=
    if_pos hturn
  change completes s (syncShots (modRegion ((if (regionOf s region).turn = 0 then (busyCores s region).take 16 else []).foldl
    (handOver .saving) ((idleCores s region).foldl (handOver .lent) s)) region (fun x => { x with
      turn := x.turn + (if (regionOf s region).turn = 0 then (busyCores s region).take 16 else []).length }))) = _
  rw [hsave, turnTaken]

theorem hold_turnTaken {s : State} {region c : Nat} (hnd : (chosenCores s region).Nodup) :
    (c ∈ idleCores s region → (coreOf (turnTaken s region) c).hold = .lent ((coreChosen s c).getD 0)) ∧
      (c ∈ (busyCores s region).take 16 → (coreOf (turnTaken s region) c).hold = .saving ((coreChosen s c).getD 0)) := by
  have hidles : (idleCores s region).Nodup := hnd.filter _
  have hbusies : ((busyCores s region).take 16).Nodup := (hnd.filter _).sublist (List.take_sublist 16 _)
  have hidle := coreOf_foldl_handOver .lent hidles c s
  have hapart (hi : c ∈ idleCores s region) : c ∉ (busyCores s region).take 16 := fun hb => by
    have hempty := (List.mem_filter.mp hi).2
    have hfull := (List.mem_filter.mp (List.mem_of_mem_take hb)).2
    simp [hempty] at hfull
  rw [turnTaken, coreOf_foldl_handOver .saving hbusies]
  refine ⟨fun hi => ?_, fun hb => ?_⟩
  · rw [if_neg (hapart hi), hidle, if_pos hi]
  · rw [if_neg fun hi => hapart hi hb] at hidle
    rw [if_pos hb, coreChosen_congr hidle]

/-- A turn lends the idle cores, starts at most 16 saves and counts them (R391). -/
theorem coreSaveTurn_completes {region : Nat} {s : State} (hturn : (regionOf s region).turn = 0)
    (hnd : (chosenCores s region).Nodup) :
    ∃ t, exec (.coreSaveTurn region) s = .next t ∧ t.mem = s.mem ∧
      (regionOf t region).turn = min 16 (busyCores s region).length ∧
      (∀ c ∈ idleCores s region, (coreOf t c).hold = .lent ((coreChosen s c).getD 0)) ∧
      ∀ c ∈ (busyCores s region).take 16, (coreOf t c).hold = .saving ((coreChosen s c).getD 0) := by
  obtain ⟨cores, hidle⟩ := foldl_handOver_cores .lent (idleCores s region) s
  obtain ⟨cores', hbusy⟩ := foldl_handOver_cores .saving ((busyCores s region).take 16) { s with cores := cores }
  have htaken : turnTaken s region = { s with cores := cores' } := by rw [turnTaken, hidle, hbusy]
  obtain ⟨t, ht, hkept⟩ := completes_syncShots s (modRegion (turnTaken s region) region
    (fun x => { x with turn := x.turn + ((busyCores s region).take 16).length }))
  have hcore (c : Nat) : coreOf t c = coreOf (turnTaken s region) c := hkept.coreOf_eq c
  have hregion : regionOf (turnTaken s region) region = regionOf s region := by rw [htaken]; rfl
  refine ⟨t, (exec_coreSaveTurn hturn).trans ht, hkept.mem.trans (by rw [htaken]; rfl), ?_, fun c hc => ?_, fun c hc => ?_⟩
  · rw [hkept.regionOf_eq, regionOf_modRegion_self, hregion]
    simp only [hturn, Nat.zero_add, List.length_take]
  · rw [hcore]
    exact (hold_turnTaken hnd).1 hc
  · rw [hcore]
    exact (hold_turnTaken hnd).2 hc

/-! ### The save (R244, R392, R393) -/

/-- A context without what the end of a fence changes. -/
def Exec.unfenced (x : Exec) : Exec :=
  { x with groups := [], atoms := [], fences := [], l1 := [], hostOrdered := false
           loads := x.loads.map (fun l => { l with nofill := true }) }

/-- `t` comes from `s` by ends of fences of a core. -/
structure FenceEnds (core : Nat) (s t : State) : Prop where
  cores : ∃ cores, t = { s with cores := cores }
  rest : { coreOf t core with exec := (execOf t core).unfenced } = { coreOf s core with exec := (execOf s core).unfenced }
  fences : (execOf t core).fences ⊆ (execOf s core).fences

namespace FenceEnds

theorem refl (core : Nat) (s : State) : FenceEnds core s s := ⟨⟨_, rfl⟩, rfl, List.Subset.refl _⟩

theorem trans {core : Nat} {s t u : State} (h : FenceEnds core s t) (h' : FenceEnds core t u) : FenceEnds core s u := by
  obtain ⟨⟨_, rfl⟩, hcore, hfences⟩ := h
  obtain ⟨⟨_, rfl⟩, hcore', hfences'⟩ := h'
  exact ⟨⟨_, rfl⟩, hcore'.trans hcore, List.Subset.trans hfences' hfences⟩

/-- One of two ways on. -/
theorem ite {core : Nat} {c : Prop} [Decidable c] {s t u : State} (ht : FenceEnds core s t) (hu : FenceEnds core s u) :
    FenceEnds core s (if c then t else u) := by
  split
  · exact ht
  · exact hu

theorem modExec {s : State} {core : Nat} {g : Exec → Exec} (h : (g (execOf s core)).unfenced = (execOf s core).unfenced)
    (hfences : (g (execOf s core)).fences ⊆ (execOf s core).fences) : FenceEnds core s (modExec s core g) := by
  refine ⟨⟨_, rfl⟩, ?_, ?_⟩
  · rw [coreOf_modExec, execOf_modExec, h]
  · rw [execOf_modExec]; exact hfences

section
variable {core : Nat} {s t : State} (h : FenceEnds core s t)
include h

theorem owner : (coreOf t core).owner = (coreOf s core).owner := (congrArg Core.owner h.rest :)
theorem blocks : (execOf t core).blocks = (execOf s core).blocks := (congrArg (fun c : Core => c.exec.blocks) h.rest :)
theorem wb : (execOf t core).wb = (execOf s core).wb := (congrArg (fun c : Core => c.exec.wb) h.rest :)
theorem loads : (execOf t core).kept.loads = (execOf s core).kept.loads := (congrArg (fun c : Core => c.exec.loads) h.rest :)

end
end FenceEnds

theorem fenceEnds_l1Clear (s : State) (core : Nat) : FenceEnds core s (l1Clear s core) := by
  refine .modExec ?_ (List.Subset.refl _)
  have hloads : (execOf s core).noL1.loads.map (fun l => { l with nofill := true }) =
      (execOf s core).loads.map (fun l => { l with nofill := true }) := by
    rw [Exec.noL1, List.map_map]
    refine List.map_congr_left fun l _ => ?_
    rw [Function.comp]
    split <;> rfl
  rw [Exec.unfenced, hloads]
  rfl

theorem fenceEnds_fenceEnd (s : State) (core : Nat) (kind : FenceKind) (sc : Scope) : FenceEnds core s (fenceEnd s core kind sc) := by
  have hclear (c : Prop) [Decidable c] : FenceEnds core s (if c then l1Clear s core else s) :=
    .ite (fenceEnds_l1Clear s core) (.refl _ s)
  exact .ite ((hclear _).trans (.modExec rfl (List.Subset.refl _))) (hclear _)

theorem fenceEnds_wakePaths (s : State) (core slot : Nat) (st : Stall) (redo : Bool) :
    FenceEnds core s (wakePaths s core slot st redo) := by
  refine .modExec ?_ ?_ <;> split
  · rfl
  · rfl
  · exact List.Subset.refl _
  · exact List.Subset.refl _

/-- A fence that is over leaves the list of its core. -/
theorem fenceEnds_fenceOver (s : State) (core : Nat) (f : FenceWait) :
    FenceEnds core s (fenceOver s core f) ∧ ∀ x ∈ (execOf (fenceOver s core f) core).fences, x.id ≠ f.id := by
  have hgone := FenceEnds.modExec (s := s) (core := core) (g := fun x => { x with
      fences := x.fences.filter (fun g => g.id != f.id)
      atoms := x.atoms.map (fun a => if a.after = some f.id then { a with after := none } else a) }) rfl List.filter_sublist.subset
  have hends := (fenceEnds_fenceEnd (modExec s core (fun x => { x with
      fences := x.fences.filter (fun g => g.id != f.id)
      atoms := x.atoms.map (fun a => if a.after = some f.id then { a with after := none } else a) })) core f.kind f.scope).trans
    (fenceEnds_wakePaths _ core f.slot (.fence f.id) f.redo)
  refine ⟨hgone.trans hends, fun x hx => ?_⟩
  have hin := hends.fences hx
  rw [execOf_modExec] at hin
  simpa using (List.mem_filter.mp hin).2

/-- The core once every fence that waits there is over. -/
def fencesOver (s : State) (core : Nat) : State := (execOf s core).fences.foldl (fun s f => fenceOver s core f) s

theorem fenceEnds_fencesOver (s : State) (core : Nat) : FenceEnds core s (fencesOver s core) :=
  foldl_related (FenceEnds.refl core) FenceEnds.trans (fun s f => (fenceEnds_fenceOver s core f).1) _ s

/-- No fence waits there any more (R244). -/
theorem fences_fencesOver (s : State) (core : Nat) : (execOf (fencesOver s core) core).fences = [] := by
  refine List.eq_nil_iff_forall_not_mem.mpr fun x hx => ?_
  have hin : x ∈ (execOf s core).fences := (fenceEnds_fencesOver s core).fences hx
  have hover : ∀ y ∈ (execOf (fencesOver s core) core).fences, y.id ≠ x.id :=
    foldl_establishes (I := fun _ => True) (P := fun t => ∀ y ∈ (execOf t core).fences, y.id ≠ x.id) (fun _ _ _ => trivial)
      (fun t f h y hy => h y ((fenceEnds_fenceOver t core f).1.fences hy)) (fun t _ => (fenceEnds_fenceOver t core x).2) hin trivial
  exact hover x hx rfl

/-- The transactions once those of a core are parked (R393). -/
def parkTxns (txns : List Txn) (core : Nat) : List Txn :=
  txns.map (fun t => if t.core = core && !t.dead then { t with parked := true } else t)

theorem parkTxns_parked {txns : List Txn} {core : Nat} {y : Txn} (hy : y ∈ parkTxns txns core) (hcore : y.core = core) :
    y.parked = true ∨ y.dead = true := by
  obtain ⟨t, -, rfl⟩ := List.mem_map.mp hy
  by_cases hmine : (decide (t.core = core) && !t.dead) = true
  · exact .inl (by rw [if_pos hmine])
  · rw [if_neg hmine] at hcore ⊢
    exact .inr (by simpa [hcore] using hmine)

/-- The state in which the context of a core is kept and the core is lent to job `k`. -/
def contextSaved (s : State) (core k : Nat) : State :=
  modCore (saveEpis { s with links.txns := parkTxns s.links.txns core, saved := alPut s.saved core (execOf s core).kept } core) core
    (fun c => { c with hold := .lent k, exec :=
      { split := (execOf s core).split, lastTenant := (execOf s core).lastTenant, l1 := (execOf s core).l1
        istore := (execOf s core).istore, code := (execOf s core).code } })

theorem coreOf_contextSaved (s : State) (core k : Nat) : ∃ x : Exec, x.groups = [] ∧ x.blocks = [] ∧ x.wb = [] ∧
    coreOf (contextSaved s core k) core = { coreOf s core with hold := .lent k, exec := x } :=
  ⟨_, rfl, rfl, rfl, coreOf_modCore_self (saveEpis { s with
    links.txns := parkTxns s.links.txns core, saved := alPut s.saved core (execOf s core).kept } core) core _⟩

/-- A save that completes counts at the function of the job that owns its core. -/
def countSave (s : State) (owner : Option Nat) : State :=
  match (owner.bind (alFind s.fe.jobs)).map (·.fn) with
  | some f => bump s f 0x30118 1
  | none => s

theorem onlyHostSide_countSave (s : State) (owner : Option Nat) : OnlyHostSide s (countSave s owner) := by
  rw [countSave]
  split
  · exact onlyHostSide_bump _ _ _ _
  · exact .refl s

theorem exec_coreSaveComplete {core k : Nat} {s : State} (hhold : (coreOf s core).hold = .saving k)
    (hready : saveReady (execOf s core) = true) (hblocks : (execOf s core).blocks ≠ []) :
    exec (.coreSaveComplete core) s = completes s (syncShots (countSave (modRegion (contextSaved (fencesOver s core) core k)
      (coreRegion core) (fun y => { y with turn := y.turn - 1 })) (coreOf s core).owner)) := by
  have hfull : (execOf (fencesOver s core) core).blocks.isEmpty = false := by
    rw [(fenceEnds_fencesOver s core).blocks]
    simpa using hblocks
  rw [execOf] at hready
  refine congrArg (completes s) ?_
  simp only [hhold, hready, Bool.not_true, Bool.false_eq_true, if_false]
  refine (congrArg (fun saved => syncShots (countSave (modRegion (modCore (saveEpis { fencesOver s core with
    links.txns := parkTxns (fencesOver s core).links.txns core, saved := saved } core) core _) _ _) _)) (if_neg ?_) :)
  exact Bool.eq_false_iff.mp hfull

/-- A save that completes ends the core's fences, keeps its context, parks its tags and lends it (R244, R392, R393). -/
theorem coreSaveComplete_completes {core k : Nat} {s : State} (hhold : (coreOf s core).hold = .saving k)
    (hready : saveReady (execOf s core) = true) (hblocks : (execOf s core).blocks ≠ []) :
    ∃ t, exec (.coreSaveComplete core) s = .next t ∧ t.mem = s.mem ∧
      coreOf t core = coreOf (contextSaved (fencesOver s core) core k) core ∧
      t.saved = alPut s.saved core (execOf (fencesOver s core) core).kept ∧ t.links.txns = parkTxns s.links.txns core := by
  obtain ⟨cores, hover⟩ := (fenceEnds_fencesOver s core).cores
  obtain ⟨fns, host, hcount⟩ := onlyHostSide_countSave (modRegion (contextSaved (fencesOver s core) core k) (coreRegion core)
    (fun y => { y with turn := y.turn - 1 })) (coreOf s core).owner
  obtain ⟨t, ht, hkept⟩ := completes_syncShots s (countSave (modRegion (contextSaved (fencesOver s core) core k) (coreRegion core)
    (fun y => { y with turn := y.turn - 1 })) (coreOf s core).owner)
  rw [hcount] at hkept
  refine ⟨t, (exec_coreSaveComplete hhold hready hblocks).trans ht, hkept.mem.trans ?_, hkept.coreOf_eq core, hkept.saved.trans ?_,
    (congrArg Links.txns hkept.links).trans ?_⟩
  · exact (congrArg State.mem hover :)
  · exact (congrArg (fun t : State => alPut t.saved core (execOf (fencesOver s core) core).kept) hover :)
  · exact (congrArg (fun t : State => parkTxns t.links.txns core) hover :)

/-! ### Responses of parked tags (R393) -/

theorem noteRemote_ok (s : State) (y : Txn) : noteRemote s y 0 = s := by
  rw [noteRemote]
  split
  · exact if_pos rfl
  · rfl

/-- What is done to a saved context leaves its core's live one. -/
theorem onContext_saved {s : State} {y : Txn} {x : Exec} (g : Exec → Exec) (hparked : y.parked = true)
    (hx : alFind s.saved y.core = some x) :
    let t := onContext s y (fun s => modExec s y.core g)
    t.mem = s.mem ∧ t.links = s.links ∧ coreOf t y.core = coreOf s y.core ∧ t.saved = alPut s.saved y.core (g x) := by
  simp only [onContext, hparked, if_true, hx]
  refine ⟨rfl, rfl, ?_, ?_⟩
  · rw [coreOf_modExec]
    change { coreOf (modExec (modExec s y.core fun _ => x) y.core g) y.core with exec := execOf s y.core } = _
    rw [coreOf_modExec, coreOf_modExec]
    rfl
  · rw [execOf_modExec, execOf_modExec]
    rfl

theorem txnOf_closeTxn (s : State) (die tag : Nat) : txnOf (closeTxn s die tag) die tag = none := by
  refine List.find?_eq_none.mpr fun y hy hmatch => ?_
  have hother := (List.mem_filter.mp hy).2
  simp [hmatch] at hother

/-- A load's parked response goes to the saved context (R393). -/
theorem parkedResponse_completes {die tag : Nat} {data : Line} {s : State} {y : Txn} {x : Exec} (hy : txnOf s die tag = some y)
    (hparked : y.parked = true) (hlive : y.dead = false) (hkind : y.kind = .load) (hx : alFind s.saved y.core = some x) :
    ∃ t, exec (.parkedResponse die tag 0 false data) s = .next t ∧ t.mem = s.mem ∧ coreOf t y.core = coreOf s y.core ∧
      txnOf t die tag = none ∧ t.saved = alPut s.saved y.core { x with
        loads := x.loads.map (fun l => if l.id = y.id then { l with got := some (data, 0, 0) } else l) } := by
  obtain ⟨hdie, htag⟩ : y.die = die ∧ y.tag = tag := by simpa using List.find?_some hy
  obtain ⟨fns, host, hbump⟩ := onlyHostSide_bump s y.tenant 0x30130 1
  have hrun : exec (.parkedResponse die tag 0 false data) s =
      completes s (answerLoad (closeTxn { s with fns := fns, host := host } die tag) y none data) := by
    refine congrArg (completes s) ?_
    simp [hy, hparked, hlive, hbump, answerTxn, noteRemote_ok, hkind, hdie, htag]
  obtain ⟨hmem, hlinks, hcore, hsaved⟩ := onContext_saved (s := closeTxn { s with fns := fns, host := host } die tag)
    (fun x => { x with loads := x.loads.map (fun l => if l.id = y.id then { l with got := some (data, 0, 0) } else l) }) hparked hx
  refine ⟨_, hrun, hmem, hcore, ?_, hsaved⟩
  exact (congrArg (fun l : Links => l.txns.find? (fun t : Txn => t.die == die && t.tag == tag)) hlinks).trans
    (txnOf_closeTxn _ die tag)

/-! ### The restore (R394) -/

/-- Failed writes of a context leave its write buffer, and fail nodes. -/
theorem parkedWrites_eq (s : State) (core : Nat) :
    ∃ fe, parkedWrites s core = { modExec s core (fun x => { x with wb := x.wb.filter (fun w => w.failed.isNone) }) with fe := fe } := by
  refine foldl_related (R := fun s t : State => ∃ fe, t = { s with fe := fe }) (fun _ => ⟨_, rfl⟩)
    (by rintro _ _ _ ⟨_, rfl⟩ ⟨_, rfl⟩; exact ⟨_, rfl⟩) (fun t w => ?_) _ _
  refine foldl_related (R := fun s t : State => ∃ fe, t = { s with fe := fe }) (fun _ => ⟨_, rfl⟩)
    (by rintro _ _ _ ⟨_, rfl⟩ ⟨_, rfl⟩; exact ⟨_, rfl⟩) (fun t n => ?_) _ t
  rw [failNode, modNode]
  split <;> exact ⟨_, rfl⟩

/-- The state in which a saved context is its core's again. -/
def contextBack (s : State) (core : Nat) (e : Exec) : State :=
  modCore { s with saved := alDel s.saved core } core (fun c =>
    { c with hold := .free, exec := { e with istore := c.exec.istore, code := c.exec.code } })

theorem coreOf_contextBack (s : State) (core : Nat) (e : Exec) :
    coreOf (contextBack s core e) core = { coreOf s core with
      hold := .free, exec := { e with istore := (execOf s core).istore, code := (execOf s core).code } } :=
  coreOf_modCore_self { s with saved := alDel s.saved core } core _

/-- After the RT job's record, the saved context is the core's again, without its failed writes (R393, R394). -/
theorem coreRestore_completes {core k : Nat} {s : State} {e : Exec} (hhold : (coreOf s core).hold = .lent k)
    (hover : alFind s.fe.jobs k = none) (hrun : (coreOf s core).draining = false) (hblocks : (execOf s core).blocks = [])
    (hwb : (execOf s core).wb = []) (hmmas : (execOf s core).mmas = []) (he : alFind s.saved core = some e) :
    ∃ t, exec (.coreRestore core) s = .next t ∧ t.mem = s.mem ∧ t.saved = alDel s.saved core ∧
      coreOf t core = { coreOf s core with hold := .free, exec := { e with
        wb := e.wb.filter (fun w => w.failed.isNone), istore := (execOf s core).istore, code := (execOf s core).code } } := by
  have hexec : exec (.coreRestore core) s =
      completes s (syncShots (restoreEpis (parkedWrites (contextBack s core e) core) core)) := by
    have hlent : lentOver s (coreOf s core) = true := by simp [lentOver, hhold, hover]
    rw [execOf] at hblocks hwb hmmas
    refine congrArg (completes s) ?_
    simp only [hlent, hrun, hblocks, hwb, hmmas, he, List.isEmpty_nil, Bool.not_true, Bool.or_self, Bool.false_eq_true, if_false,
      contextBack]
  obtain ⟨fe, hwrites⟩ := parkedWrites_eq (contextBack s core e) core
  obtain ⟨t, ht, hkept⟩ := completes_syncShots s (restoreEpis (parkedWrites (contextBack s core e) core) core)
  rw [hwrites] at hkept
  refine ⟨t, hexec.trans ht, hkept.mem, hkept.saved, (hkept.coreOf_eq core).trans ?_⟩
  refine (coreOf_modExec (contextBack s core e) core (fun x => { x with wb := x.wb.filter (fun w => w.failed.isNone) })).trans ?_
  rw [execOf, coreOf_contextBack]

end Sys2Proof.Machine
end

section
/-! The end of a core reset (R463). -/

namespace Sys2Proof.Machine

/-- Write-buffer entries that a core has still to send. -/
def unsent (s : State) (core : Nat) : List WbEntry := (execOf s core).wb.filter (fun e => !e.sent)

/-- The state in which the discarded stores are counted and noted. -/
def discardNoted (s : State) (core : Nat) : State :=
  (((unsent s core).map (·.tenant)).dedup).foldl (fun s t => raiseEv s t gPM 3 none)
    ((unsent s core).foldl (fun s e => bump s e.tenant 0x90118 1) s)

theorem onlyHostSide_discardNoted (s : State) (core : Nat) : OnlyHostSide s (discardNoted s core) :=
  (foldl_related OnlyHostSide.refl OnlyHostSide.trans (fun _ _ => onlyHostSide_bump _ _ _ _) _ s).trans
    (foldl_related OnlyHostSide.refl OnlyHostSide.trans (fun _ _ => onlyHostSide_raiseEv _ _ _ _ _) _ _)

/-- An event that stands stays when another is raised. -/
theorem eventSet_raiseEv_of_set {s : State} {f grp b : Nat} (h : eventSet s f grp b = true) (k : Nat) (last : Option Nat) :
    eventSet (raiseEv s k grp b last) f grp b = true := by
  by_cases hk : f = k
  · subst hk
    exact eventSet_raiseEv s f grp b last
  · rw [(signals_raised_raiseEv s k grp b last).eventSet, eventSet, fnOf_setFn, if_neg hk]
    exact h

theorem eventSet_discardNoted {s : State} {core : Nat} {e : WbEntry} (he : e ∈ unsent s core) :
    eventSet (discardNoted s core) e.tenant gPM 3 = true :=
  foldl_establishes (I := fun _ => True) (P := fun t => eventSet t e.tenant gPM 3 = true) (fun _ _ _ => trivial)
    (fun _ k h => eventSet_raiseEv_of_set h k none) (fun t _ => eventSet_raiseEv t e.tenant gPM 3 none)
    (List.mem_dedup.mpr (List.mem_map_of_mem he)) trivial

/-- The task of a reset core counts what was discarded. -/
def discardCounted (s : State) (core : Nat) : State :=
  match (coreOf s core).resetNode with
  | some k => modNode (discardNoted s core) k (fun n => { n with aux1 := n.aux1 + (unsent s core).length })
  | none => discardNoted s core

theorem discardCounted_fe (s : State) (core : Nat) : ∃ fe, discardCounted s core = { discardNoted s core with fe := fe } := by
  rw [discardCounted]
  split
  · rw [modNode]
    split <;> exact ⟨_, rfl⟩
  · exact ⟨_, rfl⟩

theorem alFind_discardCounted {s : State} {core k : Nat} {n : Node} (hk : (coreOf s core).resetNode = some k)
    (hn : alFind s.fe.nodes k = some n) :
    alFind (discardCounted s core).fe.nodes k = some { n with aux1 := n.aux1 + (unsent s core).length } := by
  obtain ⟨_, _, hnoted⟩ := onlyHostSide_discardNoted s core
  simp only [discardCounted, hk]
  exact alFind_modNode _ (by rw [hnoted]; exact hn)

/-- A core whose reset drains no more is clear, and what it had not sent is noted (R463). -/
theorem coreResetDrainEnd_completes {core : Nat} {s : State} (hdrain : (coreOf s core).draining = true)
    (hend : (∀ e ∈ (execOf s core).wb, e.sent = true) ∨ (coreOf s core).resetAt + 1000 ≤ s.time) :
    ∃ t, exec (.coreResetDrainEnd core) s = .next t ∧ t.mem = s.mem ∧ t.fns = (discardNoted s core).fns ∧
      t.fe.nodes = (discardCounted s core).fe.nodes ∧ coreOf t core = { coreOf s core with
        draining := false, resetNode := none, halted := false
        exec := { split := (execOf s core).split, istore := (execOf s core).istore, code := (execOf s core).code } } := by
  have hover : (!(unsent s core).isEmpty && decide (s.time < (coreOf s core).resetAt + 1000)) = false := by
    rcases hend with hsent | htime
    · have hnone : unsent s core = [] := List.filter_eq_nil_iff.mpr fun e he => by simp [hsent e he]
      rw [hnone]
      rfl
    · rw [decide_eq_false (Nat.not_lt.mpr htime), Bool.and_false]
  have hexec : ∃ txns, exec (.coreResetDrainEnd core) s = completes s (syncShots
      (modCore { discardCounted s core with links.txns := txns } core (fun c =>
        { c with draining := false, resetNode := none, halted := false
                 exec := { split := c.exec.split, istore := c.exec.istore, code := c.exec.code } }))) := by
    refine ⟨_, congrArg (completes s) ((if_neg ?_).trans rfl)⟩
    rw [hdrain]
    exact Bool.eq_false_iff.mp hover
  obtain ⟨txns, hexec⟩ := hexec
  obtain ⟨fe, hcounted⟩ := discardCounted_fe s core
  obtain ⟨fns, host, hnoted⟩ := onlyHostSide_discardNoted s core
  have hstart : coreOf { discardCounted s core with links.txns := txns } core = coreOf s core := by
    rw [hcounted, hnoted]
    rfl
  obtain ⟨t, ht, hkept⟩ := completes_syncShots s (modCore { discardCounted s core with links.txns := txns } core (fun c =>
    { c with draining := false, resetNode := none, halted := false
             exec := { split := c.exec.split, istore := c.exec.istore, code := c.exec.code } }))
  refine ⟨t, hexec.trans ht, hkept.mem.trans ?_, hkept.fns.trans ?_, hkept.nodes, (hkept.coreOf_eq core).trans ?_⟩
  · change (discardCounted s core).mem = s.mem
    rw [hcounted, hnoted]
  · change (discardCounted s core).fns = _
    rw [hcounted]
  · refine (coreOf_modCore_self { discardCounted s core with links.txns := txns } core _).trans ?_
    rw [hstart]
    rfl

/-- Settles O36, command by command: each command's effect is a theorem of its own above. -/
theorem coresAreScrubbedSavedAndReset : Obligations.CoresAreScrubbedSavedAndReset := by
  unfold Obligations.CoresAreScrubbedSavedAndReset
  refine ⟨?_, ⟨?_, ?_, ?_, ?_⟩, ?_⟩
  · intro part tenant s p hp hstrict hnew hbound
    obtain ⟨hmem, -, hcores, hside, hlines⟩ := scrubPart_spec s part
    refine ⟨_, tenantSwitchScrub_completes hp hstrict hnew hbound, hmem, alFind_alPut_self _ _ _, hcores, hside, ?_⟩
    exact fun r hr set w l hw hway _ _ _ => hlines r hr set w hw hway
  · intro region s hturn hnd
    obtain ⟨t, hexec, hmem, hcount, hidle, hbusy⟩ := coreSaveTurn_completes hturn hnd
    refine ⟨t, hexec, hmem, hcount ▸ Nat.min_le_left .., hcount, fun c hc hempty => hidle c ?_, hbusy⟩
    exact List.mem_filter.mpr ⟨hc, by rw [hempty]; rfl⟩
  · intro core k s hhold hready hblocks
    obtain ⟨t, hexec, hmem, hcore, hsaved, htxns⟩ := coreSaveComplete_completes hhold hready hblocks
    obtain ⟨x, hgroups, hnoblocks, hwb, hlent⟩ := coreOf_contextSaved (fencesOver s core) core k
    have hends := fenceEnds_fencesOver s core
    have hclear : execOf t core = x := congrArg Core.exec (hcore.trans hlent)
    have hfound := (congrArg (alFind · core) hsaved).trans (alFind_alPut_self _ _ _)
    refine ⟨t, _, hexec, hmem, (congrArg Core.hold (hcore.trans hlent) :), (congrArg Core.owner (hcore.trans hlent)).trans hends.owner,
      hclear ▸ hgroups, hclear ▸ hnoblocks, hclear ▸ hwb, hfound, fun hnone => ?_, fences_fencesOver s core, hends.blocks,
      hends.loads, hends.wb, fun y hy => parkTxns_parked (htxns ▸ hy)⟩
    rw [fencesOver, hnone]
    rfl
  · intro die tag data s y x hy hparked hlive hkind hx
    obtain ⟨t, hexec, hmem, hcore, htxn, hsaved⟩ := parkedResponse_completes (data := data) hy hparked hlive hkind hx
    have hfound := (congrArg (alFind · y.core) hsaved).trans (alFind_alPut_self _ _ _)
    exact ⟨t, _, hexec, hmem, hcore, htxn, hfound, rfl, rfl⟩
  · intro core k s e hhold hover hrun hblocks hwb hmmas he
    obtain ⟨t, hexec, hmem, hsaved, hcore⟩ := coreRestore_completes hhold hover hrun hblocks hwb hmmas he
    have hexecOf := congrArg Core.exec hcore
    exact ⟨t, hexec, hmem, (congrArg Core.hold hcore :), (congrArg Core.owner hcore :), hsaved, (congrArg Exec.groups hexecOf :),
      (congrArg Exec.blocks hexecOf :), (congrArg Exec.loads hexecOf :), (congrArg Exec.atoms hexecOf :),
      (congrArg Exec.fences hexecOf :), (congrArg Exec.wb hexecOf :)⟩
  · intro core s hdrain hend
    obtain ⟨t, hexec, hmem, hfns, hnodes, hcore⟩ := coreResetDrainEnd_completes hdrain hend
    have hexecOf := congrArg Core.exec hcore
    refine ⟨t, hexec, hmem, (congrArg Core.draining hcore :), (congrArg Core.halted hcore :), (congrArg Exec.blocks hexecOf :),
      (congrArg Exec.groups hexecOf :), (congrArg Exec.wb hexecOf :), (congrArg Exec.l1 hexecOf :), fun e he hunsent => ?_,
      fun k n hk hn => ⟨_, hnodes ▸ alFind_discardCounted hk hn, rfl⟩⟩
    have hleft : e ∈ unsent s core := List.mem_filter.mpr ⟨he, by rw [hunsent]; rfl⟩
    rw [(Signals.of_fns hfns).eventSet]
    exact eventSet_discardNoted hleft

end Sys2Proof.Machine
end

section
/-! The bookkeeping of a controller's runs (R290 to R298, R402, R407): what charging a run, opening its row and decoding its clean
sectors leave of the memory system. -/

namespace Sys2Proof.Machine

/-! ### Controllers -/

theorem ctlOf_modCtl (s : State) (h : Nat) (g : Ctl → Ctl) (k : Nat) :
    ctlOf (modCtl s h g) k = if k = h then g (ctlOf s h) else ctlOf s k := by
  simp only [ctlOf, modCtl, alMod, alGet_alPut]

@[simp] theorem ctlOf_modCtl_self (s : State) (h : Nat) (g : Ctl → Ctl) : ctlOf (modCtl s h g) h = g (ctlOf s h) := by
  rw [ctlOf_modCtl, if_pos rfl]

theorem ctlOf_congr {s t : State} (hm : t.mem = s.mem) (k : Nat) : ctlOf t k = ctlOf s k := by rw [ctlOf, hm, ctlOf]

theorem memLine_congr {s t : State} (hm : t.mem = s.mem) (pa : Nat) : memLine t pa = memLine s pa := by
  simp only [memLine, homeOf, setOf, ctlOf, hm]

/-- A command that completes leaves the memory system that it makes. -/
theorem completes_mem (s t : State) : ∃ u, completes s t = .next u ∧ u.mem = t.mem := ⟨_, rfl, rfl⟩

theorem mem_ctrAdd (s : State) (k code n : Nat) (part : Option Nat) : (ctrAdd s k code n part).mem = s.mem := by
  rw [ctrAdd_dbg]

theorem mem_memBump (s : State) (t off n : Nat) : (memBump s t off n).mem = s.mem := (onlyHostSide_memBump s t off n).mem

/-! ### The bookkeeping of runs -/

/-- A controller without what the order and the rate of its runs are held in: credits, open rows, and the runs of the window. -/
def Ctl.unpaced (c : Ctl) : Ctl := { c with regs := [], rows := [], windowRuns := [] }

/-- `t` has the memory system of `s` but for the credits, the open rows and the windows' runs of controllers; every controller
that `s` lists is listed. -/
structure Paced (s t : State) : Prop where
  mem : { t.mem with ctls := [] } = { s.mem with ctls := [] }
  ctl : ∀ k, (ctlOf t k).unpaced = (ctlOf s k).unpaced
  listed : ∀ k, (alFind s.mem.ctls k).isSome = true → (alFind t.mem.ctls k).isSome = true

namespace Paced

theorem of_mem {s t : State} (h : t.mem = s.mem) : Paced s t := ⟨by rw [h], fun k => by rw [ctlOf_congr h], fun k => by rw [h]; exact id⟩

theorem refl (s : State) : Paced s s := .of_mem rfl

theorem trans {s t u : State} (h : Paced s t) (h' : Paced t u) : Paced s u :=
  ⟨h'.mem.trans h.mem, fun k => (h'.ctl k).trans (h.ctl k), fun k hk => h'.listed k (h.listed k hk)⟩

/-- One of two ways on. -/
theorem ite {c : Prop} [Decidable c] {s t u : State} (ht : Paced s t) (hu : Paced s u) : Paced s (if c then t else u) := by
  split
  · exact ht
  · exact hu

section
variable {s t : State} (h : Paced s t)
include h

theorem cells : t.mem.mem = s.mem.mem := (congrArg MemSys.mem h.mem :)
theorem poisoned : t.mem.poisoned = s.mem.poisoned := (congrArg MemSys.poisoned h.mem :)
theorem sets : t.mem.sets = s.mem.sets := (congrArg MemSys.sets h.mem :)
theorem windows : t.mem.windows = s.mem.windows := (congrArg MemSys.windows h.mem :)
theorem reads (k : Nat) : (ctlOf t k).reads = (ctlOf s k).reads := (congrArg Ctl.reads (h.ctl k) :)
theorem writes (k : Nat) : (ctlOf t k).writes = (ctlOf s k).writes := (congrArg Ctl.writes (h.ctl k) :)
theorem erased (k : Nat) : (ctlOf t k).erased = (ctlOf s k).erased := (congrArg Ctl.erased (h.ctl k) :)
theorem patrol (k : Nat) : (ctlOf t k).patrol = (ctlOf s k).patrol := (congrArg Ctl.patrol (h.ctl k) :)
theorem window (k : Nat) : (ctlOf t k).window = (ctlOf s k).window := (congrArg Ctl.window (h.ctl k) :)

theorem homeOf_eq (pa : Nat) : homeOf t pa = homeOf s pa := by simp only [homeOf, setOf, h.sets]

theorem runOf_eq (pa : Nat) : runOf t pa = runOf s pa := by rw [runOf, h.homeOf_eq, runOf]

theorem inRun_eq (run : Option (Nat × Nat)) (x : MemRead) : inRun t run x = inRun s run x := by rw [inRun, h.runOf_eq, inRun]

theorem memPoison_eq (pa : Nat) : memPoison t.mem pa = memPoison s.mem pa := by rw [memPoison, h.poisoned, memPoison]

theorem memLine_eq (pa : Nat) : memLine t pa = memLine s pa := by
  simp only [memLine, h.homeOf_eq, h.cells, h.writes, h.memPoison_eq]

theorem memLineFor_eq (pa id : Nat) : memLineFor t pa id = memLineFor s pa id := by
  simp only [memLineFor, h.homeOf_eq, h.cells, h.writes, h.memPoison_eq]

theorem runLines_eq (k q : Nat) : runLines t k q = runLines s k q := by simp only [runLines, h.writes, h.runOf_eq]

end
end Paced

theorem OnlyHostSide.paced {s t : State} (h : OnlyHostSide s t) : Paced s t := .of_mem h.mem

theorem paced_ctrAdd (s : State) (k code n : Nat) (part : Option Nat) : Paced s (ctrAdd s k code n part) := .of_mem (mem_ctrAdd ..)

theorem paced_memBump (s : State) (t off n : Nat) : Paced s (memBump s t off n) := (onlyHostSide_memBump s t off n).paced

theorem listed_modCtl (s : State) (h : Nat) (g : Ctl → Ctl) (k : Nat) (hk : (alFind s.mem.ctls k).isSome = true) :
    (alFind (modCtl s h g).mem.ctls k).isSome = true := by
  simp only [modCtl, alMod, alFind_alPut]
  split
  · rfl
  · exact hk

theorem paced_modCtl {s : State} {h : Nat} {g : Ctl → Ctl} (hg : (g (ctlOf s h)).unpaced = (ctlOf s h).unpaced) :
    Paced s (modCtl s h g) := by
  refine ⟨rfl, fun k => ?_, listed_modCtl s h g⟩
  rw [ctlOf_modCtl]
  split
  · subst k; exact hg
  · rfl

theorem paced_openRow (s : State) (h : Nat) (p : Place) (part : Nat) : Paced s (openRow s h p part) :=
  .ite (.refl s) (.trans (paced_modCtl rfl) (paced_ctrAdd ..))

theorem paced_chargeRuns (s : State) (h pc part n : Nat) (rt : Bool) : Paced s (chargeRuns s h pc part n rt) :=
  .ite (.refl s) (.ite (paced_modCtl rfl) (paced_modCtl rfl))

theorem rowOpen_congr {c c' : Ctl} (h : c'.rows = c.rows) (p : Place) : rowOpen c' p = rowOpen c p := by rw [rowOpen, h, rowOpen]

/-- The row that is opened is open. -/
theorem rowOpen_openRow (s : State) (h : Nat) (p : Place) (part : Nat) : rowOpen (ctlOf (openRow s h p part) h) p = true := by
  rw [openRow]
  split
  · assumption
  · rw [ctlOf_congr (mem_ctrAdd ..), ctlOf_modCtl_self]
    simp [rowOpen]

/-- Charging a run opens and closes no row. -/
theorem rows_chargeRuns (s : State) (h pc part n : Nat) (rt : Bool) :
    (ctlOf (chargeRuns s h pc part n rt) h).rows = (ctlOf s h).rows := by
  simp only [chargeRuns]
  split
  · rfl
  · split <;> rw [ctlOf_modCtl_self]

/-! ### Clean sectors (R298) -/

/-- No pseudo-channel of a controller has more erased lanes than decoding covers (R303). -/
def Covered (s : State) : Prop := ∀ h p, (erasedOf (ctlOf s h) p).length < 3

theorem Paced.covered {s t : State} (h : Paced s t) (hs : Covered s) : Covered t := fun k p => by
  rw [erasedOf, h.erased]
  exact hs k p

/-- A sector without errors, of a controller whose lanes are covered, leaves at most the record of a poisoned read. -/
theorem onlyHostSide_eccSector_clean {s : State} (hs : Covered s) (pa k : Nat) (scrub : Bool) :
    OnlyHostSide s (eccSector s pa k [] scrub) := by
  simp only [eccSector, eccOutcome_nil]
  split
  · exact .refl s
  next h m _ =>
    split
    · exact onlyHostSide_memLast _ _ _
    · rw [if_neg (Nat.not_le.mpr (hs h (placeOf m).pc))]
      exact .refl s

/-- Every sector that is read has no symbol in error. -/
def CleanRun (ecc : EccIn) : Prop := ∀ l ∈ ecc.errs, l = []

theorem CleanRun.getD_eq {ecc : EccIn} (h : CleanRun ecc) (i : Nat) : ecc.errs.getD i [] = [] := by
  rw [List.getD_eq_getElem?_getD]
  cases hi : ecc.errs[i]? with
  | none => rfl
  | some l => exact h l (List.mem_of_getElem? hi)

theorem onlyHostSide_eccRun_clean {s : State} (hs : Covered s) {ecc : EccIn} (hecc : CleanRun ecc) (pa : Nat) (scrub : Bool) :
    OnlyHostSide s (eccRun s pa ecc scrub) := by
  rw [eccRun]
  refine List.foldlRecOn (motive := OnlyHostSide s) _ _ (.refl s) fun t ht i _ => ht.trans ?_
  rw [hecc.getD_eq]
  exact onlyHostSide_eccSector_clean (ht.paced.covered hs) _ _ _

theorem paced_eccRun_clean {s : State} (hs : Covered s) {ecc : EccIn} (hecc : CleanRun ecc) (pa : Nat) (scrub : Bool) :
    Paced s (eccRun s pa ecc scrub) := (onlyHostSide_eccRun_clean hs hecc pa scrub).paced

end Sys2Proof.Machine
end

section
/-! Reset (R307, R462), and a run that is read (R290, R291, R293, R294). -/

namespace Sys2Proof.Machine

/-- Settles O5: reset lists no byte of either memory and no command. -/
theorem resetMemoryCanonical : Obligations.ResetMemoryCanonical := ⟨⟨rfl, rfl⟩, rfl, fun _ => rfl, fun _ => rfl⟩

/-- The state in which the run of a read has been charged, its row opened, and its sectors decoded. -/
def runRead (s : State) (h : Nat) (m : MemRead) (ecc : EccIn) : State :=
  let p := linePlaceOf s m.pa
  eccRun (chargeRuns (openRow s h p m.part) h p.pc m.part 1 m.rt) (runBase m.pa) ecc false

/-- A read with its line as the memory system `s` holds it for it, when it is of the run. -/
def servedFrom (s : State) (run : Option (Nat × Nat)) (x : MemRead) : MemRead :=
  if inRun s run x then { x with done := true, data := (memLineFor s x.pa x.id).1, poison := (memLineFor s x.pa x.id).2 } else x

section
variable {s : State} (hs : Covered s) {ecc : EccIn} (hecc : CleanRun ecc)
include hs hecc

theorem paced_runRead (h : Nat) (m : MemRead) : Paced s (runRead s h m ecc) :=
  have hbegun := (paced_openRow s h (linePlaceOf s m.pa) m.part).trans (paced_chargeRuns _ h _ m.part 1 m.rt)
  hbegun.trans (paced_eccRun_clean (hbegun.covered hs) hecc _ _)

theorem rowOpen_runRead (h : Nat) (m : MemRead) : rowOpen (ctlOf (runRead s h m ecc) h) (linePlaceOf s m.pa) = true := by
  have hbegun := (paced_openRow s h (linePlaceOf s m.pa) m.part).trans (paced_chargeRuns _ h (linePlaceOf s m.pa).pc m.part 1 m.rt)
  rw [runRead, ctlOf_congr (onlyHostSide_eccRun_clean (hbegun.covered hs) hecc _ _).mem, rowOpen_congr (rows_chargeRuns ..)]
  exact rowOpen_openRow _ _ _ _

omit hs hecc in
/-- Bookkeeping changes nothing of what a read is served with. -/
theorem servedFrom_paced {t : State} (h : Paced s t) (run : Option (Nat × Nat)) : servedFrom t run = servedFrom s run := by
  funext x
  rw [servedFrom, servedFrom, h.inRun_eq, h.memLineFor_eq]

end

/-- The state in which a run read has served the reads of its run and counted whether it passed older ones. -/
def runServed (s : State) (h : Nat) (m : MemRead) (pass : Bool) (ecc : EccIn) : State :=
  let pc := (linePlaceOf s m.pa).pc
  modCtl (runRead s h m ecc) h (fun c => { c with
    reads := c.reads.map (servedFrom (runRead s h m ecc) (runOf s m.pa))
    passes := alPut c.passes pc (if pass then alGet 0 c.passes pc + 1 else 0) })

/-- The counters that follow are no part of the memory system. -/
theorem mem_performRead (s : State) (h : Nat) (m : MemRead) (pass : Bool) (ecc : EccIn) :
    (performRead s h m pass ecc).mem = (runServed s h m pass ecc).mem := by
  cases pass
  · change (ctrAdd (ctrAdd (memBump (runServed s h m false ecc) _ _ _) _ _ _ _) _ _ _ _).mem = _
    rw [mem_ctrAdd, mem_ctrAdd, mem_memBump]
  · change (ctrAdd (ctrAdd (ctrAdd (memBump (runServed s h m true ecc) _ _ _) _ _ _ _) _ _ _ _) _ _ _ _).mem = _
    rw [mem_ctrAdd, mem_ctrAdd, mem_ctrAdd, mem_memBump]

theorem exec_mcRunRead {ctl id : Nat} {ecc : EccIn} {s : State} {m : MemRead} {pass : Bool}
    (hm : (readsLeft (ctlOf s ctl)).find? (fun m => m.id == id) = some m) (hserves : ctlServes (ctlOf s ctl) = true)
    (hturn : readTurn s ctl m = some pass) : exec (.mcRunRead ctl id ecc) s = completes s (performRead s ctl m pass ecc) := by
  refine congrArg (completes s) ?_
  simp only [hm, hserves, hturn]

/-- What a run read of clean sectors leaves. -/
theorem performRead_spec {s : State} (hs : Covered s) {ecc : EccIn} (hecc : CleanRun ecc) (h : Nat) (m : MemRead) (pass : Bool) :
    (performRead s h m pass ecc).mem.mem = s.mem.mem ∧
      (ctlOf (performRead s h m pass ecc) h).writes = (ctlOf s h).writes ∧
      (ctlOf (performRead s h m pass ecc) h).reads = (ctlOf s h).reads.map (servedFrom s (runOf s m.pa)) ∧
      rowOpen (ctlOf (performRead s h m pass ecc) h) (linePlaceOf s m.pa) = true := by
  have hrun := paced_runRead hs hecc h m
  have hopen := rowOpen_runRead hs hecc h m
  rw [rowOpen] at hopen ⊢
  rw [ctlOf_congr (mem_performRead ..), mem_performRead, runServed, ctlOf_modCtl_self, servedFrom_paced hrun, modCtl_mem]
  dsimp only
  exact ⟨hrun.cells, hrun.writes h, congrArg (List.map _) (hrun.reads h), hopen⟩

end Sys2Proof.Machine
end

section
/-! A run that is written (R292, R293): performing the queued writes of a line changes what no line of memory holds. -/

namespace Sys2Proof.Machine

/-! ### The bytes of a line -/

theorem lineOf_congr {f g : Nat → Byte} (h : ∀ k < 128, f k = g k) : lineOf f = lineOf g :=
  congrArg (fun bs : List Byte => BitVec.ofNat 1024 (leNat bs)) (List.map_congr_left fun k hk => h k (List.mem_range.mp hk))

/-- A line is the line of its bytes. -/
theorem lineOf_lineByte (l : Line) : lineOf (lineByte l) = l := by
  have hbytes : (List.range 128).map (lineByte l) = leBytes 128 l.toNat := by
    simpa [lineSlice] using (lineSlice_eq_map l 0 128).symm
  have hlt : l.toNat < 256 ^ 128 := lt_of_lt_of_eq l.isLt (Nat.pow_mul 2 8 128)
  rw [lineOf, hbytes, leNat_leBytes, Nat.mod_eq_of_lt hlt, BitVec.ofNat_toNat, BitVec.setWidth_eq]

theorem sets_storeLine (ms : MemSys) (pa : Nat) (l : Line) (p : BitVec 2) : (storeLine ms pa l p).sets = ms.sets := by
  simp only [storeLine]

theorem ctls_storeLine (ms : MemSys) (pa : Nat) (l : Line) (p : BitVec 2) : (storeLine ms pa l p).ctls = ms.ctls := by
  simp only [storeLine]

theorem windows_storeLine (ms : MemSys) (pa : Nat) (l : Line) (p : BitVec 2) : (storeLine ms pa l p).windows = ms.windows := by
  simp only [storeLine]

theorem wf_storeLine {ms : MemSys} (hwf : cellsWf ms.mem = true) (pa : Nat) (l : Line) (p : BitVec 2) :
    cellsWf (storeLine ms pa l p).mem = true := by
  simp only [storeLine]
  exact cellPuts_wf _ _ _ hwf

/-- Bytes of memory where a line has been stored. -/
theorem cellGet_storeLine {ms : MemSys} (hwf : cellsWf ms.mem = true) (pa : Nat) (l : Line) (p : BitVec 2) (j : Nat) :
    cellGet (storeLine ms pa l p).mem j = if pa ≤ j ∧ j < pa + 128 then lineByte l (j - pa) else cellGet ms.mem j := by
  simp only [storeLine, cellGet_cellPuts _ _ _ _ hwf, lineSlice_eq_map, List.length_map, List.length_range]
  split
  next h => simp [show j - pa < 128 by omega]
  · rfl

/-- A line without a queued write at its home is what memory holds. -/
theorem memLine_fst_of_home {s : State} {pa h x : Nat} (hnone : ∀ w ∈ (ctlOf s h).writes, w.pa ≠ pa)
    (hh : homeOf s pa = some (h, x)) : (memLine s pa).1 = lineOf (fun k => cellGet s.mem.mem (pa + k)) := by
  simp only [memLine, hh]
  rw [List.filter_eq_nil_iff.mpr fun w hw => by simpa using hnone w hw, List.foldl_nil]

/-! ### The queued writes of a line -/

theorem mem_flushWrites {s : State} {pa h x : Nat} (hh : homeOf s pa = some (h, x)) : (flushWrites s pa).mem =
    storeLine (modCtl s h (fun c => { c with writes := c.writes.filter (fun w => w.pa != pa) })).mem pa
      (memLine s pa).1 (memLine s pa).2 := by
  simp only [flushWrites, hh]

theorem flushWrites_of_no_home {s : State} {pa : Nat} (hh : homeOf s pa = none) : flushWrites s pa = s := by
  simp only [flushWrites, hh]

theorem sets_flushWrites (s : State) (pa : Nat) : (flushWrites s pa).mem.sets = s.mem.sets := by
  cases hh : homeOf s pa with
  | none => rw [flushWrites_of_no_home hh]
  | some y => rw [mem_flushWrites hh, sets_storeLine, modCtl_mem]

theorem homeOf_of_sets {s t : State} (h : t.mem.sets = s.mem.sets) (pa : Nat) : homeOf t pa = homeOf s pa := by
  simp only [homeOf, setOf, h]

theorem cellsWf_flushWrites {s : State} (hwf : cellsWf s.mem.mem = true) (pa : Nat) : cellsWf (flushWrites s pa).mem.mem = true := by
  cases hh : homeOf s pa with
  | none => rwa [flushWrites_of_no_home hh]
  | some y =>
    rw [mem_flushWrites hh, modCtl_mem]
    exact wf_storeLine (by exact hwf) _ _ _

/-- A byte of memory once the queued writes of a line have been performed. -/
theorem cellGet_flushWrites {s : State} (hwf : cellsWf s.mem.mem = true) {pa h x : Nat} (hh : homeOf s pa = some (h, x)) (j : Nat) :
    cellGet (flushWrites s pa).mem.mem j =
      if pa ≤ j ∧ j < pa + 128 then lineByte (memLine s pa).1 (j - pa) else cellGet s.mem.mem j := by
  rw [mem_flushWrites hh, modCtl_mem, cellGet_storeLine (by exact hwf)]

/-- The writes of the line leave the queue of its home, and nothing else of a controller changes. -/
theorem ctlOf_flushWrites {s : State} {pa h x : Nat} (hh : homeOf s pa = some (h, x)) (k : Nat) : ctlOf (flushWrites s pa) k =
    if k = h then { ctlOf s h with writes := (ctlOf s h).writes.filter (fun w => w.pa != pa) } else ctlOf s k := by
  rw [ctlOf, mem_flushWrites hh, ctls_storeLine, ← ctlOf, ctlOf_modCtl]

theorem writes_flushWrites {s : State} {pa h x : Nat} (hh : homeOf s pa = some (h, x)) (k : Nat) :
    (ctlOf (flushWrites s pa) k).writes =
      if k = h then (ctlOf s h).writes.filter (fun w => w.pa != pa) else (ctlOf s k).writes := by
  rw [ctlOf_flushWrites hh]
  split <;> rfl

theorem mem_writes_flushWrites {s : State} {pa k : Nat} {w : MemWrite} (hw : w ∈ (ctlOf (flushWrites s pa) k).writes) :
    w ∈ (ctlOf s k).writes := by
  cases hh : homeOf s pa with
  | none => rwa [flushWrites_of_no_home hh] at hw
  | some y =>
    rw [writes_flushWrites hh] at hw
    split at hw
    · subst k
      exact List.mem_of_mem_filter hw
    · exact hw

theorem not_queued_flushWrites {s : State} {pa h x : Nat} (hh : homeOf s pa = some (h, x)) :
    ∀ w ∈ (ctlOf (flushWrites s pa) h).writes, w.pa ≠ pa := fun w hw => by
  rw [writes_flushWrites hh, if_pos rfl] at hw
  simpa using (List.mem_filter.mp hw).2

/-- Another line's queued writes at its home are as before. -/
theorem filter_writes_flushWrites {s : State} {pa pa' h x : Nat} (hh : homeOf s pa = some (h, x)) (hne : pa' ≠ pa) (k : Nat) :
    (ctlOf (flushWrites s pa) k).writes.filter (fun w => w.pa == pa') = (ctlOf s k).writes.filter (fun w => w.pa == pa') := by
  rw [writes_flushWrites hh]
  split
  · subst k
    rw [List.filter_filter]
    refine List.filter_congr fun w _ => ?_
    by_cases hw : w.pa = pa'
    · simp [hw, hne]
    · simp [hw]
  · rfl

/-- Performing the queued writes of one line leaves what every line holds (R293). -/
theorem memLine_flushWrites {s : State} (hwf : cellsWf s.mem.mem = true) {pa pa' : Nat} (hpa : pa % 128 = 0) (hpa' : pa' % 128 = 0) :
    (memLine (flushWrites s pa) pa').1 = (memLine s pa').1 := by
  cases hh : homeOf s pa with
  | none => rw [flushWrites_of_no_home hh]
  | some y =>
    obtain ⟨h, x⟩ := y
    have hhome (a : Nat) : homeOf (flushWrites s pa) a = homeOf s a := homeOf_of_sets (sets_flushWrites s pa) a
    have hcell := cellGet_flushWrites hwf hh
    by_cases hne : pa' = pa
    · subst hne
      have hbytes : lineOf (fun k => cellGet (flushWrites s pa').mem.mem (pa' + k)) = lineOf (lineByte (memLine s pa').1) :=
        lineOf_congr fun k hk => by rw [hcell, if_pos (by omega), Nat.add_sub_cancel_left]
      rw [memLine_fst_of_home (not_queued_flushWrites hh) ((hhome pa').trans hh), hbytes, lineOf_lineByte]
    · have hbytes : lineOf (fun k => cellGet (flushWrites s pa).mem.mem (pa' + k)) = lineOf (fun k => cellGet s.mem.mem (pa' + k)) :=
        lineOf_congr fun k hk => by rw [hcell, if_neg (by omega)]
      simp only [memLine, hhome, hbytes, filter_writes_flushWrites hh hne]
      split
      · rfl
      · exact foldl_applyWrite_fst _ _ _ rfl

/-! ### The lines of a run -/

/-- The queued writes of some lines are performed, one line after the other. -/
def flushLines (s : State) (ls : List (Nat × LineMask)) : State := ls.foldl (fun s l => flushWrites s l.1) s

/-- `t` comes from `s` by performing queued writes of lines. -/
structure Performs (s t : State) : Prop where
  sets : t.mem.sets = s.mem.sets
  wf : cellsWf t.mem.mem = true
  queued : ∀ k, ∀ w ∈ (ctlOf t k).writes, w ∈ (ctlOf s k).writes
  lines : ∀ pa, pa % 128 = 0 → (memLine t pa).1 = (memLine s pa).1

theorem performs_flushLines {s : State} (hwf : cellsWf s.mem.mem = true) {ls : List (Nat × LineMask)}
    (hls : ∀ l ∈ ls, l.1 % 128 = 0) : Performs s (flushLines s ls) := by
  refine List.foldlRecOn (motive := Performs s) ls _ ⟨rfl, hwf, fun _ _ => id, fun _ _ => rfl⟩ fun t ht l hl => ?_
  exact ⟨(sets_flushWrites t l.1).trans ht.sets, cellsWf_flushWrites ht.wf l.1, fun k w hw => ht.queued k w (mem_writes_flushWrites hw),
    fun pa hpa => (memLine_flushWrites ht.wf (hls l hl) hpa).trans (ht.lines pa hpa)⟩

/-- Of the lines that were performed no write is left at their home. -/
theorem not_queued_flushLines {h : Nat} {ls : List (Nat × LineMask)} {s : State} (hwf : cellsWf s.mem.mem = true)
    (hls : ∀ l ∈ ls, l.1 % 128 = 0) (hhome : ∀ l ∈ ls, ∃ x, homeOf s l.1 = some (h, x)) :
    ∀ l ∈ ls, ∀ w ∈ (ctlOf (flushLines s ls) h).writes, w.pa ≠ l.1 := by
  induction ls generalizing s with
  | nil => exact fun l hl => nomatch hl
  | cons a r ih =>
    intro l hl w hw
    have hr : ∀ l ∈ r, l.1 % 128 = 0 := fun l hl => hls l (List.mem_cons_of_mem _ hl)
    have hwf' := cellsWf_flushWrites hwf a.1
    rcases List.mem_cons.mp hl with rfl | hl
    · obtain ⟨x, hx⟩ := hhome l List.mem_cons_self
      exact not_queued_flushWrites hx w ((performs_flushLines hwf' hr).queued h w hw)
    · refine ih hwf' hr (fun l hl => ?_) l hl w hw
      obtain ⟨x, hx⟩ := hhome l (List.mem_cons_of_mem _ hl)
      exact ⟨x, (homeOf_of_sets (sets_flushWrites s a.1) l.1).trans hx⟩

/-- A line of a run is one that a write queued for the run is for. -/
theorem exists_write_of_mem_runLines {s : State} {h q : Nat} {l : Nat × LineMask} (hl : l ∈ runLines s h q) :
    ∃ w ∈ (ctlOf s h).writes, runOf s w.pa = some (h, q) ∧ w.pa = l.1 := by
  obtain ⟨pa, hpa, rfl⟩ := List.mem_map.mp hl
  obtain ⟨w, hw, rfl⟩ := List.mem_map.mp (List.mem_dedup.mp hpa)
  obtain ⟨hmem, hrun⟩ := List.mem_filter.mp hw
  exact ⟨w, hmem, by simpa using hrun, rfl⟩

theorem home_of_runOf {s : State} {pa h q : Nat} (hr : runOf s pa = some (h, q)) : ∃ x, homeOf s pa = some (h, x) := by
  obtain ⟨⟨k, x⟩, hx, heq⟩ := Option.map_eq_some_iff.mp hr
  obtain ⟨rfl, -⟩ := Prod.mk.inj heq
  exact ⟨x, hx⟩

/-! ### The run -/

/-- The state in which a write run has been charged, its row opened, its sectors read where the run is a read-modify-write, and the
run counted. -/
def writeBegun (s : State) (h q : Nat) (ecc : EccIn) : State :=
  let part := writePart s h q
  let t := ((runLines s h q).head?.map (fun l => tenantOf s l.1)).getD pf
  let s1 := chargeRuns (openRow s h (placeOf (2 * q)) part) h (placeOf (2 * q)).pc part (writeSlots s h q) (writeRt s h q)
  let s2 := match (runLines s h q).find? (fun l => partSector l.2) with
    | some l => ctrAdd (memBump (eccRun s1 (runBase l.1) ecc false) t 0x50210 1) (blkKey 2 h) 0x04 1 (some part)
    | none => s1
  ctrAdd (memBump s2 t 0x50208 1) (blkKey 2 h) 0x03 1 (some part)

theorem performWrite_eq (s : State) (h q : Nat) (ecc : EccIn) :
    performWrite s h q ecc = flushLines (writeBegun s h q ecc) (runLines (writeBegun s h q ecc) h q) := rfl

/-- What begins a write run is bookkeeping, with at most one run decoded between. -/
theorem writeBegun_spec (s : State) (h q : Nat) (ecc : EccIn) :
    ∃ s1, Paced s s1 ∧ (Paced s1 (writeBegun s h q ecc) ∨ ∃ pa, Paced (eccRun s1 pa ecc false) (writeBegun s h q ecc)) := by
  refine ⟨_, (paced_openRow s h (placeOf (2 * q)) (writePart s h q)).trans
    (paced_chargeRuns _ h (placeOf (2 * q)).pc (writePart s h q) (writeSlots s h q) (writeRt s h q)), ?_⟩
  simp only [writeBegun]
  split
  · exact .inr ⟨_, (paced_memBump ..).trans <| (paced_ctrAdd ..).trans <| (paced_memBump ..).trans (paced_ctrAdd ..)⟩
  · exact .inl ((paced_memBump ..).trans (paced_ctrAdd ..))

theorem paced_writeBegun {s : State} (hs : Covered s) {ecc : EccIn} (hecc : CleanRun ecc) (h q : Nat) :
    Paced s (writeBegun s h q ecc) := by
  obtain ⟨s1, hs1, hdirect | ⟨pa, hread⟩⟩ := writeBegun_spec s h q ecc
  · exact hs1.trans hdirect
  · exact (hs1.trans (paced_eccRun_clean (hs1.covered hs) hecc pa false)).trans hread

/-- What a write run of clean sectors leaves of each of its lines (R292, R293). -/
theorem performWrite_spec {s : State} (hs : Covered s) (hwf : cellsWf s.mem.mem = true) {ecc : EccIn} (hecc : CleanRun ecc) {h q : Nat}
    (haligned : ∀ w ∈ (ctlOf s h).writes, w.pa % 128 = 0) {l : Nat × LineMask} (hl : l ∈ runLines s h q) :
    let t := performWrite s h q ecc
    (∀ w ∈ (ctlOf t h).writes, w.pa ≠ l.1) ∧ (memLine t l.1).1 = (memLine s l.1).1 ∧
      lineSlice (memLine s l.1).1 0 128 = (List.range 128).map (fun i => memByte t (l.1 + i)) := by
  have hbegun := paced_writeBegun hs hecc h q
  rw [performWrite_eq, hbegun.runLines_eq]
  have hrun (l : Nat × LineMask) (hl : l ∈ runLines s h q) :
      l.1 % 128 = 0 ∧ ∃ x, homeOf (writeBegun s h q ecc) l.1 = some (h, x) := by
    obtain ⟨w, hw, hof, hpa⟩ := exists_write_of_mem_runLines hl
    rw [← hpa, hbegun.homeOf_eq]
    exact ⟨haligned w hw, home_of_runOf hof⟩
  have hwf1 : cellsWf (writeBegun s h q ecc).mem.mem = true := hbegun.cells ▸ hwf
  have hperf := performs_flushLines hwf1 fun l hl => (hrun l hl).1
  have hgone := not_queued_flushLines hwf1 (fun l hl => (hrun l hl).1) (fun l hl => (hrun l hl).2) l hl
  have hline := (hperf.lines l.1 (hrun l hl).1).trans (congrArg Prod.fst (hbegun.memLine_eq l.1))
  refine ⟨hgone, hline, ?_⟩
  obtain ⟨x, hx⟩ := (hrun l hl).2
  have hstored := memLine_fst_of_home hgone ((homeOf_of_sets hperf.sets l.1).trans hx)
  rw [← hline, hstored, lineSlice_eq_map]
  refine List.map_congr_left fun i hi => ?_
  rw [Nat.zero_add, lineByte_lineOf _ (List.mem_range.mp hi), memByte]

/-! ### The batch -/

theorem writeBatch_one {s : State} {h q : Nat} (hq : writeReady s h q = true) (qs : List Nat) (ecc : EccIn) :
    writeBatch h (q :: qs) 1 [ecc] s = (1, performWrite s h q ecc) := by
  have hrest (s : State) : writeBatch h qs 0 [] s = (0, s) := by cases qs <;> rfl
  simp only [writeBatch, hq, if_true, List.headD_cons, List.tail_cons, hrest]

/-- A batch of one run: the first queued, where a read needs it, or where nothing is held over a window (R294, R407). -/
theorem exec_mcRunWrite_one {ctl q : Nat} {rest : List Nat} {ecc : EccIn} {s : State} (hruns : writeRuns s ctl = q :: rest)
    (hserves : ctlServes (ctlOf s ctl) = true)
    (hneed : runNeeded s ctl q = true ∨ (s.sched.strict = true ∧ ∀ x ∈ rest, runNeeded s ctl x = false))
    (hready : writeReady s ctl q = true) :
    exec (.mcRunWrite ctl 1 [ecc]) s = completes s (performWrite s ctl q ecc) := by
  refine congrArg (completes s) ?_
  simp only [hruns]
  by_cases hq : runNeeded s ctl q = true
  · simp only [List.filter_cons, hq, hready, Bool.and_self, if_true, hserves, List.isEmpty_cons, Bool.not_true, Bool.and_false, Bool.false_and,
      Bool.or_self, Bool.false_eq_true, if_false, List.cons_append, writeBatch_one hready]
  · obtain ⟨hstrict, hrest⟩ := hneed.resolve_left hq
    have hnone : (q :: rest).filter (fun q => runNeeded s ctl q && writeReady s ctl q) = [] := by
      refine List.filter_eq_nil_iff.mpr fun x hx => ?_
      rcases List.mem_cons.mp hx with rfl | hx
      · simp [hq]
      · simp [hrest x hx]
    simp [hnone, hserves, hstrict, writeBatch_one hready]

/-- Settles O42: a run read is `performRead_spec`, a run write `performWrite_spec`. -/
theorem controllersPerformRuns : Obligations.ControllersPerformRuns := by
  refine ⟨fun ctl id ecc s m pass hm hserves hturn hecc hs => ?_,
    fun ctl q rest ecc s hruns hserves hneed hready hecc hs haligned hok => ?_⟩
  · obtain ⟨hcells, hwrites, hreads, hopen⟩ := performRead_spec hs hecc ctl m pass
    obtain ⟨t, hstep, hmem⟩ := completes_mem s (performRead s ctl m pass ecc)
    rw [← ctlOf_congr hmem] at hwrites hreads hopen
    rw [← hmem] at hcells
    refine ⟨t, (exec_mcRunRead hm hserves hturn).trans hstep, hcells, hwrites, hreads.trans (List.map_congr_left fun x _ => ?_), hopen⟩
    simp [servedFrom, inRun]
  · obtain ⟨t, hstep, hmem⟩ := completes_mem s (performWrite s ctl q ecc)
    refine ⟨t, (exec_mcRunWrite_one hruns hserves hneed hready).trans hstep, fun l hl => ?_⟩
    simp only [ctlOf_congr hmem, memLine_congr hmem, memByte, hmem]
    exact performWrite_spec hs hok.1 hecc haligned hl

end Sys2Proof.Machine
end

section
/-! The windows of the time-partitioned form (R407): what the writes that are performed as a window ends leave of the windows of
every controller, whatever its sectors hold. -/

namespace Sys2Proof.Machine

/-! ### Marks on memory (R300, R304, R305) -/

/-- A memory system without the marks of errors: poisoned sectors, retired granules, and the page entries that show them. -/
def MemSys.unmarked (m : MemSys) : MemSys := { m with poisoned := [], retired := [], pages := [] }

/-- `t` has the memory system of `s` but for the marks of errors. -/
def Marked (s t : State) : Prop := t.mem.unmarked = s.mem.unmarked

namespace Marked

theorem refl (s : State) : Marked s s := rfl

theorem trans {s t u : State} (h : Marked s t) (h' : Marked t u) : Marked s u := Eq.trans h' h

/-- One of two ways on. -/
theorem ite {c : Prop} [Decidable c] {s t u : State} (ht : Marked s t) (hu : Marked s u) : Marked s (if c then t else u) := by
  split
  · exact ht
  · exact hu

theorem foldl {α : Type} {f : State → α → State} (hf : ∀ s a, Marked s (f s a)) (l : List α) (s : State) :
    Marked s (l.foldl f s) := foldl_related refl trans hf l s

theorem ctls {s t : State} (h : Marked s t) : t.mem.ctls = s.mem.ctls := (congrArg MemSys.ctls h :)
theorem windows {s t : State} (h : Marked s t) : t.mem.windows = s.mem.windows := (congrArg MemSys.windows h :)

end Marked

theorem OnlyHostSide.marked {s t : State} (h : OnlyHostSide s t) : Marked s t := congrArg MemSys.unmarked h.mem

theorem marked_recordFault (s : State) (r : Resource) (uc : Bool) : Marked s (recordFault s r uc) :=
  .ite (onlyHostSide_raisePfSf _ _ _ _).marked rfl

theorem marked_retired (s : State) (x : AL GranFault) : Marked s { s with mem.retired := x } := rfl

theorem marked_retireNow (s : State) (g ctl : Nat) : Marked s (retireNow s g ctl) := by
  simp only [retireNow]
  exact (Marked.ite (marked_retired _ _) ((marked_retired _ _).trans (marked_recordFault _ _ _))).trans
    (onlyHostSide_raiseEv _ _ _ _ _).marked

theorem marked_markPending (s : State) (g : Nat) : Marked s (markPending s g) := rfl

theorem marked_retireGranule (s : State) (g ctl : Nat) : Marked s (retireGranule s g ctl) := by
  simp only [retireGranule]
  refine .ite (.refl s) ?_
  split
  · exact marked_retireNow _ _ _
  · have hraised := ((marked_retired s (alPut s.mem.retired g { pending := true, ctl := ctl })).trans (marked_markPending _ g)).trans
      (onlyHostSide_raiseEv _ pf gMEM 3 none).marked
    exact .ite hraised (hraised.trans (onlyHostSide_raiseEv _ _ _ _ _).marked)

theorem marked_retireAll (s : State) (h : Nat) (gs : List Nat) : Marked s (retireAll s h gs) :=
  .ite (onlyHostSide_raiseEv _ _ _ _ _).marked (.foldl (fun _ _ => marked_retireGranule _ _ _) _ _)

/-- A row that becomes a lasting fault loses its granules (Table 17.3). -/
theorem marked_lastingFault_row (s : State) {r : Resource} (hrow : r.kind = 4) (uc : Bool) : Marked s (lastingFault s r uc) := by
  have honline (s : State) : Marked s (onlineAction s r) := by
    simp only [onlineAction, hrow]
    exact marked_retireAll _ _ _
  have hraised (s : State) := ((onlyHostSide_bump s pf 0x90130 1).trans (onlyHostSide_bump _ serviceFn 0x90130 1)).trans
    (onlyHostSide_raisePfSf _ gRAS 2 none)
  exact .ite (.ite (honline _) (.refl s)) (((marked_recordFault s r uc).trans (hraised _).marked).trans (honline _))

theorem marked_sectorPoisoned (s : State) (h : Nat) (p : Place) (t sec at64 : Nat) (scrub : Bool) :
    Marked s (sectorPoisoned s h p t sec at64 scrub) := by
  have hpoisoned : Marked s { s with mem.poisoned := s.mem.poisoned ++ [at64] } := rfl
  have hraised (s : State) (f : Nat) (last : Option Nat) := (onlyHostSide_bump s f 0x90128 1).trans (onlyHostSide_raiseEv _ f gRAS 1 last)
  exact (hpoisoned.trans ((onlyHostSide_memBump _ _ _ _).trans (onlyHostSide_memRaise _ _ _ _)).marked).trans
    ((Marked.foldl (fun s f => (hraised s f _).marked) _ _).trans (marked_lastingFault_row _ rfl _))

theorem marked_eccSector_nil (s : State) (pa k : Nat) (scrub : Bool) : Marked s (eccSector s pa k [] scrub) := by
  simp only [eccSector, eccOutcome_nil]
  split
  · exact .refl s
  next h m _ =>
    refine .ite (onlyHostSide_memLast _ _ _).marked ?_
    by_cases her : 3 ≤ (erasedOf (ctlOf s h) (placeOf m).pc).length
    · simp only [if_pos her]
      exact marked_sectorPoisoned _ _ _ _ _ _ _
    · simp only [if_neg her]
      exact .refl s

theorem marked_eccRun_nil (s : State) (pa : Nat) (scrub : Bool) : Marked s (eccRun s pa {} scrub) :=
  .foldl (fun s _ => marked_eccSector_nil s _ _ _) _ s

/-! ### Windows -/

/-- `t` counts the windows that `s` counts, and every controller that `s` lists is listed and in the same window. -/
structure KeepsWindows (s t : State) : Prop where
  windows : t.mem.windows = s.mem.windows
  window : ∀ k c, alFind s.mem.ctls k = some c → ∃ c', alFind t.mem.ctls k = some c' ∧ c'.window = c.window

namespace KeepsWindows

theorem of_ctls {s t : State} (hw : t.mem.windows = s.mem.windows) (hc : t.mem.ctls = s.mem.ctls) : KeepsWindows s t :=
  ⟨hw, fun _ c h => ⟨c, by rw [hc, h], rfl⟩⟩

theorem refl (s : State) : KeepsWindows s s := .of_ctls rfl rfl

theorem trans {s t u : State} (h : KeepsWindows s t) (h' : KeepsWindows t u) : KeepsWindows s u :=
  ⟨h'.windows.trans h.windows, fun k c hc => by
    obtain ⟨c', hc', hw'⟩ := h.window k c hc
    obtain ⟨c'', hc'', hw''⟩ := h'.window k c' hc'
    exact ⟨c'', hc'', hw''.trans hw'⟩⟩

theorem foldl {α : Type} {f : State → α → State} (hf : ∀ s a, KeepsWindows s (f s a)) (l : List α) (s : State) :
    KeepsWindows s (l.foldl f s) := foldl_related refl trans hf l s

end KeepsWindows

theorem ctlOf_of_alFind {s : State} {k : Nat} {c : Ctl} (h : alFind s.mem.ctls k = some c) : ctlOf s k = c :=
  alGet_of_alFind _ _ _ _ h

theorem Marked.keepsWindows {s t : State} (h : Marked s t) : KeepsWindows s t := .of_ctls h.windows h.ctls

theorem Paced.keepsWindows {s t : State} (h : Paced s t) : KeepsWindows s t := by
  refine ⟨h.windows, fun k c hc => ?_⟩
  obtain ⟨c', hc'⟩ := Option.isSome_iff_exists.mp (h.listed k (by rw [hc]; rfl))
  have hw := h.window k
  rw [ctlOf_of_alFind hc, ctlOf_of_alFind hc'] at hw
  exact ⟨c', hc', hw⟩

theorem keepsWindows_modCtl {s : State} {h : Nat} {g : Ctl → Ctl} (hg : ∀ c, (g c).window = c.window) : KeepsWindows s (modCtl s h g) := by
  refine ⟨rfl, fun k c hc => ?_⟩
  by_cases hk : k = h
  · subst hk
    refine ⟨g (ctlOf s k), alFind_alPut_self _ _ _, ?_⟩
    rw [hg, ctlOf_of_alFind hc]
  · exact ⟨c, (alFind_alPut_other _ _ _ _ hk).trans hc, rfl⟩

theorem keepsWindows_flushWrites (s : State) (pa : Nat) : KeepsWindows s (flushWrites s pa) := by
  cases hh : homeOf s pa with
  | none => rw [flushWrites_of_no_home hh]; exact .refl s
  | some y =>
    refine (keepsWindows_modCtl (h := y.1) (g := fun c => { c with writes := c.writes.filter (fun w => w.pa != pa) }) fun _ => rfl).trans
      (.of_ctls ?_ ?_)
    · rw [mem_flushWrites hh, windows_storeLine]
    · rw [mem_flushWrites hh, ctls_storeLine]

theorem keepsWindows_writeBegun (s : State) (h q : Nat) : KeepsWindows s (writeBegun s h q {}) := by
  obtain ⟨s1, hs1, hdirect | ⟨pa, hread⟩⟩ := writeBegun_spec s h q {}
  · exact (hs1.trans hdirect).keepsWindows
  · exact (hs1.keepsWindows.trans (marked_eccRun_nil s1 pa false).keepsWindows).trans hread.keepsWindows

theorem keepsWindows_performWrite (s : State) (h q : Nat) : KeepsWindows s (performWrite s h q {}) := by
  rw [performWrite_eq]
  exact (keepsWindows_writeBegun s h q).trans (.foldl (fun s _ => keepsWindows_flushWrites s _) _ _)

theorem keepsWindows_writeBatch (h : Nat) (qs : List Nat) (n : Nat) (s : State) : KeepsWindows s (writeBatch h qs n [] s).2 := by
  induction qs generalizing n s with
  | nil => exact .refl s
  | cons q qs ih =>
    cases n with
    | zero => exact .refl s
    | succ n =>
      simp only [writeBatch]
      split
      · exact (keepsWindows_performWrite s h q).trans (ih n _)
      · exact ih (n + 1) s

theorem keepsWindows_endWindow (s : State) (h : Nat) : KeepsWindows s (endWindow s h) := by
  rw [endWindow]
  split
  · exact keepsWindows_writeBatch h _ _ s
  · exact .refl s

/-- A window's end performs nothing at a controller with no queued write. -/
theorem endWindow_of_no_writes {s : State} {h : Nat} (hw : (ctlOf s h).writes = []) : endWindow s h = s := by
  have hruns : writeRuns s h = [] := by simp [writeRuns, hw]
  rw [endWindow, hruns]
  split <;> rfl

theorem ctlOf_writes_of_all {s : State} (hall : ∀ e ∈ s.mem.ctls, e.2.writes = []) (h : Nat) : (ctlOf s h).writes = [] := by
  rw [ctlOf, alGet]
  cases hc : alFind s.mem.ctls h with
  | none => rfl
  | some c => exact hall (h, c) (mem_of_alFind hc)

/-- The state in which every controller has ended its window. -/
def windowsEnded (s : State) : State := (s.mem.ctls.map (·.1)).foldl endWindow s

theorem keepsWindows_windowsEnded (s : State) : KeepsWindows s (windowsEnded s) := .foldl keepsWindows_endWindow _ s

theorem windowsEnded_of_no_writes {s : State} (hall : ∀ e ∈ s.mem.ctls, e.2.writes = []) : windowsEnded s = s :=
  List.foldl_fixed' (fun h => endWindow_of_no_writes (ctlOf_writes_of_all hall h)) _

/-- The next window has begun at every controller. -/
def windowBegun (s : State) : State :=
  { s with mem.windows := s.mem.windows + 1
           mem.ctls := alMap s.mem.ctls (fun _ c => { c with window := (c.window + 1) % 16, windowRuns := [] }) }

theorem ctlOf_windowBegun {s : State} {h : Nat} {c : Ctl} (hc : alFind s.mem.ctls h = some c) :
    ctlOf (windowBegun s) h = { c with window := (c.window + 1) % 16, windowRuns := [] } :=
  ctlOf_of_alFind (by rw [windowBegun, alFind_alMap, hc, Option.map_some])

/-- A window of the time-partitioned form follows the one before (R407). -/
theorem memoryWindowBoundary_completes {h : Nat} {s : State} {c : Ctl} (hstrict : s.sched.strict = true)
    (htime : 1200 * (s.mem.windows + 1) ≤ rootCycles s) (hc : alFind s.mem.ctls h = some c) :
    ∃ t, exec .memoryWindowBoundary s = .next t ∧ t.mem.windows = s.mem.windows + 1 ∧
      (ctlOf t h).window = (c.window + 1) % 16 ∧ (ctlOf t h).windowRuns = [] ∧
      ((∀ e ∈ s.mem.ctls, e.2.writes = []) →
        t.mem.mem = s.mem.mem ∧ ctlOf t h = { c with window := (c.window + 1) % 16, windowRuns := [] }) := by
  have hexec : exec .memoryWindowBoundary s = completes s (windowBegun (windowsEnded s)) := by
    refine congrArg (completes s) ?_
    simp only [hstrict, htime, decide_true, Bool.and_self, if_true]
    rfl
  obtain ⟨t, hstep, hmem⟩ := completes_mem s (windowBegun (windowsEnded s))
  have hkept := keepsWindows_windowsEnded s
  obtain ⟨c', hc', hwindow⟩ := hkept.window h c hc
  have hctl := (ctlOf_congr hmem h).trans (ctlOf_windowBegun hc')
  refine ⟨t, hexec.trans hstep, ?_, ?_, ?_, fun hall => ?_⟩
  · rw [hmem, windowBegun, hkept.windows]
  · rw [hctl, hwindow]
  · rw [hctl]
  · rw [windowsEnded_of_no_writes hall] at hmem
    exact ⟨by rw [hmem, windowBegun], (ctlOf_congr hmem h).trans (ctlOf_windowBegun hc)⟩

end Sys2Proof.Machine
end

section
/-! The controllers' own events (R277, R295, R301, R308, R407): refresh, regulators, patrol and self-refresh. -/

namespace Sys2Proof.Machine

/-! ### Refresh (R277, R294) -/

/-- Where the time-partitioned form lets a controller refresh or patrol, its guard is open (R407). -/
theorem window_open {s : State} {ctl : Nat} (h : s.sched.strict = false ∨ sharedCtl s ctl = false ∨ (ctlOf s ctl).window = 15) :
    (s.sched.strict && sharedCtl s ctl && (ctlOf s ctl).window != 15) = false := by
  rcases h with h | h | h <;> simp [h]

/-- The state in which the open row of one bank of a controller, by its key, has been closed, by two free values. -/
def rowClosed (s : State) (ctl key : Nat) : State :=
  modCtl { s with freeCtr := s.freeCtr + 2 } ctl (fun c => { c with rows := alDel c.rows key })

theorem ctlOf_rowClosed (s : State) (ctl key : Nat) :
    ctlOf (rowClosed s ctl key) ctl = { ctlOf s ctl with rows := alDel (ctlOf s ctl).rows key } := ctlOf_modCtl_self _ _ _

/-- Per-bank refresh closes the row of one bank. -/
theorem dramRefresh_completes {ctl pc : Nat} {s : State} (hserves : ctlServes (ctlOf s ctl) = true) (hpc : pc < 16)
    (hwindow : s.sched.strict = false ∨ sharedCtl s ctl = false ∨ (ctlOf s ctl).window = 15) :
    ∃ t bank, exec (.dramRefresh ctl pc) s = .next t ∧ bank < 64 ∧ t.mem.mem = s.mem.mem ∧
      (ctlOf t ctl).rows = alDel (ctlOf s ctl).rows (pc * 64 + bank) ∧ (ctlOf t ctl).reads = (ctlOf s ctl).reads := by
  have hexec : ∃ bank n, bank < 64 ∧
      exec (.dramRefresh ctl pc) s = completes s (ctrAdd (rowClosed s ctl (pc * 64 + bank)) (blkKey 2 ctl) 0x07 n none) := by
    refine ⟨(takeFree s).1.toNat % 64, (takeFree (takeFree s).2).1.toNat, Nat.mod_lt _ (by decide), congrArg (completes s) ?_⟩
    simp only [hserves, Nat.not_le.mpr hpc, window_open hwindow, Bool.not_true, decide_false, Bool.or_self, Bool.false_eq_true, if_false]
    rfl
  obtain ⟨bank, n, hbank, hexec⟩ := hexec
  obtain ⟨t, hstep, hmem⟩ := completes_mem s (ctrAdd (rowClosed s ctl (pc * 64 + bank)) (blkKey 2 ctl) 0x07 n none)
  rw [mem_ctrAdd] at hmem
  refine ⟨t, bank, hexec.trans hstep, hbank, ?_, ?_, ?_⟩
  · rw [hmem, rowClosed, modCtl_mem]
  · rw [ctlOf_congr hmem, ctlOf_rowClosed]
  · rw [ctlOf_congr hmem, ctlOf_rowClosed]

/-! ### Regulators (R295) -/

/-- The credits of a controller once the partitions `ps` have been refilled. -/
def refillAll (regs : AL Regulator) (ps : List (Nat × Partition)) : AL Regulator :=
  ps.foldl (fun m e => alPut m e.1 (refill (alGet {} m e.1) e.2)) regs

theorem alGet_refillAll_other {part : Nat} {ps : List (Nat × Partition)} (h : part ∉ ps.map (·.1)) (regs : AL Regulator) :
    alGet {} (refillAll regs ps) part = alGet {} regs part :=
  List.foldlRecOn (motive := fun m => alGet {} m part = alGet {} regs part) ps _ rfl fun m hm e he => by
    rw [alGet_alPut_other _ _ _ _ _ (ne_of_mem_of_not_mem (List.mem_map_of_mem he) h).symm, hm]

/-- Each partition is refilled once. -/
theorem alGet_refillAll {part : Nat} {p : Partition} {ps : List (Nat × Partition)} (hnodup : (ps.map (·.1)).Nodup)
    (hp : (part, p) ∈ ps) (regs : AL Regulator) : alGet {} (refillAll regs ps) part = refill (alGet {} regs part) p := by
  induction ps generalizing regs with
  | nil => exact nomatch hp
  | cons e r ih =>
    rw [List.map_cons, List.nodup_cons] at hnodup
    obtain ⟨hfresh, hnodup⟩ := hnodup
    change alGet {} (refillAll (alPut regs e.1 (refill (alGet {} regs e.1) e.2)) r) part = _
    rcases List.mem_cons.mp hp with rfl | hp
    · rw [alGet_refillAll_other hfresh, alGet_alPut_self]
    · have hne : part ≠ e.1 := ne_of_mem_of_not_mem (List.mem_map_of_mem hp) hfresh
      rw [ih hnodup hp, alGet_alPut_other _ _ _ _ _ hne]

/-- Every controller of a SHARED set refills the partitions that are regulated there. -/
def refilled (s : State) : State :=
  { s with
    mem.refills := s.mem.refills + 1
    mem.ctls := alMap s.mem.ctls (fun h c =>
      if sharedCtl s h then { c with regs := refillAll c.regs (s.sched.parts.filter (fun e => !e.2.dedicated)) } else c) }

theorem ctlOf_refilled {s : State} {h : Nat} {c : Ctl} (hc : alFind s.mem.ctls h = some c) (hshared : sharedCtl s h = true) :
    ctlOf (refilled s) h = { c with regs := refillAll c.regs (s.sched.parts.filter (fun e => !e.2.dedicated)) } :=
  ctlOf_of_alFind (by rw [refilled, alFind_alMap, hc, Option.map_some, if_pos hshared])

/-- A regulator gains its rate up to its burst. -/
theorem regulatorRefill_completes {h part : Nat} {s : State} {c : Ctl} {p : Partition} (hstrict : s.sched.strict = false)
    (htime : 600 * (s.mem.refills + 1) ≤ rootCycles s) (hc : alFind s.mem.ctls h = some c) (hshared : sharedCtl s h = true)
    (hp : alFind s.sched.parts part = some p) (hded : p.dedicated = false) (hnodup : (s.sched.parts.map (·.1)).Nodup) :
    ∃ t, exec .regulatorRefill s = .next t ∧ t.mem.mem = s.mem.mem ∧ t.cores = s.cores ∧ t.mem.refills = s.mem.refills + 1 ∧
      creditOf (ctlOf t h) part false = min (p.burst : Int) (creditOf c part false + p.rate) ∧
      creditOf (ctlOf t h) part true = min (p.rtBurst : Int) (creditOf c part true + p.rtRate) := by
  have hexec : exec .regulatorRefill s = completes s (refilled s) := by
    refine congrArg (completes s) ?_
    simp only [hstrict, Nat.not_lt.mpr htime, decide_false, Bool.or_self, Bool.false_eq_true, if_false]
    rfl
  have hmem : (part, p) ∈ s.sched.parts.filter (fun e => !e.2.dedicated) :=
    List.mem_filter.mpr ⟨mem_of_alFind hp, by simp [hded]⟩
  have hregs : alGet {} (ctlOf (refilled s) h).regs part = refill (alGet {} c.regs part) p := by
    rw [ctlOf_refilled hc hshared]
    exact alGet_refillAll (hnodup.sublist (List.filter_sublist.map _)) hmem c.regs
  refine ⟨_, hexec, rfl, rfl, rfl, ?_, ?_⟩
  · change creditOf (ctlOf (refilled s) h) part false = _
    simp [creditOf, hregs, refill]
  · change creditOf (ctlOf (refilled s) h) part true = _
    simp [creditOf, hregs, refill]

/-! ### Patrol (R301) -/

/-- The state in which a controller's patrol has moved on by one run. -/
def patrolMoved (s : State) (ctl : Nat) : State :=
  modCtl s ctl (fun c => { c with patrol := ((ctlOf s ctl).patrol + 4) % 2 ^ 28 })

/-- Patrol moves on; a run that is in use is read, which is bookkeeping where its sectors are clean. -/
theorem exec_patrolRead {ctl : Nat} {ecc : EccIn} {s : State} (hserves : ctlServes (ctlOf s ctl) = true)
    (hreads : readsLeft (ctlOf s ctl) = []) (hown : ∀ w ∈ (ctlOf s ctl).writes, w.own = true) (hecc : CleanRun ecc) (hs : Covered s)
    (hwindow : s.sched.strict = false ∨ sharedCtl s ctl = false ∨ (ctlOf s ctl).window = 15) :
    ∃ u, exec (.patrolRead ctl ecc) s = completes s u ∧ Paced (patrolMoved s ctl) u := by
  have honly : onlyOwn (ctlOf s ctl) = true := by simpa [onlyOwn, hreads] using hown
  have hcov : Covered (patrolMoved s ctl) := fun k p => by
    rw [patrolMoved, ctlOf_modCtl]
    split
    · exact hs ctl p
    · exact hs k p
  have hread (p : Place) (k pa : Nat) : Paced (patrolMoved s ctl)
      (eccRun (bump (ctrAdd (memBump (openRow (patrolMoved s ctl) ctl p 64) pf 0x50200 1) k 0x02 1 none) pf 0x50238 4) pa ecc true) :=
    have hbegun := (paced_openRow (patrolMoved s ctl) ctl p 64).trans <| (paced_memBump _ pf 0x50200 1).trans <|
      (paced_ctrAdd _ k 0x02 1 none).trans (onlyHostSide_bump _ pf 0x50238 4).paced
    hbegun.trans (paced_eccRun_clean (hbegun.covered hcov) hecc pa true)
  refine ⟨_, congrArg (completes s) rfl, ?_⟩
  simp only [hserves, honly, window_open hwindow, Bool.not_true, Bool.or_self, Bool.false_eq_true, if_false]
  split
  · exact .refl _
  · exact .ite (.refl _) (hread _ _ _)

/-- Patrol with no request of another waiting moves on by one run of four sectors. -/
theorem patrolRead_completes {ctl : Nat} {ecc : EccIn} {s : State} (hserves : ctlServes (ctlOf s ctl) = true)
    (hreads : readsLeft (ctlOf s ctl) = []) (hown : ∀ w ∈ (ctlOf s ctl).writes, w.own = true) (hecc : CleanRun ecc) (hs : Covered s)
    (hwindow : s.sched.strict = false ∨ sharedCtl s ctl = false ∨ (ctlOf s ctl).window = 15) :
    ∃ t, exec (.patrolRead ctl ecc) s = .next t ∧ t.mem.mem = s.mem.mem ∧
      (ctlOf t ctl).patrol = ((ctlOf s ctl).patrol + 4) % 2 ^ 28 ∧ (ctlOf t ctl).writes = (ctlOf s ctl).writes := by
  obtain ⟨u, hexec, hmoved⟩ := exec_patrolRead hserves hreads hown hecc hs hwindow
  obtain ⟨t, hstep, hmem⟩ := completes_mem s u
  have hctl : ctlOf (patrolMoved s ctl) ctl = { ctlOf s ctl with patrol := ((ctlOf s ctl).patrol + 4) % 2 ^ 28 } :=
    ctlOf_modCtl_self _ _ _
  refine ⟨t, hexec.trans hstep, ?_, ?_, ?_⟩
  · rw [hmem, hmoved.cells, patrolMoved, modCtl_mem]
  · rw [ctlOf_congr hmem, hmoved.patrol, hctl]
  · rw [ctlOf_congr hmem, hmoved.writes, hctl]

/-! ### Self-refresh (R308) -/

/-- A controller with nothing queued for 100 µs enters self-refresh. -/
theorem mcRetentionEnter_completes {ctl : Nat} {s : State} (hserves : ctlServes (ctlOf s ctl) = true)
    (hreads : readsLeft (ctlOf s ctl) = []) (hwrites : (ctlOf s ctl).writes = []) (htime : (ctlOf s ctl).lastUse + 10000 ≤ s.time) :
    ∃ t, exec (.mcRetentionEnter ctl) s = .next t ∧ t.mem.mem = s.mem.mem ∧
      ctlOf t ctl = { ctlOf s ctl with st := .retention, rows := [] } := by
  have hexec : exec (.mcRetentionEnter ctl) s = completes s (modCtl s ctl (fun c => { c with st := .retention, rows := [] })) := by
    refine congrArg (completes s) ?_
    simp only [hserves, hreads, hwrites, htime, List.isEmpty_nil, decide_true, Bool.and_self, if_true]
  obtain ⟨t, hstep, hmem⟩ := completes_mem s (modCtl s ctl (fun c => { c with st := .retention, rows := [] }))
  exact ⟨t, hexec.trans hstep, (congrArg MemSys.mem hmem :), (ctlOf_congr hmem ctl).trans (ctlOf_modCtl_self _ _ _)⟩

/-- Settles O43, one event after the other. -/
theorem controllersKeepTime : Obligations.ControllersKeepTime :=
  ⟨fun _ _ _ hserves hpc hwindow => dramRefresh_completes hserves hpc hwindow,
    fun _ _ _ _ _ hstrict htime hc hshared hp hded hnodup => regulatorRefill_completes hstrict htime hc hshared hp hded hnodup,
    fun _ _ _ hstrict htime hc => memoryWindowBoundary_completes hstrict htime hc,
    fun _ _ _ hserves hreads hown hecc hs hwindow => patrolRead_completes hserves hreads hown hecc hs hwindow,
    fun _ _ hserves hreads hwrites htime => mcRetentionEnter_completes hserves hreads hwrites htime⟩

end Sys2Proof.Machine
end
